-- ==== Sys2Proof/Machine/Float.lean ====
section
/-! DEFINITION. Floating-point formats, exact values, rounding, flags, the operations of the vector units and the
conversions, all on natural numbers (R171 to R195, R276 to R286). A value is exact; one rounding makes the result. -/

namespace Sys2Proof.Machine

/-- A floating-point format (Table 5-2): exponent and fraction widths, bias, whether it has infinities, and its NaN
codes: 0 none, 1 the code of all ones, 2 as IEEE 754. -/
structure Fmt where
  e : Nat
  m : Nat
  bias : Nat
  inf : Bool
  nan : Nat
  deriving DecidableEq, Repr

def fF32 : Fmt := { e := 8, m := 23, bias := 127, inf := true, nan := 2 }
def fF19 : Fmt := { e := 8, m := 10, bias := 127, inf := true, nan := 2 }
def fBF16 : Fmt := { e := 8, m := 7, bias := 127, inf := true, nan := 2 }
def fF16 : Fmt := { e := 5, m := 10, bias := 15, inf := true, nan := 2 }
def fE5M2 : Fmt := { e := 5, m := 2, bias := 15, inf := true, nan := 2 }
def fE4M3 : Fmt := { e := 4, m := 3, bias := 7, inf := false, nan := 1 }
def fE3M4 : Fmt := { e := 3, m := 4, bias := 3, inf := false, nan := 1 }
def fE3M2 : Fmt := { e := 3, m := 2, bias := 3, inf := false, nan := 0 }
def fE2M3 : Fmt := { e := 2, m := 3, bias := 1, inf := false, nan := 0 }
def fE2M1 : Fmt := { e := 2, m := 1, bias := 1, inf := false, nan := 0 }

/-- An element's value: a NaN with its fraction aligned to 23 bits, an infinity, or (-1)^neg x m x 2^e. -/
inductive FVal where
  | nan (neg : Bool) (frac : Nat) (sig : Bool)
  | inf (neg : Bool)
  | fin (neg : Bool) (m : Nat) (e : Int)
  deriving DecidableEq, Repr

/-- The bits above the sign of a code. -/
def Fmt.sign (f : Fmt) (x : Nat) : Bool := x.testBit (f.e + f.m)

/-- The value of a code (R172, R173). -/
def Fmt.decode (f : Fmt) (x : Nat) : FVal :=
  let s := f.sign x
  let ex := (x >>> f.m) % 2 ^ f.e
  let fr := x % 2 ^ f.m
  let top := 2 ^ f.e - 1
  if f.nan = 2 ∧ ex = top then
    if fr = 0 then .inf s else .nan s (fr <<< (23 - f.m)) (!fr.testBit (f.m - 1))
  else if f.nan = 1 ∧ ex = top ∧ fr = 2 ^ f.m - 1 then .nan s (fr <<< (23 - f.m)) false
  else if ex = 0 then .fin s fr (1 - (f.bias : Int) - f.m)
  else .fin s (2 ^ f.m + fr) ((ex : Int) - f.bias - f.m)

/-- The code of the largest finite value. -/
def Fmt.maxCode (f : Fmt) : Nat :=
  match f.nan with
  | 2 => (2 ^ f.e - 1) * 2 ^ f.m - 1
  | 1 => 2 ^ (f.e + f.m) - 2
  | _ => 2 ^ (f.e + f.m) - 1

/-- A code with a sign. -/
def Fmt.withSign (f : Fmt) (neg : Bool) (x : Nat) : Nat := if neg then 2 ^ (f.e + f.m) + x else x

/-- The code of infinity. -/
def Fmt.infCode (f : Fmt) (neg : Bool) : Nat := f.withSign neg ((2 ^ f.e - 1) * 2 ^ f.m)

/-- The canonical NaN (R173). -/
def Fmt.canon (f : Fmt) : Nat :=
  if f.nan = 2 then (2 ^ f.e - 1) * 2 ^ f.m + 2 ^ (f.m - 1) else 2 ^ (f.e + f.m) - 1

/-- A NaN carried into a format: sign kept, the leading fraction bits that fit, quieted (R188, R191). -/
def Fmt.nanCode (f : Fmt) (neg : Bool) (frac : Nat) : Nat :=
  if f.nan = 2 then f.withSign neg ((2 ^ f.e - 1) * 2 ^ f.m + ((frac >>> (23 - f.m)) ||| 2 ^ (f.m - 1)))
  else f.withSign neg (2 ^ (f.e + f.m) - 1)

/-! ### Flags, as FPCTL[4:0] -/

def flNV : Nat := 1
def flDZ : Nat := 2
def flOF : Nat := 4
def flUF : Nat := 8
def flNX : Nat := 16

/-- The larger or smaller finite result of an overflow (R187). -/
def Fmt.overflow (f : Fmt) (md : Nat) (neg : Bool) : Nat :=
  if f.inf ∧ (md = 0 ∨ md = 4 ∨ md = 5 ∨ (md = 2 ∧ neg) ∨ (md = 3 ∧ !neg)) then f.infCode neg
  else f.withSign neg f.maxCode

/-- Whether a magnitude t + rem/2^k (and a little more when `st`) is rounded away from zero (R186, R189). -/
def roundUp (md : Nat) (neg : Bool) (r t rem k : Nat) (st : Bool) : Bool :=
  let x2 := 2 * rem
  match md with
  | 0 => decide (2 ^ k < x2) || (x2 == 2 ^ k && (st || t % 2 == 1))
  | 1 => false
  | 2 => neg && (rem != 0 || st)
  | 3 => !neg && (rem != 0 || st)
  | 4 => decide (2 ^ k ≤ x2)
  | _ => decide (2 ^ 32 ≤ rem * 2 ^ 32 / 2 ^ k + r)

/-- A magnitude m x 2^e (and a little more when `st`) rounded to a multiple of 2^q: the multiple, and inexactness. -/
def roundAt (md : Nat) (neg : Bool) (r m : Nat) (e q : Int) (st : Bool) : Nat × Bool :=
  if q ≤ e then (m <<< (e - q).toNat, st)
  else
    let k := (q - e).toNat
    let t := m >>> k
    let rem := m % 2 ^ k
    (if roundUp md neg r t rem k st then t + 1 else t, rem != 0 || st)

/-- Round (R186, R187, R194): code and flags of a non-zero magnitude. -/
def Fmt.round (f : Fmt) (md : Nat) (r : Nat) (neg : Bool) (m : Nat) (e : Int) (st : Bool) : Nat × Nat :=
  let E : Int := (Nat.log2 m : Int) + e
  let emin : Int := 1 - f.bias
  let q := max E emin - f.m
  let (t, nx) := roundAt md neg r m e q st
  let eb := q + f.m + f.bias
  let code := (eb - 1).toNat * 2 ^ f.m + t
  if f.maxCode < code then (f.overflow md neg, flOF ||| flNX)
  else
    let tiny := decide (E < emin) && decide (((roundAt md neg r m e (E - f.m) st).1 : Int) < 2 ^ (emin - E + f.m).toNat)
    (f.withSign neg code, (if nx then flNX else 0) ||| (if nx && tiny then flUF else 0))

/-- The code of a finite value: zero keeps its sign. -/
def Fmt.ofFin (f : Fmt) (md r : Nat) (neg : Bool) (m : Nat) (e : Int) : Nat × Nat :=
  if m = 0 then (f.withSign neg 0, 0) else f.round md r neg m e false

/-! ### NaN operands (R188) -/

/-- The first NaN among operands in source order, quieted, and NV for a signalling one. -/
def firstNan (f : Fmt) : List FVal → Option (Nat × Nat)
  | [] => none
  | .nan n fr sg :: r =>
    let later := match firstNan f r with
      | some (_, fl) => fl
      | none => 0
    some (f.nanCode n fr, (if sg then flNV else 0) ||| later)
  | _ :: r => firstNan f r

/-- A value negated; a NaN is left alone. -/
def FVal.neg : FVal → FVal
  | .inf n => .inf (!n)
  | .fin n m e => .fin (!n) m e
  | v => v

/-! ### Sums -/

/-- A signed integer of a magnitude. -/
def sgn (n : Bool) (m : Nat) : Int := if n then -(m : Int) else m

/-- Round of the exact sum of two finite values (R186). -/
def sumFin (f : Fmt) (md : Nat) (na : Bool) (ma : Nat) (ea : Int) (nb : Bool) (mb : Nat) (eb : Int) : Nat × Nat :=
  let e := min ea eb
  let v := sgn na (ma <<< (ea - e).toNat) + sgn nb (mb <<< (eb - e).toNat)
  if v = 0 then
    let neg := if ma = 0 ∧ mb = 0 ∧ na = nb then na else md == 2
    (f.withSign neg 0, 0)
  else f.round md 0 (v < 0) v.natAbs e false

/-- Round of a sum of two values that are no NaN. -/
def sumVal (f : Fmt) (md : Nat) (a b : FVal) : Nat × Nat :=
  match a, b with
  | .inf x, .inf y => if x = y then (f.infCode x, 0) else (f.canon, flNV)
  | .inf x, _ => (f.infCode x, 0)
  | _, .inf y => (f.infCode y, 0)
  | .fin na ma ea, .fin nb mb eb => sumFin f md na ma ea nb mb eb
  | _, _ => (f.canon, 0)

/-- The exact product of two values, or none for 0 x infinity (R188). -/
def mulVal (a b : FVal) : Option FVal :=
  match a, b with
  | .fin na ma ea, .fin nb mb eb => some (.fin (na != nb) (ma * mb) (ea + eb))
  | .inf x, .inf y => some (.inf (x != y))
  | .inf x, .fin n m _ => if m = 0 then none else some (.inf (x != n))
  | .fin n m _, .inf y => if m = 0 then none else some (.inf (n != y))
  | _, _ => none

/-! ### The operations of Table 8-4; the mode is never SR here (R277) -/

/-- a + b. -/
def fAdd (f : Fmt) (md a b : Nat) : Nat × Nat :=
  let x := f.decode a
  let y := f.decode b
  (firstNan f [x, y]).getD (sumVal f md x y)

/-- a - b. -/
def fSub (f : Fmt) (md a b : Nat) : Nat × Nat :=
  let x := f.decode a
  let y := f.decode b
  (firstNan f [x, y]).getD (sumVal f md x y.neg)

/-- A value rounded. -/
def valRound (f : Fmt) (md r : Nat) : FVal → Nat × Nat
  | .nan n fr sg => (f.nanCode n fr, if sg then flNV else 0)
  | .inf n => (f.infCode n, 0)
  | .fin n m e => f.ofFin md r n m e

/-- a x b. -/
def fMul (f : Fmt) (md a b : Nat) : Nat × Nat :=
  let x := f.decode a
  let y := f.decode b
  (firstNan f [x, y]).getD
    (match mulVal x y with
     | none => (f.canon, flNV)
     | some v => valRound f md 0 v)

/-- (+-)(a x b) (+-) c rounded once; 0 x infinity raises NV also beside a NaN addend (Table 8-5). -/
def fFma (f : Fmt) (md a b c : Nat) (negP negC : Bool) : Nat × Nat :=
  let x := f.decode a
  let y := f.decode b
  let z := f.decode c
  let isNan : FVal → Bool := fun v => match v with
    | .nan _ _ _ => true
    | _ => false
  let bad := !isNan x && !isNan y && (mulVal x y).isNone
  match firstNan f [x, y, z] with
  | some (r, fl) => (r, fl ||| (if bad then flNV else 0))
  | none =>
    match mulVal x y with
    | none => (f.canon, flNV)
    | some p => sumVal f md (if negP then p.neg else p) (if negC then z.neg else z)

/-- a / b. -/
def fDiv (f : Fmt) (md a b : Nat) : Nat × Nat :=
  let x := f.decode a
  let y := f.decode b
  (firstNan f [x, y]).getD
    (match x, y with
     | .inf _, .inf _ => (f.canon, flNV)
     | .inf n, .fin k _ _ => (f.infCode (n != k), 0)
     | .fin n _ _, .inf k => (f.withSign (n != k) 0, 0)
     | .fin n m e, .fin k d g =>
       if d = 0 then (if m = 0 then (f.canon, flNV) else (f.infCode (n != k), flDZ))
       else if m = 0 then (f.withSign (n != k) 0, 0)
       else
         let sh := 80 + Nat.log2 d
         f.round md 0 (n != k) ((m <<< sh) / d) (e - g - sh) ((m <<< sh) % d != 0)
     | _, _ => (f.canon, 0))

/-- Integer square root, bit by bit from bit `k` down. -/
def isqrt : Nat → Nat → Nat → Nat
  | 0, _, r => r
  | k + 1, n, r =>
    let t := r + 2 ^ k
    isqrt k n (if t * t ≤ n then t else r)

/-- √a. -/
def fSqrt (f : Fmt) (md a : Nat) : Nat × Nat :=
  let x := f.decode a
  (firstNan f [x]).getD
    (match x with
     | .inf n => if n then (f.canon, flNV) else (f.infCode false, 0)
     | .fin n m e =>
       if m = 0 then (f.withSign n 0, 0)
       else if n then (f.canon, flNV)
       else
         let odd := (e % 2 + 2) % 2
         let m' := (m <<< odd.toNat) <<< 120
         let r := isqrt 80 m' 0
         f.round md 0 false r ((e - odd) / 2 - 60) (r * r != m')
     | _ => (f.canon, 0))

/-- 1 / a. -/
def fRcp (f : Fmt) (md a : Nat) : Nat × Nat :=
  let x := f.decode a
  (firstNan f [x]).getD
    (match x with
     | .inf n => (f.withSign n 0, 0)
     | .fin n m e =>
       if m = 0 then (f.infCode n, flDZ)
       else
         let sh := 80 + Nat.log2 m
         f.round md 0 n (2 ^ sh / m) (-e - sh) (2 ^ sh % m != 0)
     | _ => (f.canon, 0))

/-- 1 / √a. -/
def fRsq (f : Fmt) (md a : Nat) : Nat × Nat :=
  let x := f.decode a
  (firstNan f [x]).getD
    (match x with
     | .inf n => if n then (f.canon, flNV) else (f.withSign false 0, 0)
     | .fin n m e =>
       if m = 0 then (f.infCode n, flDZ)
       else if n then (f.canon, flNV)
       else
         let odd := (e % 2 + 2) % 2
         let m' := m <<< odd.toNat
         let r := isqrt 102 (2 ^ 200 / m') 0
         f.round md 0 false r (-((e - odd) / 2) - 100) (r * r * m' != 2 ^ 200)
     | _ => (f.canon, 0))

/-- ln 2 x 2^256. -/
def ln2Fix : Nat := 80260960185991308862233904206310070533990667611589946606122867505419956976171

/-- Terms of e^x from the n-th, x and terms with 256 fraction bits. -/
def expTerms : Nat → Nat → Nat → Nat → Nat
  | 0, _, _, _ => 0
  | k + 1, x, n, t => t + expTerms k x (n + 1) (t * x / 2 ^ 256 / (n + 1))

/-- 2^a: exact for an integer a, else irrational; the fixed-point value has more than 200 correct bits
(notes/assumptions/14.md). -/
def fExp2 (f : Fmt) (md a : Nat) : Nat × Nat :=
  let x := f.decode a
  (firstNan f [x]).getD
    (match x with
     | .inf n => if n then (f.withSign false 0, 0) else (f.infCode false, 0)
     | .fin n m e =>
       if m = 0 then f.round md 0 false 1 0 false
       else if 12 < (Nat.log2 m : Int) + e then f.round md 0 false 1 (if n then -2000 else 2000) true
       else
         let v : Int := sgn n (m <<< (e + 256).toNat)
         let k := v / 2 ^ 256
         let fr := (v % 2 ^ 256).toNat
         if fr = 0 then f.round md 0 false 1 k false
         else f.round md 0 false (expTerms 70 (fr * ln2Fix / 2 ^ 256) 0 (2 ^ 256)) (k - 256) true
     | _ => (f.canon, 0))

/-- Terms z^(2i+1)/(2i+1) from the i-th; 256 fraction bits. -/
def atanhTerms : Nat → Nat → Nat → Nat → Nat
  | 0, _, _, _ => 0
  | k + 1, z2, i, t => t / (2 * i + 1) + atanhTerms k z2 (i + 1) (t * z2 / 2 ^ 256)

/-- log2(a): exact for a power of two, else irrational (notes/assumptions/14.md). -/
def fLog2 (f : Fmt) (md a : Nat) : Nat × Nat :=
  let x := f.decode a
  (firstNan f [x]).getD
    (match x with
     | .inf n => if n then (f.canon, flNV) else (f.infCode false, 0)
     | .fin n m e =>
       if m = 0 then (f.infCode true, flDZ)
       else if n then (f.canon, flNV)
       else
         let l := Nat.log2 m
         let E : Int := l + e
         if m = 2 ^ l then f.ofFin md 0 (E < 0) E.natAbs 0
         else
           let z := ((m - 2 ^ l) <<< 256) / (m + 2 ^ l)
           let ln := 2 * atanhTerms 90 (z * z / 2 ^ 256) 0 z
           let v : Int := E * 2 ^ 256 + (ln <<< 256) / ln2Fix
           f.round md 0 (v < 0) v.natAbs (-256) true
     | _ => (f.canon, 0))

/-- A key that orders codes of a format that are no NaN, -0 below +0 (R279). -/
def Fmt.key (f : Fmt) (x : Nat) : Int :=
  if f.sign x then -((x % 2 ^ (f.e + f.m) : Nat) : Int) - 1 else x

/-- vfmin (`mx` false) and vfmax (R279). -/
def fMinMax (f : Fmt) (mx : Bool) (a b : Nat) : Nat × Nat :=
  let sg : FVal → Nat := fun v => match v with
    | .nan _ _ true => flNV
    | _ => 0
  let fl := sg (f.decode a) ||| sg (f.decode b)
  match f.decode a, f.decode b with
  | .nan n fr _, .nan _ _ _ => (f.nanCode n fr, fl)
  | .nan _ _ _, _ => (b, fl)
  | _, .nan _ _ _ => (a, fl)
  | _, _ => if (f.key a ≤ f.key b) != mx then (a, fl) else (b, fl)

/-- vfabs (R280). -/
def fAbs (f : Fmt) (a : Nat) : Nat × Nat := (a % 2 ^ (f.e + f.m), 0)
/-- vfneg (R280). -/
def fNeg (f : Fmt) (a : Nat) : Nat × Nat := (a ^^^ 2 ^ (f.e + f.m), 0)

/-- How two F32 codes compare: none when one is NaN, with NV by the kind of NaN (R265). -/
def fCmp (a b : Nat) : Option Ordering × Bool × Bool :=
  let x := fF32.decode a
  let y := fF32.decode b
  let isNan : FVal → Bool := fun v => match v with
    | .nan _ _ _ => true
    | _ => false
  let isSig : FVal → Bool := fun v => match v with
    | .nan _ _ s => s
    | _ => false
  if isNan x || isNan y then (none, true, isSig x || isSig y)
  else
    let zero (c : Nat) : Int := if c % 2 ^ 31 = 0 then 0 else fF32.key c
    (some (compare (zero a) (zero b)), false, false)

/-! ### Conversions (R189, R191 to R193, R283 to R286) -/

/-- The random word of R189. -/
def srWord (seed srctr l e : Nat) : Nat :=
  let w (x : Nat) := x % 2 ^ 64
  let c := w (srctr * 64 + e)
  let z := seed ^^^ w (l * 0x9E3779B97F4A7C15) ^^^ w (c * 0xD1B54A32D192ED03)
  let z := w ((z ^^^ (z >>> 30)) * 0xBF58476D1CE4E5B9)
  let z := w ((z ^^^ (z >>> 27)) * 0x94D049BB133111EB)
  (z ^^^ (z >>> 31)) >>> 32

/-- A conversion format: a float format with its position in the slot, or an integer of a width. -/
inductive CFmt where
  | flt (f : Fmt) (w sh : Nat)
  | int (w : Nat) (signed : Bool)
  deriving DecidableEq, Repr

/-- The conversion format of a code (Table 5-4, R224); none for a code of neither use. -/
def cfmt (c : Nat) : Option CFmt :=
  match c with
  | 0 => some (.flt fF32 32 0)
  | 1 => some (.flt fF19 32 13)
  | 2 => some (.flt fBF16 16 0)
  | 3 => some (.flt fF16 16 0)
  | 4 => some (.flt fE5M2 8 0)
  | 5 => some (.flt fE4M3 8 0)
  | 6 => some (.flt fE3M4 8 0)
  | 7 => some (.flt fE3M2 8 0)
  | 8 => some (.flt fE2M3 8 0)
  | 9 => some (.flt fE2M1 4 0)
  | 10 => some (.int 8 true)
  | 11 => some (.int 8 false)
  | 12 => some (.int 4 true)
  | 13 => some (.int 4 false)
  | 14 => some (.int 2 true)
  | 16 => some (.int 32 true)
  | 17 => some (.int 32 false)
  | 18 => some (.int 16 true)
  | 19 => some (.int 16 false)
  | _ => none

/-- The slot width of a conversion format (Table 8-6). -/
def CFmt.width : CFmt → Nat
  | .flt _ w _ => w
  | .int w _ => w

/-- The signed value of the low w bits. -/
def sext (w x : Nat) : Int := if (x % 2 ^ w).testBit (w - 1) then (x % 2 ^ w : Nat) - 2 ^ w else (x % 2 ^ w : Nat)

/-- The value of an element. -/
def CFmt.read (c : CFmt) (x : Nat) : FVal :=
  match c with
  | .flt f _ sh => f.decode ((x >>> sh) % 2 ^ (1 + f.e + f.m))
  | .int w s =>
    let v : Int := if s then sext w x else (x % 2 ^ w : Nat)
    .fin (v < 0) v.natAbs 0

/-- The range of an integer format. -/
def intLo (w : Nat) (s : Bool) : Int := if s then -(2 ^ (w - 1) : Nat) else 0
/-- The largest value of an integer format. -/
def intHi (w : Nat) (s : Bool) : Int := if s then (2 ^ (w - 1) : Nat) - 1 else (2 ^ w : Nat) - 1

/-- A value rounded to an integer in [lo, hi] (R192): integer and flags. -/
def toIntR (lo hi : Int) (md r : Nat) : FVal → Int × Nat
  | .nan _ _ _ => (0, flNV)
  | .inf n => (if n then lo else hi, flNV)
  | .fin n m e =>
    let (t, nx) := roundAt md n r m e 0 false
    let v := sgn n t
    if v < lo then (lo, flNV) else if hi < v then (hi, flNV) else (v, if nx then flNX else 0)

/-- A value converted to a float format (R191): a target without NaN makes it +0 with NV, one without infinity takes
the largest finite value with OF. -/
def toFlt (f : Fmt) (md r : Nat) : FVal → Nat × Nat
  | .nan n fr sg => if f.nan = 0 then (0, flNV) else (f.nanCode n fr, if sg then flNV else 0)
  | .inf n => if f.inf then (f.infCode n, 0) else (f.withSign n f.maxCode, flOF ||| flNX)
  | .fin n m e => f.ofFin md r n m e

/-- Cvt (R286): the slot of the destination element, and flags. -/
def cvt (src dst : CFmt) (md r x : Nat) : Nat × Nat :=
  match dst with
  | .flt f _ sh =>
    let (c, fl) := toFlt f md r (src.read x)
    (c <<< sh, fl)
  | .int w s =>
    let (v, fl) := toIntR (intLo w s) (intHi w s) md r (src.read x)
    ((v % 2 ^ w).toNat, fl)

end Sys2Proof.Machine
end

