-- ==== Sys2Proof/Word.lean ====
section
/-! DEFINITION. The word types of the J9 (R4): byte, half, word, doubleword, and the masks of 1,024 lanes (R17). -/

namespace Sys2Proof

/-- Byte, 8 bits (R4). -/
abbrev Byte := BitVec 8
/-- Word, 32 bits (R4): an instruction word, a lane of a vector register. -/
abbrev Wd := BitVec 32
/-- Doubleword, 64 bits (R4): a scalar register. -/
abbrev Dw := BitVec 64
/-- One bit a lane, lanes 0 to 1,023 (R17). -/
abbrev Mask := BitVec 1024
/-- A line of 128 bytes (R4), byte i at bits [8i+7:8i] (R5). -/
abbrev Line := BitVec 1024
/-- A scalar register number (R69). -/
abbrev SReg := BitVec 6
/-- A vector register number (R69). -/
abbrev VReg := BitVec 7
/-- A predicate register number (R69). -/
abbrev PReg := BitVec 4
/-- An accumulator tile number (R69). -/
abbrev TReg := BitVec 3

end Sys2Proof
end

