-- ==== Sys2Proof/Syntax.lean ====
section
/-! DEFINITION. The instructions and the machine events of the J9: one constructor of `Instr` per row of
spec/opcode_table.json. Register fields hold the register numbers of Table 6-3; a prefix (Table 6-4) appears as the
operand it supplies (IMM: immediate or displacement; OPX: third source, data operand, scope; MSK: `Msk`; FMT: rounding
mode and formats). The rows without an encoding are events of the machine; their arguments name what they act on. -/

namespace Sys2Proof

/-- An MSK prefix (R223): predicate, zeroing, negation. -/
structure Msk where
  p : PReg
  z : Bool
  n : Bool
  deriving DecidableEq, Repr

/-- The immediate of major 4 (R218, R256): IMM8, or the 32-bit value of an IMM prefix. -/
inductive Imm where
  | short (i : BitVec 8)
  | long (i : Wd)
  deriving DecidableEq, Repr

/-- A branch offset (R240): OFF15, or the 32-bit value of an IMM prefix. -/
inductive Off15 where
  | short (o : BitVec 15)
  | long (o : Wd)
  deriving DecidableEq, Repr

/-- The offset of BALW (R240): OFF7, or the 32-bit value of an IMM prefix. -/
inductive Off7 where
  | short (o : BitVec 7)
  | long (o : Wd)
  deriving DecidableEq, Repr

/-- Operand b of majors 47 and 50 (R268): a scalar register, or the value of an IMM prefix. -/
inductive SOrI where
  | reg (r : SReg)
  | imm (v : Wd)
  deriving DecidableEq, Repr

/-- Operand b of VSEL (R275): a vector register (major 44), or as R268 (major 47). -/
inductive SelB where
  | vec (r : VReg)
  | sca (b : SOrI)
  deriving DecidableEq, Repr

/-- The comparand of PCMP (R264). -/
inductive CmpB where
  | vec (r : VReg)
  | sca (b : SOrI)
  deriving DecidableEq, Repr

/-- The operand type of PCMP (R264). -/
inductive CmpTy where
  | i32 | u32 | f32
  deriving DecidableEq, Repr

/-- The condition of PCMP (R264). -/
inductive Cc where
  | eq | ne | lt | le | gt | ge | un | ord
  deriving DecidableEq, Repr

/-- The element width of majors 44, 45 and 46 (R273). -/
inductive EW where
  | w32 | w16 | w8
  deriving DecidableEq, Repr

/-- The memory spaces (Table 3-1). -/
inductive Space where
  | L | C | K | H | G
  deriving DecidableEq, Repr

/-- A vector address (R301): base register, register of lane offsets, IMM displacement. -/
structure VAddr where
  sp : Space
  base : SReg
  x : VReg
  disp : Option (BitVec 26)
  deriving DecidableEq, Repr

/-- The X selector of scalar forms (R216): a register, or an offset counted in access sizes. -/
inductive XSel where
  | reg (r : SReg)
  | off (k : BitVec 6)
  deriving DecidableEq, Repr

/-- A scalar-form address (R309). -/
structure SAddr where
  sp : Space
  base : SReg
  x : XSel
  disp : Option (BitVec 26)
  deriving DecidableEq, Repr

/-- The operands of an atomic by FORM (R227): destination, address, data operand E. -/
inductive AtomOpnd where
  | vec (d : VReg) (a : VAddr) (e : VReg)
  | sca (d : SReg) (a : SAddr) (e : SReg)
  deriving DecidableEq, Repr

/-- An atomic apart from its operation (R227): operands, TYPE, ANN, SCOPE, RET, MSK. -/
structure Atom where
  o : AtomOpnd
  ty : BitVec 3
  ann : BitVec 2
  scope : BitVec 3
  ret : Bool
  m : Option Msk
  deriving DecidableEq, Repr

/-- A hardware barrier (R328): level, what it belongs to (group slot; launch and cluster; launch), number. -/
inductive BarrierKey where
  | group (g : Nat) (id : Nat)
  | cluster (launch : Nat) (cluster : Nat) (id : Nat)
  | launch (launch : Nat) (id : Nat)
  deriving DecidableEq, Repr

/-- Why a copy segment stops at a byte for a physical reason (R361, R369), or the CRC mismatches of it, 1 to 3, that a repeat
cured. -/
inductive SegErrKind where
  | checksum | dataError | linkTimeout | sealedPeer | mismatch
  | cured (n : Nat)
  deriving DecidableEq, Repr

/-- A physical failure of a copy segment at byte `b` (R361); `peer`: the member of a collective that is silent (R369). -/
structure SegError where
  b : Nat
  kind : SegErrKind
  peer : Nat := 0
  deriving DecidableEq, Repr

/-- What a computation says of a float result (R200): its class (0 zero, 1 finite and not zero, 2 infinity, 3 NaN), sign,
exponent and top six fraction bits, the last two as normalised. -/
structure FpSum where
  cls : BitVec 2
  neg : Bool
  exp : BitVec 10
  frac : BitVec 6
  deriving DecidableEq, Repr

/-- A physical failure of a tile operation after issue (Table 10-5, R356); of a shadow mismatch the result of the adder and what
its shadow computed. -/
inductive TileError where
  | linkTimeout (va : Dw)
  | dataError (va : Dw)
  | shadow (main : Wd) (x : FpSum)
  | tileError (tile : Nat)
  deriving DecidableEq, Repr

/-- What the shadow unit of a service team computed for an atomic (R483): what the unit itself computed, or something else the
first time, or the second time too. -/
inductive Shadow where
  | agree
  | once (x : FpSum)
  | twice (x y : FpSum)
  deriving DecidableEq, Repr

/-- A fabric packet (Table 18-1, R507). `crcOk` says whether the CRC (with ENC, the authentication too) is right; `zero` holds the
bits of the zero fields as received, those of offset 0x00 lowest; `mask` and `data` are the payload; `refused`: a reply that refuses the access (R496,
notes/assumptions/35.md); `bad`: the 8-byte words of a reply's line that carry an uncorrectable error (R308, R321), `silent`: the
reply to an atomic that mismatched twice (R483; notes/assumptions/89.md), `coll`: a collective engine's packet (R369, R513;
notes/assumptions/57.md). Of a packet of this module alone, and on no wire: `ctx`, the context it was formed for (R442), and `ans`, the
PSN of the read request that a reply answers (R510). -/
structure Packet where
  typ : BitVec 5
  lane : Bool
  src : Nat
  dst : Nat
  enc : Bool
  cm : Bool
  so : Bool
  psn : Wd
  aop : BitVec 4
  aty : BitVec 3
  aret : Bool
  pa : Nat
  join : BitVec 16
  rid : Wd
  mask : BitVec 128
  data : Line
  crcOk : Bool
  zero : BitVec 23 := 0
  refused : Bool := false
  bad : BitVec 16 := 0
  silent : Bool := false
  coll : Bool := false
  ctx : Option Nat := none
  ans : Option Wd := none
  deriving DecidableEq, Repr

/-- What a fault-lane message carries (R472, R408, R475); `record` tells the module of a record that another module's handler
serves that it is being served (0), no longer is (1), or that its chain escalates (2), and the module that holds the fault task of a
record that the record has been disposed of (3) (R473, R477, Table 16-8; DESIGN CHOICE, notes/assumptions/93.md). -/
inductive LaneMsg where
  | faultTask (dws : List Dw) (sealedRec : Bool) (remain : Nat)
  | taskReply (handle : Dw) (accepted : Bool)
  | request (minor : Nat) (handle : Dw) (selector : Dw) (value : Dw) (hctx : Nat) (served : Dw)
  | reply (rid : Wd) (status : Nat) (value : Dw)
  | record (handle : Dw) (what : Nat)
  deriving DecidableEq, Repr

/-- An inbound RDMA operation (R520, R521) for a queue pair: 0 write, 1 read, 2 send; the remote endpoint it comes from. -/
structure RdmaMsg where
  qp : Nat
  op : Nat
  va : Dw
  data : List Byte
  dom : Nat := 0
  mod : Nat := 0
  rqp : Nat := 0
  deriving DecidableEq, Repr

/-- A copy of the configuration record in module flash (Table 18-3): SEQ, whether the root signature is valid and whether the
identity key matches the certificate, the module and domain, the cores, packages and modules it enables, and its fence entries with
whether the signature of each is valid. -/
structure BootRecord where
  seq : Nat
  sigOk : Bool
  certOk : Bool
  modNo : Nat
  domNo : Nat
  cores : List Nat
  packages : List Nat
  modules : List Nat
  fences : List (Nat × Nat × Bool) := []
  deriving DecidableEq, Repr

/-- What bring-up finds (Table 18-3): whether each copy of the firmware verifies, the copies of the record, and the packages, planes
and scale-out ports that train. -/
structure BootConfig where
  copyA : Bool
  copyB : Bool
  records : List BootRecord
  packages : List Nat
  planes : List Nat
  soPorts : List Nat := [0, 1, 2, 3]
  deriving DecidableEq, Repr

/-- The rows of spec/opcode_table.json. -/
inductive Instr where
  /-- BR (R241): Unconditional branch to the clause header at H + 4 x offset. -/
  | br (o : Off15)
  /-- BRC_EQ (R241): Branch when the scalar register is zero. -/
  | brcEq (s : SReg) (o : Off15)
  /-- BRC_NE (R241): Branch when the scalar register is non-zero. -/
  | brcNe (s : SReg) (o : Off15)
  /-- BRC_LT (R241): Branch when the scalar register is negative as a signed 64-bit value. -/
  | brcLt (s : SReg) (o : Off15)
  /-- BRC_GE (R241): Branch when the scalar register is non-negative as a signed 64-bit value. -/
  | brcGe (s : SReg) (o : Off15)
  /-- BANY (R241): Branch when some lane has its EXEC bit and its predicate bit set. -/
  | bany (p : PReg) (o : Off15)
  /-- BNONE (R241): Branch when no lane has both its EXEC bit and its predicate bit set. -/
  | bnone (p : PReg) (o : Off15)
  /-- BALW (R243): Branch when the send allowance for module s(S) is at least THR, without waiting. -/
  | balw (s : SReg) (t : BitVec 8) (o : Off7)
  /-- CALL (R244): Write the return clause address into s61 and transfer to the target. -/
  | call (o : Off15)
  /-- NOP (R250): Occupy one issue slot with no effect. -/
  | nop
  /-- EXIT (R247): End the team: it arrives at no barrier, its VCNT goes to the pool, and its asynchronous work continues. -/
  | exit
  /-- YLD (R249): Give the team's next clause the youngest age when this clause completes. -/
  | yld
  /-- RET (R246): Transfer to the byte address held in the register, hinting a return. -/
  | ret (a : SReg)
  /-- CALLR (R246): Write s61 with the return address and transfer through a register. -/
  | callr (a : SReg)
  /-- BRR (R246): Transfer to the byte address held in a register. -/
  | brr (a : SReg)
  /-- TRAP (R251): Park the team at the TRAP with illegal-encoding, detail trap and code n. -/
  | trap (n : BitVec 7)
  /-- PDIS (R252): Disable pre-emption and start the disable-budget count. -/
  | pdis
  /-- PEN (R252): Enable pre-emption and end the disable-budget count. -/
  | pen
  /-- ICINV (R253): Wait for earlier writes to the range, then remove its lines from the instruction caches in the scope. -/
  | icinv (c : BitVec 3) (a : SReg) (b : SReg)
  /-- ADD (R255): s(D) := a + b modulo 2^64. -/
  | add (d : SReg) (a : SReg) (b : SReg)
  /-- SUB (R255): s(D) := a − b modulo 2^64. -/
  | sub (d : SReg) (a : SReg) (b : SReg)
  /-- MUL (R255): s(D) := low 64 bits of a x b. -/
  | mul (d : SReg) (a : SReg) (b : SReg)
  /-- MULHS (R255): s(D) := high 64 bits of the signed product. -/
  | mulhs (d : SReg) (a : SReg) (b : SReg)
  /-- MULHU (R255): s(D) := high 64 bits of the unsigned product. -/
  | mulhu (d : SReg) (a : SReg) (b : SReg)
  /-- DIV (R255): s(D) := signed quotient truncated toward zero, with fixed results for b = 0 and for overflow. -/
  | div (d : SReg) (a : SReg) (b : SReg)
  /-- DIVU (R255): s(D) := unsigned quotient; b = 0 gives 2^64 − 1. -/
  | divu (d : SReg) (a : SReg) (b : SReg)
  /-- REM (R255): s(D) := signed remainder. -/
  | rem (d : SReg) (a : SReg) (b : SReg)
  /-- REMU (R255): s(D) := unsigned remainder. -/
  | remu (d : SReg) (a : SReg) (b : SReg)
  /-- AND (R255): s(D) := a AND b. -/
  | and (d : SReg) (a : SReg) (b : SReg)
  /-- OR (R255): s(D) := a OR b. -/
  | or (d : SReg) (a : SReg) (b : SReg)
  /-- XOR (R255): s(D) := a XOR b. -/
  | xor (d : SReg) (a : SReg) (b : SReg)
  /-- ANDN (R255): s(D) := a AND NOT b. -/
  | andn (d : SReg) (a : SReg) (b : SReg)
  /-- SHL (R255): s(D) := a shifted left by b[5:0]. -/
  | shl (d : SReg) (a : SReg) (b : SReg)
  /-- SHR (R255): s(D) := a shifted right logically by b[5:0]. -/
  | shr (d : SReg) (a : SReg) (b : SReg)
  /-- SAR (R255): s(D) := a shifted right arithmetically by b[5:0]. -/
  | sar (d : SReg) (a : SReg) (b : SReg)
  /-- ROL (R255): s(D) := a rotated left by b[5:0]. -/
  | rol (d : SReg) (a : SReg) (b : SReg)
  /-- MIN (R255): s(D) := signed minimum. -/
  | min (d : SReg) (a : SReg) (b : SReg)
  /-- MAX (R255): s(D) := signed maximum. -/
  | max (d : SReg) (a : SReg) (b : SReg)
  /-- MINU (R255): s(D) := unsigned minimum. -/
  | minu (d : SReg) (a : SReg) (b : SReg)
  /-- MAXU (R255): s(D) := unsigned maximum. -/
  | maxu (d : SReg) (a : SReg) (b : SReg)
  /-- SLT (R255): s(D) := 1 if a < b signed, else 0. -/
  | slt (d : SReg) (a : SReg) (b : SReg)
  /-- SLTU (R255): s(D) := 1 if a < b unsigned, else 0. -/
  | sltu (d : SReg) (a : SReg) (b : SReg)
  /-- SEQ (R255): s(D) := 1 if a == b, else 0. -/
  | seq (d : SReg) (a : SReg) (b : SReg)
  /-- CLZ (R255): s(D) := count of leading zero bits of a. -/
  | clz (d : SReg) (a : SReg)
  /-- POPC (R255): s(D) := count of one bits of a. -/
  | popc (d : SReg) (a : SReg)
  /-- ADDI (R256): s(D) := s(A) + sext(i). -/
  | addi (d : SReg) (a : SReg) (i : Imm)
  /-- MULI (R256): s(D) := s(A) x sext(i), low 64 bits. -/
  | muli (d : SReg) (a : SReg) (i : Imm)
  /-- ANDI (R256): s(D) := s(A) AND sext(i). -/
  | andi (d : SReg) (a : SReg) (i : Imm)
  /-- ORI (R256): s(D) := s(A) OR sext(i). -/
  | ori (d : SReg) (a : SReg) (i : Imm)
  /-- XORI (R256): s(D) := s(A) XOR sext(i). -/
  | xori (d : SReg) (a : SReg) (i : Imm)
  /-- SHLI (R256): s(D) := s(A) shifted left by i. -/
  | shli (d : SReg) (a : SReg) (i : BitVec 6)
  /-- SHRI (R256): s(D) := s(A) shifted right logically by i. -/
  | shri (d : SReg) (a : SReg) (i : BitVec 6)
  /-- SARI (R256): s(D) := s(A) shifted right arithmetically by i. -/
  | sari (d : SReg) (a : SReg) (i : BitVec 6)
  /-- SLTI (R256): s(D) := 1 if s(A) < sext(i) signed. -/
  | slti (d : SReg) (a : SReg) (i : Imm)
  /-- SLTUI (R256): s(D) := 1 if s(A) < sext(i) unsigned. -/
  | sltui (d : SReg) (a : SReg) (i : Imm)
  /-- SEQI (R256): s(D) := 1 if s(A) == sext(i). -/
  | seqi (d : SReg) (a : SReg) (i : Imm)
  /-- LI (R256): s(D) := sext(i). -/
  | li (d : SReg) (i : Imm)
  /-- LIH (R256): s(D) := (j << 32) OR s(A)[31:0]. -/
  | lih (d : SReg) (a : SReg) (i : Imm)
  /-- SRRD (R257): Read the special register of SRN n into s(D), zero-extended. -/
  | srrd (d : SReg) (n : BitVec 8)
  /-- SRWR (R257): Write s(A) into the special register of SRN n under its access rules. -/
  | srwr (n : BitVec 8) (a : SReg)
  /-- MSAVE (R260): Copy EXEC into the live lanes of predicate pD. -/
  | msave (d : PReg)
  /-- MRSTR (R260): EXEC := p(A) AND NOT DEAD. -/
  | mrstr (a : PReg)
  /-- MAND (R260): EXEC := EXEC AND p(A). -/
  | mand (a : PReg)
  /-- MANDN (R260): EXEC := EXEC AND NOT p(A). -/
  | mandn (a : PReg)
  /-- MOR (R260): EXEC := (EXEC OR p(A)) AND NOT DEAD. -/
  | mor (a : PReg)
  /-- MNOT (R260): EXEC := p(A) AND NOT EXEC AND NOT DEAD. -/
  | mnot (a : PReg)
  /-- MCNT (R260): s(D) := count of lanes with EXEC and p(A) set. -/
  | mcnt (d : SReg) (a : PReg)
  /-- MFIRST (R260): s(D) := lowest lane with EXEC and p(A) set, or all ones. -/
  | mfirst (d : SReg) (a : PReg)
  /-- PAND (R261): Per active lane, p(D) := p(A) AND p(B). -/
  | pand (d : PReg) (a : PReg) (b : PReg)
  /-- POR (R261): Per active lane, p(D) := p(A) OR p(B). -/
  | por (d : PReg) (a : PReg) (b : PReg)
  /-- PXOR (R261): Per active lane, p(D) := p(A) XOR p(B). -/
  | pxor (d : PReg) (a : PReg) (b : PReg)
  /-- PANDN (R261): Per active lane, p(D) := p(A) AND NOT p(B). -/
  | pandn (d : PReg) (a : PReg) (b : PReg)
  /-- PNOT (R261): Per active lane, p(D) := NOT p(A). -/
  | pnot (d : PReg) (a : PReg)
  /-- PPACK (R87): Pack c predicates from pF into each active lane of a vector register. -/
  | ppack (v : VReg) (f : PReg) (c : BitVec 3)
  /-- PUNPK (R87): Unpack bits of a vector register into c predicates from pF. -/
  | punpk (f : PReg) (v : VReg) (c : BitVec 3)
  /-- PCMP (R265): Set p(D) in each active lane from a comparison of v(A) with v(B), a scalar or an immediate. -/
  | pcmp (d : PReg) (a : VReg) (b : CmpB) (cc : Cc) (ty : CmpTy) (m : Option Msk)
  /-- LD (R302): Vector load, plain or .by, one access per active lane. -/
  | ld (y : Bool) (z : BitVec 3) (d : VReg) (a : VAddr) (m : Option Msk)
  /-- LD_ACQ (R302): Vector acquire load at a scope, behaving as .by. -/
  | ldAcq (z : BitVec 3) (sc : BitVec 3) (d : VReg) (a : VAddr) (m : Option Msk)
  /-- PF (R305): Bring the lines of the active lanes to their home L2 slices without faulting. -/
  | pf (a : VAddr) (m : Option Msk)
  /-- PF_SPEC (R305): Prefetch into the home L2 slice and the core's L1 without faulting. -/
  | pfSpec (a : VAddr) (m : Option Msk)
  /-- ST (R304): Vector store, plain or .nt, one access per active lane. -/
  | st (n : Bool) (z : BitVec 3) (a : VAddr) (d : VReg) (m : Option Msk)
  /-- ST_REL (R304): Vector release store at a scope. -/
  | stRel (z : BitVec 3) (sc : BitVec 3) (a : VAddr) (d : VReg) (m : Option Msk)
  /-- LD_SCALAR (R309): Scalar-form load made once into s(D). -/
  | ldScalar (z : BitVec 3) (d : SReg) (a : SAddr)
  /-- LD_SCALAR_ACQ (R309): Scalar-form acquire load at a scope. -/
  | ldScalarAcq (z : BitVec 3) (sc : BitVec 3) (d : SReg) (a : SAddr)
  /-- ST_SCALAR (R309): Scalar-form store of the low bytes of s(D), made once. -/
  | stScalar (z : BitVec 3) (a : SAddr) (d : SReg)
  /-- ST_SCALAR_REL (R309): Scalar-form release store at a scope. -/
  | stScalarRel (z : BitVec 3) (sc : BitVec 3) (a : SAddr) (d : SReg)
  /-- ATOM_ADD (R316): Atomic add per active lane, or once in scalar form, with the old value returned when RET = 1. -/
  | atomAdd (x : Atom)
  /-- ATOM_SUB (R316): Atomic subtract. -/
  | atomSub (x : Atom)
  /-- ATOM_MIN (R316): Atomic minimum by type. -/
  | atomMin (x : Atom)
  /-- ATOM_MAX (R316): Atomic maximum by type. -/
  | atomMax (x : Atom)
  /-- ATOM_AND (R316): Atomic bitwise AND. -/
  | atomAnd (x : Atom)
  /-- ATOM_OR (R316): Atomic bitwise OR. -/
  | atomOr (x : Atom)
  /-- ATOM_XOR (R316): Atomic bitwise XOR. -/
  | atomXor (x : Atom)
  /-- ATOM_EXCH (R316): Atomic exchange. -/
  | atomExch (x : Atom)
  /-- ATOM_CAS (R316): Atomic compare-and-swap against D's entry value. -/
  | atomCas (x : Atom)
  /-- ATOM_FADDT (R319): Atomic add that wakes the word's waiters when it reaches the threshold in D. -/
  | atomFaddt (x : Atom)
  /-- VADD (R273): Per-element wrapping add of packed vector integers, 32, 16 or 8 bits. -/
  | vadd (w : EW) (d : VReg) (a : VReg) (b : VReg) (m : Option Msk)
  /-- VSUB (R273): Per-element wrapping subtract. -/
  | vsub (w : EW) (d : VReg) (a : VReg) (b : VReg) (m : Option Msk)
  /-- VMUL (R273): Per-element low-half multiply. -/
  | vmul (w : EW) (d : VReg) (a : VReg) (b : VReg) (m : Option Msk)
  /-- VMULHS (R273): Per-element signed high-half multiply. -/
  | vmulhs (w : EW) (d : VReg) (a : VReg) (b : VReg) (m : Option Msk)
  /-- VMULHU (R273): Per-element unsigned high-half multiply. -/
  | vmulhu (w : EW) (d : VReg) (a : VReg) (b : VReg) (m : Option Msk)
  /-- VMAD (R273): Per-element multiply-add with D or OPX E as the addend. -/
  | vmad (w : EW) (d : VReg) (a : VReg) (b : VReg) (e : Option VReg) (m : Option Msk)
  /-- VMIN (R273): Per-element signed minimum. -/
  | vmin (w : EW) (d : VReg) (a : VReg) (b : VReg) (m : Option Msk)
  /-- VMAX (R273): Per-element signed maximum. -/
  | vmax (w : EW) (d : VReg) (a : VReg) (b : VReg) (m : Option Msk)
  /-- VMINU (R273): Per-element unsigned minimum. -/
  | vminu (w : EW) (d : VReg) (a : VReg) (b : VReg) (m : Option Msk)
  /-- VMAXU (R273): Per-element unsigned maximum. -/
  | vmaxu (w : EW) (d : VReg) (a : VReg) (b : VReg) (m : Option Msk)
  /-- VAND (R273): Per-element AND. -/
  | vand (w : EW) (d : VReg) (a : VReg) (b : VReg) (m : Option Msk)
  /-- VOR (R273): Per-element OR. -/
  | vor (w : EW) (d : VReg) (a : VReg) (b : VReg) (m : Option Msk)
  /-- VXOR (R273): Per-element XOR. -/
  | vxor (w : EW) (d : VReg) (a : VReg) (b : VReg) (m : Option Msk)
  /-- VANDN (R273): Per-element AND NOT. -/
  | vandn (w : EW) (d : VReg) (a : VReg) (b : VReg) (m : Option Msk)
  /-- VSHL (R273): Per-element shift left. -/
  | vshl (w : EW) (d : VReg) (a : VReg) (b : VReg) (m : Option Msk)
  /-- VSHR (R273): Per-element logical shift right. -/
  | vshr (w : EW) (d : VReg) (a : VReg) (b : VReg) (m : Option Msk)
  /-- VSAR (R273): Per-element arithmetic shift right. -/
  | vsar (w : EW) (d : VReg) (a : VReg) (b : VReg) (m : Option Msk)
  /-- VABS (R273): Per-element absolute value. -/
  | vabs (w : EW) (d : VReg) (a : VReg) (m : Option Msk)
  /-- VNEG (R273): Per-element negation. -/
  | vneg (w : EW) (d : VReg) (a : VReg) (m : Option Msk)
  /-- VADDS (R273): Per-element signed saturating add. -/
  | vadds (w : EW) (d : VReg) (a : VReg) (b : VReg) (m : Option Msk)
  /-- VSUBS (R273): Per-element signed saturating subtract. -/
  | vsubs (w : EW) (d : VReg) (a : VReg) (b : VReg) (m : Option Msk)
  /-- VADDUS (R273): Per-element unsigned saturating add. -/
  | vaddus (w : EW) (d : VReg) (a : VReg) (b : VReg) (m : Option Msk)
  /-- VSUBUS (R273): Per-element unsigned saturating subtract. -/
  | vsubus (w : EW) (d : VReg) (a : VReg) (b : VReg) (m : Option Msk)
  /-- VCLZ (R273): Per-element leading-zero count. -/
  | vclz (w : EW) (d : VReg) (a : VReg) (m : Option Msk)
  /-- VPOPC (R273): Per-element population count. -/
  | vpopc (w : EW) (d : VReg) (a : VReg) (m : Option Msk)
  /-- VMOV (R274): Copy v(A) into v(D) with the move rule shape. -/
  | vmov (d : VReg) (a : VReg) (m : Option Msk)
  /-- VADD_SCALAR (R273): 32-bit wrapping add of a vector and a scalar or immediate. -/
  | vaddScalar (d : VReg) (a : VReg) (b : SOrI) (m : Option Msk)
  /-- VSUB_SCALAR (R273): 32-bit wrapping subtract of a scalar or immediate. -/
  | vsubScalar (d : VReg) (a : VReg) (b : SOrI) (m : Option Msk)
  /-- VMUL_SCALAR (R273): 32-bit low-half multiply by a scalar or immediate. -/
  | vmulScalar (d : VReg) (a : VReg) (b : SOrI) (m : Option Msk)
  /-- VMULHS_SCALAR (R273): Signed high-half multiply by a scalar or immediate. -/
  | vmulhsScalar (d : VReg) (a : VReg) (b : SOrI) (m : Option Msk)
  /-- VMULHU_SCALAR (R273): Unsigned high-half multiply by a scalar or immediate. -/
  | vmulhuScalar (d : VReg) (a : VReg) (b : SOrI) (m : Option Msk)
  /-- VMAD_SCALAR (R273): Multiply-add with a scalar or immediate factor. -/
  | vmadScalar (d : VReg) (a : VReg) (b : SOrI) (e : Option VReg) (m : Option Msk)
  /-- VMIN_SCALAR (R273): Signed minimum with a scalar or immediate. -/
  | vminScalar (d : VReg) (a : VReg) (b : SOrI) (m : Option Msk)
  /-- VMAX_SCALAR (R273): Signed maximum with a scalar or immediate. -/
  | vmaxScalar (d : VReg) (a : VReg) (b : SOrI) (m : Option Msk)
  /-- VMINU_SCALAR (R273): Unsigned minimum with a scalar or immediate. -/
  | vminuScalar (d : VReg) (a : VReg) (b : SOrI) (m : Option Msk)
  /-- VMAXU_SCALAR (R273): Unsigned maximum with a scalar or immediate. -/
  | vmaxuScalar (d : VReg) (a : VReg) (b : SOrI) (m : Option Msk)
  /-- VAND_SCALAR (R273): AND with a scalar or immediate. -/
  | vandScalar (d : VReg) (a : VReg) (b : SOrI) (m : Option Msk)
  /-- VOR_SCALAR (R273): OR with a scalar or immediate. -/
  | vorScalar (d : VReg) (a : VReg) (b : SOrI) (m : Option Msk)
  /-- VXOR_SCALAR (R273): XOR with a scalar or immediate. -/
  | vxorScalar (d : VReg) (a : VReg) (b : SOrI) (m : Option Msk)
  /-- VANDN_SCALAR (R273): AND NOT with a scalar or immediate. -/
  | vandnScalar (d : VReg) (a : VReg) (b : SOrI) (m : Option Msk)
  /-- VSHL_SCALAR (R273): Shift left by a scalar or immediate count. -/
  | vshlScalar (d : VReg) (a : VReg) (b : SOrI) (m : Option Msk)
  /-- VSHR_SCALAR (R273): Logical shift right by a scalar or immediate count. -/
  | vshrScalar (d : VReg) (a : VReg) (b : SOrI) (m : Option Msk)
  /-- VSAR_SCALAR (R273): Arithmetic shift right by a scalar or immediate count. -/
  | vsarScalar (d : VReg) (a : VReg) (b : SOrI) (m : Option Msk)
  /-- VABS_SCALAR (R273): Absolute value, major-47 form. -/
  | vabsScalar (d : VReg) (a : VReg) (m : Option Msk)
  /-- VNEG_SCALAR (R273): Negation, major-47 form. -/
  | vnegScalar (d : VReg) (a : VReg) (m : Option Msk)
  /-- VADDS_SCALAR (R273): Signed saturating add of a scalar or immediate. -/
  | vaddsScalar (d : VReg) (a : VReg) (b : SOrI) (m : Option Msk)
  /-- VSUBS_SCALAR (R273): Signed saturating subtract of a scalar or immediate. -/
  | vsubsScalar (d : VReg) (a : VReg) (b : SOrI) (m : Option Msk)
  /-- VADDUS_SCALAR (R273): Unsigned saturating add of a scalar or immediate. -/
  | vaddusScalar (d : VReg) (a : VReg) (b : SOrI) (m : Option Msk)
  /-- VSUBUS_SCALAR (R273): Unsigned saturating subtract of a scalar or immediate. -/
  | vsubusScalar (d : VReg) (a : VReg) (b : SOrI) (m : Option Msk)
  /-- VCLZ_SCALAR (R273): Leading-zero count, major-47 form. -/
  | vclzScalar (d : VReg) (a : VReg) (m : Option Msk)
  /-- VPOPC_SCALAR (R273): Population count, major-47 form. -/
  | vpopcScalar (d : VReg) (a : VReg) (m : Option Msk)
  /-- VMOV_SCALAR (R274): Broadcast a scalar or immediate into every active lane with shape U. -/
  | vmovScalar (d : VReg) (b : SOrI) (m : Option Msk)
  /-- VSEL (R275): Select per active lane between v(A) and b under the MSK selector. -/
  | vsel (d : VReg) (a : VReg) (b : SelB) (m : Msk)
  /-- VFADD_F32 (R276): F32 add rounded once. -/
  | vfaddF32 (d : VReg) (a : VReg) (b : VReg) (m : Option Msk) (rm : Option (BitVec 3))
  /-- VFSUB_F32 (R276): F32 subtract rounded once. -/
  | vfsubF32 (d : VReg) (a : VReg) (b : VReg) (m : Option Msk) (rm : Option (BitVec 3))
  /-- VFMUL_F32 (R276): F32 multiply rounded once. -/
  | vfmulF32 (d : VReg) (a : VReg) (b : VReg) (m : Option Msk) (rm : Option (BitVec 3))
  /-- VFMA_F32 (R276): F32 fused multiply-add. -/
  | vfmaF32 (d : VReg) (a : VReg) (b : VReg) (e : Option VReg) (m : Option Msk) (rm : Option (BitVec 3))
  /-- VFMS_F32 (R276): F32 fused multiply-subtract. -/
  | vfmsF32 (d : VReg) (a : VReg) (b : VReg) (e : Option VReg) (m : Option Msk) (rm : Option (BitVec 3))
  /-- VFNMA_F32 (R276): F32 negated fused multiply-add. -/
  | vfnmaF32 (d : VReg) (a : VReg) (b : VReg) (e : Option VReg) (m : Option Msk) (rm : Option (BitVec 3))
  /-- VFMIN_F32 (R279): F32 minimum with −0 below +0. -/
  | vfminF32 (d : VReg) (a : VReg) (b : VReg) (m : Option Msk) (rm : Option (BitVec 3))
  /-- VFMAX_F32 (R279): F32 maximum. -/
  | vfmaxF32 (d : VReg) (a : VReg) (b : VReg) (m : Option Msk) (rm : Option (BitVec 3))
  /-- VFDIV_F32 (R276): F32 divide rounded once. -/
  | vfdivF32 (d : VReg) (a : VReg) (b : VReg) (m : Option Msk) (rm : Option (BitVec 3))
  /-- VFSQRT_F32 (R276): F32 square root. -/
  | vfsqrtF32 (d : VReg) (a : VReg) (m : Option Msk) (rm : Option (BitVec 3))
  /-- VFRCP_F32 (R276): F32 reciprocal rounded once. -/
  | vfrcpF32 (d : VReg) (a : VReg) (m : Option Msk) (rm : Option (BitVec 3))
  /-- VFRSQ_F32 (R276): F32 reciprocal square root rounded once. -/
  | vfrsqF32 (d : VReg) (a : VReg) (m : Option Msk) (rm : Option (BitVec 3))
  /-- VFABS_F32 (R280): Clear the sign bit. -/
  | vfabsF32 (d : VReg) (a : VReg) (m : Option Msk) (rm : Option (BitVec 3))
  /-- VFNEG_F32 (R280): Invert the sign bit. -/
  | vfnegF32 (d : VReg) (a : VReg) (m : Option Msk) (rm : Option (BitVec 3))
  /-- VFEXP2_F32 (R276): F32 2^a rounded once. -/
  | vfexp2F32 (d : VReg) (a : VReg) (m : Option Msk) (rm : Option (BitVec 3))
  /-- VFLOG2_F32 (R276): F32 log2(a) rounded once. -/
  | vflog2F32 (d : VReg) (a : VReg) (m : Option Msk) (rm : Option (BitVec 3))
  /-- VFADD_PACKED (R276): Packed F16 or BF16 add. -/
  | vfaddPacked (t : Bool) (d : VReg) (a : VReg) (b : VReg) (m : Option Msk) (rm : Option (BitVec 3))
  /-- VFSUB_PACKED (R276): Packed F16 or BF16 subtract. -/
  | vfsubPacked (t : Bool) (d : VReg) (a : VReg) (b : VReg) (m : Option Msk) (rm : Option (BitVec 3))
  /-- VFMUL_PACKED (R276): Packed F16 or BF16 multiply. -/
  | vfmulPacked (t : Bool) (d : VReg) (a : VReg) (b : VReg) (m : Option Msk) (rm : Option (BitVec 3))
  /-- VFMA_PACKED (R276): Packed F16 or BF16 fused multiply-add. -/
  | vfmaPacked (t : Bool) (d : VReg) (a : VReg) (b : VReg) (e : Option VReg) (m : Option Msk) (rm : Option (BitVec 3))
  /-- VFMS_PACKED (R276): Packed F16 or BF16 fused multiply-subtract. -/
  | vfmsPacked (t : Bool) (d : VReg) (a : VReg) (b : VReg) (e : Option VReg) (m : Option Msk) (rm : Option (BitVec 3))
  /-- VFNMA_PACKED (R276): Packed F16 or BF16 negated fused multiply-add. -/
  | vfnmaPacked (t : Bool) (d : VReg) (a : VReg) (b : VReg) (e : Option VReg) (m : Option Msk) (rm : Option (BitVec 3))
  /-- VFMIN_PACKED (R279): Packed F16 or BF16 minimum. -/
  | vfminPacked (t : Bool) (d : VReg) (a : VReg) (b : VReg) (m : Option Msk) (rm : Option (BitVec 3))
  /-- VFMAX_PACKED (R279): Packed F16 or BF16 maximum. -/
  | vfmaxPacked (t : Bool) (d : VReg) (a : VReg) (b : VReg) (m : Option Msk) (rm : Option (BitVec 3))
  /-- VFDIV_PACKED (R276): Packed F16 or BF16 divide. -/
  | vfdivPacked (t : Bool) (d : VReg) (a : VReg) (b : VReg) (m : Option Msk) (rm : Option (BitVec 3))
  /-- VFSQRT_PACKED (R276): Packed F16 or BF16 square root. -/
  | vfsqrtPacked (t : Bool) (d : VReg) (a : VReg) (m : Option Msk) (rm : Option (BitVec 3))
  /-- VFRCP_PACKED (R276): Packed F16 or BF16 reciprocal. -/
  | vfrcpPacked (t : Bool) (d : VReg) (a : VReg) (m : Option Msk) (rm : Option (BitVec 3))
  /-- VFRSQ_PACKED (R276): Packed F16 or BF16 reciprocal square root. -/
  | vfrsqPacked (t : Bool) (d : VReg) (a : VReg) (m : Option Msk) (rm : Option (BitVec 3))
  /-- VFABS_PACKED (R280): Packed sign clear. -/
  | vfabsPacked (t : Bool) (d : VReg) (a : VReg) (m : Option Msk) (rm : Option (BitVec 3))
  /-- VFNEG_PACKED (R280): Packed sign inversion. -/
  | vfnegPacked (t : Bool) (d : VReg) (a : VReg) (m : Option Msk) (rm : Option (BitVec 3))
  /-- VFEXP2_PACKED (R276): Packed 2^a. -/
  | vfexp2Packed (t : Bool) (d : VReg) (a : VReg) (m : Option Msk) (rm : Option (BitVec 3))
  /-- VFLOG2_PACKED (R276): Packed log2(a). -/
  | vflog2Packed (t : Bool) (d : VReg) (a : VReg) (m : Option Msk) (rm : Option (BitVec 3))
  /-- VFADD_SCALAR (R276): F32 add of a scalar or immediate. -/
  | vfaddScalar (d : VReg) (a : VReg) (b : SOrI) (m : Option Msk) (rm : Option (BitVec 3))
  /-- VFSUB_SCALAR (R276): F32 subtract of a scalar or immediate. -/
  | vfsubScalar (d : VReg) (a : VReg) (b : SOrI) (m : Option Msk) (rm : Option (BitVec 3))
  /-- VFMUL_SCALAR (R276): F32 multiply by a scalar or immediate. -/
  | vfmulScalar (d : VReg) (a : VReg) (b : SOrI) (m : Option Msk) (rm : Option (BitVec 3))
  /-- VFMA_SCALAR (R276): F32 fused multiply-add with a scalar or immediate factor. -/
  | vfmaScalar (d : VReg) (a : VReg) (b : SOrI) (e : Option VReg) (m : Option Msk) (rm : Option (BitVec 3))
  /-- VFMS_SCALAR (R276): F32 fused multiply-subtract with a scalar or immediate factor. -/
  | vfmsScalar (d : VReg) (a : VReg) (b : SOrI) (e : Option VReg) (m : Option Msk) (rm : Option (BitVec 3))
  /-- VFNMA_SCALAR (R276): F32 negated fused multiply-add with a scalar or immediate factor. -/
  | vfnmaScalar (d : VReg) (a : VReg) (b : SOrI) (e : Option VReg) (m : Option Msk) (rm : Option (BitVec 3))
  /-- VFMIN_SCALAR (R279): F32 minimum with a scalar or immediate. -/
  | vfminScalar (d : VReg) (a : VReg) (b : SOrI) (m : Option Msk) (rm : Option (BitVec 3))
  /-- VFMAX_SCALAR (R279): F32 maximum with a scalar or immediate. -/
  | vfmaxScalar (d : VReg) (a : VReg) (b : SOrI) (m : Option Msk) (rm : Option (BitVec 3))
  /-- VFDIV_SCALAR (R276): F32 divide by a scalar or immediate. -/
  | vfdivScalar (d : VReg) (a : VReg) (b : SOrI) (m : Option Msk) (rm : Option (BitVec 3))
  /-- VFSQRT_SCALAR (R276): F32 square root, major-50 form. -/
  | vfsqrtScalar (d : VReg) (a : VReg) (m : Option Msk) (rm : Option (BitVec 3))
  /-- VFRCP_SCALAR (R276): F32 reciprocal, major-50 form. -/
  | vfrcpScalar (d : VReg) (a : VReg) (m : Option Msk) (rm : Option (BitVec 3))
  /-- VFRSQ_SCALAR (R276): F32 reciprocal square root, major-50 form. -/
  | vfrsqScalar (d : VReg) (a : VReg) (m : Option Msk) (rm : Option (BitVec 3))
  /-- VFABS_SCALAR (R280): Sign clear, major-50 form. -/
  | vfabsScalar (d : VReg) (a : VReg) (m : Option Msk) (rm : Option (BitVec 3))
  /-- VFNEG_SCALAR (R280): Sign inversion, major-50 form. -/
  | vfnegScalar (d : VReg) (a : VReg) (m : Option Msk) (rm : Option (BitVec 3))
  /-- VFEXP2_SCALAR (R276): F32 2^a, major-50 form. -/
  | vfexp2Scalar (d : VReg) (a : VReg) (m : Option Msk) (rm : Option (BitVec 3))
  /-- VFLOG2_SCALAR (R276): F32 log2(a), major-50 form. -/
  | vflog2Scalar (d : VReg) (a : VReg) (m : Option Msk) (rm : Option (BitVec 3))
  /-- VCVT (R285): Convert elements between formats, using the selector slice. -/
  | vcvt (d : VReg) (a : VReg) (sel : BitVec 4) (src : BitVec 5) (dst : BitVec 5) (m : Option Msk) (rm : Option (BitVec 3))
  /-- QCVT (R289): Quantise one block per lane into a block-scaled format, choosing its scale and outliers. -/
  | qcvt (d : VReg) (a : VReg) (b : SReg) (src : BitVec 5) (dst : BitVec 5) (m : Option Msk) (rm : Option (BitVec 3))
  /-- SHTAG (R292): s(D) := shape tag of v(A). -/
  | shtag (d : SReg) (a : VReg)
  /-- SHPROMOTE (R81): Make v(D) of shape G with unchanged values. -/
  | shpromote (d : VReg)
  /-- SHTRY (R81): Try to demote v(D) to U or A and report success in a predicate. -/
  | shtry (d : VReg) (p : PReg)
  /-- SHFL (R294): Each active lane reads v(A) from the lane named in v(B). -/
  | shfl (d : VReg) (a : VReg) (b : VReg) (m : Option Msk)
  /-- SHFL_UP (R294): Each active lane reads v(A) from lane l − n. -/
  | shflUp (d : VReg) (a : VReg) (b : SReg) (m : Option Msk)
  /-- SHFL_DN (R294): Each active lane reads v(A) from lane l + n. -/
  | shflDn (d : VReg) (a : VReg) (b : SReg) (m : Option Msk)
  /-- SHFL_XOR (R294): Each active lane reads v(A) from lane l XOR n. -/
  | shflXor (d : VReg) (a : VReg) (b : SReg) (m : Option Msk)
  /-- BCAST (R295): Every active lane receives v(A) of lane j. -/
  | bcast (d : VReg) (a : VReg) (b : SReg) (m : Option Msk)
  /-- VOTE_ANY (R296): s(D) := 1 when some active lane has the predicate set. -/
  | voteAny (d : SReg) (p : PReg) (m : Option Msk)
  /-- VOTE_ALL (R296): s(D) := 1 when every active lane has the predicate set. -/
  | voteAll (d : SReg) (p : PReg) (m : Option Msk)
  /-- BALLOT (R296): s(D) := predicate bits of active lanes 64k to 64k + 63. -/
  | ballot (d : SReg) (p : PReg) (k : BitVec 4) (m : Option Msk)
  /-- VRED_ADD (R297): Wrapping sum of the active lanes into s(D). -/
  | vredAdd (d : SReg) (a : VReg) (m : Option Msk)
  /-- VRED_MIN (R297): Signed minimum of the active lanes. -/
  | vredMin (d : SReg) (a : VReg) (m : Option Msk)
  /-- VRED_MAX (R297): Signed maximum of the active lanes. -/
  | vredMax (d : SReg) (a : VReg) (m : Option Msk)
  /-- VRED_MINU (R297): Unsigned minimum of the active lanes. -/
  | vredMinu (d : SReg) (a : VReg) (m : Option Msk)
  /-- VRED_MAXU (R297): Unsigned maximum of the active lanes. -/
  | vredMaxu (d : SReg) (a : VReg) (m : Option Msk)
  /-- VRED_AND (R297): AND of the active lanes. -/
  | vredAnd (d : SReg) (a : VReg) (m : Option Msk)
  /-- VRED_OR (R297): OR of the active lanes. -/
  | vredOr (d : SReg) (a : VReg) (m : Option Msk)
  /-- VRED_XOR (R297): XOR of the active lanes. -/
  | vredXor (d : SReg) (a : VReg) (m : Option Msk)
  /-- VRED_ADD_F32 (R298): Sequential F32 sum of the active lanes in ascending order. -/
  | vredAddF32 (d : SReg) (a : VReg) (m : Option Msk)
  /-- VRED_MIN_F32 (R298): F32 minimum of the active lanes. -/
  | vredMinF32 (d : SReg) (a : VReg) (m : Option Msk)
  /-- VRED_MAX_F32 (R298): F32 maximum of the active lanes. -/
  | vredMaxF32 (d : SReg) (a : VReg) (m : Option Msk)
  /-- VSCAN_ADD (R297): Inclusive wrapping prefix sum over the active lanes. -/
  | vscanAdd (d : VReg) (a : VReg) (m : Option Msk)
  /-- VSCAN_MIN (R297): Inclusive signed prefix minimum. -/
  | vscanMin (d : VReg) (a : VReg) (m : Option Msk)
  /-- VSCAN_MAX (R297): Inclusive signed prefix maximum. -/
  | vscanMax (d : VReg) (a : VReg) (m : Option Msk)
  /-- VSCAN_MINU (R297): Inclusive unsigned prefix minimum. -/
  | vscanMinu (d : VReg) (a : VReg) (m : Option Msk)
  /-- VSCAN_MAXU (R297): Inclusive unsigned prefix maximum. -/
  | vscanMaxu (d : VReg) (a : VReg) (m : Option Msk)
  /-- VSCAN_AND (R297): Inclusive prefix AND. -/
  | vscanAnd (d : VReg) (a : VReg) (m : Option Msk)
  /-- VSCAN_OR (R297): Inclusive prefix OR. -/
  | vscanOr (d : VReg) (a : VReg) (m : Option Msk)
  /-- VSCAN_XOR (R297): Inclusive prefix XOR. -/
  | vscanXor (d : VReg) (a : VReg) (m : Option Msk)
  /-- VSCAN_ADD_F32 (R298): Inclusive sequential F32 prefix sum. -/
  | vscanAddF32 (d : VReg) (a : VReg) (m : Option Msk)
  /-- VSCAN_MIN_F32 (R298): Inclusive F32 prefix minimum. -/
  | vscanMinF32 (d : VReg) (a : VReg) (m : Option Msk)
  /-- VSCAN_MAX_F32 (R298): Inclusive F32 prefix maximum. -/
  | vscanMaxF32 (d : VReg) (a : VReg) (m : Option Msk)
  /-- BAR_G (R329): Arrive at group barrier k and wait for the phase to complete. -/
  | barG (i : BitVec 4)
  /-- BAR_C (R329): Arrive at cluster barrier k and wait. -/
  | barC (i : BitVec 3)
  /-- BAR_L (R156): Arrive at launch barrier k, closing a superstep. -/
  | barL (i : BitVec 2)
  /-- FENCE (R322): Order the team's accesses by kind at a scope. -/
  | fence (k : BitVec 2) (s : BitVec 3)
  /-- WAIT (R323): Deschedule until the four outstanding counters are at or below their thresholds. -/
  | wait (l : BitVec 4) (s : BitVec 4) (c : BitVec 4) (t : BitVec 4)
  /-- TLWAIT (R324): Wait until a timeline counter of the team or a group mate reaches n, acquiring those operations. -/
  | tlwait (n : SReg) (k : BitVec 4) (o : Bool) (c : BitVec 2) (s : BitVec 3)
  /-- WAITA (R326): Complete at once if the monitored word was written, otherwise register as a waiter and deschedule. -/
  | waita (a : SReg) (p : BitVec 3)
  /-- RDENTER (R331): Raise the read-section depth by 1. -/
  | rdenter
  /-- RDEXIT (R331): Lower the read-section depth by 1; a return to 0 is the team's turn. -/
  | rdexit
  /-- WROUND (R333): Begin a round and wait until every team then in a read section has had a turn. -/
  | wround (s : BitVec 3)
  /-- DFREE (R335): Queue an entry on the context's deferred-free list. -/
  | dfree (a : SReg) (b : SReg) (c : BitVec 4)
  /-- ALWRD (R312): Read the send allowance for a module into s(SD) without waiting. -/
  | alwrd (d : SReg) (a : SReg)
  /-- CPY (R359): Hand a linear copy to a copy engine, numbered on TL.CPY. -/
  | cpy (d : SReg) (p : BitVec 3) (r : BitVec 3) (n : Bool)
  /-- CPY2D (R359): Hand a two-dimensional copy to a copy engine. -/
  | cpy2d (d : SReg) (p : BitVec 3) (r : BitVec 3) (n : Bool)
  /-- CPYG (R362): Gather copy of one element per active lane, numbered on TL.GATH. -/
  | cpyg (d : SReg) (p : BitVec 3) (r : BitVec 3) (v : VReg)
  /-- QPUT_MEMORY (R363): Reserve n tail slots of a stream queue and fill them from memory lines. -/
  | qputMemory (s : SReg) (r : BitVec 3) (p : Bool) (q : BitVec 4)
  /-- QPUT_REGISTER (R363): Fill one queue slot per non-zero mask word from a vector register. -/
  | qputRegister (v : VReg) (q : BitVec 4)
  /-- QGET_VECTOR (R365): Take head slots, one per mask word, into a vector register. -/
  | qgetVector (d : VReg) (q : BitVec 4)
  /-- QGET_SCALAR (R365): Take one head slot into sixteen scalar registers. -/
  | qgetScalar (d : SReg) (q : BitVec 4)
  /-- TLREAD (R366): Read a timeline counter of the team or a group mate without waiting. -/
  | tlread (d : SReg) (o : Bool) (c : BitVec 2) (k : BitVec 4)
  /-- TFETCH_C (R367): Move tile rows from G into C through the tile fetch unit. -/
  | tfetchC (d : SReg)
  /-- TFETCH_Q (R367): Move tile rows from G into stream-queue slots. -/
  | tfetchQ (d : SReg) (p : Bool) (q : BitVec 4)
  /-- COLL (R369): Start a collective across the member modules from a descriptor. -/
  | coll (d : SReg)
  /-- MMA_128X128 (R346): Matrix multiply-accumulate of shape 128 x 128 into a tile. -/
  | mma128x128 (q : SReg) (t : TReg) (s : Bool) (a : Bool) (b : Bool)
  /-- MMA_128X64 (R346): Matrix multiply-accumulate of shape 128 x 64. -/
  | mma128x64 (q : SReg) (t : TReg) (s : Bool) (a : Bool) (b : Bool) (p : BitVec 1)
  /-- MMA_64X128 (R346): Matrix multiply-accumulate of shape 64 x 128. -/
  | mma64x128 (q : SReg) (t : TReg) (s : Bool) (a : Bool) (b : Bool) (p : BitVec 1)
  /-- MMA_64X64 (R346): Matrix multiply-accumulate of shape 64 x 64. -/
  | mma64x64 (q : SReg) (t : TReg) (s : Bool) (a : Bool) (b : Bool) (p : BitVec 2)
  /-- MMA_32X128 (R346): Matrix multiply-accumulate of shape 32 x 128. -/
  | mma32x128 (q : SReg) (t : TReg) (s : Bool) (a : Bool) (b : Bool) (p : BitVec 2)
  /-- MMA_128X32 (R346): Matrix multiply-accumulate of shape 128 x 32. -/
  | mma128x32 (q : SReg) (t : TReg) (s : Bool) (a : Bool) (b : Bool) (p : BitVec 2)
  /-- ACCZ (R353): Zero a tile and make it valid. -/
  | accz (t : TReg)
  /-- ACCLD (R353): Load a tile from C or G and make it valid. -/
  | accld (q : SReg) (t : TReg) (g : Bool)
  /-- ACCST (R353): Store a tile to C or G. -/
  | accst (q : SReg) (t : TReg) (g : Bool)
  /-- ACCMV (R353): Copy one tile and its OVX into another. -/
  | accmv (t : TReg) (u : TReg)
  /-- ACCOVX (R353): Wait for earlier operations on the tile, then read its validity and OVX, optionally clearing OVX. -/
  | accovx (q : SReg) (t : TReg) (c : Bool)
  /-- TSPAWN (R371): Submit a task record to the Deck and return a status with its handle. -/
  | tspawn (d : SReg) (a : SReg)
  /-- TSPAWN_REL (R371): Post one release to a graph node named by its handle. -/
  | tspawnRel (d : SReg) (b : SReg)
  /-- FRD (R372): Read a FULL future, or squash the task and register it as a waiter. -/
  | frd (d : SReg) (a : SReg)
  /-- FWR (R372): Fill an EMPTY future and lower the counters of its waiters. -/
  | fwr (a : SReg) (b : SReg)
  /-- FWR_CLR (R372): Read a FULL future and make it EMPTY. -/
  | fwrClr (d : SReg) (a : SReg)
  /-- LPOST (R373): Commit a launch packet to a launch queue of the context. -/
  | lpost (d : SReg) (a : SReg) (q : BitVec 2)
  /-- GIVE (R374): Move k blocks of 8 vector registers from the team to the group pool. -/
  | give (d : SReg) (k : BitVec 4)
  /-- CLAIM (R374): Move k blocks of 8 vector registers from the group pool to the team. -/
  | claim (d : SReg) (k : BitVec 4)
  /-- SREAD (R375): Read a context counter by index. -/
  | sread (d : SReg) (a : SReg)
  /-- CSRRD (R397): Read a control register after the level and reach checks. -/
  | csrrd (d : SReg) (a : SReg)
  /-- CSRWR (R398): Write a control register that has no row of its own, after earlier stores are performed. -/
  | csrwr (a : SReg) (b : SReg)
  /-- TLBINV (R402): Remove cached translations of a context's pages at DEVICE or DOMAIN scope. -/
  | tlbinv (s : BitVec 3) (a : SReg) (b : SReg)
  /-- CAPRD (R400): Read a doubleword of the capability list. -/
  | caprd (d : SReg) (a : SReg)
  /-- HREG (R403): Set or remove the handler-table entry for a context and class. -/
  | hreg (d : SReg) (a : SReg) (b : SReg)
  /-- PKRD (R410): Read a field of a parked record by selector. -/
  | pkrd (d : SReg) (a : SReg)
  /-- PKWR (R410): Write a field of a parked record by selector. -/
  | pkwr (d : SReg) (a : SReg) (b : SReg)
  /-- PKRES (R411): Re-enter a parked team at its park point and dispose of the record. -/
  | pkres (d : SReg) (a : SReg)
  /-- PKRETRY (R411): Re-issue a parked tile operation or copy segment. -/
  | pkretry (d : SReg) (a : SReg)
  /-- PKREDIR (R411): Re-enter a parked team at a new clause, or continue a segment at a new address. -/
  | pkredir (d : SReg) (a : SReg) (b : SReg)
  /-- PKKILL (R411): Kill the parked work and dispose of its record. -/
  | pkkill (d : SReg) (a : SReg)
  /-- CLAUSE_ISSUE (R435): The core chooses the oldest ready clause, checks its header and thresholds, and reserves chunks. -/
  | clauseIssue (core : Nat)
  /-- PRE_EMPTION (R38): At a pre-emption point the team's state is saved to its save area. -/
  | preEmption (team : Nat)
  /-- SWAP_IN (R90): A swapped-out team's save area is checked and restored once its chunks are free. -/
  | swapIn (team : Nat)
  /-- FAULT_TASK_RAISE (R470): Once earlier stores are performed, the fault task of a record is queued in the fault bank. -/
  | faultTaskRaise (record : Nat)
  /-- PENDING_FAULT_TASK_SEND (R470): A fault task kept pending is sent in PARKT order when a fault-bank record frees. -/
  | pendingFaultTaskSend
  /-- FAULT_BANK_FULL_REFUSAL (R472): A receiving module refuses a fault task when its fault bank stays full beyond 20 µs. -/
  | faultBankFullRefusal (message : Nat)
  /-- DECK_DISPATCH (R433): The Deck fills a free hand slot with the chosen ready task. -/
  | deckDispatch (core : Nat)
  /-- TASK_START (R52): A core starts a hand task once its group can be admitted. -/
  | taskStart (core : Nat)
  /-- DECK_AGING (R434): A ready task that has waited beyond 2^(20+p) clk is promoted one level. -/
  | deckAging
  /-- TASK_DEADLINE_EXPIRY (R49): A queued or hand-held task past its DEADLINE is removed as a kill report. -/
  | taskDeadlineExpiry (task : Nat)
  /-- RECORD_DEADLINE_EXPIRY (R474): A live record past its DEADLINE is killed and becomes a kill report with a deadline-expired fault task. -/
  | recordDeadlineExpiry (record : Nat)
  /-- FAULT_TASK_DEADLINE_EXPIRY (R475): A queued fault task past its DEADLINE is removed. -/
  | faultTaskDeadlineExpiry (task : Nat)
  /-- RUN_BUDGET_EXPIRY (R48): A task or handler exceeding its run budget is parked with budget-expired. -/
  | runBudgetExpiry (group : Nat)
  /-- DISABLE_BUDGET_EXPIRY (R40): The PDIS budget runs out; pre-emption is enabled and the team parks at the next boundary. -/
  | disableBudgetExpiry (team : Nat)
  /-- BARRIER_WATCHDOG_EXPIRY (R439): A barrier phase timer expires; the context is frozen and a watchdog fault task raised or the context reset. -/
  | barrierWatchdogExpiry (barrier : BarrierKey)
  /-- STALEMATE (R443): A window passes with no counted event while work remains; contexts are frozen with stalemate fault tasks. -/
  | stalemate (part : Nat)
  /-- CONTEXT_RESET (R444): A write of CTXCTL.RST = 1 starts a context reset at STOP. -/
  | contextReset (ctx : Nat)
  /-- CONTEXT_RESET_PROGRESS (R444): The reset leaves KILL or SETTLE when its condition holds and reaches DONE. -/
  | contextResetProgress (ctx : Nat)
  /-- CONTEXT_ENABLE (R497): CTXCTL.EN set to 1 enables the context and, with DET, begins a determinism run. -/
  | contextEnable (ctx : Nat)
  /-- CONTEXT_DISABLE (R497): CTXCTL.EN cleared refuses the context's launches and ends a determinism run. -/
  | contextDisable (ctx : Nat)
  /-- PARTITION_ENABLE (R392): PARTCTL.EN set to 1 enables a partition after the overlap check. -/
  | partitionEnable (part : Nat)
  /-- PARTITION_SEAL (R494): EN = 1 with SEALED = 1 generates keys, re-encrypts, measures the loader and writes the attestation report. -/
  | partitionSeal (part : Nat)
  /-- PARTITION_DISABLE (R495): PARTCTL.EN cleared unseals, destroying keys and zeroing the partition's SRAM. -/
  | partitionDisable (part : Nat)
  /-- H_RANGE_GRANT (R393): A CTXH range made valid has every doubleword marked EMPTY by the Deck. -/
  | hRangeGrant (ctx : Nat) (k : Nat) (v : Dw)
  /-- RECLAIM_GROUP_DESIGNATE (R336): CTXRQ designates the reclaim group and waiting entries fill its queue 15. -/
  | reclaimGroupDesignate (ctx : Nat) (v : Dw)
  /-- GROUP_OVERFLOW_WRITE (R108): A write of GRPOV sets the group's OVBASE and OVLEN. -/
  | groupOverflowWrite (group : Nat) (v : Dw)
  /-- FABANN_WRITE (R516): A write of FABANN sends a recovery announcement with the given bound. -/
  | fabannWrite (bound : Dw)
  /-- LAUNCH_QUEUE_ENABLE (R414): CTXLQq.V set to 1 makes the front end read SEQ0, clear SIGCNT and follow ROOT. -/
  | launchQueueEnable (ctx : Nat) (q : Nat) (v : Dw)
  /-- LAUNCH_QUEUE_DISABLE (R414): CTXLQq.V cleared discards fetched packets and posted launches and writes STATE 3. -/
  | launchQueueDisable (ctx : Nat) (q : Nat)
  /-- FRONT_END_MONITOR_WAKE (R419): The front end's monitor wakes it to re-read a link word or a WAITMEM word. -/
  | frontEndMonitorWake (ctx : Nat) (q : Nat)
  /-- COMMAND_SEQ_REREAD (R417): A packet with a wrong SEQ is read again at 125 ns x k, up to 16 times. -/
  | commandSeqReread (ctx : Nat) (q : Nat)
  /-- LAUNCH (R422): A LAUNCH packet is checked and handed to the distributor or refused. -/
  | launch (ctx : Nat) (q : Nat)
  /-- IB (R422): An IB packet executes COUNT packets of a buffer at the next depth. -/
  | ib (ctx : Nat) (q : Nat)
  /-- PRED (R422): A PRED packet reads a word and skips the next N packets when CMP holds. -/
  | pred (ctx : Nat) (q : Nat)
  /-- LOOP (R422): A LOOP packet replays its N body packets K times. -/
  | loop (ctx : Nat) (q : Nat)
  /-- WRMEM (R422): A WRMEM packet writes a value with a SYSTEM-scope release. -/
  | wrmem (ctx : Nat) (q : Nat)
  /-- WAITMEM (R422): A WAITMEM packet holds the queue until its comparison holds. -/
  | waitmem (ctx : Nat) (q : Nat)
  /-- FFENCE (R422): An FFENCE packet discards fetched-ahead packets and held loop copies after it. -/
  | ffence (ctx : Nat) (q : Nat)
  /-- TLSIG (R422): A TLSIG packet, once earlier launches end, increments SIGCNT and writes it. -/
  | tlsig (ctx : Nat) (q : Nat)
  /-- NOP_PACKET (R422): A NOP packet has no effect. -/
  | nopPacket (ctx : Nat) (q : Nat)
  /-- LINK (R422): A LINK packet sets the expected SEQ of the next packet. -/
  | link (ctx : Nat) (q : Nat)
  /-- POSTED_LAUNCH_HANDOVER (R426): An eligible posted launch whose parent has ended is handed to the distributor. -/
  | postedLaunchHandover (ctx : Nat) (q : Nat)
  /-- PLACEMENT_STEP (R428): The distributor reserves resources for up to 16 groups and starts those that may start. -/
  | placementStep (part : Nat)
  /-- GROUP_END (R248): When all teams ended and their asynchronous work completed, the group's resources are released. -/
  | groupEnd (group : Nat)
  /-- BARRIER_COMPLETE (R329): The last arrival and required delivery complete a barrier phase and release every member. -/
  | barrierComplete (barrier : BarrierKey)
  /-- ROUND_COMPLETE (R333): Every team of the round's set has had its turn; the round completes as an acquire. -/
  | roundComplete (round : Nat)
  /-- SCHEDULER_ROUND_START (R335): The scheduler starts a DEVICE round when deferred-free entries wait and none is in progress. -/
  | schedulerRoundStart (ctx : Nat)
  /-- DFREE_QUEUEING_COMPLETE (R335): A DFREE entry is queued once the team's earlier stores are performed. -/
  | dfreeQueueingComplete (entry : Nat)
  /-- RECLAIM_QUEUE_FILL (R336): Released entries fill slots of the reclaim queue as slots become EMPTY. -/
  | reclaimQueueFill (ctx : Nat)
  /-- WAITA_WAKE (R327): A write or eviction of a watched word wakes its registered waiters. -/
  | waitaWake (team : Nat)
  /-- SPURIOUS_WAKE (R327): A registered waiter is woken spuriously, at most once per 2^16 clk. -/
  | spuriousWake (team : Nat)
  /-- WAIT_CONDITION_MET (R204): A team descheduled on thresholds, WAIT or TLWAIT becomes ready when its condition holds. -/
  | waitConditionMet (team : Nat)
  /-- LINE_REQUEST_RETURN (R124): Data or acknowledgement of a line request returns, freeing its slot to the oldest eligible queued request. -/
  | lineRequestReturn (access : Nat) (data : List Line)
  /-- FABRIC_BATCH_SEND (R311): A waiting batch is sent once the peer's allowance covers it. -/
  | fabricBatchSend (batch : Nat)
  /-- QUEUE_SLOT_FILL (R115): Fill data arrives and a PENDING slot becomes FULL, or POISONED on a dropped access. -/
  | queueSlotFill (op : Nat) (slot : Nat) (data : Line)
  /-- HARDWARE_PREFETCH (R119): A hardware prefetcher requests a line of a local RC or LOOSE page. -/
  | hardwarePrefetch (core : Nat) (ctx : Nat) (va : Dw)
  /-- COPY_SEGMENT_COMPLETE (R361): A copy segment finishes, or parks as a copy-segment record at byte b. -/
  | copySegmentComplete (op : Nat) (seg : Nat) (err : Option SegError)
  /-- TILE_OPERATION_COMPLETE (R346): A tile operation writes its results and advances TL.TILE, or parks after issue. -/
  | tileOperationComplete (op : Nat) (err : Option TileError)
  /-- TILE_PIN_GRANT (R437): Unpinned lines go to the longest-waiting MMA, which then issues. -/
  | tilePinGrant (core : Nat)
  /-- MATRIX_ENGINE_RESET (R478): A tile operation occupying the engine for 2^20 clk resets it, killing its operations. -/
  | matrixEngineReset (core : Nat)
  /-- COLLECTIVE_COMPLETE (R369): A member's DST holds the collective result. -/
  | collectiveComplete (op : Nat) (data : List Byte)
  /-- ATOMIC_SERVICE_PERFORM (R317): The owning service team performs an atomic in arrival order, retrying on a shadow mismatch. -/
  | atomicServicePerform (cluster : Nat) (shadow : List Shadow)
  /-- READ_REQUEST (R510): A received read request is served and its reply sent. -/
  | readRequest (p : Packet)
  /-- READ_REPLY (R510): A received read reply delivers line data. -/
  | readReply (p : Packet)
  /-- WRITE (R512): A received write packet is performed at its home, in arrival order except STRONG holds. -/
  | write (p : Packet)
  /-- ATOMIC_REQUEST (R510): A received atomic request is performed and replied to. -/
  | atomicRequest (p : Packet)
  /-- ATOMIC_REPLY (R510): A received atomic reply returns the old value. -/
  | atomicReply (p : Packet)
  /-- ACKNOWLEDGEMENT (R513): A received acknowledgement retires packets and adjusts CAP and the allowance. -/
  | acknowledgement (p : Packet)
  /-- FAULT_LANE_MESSAGE (R472): A fault task or handler request arrives on the fault lane and is accepted or refused. -/
  | faultLaneMessage (p : Packet) (msg : LaneMsg)
  /-- RECOVERY_ANNOUNCEMENT (R515): A received announcement pauses retransmission, holds the timer and excuses waiters. -/
  | recoveryAnnouncement (p : Packet)
  /-- ANNOUNCEMENT_BOUND_EXPIRY (R515): An announcement's bound passes without recovery and the 5 ms timer restarts. -/
  | announcementBoundExpiry (peer : Nat)
  /-- FABRIC_ACK_TRIGGER (R510): After 16 arrivals or 1 µs the receiver sends its acknowledgements. -/
  | fabricAckTrigger (peer : Nat) (lane : Bool)
  /-- FABRIC_RETRANSMIT (R511): A packet unacknowledged for 20 µs is sent again on the next plane. -/
  | fabricRetransmit (peer : Nat) (lane : Bool) (psn : Wd)
  /-- LINK_TIMEOUT (R514): A destination silent for 5 ms has its packets abandoned and their operations meet link-timeout. -/
  | linkTimeout (peer : Nat)
  /-- PORT_RETRAIN (R515): Before a port retrain longer than 1 ms, firmware announces recovery with bound 20. -/
  | portRetrain (plane : Nat)
  /-- HOST_MODULE_RESET (R515): Before a host-initiated module reset, firmware announces recovery with bound 500. -/
  | hostModuleReset
  /-- HOST_BAR_ACCESS (R518): A host access through BAR2 or BAR4 reaches trace state or local memory as the host party. -/
  | hostBarAccess (bar : Nat) (off : Nat) (wr : Option (List Byte)) (len : Nat)
  /-- CAP_OFFSET_WRITE (R400): The host writes a capability offset to the DVSEC and the doubleword becomes readable. -/
  | capOffsetWrite (off : Wd)
  /-- SEND_QUEUE_WORK (R521): The scale-out engine takes posted work entries after a TAIL write. -/
  | sendQueueWork (qp : Nat)
  /-- RDMA_COMPLETION (R521): An RDMA operation finishes and its completion entry and WP are written. -/
  | rdmaCompletion (qp : Nat) (n : Nat) (status : Nat) (data : List Byte)
  /-- RDMA_TIMEOUT (R521): An RDMA operation without answer for 100 ms completes with STATUS 2. -/
  | rdmaTimeout (qp : Nat) (n : Nat)
  /-- RDMA_INBOUND (R521): An inbound RDMA operation is performed at the remote end in posting order. -/
  | rdmaInbound (m : RdmaMsg)
  /-- POWER_ON (R523): Bring-up verifies firmware and configuration, trains memory and links and publishes capabilities. -/
  | powerOn (cfg : BootConfig)
  /-- PATROL_SCRUB (R482): A scrubber reads a word, correcting or poisoning it. -/
  | patrolScrub (addr : Nat) (bad : Bool)
  /-- SCORE_HALVING (R485): Every 2^32 clk every pip score is halved. -/
  | scoreHalving
  /-- CORE_VACATE_MIGRATE (R487): A resident group of a core being vacated moves to a sibling core. -/
  | coreVacateMigrate (group : Nat) (core : Nat)
  /-- TEST_VACATE_TIMEOUT (R488): A core not vacated within 10 ms returns to placement with a type-4 record. -/
  | testVacateTimeout (test : Nat)
  /-- TEST_RETRY (R488): A deferred test is retried after 2^27 clk. -/
  | testRetry (test : Nat)
  /-- TARGETED_TEST_END (R489): A test passes, clearing the score, or fails, fencing the unit. -/
  | targetedTestEnd (test : Nat) (pass : Bool)
  /-- TRACE_BLOCK_CLOSE (R503): A trace block closes after 7 records, a DT overflow or 4,096 clk, and is written or streamed. -/
  | traceBlockClose (core : Nat)
  /-- PORT_TRAINING_COMPLETE (R508): A fabric port finishes training or retraining and its plane returns to service in the spraying rotation. -/
  | portTrainingComplete (plane : Nat)
  /-- MODULE_POWER_LIMIT (R524): The module's 1 ms power estimate crosses the 2,400 W limit, and cores begin or stop skipping issue clk cluster by cluster. -/
  | modulePowerLimit (high : Bool)
  /-- IDE_KM_REQUEST (R517): The host sends an IDE_KM message over DOE within the SPDM session, setting the keys of a link or selective IDE stream. -/
  | ideKmRequest (stream : Nat) (key : Nat)
  deriving DecidableEq, Repr

/-! The rows again in three parts, so that decoding and scheduling compute: the runtime of this Lean has no tags for
more than 244 constructors with fields. `Code.toInstr` is the instruction; nothing else is said of these types. -/

/-- The instructions of majors 1 to 47. -/
inductive OpA where
  | br (o : Off15)
  | brcEq (s : SReg) (o : Off15)
  | brcNe (s : SReg) (o : Off15)
  | brcLt (s : SReg) (o : Off15)
  | brcGe (s : SReg) (o : Off15)
  | bany (p : PReg) (o : Off15)
  | bnone (p : PReg) (o : Off15)
  | balw (s : SReg) (t : BitVec 8) (o : Off7)
  | call (o : Off15)
  | nop
  | exit
  | yld
  | ret (a : SReg)
  | callr (a : SReg)
  | brr (a : SReg)
  | trap (n : BitVec 7)
  | pdis
  | pen
  | icinv (c : BitVec 3) (a : SReg) (b : SReg)
  | add (d : SReg) (a : SReg) (b : SReg)
  | sub (d : SReg) (a : SReg) (b : SReg)
  | mul (d : SReg) (a : SReg) (b : SReg)
  | mulhs (d : SReg) (a : SReg) (b : SReg)
  | mulhu (d : SReg) (a : SReg) (b : SReg)
  | div (d : SReg) (a : SReg) (b : SReg)
  | divu (d : SReg) (a : SReg) (b : SReg)
  | rem (d : SReg) (a : SReg) (b : SReg)
  | remu (d : SReg) (a : SReg) (b : SReg)
  | and (d : SReg) (a : SReg) (b : SReg)
  | or (d : SReg) (a : SReg) (b : SReg)
  | xor (d : SReg) (a : SReg) (b : SReg)
  | andn (d : SReg) (a : SReg) (b : SReg)
  | shl (d : SReg) (a : SReg) (b : SReg)
  | shr (d : SReg) (a : SReg) (b : SReg)
  | sar (d : SReg) (a : SReg) (b : SReg)
  | rol (d : SReg) (a : SReg) (b : SReg)
  | min (d : SReg) (a : SReg) (b : SReg)
  | max (d : SReg) (a : SReg) (b : SReg)
  | minu (d : SReg) (a : SReg) (b : SReg)
  | maxu (d : SReg) (a : SReg) (b : SReg)
  | slt (d : SReg) (a : SReg) (b : SReg)
  | sltu (d : SReg) (a : SReg) (b : SReg)
  | seq (d : SReg) (a : SReg) (b : SReg)
  | clz (d : SReg) (a : SReg)
  | popc (d : SReg) (a : SReg)
  | addi (d : SReg) (a : SReg) (i : Imm)
  | muli (d : SReg) (a : SReg) (i : Imm)
  | andi (d : SReg) (a : SReg) (i : Imm)
  | ori (d : SReg) (a : SReg) (i : Imm)
  | xori (d : SReg) (a : SReg) (i : Imm)
  | shli (d : SReg) (a : SReg) (i : BitVec 6)
  | shri (d : SReg) (a : SReg) (i : BitVec 6)
  | sari (d : SReg) (a : SReg) (i : BitVec 6)
  | slti (d : SReg) (a : SReg) (i : Imm)
  | sltui (d : SReg) (a : SReg) (i : Imm)
  | seqi (d : SReg) (a : SReg) (i : Imm)
  | li (d : SReg) (i : Imm)
  | lih (d : SReg) (a : SReg) (i : Imm)
  | srrd (d : SReg) (n : BitVec 8)
  | srwr (n : BitVec 8) (a : SReg)
  | msave (d : PReg)
  | mrstr (a : PReg)
  | mand (a : PReg)
  | mandn (a : PReg)
  | mor (a : PReg)
  | mnot (a : PReg)
  | mcnt (d : SReg) (a : PReg)
  | mfirst (d : SReg) (a : PReg)
  | pand (d : PReg) (a : PReg) (b : PReg)
  | por (d : PReg) (a : PReg) (b : PReg)
  | pxor (d : PReg) (a : PReg) (b : PReg)
  | pandn (d : PReg) (a : PReg) (b : PReg)
  | pnot (d : PReg) (a : PReg)
  | ppack (v : VReg) (f : PReg) (c : BitVec 3)
  | punpk (f : PReg) (v : VReg) (c : BitVec 3)
  | pcmp (d : PReg) (a : VReg) (b : CmpB) (cc : Cc) (ty : CmpTy) (m : Option Msk)
  | ld (y : Bool) (z : BitVec 3) (d : VReg) (a : VAddr) (m : Option Msk)
  | ldAcq (z : BitVec 3) (sc : BitVec 3) (d : VReg) (a : VAddr) (m : Option Msk)
  | pf (a : VAddr) (m : Option Msk)
  | pfSpec (a : VAddr) (m : Option Msk)
  | st (n : Bool) (z : BitVec 3) (a : VAddr) (d : VReg) (m : Option Msk)
  | stRel (z : BitVec 3) (sc : BitVec 3) (a : VAddr) (d : VReg) (m : Option Msk)
  | ldScalar (z : BitVec 3) (d : SReg) (a : SAddr)
  | ldScalarAcq (z : BitVec 3) (sc : BitVec 3) (d : SReg) (a : SAddr)
  | stScalar (z : BitVec 3) (a : SAddr) (d : SReg)
  | stScalarRel (z : BitVec 3) (sc : BitVec 3) (a : SAddr) (d : SReg)
  | atomAdd (x : Atom)
  | atomSub (x : Atom)
  | atomMin (x : Atom)
  | atomMax (x : Atom)
  | atomAnd (x : Atom)
  | atomOr (x : Atom)
  | atomXor (x : Atom)
  | atomExch (x : Atom)
  | atomCas (x : Atom)
  | atomFaddt (x : Atom)
  | vadd (w : EW) (d : VReg) (a : VReg) (b : VReg) (m : Option Msk)
  | vsub (w : EW) (d : VReg) (a : VReg) (b : VReg) (m : Option Msk)
  | vmul (w : EW) (d : VReg) (a : VReg) (b : VReg) (m : Option Msk)
  | vmulhs (w : EW) (d : VReg) (a : VReg) (b : VReg) (m : Option Msk)
  | vmulhu (w : EW) (d : VReg) (a : VReg) (b : VReg) (m : Option Msk)
  | vmad (w : EW) (d : VReg) (a : VReg) (b : VReg) (e : Option VReg) (m : Option Msk)
  | vmin (w : EW) (d : VReg) (a : VReg) (b : VReg) (m : Option Msk)
  | vmax (w : EW) (d : VReg) (a : VReg) (b : VReg) (m : Option Msk)
  | vminu (w : EW) (d : VReg) (a : VReg) (b : VReg) (m : Option Msk)
  | vmaxu (w : EW) (d : VReg) (a : VReg) (b : VReg) (m : Option Msk)
  | vand (w : EW) (d : VReg) (a : VReg) (b : VReg) (m : Option Msk)
  | vor (w : EW) (d : VReg) (a : VReg) (b : VReg) (m : Option Msk)
  | vxor (w : EW) (d : VReg) (a : VReg) (b : VReg) (m : Option Msk)
  | vandn (w : EW) (d : VReg) (a : VReg) (b : VReg) (m : Option Msk)
  | vshl (w : EW) (d : VReg) (a : VReg) (b : VReg) (m : Option Msk)
  | vshr (w : EW) (d : VReg) (a : VReg) (b : VReg) (m : Option Msk)
  | vsar (w : EW) (d : VReg) (a : VReg) (b : VReg) (m : Option Msk)
  | vabs (w : EW) (d : VReg) (a : VReg) (m : Option Msk)
  | vneg (w : EW) (d : VReg) (a : VReg) (m : Option Msk)
  | vadds (w : EW) (d : VReg) (a : VReg) (b : VReg) (m : Option Msk)
  | vsubs (w : EW) (d : VReg) (a : VReg) (b : VReg) (m : Option Msk)
  | vaddus (w : EW) (d : VReg) (a : VReg) (b : VReg) (m : Option Msk)
  | vsubus (w : EW) (d : VReg) (a : VReg) (b : VReg) (m : Option Msk)
  | vclz (w : EW) (d : VReg) (a : VReg) (m : Option Msk)
  | vpopc (w : EW) (d : VReg) (a : VReg) (m : Option Msk)
  | vmov (d : VReg) (a : VReg) (m : Option Msk)
  | vaddScalar (d : VReg) (a : VReg) (b : SOrI) (m : Option Msk)
  | vsubScalar (d : VReg) (a : VReg) (b : SOrI) (m : Option Msk)
  | vmulScalar (d : VReg) (a : VReg) (b : SOrI) (m : Option Msk)
  | vmulhsScalar (d : VReg) (a : VReg) (b : SOrI) (m : Option Msk)
  | vmulhuScalar (d : VReg) (a : VReg) (b : SOrI) (m : Option Msk)
  | vmadScalar (d : VReg) (a : VReg) (b : SOrI) (e : Option VReg) (m : Option Msk)
  | vminScalar (d : VReg) (a : VReg) (b : SOrI) (m : Option Msk)
  | vmaxScalar (d : VReg) (a : VReg) (b : SOrI) (m : Option Msk)
  | vminuScalar (d : VReg) (a : VReg) (b : SOrI) (m : Option Msk)
  | vmaxuScalar (d : VReg) (a : VReg) (b : SOrI) (m : Option Msk)
  | vandScalar (d : VReg) (a : VReg) (b : SOrI) (m : Option Msk)
  | vorScalar (d : VReg) (a : VReg) (b : SOrI) (m : Option Msk)
  | vxorScalar (d : VReg) (a : VReg) (b : SOrI) (m : Option Msk)
  | vandnScalar (d : VReg) (a : VReg) (b : SOrI) (m : Option Msk)
  | vshlScalar (d : VReg) (a : VReg) (b : SOrI) (m : Option Msk)
  | vshrScalar (d : VReg) (a : VReg) (b : SOrI) (m : Option Msk)
  | vsarScalar (d : VReg) (a : VReg) (b : SOrI) (m : Option Msk)
  | vabsScalar (d : VReg) (a : VReg) (m : Option Msk)
  | vnegScalar (d : VReg) (a : VReg) (m : Option Msk)
  | vaddsScalar (d : VReg) (a : VReg) (b : SOrI) (m : Option Msk)
  | vsubsScalar (d : VReg) (a : VReg) (b : SOrI) (m : Option Msk)
  | vaddusScalar (d : VReg) (a : VReg) (b : SOrI) (m : Option Msk)
  | vsubusScalar (d : VReg) (a : VReg) (b : SOrI) (m : Option Msk)
  | vclzScalar (d : VReg) (a : VReg) (m : Option Msk)
  | vpopcScalar (d : VReg) (a : VReg) (m : Option Msk)
  | vmovScalar (d : VReg) (b : SOrI) (m : Option Msk)
  | vsel (d : VReg) (a : VReg) (b : SelB) (m : Msk)

/-- The instructions of majors 48 to 58. -/
inductive OpB where
  | vfaddF32 (d : VReg) (a : VReg) (b : VReg) (m : Option Msk) (rm : Option (BitVec 3))
  | vfsubF32 (d : VReg) (a : VReg) (b : VReg) (m : Option Msk) (rm : Option (BitVec 3))
  | vfmulF32 (d : VReg) (a : VReg) (b : VReg) (m : Option Msk) (rm : Option (BitVec 3))
  | vfmaF32 (d : VReg) (a : VReg) (b : VReg) (e : Option VReg) (m : Option Msk) (rm : Option (BitVec 3))
  | vfmsF32 (d : VReg) (a : VReg) (b : VReg) (e : Option VReg) (m : Option Msk) (rm : Option (BitVec 3))
  | vfnmaF32 (d : VReg) (a : VReg) (b : VReg) (e : Option VReg) (m : Option Msk) (rm : Option (BitVec 3))
  | vfminF32 (d : VReg) (a : VReg) (b : VReg) (m : Option Msk) (rm : Option (BitVec 3))
  | vfmaxF32 (d : VReg) (a : VReg) (b : VReg) (m : Option Msk) (rm : Option (BitVec 3))
  | vfdivF32 (d : VReg) (a : VReg) (b : VReg) (m : Option Msk) (rm : Option (BitVec 3))
  | vfsqrtF32 (d : VReg) (a : VReg) (m : Option Msk) (rm : Option (BitVec 3))
  | vfrcpF32 (d : VReg) (a : VReg) (m : Option Msk) (rm : Option (BitVec 3))
  | vfrsqF32 (d : VReg) (a : VReg) (m : Option Msk) (rm : Option (BitVec 3))
  | vfabsF32 (d : VReg) (a : VReg) (m : Option Msk) (rm : Option (BitVec 3))
  | vfnegF32 (d : VReg) (a : VReg) (m : Option Msk) (rm : Option (BitVec 3))
  | vfexp2F32 (d : VReg) (a : VReg) (m : Option Msk) (rm : Option (BitVec 3))
  | vflog2F32 (d : VReg) (a : VReg) (m : Option Msk) (rm : Option (BitVec 3))
  | vfaddPacked (t : Bool) (d : VReg) (a : VReg) (b : VReg) (m : Option Msk) (rm : Option (BitVec 3))
  | vfsubPacked (t : Bool) (d : VReg) (a : VReg) (b : VReg) (m : Option Msk) (rm : Option (BitVec 3))
  | vfmulPacked (t : Bool) (d : VReg) (a : VReg) (b : VReg) (m : Option Msk) (rm : Option (BitVec 3))
  | vfmaPacked (t : Bool) (d : VReg) (a : VReg) (b : VReg) (e : Option VReg) (m : Option Msk) (rm : Option (BitVec 3))
  | vfmsPacked (t : Bool) (d : VReg) (a : VReg) (b : VReg) (e : Option VReg) (m : Option Msk) (rm : Option (BitVec 3))
  | vfnmaPacked (t : Bool) (d : VReg) (a : VReg) (b : VReg) (e : Option VReg) (m : Option Msk) (rm : Option (BitVec 3))
  | vfminPacked (t : Bool) (d : VReg) (a : VReg) (b : VReg) (m : Option Msk) (rm : Option (BitVec 3))
  | vfmaxPacked (t : Bool) (d : VReg) (a : VReg) (b : VReg) (m : Option Msk) (rm : Option (BitVec 3))
  | vfdivPacked (t : Bool) (d : VReg) (a : VReg) (b : VReg) (m : Option Msk) (rm : Option (BitVec 3))
  | vfsqrtPacked (t : Bool) (d : VReg) (a : VReg) (m : Option Msk) (rm : Option (BitVec 3))
  | vfrcpPacked (t : Bool) (d : VReg) (a : VReg) (m : Option Msk) (rm : Option (BitVec 3))
  | vfrsqPacked (t : Bool) (d : VReg) (a : VReg) (m : Option Msk) (rm : Option (BitVec 3))
  | vfabsPacked (t : Bool) (d : VReg) (a : VReg) (m : Option Msk) (rm : Option (BitVec 3))
  | vfnegPacked (t : Bool) (d : VReg) (a : VReg) (m : Option Msk) (rm : Option (BitVec 3))
  | vfexp2Packed (t : Bool) (d : VReg) (a : VReg) (m : Option Msk) (rm : Option (BitVec 3))
  | vflog2Packed (t : Bool) (d : VReg) (a : VReg) (m : Option Msk) (rm : Option (BitVec 3))
  | vfaddScalar (d : VReg) (a : VReg) (b : SOrI) (m : Option Msk) (rm : Option (BitVec 3))
  | vfsubScalar (d : VReg) (a : VReg) (b : SOrI) (m : Option Msk) (rm : Option (BitVec 3))
  | vfmulScalar (d : VReg) (a : VReg) (b : SOrI) (m : Option Msk) (rm : Option (BitVec 3))
  | vfmaScalar (d : VReg) (a : VReg) (b : SOrI) (e : Option VReg) (m : Option Msk) (rm : Option (BitVec 3))
  | vfmsScalar (d : VReg) (a : VReg) (b : SOrI) (e : Option VReg) (m : Option Msk) (rm : Option (BitVec 3))
  | vfnmaScalar (d : VReg) (a : VReg) (b : SOrI) (e : Option VReg) (m : Option Msk) (rm : Option (BitVec 3))
  | vfminScalar (d : VReg) (a : VReg) (b : SOrI) (m : Option Msk) (rm : Option (BitVec 3))
  | vfmaxScalar (d : VReg) (a : VReg) (b : SOrI) (m : Option Msk) (rm : Option (BitVec 3))
  | vfdivScalar (d : VReg) (a : VReg) (b : SOrI) (m : Option Msk) (rm : Option (BitVec 3))
  | vfsqrtScalar (d : VReg) (a : VReg) (m : Option Msk) (rm : Option (BitVec 3))
  | vfrcpScalar (d : VReg) (a : VReg) (m : Option Msk) (rm : Option (BitVec 3))
  | vfrsqScalar (d : VReg) (a : VReg) (m : Option Msk) (rm : Option (BitVec 3))
  | vfabsScalar (d : VReg) (a : VReg) (m : Option Msk) (rm : Option (BitVec 3))
  | vfnegScalar (d : VReg) (a : VReg) (m : Option Msk) (rm : Option (BitVec 3))
  | vfexp2Scalar (d : VReg) (a : VReg) (m : Option Msk) (rm : Option (BitVec 3))
  | vflog2Scalar (d : VReg) (a : VReg) (m : Option Msk) (rm : Option (BitVec 3))
  | vcvt (d : VReg) (a : VReg) (sel : BitVec 4) (src : BitVec 5) (dst : BitVec 5) (m : Option Msk) (rm : Option (BitVec 3))
  | qcvt (d : VReg) (a : VReg) (b : SReg) (src : BitVec 5) (dst : BitVec 5) (m : Option Msk) (rm : Option (BitVec 3))
  | shtag (d : SReg) (a : VReg)
  | shpromote (d : VReg)
  | shtry (d : VReg) (p : PReg)
  | shfl (d : VReg) (a : VReg) (b : VReg) (m : Option Msk)
  | shflUp (d : VReg) (a : VReg) (b : SReg) (m : Option Msk)
  | shflDn (d : VReg) (a : VReg) (b : SReg) (m : Option Msk)
  | shflXor (d : VReg) (a : VReg) (b : SReg) (m : Option Msk)
  | bcast (d : VReg) (a : VReg) (b : SReg) (m : Option Msk)
  | voteAny (d : SReg) (p : PReg) (m : Option Msk)
  | voteAll (d : SReg) (p : PReg) (m : Option Msk)
  | ballot (d : SReg) (p : PReg) (k : BitVec 4) (m : Option Msk)
  | vredAdd (d : SReg) (a : VReg) (m : Option Msk)
  | vredMin (d : SReg) (a : VReg) (m : Option Msk)
  | vredMax (d : SReg) (a : VReg) (m : Option Msk)
  | vredMinu (d : SReg) (a : VReg) (m : Option Msk)
  | vredMaxu (d : SReg) (a : VReg) (m : Option Msk)
  | vredAnd (d : SReg) (a : VReg) (m : Option Msk)
  | vredOr (d : SReg) (a : VReg) (m : Option Msk)
  | vredXor (d : SReg) (a : VReg) (m : Option Msk)
  | vredAddF32 (d : SReg) (a : VReg) (m : Option Msk)
  | vredMinF32 (d : SReg) (a : VReg) (m : Option Msk)
  | vredMaxF32 (d : SReg) (a : VReg) (m : Option Msk)
  | vscanAdd (d : VReg) (a : VReg) (m : Option Msk)
  | vscanMin (d : VReg) (a : VReg) (m : Option Msk)
  | vscanMax (d : VReg) (a : VReg) (m : Option Msk)
  | vscanMinu (d : VReg) (a : VReg) (m : Option Msk)
  | vscanMaxu (d : VReg) (a : VReg) (m : Option Msk)
  | vscanAnd (d : VReg) (a : VReg) (m : Option Msk)
  | vscanOr (d : VReg) (a : VReg) (m : Option Msk)
  | vscanXor (d : VReg) (a : VReg) (m : Option Msk)
  | vscanAddF32 (d : VReg) (a : VReg) (m : Option Msk)
  | vscanMinF32 (d : VReg) (a : VReg) (m : Option Msk)
  | vscanMaxF32 (d : VReg) (a : VReg) (m : Option Msk)
  | barG (i : BitVec 4)
  | barC (i : BitVec 3)
  | barL (i : BitVec 2)
  | fence (k : BitVec 2) (s : BitVec 3)
  | wait (l : BitVec 4) (s : BitVec 4) (c : BitVec 4) (t : BitVec 4)
  | tlwait (n : SReg) (k : BitVec 4) (o : Bool) (c : BitVec 2) (s : BitVec 3)
  | waita (a : SReg) (p : BitVec 3)
  | rdenter
  | rdexit
  | wround (s : BitVec 3)
  | dfree (a : SReg) (b : SReg) (c : BitVec 4)
  | alwrd (d : SReg) (a : SReg)
  | cpy (d : SReg) (p : BitVec 3) (r : BitVec 3) (n : Bool)
  | cpy2d (d : SReg) (p : BitVec 3) (r : BitVec 3) (n : Bool)
  | cpyg (d : SReg) (p : BitVec 3) (r : BitVec 3) (v : VReg)
  | qputMemory (s : SReg) (r : BitVec 3) (p : Bool) (q : BitVec 4)
  | qputRegister (v : VReg) (q : BitVec 4)
  | qgetVector (d : VReg) (q : BitVec 4)
  | qgetScalar (d : SReg) (q : BitVec 4)
  | tlread (d : SReg) (o : Bool) (c : BitVec 2) (k : BitVec 4)
  | tfetchC (d : SReg)
  | tfetchQ (d : SReg) (p : Bool) (q : BitVec 4)
  | coll (d : SReg)
  | mma128x128 (q : SReg) (t : TReg) (s : Bool) (a : Bool) (b : Bool)
  | mma128x64 (q : SReg) (t : TReg) (s : Bool) (a : Bool) (b : Bool) (p : BitVec 1)
  | mma64x128 (q : SReg) (t : TReg) (s : Bool) (a : Bool) (b : Bool) (p : BitVec 1)
  | mma64x64 (q : SReg) (t : TReg) (s : Bool) (a : Bool) (b : Bool) (p : BitVec 2)
  | mma32x128 (q : SReg) (t : TReg) (s : Bool) (a : Bool) (b : Bool) (p : BitVec 2)
  | mma128x32 (q : SReg) (t : TReg) (s : Bool) (a : Bool) (b : Bool) (p : BitVec 2)
  | accz (t : TReg)
  | accld (q : SReg) (t : TReg) (g : Bool)
  | accst (q : SReg) (t : TReg) (g : Bool)
  | accmv (t : TReg) (u : TReg)
  | accovx (q : SReg) (t : TReg) (c : Bool)
  | tspawn (d : SReg) (a : SReg)
  | tspawnRel (d : SReg) (b : SReg)
  | frd (d : SReg) (a : SReg)
  | fwr (a : SReg) (b : SReg)
  | fwrClr (d : SReg) (a : SReg)
  | lpost (d : SReg) (a : SReg) (q : BitVec 2)
  | give (d : SReg) (k : BitVec 4)
  | claim (d : SReg) (k : BitVec 4)
  | sread (d : SReg) (a : SReg)
  | csrrd (d : SReg) (a : SReg)
  | csrwr (a : SReg) (b : SReg)
  | tlbinv (s : BitVec 3) (a : SReg) (b : SReg)
  | caprd (d : SReg) (a : SReg)
  | hreg (d : SReg) (a : SReg) (b : SReg)
  | pkrd (d : SReg) (a : SReg)
  | pkwr (d : SReg) (a : SReg) (b : SReg)
  | pkres (d : SReg) (a : SReg)
  | pkretry (d : SReg) (a : SReg)
  | pkredir (d : SReg) (a : SReg) (b : SReg)
  | pkkill (d : SReg) (a : SReg)

/-- The events of the machine. -/
inductive Ev where
  | clauseIssue (core : Nat)
  | preEmption (team : Nat)
  | swapIn (team : Nat)
  | faultTaskRaise (record : Nat)
  | pendingFaultTaskSend
  | faultBankFullRefusal (message : Nat)
  | deckDispatch (core : Nat)
  | taskStart (core : Nat)
  | deckAging
  | taskDeadlineExpiry (task : Nat)
  | recordDeadlineExpiry (record : Nat)
  | faultTaskDeadlineExpiry (task : Nat)
  | runBudgetExpiry (group : Nat)
  | disableBudgetExpiry (team : Nat)
  | barrierWatchdogExpiry (barrier : BarrierKey)
  | stalemate (part : Nat)
  | contextReset (ctx : Nat)
  | contextResetProgress (ctx : Nat)
  | contextEnable (ctx : Nat)
  | contextDisable (ctx : Nat)
  | partitionEnable (part : Nat)
  | partitionSeal (part : Nat)
  | partitionDisable (part : Nat)
  | hRangeGrant (ctx : Nat) (k : Nat) (v : Dw)
  | reclaimGroupDesignate (ctx : Nat) (v : Dw)
  | groupOverflowWrite (group : Nat) (v : Dw)
  | fabannWrite (bound : Dw)
  | launchQueueEnable (ctx : Nat) (q : Nat) (v : Dw)
  | launchQueueDisable (ctx : Nat) (q : Nat)
  | frontEndMonitorWake (ctx : Nat) (q : Nat)
  | commandSeqReread (ctx : Nat) (q : Nat)
  | launch (ctx : Nat) (q : Nat)
  | ib (ctx : Nat) (q : Nat)
  | pred (ctx : Nat) (q : Nat)
  | loop (ctx : Nat) (q : Nat)
  | wrmem (ctx : Nat) (q : Nat)
  | waitmem (ctx : Nat) (q : Nat)
  | ffence (ctx : Nat) (q : Nat)
  | tlsig (ctx : Nat) (q : Nat)
  | nopPacket (ctx : Nat) (q : Nat)
  | link (ctx : Nat) (q : Nat)
  | postedLaunchHandover (ctx : Nat) (q : Nat)
  | placementStep (part : Nat)
  | groupEnd (group : Nat)
  | barrierComplete (barrier : BarrierKey)
  | roundComplete (round : Nat)
  | schedulerRoundStart (ctx : Nat)
  | dfreeQueueingComplete (entry : Nat)
  | reclaimQueueFill (ctx : Nat)
  | waitaWake (team : Nat)
  | spuriousWake (team : Nat)
  | waitConditionMet (team : Nat)
  | lineRequestReturn (access : Nat) (data : List Line)
  | fabricBatchSend (batch : Nat)
  | queueSlotFill (op : Nat) (slot : Nat) (data : Line)
  | hardwarePrefetch (core : Nat) (ctx : Nat) (va : Dw)
  | copySegmentComplete (op : Nat) (seg : Nat) (err : Option SegError)
  | tileOperationComplete (op : Nat) (err : Option TileError)
  | tilePinGrant (core : Nat)
  | matrixEngineReset (core : Nat)
  | collectiveComplete (op : Nat) (data : List Byte)
  | atomicServicePerform (cluster : Nat) (shadow : List Shadow)
  | readRequest (p : Packet)
  | readReply (p : Packet)
  | write (p : Packet)
  | atomicRequest (p : Packet)
  | atomicReply (p : Packet)
  | acknowledgement (p : Packet)
  | faultLaneMessage (p : Packet) (msg : LaneMsg)
  | recoveryAnnouncement (p : Packet)
  | announcementBoundExpiry (peer : Nat)
  | fabricAckTrigger (peer : Nat) (lane : Bool)
  | fabricRetransmit (peer : Nat) (lane : Bool) (psn : Wd)
  | linkTimeout (peer : Nat)
  | portRetrain (plane : Nat)
  | hostModuleReset
  | hostBarAccess (bar : Nat) (off : Nat) (wr : Option (List Byte)) (len : Nat)
  | capOffsetWrite (off : Wd)
  | sendQueueWork (qp : Nat)
  | rdmaCompletion (qp : Nat) (n : Nat) (status : Nat) (data : List Byte)
  | rdmaTimeout (qp : Nat) (n : Nat)
  | rdmaInbound (m : RdmaMsg)
  | powerOn (cfg : BootConfig)
  | patrolScrub (addr : Nat) (bad : Bool)
  | scoreHalving
  | coreVacateMigrate (group : Nat) (core : Nat)
  | testVacateTimeout (test : Nat)
  | testRetry (test : Nat)
  | targetedTestEnd (test : Nat) (pass : Bool)
  | traceBlockClose (core : Nat)
  | portTrainingComplete (plane : Nat)
  | modulePowerLimit (high : Bool)
  | ideKmRequest (stream : Nat) (key : Nat)
  deriving DecidableEq, Repr

/-- A row of the table, by part. -/
inductive Code where
  | a (x : OpA)
  | b (x : OpB)
  | ev (x : Ev)

/-- The row of a part. -/
noncomputable def OpA.toInstr : OpA → Instr
  | .br o => .br o
  | .brcEq s o => .brcEq s o
  | .brcNe s o => .brcNe s o
  | .brcLt s o => .brcLt s o
  | .brcGe s o => .brcGe s o
  | .bany p o => .bany p o
  | .bnone p o => .bnone p o
  | .balw s t o => .balw s t o
  | .call o => .call o
  | .nop => .nop
  | .exit => .exit
  | .yld => .yld
  | .ret a => .ret a
  | .callr a => .callr a
  | .brr a => .brr a
  | .trap n => .trap n
  | .pdis => .pdis
  | .pen => .pen
  | .icinv c a b => .icinv c a b
  | .add d a b => .add d a b
  | .sub d a b => .sub d a b
  | .mul d a b => .mul d a b
  | .mulhs d a b => .mulhs d a b
  | .mulhu d a b => .mulhu d a b
  | .div d a b => .div d a b
  | .divu d a b => .divu d a b
  | .rem d a b => .rem d a b
  | .remu d a b => .remu d a b
  | .and d a b => .and d a b
  | .or d a b => .or d a b
  | .xor d a b => .xor d a b
  | .andn d a b => .andn d a b
  | .shl d a b => .shl d a b
  | .shr d a b => .shr d a b
  | .sar d a b => .sar d a b
  | .rol d a b => .rol d a b
  | .min d a b => .min d a b
  | .max d a b => .max d a b
  | .minu d a b => .minu d a b
  | .maxu d a b => .maxu d a b
  | .slt d a b => .slt d a b
  | .sltu d a b => .sltu d a b
  | .seq d a b => .seq d a b
  | .clz d a => .clz d a
  | .popc d a => .popc d a
  | .addi d a i => .addi d a i
  | .muli d a i => .muli d a i
  | .andi d a i => .andi d a i
  | .ori d a i => .ori d a i
  | .xori d a i => .xori d a i
  | .shli d a i => .shli d a i
  | .shri d a i => .shri d a i
  | .sari d a i => .sari d a i
  | .slti d a i => .slti d a i
  | .sltui d a i => .sltui d a i
  | .seqi d a i => .seqi d a i
  | .li d i => .li d i
  | .lih d a i => .lih d a i
  | .srrd d n => .srrd d n
  | .srwr n a => .srwr n a
  | .msave d => .msave d
  | .mrstr a => .mrstr a
  | .mand a => .mand a
  | .mandn a => .mandn a
  | .mor a => .mor a
  | .mnot a => .mnot a
  | .mcnt d a => .mcnt d a
  | .mfirst d a => .mfirst d a
  | .pand d a b => .pand d a b
  | .por d a b => .por d a b
  | .pxor d a b => .pxor d a b
  | .pandn d a b => .pandn d a b
  | .pnot d a => .pnot d a
  | .ppack v f c => .ppack v f c
  | .punpk f v c => .punpk f v c
  | .pcmp d a b cc ty m => .pcmp d a b cc ty m
  | .ld y z d a m => .ld y z d a m
  | .ldAcq z sc d a m => .ldAcq z sc d a m
  | .pf a m => .pf a m
  | .pfSpec a m => .pfSpec a m
  | .st n z a d m => .st n z a d m
  | .stRel z sc a d m => .stRel z sc a d m
  | .ldScalar z d a => .ldScalar z d a
  | .ldScalarAcq z sc d a => .ldScalarAcq z sc d a
  | .stScalar z a d => .stScalar z a d
  | .stScalarRel z sc a d => .stScalarRel z sc a d
  | .atomAdd x => .atomAdd x
  | .atomSub x => .atomSub x
  | .atomMin x => .atomMin x
  | .atomMax x => .atomMax x
  | .atomAnd x => .atomAnd x
  | .atomOr x => .atomOr x
  | .atomXor x => .atomXor x
  | .atomExch x => .atomExch x
  | .atomCas x => .atomCas x
  | .atomFaddt x => .atomFaddt x
  | .vadd w d a b m => .vadd w d a b m
  | .vsub w d a b m => .vsub w d a b m
  | .vmul w d a b m => .vmul w d a b m
  | .vmulhs w d a b m => .vmulhs w d a b m
  | .vmulhu w d a b m => .vmulhu w d a b m
  | .vmad w d a b e m => .vmad w d a b e m
  | .vmin w d a b m => .vmin w d a b m
  | .vmax w d a b m => .vmax w d a b m
  | .vminu w d a b m => .vminu w d a b m
  | .vmaxu w d a b m => .vmaxu w d a b m
  | .vand w d a b m => .vand w d a b m
  | .vor w d a b m => .vor w d a b m
  | .vxor w d a b m => .vxor w d a b m
  | .vandn w d a b m => .vandn w d a b m
  | .vshl w d a b m => .vshl w d a b m
  | .vshr w d a b m => .vshr w d a b m
  | .vsar w d a b m => .vsar w d a b m
  | .vabs w d a m => .vabs w d a m
  | .vneg w d a m => .vneg w d a m
  | .vadds w d a b m => .vadds w d a b m
  | .vsubs w d a b m => .vsubs w d a b m
  | .vaddus w d a b m => .vaddus w d a b m
  | .vsubus w d a b m => .vsubus w d a b m
  | .vclz w d a m => .vclz w d a m
  | .vpopc w d a m => .vpopc w d a m
  | .vmov d a m => .vmov d a m
  | .vaddScalar d a b m => .vaddScalar d a b m
  | .vsubScalar d a b m => .vsubScalar d a b m
  | .vmulScalar d a b m => .vmulScalar d a b m
  | .vmulhsScalar d a b m => .vmulhsScalar d a b m
  | .vmulhuScalar d a b m => .vmulhuScalar d a b m
  | .vmadScalar d a b e m => .vmadScalar d a b e m
  | .vminScalar d a b m => .vminScalar d a b m
  | .vmaxScalar d a b m => .vmaxScalar d a b m
  | .vminuScalar d a b m => .vminuScalar d a b m
  | .vmaxuScalar d a b m => .vmaxuScalar d a b m
  | .vandScalar d a b m => .vandScalar d a b m
  | .vorScalar d a b m => .vorScalar d a b m
  | .vxorScalar d a b m => .vxorScalar d a b m
  | .vandnScalar d a b m => .vandnScalar d a b m
  | .vshlScalar d a b m => .vshlScalar d a b m
  | .vshrScalar d a b m => .vshrScalar d a b m
  | .vsarScalar d a b m => .vsarScalar d a b m
  | .vabsScalar d a m => .vabsScalar d a m
  | .vnegScalar d a m => .vnegScalar d a m
  | .vaddsScalar d a b m => .vaddsScalar d a b m
  | .vsubsScalar d a b m => .vsubsScalar d a b m
  | .vaddusScalar d a b m => .vaddusScalar d a b m
  | .vsubusScalar d a b m => .vsubusScalar d a b m
  | .vclzScalar d a m => .vclzScalar d a m
  | .vpopcScalar d a m => .vpopcScalar d a m
  | .vmovScalar d b m => .vmovScalar d b m
  | .vsel d a b m => .vsel d a b m

/-- The row of a part. -/
noncomputable def OpB.toInstr : OpB → Instr
  | .vfaddF32 d a b m rm => .vfaddF32 d a b m rm
  | .vfsubF32 d a b m rm => .vfsubF32 d a b m rm
  | .vfmulF32 d a b m rm => .vfmulF32 d a b m rm
  | .vfmaF32 d a b e m rm => .vfmaF32 d a b e m rm
  | .vfmsF32 d a b e m rm => .vfmsF32 d a b e m rm
  | .vfnmaF32 d a b e m rm => .vfnmaF32 d a b e m rm
  | .vfminF32 d a b m rm => .vfminF32 d a b m rm
  | .vfmaxF32 d a b m rm => .vfmaxF32 d a b m rm
  | .vfdivF32 d a b m rm => .vfdivF32 d a b m rm
  | .vfsqrtF32 d a m rm => .vfsqrtF32 d a m rm
  | .vfrcpF32 d a m rm => .vfrcpF32 d a m rm
  | .vfrsqF32 d a m rm => .vfrsqF32 d a m rm
  | .vfabsF32 d a m rm => .vfabsF32 d a m rm
  | .vfnegF32 d a m rm => .vfnegF32 d a m rm
  | .vfexp2F32 d a m rm => .vfexp2F32 d a m rm
  | .vflog2F32 d a m rm => .vflog2F32 d a m rm
  | .vfaddPacked t d a b m rm => .vfaddPacked t d a b m rm
  | .vfsubPacked t d a b m rm => .vfsubPacked t d a b m rm
  | .vfmulPacked t d a b m rm => .vfmulPacked t d a b m rm
  | .vfmaPacked t d a b e m rm => .vfmaPacked t d a b e m rm
  | .vfmsPacked t d a b e m rm => .vfmsPacked t d a b e m rm
  | .vfnmaPacked t d a b e m rm => .vfnmaPacked t d a b e m rm
  | .vfminPacked t d a b m rm => .vfminPacked t d a b m rm
  | .vfmaxPacked t d a b m rm => .vfmaxPacked t d a b m rm
  | .vfdivPacked t d a b m rm => .vfdivPacked t d a b m rm
  | .vfsqrtPacked t d a m rm => .vfsqrtPacked t d a m rm
  | .vfrcpPacked t d a m rm => .vfrcpPacked t d a m rm
  | .vfrsqPacked t d a m rm => .vfrsqPacked t d a m rm
  | .vfabsPacked t d a m rm => .vfabsPacked t d a m rm
  | .vfnegPacked t d a m rm => .vfnegPacked t d a m rm
  | .vfexp2Packed t d a m rm => .vfexp2Packed t d a m rm
  | .vflog2Packed t d a m rm => .vflog2Packed t d a m rm
  | .vfaddScalar d a b m rm => .vfaddScalar d a b m rm
  | .vfsubScalar d a b m rm => .vfsubScalar d a b m rm
  | .vfmulScalar d a b m rm => .vfmulScalar d a b m rm
  | .vfmaScalar d a b e m rm => .vfmaScalar d a b e m rm
  | .vfmsScalar d a b e m rm => .vfmsScalar d a b e m rm
  | .vfnmaScalar d a b e m rm => .vfnmaScalar d a b e m rm
  | .vfminScalar d a b m rm => .vfminScalar d a b m rm
  | .vfmaxScalar d a b m rm => .vfmaxScalar d a b m rm
  | .vfdivScalar d a b m rm => .vfdivScalar d a b m rm
  | .vfsqrtScalar d a m rm => .vfsqrtScalar d a m rm
  | .vfrcpScalar d a m rm => .vfrcpScalar d a m rm
  | .vfrsqScalar d a m rm => .vfrsqScalar d a m rm
  | .vfabsScalar d a m rm => .vfabsScalar d a m rm
  | .vfnegScalar d a m rm => .vfnegScalar d a m rm
  | .vfexp2Scalar d a m rm => .vfexp2Scalar d a m rm
  | .vflog2Scalar d a m rm => .vflog2Scalar d a m rm
  | .vcvt d a sel src dst m rm => .vcvt d a sel src dst m rm
  | .qcvt d a b src dst m rm => .qcvt d a b src dst m rm
  | .shtag d a => .shtag d a
  | .shpromote d => .shpromote d
  | .shtry d p => .shtry d p
  | .shfl d a b m => .shfl d a b m
  | .shflUp d a b m => .shflUp d a b m
  | .shflDn d a b m => .shflDn d a b m
  | .shflXor d a b m => .shflXor d a b m
  | .bcast d a b m => .bcast d a b m
  | .voteAny d p m => .voteAny d p m
  | .voteAll d p m => .voteAll d p m
  | .ballot d p k m => .ballot d p k m
  | .vredAdd d a m => .vredAdd d a m
  | .vredMin d a m => .vredMin d a m
  | .vredMax d a m => .vredMax d a m
  | .vredMinu d a m => .vredMinu d a m
  | .vredMaxu d a m => .vredMaxu d a m
  | .vredAnd d a m => .vredAnd d a m
  | .vredOr d a m => .vredOr d a m
  | .vredXor d a m => .vredXor d a m
  | .vredAddF32 d a m => .vredAddF32 d a m
  | .vredMinF32 d a m => .vredMinF32 d a m
  | .vredMaxF32 d a m => .vredMaxF32 d a m
  | .vscanAdd d a m => .vscanAdd d a m
  | .vscanMin d a m => .vscanMin d a m
  | .vscanMax d a m => .vscanMax d a m
  | .vscanMinu d a m => .vscanMinu d a m
  | .vscanMaxu d a m => .vscanMaxu d a m
  | .vscanAnd d a m => .vscanAnd d a m
  | .vscanOr d a m => .vscanOr d a m
  | .vscanXor d a m => .vscanXor d a m
  | .vscanAddF32 d a m => .vscanAddF32 d a m
  | .vscanMinF32 d a m => .vscanMinF32 d a m
  | .vscanMaxF32 d a m => .vscanMaxF32 d a m
  | .barG i => .barG i
  | .barC i => .barC i
  | .barL i => .barL i
  | .fence k s => .fence k s
  | .wait l s c t => .wait l s c t
  | .tlwait n k o c s => .tlwait n k o c s
  | .waita a p => .waita a p
  | .rdenter => .rdenter
  | .rdexit => .rdexit
  | .wround s => .wround s
  | .dfree a b c => .dfree a b c
  | .alwrd d a => .alwrd d a
  | .cpy d p r n => .cpy d p r n
  | .cpy2d d p r n => .cpy2d d p r n
  | .cpyg d p r v => .cpyg d p r v
  | .qputMemory s r p q => .qputMemory s r p q
  | .qputRegister v q => .qputRegister v q
  | .qgetVector d q => .qgetVector d q
  | .qgetScalar d q => .qgetScalar d q
  | .tlread d o c k => .tlread d o c k
  | .tfetchC d => .tfetchC d
  | .tfetchQ d p q => .tfetchQ d p q
  | .coll d => .coll d
  | .mma128x128 q t s a b => .mma128x128 q t s a b
  | .mma128x64 q t s a b p => .mma128x64 q t s a b p
  | .mma64x128 q t s a b p => .mma64x128 q t s a b p
  | .mma64x64 q t s a b p => .mma64x64 q t s a b p
  | .mma32x128 q t s a b p => .mma32x128 q t s a b p
  | .mma128x32 q t s a b p => .mma128x32 q t s a b p
  | .accz t => .accz t
  | .accld q t g => .accld q t g
  | .accst q t g => .accst q t g
  | .accmv t u => .accmv t u
  | .accovx q t c => .accovx q t c
  | .tspawn d a => .tspawn d a
  | .tspawnRel d b => .tspawnRel d b
  | .frd d a => .frd d a
  | .fwr a b => .fwr a b
  | .fwrClr d a => .fwrClr d a
  | .lpost d a q => .lpost d a q
  | .give d k => .give d k
  | .claim d k => .claim d k
  | .sread d a => .sread d a
  | .csrrd d a => .csrrd d a
  | .csrwr a b => .csrwr a b
  | .tlbinv s a b => .tlbinv s a b
  | .caprd d a => .caprd d a
  | .hreg d a b => .hreg d a b
  | .pkrd d a => .pkrd d a
  | .pkwr d a b => .pkwr d a b
  | .pkres d a => .pkres d a
  | .pkretry d a => .pkretry d a
  | .pkredir d a b => .pkredir d a b
  | .pkkill d a => .pkkill d a

/-- The row of a part. -/
noncomputable def Ev.toInstr : Ev → Instr
  | .clauseIssue core => .clauseIssue core
  | .preEmption team => .preEmption team
  | .swapIn team => .swapIn team
  | .faultTaskRaise record => .faultTaskRaise record
  | .pendingFaultTaskSend => .pendingFaultTaskSend
  | .faultBankFullRefusal message => .faultBankFullRefusal message
  | .deckDispatch core => .deckDispatch core
  | .taskStart core => .taskStart core
  | .deckAging => .deckAging
  | .taskDeadlineExpiry task => .taskDeadlineExpiry task
  | .recordDeadlineExpiry record => .recordDeadlineExpiry record
  | .faultTaskDeadlineExpiry task => .faultTaskDeadlineExpiry task
  | .runBudgetExpiry group => .runBudgetExpiry group
  | .disableBudgetExpiry team => .disableBudgetExpiry team
  | .barrierWatchdogExpiry barrier => .barrierWatchdogExpiry barrier
  | .stalemate part => .stalemate part
  | .contextReset ctx => .contextReset ctx
  | .contextResetProgress ctx => .contextResetProgress ctx
  | .contextEnable ctx => .contextEnable ctx
  | .contextDisable ctx => .contextDisable ctx
  | .partitionEnable part => .partitionEnable part
  | .partitionSeal part => .partitionSeal part
  | .partitionDisable part => .partitionDisable part
  | .hRangeGrant ctx k v => .hRangeGrant ctx k v
  | .reclaimGroupDesignate ctx v => .reclaimGroupDesignate ctx v
  | .groupOverflowWrite group v => .groupOverflowWrite group v
  | .fabannWrite bound => .fabannWrite bound
  | .launchQueueEnable ctx q v => .launchQueueEnable ctx q v
  | .launchQueueDisable ctx q => .launchQueueDisable ctx q
  | .frontEndMonitorWake ctx q => .frontEndMonitorWake ctx q
  | .commandSeqReread ctx q => .commandSeqReread ctx q
  | .launch ctx q => .launch ctx q
  | .ib ctx q => .ib ctx q
  | .pred ctx q => .pred ctx q
  | .loop ctx q => .loop ctx q
  | .wrmem ctx q => .wrmem ctx q
  | .waitmem ctx q => .waitmem ctx q
  | .ffence ctx q => .ffence ctx q
  | .tlsig ctx q => .tlsig ctx q
  | .nopPacket ctx q => .nopPacket ctx q
  | .link ctx q => .link ctx q
  | .postedLaunchHandover ctx q => .postedLaunchHandover ctx q
  | .placementStep part => .placementStep part
  | .groupEnd group => .groupEnd group
  | .barrierComplete barrier => .barrierComplete barrier
  | .roundComplete round => .roundComplete round
  | .schedulerRoundStart ctx => .schedulerRoundStart ctx
  | .dfreeQueueingComplete entry => .dfreeQueueingComplete entry
  | .reclaimQueueFill ctx => .reclaimQueueFill ctx
  | .waitaWake team => .waitaWake team
  | .spuriousWake team => .spuriousWake team
  | .waitConditionMet team => .waitConditionMet team
  | .lineRequestReturn access data => .lineRequestReturn access data
  | .fabricBatchSend batch => .fabricBatchSend batch
  | .queueSlotFill op slot data => .queueSlotFill op slot data
  | .hardwarePrefetch core ctx va => .hardwarePrefetch core ctx va
  | .copySegmentComplete op seg err => .copySegmentComplete op seg err
  | .tileOperationComplete op err => .tileOperationComplete op err
  | .tilePinGrant core => .tilePinGrant core
  | .matrixEngineReset core => .matrixEngineReset core
  | .collectiveComplete op data => .collectiveComplete op data
  | .atomicServicePerform cluster shadow => .atomicServicePerform cluster shadow
  | .readRequest p => .readRequest p
  | .readReply p => .readReply p
  | .write p => .write p
  | .atomicRequest p => .atomicRequest p
  | .atomicReply p => .atomicReply p
  | .acknowledgement p => .acknowledgement p
  | .faultLaneMessage p msg => .faultLaneMessage p msg
  | .recoveryAnnouncement p => .recoveryAnnouncement p
  | .announcementBoundExpiry peer => .announcementBoundExpiry peer
  | .fabricAckTrigger peer lane => .fabricAckTrigger peer lane
  | .fabricRetransmit peer lane psn => .fabricRetransmit peer lane psn
  | .linkTimeout peer => .linkTimeout peer
  | .portRetrain plane => .portRetrain plane
  | .hostModuleReset => .hostModuleReset
  | .hostBarAccess bar off wr len => .hostBarAccess bar off wr len
  | .capOffsetWrite off => .capOffsetWrite off
  | .sendQueueWork qp => .sendQueueWork qp
  | .rdmaCompletion qp n status data => .rdmaCompletion qp n status data
  | .rdmaTimeout qp n => .rdmaTimeout qp n
  | .rdmaInbound m => .rdmaInbound m
  | .powerOn cfg => .powerOn cfg
  | .patrolScrub addr bad => .patrolScrub addr bad
  | .scoreHalving => .scoreHalving
  | .coreVacateMigrate group core => .coreVacateMigrate group core
  | .testVacateTimeout test => .testVacateTimeout test
  | .testRetry test => .testRetry test
  | .targetedTestEnd test pass => .targetedTestEnd test pass
  | .traceBlockClose core => .traceBlockClose core
  | .portTrainingComplete plane => .portTrainingComplete plane
  | .modulePowerLimit high => .modulePowerLimit high
  | .ideKmRequest stream key => .ideKmRequest stream key

/-- The row of a code. -/
noncomputable def Code.toInstr : Code → Instr
  | .a x => x.toInstr
  | .b x => x.toInstr
  | .ev x => x.toInstr

/-- The detail texts of faults, as the spec spells them (R466, DTEXT); `none` where it gives no text. -/
inductive Detail where
  /-- "" -/
  | none
  /-- "tile beyond count" -/
  | tileBeyondCount
  /-- "reserved SRN" -/
  | reservedSrn
  /-- "reserved value" -/
  | reservedValue
  /-- "register beyond count" -/
  | registerBeyondCount
  /-- "late read" -/
  | lateRead
  /-- "not a task" -/
  | notATask
  /-- "refill" -/
  | refill
  /-- "clear empty" -/
  | clearEmpty
  /-- "trap" -/
  | trap
  /-- "engine class" -/
  | engineClass
  /-- "transfer not last" -/
  | transferNotLast
  /-- "scalar field" -/
  | scalarField
  /-- "prefix required" -/
  | prefixRequired
  /-- "header in body" -/
  | headerInBody
  /-- "reserved space" -/
  | reservedSpace
  /-- "reserved scope" -/
  | reservedScope
  /-- "annotation" -/
  | annotation
  /-- "ordered access on loose page" -/
  | orderedOnLoose
  /-- "overflow window on strong page" -/
  | windowOnStrong
  /-- "reserved ORD" -/
  | reservedOrd
  /-- "queue absent" -/
  | queueAbsent
  /-- "count beyond depth" -/
  | countBeyondDepth
  /-- "non-canonical" -/
  | nonCanonical
  /-- "unaligned" -/
  | unaligned
  /-- "register pair" -/
  | registerPair
  /-- "selector" -/
  | selector
  /-- "control" -/
  | control
  /-- "copy operand" -/
  | copyOperand
  /-- "space" -/
  | space
  /-- "collective descriptor" -/
  | collectiveDescriptor
  /-- "collective mismatch" -/
  | collectiveMismatch
  /-- "team beyond group" -/
  | teamBeyondGroup
  /-- "timeline beyond issue" -/
  | timelineBeyondIssue
  /-- "not a barrier member" -/
  | notABarrierMember
  /-- "read depth" -/
  | readDepth
  /-- "round scope" -/
  | roundScope
  /-- "round inside read section" -/
  | roundInsideReadSection
  /-- "tile invalid" -/
  | tileInvalid
  /-- "tile error" -/
  | tileError
  /-- "row crosses line" -/
  | rowCrossesLine
  /-- "data error" -/
  | dataError
  /-- "checksum" -/
  | checksum
  /-- "determinism area full" -/
  | detAreaFull
  /-- "return in determinism mode" -/
  | returnInDeterminism
  /-- "atomic to host" -/
  | atomicToHost
  /-- "privileged instruction" -/
  | privileged
  /-- "not a handler" -/
  | notAHandler
  /-- "CSR address" -/
  | csrAddress
  /-- "CSR level" -/
  | csrLevel
  /-- "CSR partition" -/
  | csrPartition
  /-- "CSR value" -/
  | csrValue
  /-- "partition active" -/
  | partitionActive
  /-- "partition overlap" -/
  | partitionOverlap
  /-- "context active" -/
  | contextActive
  /-- "seal" -/
  | seal
  /-- "malformed entry" -/
  | malformedEntry
  /-- "APERTURE reserved" -/
  | apertureReserved
  /-- "key" -/
  | key
  /-- "permission" -/
  | permission
  /-- "fetch aperture" -/
  | fetchAperture
  /-- "save area malformed" -/
  | saveAreaMalformed
  /-- "save area error" -/
  | saveAreaError
  /-- "Bar full" -/
  | barFull
  /-- "sealed peer" -/
  | sealedPeer
  /-- "AFMT" -/
  | fmtA
  /-- "BFMT" -/
  | fmtB
  /-- "BLK" -/
  | fmtBlk
  /-- "ASC" -/
  | fmtAsc
  /-- "BSC" -/
  | fmtBsc
  /-- "AOP" -/
  | fmtAop
  /-- "BOP" -/
  | fmtBop
  /-- "SSP" -/
  | fmtSsp
  /-- "SAT" -/
  | fmtSat
  deriving DecidableEq, Repr

end Sys2Proof
end

