-- ==== Sys2Proof/Config.lean ====
section
/-! DEFINITION. What is fixed for the part (Table 0-2, R2) and the values the spec leaves open: the latter are opaque
constants without a body, so that nothing can be proved of their values. -/

namespace Sys2Proof.Config

/-- A choice the spec leaves open between two values an access may return or use (R110, R112, R148, R167, R360, R456);
the argument is a fresh number for each choice. -/
opaque freeBit : Nat → Bool

/-- A byte that another module or the host holds when the part reads it at the given moment (notes/assumptions/6.md):
the outside is not part of the model's state, so nothing constrains it. Arguments: a fresh number, and the address. -/
opaque remoteByte : Nat → Nat → BitVec 8

/-- The LPDDR5X bank that holds a line (R123); the spec gives no mapping (DESIGN CHOICE, notes/assumptions/21.md). -/
opaque bankOf : Nat → Nat

/-- The L2 slice that is the home of a line, of its die's 64 (R123, R134); the spec gives no mapping. -/
opaque sliceOf : Nat → Nat

/-- The cluster that owns an L2 slice, of its die's 12 (R317); the spec gives no mapping. -/
opaque ownerOf : Nat → Nat

/-- The bytes of a run of virtual addresses whose home L2 slices a cluster holds, as the Deck compares them (R51); the spec
gives no mapping of lines to slices. Arguments: cluster, first VA, length. -/
opaque nearBytes : Nat → Nat → Nat → Nat

/-- The 1 MiB granule of bonded SRAM that holds a byte of a scratchpad, lane slice or tile (Table 17-2); the spec gives no
mapping. The argument is the byte's home. -/
opaque granuleOf : Nat → Nat

/-- The core whose scratchpad a bank group lies in (R486); 216 or more: none. The spec gives no mapping. -/
opaque granuleCore : Nat → Nat

/-- Of a bank group in a compute core's scratchpad, how many MiB the core must lend more than for the group to hold lent bytes (R105,
R486): 0 to 3; the spec does not place the lent region (notes/assumptions/76.md). -/
opaque granuleRank : Nat → Nat

/-- The address a collective engine writes in a packet of its own (R369, R513); the spec gives none (notes/assumptions/57.md). -/
opaque collAddress : Nat → Nat

/-- The part of a pool in which the Bar puts a record, where it is free (R407, R529); the spec gives no rule of choice
(notes/assumptions/12.md). -/
opaque barIndex : Nat → Nat

/-- The AES key of a pair of modules and a CTXJOIN value (R496), after as many keys before it: ECDH over P-521 between the identity
keys, which never leave their packages. -/
opaque linkKey : Nat → Nat → BitVec 16 → Nat → BitVec 256

/-- AES-256-GCM of a packet (R496): key, IV and payload give the cipher text, of the payload's length. -/
opaque gcmText : BitVec 256 → BitVec 96 → Nat → Nat

/-- The tag of AES-256-GCM (R496): key, IV, additional data, cipher text. -/
opaque gcmTag : BitVec 256 → BitVec 96 → Nat → Nat → BitVec 128

/-- The port at which a packet arrives (R508); the sender chooses its plane, and the packet does not name it. -/
opaque arrivalPort : Nat → Nat

/-- DET0[31:0] of a silent-error fault (Table 16-1, class 26): the shadow's class, sign, exponent and fraction; the spec gives
their places no layout. -/
opaque shadowWord : FpSum → BitVec 32

/-- SHA-512 of a byte string (R494); the function is not the spec's to state (DESIGN CHOICE, notes/assumptions/22.md). -/
opaque sha512 : List Byte → BitVec 512

/-- The private key of the P-521 pair generated at the n-th sealing (R494, R493: keys never leave the package). -/
opaque sealPrivate : Nat → BitVec 528

/-- The public key, x then y, of the pair generated at the n-th sealing (R494). -/
opaque sealPublic : Nat → BitVec 1056

/-- ECDSA P-521 signature by the module identity key (R494). -/
opaque identitySign : BitVec 512 → BitVec 1056

/-- SHA-512 of the firmware image and of the configuration record (Table 17-5). -/
opaque firmwareDigest : BitVec 512
/-- SHA-512 of the configuration record (Table 17-5). -/
opaque recordDigest : BitVec 512

/-- Compute cores of the module, 192; keep cores 192 to 215 (Table 13-6). -/
def computeCores : Nat := 192
/-- All cores (Table 13-6). -/
def allCores : Nat := 216
/-- Clusters (R129). -/
def clusters : Nat := 24
/-- Group slots (R395). -/
def groupSlots : Nat := 8192
/-- Periods of the arithmetic clock in a microsecond (R391; clk runs at 1.9 GHz). -/
def clkPerUs : Nat := 1900
/-- Chunks of a compute core and of a keep core (R42). -/
def chunksOf (core : Nat) : Nat := if core < 192 then 8192 else 2048
/-- Team places of a core, the atomic service team of a keep core taken off (R23). -/
def placesOf (core : Nat) : Nat := if core < 192 then 32 else 15
/-- The fabric's timeout, 5 ms (R514). -/
def linkTimeoutClk : Nat := 9500000

end Sys2Proof.Config
end

