-- ==== Sys2Proof/Machine/State.lean ====
section
/-! DEFINITION. The state of the J9 module, as plain data: teams with their registers, groups, memory, contexts and
partitions, cores, the engines' work in flight, the Deck, the Bar, the front end, the fabric, reliability and trace;
`State.reset` is the machine when bring-up ends (R523, R9). Docstrings name the rule that gives each piece. -/

namespace Sys2Proof.Machine

/-- How a step can stop without a next state. -/
inductive Fault where
  /-- Raised by the shared `issue` when `exec` is called on an instruction while no team holds the issue slot: the spec
  has no such situation (every instruction belongs to a team, R13), and no step of the machine makes such a call. Safe. -/
  | noTeam
  deriving DecidableEq, Repr

/-- How a step can be refused. -/
inductive Refusal where
  /-- Raised by the dispatch of an instruction without a meaning. Safe. -/
  | notModelled (mnemonic : String)
  deriving DecidableEq, Repr

/-- The fault classes (Table 16-1). -/
inductive FaultClass where
  | pageMiss | protection | remoteAtomicDenied | spaceBounds | stackLimit | alignment
  | fpInvalid | fpDiv0 | fpOverflow | fpUnderflow | fpInexact
  | illegalEncoding | illegalPrefix | illegalClause | illegalTarget | illegalEngine | illegalFormat
  | scope | futureOrder | silentError | teamLost | engineReset | linkTimeout | copySegment
  | budgetExpired | deadlineExpired | watchdog | stalemate | enclaveViolation | unserviceable
  deriving DecidableEq, Repr

/-- What a fault says of itself (Table 16-2): class, text, DET0, lane (none: NL), element, AUX, and for the fp classes
the bitmaps of NV, DZ, OF, UF, NX over the lanes (R468); what the text adds: the queue and slot of a `QGET` (R118), the clause
and word offset of the transfer that led to a bad header (R213; DESIGN CHOICE, notes/assumptions/100.md). `expiry`: the number of the
budget expiry that a fault of class budget-expired comes from (R48). -/
structure FaultInfo where
  cls : FaultClass
  detail : Detail
  det0 : Dw
  lane : Option Nat
  elem : Nat
  aux : Nat
  fp : List Mask
  slot : Option (Nat × Nat) := Option.none
  xfer : Option (Dw × Nat) := Option.none
  expiry : Nat := 0
  deriving DecidableEq, Repr

/-- A vector register with its shape tag (R77): one value, base and stride, or a value a lane. -/
inductive VVal where
  | u (x : Wd)
  | a (b d : Wd)
  | g (xs : List Wd)
  deriving DecidableEq, Repr

/-- The registers of a team (Table 2-1, Table 2-2). `v` holds VCNT registers. -/
structure Regs where
  s : Vector Dw 64
  v : List VVal
  p : Vector Mask 16
  exec : Mask
  dead : Mask
  deadsrc : Mask
  fpctl : Wd
  slim : Wd
  seed : Dw
  srctr : Dw
  deriving DecidableEq, Repr

/-- The outstanding counters (R153). -/
structure Cnts where
  ld : Nat
  st : Nat
  cp : Nat
  ti : Nat
  deriving DecidableEq, Repr

/-- One timeline: operations issued, the numbers of those not complete (R149), and the number of the last that BAR.L waits for (R156 to
R158). -/
structure Timeline where
  issued : Nat
  opn : List Nat
  bar : Nat := 0
  deriving DecidableEq, Repr

/-- The four timelines. -/
structure Timelines where
  cpy : Timeline
  tile : Timeline
  gath : Timeline
  coll : Timeline
  deriving DecidableEq, Repr

/-- A register awaited by the interlock (R211). -/
inductive Dest where
  | s (r : SReg)
  | v (r : VReg)
  deriving DecidableEq, Repr

/-- Why a team is descheduled (Table 1-4). `thr`: thresholds of a clause or `WAIT`; `tl`: a timeline of a team at least
n; `dests`: the interlock of R211; `stores`: earlier stores and atomics performed; `slot`: line requests wanted (R124);
`fill`, `head`: n EMPTY slots of a queue, or n slots at its head with data (R116); `tile`: earlier operations on a tile; `accs`: accesses that come
first (Table 4-2), or that it acquires by (R133); `pins`: lines to pin (R348, R437); `cond`: any other condition,
evaluated again when the team is next considered; `sys`: as `stores`, for an instruction that R542 lets complete; `drain`: accesses
and outside requests of a flushed translation, and modules that flush it too (R402); `flush`: a reading of the host link behind the first n writes to the host (R151);
`woken`: a WAITA whose word was written, which completes next (R327);
the others name what wakes the team. -/
inductive Wait where
  | cond
  | thr (l s c t : Nat)
  | tl (team : Nat) (cls : Nat) (n : Nat)
  | dests (ds : List Dest)
  | stores
  | slot (n : Nat)
  | fill (q : Nat) (n : Nat)
  | head (q : Nat) (n : Nat)
  | tile (t : Nat)
  | pins (lines : List Nat) (since : Nat)
  | barrier (k : BarrierKey)
  | waita (addr : Nat)
  | woken
  | waitaPeer (peer : Nat) (pa : Nat)
  | round (id : Nat)
  | fabric (peer : Nat)
  | accs (ids : List Nat)
  | sys
  | drain (ids : List Nat) (rids : List Wd) (far : List Nat := [])
  | flush (n : Nat)
  | lane (rid : Nat) (d : SReg) (two : Bool)
  deriving DecidableEq, Repr

/-- How a team ended; the clause address is kept for the diagnostic record (Table 14-8). -/
inductive EndHow where
  | exited (pc : Dw)
  | killed (pc : Dw)
  | lost
  deriving DecidableEq, Repr

/-- The state of a team (Table 1-4). `parking`: the fault is known and earlier work completes (R462). -/
inductive TeamSt where
  | running
  | wait (w : Wait)
  | swapped
  | parking (f : FaultInfo)
  | parked (rec : Nat)
  | ended (h : EndHow)
  deriving DecidableEq, Repr

/-- An uncorrectable error waiting in the register files (R62, R64, R480): one lane of a G register, a 32-lane word of a G
register's base or of a predicate, or state of no single lane: a scalar register, a register of shape U or A, a special
register by its SRN. -/
inductive RegErr where
  | vlane (r : VReg) (lane : Nat)
  | vword (r : VReg) (w : Nat)
  | pword (r : PReg) (w : Nat)
  | sreg (r : SReg)
  | vside (r : VReg)
  | spec (n : Nat)
  deriving DecidableEq, Repr

/-- The clause in issue (R208, R209): its header, the words after it as fetched, and how many instructions are left,
the one at the park point included. -/
structure Clause where
  hdr : Wd
  words : List Wd
  left : Nat
  deriving DecidableEq, Repr

/-- A team (R13). `key` is GSLOT x 16 + TEAM; `next` is the word offset of the next instruction of the clause, set when
one is decoded; `src` is the clause and offset of the transfer that led to `pc`, none for fall-through (R203, R213). `due`: faults the team meets at its next clause
boundary (R40, R476, R478, R483); `need`: chunks it waits for while swapped out (R43); `lost`: the fault of an abandoned
access and the registers it would have written (R464, R483); `spur`: the last spurious wake (R327);
`pinHeld`: lines held for its MMA (R437), `ovx`: the operations numbered below this one are those its ACCOVX waits for (R353); `resv`: chunks held for the clause in issue, its G registers among them (R43, R67;
0: none); `owed`, `owedAll`: lanes that die, and an end, that errors of its atomics brought while no register of it was in
the core's file (R62, R64); `after`: accesses of other teams that a barrier has ordered before its own (R155, R329). -/
structure Team where
  key : Nat
  uid : Nat
  width : Nat
  role : Nat
  stages : Nat
  tid : Nat
  place : Nat
  st : TeamSt
  pc : Dw
  woff : Nat
  next : Nat
  clause : Option Clause
  src : Option (Dw × Nat)
  nopre : Nat
  yieldNow : Bool
  age : Nat
  regs : Regs
  cnt : Cnts
  tl : Timelines
  rdDepth : Nat
  pdis : Bool
  pdLeft : Nat
  pdAt : Nat
  ovBase : Nat
  ovLen : Nat
  monitor : Option (Nat × Bool)
  handler : Bool
  depth : Nat
  serving : Option Dw
  unserv : Bool
  due : List FaultInfo
  need : Nat
  lost : Option (FaultInfo × List Dest)
  errs : List RegErr
  detSeq : Nat
  spur : Option Nat
  pinHeld : List Nat
  ovx : Option Nat := Option.none
  resv : Nat := 0
  owed : List Nat := []
  owedAll : Bool := false
  after : List Nat := []
  deriving DecidableEq, Repr

/-- What a group runs for: a launch or a task of the Deck. -/
inductive Origin where
  | launch (id : Nat)
  | task (id : Nat)
  deriving DecidableEq, Repr

/-- Why a speculative access was dropped (R117). -/
inductive DropCause where
  | pageMiss | protection | untouched | spaceBounds | allowance | dataError
  deriving DecidableEq, Repr

/-- The source of a slot's fill (Table 3-4); `late`: a QGET has waited for it (R121). -/
structure Fill where
  op : Nat
  idx : Nat
  sp : BitVec 3
  addr : Dw
  len : Nat
  spec : Bool
  late : Bool
  deriving DecidableEq, Repr

/-- A reserved slot of a stream queue (Table 3-4); an EMPTY slot is absent. `pf` of a full slot: 0 no speculative fill, 1
one that came before the demand, 2 one that came after it (R121). -/
inductive QSlot where
  | pending (f : Fill)
  | full (d : Line) (pf : Nat)
  | poisoned (f : Fill) (c : DropCause)
  deriving DecidableEq, Repr

/-- A stream queue: depth, reserved slots from the head (R114, R115); the doublewords of its slots, by place from the head and
number, that hold an uncorrectable error (R481). -/
structure Queue where
  depth : Nat
  slots : List QSlot
  bad : List (Nat × Nat) := []
  deriving DecidableEq, Repr

/-- The issue-time validity bit of a tile (R339), whether its elements became invalid in the order of execution
(Table 10-5), and OVX (R185) (DEDUCED, notes/assumptions/60.md). -/
structure Tile where
  valid : Bool
  bad : Bool
  ovx : Bool
  deriving DecidableEq, Repr

/-- A started group (R30, R395); `stageMap` holds the stage of each team, in order (R27); `renewals`: the expiries for which its run
budget was granted anew (R48). -/
structure Group where
  slot : Nat
  uid : Nat
  ctx : Nat
  core : Nat
  origin : Origin
  lin : Nat
  gx : Nat
  gy : Nat
  gz : Nat
  width : Nat
  stageMap : List Nat
  pool : Nat
  cSize : Nat
  sSize : Nat
  kBase : Nat
  kSize : Nat
  ovReg : Dw
  queues : List Queue
  barSub : List (BitVec 8)
  tiles : List Tile
  pdBud : Nat
  effect : Bool
  budget : Option Nat
  budLog : Nat
  expired : Bool
  renewals : List Nat := []
  deriving DecidableEq, Repr

/-- A freeze in progress (R439, R443, R542): the fault its teams park with, the barrier whose timer expired, the timestamp at expiry,
the teams it has parked, and those found waiting for an answer, each with its place then. `ending`: every team is parked, and of
these teams one is to be named once the packets `acks` of the diagnostic record are acknowledged (R533). -/
structure Freeze where
  f : FaultInfo
  bar : Option BarrierKey
  usec : Nat
  parked : List Nat
  asked : List (Nat × Dw × Nat)
  ending : Option (List (Nat × Nat)) := Option.none
  acks : List Wd := []
  deriving DecidableEq, Repr

/-- A context (Table 13-5), with its handler table (R403), counters (R120, R375), lines prefetched
and not used yet, freeze (R439) and its progress, reset stage (R444:
0 none, 1 STOP, 2 KILL, 3 SETTLE, 4 CLEAR) and determinism run (R497). -/
structure Ctx where
  id : Nat
  ctl : Dw
  pt : Dw
  save : Dw
  det : Dw
  rq : Dw
  join : Dw
  lq : Vector Dw 4
  hr : Vector Dw 8
  handlers : List (Nat × List Dw)
  cnts : List (Nat × Dw)
  pfl : List Nat
  frozen : Option FaultClass
  freeze : Option Freeze := Option.none
  rst : Nat
  run : Bool
  voids : Nat
  deriving DecidableEq, Repr

/-- A partition (Table 13-4), with its sealing count (R494) and the stalemate monitor's marks (R442). -/
structure Part where
  ctl : Dw
  mem : Dw
  h : Dw
  mon : Dw
  sealNo : Nat
  lastEvent : Nat
  lastStale : Nat
  deriving DecidableEq, Repr

/-- The module block (Tables 13-3, 18-2), the capability offset (R400), BOOTSTS (R523), the enabled cores, packages,
planes and present modules of the configuration record; `flash`: the fence entries that firmware has appended to the record (R489),
`soPorts`: scale-out ports in service, `keys`: the KIDs that have a key of a sealed partition, with the number of the sealing that made
it (R494). -/
structure ModRegs where
  modNo : Nat
  domNo : Nat
  fabann : Dw
  hnbase : Dw
  hnptr : Dw
  sotab : Dw
  capOff : Nat
  stage : Nat
  err : Nat
  cores : List Nat
  packages : List Nat
  planes : List Nat
  modules : List Nat
  pwr : Bool
  msix : BitVec 16
  ide : List (Nat × Nat)
  annFirst : Nat
  fenced : List (Nat × Nat)
  flash : List (Nat × Nat) := []
  soPorts : List Nat := [0, 1, 2, 3]
  keys : List (Nat × Nat) := []
  deriving DecidableEq, Repr

/-- A trace unit's open block: time of the header, records, and the last PCHI of each slot (R503). -/
structure TraceUnit where
  time : Nat
  recs : List Dw
  pchi : List (Nat × Nat)
  clauses : Nat
  lost : Nat
  deriving DecidableEq, Repr

/-- A core: hand (R52), round-robin mark (R435), L1 lines (R109), TLB leaves (context, page, level, entry) (R455),
instruction-cache lines
(context x 2^45 + VA / 128, R167), trace unit. -/
structure Core where
  id : Nat
  hand : List Nat
  rr : Nat
  l1 : List (Nat × Line)
  tlb : List (Nat × Nat × Nat × Dw)
  ic : List (Nat × Line)
  trace : TraceUnit
  deriving DecidableEq, Repr

/-- A remote line of an access: request identifier, target (a module, or none for the host), line address; the lowest
lane it serves and the VA of that lane's first byte there (R464); whether its page is STRONG (R165). -/
structure RemLine where
  rid : Wd
  peer : Option Nat
  addr : Nat
  lanes : List (Nat × Nat × Nat)
  lane : Nat := 0
  va : Nat := 0
  so : Bool := false
  deriving DecidableEq, Repr

/-- How a load's bytes become register contents when the last has arrived (R302, R303, R309, R315): lanes written,
lanes that MSK with Z = 1 makes zero (R223), whether the rule shape is U. -/
inductive Finish where
  | none
  | vec (z : BitVec 3) (d : VReg) (mask : Mask) (zero : Mask) (u : Bool)
  | line (d : VReg) (mask : Mask) (zero : Mask)
  | sca (z : BitVec 3) (d : SReg)
  | atomV (ty : BitVec 3) (d : VReg) (mask : Mask) (zero : Mask)
  | atomS (ty : BitVec 3) (d : SReg)
  deriving DecidableEq, Repr

/-- What a report names of a team that has ended with its group (R464, R467). -/
structure Issuer where
  gslot : Nat
  core : Nat
  depth : Nat
  serving : Dw
  tid : Nat
  pc : Dw
  woff : Nat
  deriving DecidableEq, Repr

/-- A load, store or atomic not yet complete (R307, R321): it holds 1 of CNT.LD (`load`) or CNT.ST. `loc`: the SRAM or
L2 has yet to answer; `reqs`: its line requests, each with whether it holds a slot (R122, R124); `rem`: remote lines;
`svc`: lanes in the service queues; `buf`: bytes (lane, offset, value); `bad`: lanes that meet an uncorrectable error;
`acq`: completing it is an acquire of CLUSTER scope or wider (R112); `who`: its team, once that has gone; `plain`: its lines
may enter the L1 (R110); `await`: its team goes on when it has completed (an acquire, Table 4-2); `capd`: lines that a cap has
held back (R120). -/
structure Access where
  id : Nat
  ctx : Nat
  team : Nat
  load : Bool
  loc : Bool
  reqs : List (Nat × Bool)
  rem : List RemLine
  svc : Nat
  buf : List (Nat × Nat × Byte)
  bad : List Nat
  acq : Bool
  fin : Finish
  dests : List Dest
  va : Dw
  who : Option Issuer := Option.none
  plain : Bool := false
  await : Bool := false
  capd : List Nat := []
  deriving DecidableEq, Repr

/-- A prefetch whose line has not come (R117, R122, R305): the line by its home, the line request it holds a slot for (none:
a packet to a peer), the request, and whether the line goes into the core's L1. -/
structure PfReq where
  id : Nat
  core : Nat
  ctx : Nat
  line : Nat
  slot : Option Nat
  rid : Wd
  l1 : Bool
  deriving DecidableEq, Repr

/-- A line of another module that an engine reads (R310, R360): the operation and its segment or slot (a tile operation:
0), the VA of the line and of the first byte wanted there, the request, the line once it has come with its words in error, the
failure met. -/
structure FarLine where
  op : Nat
  no : Nat
  va : Nat
  want : Nat
  rid : Wd
  got : Option Line
  lost : Option FaultInfo
  bad : BitVec 16 := 0
  deriving DecidableEq, Repr

/-- A copy segment (R360, R361): spaces, addresses and bytes left from byte `b`; `acks`: the packets a peer has yet to
acknowledge, each with its first byte, counted from the segment's beginning (R149); `parked` its record; `wside`: the destination is the
side that failed (R411); `fail`: why it parks once the bytes before are acknowledged (R361). -/
structure Seg where
  no : Nat
  ssp : BitVec 3
  src : Dw
  dsp : BitVec 3
  dst : Dw
  len : Nat
  b : Nat
  acks : List (Wd × Nat)
  parked : Option Nat
  wside : Bool := false
  fail : Option FaultInfo := Option.none
  deriving DecidableEq, Repr

/-- A numbered operation of major 54 (R358): class 0 CPY, 2 GATH, 3 COLL; its segments or slots still open. -/
structure AsyncOp where
  id : Nat
  team : Nat
  group : Nat
  cls : Nat
  num : Nat
  minor : Nat
  segs : List Seg
  fills : List Nat
  queue : Option Nat
  coll : List Dw
  own : Option (List Byte) := Option.none
  sent : List Wd := []
  deriving DecidableEq, Repr

/-- A tile operation (R337, R466): the word's minor, flags and tiles, the five registers, row mask, TL.TILE number,
occupancy start, record when parked, lines pinned, and whether it waits for pins after a retry (R349). -/
structure TileOp where
  id : Nat
  team : Nat
  group : Nat
  core : Nat
  tile : Nat
  src : Nat
  minor : Nat
  word : Wd
  sat : Bool
  asrc : Bool
  bsrc : Bool
  pos : Nat
  oprs : List Dw
  rows : BitVec 128
  num : Nat
  at_ : Nat
  parked : Option Nat
  pins : List Nat
  pinWait : Bool
  acks : List Wd
  deriving DecidableEq, Repr

/-- A queued atomic of a service team (R317): a lane of an access of this module, or a packet of a peer; `so`: its page is
STRONG (R165). -/
structure SvcReq where
  id : Nat
  cluster : Nat
  access : Option Nat
  lane : Nat
  team : Nat
  pkt : Option Packet
  addr : Nat
  op : Nat
  ty : BitVec 3
  data : Dw
  cmp : Dw
  ret : Bool
  so : Bool := false
  deriving DecidableEq, Repr

/-- A barrier phase (R329, R438): identifiers of the teams arrived, start of the timer and whether it is held, phases completed; the
accesses that its arrivals come after and that are not performed yet (R155). -/
structure Barrier where
  key : BarrierKey
  arrived : List Nat
  start : Option Nat
  phase : Nat
  before : List Nat := []
  deriving DecidableEq, Repr

/-- A team of another module as a party (R127, R160): its key there, group, cluster, team identifier. -/
structure PeerTeam where
  key : Nat
  group : Nat
  cluster : Nat
  tid : Nat
  deriving DecidableEq, Repr

/-- The identity of a party in a scope record (R127, R160); of another module its front end (none) or a team. -/
inductive Party where
  | team (key : Nat) (uid : Nat) (group : Nat) (cluster : Nat) (tid : Nat)
  | frontEnd
  | peer (m : Nat) (who : Option PeerTeam)
  deriving DecidableEq, Repr

/-- A scope record of a synchronisation line (R160). -/
structure ScopeRec where
  line : Nat
  party : Party
  scope : Nat
  deriving DecidableEq, Repr

/-- A round in progress (R333): issuer (none: the scheduler), scope, teams that must still have a turn, the clk in which its set
was formed (R382), the modules whose joined contexts must still have a turn (DOMAIN scope). -/
structure Round where
  id : Nat
  ctx : Nat
  team : Option Nat
  scope : Nat
  set : List Nat
  at_ : Nat := 0
  far : List Nat := []
  deriving DecidableEq, Repr

/-- A deferred-free entry (R335): accesses its queueing waits for, whether queued, the round that will release it,
whether released, the clk in which it was queued. -/
structure DEntry where
  id : Nat
  ctx : Nat
  addr : Dw
  size : Dw
  cls : Nat
  waits : List Nat
  queued : Bool
  round : Option Nat
  released : Bool
  qclk : Nat := 0
  deriving DecidableEq, Repr

/-- A buffered float reduction (R320). -/
structure DetEntry where
  ctx : Nat
  origin : Origin
  tid : Nat
  seq : Nat
  addr : Nat
  sub : Bool
  ty : BitVec 3
  data : Dw
  kid : Bool := false
  deriving DecidableEq, Repr

/-- Where a Deck task is (R371, R477). -/
inductive TaskSt where
  | waiting | ready | hand (core : Nat) | running
  deriving DecidableEq, Repr

/-- A Deck record (R432): place, generation, the eight doublewords, extension, wait count, level and queueing time;
`bank` 16 is the fault bank. -/
structure Task where
  id : Nat
  die : Nat
  bank : Nat
  idx : Nat
  gen : Nat
  dws : List Dw
  ext : Option (List Dw)
  st : TaskSt
  waitCnt : Nat
  squashed : Bool
  level : Nat
  promoted : Bool
  qtime : Nat
  deriving DecidableEq, Repr

/-- The state of a Bar record (Table 16-8). -/
inductive RecSt where
  | parked | served | member | report
  deriving DecidableEq, Repr

/-- What kind of work a record holds (R407, R466). -/
inductive RecKind where
  | team | tile (op : TileOp) | seg (op : AsyncOp) (s : Seg)
  deriving DecidableEq, Repr

/-- A Bar record (R466): `waits` are the stores its fault task still waits for (R462), `raised` whether that task has
been formed, `spill` the bytes held in the spill space, `entry` the handler entry in force at parking (R404), `pool` the pool it draws on (0 ordinary);
`ids`: ROLE, STAGES, GIDX, GIDY, GIDZ of its team, which outlive the team's group (R467), as do `guid` and `tuid`, which group and team
it was, and `ov`, the group's overflow window (R410); `frz`: the class of the freeze that parked it, under which alone its fault task is
raised (R439, R443), `far`: the module its fault task was sent to (R472). -/
structure Rec where
  id : Nat
  die : Nat
  idx : Nat
  gen : Nat
  kind : RecKind
  st : RecSt
  depth : Nat
  erst : Bool
  rimg : Bool
  fault : FaultInfo
  ctx : Nat
  gslot : Nat
  team : Nat
  tid : Nat
  part : Nat
  pool : Nat
  parts : Nat
  parkt : Nat
  deadline : Nat
  head : Option Nat
  origin : Dw
  pc : Dw
  woff : Nat
  imgva : Dw
  spill : Nat
  page : Nat
  waits : List Nat
  raised : Bool
  entry : Option (List Dw)
  ids : List Nat := []
  guid : Option Nat := Option.none
  tuid : Option Nat := Option.none
  ov : Dw := 0
  frz : Option FaultClass := Option.none
  far : Option Nat := Option.none
  deriving DecidableEq, Repr

/-- A fault task formed and not yet in a bank (R470): its Bar record, entry class, descriptor, whether it escalated; when it was sent
to another module, and under which request (R472). -/
structure PendTask where
  bar : Nat
  cls : FaultClass
  desc : List Dw
  parkt : Nat
  escalated : Bool
  sent : Option Nat
  rid : Wd := 0
  deriving DecidableEq, Repr

/-- A reservation of the distributor for a group of a gang (R428). -/
structure Resv where
  lin : Nat
  core : Nat
  deriving DecidableEq, Repr

/-- A launch handed to the distributor (R424, R427): packet, ancestors among launches (R421), arrival, reservations of the
unstarted gang, the groups ended (linear index, cluster, how each team ended by identifier), K allocations by cluster. -/
structure Launch where
  id : Nat
  ctx : Nat
  dws : List Dw
  parents : List Nat
  arrival : Nat
  resv : List Resv
  ended : List (Nat × Nat × List (Nat × EndHow))
  kAlloc : List (Nat × Nat)
  deriving DecidableEq, Repr

/-- One depth of a command chain (R422). Where fetching goes on: the next packet's VA, or else the VA of the link word to
read, with the packet that holds it (R537), the SEQ expected, and the packets left (IB; none: the chain). `ahead`: packets
fetched ahead (R419); `skip`: packets to skip (PRED); a loop's body with its copies (empty: discarded by FFENCE), the body
packet next and the passes left. -/
structure Frame where
  next : Option Nat
  link : Nat
  last : Nat
  exp : Wd
  left : Option Nat
  ahead : List (Nat × List Dw)
  skip : Nat
  body : List (Nat × List Dw)
  at_ : Nat
  passes : Nat
  deriving DecidableEq, Repr

/-- A launch queue in the front end (R413 to R426): the fields of its queue page, the depths of its chain, the packet in
execution, re-reads made of a packet (0: none) since `firstRead`, posted launches with parent and ancestors, launches
handed over, TLSIG writes to come (packet, word, the launches it waits for), peer writes to be acknowledged, whether it only
completes its packet before it stops (R414), and whether SIGCNT is to be written to the queue page behind a TLSIG write (R422). -/
structure LaunchQ where
  ctx : Nat
  q : Nat
  page : Nat
  state : Nat
  code : Nat
  pva : Nat
  lerr : Nat
  lseq : Wd
  sigcnt : Dw
  frames : List Frame
  cur : Option (Nat × List Dw)
  reread : Nat
  firstRead : Nat
  posted : List (List Dw × Origin × List Nat)
  launched : List Nat
  sigs : List (Nat × Nat × List Nat)
  acks : List Wd
  closing : Bool := false
  sigDue : Bool := false
  deriving DecidableEq, Repr

/-- A packet in flight (R511), with the IV it was last sent under (R496; 0 when it is not encrypted). -/
structure Flight where
  p : Packet
  sent : Nat
  first : Nat
  plane : Nat
  iv : BitVec 96 := 0
  deriving DecidableEq, Repr

/-- What the receiver keeps for a source and lane (R509, R510, R512): BASE, the PSNs received above it, those an
acknowledgement has reported, packets held back, arrivals not acknowledged, time of the first, marked ones, and the partitions
they were for (R442); `unsent`: read requests whose reply has not been sent. -/
structure RxLane where
  base : Wd
  got : List Nat
  reported : List Nat
  held : List Packet
  arrivals : Nat
  firstArr : Nat
  cmc : Nat
  parts : List Nat := []
  unsent : List Nat := []
  deriving DecidableEq, Repr

/-- A key of this module towards a peer for one CTXJOIN value (R496): the keys derived before it, and the packets sent under it,
which is the value of its packet counter. -/
structure Iv where
  join : BitVec 16
  keys : Nat
  sent : Nat
  deriving DecidableEq, Repr

/-- The state kept for one other module (R509 to R515): CAP, next PSN of each lane, packets in flight and queued, its
packets received; `annFirst`: clk + 1 at its first announcement since it recovered; `annUntil`: the end of the bound;
`holdFrom`: when the 5 ms timer was held; `rot`: the rotation of planes. -/
structure Peer where
  id : Nat
  cap : Nat
  psn : Wd
  psnF : Wd
  flight : List Flight
  que : List Packet
  rxO : RxLane
  rxF : RxLane
  annFirst : Nat
  annUntil : Nat
  holdFrom : Nat
  rot : Nat
  ivs : List Iv := []
  deriving DecidableEq, Repr

/-- A batch of packets waiting on a peer's allowance (R311). -/
structure Batch where
  id : Nat
  peer : Nat
  team : Option Nat
  pkts : List Packet
  deriving DecidableEq, Repr

/-- A targeted test (R486 to R490): unit, stage (0 scheduled, 1 deferred, 2 scheduled again after that), time of the last
scheduling or deferral, or of the last error that a scrub found in a unit it tests; of an L2 slice, the way that is under test. -/
structure UnitTest where
  id : Nat
  ukind : Nat
  unum : Nat
  stage : Nat
  since : Nat
  way : Nat := 0
  deriving DecidableEq, Repr

/-- Reliability state (R481, R484 to R486, R489): poisoned doublewords, scores, halvings made of them, tests, fenced units,
the write index and count of overwrites of each die's ring, upsets of shadow units to come (team, lane, element, what the
shadow computes), L2 ways withdrawn (slice, way). -/
structure Rel where
  poison : List Nat
  pips : List (Nat × Nat × Nat)
  halved : Nat
  tests : List UnitTest
  fenced : List (Nat × Nat)
  rlwp : List Nat
  rllost : List Nat
  shadow : List (Nat × Nat × Nat × FpSum)
  ways : List (Nat × Nat) := []
  deriving DecidableEq, Repr

/-- The trace registers of one partition on one die (Table 17-7). -/
structure TrRegs where
  ctl : Dw
  rp : Nat
  wp : Nat
  lost : Dw
  host : Dw
  hlen : Nat
  hrp : Nat
  hwp : Nat
  deriving DecidableEq, Repr

/-- A queue pair of the scale-out engine (R521): entries taken, completions written, entries in progress with the time
each was taken. -/
structure QueuePair where
  id : Nat
  head : Nat
  wp : Nat
  work : List (Nat × Nat × List Dw)
  deriving DecidableEq, Repr

/-- A message of the scale-out engine to the remote endpoint of a queue pair (R520, R521): a work entry's operation with what it sends, or
(`reply`) the answer to an inbound operation, with the bytes of a read (notes/assumptions/75.md). -/
structure RdmaOut where
  qp : Nat
  dom : Nat
  mod : Nat
  rqp : Nat
  reply : Bool
  op : Nat
  va : Dw
  key : Dw
  len : Nat
  data : List Byte
  deriving DecidableEq, Repr

/-- A completion other than a successful one that the host sees of an access of its own (R495, R517). -/
inductive HostCpl where
  | completerAbort | unsupportedRequest
  deriving DecidableEq, Repr

/-- A handler request to another module's Bar in progress (R408). -/
structure LaneReq where
  rid : Nat
  team : Nat
  peer : Nat
  since : Nat
  msg : LaneMsg
  deriving DecidableEq, Repr

/-- A record or entry of a die's firmware stores whose bits are in error when an agent consumes them (R480, Table 17-1). -/
inductive StoreErr where
  | record (id : Nat)
  | task (id : Nat)
  | walk (die ctx lvl va : Nat)
  | trace (die off : Nat)
  deriving DecidableEq, Repr

/-- An input: an event of the outside world or a choice of when internal work happens, a turn given to a team, time
passing, the eviction of a line from its home L2 slice, an upset in a team's registers, what a shadow unit computes for an element
of a team's next checked operation, a corrected error of a unit, a parity error of an L1 line, an uncorrectable error in a firmware
store of a bank group (R480); of other modules: a synchronising access of a party there to a line, by its home (R160), the
end of the read sections that a DOMAIN round waits for there (R333), an ICINV of DOMAIN scope (R168), a TLBINV of DOMAIN scope of a
context joined under a number and the end of such a one of a team here (R402), an AtomicOp request of the host (R517). -/
inductive Input where
  | event (e : Ev)
  | turn (team : Nat)
  | elapse (n : Nat)
  | evict (line : Nat)
  | upset (team : Nat) (e : RegErr)
  | misfire (team : Nat) (lane : Nat) (elem : Nat) (x : FpSum)
  | corrected (ukind : Nat) (unum : Nat)
  | parity (core : Nat) (line : Nat)
  | storeErr (unum : Nat) (e : StoreErr)
  | peerSync (peer : Nat) (who : Option PeerTeam) (line : Nat) (scope : Nat)
  | roundDone (round : Nat) (peer : Nat)
  | peerIcinv (lo : Nat) (n : Nat)
  | peerTlbinv (join : Nat) (lo : Nat) (hi : Nat)
  | drainDone (team : Nat) (peer : Nat)
  | hostAtomic
  deriving DecidableEq, Repr

/-- The module: peers and the host are outside (DESIGN CHOICE, notes/assumptions/1.md); `agenda`, `clk`, `cur`, `free` and `uid` are
the model's own (DESIGN CHOICE, notes/assumptions/80.md). -/
structure State where
  mem : List Host.Cell
  teams : List Team
  groups : List Group
  ctxs : List Ctx
  parts : List Part
  modl : ModRegs
  cores : List Core
  acc : List Access
  pfs : List PfReq
  asy : List AsyncOp
  tops : List TileOp
  far : List FarLine
  svc : List SvcReq
  bars : List Barrier
  scopes : List ScopeRec
  tcache : List (Nat × Nat × Nat × Nat × Dw)
  rounds : List Round
  dfl : List DEntry
  det : List DetEntry
  futFull : List Nat
  futWait : List (Nat × Nat)
  tasks : List Task
  recs : List Rec
  pend : List PendTask
  gens : List (Nat × Nat)
  launches : List Launch
  lqs : List LaunchQ
  peers : List Peer
  batches : List Batch
  laneReqs : List LaneReq
  inTasks : List (Packet × LaneMsg × Nat)
  rel : Rel
  trc : List TrRegs
  qps : List QueuePair
  hostOut : List (Nat × List (Option Byte))
  hostSeen : Nat
  hostRd : List (List Byte)
  hostCpl : List HostCpl
  rdmaOut : List RdmaOut
  fabOut : List (Packet × Nat)
  uid : Nat
  clk : Nat
  cur : Option Nat
  free : Nat
  agenda : List Input
  deriving DecidableEq, Repr

/-- The reset value of a context block (Table 13-5): PDBUD 2^20, every other field zero; no handler, counters zero. -/
def Ctx.init (id : Nat) : Ctx :=
  { id := id, ctl := 0x100000, pt := 0, save := 0, det := 0, rq := 0, join := 0, lq := Vector.replicate 4 0,
    hr := Vector.replicate 8 0, handlers := [], cnts := [], pfl := [], frozen := none, rst := 0, run := false, voids := 0 }

/-- The reset value of a partition block (Table 13-4): BWLOG2 28, STMLOG2 24, every other field zero. -/
def Part.init : Part := { ctl := 0, mem := 0, h := 0, mon := 0x1C18, sealNo := 0, lastEvent := 0, lastStale := 0 }

/-- The state of a core before any work (R52, R109, R455). -/
def Core.init (id : Nat) : Core :=
  { id := id, hand := [], rr := 0, l1 := [], tlb := [], ic := [],
    trace := { time := 0, recs := [], pchi := [], clauses := 0, lost := 0 } }

/-- Nothing received (R509). -/
def RxLane.init : RxLane :=
  { base := 0, got := [], reported := [], held := [], arrivals := 0, firstArr := 0, cmc := 0 }

/-- The state kept for another module at bring-up (R509, R513). -/
def Peer.init (id : Nat) : Peer :=
  { id := id, cap := 255, psn := 0, psnF := 0, flight := [], que := [], rxO := RxLane.init, rxF := RxLane.init,
    annFirst := 0, annUntil := 0, holdFrom := 0, rot := 0 }

/-- The trace registers at bring-up (Table 17-7). -/
def TrRegs.init : TrRegs := { ctl := 0, rp := 0, wp := 0, lost := 0, host := 0, hlen := 0, hrp := 0, hwp := 0 }

/-- The module when bring-up has passed step 8 (Table 18-3): every register at its Reset value, context 0 created at
MODULE, no work. The module number, domain number, enabled units and present modules come from the signed configuration
record, which the spec does not give: DESIGN CHOICE (notes/assumptions/2.md), module 0 of domain 0, all units enabled,
no other module present. -/
def State.reset : State :=
  { mem := [], teams := [], groups := [],
    ctxs := [{ Ctx.init 0 with ctl := 0x2000000000100000 }],
    parts := List.replicate 8 Part.init,
    modl := { modNo := 0, domNo := 0, fabann := 0, hnbase := 0, hnptr := 0, sotab := 0, capOff := 0, stage := 8,
              err := 0, cores := List.range 216, packages := List.range 24, planes := List.range 72, modules := [0],
              pwr := false, msix := 0, ide := [], annFirst := 0, fenced := [] },
    cores := [], acc := [], pfs := [], asy := [], tops := [], far := [], svc := [], bars := [], scopes := [], tcache := [], rounds := [], dfl := [],
    det := [], futFull := [], futWait := [], tasks := [], recs := [], pend := [], gens := [], launches := [], lqs := [],
    peers := [], batches := [], laneReqs := [], inTasks := [],
    rel := { poison := [], pips := [], halved := 0, tests := [], fenced := [], rlwp := [0, 0], rllost := [0, 0], shadow := [] },
    trc := List.replicate 16 TrRegs.init, qps := [], hostOut := [], hostSeen := 0, hostRd := [], hostCpl := [], rdmaOut := [], fabOut := [], uid := 1, clk := 0, cur := none,
    free := 0, agenda := [] }

end Sys2Proof.Machine
end

