-- ==== Sys2Proof/Machine/Ops.lean ====
section
/-! DEFINITION. The named operations that the meanings share: bit fields, memory, registers, the parts of the state,
reliability records. -/

namespace Sys2Proof.Machine

/-- What an instruction answers. -/
abbrev Out := Host.Outcome State Fault Refusal

/-! ### Bit fields -/

/-- Bits [hi:lo] of a number. -/
def bits (x hi lo : Nat) : Nat := (x >>> lo) % 2 ^ (hi + 1 - lo)

/-- Bits [hi:lo] of a doubleword. -/
def fld (x : Dw) (hi lo : Nat) : Nat := bits x.toNat hi lo

/-- Bit i of a doubleword. -/
def flag (x : Dw) (i : Nat) : Bool := x.toNat.testBit i

/-- A doubleword with bits [hi:lo] replaced. -/
def setFld (x : Dw) (hi lo v : Nat) : Dw :=
  let m := (2 ^ (hi + 1 - lo) - 1) <<< lo
  BitVec.ofNat 64 ((x.toNat - (x.toNat &&& m)) + ((v % 2 ^ (hi + 1 - lo)) <<< lo))

/-- 1 for true. -/
def b2n (b : Bool) : Nat := if b then 1 else 0

/-- Count of one bits in the low `n` bits. -/
def popNat : Nat → Nat → Nat
  | 0, _ => 0
  | n + 1, x => x % 2 + popNat n (x / 2)

/-- Position of the lowest one bit among the low `n` bits. -/
def lowBit : Nat → Nat → Nat → Option Nat
  | 0, _, _ => none
  | n + 1, i, x => if x % 2 = 1 then some i else lowBit n (i + 1) (x / 2)

/-- Little-endian bytes of a number (R5). -/
def leBytes : Nat → Nat → List Byte
  | 0, _ => []
  | n + 1, x => BitVec.ofNat 8 x :: leBytes n (x / 256)

/-- The number of little-endian bytes (R5). -/
def leNat : List Byte → Nat
  | [] => 0
  | b :: r => b.toNat + 256 * leNat r

/-- The words of a byte string. -/
def leWords : Nat → List Byte → List Nat
  | 0, _ => []
  | n + 1, bs => leNat (bs.take 4) :: leWords n (bs.drop 4)

/-- The doublewords of a byte string. -/
def leDws : Nat → List Byte → List Dw
  | 0, _ => []
  | n + 1, bs => BitVec.ofNat 64 (leNat (bs.take 8)) :: leDws n (bs.drop 8)

/-- Bytes of doublewords. -/
def dwBytes (ds : List Dw) : List Byte := ds.flatMap (fun d => leBytes 8 d.toNat)

/-- An element put into a list in the place of the one with its key, or at the end. -/
def upsert {α : Type} (key : α → Nat) (x : α) : List α → List α
  | [] => [x]
  | y :: r => if key y = key x then x :: r else y :: upsert key x r

/-! ### Memory: byte addresses of every home (R134), with the space in the upper part -/

/-- Byte of a memory; an unlisted byte reads 0 (DESIGN CHOICE, notes/assumptions/3.md). -/
def Mem.read : List Host.Cell → Nat → Byte
  | [], _ => 0
  | (k, v) :: r, a => if a = k then v else if a < k then 0 else Mem.read r a

/-- A byte written, keeping the canonical form. -/
def Mem.write : List Host.Cell → Nat → Byte → List Host.Cell
  | [], a, v => if v = 0 then [] else [(a, v)]
  | (k, w) :: r, a, v =>
    if a < k then (if v = 0 then (k, w) :: r else (a, v) :: (k, w) :: r)
    else if a = k then (if v = 0 then r else (a, v) :: r)
    else (k, w) :: Mem.write r a v

/-- Every address is above `lo`, addresses rise strictly, no byte is 0. -/
def Mem.wfFrom : Nat → List Host.Cell → Bool
  | _, [] => true
  | lo, (k, v) :: r => decide (lo ≤ k) && decide (v ≠ 0) && Mem.wfFrom (k + 1) r

/-- The canonical form of a memory. -/
def Mem.wf (m : List Host.Cell) : Bool := Mem.wfFrom 0 m

/-- `n` bytes from an address. -/
def Mem.readN (m : List Host.Cell) : Nat → Nat → List Byte
  | _, 0 => []
  | a, n + 1 => Mem.read m a :: Mem.readN m (a + 1) n

/-- Bytes written from an address upward. -/
def Mem.writeN (m : List Host.Cell) : Nat → List Byte → List Host.Cell
  | _, [] => m
  | a, b :: r => Mem.writeN (Mem.write m a b) (a + 1) r

/-- The bytes of [lo, hi) made 0. -/
def Mem.clear (m : List Host.Cell) (lo hi : Nat) : List Host.Cell := m.filter (fun c => !(lo ≤ c.1 && c.1 < hi))

/-- Home of local physical memory (space G, local aperture). -/
def homeG (pa : Nat) : Nat := pa
/-- Home of a chip-scratchpad offset (space H). -/
def homeH (off : Nat) : Nat := 2 ^ 80 + off
/-- Home of a core-scratchpad offset of a group slot (space C). -/
def homeC (gslot off : Nat) : Nat := 2 * 2 ^ 80 + gslot * 2 ^ 40 + off
/-- Home of a cluster-window offset, counted from the window's start (space K). -/
def homeK (cluster off : Nat) : Nat := 3 * 2 ^ 80 + cluster * 2 ^ 40 + off
/-- Home of a lane-slice offset (space L); the team is GSLOT x 16 + TEAM. -/
def homeL (team lane off : Nat) : Nat := 4 * 2 ^ 80 + (team * 1024 + lane) * 2 ^ 40 + off
/-- Home of a byte of an accumulator tile (R69). -/
def homeA (gslot tile off : Nat) : Nat := 5 * 2 ^ 80 + (gslot * 8 + tile) * 2 ^ 40 + off
/-- Home of a byte of a die's spill space (R468). -/
def homeB (die off : Nat) : Nat := 6 * 2 ^ 80 + die * 2 ^ 40 + off
/-- Home of a byte of a die's trace store (R501). -/
def homeT (die off : Nat) : Nat := 7 * 2 ^ 80 + die * 2 ^ 40 + off
/-- What names a byte of a slot of a stream queue, its slots counted from the head (R482). -/
def homeQ (gslot q slot off : Nat) : Nat := 9 * 2 ^ 80 + gslot * 2 ^ 40 + q * 2 ^ 32 + slot * 2 ^ 8 + off
/-- A doubleword is poisoned (R481). -/
def State.poisoned (s : State) (a n : Nat) : Bool :=
  s.rel.poison.any (fun d => a / 8 ≤ d && d * 8 < a + n)

/-- A little-endian doubleword of memory. -/
def State.rd64 (s : State) (a : Nat) : Dw := BitVec.ofNat 64 (leNat (Mem.readN s.mem a 8))

/-! ### Registers of a team -/

/-- The lanes below WIDTH. -/
def widthMask (w : Nat) : Mask := BitVec.ofNat 1024 (2 ^ w - 1)

/-- Scalar register; s0 reads zero (R69). -/
def Team.s (t : Team) (r : SReg) : Dw := if r = 0 then 0 else t.regs.s[r.toNat]

/-- Scalar register written; s0 ignores it (R69). -/
def Team.setS (t : Team) (r : SReg) (x : Dw) : Team :=
  if r = 0 then t else { t with regs := { t.regs with s := t.regs.s.set r.toNat x } }

/-- Predicate register; p0 reads all ones below WIDTH, and no bit at or above WIDTH is set (R69, R70). -/
def Team.p (t : Team) (r : PReg) : Mask :=
  if r = 0 then widthMask t.width else t.regs.p[r.toNat] &&& widthMask t.width

/-- Predicate bits written in the lanes of a mask; p0 ignores it (R69, R70). -/
def Team.setP (t : Team) (r : PReg) (lanes x : Mask) : Team :=
  if r = 0 then t else
    let y := ((t.regs.p[r.toNat] &&& ~~~lanes) ||| (x &&& lanes)) &&& widthMask t.width
    { t with regs := { t.regs with p := t.regs.p.set r.toNat y } }

/-- EXEC written: bits at or above WIDTH and of dead lanes are ignored (R17). -/
def Team.setExec (t : Team) (x : Mask) : Team :=
  { t with regs := { t.regs with exec := x &&& widthMask t.width &&& ~~~t.regs.dead } }

/-- The value a lane reads of a vector register (R77). -/
def VVal.lane : VVal → Nat → Wd
  | .u x, _ => x
  | .a b d, l => b + BitVec.ofNat 32 l * d
  | .g xs, l => xs.getD l 0

/-- The values of lanes 0 to w - 1 (R77). -/
def VVal.lanes (v : VVal) (w : Nat) : List Wd :=
  match v with
  | .u x => List.replicate w x
  | .a b d => (List.range w).map (fun l => b + BitVec.ofNat 32 l * d)
  | .g xs => xs

/-- Shape tag (R81). -/
def VVal.tag : VVal → Nat
  | .u _ => 0
  | .a _ _ => 1
  | .g _ => 2

/-- Vector register; at or above VCNT no instruction reads one (R84). -/
def Team.v (t : Team) (r : VReg) : VVal := t.regs.v.getD r.toNat (.u 0)

/-- VCNT (R84). -/
def Team.vcnt (t : Team) : Nat := t.regs.v.length

/-- Vector register replaced whole. -/
def Team.putV (t : Team) (r : VReg) (x : VVal) : Team :=
  { t with regs := { t.regs with v := t.regs.v.set r.toNat x } }

/-- The mask of a write is full (R79). -/
def Team.full (t : Team) (m : Mask) : Bool := (m ||| t.regs.dead) &&& widthMask t.width == widthMask t.width

/-- Each lane l of a list of lanes with its number. -/
def enum {α : Type} (l : List α) : List (Nat × α) := l.zipIdx.map (fun p => (p.2, p.1))

/-- Lanes of `y` where the mask is set, of `x` elsewhere. -/
def blend (m : Mask) (y x : List Wd) : List Wd :=
  ((enum y).zip x).map (fun p => if m.getLsbD p.1.1 then p.1.2 else p.2)

/-- A vector destination written under R79 with rule shape and value `y` in the lanes of a mask. -/
def Team.writeV (t : Team) (r : VReg) (m : Mask) (y : VVal) : Team :=
  if m = 0 then t
  else if t.full m then t.putV r y
  else
    let old := (t.v r).lanes t.width
    let new := y.lanes t.width
    if (t.v r).tag ≠ 2 ∧ ((enum new).zip old).all (fun p => !m.getLsbD p.1.1 || p.1.2 == p.2) then t
    else t.putV r (.g (blend m new old))

/-- SUMMARY (R18). -/
def summary (x : Mask) : Nat :=
  (List.range 32).foldl (fun a w => if bits x.toNat (32 * w + 31) (32 * w) ≠ 0 then a + 2 ^ w else a) 0

/-- The lanes active for an instruction: EXEC narrowed by MSK (R223). -/
def Team.active (t : Team) (m : Option Msk) : Mask :=
  match m with
  | none => t.regs.exec
  | some k => t.regs.exec &&& (if k.n then ~~~(t.p k.p) else t.p k.p)

/-- Lane numbers of a mask below WIDTH, ascending. -/
def Team.lanesOf (t : Team) (m : Mask) : List Nat := (List.range t.width).filter (fun l => m.getLsbD l)

/-! ### The parts of the state -/

/-- A team by its key. -/
def State.team (s : State) (k : Nat) : Option Team := s.teams.find? (fun t => t.key == k)

/-- The team that holds the issue slot. -/
def State.curTeam (s : State) : Option Team := s.cur.bind s.team

/-- A team replaced. -/
def putTeam (t : Team) : List Team → List Team
  | [] => []
  | u :: r => if u.key = t.key then t :: r else u :: putTeam t r

/-- A team replaced. -/
def State.putTeam (s : State) (t : Team) : State := { s with teams := Machine.putTeam t s.teams }

/-- A team changed. -/
def State.modTeam (s : State) (k : Nat) (f : Team → Team) : State :=
  { s with teams := s.teams.map (fun t => if t.key = k then f t else t) }

/-- The group slot of a team. -/
def Team.gslot (t : Team) : Nat := t.key / 16
/-- TEAM (R26). -/
def Team.index (t : Team) : Nat := t.key % 16

/-- A group by its slot. -/
def State.group (s : State) (g : Nat) : Option Group := s.groups.find? (fun x => x.slot == g)

/-- A group replaced. -/
def State.putGroup (s : State) (g : Group) : State :=
  { s with groups := s.groups.map (fun x => if x.slot = g.slot then g else x) }

/-- A group changed. -/
def State.modGroup (s : State) (k : Nat) (f : Group → Group) : State :=
  { s with groups := s.groups.map (fun x => if x.slot = k then f x else x) }

/-- The group in a slot, or an empty one (a team of a step belongs to a group, R13). -/
def State.groupAt (s : State) (k : Nat) : Group :=
  (s.group k).getD
    { slot := k, uid := 0, ctx := 0, core := 0, origin := .task 0, lin := 0, gx := 0, gy := 0, gz := 0,
      width := 32, stageMap := [], pool := 0, cSize := 0, sSize := 0, kBase := 0, kSize := 0, ovReg := 0,
      queues := [], barSub := [], tiles := [], pdBud := 0, effect := false, budget := none, budLog := 0,
      expired := false }

/-- The group of a team. -/
def State.groupOf (s : State) (t : Team) : Group := s.groupAt t.gslot

/-- A context (R393); one never written holds the reset values of Table 13-5. -/
def State.ctx (s : State) (c : Nat) : Ctx := (s.ctxs.find? (fun x => x.id == c)).getD (Ctx.init c)

/-- A context replaced. -/
def State.putCtx (s : State) (c : Ctx) : State := { s with ctxs := upsert (·.id) c s.ctxs }

/-- A context changed. -/
def State.modCtx (s : State) (c : Nat) (f : Ctx → Ctx) : State := s.putCtx (f (s.ctx c))

/-- The context of a team. -/
def State.ctxOf (s : State) (t : Team) : Nat := (s.groupOf t).ctx

/-- A partition (R392). -/
def State.part (s : State) (p : Nat) : Part := s.parts.getD p Part.init

/-- A partition changed. -/
def State.modPart (s : State) (p : Nat) (f : Part → Part) : State :=
  { s with parts := s.parts.set p (f (s.part p)) }

/-- CTXCTL.EN. -/
def Ctx.en (c : Ctx) : Bool := flag c.ctl 63
/-- CTXCTL.PRIV. -/
def Ctx.priv (c : Ctx) : Nat := fld c.ctl 61 60
/-- CTXCTL.PART. -/
def Ctx.part (c : Ctx) : Nat := fld c.ctl 59 57
/-- CTXCTL.DET. -/
def Ctx.detm (c : Ctx) : Bool := flag c.ctl 56
/-- CTXCTL.TRACE. -/
def Ctx.traceOn (c : Ctx) : Bool := flag c.ctl 55
/-- CTXCTL.KID. -/
def Ctx.kid (c : Ctx) : Nat := fld c.ctl 53 48
/-- CTXCTL.SUPV. -/
def Ctx.supv (c : Ctx) : Nat := fld c.ctl 47 36
/-- CTXCTL.PDBUD. -/
def Ctx.pdbud (c : Ctx) : Nat := fld c.ctl 20 0
/-- PARTCTL.EN. -/
def Part.en (p : Part) : Bool := flag p.ctl 63
/-- PARTCTL.SEALED. -/
def Part.sealBit (p : Part) : Bool := flag p.ctl 62
/-- A partition is sealed while it is enabled with SEALED (R494, R495). -/
def Part.isSealed (p : Part) : Bool := p.en && p.sealBit
/-- PARTMEM.PKG. -/
def Part.pkg (p : Part) : Nat := fld p.mem 47 24
/-- PARTCTL.CLU. -/
def Part.clu (p : Part) : Nat := fld p.ctl 23 0
/-- PARTCTL.LEND. -/
def Part.lend (p : Part) : Nat := fld p.ctl 61 60

/-- An H range of a context holds a byte (R97, R103). -/
def Ctx.inH (c : Ctx) (off : Nat) : Bool :=
  c.hr.toList.any (fun r =>
    flag r 63 && fld r 28 16 * 65536 ≤ off && off < fld r 28 16 * 65536 + fld r 45 32 * 65536)

/-- A byte of space H that a context may use: in one of its ranges, and in its partition's share (R97, R103, R492). -/
def State.inH (s : State) (c off : Nat) : Bool :=
  let h := (s.part (s.ctx c).part).h
  (s.ctx c).inH off && decide (fld h 28 16 * 65536 ≤ off) && decide (off < (fld h 28 16 + fld h 45 32) * 65536)

/-- A context of a sealed partition. -/
def State.sealedCtx (s : State) (c : Nat) : Bool := (s.part (s.ctx c).part).isSealed

/-- A core (R52). -/
def State.core (s : State) (k : Nat) : Core := (s.cores.find? (fun x => x.id == k)).getD (Core.init k)

/-- A core changed. -/
def State.modCore (s : State) (k : Nat) (f : Core → Core) : State :=
  { s with cores := upsert (·.id) (f (s.core k)) s.cores }

/-- The cluster of a core (Table 13-6, R129). -/
def clusterOf (core : Nat) : Nat := if core < 192 then core / 8 else core - 192
/-- The C-die of a core (R129). -/
def dieOf (core : Nat) : Nat := if clusterOf core < 12 then 0 else 1
/-- The C-die of a local physical address (R450). -/
def dieOfPa (pa : Nat) : Nat := if pa >>> 36 < 12 then 0 else 1

/-- A peer's state (R509). -/
def State.peer (s : State) (m : Nat) : Peer := (s.peers.find? (fun x => x.id == m)).getD (Peer.init m)

/-- A peer's state changed. -/
def State.modPeer (s : State) (m : Nat) (f : Peer → Peer) : State :=
  { s with peers := upsert (·.id) (f (s.peer m)) s.peers }

/-- A timeline of a team by class (R149). -/
def Timelines.get (t : Timelines) (c : Nat) : Timeline :=
  match c with
  | 0 => t.cpy
  | 1 => t.tile
  | 2 => t.gath
  | _ => t.coll

/-- A timeline replaced. -/
def Timelines.put (t : Timelines) (c : Nat) (x : Timeline) : Timelines :=
  match c with
  | 0 => { t with cpy := x }
  | 1 => { t with tile := x }
  | 2 => { t with gath := x }
  | _ => { t with coll := x }

/-- The counter of a timeline: the largest n with operations 1 to n complete (R149). -/
def Timeline.count (x : Timeline) : Nat := x.opn.foldl (fun a n => min a (n - 1)) x.issued

/-- The next operation of a class numbered (R149); `loose`: one that BAR.L does not wait for (R157). -/
def Team.number (t : Team) (c : Nat) (loose : Bool := false) : Team × Nat :=
  let x := t.tl.get c
  ({ t with tl := t.tl.put c { issued := x.issued + 1, opn := x.opn ++ [x.issued + 1],
                               bar := if loose then x.bar else x.issued + 1 } }, x.issued + 1)

/-- An operation of a class complete (R149). -/
def Team.complete (t : Team) (c n : Nat) : Team :=
  { t with tl := t.tl.put c { (t.tl.get c) with opn := (t.tl.get c).opn.filter (· ≠ n) } }

/-- A fresh number. -/
def State.fresh (s : State) : State × Nat := ({ s with uid := s.uid + 1 }, s.uid)

/-- A choice the spec leaves open (notes/assumptions/5.md). -/
def State.choose (s : State) : State × Bool := ({ s with free := s.free + 1 }, Config.freeBit s.free)

/-- The module timestamp in µs (R391). -/
def State.usec (s : State) : Nat := s.clk / Config.clkPerUs

/-- One period of the clock passes (DESIGN CHOICE, notes/assumptions/77.md). -/
def State.tick (s : State) : State := { s with clk := s.clk + 1 }

/-! ### Reliability records (R491) -/

/-- A notification of 16 bytes for the host with its MSI-X vector; dropped and counted while the ring is full (R519) (DEDUCED, notes/assumptions/41.md). -/
def State.notify (s : State) (d0 d1 vec : Nat) : State :=
  let n := s.modl.hnptr
  let len := fld n 63 48
  let wp := fld n 15 0
  if len = 0 ∨ (wp + 1) % len = fld n 47 32 % len then
    { s with modl := { s.modl with hnptr := setFld n 31 16 (fld n 31 16 + 1) } }
  else
    { s with
      hostOut := s.hostOut ++ [(fld s.modl.hnbase 63 12 * 4096 + wp % len * 16, (leBytes 8 d0 ++ leBytes 8 d1).map some)]
      modl := { s.modl with hnptr := setFld n 15 0 (wp + 1), msix := s.modl.msix ||| (1 <<< vec) } }

/-- A reliability record written to the ring of a die; types 3 and 5 notify the host (R491, R519). -/
def State.relRec (s : State) (die typ ukind unum pips ctx : Nat) (d1 d2 : Nat) : State :=
  let wp := s.rel.rlwp.getD die 0
  let d0 := typ * 2 ^ 56 + ukind * 2 ^ 52 + unum * 2 ^ 40 + pips * 2 ^ 32 + ctx * 2 ^ 20
  let body := leBytes 8 d0 ++ leBytes 8 (bits s.usec 43 0) ++ leBytes 8 d1 ++ leBytes 8 d2
  let s := { s with
    mem := Mem.writeN s.mem (homeT die ((wp % 32768) * 32)) body
    rel := { s.rel with rlwp := s.rel.rlwp.set die (wp + 1) } }
  if typ = 3 ∨ typ = 5 then s.notify 0 0 8 else s

/-- A reliability record with the overwrite count and record of type 10 that R502 asks for once the ring has been
filled: that record overwrites one too, which it counts (DEDUCED, notes/assumptions/102.md). -/
def State.relRecord (s : State) (die typ ukind unum pips ctx : Nat) (d1 d2 : Nat) : State :=
  let s := s.relRec die typ ukind unum pips ctx d1 d2
  if s.rel.rlwp.getD die 0 > 32768 then
    let n := s.rel.rllost.getD die 0 + 2
    let s := { s with rel := { s.rel with rllost := s.rel.rllost.set die n } }
    s.relRec die 10 15 0 0 0 n 0
  else s

/-- The score of a unit (R484). -/
def State.pips (s : State) (k n : Nat) : Nat :=
  ((s.rel.pips.find? (fun p => p.1 == k && p.2.1 == n)).map (·.2.2)).getD 0

/-- The die of a unit (Table 17-2); of a port, the one its plane leaves (R505). -/
def unitDie (k n : Nat) : Nat :=
  match k with
  | 0 => dieOf n
  | 1 => dieOf (n / 2)
  | 2 => dieOf n
  | 3 => n / 768
  | 4 => n / 64
  | 5 => n / 36
  | _ => 0

/-- Pips added to a unit; from below 64 to 64 or more, a test is scheduled and a record of type 1 written, unless a
test of the unit is scheduled, deferred or running (R484, R486). -/
def State.addPips (s : State) (k n amt : Nat) : State :=
  let old := s.pips k n
  let new := min 255 (old + amt)
  let rest := s.rel.pips.filter (fun p => !(p.1 == k && p.2.1 == n))
  let s := { s with rel := { s.rel with pips := (k, n, new) :: rest } }
  if old < 64 && 64 ≤ new && !s.rel.tests.any (fun u => u.ukind == k && u.unum == n) then
    let u : UnitTest := { id := s.uid, ukind := k, unum := n, stage := 0, since := s.clk }
    let s := { s with uid := s.uid + 1, rel := { s.rel with tests := s.rel.tests ++ [u] } }
    s.relRecord (unitDie k n) 1 k n new 0 0 0
  else s

/-- A determinism run is voided (R499): cause 1 lane death, 2 kill, 3 a skipped float operation. -/
def State.voidRun (s : State) (c die tid cause : Nat) : State :=
  if (s.ctx c).run then
    let s := s.modCtx c (fun x => { x with voids := x.voids + 1 })
    s.relRecord die 8 15 0 0 c (tid * 2 ^ 28 + cause) 0
  else s

/-- The end of a determinism run: the run report (R497, R499). -/
def State.endRun (s : State) (c : Nat) : State :=
  if (s.ctx c).run then
    let n := (s.ctx c).voids
    let s := s.modCtx c (fun x => { x with run := false, voids := 0 })
    s.relRecord 0 9 15 0 0 c n 0
  else s

/-! ### Trace (R500 to R504) -/

/-- Whether a team of a core is recorded (R500). -/
def State.traced (s : State) (core ctx : Nat) : Bool :=
  (s.ctx ctx).traceOn && flag ((s.trc.getD ((s.ctx ctx).part * 2 + dieOf core) TrRegs.init).ctl) 63

/-- The open block of a core written to the partition's ring of its die, and to the host ring when STREAM is set
(R502, R503); unused records are PAD. -/
def State.closeBlock (s : State) (core part : Nat) : State :=
  let u := (s.core core).trace
  if u.recs = [] then s else
  let i := part * 2 + dieOf core
  let r := s.trc.getD i TrRegs.init
  let hdr : Nat := core * 2 ^ 51 + u.time % 2 ^ 51
  let blk := leBytes 8 hdr ++ dwBytes u.recs ++ dwBytes (List.replicate (7 - u.recs.length) 0xF800000000000000)
  let full := flag r.ctl 61 && (r.wp + 1) % 63488 == r.rp
  let s := s.modCore core (fun c => { c with trace := { c.trace with
    recs := []
    time := 0
    lost := if full then u.lost + u.recs.length else 0 } })
  if full then
    { s with trc := s.trc.set i { r with lost := r.lost + BitVec.ofNat 64 u.recs.length } }
  else
    let base := 0x100000 + part * 0x3E0000
    let s := { s with mem := Mem.writeN s.mem (homeT (dieOf core) (base + r.wp * 64)) blk }
    let r := { r with wp := (r.wp + 1) % 63488 }
    if flag r.ctl 62 && r.hlen ≠ 0 then
      if flag r.ctl 61 && (r.hwp + 1) % r.hlen == r.hrp then
        { s with trc := s.trc.set i { r with lost := r.lost + BitVec.ofNat 64 u.recs.length } }
      else
        { s with
          hostOut := s.hostOut ++ [(r.host.toNat + r.hwp * 64, blk.map some)]
          trc := s.trc.set i { r with hwp := (r.hwp + 1) % r.hlen } }
    else { s with trc := s.trc.set i r }

/-- A record of a team added to its core's block. The block closes first when it is 4,096 clk old, before a DT could exceed 16,383,
and after the record when 7 are written (R503); a block opened after records were dropped begins with LOST (Table 17-8). -/
def State.trace (s : State) (core ctx slot typ payload : Nat) : State :=
  if !s.traced core ctx then s else
  let part := (s.ctx ctx).part
  let late := (s.core core).trace.recs ≠ [] && 4096 ≤ s.clk - (s.core core).trace.time
  let s := if late then s.closeBlock core part else s
  let u := (s.core core).trace
  let time := if u.recs = [] then s.clk else u.time
  let recs := if u.recs = [] && u.lost ≠ 0 then [BitVec.ofNat 64 (10 * 2 ^ 59 + u.lost % 2 ^ 40)] else u.recs
  let w : Dw := BitVec.ofNat 64 (typ * 2 ^ 59 + slot * 2 ^ 54 + (s.clk - time) * 2 ^ 40 + payload % 2 ^ 40)
  let s := s.modCore core (fun c => { c with trace := { c.trace with recs := recs ++ [w], time := time } })
  if recs.length = 6 then s.closeBlock core part else s

/-- A record of a team (R503). -/
def State.traceTeam (s : State) (t : Team) (typ payload : Nat) : State :=
  let g := s.groupOf t
  s.trace g.core g.ctx t.place typ payload

/-- A BIND record: how a team came to or left its core (Table 17-8). -/
def State.traceBind (s : State) (t : Team) (how cls : Nat) : State :=
  s.traceTeam t 1 ((s.ctxOf t) * 2 ^ 28 + t.gslot * 2 ^ 15 + t.index * 2 ^ 11 + how * 2 ^ 8 + cls)

/-- A TIMELINE record, when an operation that completed moved the counter of its class (Table 17-8). -/
def State.traceTl (s : State) (t u : Team) (cls : Nat) : State :=
  if (u.tl.get cls).count = (t.tl.get cls).count then s
  else s.traceTeam u 6 (cls * 2 ^ 38 + (u.tl.get cls).count % 2 ^ 38)

/-- A CLAUSE or BRANCH record, after PCHI when PC[51:42] differs from the slot's last (Table 17-8). -/
def State.tracePc (s : State) (t : Team) (typ pc : Nat) : State :=
  let g := s.groupOf t
  if !s.traced g.core g.ctx then s else
  let hi := bits pc 51 42
  let last := ((s.core g.core).trace.pchi.find? (fun p => p.1 == t.place)).map (·.2)
  let s := if last = some hi then s else
    (s.traceTeam t 2 hi).modCore g.core
      (fun c => { c with trace := { c.trace with pchi := upsert (·.1) (t.place, hi) c.trace.pchi } })
  s.traceTeam t typ (bits pc 41 2)

/-! ### Fabric packets (R506 to R513) -/

/-- Allowance of a peer as the fabric keeps it (R513); 0 while a recovery announcement stands. -/
def State.allowance (s : State) (m : Nat) : Nat :=
  let p := s.peer m
  if s.clk < p.annUntil then 0
  else p.cap - (p.flight.filter (fun f => !f.p.lane)).length - (p.que.filter (fun q => !q.lane)).length

/-- Ordinary packets in flight to every destination (R511). -/
def State.inFlight (s : State) : Nat :=
  s.peers.foldl (fun a p => a + (p.flight.filter (fun f => !f.p.lane)).length) 0

/-- The plane a packet takes next: the planes in service in rotation (R508); none is in service. -/
def State.plane (s : State) (rot : Nat) : Option Nat := s.modl.planes[rot % s.modl.planes.length]?

/-- The counter that an encrypted packet of a JOIN value is sent under, then the next one; before it would reach 2^64 − 1 the two
modules derive a new key, and it starts again at 0 (R496). -/
def Iv.next (join : BitVec 16) : List Iv → Iv × List Iv
  | [] => ({ join := join, keys := 0, sent := 0 }, [{ join := join, keys := 0, sent := 1 }])
  | x :: r =>
    if x.join = join then
      let y := if x.sent + 1 = 2 ^ 64 - 1 then { x with keys := x.keys + 1, sent := 0 } else x
      (y, { y with sent := y.sent + 1 } :: r)
    else ((Iv.next join r).1, x :: (Iv.next join r).2)

/-- The 96-bit IV of a packet: SRC, DST, zero, the counter (R496). -/
def Iv.bits (x : Iv) (p : Packet) : BitVec 96 := BitVec.ofNat 96 (p.src % 512 * 2 ^ 87 + p.dst % 512 * 2 ^ 78 + x.sent % 2 ^ 64)

/-- A packet sent, or sent again: an encrypted one under the next counter value of its key (R496). -/
def Peer.seal (p : Peer) (q : Packet) : Peer × BitVec 96 :=
  if q.enc then ({ p with ivs := (Iv.next q.join p.ivs).2 }, (Iv.next q.join p.ivs).1.bits q) else (p, 0)

/-- One packet of a destination moves from QUE into flight when its lane's window has room (R511) and a plane is in service (R508);
with the reply to a read request that request may be acknowledged (R510). -/
def State.pump1 (s : State) (m : Nat) : State :=
  let p := s.peer m
  let room (q : Packet) : Bool :=
    if q.lane then (p.flight.filter (fun f => f.p.lane)).length < 32
    else (p.flight.filter (fun f => !f.p.lane)).length < 128 && s.inFlight < 65536
  match p.que.find? room, s.plane p.rot with
  | some q, some k =>
    let q' := { q with psn := if q.lane then p.psnF else p.psn }
    s.modPeer m (fun x =>
      let (p, iv) := x.seal q'
      { p with
        que := p.que.erase q
        flight := p.flight ++ [{ p := q', sent := s.clk, first := s.clk, plane := k, iv := iv }]
        rxO := match q.ans with
               | some n => { p.rxO with unsent := p.rxO.unsent.erase n.toNat }
               | none => p.rxO
        rot := p.rot + 1
        psn := if q.lane then p.psn else p.psn + 1
        psnF := if q.lane then p.psnF + 1 else p.psnF })
  | _, _ => s

/-- Packets of a destination move into flight while the windows have room. -/
def State.pump (s : State) (m : Nat) : Nat → State
  | 0 => s
  | n + 1 => (s.pump1 m).pump m n

/-- Packets put into QUE of a destination and sent as the window permits (R513). -/
def State.sendPkts (s : State) (m : Nat) (ps : List Packet) : State :=
  (s.modPeer m (fun p => { p with que := p.que ++ ps })).pump m (ps.length + (s.peer m).que.length)

/-- A packet of this module; that of an access of a sealed partition through a leaf with a KID (`kid`) is encrypted and carries
its CTXJOIN (R496) (DEDUCED, notes/assumptions/103.md). -/
def State.mkPkt (s : State) (ctx dst typ pa : Nat) (rid : Wd) (kid : Bool) : Packet :=
  let enc := kid && s.sealedCtx ctx
  { typ := BitVec.ofNat 5 typ, lane := false, src := s.modl.modNo, dst := dst, enc := enc, cm := false, so := false,
    psn := 0, aop := 0, aty := 0, aret := false, pa := pa,
    join := if enc then BitVec.ofNat 16 (fld (s.ctx ctx).join 15 0) else 0, rid := rid, mask := 0, data := 0,
    crcOk := true, ctx := some ctx }

/-- Byte mask and line image of bytes at offsets of a line; a later entry wins (R133, R507). -/
def lineOf (bs : List (Nat × Byte)) : BitVec 128 × Line :=
  bs.foldl (fun (m, d) (o, b) =>
    (m ||| (1 <<< o), (d &&& ~~~((0xFF : Line) <<< (8 * o))) ||| ((b.setWidth 1024) <<< (8 * o)))) (0, 0)

/-- Byte i of a line (R5). -/
def Line.byte (d : Line) (i : Nat) : Byte := (d >>> (8 * i)).setWidth 8

/-- A line of 128 bytes. -/
def lineNat (bs : List Byte) : Line := BitVec.ofNat 1024 (leNat bs)

/-- Write packets for a run of bytes at a peer, one a line (R310); `so`: its page is STRONG (R165); `kid`: its leaf has a KID. -/
def State.writePkts (s : State) (ctx dst : Nat) (so kid : Bool) (pa : Nat) (bs : List Byte) : List Packet :=
  let cells := (enum bs).map (fun p => (pa + p.1, p.2))
  let lines := (cells.map (fun c => c.1 / 128)).dedup
  lines.map (fun l =>
    let md := lineOf ((cells.filter (fun c => c.1 / 128 == l)).map (fun c => (c.1 % 128, c.2)))
    { s.mkPkt ctx dst 2 (l * 128) 0 kid with so := so, mask := md.1, data := md.2 })

/-! ### Faults -/

/-- A fault that belongs to no lane. -/
def mkF (cls : FaultClass) (d : Detail) (det0 aux : Nat) : FaultInfo :=
  { cls := cls, detail := d, det0 := BitVec.ofNat 64 det0, lane := none, elem := 0, aux := aux, fp := [] }

/-- The class codes of Table 16-1. -/
def FaultClass.code : FaultClass → Nat
  | .pageMiss => 1 | .protection => 2 | .remoteAtomicDenied => 3 | .spaceBounds => 4 | .stackLimit => 5
  | .alignment => 6 | .fpInvalid => 8 | .fpDiv0 => 9 | .fpOverflow => 10 | .fpUnderflow => 11 | .fpInexact => 12
  | .illegalEncoding => 16 | .illegalPrefix => 17 | .illegalClause => 18 | .illegalTarget => 19
  | .illegalEngine => 20 | .illegalFormat => 21 | .scope => 24 | .futureOrder => 25 | .silentError => 26
  | .teamLost => 27 | .engineReset => 28 | .linkTimeout => 32 | .copySegment => 33 | .budgetExpired => 34
  | .deadlineExpired => 35 | .watchdog => 40 | .stalemate => 41 | .enclaveViolation => 42 | .unserviceable => 43

/-- The classes of Table 16-1. -/
def FaultClass.all : List FaultClass :=
  [.pageMiss, .protection, .remoteAtomicDenied, .spaceBounds, .stackLimit, .alignment, .fpInvalid, .fpDiv0,
   .fpOverflow, .fpUnderflow, .fpInexact, .illegalEncoding, .illegalPrefix, .illegalClause, .illegalTarget,
   .illegalEngine, .illegalFormat, .scope, .futureOrder, .silentError, .teamLost, .engineReset, .linkTimeout,
   .copySegment, .budgetExpired, .deadlineExpired, .watchdog, .stalemate, .enclaveViolation, .unserviceable]

/-- A class is one of the floating-point conditions, whose record takes four fixed parts (R468, R469). -/
def FaultClass.isFp (c : FaultClass) : Bool := 8 ≤ c.code && c.code ≤ 12

/-! ### Translation (R447 to R456) -/

/-- What an access does to its page (Table 15-3, order 5). -/
inductive AccK where
  | load | store | atom | fetch
  deriving DecidableEq, Repr

/-- An access writes. -/
def AccK.writes : AccK → Bool
  | .store => true
  | .atom => true
  | _ => false

/-- The lowest VA bit that a level's index uses (Table 15-1). -/
def lvlShift : Nat → Nat
  | 1 => 42
  | 2 => 29
  | _ => 16

/-- The index of a level (Table 15-1). -/
def pteIndex (lvl va : Nat) : Nat :=
  match lvl with
  | 1 => bits va 51 42
  | 2 => bits va 41 29
  | _ => bits va 28 16

/-- Two entries have equal fields apart from A and D. -/
def sameEntry (x y : Dw) : Bool := (x ||| 0x6000000000) == (y ||| 0x6000000000)

/-- The bytes [pa, pa + n) lie in packages of a PKG set (R450, R451). -/
def inPackages (pkg pa n : Nat) : Bool :=
  (List.range ((pa + n - 1) / 2 ^ 36 - pa / 2 ^ 36 + 1)).all
    (fun i => pa / 2 ^ 36 + i < 24 && pkg.testBit (pa / 2 ^ 36 + i))

/-- The base address an entry gives. -/
def entryPa (e : Dw) : Nat := fld e 35 0 * 65536

/-- The packages of a context's partition that bring-up has not fenced (R451, R523). -/
def State.pkgOf (s : State) (c : Nat) : Nat :=
  s.modl.packages.foldl (fun a k => a ||| (s.part (s.ctx c).part).pkg &&& 2 ^ k) 0

/-- An entry with V = 1 is malformed (R449, R454); `pkg` holds the partition's packages, `self` this module's number. The physical
page of a local leaf is the page of 64 KiB at the VA (DEDUCED, notes/assumptions/40.md). -/
def entryBad (pkg self lvl va : Nat) (e : Dw) : Bool :=
  let ap := fld e 57 56
  let peer := fld e 55 47
  if !flag e 36 then
    fld e 62 37 ≠ 0 || lvl = 3 || !inPackages pkg (entryPa e) 65536
  else
    (flag e 61 && !flag e 62)
      || (ap ≠ 1 && (peer ≠ 0 || flag e 46))
      || (lvl = 2 && fld e 12 0 ≠ 0)
      || (lvl = 1 && fld e 25 0 ≠ 0)
      || (lvl = 3 && flag e 39 && fld e 4 0 ≠ bits va 20 16)
      || ((ap = 0 || (ap = 1 && peer = self)) && !inPackages pkg (entryPa e + bits va (lvlShift lvl - 1) 16 * 65536) 65536)

/-- The entry that a level of a walk uses, and its address: until a TLBINV, an entry changed while V = 1 is used with
the old fields or the new ones (R456); a cached leaf with D = 0 does not serve a write (R453). -/
def State.pte (s : State) (c die lvl base va : Nat) (wr : Bool) : State × Dw × Nat :=
  let ea := base + 8 * pteIndex lvl va
  let e := s.rd64 (homeG ea)
  match s.tcache.find? (fun x => x.1 == die && x.2.1 == c && x.2.2.1 == lvl && x.2.2.2.1 == va >>> lvlShift lvl) with
  | some (_, _, _, _, o) =>
    if sameEntry o e || (wr && flag o 36 && !flag o 37) then (s, e, ea)
    else
      let (s, b) := s.choose
      (s, if b then o else e, ea)
  | none => (s, e, ea)

/-- The outcome of a walk: a leaf with its level and address, a miss or a malformed entry at a level. -/
inductive Walk where
  | leaf (lvl : Nat) (e : Dw) (ea : Nat)
  | miss (lvl : Nat)
  | bad (lvl : Nat)
  deriving DecidableEq, Repr

/-- One level of a walk: the answer, or the base of the next level. -/
def State.walkLevel (s : State) (c die lvl base va : Nat) (wr : Bool) : State × (Walk ⊕ (Dw × Nat)) :=
  let (s, e, ea) := s.pte c die lvl base va wr
  if !flag e 63 then (s, .inl (.miss lvl))
  else if entryBad (s.pkgOf c) s.modl.modNo lvl va e then (s, .inl (.bad lvl))
  else if flag e 36 then (s, .inl (.leaf lvl e ea))
  else (s, .inr (e, entryPa e))

/-- An entry kept by the translation caches of a die (R455). -/
def State.cachePte (s : State) (c die lvl va : Nat) (e : Dw) : State :=
  if s.tcache.any (fun x => x.1 == die && x.2.1 == c && x.2.2.1 == lvl && x.2.2.2.1 == va >>> lvlShift lvl) then s
  else { s with tcache := (die, c, lvl, va >>> lvlShift lvl, e) :: s.tcache }

/-- The walk of a VA (R447); entries are cached only when it reaches a leaf (R455). -/
def State.walk (s : State) (c die va : Nat) (wr : Bool) : State × Walk :=
  let root := fld (s.ctx c).pt 51 13 * 8192
  match s.walkLevel c die 1 root va wr with
  | (s, .inl (.leaf l e ea)) => (s.cachePte c die 1 va e, .leaf l e ea)
  | (s, .inl w) => (s, w)
  | (s, .inr (e1, b2)) =>
    match s.walkLevel c die 2 b2 va wr with
    | (s, .inl (.leaf l e ea)) => ((s.cachePte c die 1 va e1).cachePte c die 2 va e, .leaf l e ea)
    | (s, .inl w) => (s, w)
    | (s, .inr (e2, b3)) =>
      match s.walkLevel c die 3 b3 va wr with
      | (s, .inl (.leaf l e ea)) =>
        (((s.cachePte c die 1 va e1).cachePte c die 2 va e2).cachePte c die 3 va e, .leaf l e ea)
      | (s, .inl w) => (s, w)
      | (s, .inr _) => (s, .bad 3)

/-- The TLB entry of a core that covers a VA: one leaf, or a CH run (R454, R455), as the leaf of the page; with it whether it is a
run's through another page, whose A and D are not this page's. -/
def State.tlbHit (s : State) (core c va : Nat) : Option (Nat × Dw × Bool) :=
  match (s.core core).tlb.find? (fun x => x.1 == c &&
      ((x.2.1 * 65536) >>> lvlShift x.2.2.1 == va >>> lvlShift x.2.2.1
        || (x.2.2.1 == 3 && flag x.2.2.2 39 && x.2.1 / 32 == va >>> 21))) with
  | none => none
  | some (_, p, l, e) =>
    if l = 3 ∧ p ≠ va >>> 16 then some (l, setFld e 4 0 (bits va 20 16), true) else some (l, e, false)

/-- A page as an access uses it: aperture (0 local, 1 peer, 2 host), module, address of the page of 64 KiB, ordering
kind, address of the leaf where A and D are kept there. -/
structure Page where
  ap : Nat
  peer : Nat
  base : Nat
  ord : Nat
  ea : Option Nat
  kid : Bool := false
  deriving DecidableEq, Repr

/-- What the checks of Table 15-3 need to know of an access: size, whether it breaks R113 on a STRONG page, whether it
is a non-atomic synchronising access (R132) or goes through an overflow window (R108), AUX of remote-atomic-denied. -/
structure XOpt where
  size : Nat := 1
  skew : Bool := false
  sync : Bool := false
  window : Bool := false
  aop : Nat := 0
  deriving DecidableEq, Repr

/-- Checks 2 to 7 of Table 15-3 on a leaf. -/
def State.leafCheck (s : State) (c va : Nat) (k : AccK) (o : XOpt) (lvl : Nat) (e : Dw) : FaultInfo ⊕ Page :=
  let ap := fld e 57 56
  let peer := fld e 55 47
  let loc := ap = 0 ∨ (ap = 1 ∧ peer = s.modl.modNo)
  let ord := fld e 59 58
  let kid := fld e 45 40
  let prot (d : Detail) := (Sum.inl (mkF .protection d va 0) : FaultInfo ⊕ Page)
  if ap = 3 then prot .apertureReserved
  else if ord = 3 then prot .reservedOrd
  else if kid ≠ 0 ∧ kid ≠ (s.ctx c).kid then .inl (mkF .enclaveViolation .key va kid)
  else if ((k = .load ∨ k = .atom) ∧ !flag e 62) ∨ (k.writes ∧ !flag e 61) ∨ (k = .fetch ∧ !flag e 60) then
    prot .permission
  else if ord = 2 ∧ o.window then prot .windowOnStrong
  else if ord = 2 ∧ o.skew then .inl (mkF .alignment .none va o.size)
  else if ord = 1 ∧ o.sync then prot .orderedOnLoose
  else if k = .atom ∧ ap = 2 then prot .atomicToHost
  else if k = .fetch ∧ ¬loc then prot .fetchAperture
  else if k = .atom ∧ ap = 1 ∧ !flag e 46 then .inl (mkF .remoteAtomicDenied .none va (peer * 512 + o.aop))
  else
    let m := 2 ^ lvlShift lvl
    .inr { ap := if loc then 0 else ap, peer := peer, base := entryPa e / m * m + va % m / 65536 * 65536, ord := ord,
           ea := none, kid := decide (kid ≠ 0) }

/-- A demand access to one page translated and checked (R452): the page, or the first fault of Table 15-3. The core's
TLB may serve the fields that stood before a change until a TLBINV covers it (R456); a leaf so served must map the page inside the
partition too (R449), and a run entry read through another page sets this page's own A, and never serves its first write (R453,
R454). -/
def State.xlate (s : State) (core c va : Nat) (k : AccK) (o : XOpt) : State × (FaultInfo ⊕ Page) :=
  let (s, w) := s.walk c (dieOf core) va k.writes
  let w0 : Option (Nat × Dw) := match w with
    | .leaf l e _ => some (l, e)
    | _ => none
  let (s, hit) : State × Option (Nat × Dw × Bool) := match s.tlbHit core c va with
    | some (l, e, run) =>
      if (k.writes && (run || !flag e 37)) || (w0.any (fun (x : Nat × Dw) => x.1 == l && sameEntry x.2 e)) then (s, none)
      else
        let (s, b) := s.choose
        (s, if b then some (l, e, run) else none)
    | none => (s, none)
  match hit, w with
  | some (l, e, run), _ =>
    if entryBad (s.pkgOf c) s.modl.modNo l va e then (s, .inl (mkF .protection .malformedEntry va l))
    else
      match s.leafCheck c va k o l e, w with
      | .inr p, .leaf 3 _ ea => (s, .inr { p with ea := if run then some ea else none })
      | r, _ => (s, r)
  | none, .miss l => (s, .inl (mkF .pageMiss .none va l))
  | none, .bad l => (s, .inl (mkF .protection .malformedEntry va l))
  | none, .leaf l e ea =>
    match s.leafCheck c va k o l e with
    | .inl f => (s, .inl f)
    | .inr p =>
      let s := if (s.core core).tlb.any (fun x => x.1 == c && x.2.1 == va >>> 16) then s
        else s.modCore core (fun x => { x with tlb := (c, va >>> 16, l, e ||| 0x4000000000) :: x.tlb })
      (s, .inr { p with ea := some ea })

/-- Waiters on the 8-byte words that hold [a, a + n) are woken, and armed monitors see the write (R326, R327). -/
def State.wake (s : State) (a n : Nat) : State :=
  { s with teams := s.teams.map (fun t =>
      match t.st with
      | .wait (.waita w) =>
        if w < a + n ∧ a < w + 8 then { t with st := .wait .woken } else t
      | _ =>
        match t.monitor with
        | some (w, false) => if w < a + n ∧ a < w + 8 then { t with monitor := some (w, true) } else t
        | _ => t) }

/-- A set in the leaf before the first demand access through it, D before the first write (R453): an atomic OR at the
entry's home, a write as any other to the waiters on its word (R326, R327). -/
def State.markAD (s : State) (ea : Option Nat) (wr : Bool) : State :=
  match ea with
  | none => s
  | some a =>
    let b := Mem.read s.mem (homeG a + 4)
    let b' := b ||| (if wr then 0x60 else 0x40)
    if b' = b then s else { s with mem := Mem.write s.mem (homeG a + 4) b' }.wake (homeG a) 8

/-- Translations of every page that [va, va + n) touches, or the first fault. -/
def State.xlateRun (s : State) (core c : Nat) (k : AccK) (o : XOpt) : Nat → Nat → State × (FaultInfo ⊕ List Page)
  | _, 0 => (s, .inr [])
  | va, n + 1 =>
    if 2 ^ 52 ≤ va then (s, .inl (mkF .spaceBounds .nonCanonical va 4)) else
    match s.xlate core c va k o with
    | (s, .inl f) => (s, .inl f)
    | (s, .inr p) =>
      match s.xlateRun core c k o ((va / 65536 + 1) * 65536) n with
      | (s, .inl f) => (s, .inl f)
      | (s, .inr ps) => (s, .inr (p :: ps))

/-- Pages that [va, va + n) touches. -/
def pagesOf (va n : Nat) : Nat := if n = 0 then 0 else (va + n - 1) / 65536 - va / 65536 + 1

/-- The physical byte of byte `i` of a run that begins at `va`. -/
def pageByte (ps : List Page) (va i : Nat) : Page × Nat :=
  let p := ps.getD ((va + i) / 65536 - va / 65536) { ap := 0, peer := 0, base := 0, ord := 0, ea := none }
  (p, p.base + (va + i) % 65536)

/-- Bytes of a translated run: local memory, or a byte the outside holds (notes/assumptions/6.md). -/
def State.readRun (s : State) (ps : List Page) (va n : Nat) : State × List Byte :=
  let s := ps.foldl (fun s p => s.markAD p.ea false) s
  ({ s with free := s.free + (if ps.all (fun p => p.ap == 0) then 0 else 1) },
   (List.range n).map (fun i =>
     let (p, a) := pageByte ps va i
     if p.ap = 0 then Mem.read s.mem (homeG a) else Config.remoteByte s.free a))

/-- Bytes read at a VA of a context by a core, as demand loads (Table 9-2). -/
def State.vaRead (s : State) (core c va n : Nat) : State × (FaultInfo ⊕ List Byte) :=
  match s.xlateRun core c .load {} va (pagesOf va n) with
  | (s, .inl f) => (s, .inl f)
  | (s, .inr ps) =>
    let (s, bs) := s.readRun ps va n
    (s, .inr bs)

/-- Bytes performed at a home (R134): memory, waiters, and the poison of words written whole (R481) (DEDUCED, notes/assumptions/53.md). -/
def State.perform (s : State) (a : Nat) (bs : List Byte) : State :=
  let s := { s with
    mem := Mem.writeN s.mem a bs
    rel := { s.rel with poison := s.rel.poison.filter (fun d => !(a ≤ d * 8 && d * 8 + 8 ≤ a + bs.length)) } }
  s.wake a bs.length

/-- The part of a run on each of its pages: page, address, bytes. -/
def splitPages (ps : List Page) (va : Nat) (bs : List Byte) : List (Page × Nat × List Byte) :=
  (enum ps).map (fun q =>
    let lo := if q.1 = 0 then 0 else (va / 65536 + q.1) * 65536 - va
    let hi := (va / 65536 + q.1 + 1) * 65536 - va
    (q.2, q.2.base + (va + lo) % 65536, (bs.drop lo).take (hi - lo)))

/-- Bytes of a translated run performed at their homes: local memory, the host, or packets to a peer. -/
def State.writeRun (s : State) (ctx : Nat) (ps : List Page) (va : Nat) (bs : List Byte) : State :=
  (splitPages ps va bs).foldl (fun s q =>
    let s := s.markAD q.1.ea true
    match q.1.ap with
    | 0 => s.perform (homeG q.2.1) q.2.2
    | 1 => s.sendPkts q.1.peer (s.writePkts ctx q.1.peer (q.1.ord == 2) q.1.kid q.2.1 q.2.2)
    | _ => { s with hostOut := s.hostOut ++ [(q.2.1, q.2.2.map some)] }) s

/-- Bytes written at a VA of a context by a core. -/
def State.vaWrite (s : State) (core c va : Nat) (bs : List Byte) : State × Option FaultInfo :=
  match s.xlateRun core c .store {} va (pagesOf va bs.length) with
  | (s, .inl f) => (s, some f)
  | (s, .inr ps) => (s.writeRun c ps va bs, none)

/-! ### Save-area images (R88 to R90) -/

/-- Bytes of a mask, lane l at bit l. -/
def maskBytes (m : Mask) : List Byte := leBytes 128 m.toNat

/-- One vector entry (R89); a dead lane's word is saved as zero. -/
def vecEntry (w : Nat) (dead : Mask) (r : Nat) (v : VVal) : List Byte :=
  leBytes 4 (v.tag + r * 256) ++
    match v with
    | .u x => leBytes 4 x.toNat
    | .a b d => leBytes 4 b.toNat ++ leBytes 4 d.toNat
    | .g xs => ((enum (xs.take w)).map (fun p => leBytes 4 (if dead.getLsbD p.1 then 0 else p.2.toNat))).flatten

/-- The disable budget a team has left (R39, R41): it does not count while the team is parked or swapped out. -/
def Team.pdRest (t : Team) (clk : Nat) : Nat :=
  if !t.pdis then 0 else
  match t.st with
  | .swapped => t.pdLeft
  | .parked _ => t.pdLeft
  | _ => t.pdLeft - (clk - t.pdAt)

/-- The image of a team in the layout of Table 2-5. -/
def Team.image (t : Team) (clk : Nat) : List Byte :=
  let r := t.regs
  leBytes 4 (2 ^ 16 + Nat.log2 (t.width / 32) * 256 + t.vcnt) ++ List.replicate 60 0
    ++ ((List.range 64).map (fun i => leBytes 8 (t.s (BitVec.ofNat 6 i)).toNat)).flatten
    ++ ((List.range 16).map (fun i => maskBytes (t.p (BitVec.ofNat 4 i)))).flatten
    ++ maskBytes r.exec ++ maskBytes r.dead ++ maskBytes r.deadsrc
    ++ leBytes 4 r.fpctl.toNat ++ leBytes 4 r.slim.toNat ++ leBytes 8 r.seed.toNat
    ++ leBytes 2 t.cnt.ld ++ leBytes 2 t.cnt.st ++ leBytes 2 t.cnt.cp ++ leBytes 2 t.cnt.ti
    ++ leBytes 4 (t.rdDepth + b2n t.pdis * 256)
    ++ leBytes 4 (t.pdRest clk)
    ++ leBytes 8 t.pc.toNat ++ List.replicate 8 0
    ++ leBytes 8 t.tl.cpy.count ++ leBytes 8 t.tl.tile.count ++ leBytes 8 t.tl.gath.count ++ leBytes 8 t.tl.coll.count
    ++ leBytes 8 r.srctr.toNat ++ List.replicate 40 0
    ++ ((enum r.v).map (fun p => vecEntry t.width r.dead p.1 p.2)).flatten

/-- The entries for registers `r` onward, or none when one is malformed (R90); `n` entries are left. -/
def parseVecs (w : Nat) : Nat → Nat → List Byte → Option (List VVal)
  | _, 0, _ => some []
  | r, n + 1, bs =>
    let tag := leNat (bs.take 4)
    let b := bs.drop 4
    if bits tag 15 8 ≠ r ∨ bs.length < 4 then none else
    match bits tag 1 0 with
    | 0 => (parseVecs w (r + 1) n (b.drop 4)).map (VVal.u (BitVec.ofNat 32 (leNat (b.take 4))) :: ·)
    | 1 => (parseVecs w (r + 1) n (b.drop 8)).map
        (VVal.a (BitVec.ofNat 32 (leNat (b.take 4))) (BitVec.ofNat 32 (leNat ((b.drop 4).take 4))) :: ·)
    | 2 => (parseVecs w (r + 1) n (b.drop (4 * w))).map
        (VVal.g ((leWords w b).map (BitVec.ofNat 32)) :: ·)
    | _ => none

/-- The number of bytes of an image with all registers G (R89). -/
def imageMax (w vcnt : Nat) : Nat := 0xC40 + vcnt * (4 + 4 * w)

/-- A mask of an image. -/
def maskAt (bs : List Byte) (off : Nat) : Mask := BitVec.ofNat 1024 (leNat ((bs.drop off).take 128))
/-- A number of `n` bytes of an image. -/
def numAt (bs : List Byte) (off n : Nat) : Nat := leNat ((bs.drop off).take n)

/-- A team restored from an image (R90); counters and timelines of the team itself stand (R66, R38). None when the image is
malformed. An image whose VCNT differs from the team's is restored with its own count, as far as the area read goes (DESIGN
CHOICE, notes/assumptions/84.md); errors in registers stay (DESIGN CHOICE, notes/assumptions/50.md). -/
def Team.restore (t : Team) (bs : List Byte) (clk : Nat) : Option Team :=
  if numAt bs 2 2 ≠ 1 ∨ 32 * 2 ^ numAt bs 1 1 ≠ t.width then none else
  (parseVecs t.width 0 (numAt bs 0 1) (bs.drop 0xC40)).map (fun vs =>
    let pd := numAt bs 0xBD8 4
    { t with
      regs := { s := Vector.ofFn (fun i => BitVec.ofNat 64 (numAt bs (0x40 + 8 * i.val) 8))
                v := vs
                p := Vector.ofFn (fun i => maskAt bs (0x240 + 128 * i.val) &&& widthMask t.width)
                exec := maskAt bs 0xA40 &&& widthMask t.width &&& ~~~(maskAt bs 0xAC0)
                dead := maskAt bs 0xAC0
                deadsrc := maskAt bs 0xB40
                fpctl := BitVec.ofNat 32 (numAt bs 0xBC0 4)
                slim := BitVec.ofNat 32 (numAt bs 0xBC4 4)
                seed := BitVec.ofNat 64 (numAt bs 0xBC8 8)
                srctr := BitVec.ofNat 64 (numAt bs 0xC10 8) }
      rdDepth := bits pd 7 0
      pdis := pd.testBit 8
      pdLeft := numAt bs 0xBDC 4
      pdAt := clk })

/-- The slot number of a team's save area (R394). -/
def saveSlot (core place : Nat) : Nat := if core < 192 then 32 * core + place else 6144 + 16 * (core - 192) + place

/-- The VA of a save area, or none when the context has none (R394). -/
def State.saveVa (s : State) (c core place : Nat) : Option Nat :=
  let v := (s.ctx c).save
  if fld v 63 52 = 0 then none
  else some ((fld v 51 16 * 65536 + saveSlot core place * fld v 63 52 * 65536) % 2 ^ 52)

/-- The page-table entries of [va, va + n) all translate for an access. -/
def State.canMap (s : State) (core c va n : Nat) (k : AccK) : State × Option FaultInfo :=
  match s.xlateRun core c k {} va (pagesOf va n) with
  | (s, .inl f) => (s, some f)
  | (s, .inr _) => (s, none)

/-! ### The Bar (R466 to R473) -/

/-- The depth pools of a partition: 64 fixed parts for each of depth 1 and 2, at the top of die 0's Bar (R473); the
ordinary parts are the rest (notes/assumptions/12.md). -/
def poolBase (part depth : Nat) : Nat := 64512 + (part * 2 + (depth - 1)) * 64

/-- The parts that live records of a die hold. -/
def State.usedParts (s : State) (die : Nat) : List (Nat × Nat) :=
  (s.recs.filter (fun r => r.die == die)).map (fun r => (r.idx, r.parts))

/-- `n` units from a place lie in [lo, hi) and beside the used intervals. -/
def fitsAt (used : List (Nat × Nat)) (lo hi n a : Nat) : Bool :=
  lo ≤ a && a + n ≤ hi && used.all (fun u => a + n ≤ u.1 || u.1 + u.2 ≤ a)

/-- The lowest place in [lo, hi) with `n` free units beside the used intervals. -/
def firstFree (used : List (Nat × Nat)) (lo hi n : Nat) : Option Nat :=
  ((lo :: used.map (fun u => u.1 + u.2)).filter (fitsAt used lo hi n)).min?

/-- A place with `n` free parts in [lo, hi): which one is open (R407). -/
def State.freePart (s : State) (used : List (Nat × Nat)) (lo hi n : Nat) : Option Nat :=
  (firstFree used lo hi n).map (fun i => if fitsAt used lo hi n (Config.barIndex s.uid) then Config.barIndex s.uid else i)

/-- A place for a record of a depth (0: the ordinary pool of a die; 1, 2: the reserved pool of a partition). -/
def State.barPlace (s : State) (die part depth n : Nat) : Option (Nat × Nat) :=
  if depth = 0 then
    (s.freePart (s.usedParts die) 0 (if die = 0 then 64512 else 65536) n).map (fun i => (die, i))
  else (s.freePart (s.usedParts 0) (poolBase part depth) (poolBase part depth + 64) n).map (fun i => (0, i))

/-- The next generation of an index (R407) (DEDUCED, notes/assumptions/46.md). -/
def State.nextGen (s : State) (die idx : Nat) : State × Nat :=
  let k := die * 2 ^ 20 + idx
  let g := (((s.gens.find? (fun p => p.1 == k)).map (·.2)).getD 0 + 1) % 2 ^ 32
  ({ s with gens := upsert (·.1) (k, g) s.gens }, g)

/-- KIND of a record (Table 16-2). -/
def RecKind.code : RecKind → Nat
  | .team => 0
  | .tile _ => 1
  | .seg _ _ => 2

/-- The handle of a record (Table 13-11). -/
def State.handle (s : State) (r : Rec) : Dw :=
  BitVec.ofNat 64 (s.modl.modNo * 2 ^ 55 + r.die * 2 ^ 54 + r.kind.code * 2 ^ 52 + r.idx * 2 ^ 32 + r.gen)

/-- The live record a handle names (R407). -/
def State.recOf (s : State) (h : Dw) : Option Rec := s.recs.find? (fun r => s.handle r == h)

/-- A record replaced. -/
def State.putRec (s : State) (r : Rec) : State :=
  { s with recs := s.recs.map (fun x => if x.id = r.id then r else x) }

/-- The handler-table entry of a context and class (R404). -/
def State.entry (s : State) (c code : Nat) : Option (List Dw) :=
  ((s.ctx c).handlers.find? (fun p => p.1 == code)).map (·.2)

/-- The open set of a page and class of a context: its head (R458). -/
def State.openSet (s : State) (c page : Nat) (cls : FaultClass) : Option Rec :=
  s.recs.find? (fun r => r.ctx == c && r.page == page && page ≠ 0 && r.fault.cls == cls
    && (r.st == .parked || r.st == .served))

/-- A context reset asked for (R444); a reset in progress stands (R445). -/
def State.askReset (s : State) (c : Nat) : State :=
  s.modCtx c (fun x => if x.rst = 0 then { x with rst := 1 } else x)

/-- The issue slot is given up. -/
def State.yieldCur (s : State) (k : Nat) : State := if s.cur = some k then { s with cur := none } else s

/-! ### Fault-lane messages (R472, R408) -/

/-- The payload of a fault-lane message. The spec gives no layout: doublewords in the order of the message's parts, its
kind in the last one (notes/assumptions/32.md). -/
def msgLine (m : LaneMsg) : Line :=
  let dw (ds : List Dw) (kind : Nat) : Line := lineNat (dwBytes (ds ++ List.replicate (15 - ds.length) 0) ++ leBytes 8 kind)
  match m with
  | .faultTask d sl rm => dw (d ++ [BitVec.ofNat 64 (b2n sl), BitVec.ofNat 64 rm]) 0
  | .taskReply h a => dw [h, BitVec.ofNat 64 (b2n a)] 1
  | .request mi h se v hc sv => dw [BitVec.ofNat 64 mi, h, se, v, BitVec.ofNat 64 hc, sv] 2
  | .reply rid st v => dw [rid.setWidth 64, BitVec.ofNat 64 st, v] 3
  | .record h w => dw [h, BitVec.ofNat 64 w] 4

/-- A message sent on the fault lane (R479); `own`: the context whose work it belongs to (R442). -/
def State.sendLane (s : State) (ctx dst : Nat) (rid : Wd) (m : LaneMsg) (own : Option Nat := some ctx) : State :=
  s.sendPkts dst [{ s.mkPkt ctx dst 6 0 rid true with lane := true, data := msgLine m, ctx := own }]

/-- The module of a handle (Table 13-11). -/
def handleMod (h : Dw) : Nat := h.toNat / 2 ^ 55

/-- A handler that ends, parks or is killed leaves the record it served PARKED (R477), at the record's module. -/
def State.unserve (s : State) (t : Team) : State :=
  match t.serving with
  | none => s
  | some h =>
    if handleMod h ≠ s.modl.modNo then s.sendLane (s.ctxOf t) (handleMod h) 0 (.record h 1) else
    { s with recs := s.recs.map (fun r => if s.handle r = h ∧ r.st = .served then { r with st := .parked } else r) }

/-- A team has had its turn in a round, or ended (R331, R333). -/
def Round.without (r : Round) (k : Nat) : Round := { r with set := r.set.filter (· ≠ k) }

/-- A team ends (R247, R68): no barrier arrival, its VCNT to the pool, its read sections closed (DEDUCED, notes/assumptions/66.md). -/
def State.endTeam (s : State) (t : Team) (how : EndHow) : State :=
  let s := s.unserve t
  let s := s.putTeam { t with st := .ended how, clause := none, rdDepth := 0, monitor := none, pdis := false,
                              errs := [], regs := { t.regs with v := [] } }
  let s := s.modGroup t.gslot (fun g => { g with pool := g.pool + t.vcnt })
  let s := { s with rounds := s.rounds.map (fun (r : Round) => r.without t.key) }
  (s.traceBind t 6 0).yieldCur t.key

/-- TID of a team (R16). -/
def State.tidOf (_ : State) (t : Team) : Nat := t.tid

/-- A team killed as by PKKILL, which voids a determinism run (R68, R499). -/
def State.killTeam (s : State) (t : Team) : State :=
  let c := s.ctxOf t
  (s.endTeam t (.killed t.pc)).voidRun c (dieOf (s.groupOf t).core) t.tid 2

/-- A fault escalates: an unserviceable task that names the same record, or the reset of its context (R471, step 3). -/
def State.escalateRec (s : State) (r : Rec) (was : FaultClass) : State :=
  match s.entry r.ctx 43 with
  | some d =>
    if was = .unserviceable then s.askReset r.ctx
    else { s with pend := s.pend ++ [{ bar := r.id, cls := .unserviceable, desc := d, parkt := r.parkt,
                                       escalated := true, sent := none }] }
  | none => s.askReset r.ctx

/-- The chain of a handler that forms no record escalates: an unserviceable task names the record it served, on that record's
module; where the handler's own task was one, the context that the record names is reset (R471, R473). -/
def State.escalateServed (s : State) (ctx : Nat) (h : Dw) (unserv : Bool) : State :=
  if handleMod h ≠ s.modl.modNo then s.sendLane ctx (handleMod h) 0 (.record h 2)
  else
    match s.recOf h with
    | none => s
    | some r => s.escalateRec r (if unserv then .unserviceable else .teamLost)

/-- A handler that cannot form a record is killed, and its chain escalates (R473). -/
def State.escalate (s : State) (t : Team) : State :=
  match t.serving with
  | none => s.killTeam t
  | some h => (s.killTeam t).escalateServed (s.ctxOf t) h t.unserv

/-- The accesses of a team that a record's fault task still waits for: stores and atomics without a result (R462). -/
def State.openStores (s : State) (k : Nat) : List Nat := (s.acc.filter (fun a => a.team == k && !a.load)).map (·.id)

/-- A team has loads, or atomics with a result, outstanding. -/
def State.openLoads (s : State) (k : Nat) : Bool := s.acc.any (fun a => a.team == k && a.load)

/-- The record that names a fault (R466), not yet placed. -/
def State.newRec (s : State) (kind : RecKind) (f : FaultInfo) (c gslot depth : Nat) (origin : Dw) (tid : Nat) : Rec :=
  { id := 0, die := 0, idx := 0, gen := 0, kind := kind, st := .parked, depth := depth, erst := false, rimg := false,
    fault := f, ctx := c, gslot := gslot, team := 0, tid := tid, part := (s.ctx c).part, pool := depth,
    parts := if f.cls.isFp then 4 else 1, parkt := bits s.usec 43 0, deadline := 0, head := none, origin := origin,
    pc := 0, woff := 0, imgva := 0, spill := 0, page := 0, waits := [], raised := false, entry := s.entry c f.cls.code }

/-- A record of a team, with what it names of the team. -/
def Rec.ofTeam (r : Rec) (t : Team) (g : Group) : Rec :=
  { r with team := t.key, pc := t.pc, woff := t.woff, ids := [t.role, t.stages, g.gx, g.gy, g.gz], guid := some g.uid,
           tuid := some t.uid, ov := g.ovReg }

/-- A record placed at an index with a new generation and its DEADLINE (R407, R474). -/
def State.placeRec (s : State) (r : Rec) (die idx : Nat) : State × Rec :=
  let (s, g) := s.nextGen die idx
  let dl := match r.entry with
    | some d => fld (d.getD 2 0) 43 0
    | none => 0
  let r := { r with id := s.uid, die := die, idx := idx, gen := g,
                    deadline := if dl = 0 then 0 else r.parkt + dl }
  ({ s with uid := s.uid + 1, recs := s.recs ++ [r] }, r)

/-- A kill report for work that can no longer run (R467), drawn from the pool of its depth or, for depth 0, then from
the reserved pool of depth 1 (R469). With no room the context is reset; for a handler's depth the chain escalates (R473). -/
def State.report (s : State) (r : Rec) (die : Nat) : State :=
  let r := { r with st := .report, parts := 1, fault := { r.fault with fp := [] } }
  match s.barPlace die r.part r.depth 1 with
  | some (d, i) => (s.placeRec r d i).1
  | none =>
    if r.depth ≠ 0 then s.escalateServed r.ctx r.origin false else
    match s.barPlace die r.part 1 1 with
    | some (d, i) => (s.placeRec { r with pool := 1 } d i).1
    | none => s.askReset r.ctx

/-- A team terminated with team-lost, killed as by PKKILL (R64, R467, R473, R499). -/
def State.loseTeam (s : State) (t : Team) (d : Detail) : State :=
  let g := s.groupOf t
  if t.depth = 3 then s.escalate t
  else
    let r := { (s.newRec .team (mkF .teamLost d 0 0) g.ctx t.gslot t.depth (t.serving.getD 0) t.tid).ofTeam t g with rimg := true }
    ((s.endTeam t .lost).voidRun g.ctx (dieOf g.core) t.tid 2).report r (dieOf g.core)

/-- An access writes at its targets: a store, or an atomic with or without a result. -/
def Access.write (a : Access) : Bool :=
  !a.load || (match a.fin with
    | .atomV _ _ _ _ => true
    | .atomS _ _ => true
    | _ => false)

/-- The stores and atomics of a team, those with a result among them, that are not performed yet. -/
def State.openWrites (s : State) (k : Nat) : List Nat := (s.acc.filter (fun a => a.team == k && a.write)).map (·.id)

/-- A lane dies (R62): DEAD set, EXEC cleared, a record of type 7, and the determinism run voided (R65). -/
def State.killLane (s : State) (t : Team) (l : Nat) : State × Team :=
  let g := s.groupOf t
  let bit : Mask := 1 <<< l
  let t := { t with regs := { t.regs with dead := t.regs.dead ||| bit, exec := t.regs.exec &&& ~~~bit } }
  let s := s.relRecord (dieOf g.core) 7 15 0 0 g.ctx (t.tid * 2 ^ 28 + l) 0
  (s.voidRun g.ctx (dieOf g.core) t.tid 1, t)

/-- Lanes die, in ascending order. -/
def State.killLanes (s : State) (t : Team) : List Nat → State × Team
  | [] => (s, t)
  | l :: r =>
    let (s, t) := if t.regs.dead.getLsbD l then (s, t) else s.killLane t l
    s.killLanes t r

/-- Every lane below WIDTH is dead (R64). -/
def Team.allDead (t : Team) : Bool := t.regs.dead &&& widthMask t.width == widthMask t.width

/-- The image of a team that parks: into the save area, or else into the spill space of its record's die (R468, R394). The
answer holds RIMG, IMGVA, the spill bytes (room for every register as G, notes/assumptions/34.md) and the class to record; none when
the spill space is full. The image of a team that is swapped out stands in its save area already (R394). -/
def State.saveImage (s : State) (die : Nat) (t : Team) (f : FaultInfo) : State × Option (Bool × Nat × Nat × FaultInfo) :=
  let g := s.groupOf t
  let img := t.image s.clk
  let save := s.saveVa g.ctx g.core t.place
  if t.st = .swapped then (s, some (true, save.getD 0, 0, f)) else
  let (s, bad) := match save with
    | none => (s, some 0)
    | some va =>
      match s.vaWrite g.core g.ctx va img with
      | (s, none) => (s, none)
      | (s, some e) => (s, some e.det0.toNat)
  match bad with
  | none => (s, some (true, save.getD 0, 0, f))
  | some va =>
    let used := (s.recs.filter (fun r => r.spill ≠ 0 && r.die == die)).map (fun r => (r.imgva.toNat, r.spill))
    let room := imageMax t.width t.vcnt
    match firstFree used 0 (2 ^ 24) room with
    | none => (s, none)
    | some off =>
      ({ s with mem := Mem.writeN s.mem (homeB die off) img },
       some (false, off, room, mkF .unserviceable .none va 1))

/-- The class of a fault by which a freeze parks a team (R439, R443). -/
def FaultInfo.freezes (f : FaultInfo) : Bool := f.cls == .watchdog || f.cls == .stalemate

/-- Forming the record of a team that parks (R466 to R473): the exception entry of the part. The team leaves its core
with PC and WOFF in the record, its image saved, its earlier stores named as what the fault task waits for. Of the records of a
freeze one alone raises a fault task, when the freeze is complete (R439, R443). -/
def State.formRec (s : State) (t : Team) (f : FaultInfo) : State :=
  let g := s.groupOf t
  let die := dieOf g.core
  let part := (s.ctx g.ctx).part
  let page := if (f.cls = .pageMiss ∧ f.detail = .none) ∨ f.cls = .remoteAtomicDenied then
    f.det0.toNat / 65536 + 1 else 0
  let n := if f.cls.isFp then 4 else 1
  if t.depth = 3 then s.escalate t else
  match s.barPlace die part t.depth n with
  | none =>
    if t.depth ≠ 0 then s.escalate t
    else
      let s := s.killTeam t
      let r := { (s.newRec .team (mkF .unserviceable .barFull 0 2) g.ctx t.gslot 0 0 t.tid).ofTeam t g with
                 st := .report, pool := 1 }
      match s.barPlace die part 1 1 with
      | some (d, i) => (s.placeRec r d i).1
      | none => s.askReset g.ctx
  | some (d, i) =>
    match s.saveImage d t f with
    | (s, none) => (s.killTeam t).askReset g.ctx
    | (s, some (rimg, imgva, spill, f')) =>
      let head := s.openSet g.ctx page f'.cls
      let r := { (s.newRec .team f' g.ctx t.gslot t.depth (t.serving.getD 0) t.tid).ofTeam t g with
                 rimg := rimg, imgva := BitVec.ofNat 64 imgva,
                 spill := spill, page := if f'.cls = f.cls then page else 0, waits := s.openStores t.key,
                 head := head.map (·.id), st := if head.isSome then .member else .parked, parts := n,
                 raised := f.freezes, frz := if f.freezes then some f.cls else none }
      let (s, r) := s.placeRec r d i
      let s := (s.unserve t).putTeam
        { t with st := .parked r.id, clause := none, serving := t.serving, pinHeld := [], ovx := none,
                 pdLeft := t.pdRest s.clk }
      let s := s.traceBind t 5 f'.cls.code
      let s := if s.sealedCtx g.ctx then s else s.traceTeam t 9 (f'.det0.toNat % 2 ^ 40)
      s.yieldCur t.key

/-- Taking a fault (R66, R462): the team stops at the instruction; when loads of it are outstanding the record is
formed when they have completed. -/
def State.park (s : State) (t : Team) (f : FaultInfo) : State :=
  if s.openLoads t.key then (s.putTeam { t with st := .parking f }).yieldCur t.key else s.formRec t f

/-! ### The end of an instruction (R208, R212, R207) -/

/-- A clause completes and the team goes on at `pc`; `src` names the transfer that led there, if one did. -/
def State.endClause (s : State) (t : Team) (c : Clause) (pc : Dw) (src : Option (Dw × Nat)) : State :=
  let np := if c.hdr.getLsbD 24 then (if 8 ≤ t.nopre + 1 then 0 else t.nopre + 1) else 0
  let s := s.putTeam { t with clause := none, pc := pc, woff := 0, src := src, nopre := np, resv := 0,
                              yieldNow := t.yieldNow || c.hdr.getLsbD 23, age := s.clk + 1 }
  (s.modPart (s.ctx (s.ctxOf t)).part (fun p => { p with lastEvent := s.clk })).yieldCur t.key

/-- An instruction is done: the team goes on with the next instruction of its clause, or with the next clause in
memory (R212). -/
def State.retire (s : State) (t : Team) : State :=
  match t.clause with
  | none => s.putTeam t
  | some c =>
    if 1 < c.left then s.putTeam { t with woff := t.next, clause := some { c with left := c.left - 1 } }
    else s.endClause t c (t.pc + BitVec.ofNat 64 (4 * t.next)) none

/-- A taken transfer (R213): the clause completes and the target is the next clause. -/
def State.jump (s : State) (t : Team) (target : Dw) : State :=
  match t.clause with
  | none => s.putTeam { t with pc := target, woff := 0, src := some (t.pc, t.woff) }
  | some c => (s.tracePc t 4 target.toNat).endClause t c target (some (t.pc, t.woff))

/-- A team is descheduled at its instruction, which it executes again when the wait ends (Table 1-4). -/
def State.deschedule (s : State) (t : Team) (w : Wait) : State := (s.putTeam { t with st := .wait w }).yieldCur t.key

/-- A team is descheduled after its instruction: it goes on with the next one when the wait ends. -/
def State.retireWait (s : State) (t : Team) (w : Wait) : State :=
  ((s.retire t).modTeam t.key (fun t => { t with st := .wait w })).yieldCur t.key

/-! ### Issue (R541, R211, R62, R64) -/

/-- What issue checks of an instruction. `bad`: a field value of the words (R541 step 2); `pairs`: registers that name
a pair; `sr sw vr vw pr pw ts`: registers it reads and writes, tiles it names; `fmt`: an illegal format; `eng`: engine
class (0 any); `xfer`: a control transfer; `lvl`: 1 for major 57, 2 for major 58; `stop`: a point where the team waits
for earlier accesses (R464); `who`: the MSK of an instruction that does nothing when no lane is active (Table 1-1); `xr xw`:
special registers it reads and writes, by SRN; `ex`: it reads EXEC as a whole; `conv`: it rounds under this RM, and so under SR reads
SEED and SRCTR (R190). -/
structure Info where
  bad : Option Detail := none
  pairs : List VReg := []
  named : List VReg := []
  sr : List SReg := []
  sw : List SReg := []
  vr : List VReg := []
  vw : List VReg := []
  pr : List PReg := []
  pw : List PReg := []
  ts : List TReg := []
  fmt : Bool := false
  eng : Nat := 0
  xfer : Bool := false
  lvl : Nat := 0
  stop : Bool := false
  who : Option (Option Msk) := none
  xr : List Nat := []
  xw : List Nat := []
  ex : Bool := false
  conv : Option (Option (BitVec 3)) := none
  deriving DecidableEq, Repr

/-- The first fault of R541, steps 2 to 7, that an instruction meets. -/
def State.issueFault (s : State) (i : Info) (t : Team) : Option FaultInfo :=
  let g := s.groupOf t
  let c := s.ctx g.ctx
  match i.bad with
  | some d => some (mkF .illegalEncoding d 0 0)
  | none =>
    if i.pairs.any (fun r => t.vcnt ≤ r.toNat + 1) then some (mkF .illegalEncoding .registerPair 0 0)
    else if (i.named ++ i.vr ++ i.vw).any (fun r => t.vcnt ≤ r.toNat) then
      some (mkF .illegalEncoding .registerBeyondCount 0 0)
    else if i.ts.any (fun r => g.tiles.length ≤ r.toNat) then some (mkF .illegalEncoding .tileBeyondCount 0 0)
    else if i.fmt then some (mkF .illegalFormat .none 0 0)
    else
      match t.clause with
      | none => none
      | some k =>
        let e := bits k.hdr.toNat 6 4
        if e ≠ 0 ∧ i.eng ≠ 0 ∧ e ≠ i.eng then some (mkF .illegalClause .engineClass 0 0)
        else if i.xfer ∧ 1 < k.left then some (mkF .illegalClause .transferNotLast 0 0)
        else if i.eng = 3 ∧ 192 ≤ g.core then some (mkF .illegalEngine .none 0 0)
        else if i.lvl = 1 ∧ c.priv = 0 then some (mkF .protection .privileged 0 0)
        else if i.lvl = 2 ∧ !t.handler then some (mkF .protection .notAHandler 0 0)
        else none

/-- The registers an instruction names, as the interlock sees them. -/
def Info.dests (i : Info) : List Dest := (i.sr ++ i.sw).map Dest.s ++ (i.vr ++ i.vw).map Dest.v

/-- The registers of an instruction that an earlier access of the team will still write (R211). -/
def State.blocked (s : State) (i : Info) (t : Team) : List Dest :=
  i.dests.filter (fun d => s.acc.any (fun a => a.team == t.key && a.dests.contains d))

/-- The lanes an instruction acts in: for one that operates on no lanes, every lane below WIDTH. -/
def Team.acts (t : Team) (i : Info) : Mask :=
  match i.who with
  | none => widthMask t.width
  | some m => t.active m

/-- The lanes an instruction writes of its destinations (R79, R223): none when no lane is active. -/
def Team.writes (t : Team) (i : Info) : Mask :=
  match i.who with
  | none => widthMask t.width
  | some m => if t.active m = 0 then 0 else if m.any (·.z) then t.regs.exec else t.active m

/-- The lanes of a 32-lane word. -/
def wordMask (w : Nat) : Mask := BitVec.ofNat 1024 (0xFFFFFFFF * 2 ^ (32 * w))

/-- A lane below WIDTH that is not dead. -/
def Team.live (t : Team) : Mask := widthMask t.width &&& ~~~t.regs.dead

/-- The rounding mode that an RM field and FPCTL give is SR (R190, R224). -/
def Team.roundsSr (t : Team) (rm : Option (BitVec 3)) : Bool :=
  match rm with
  | some r => r == 5
  | none => bits t.regs.fpctl.toNat 18 16 == 5

/-- The instruction consumes an error (Table 17-1): of a word of an active lane of a G register; of a base or a predicate where a
lane of the 32 is active; of a scalar or special register it reads; of a register of shape U or A that it reads or writes in part.
Nothing is consumed where no lane is active (R21); EXEC is read by every instruction that operates on lanes; a word of an
inactive lane that a shuffle delivers is not consumed (DESIGN CHOICE, notes/assumptions/50.md). -/
def Team.consumes (t : Team) (i : Info) (e : RegErr) : Bool :=
  let act := t.acts i
  let runs := act != 0
  match e with
  | .vlane r k => i.vr.contains r && act.getLsbD k
  | .vword r w => i.vr.contains r && act &&& wordMask w != 0
  | .pword r w => i.pr.contains r && (if i.who.isSome then t.regs.exec else t.live) &&& wordMask w != 0
  | .sreg r => runs && i.sr.contains r
  | .vside r => runs && (i.vr.contains r || (i.vw.contains r && !t.full (t.writes i)))
  | .spec n =>
    (runs && (i.xr.contains n || ((n == 0x0A || n == 0x18) && i.conv.any t.roundsSr)))
      || ((i.who.isSome || i.ex) && decide (0x20 ≤ n) && decide (n < 0x20 + (t.width + 63) / 64))

/-- The lanes that an error kills: its own, or the 32 of its word; none for an error of no single lane. -/
def RegErr.kills (l : Nat) : RegErr → Bool
  | .vlane _ k => k == l
  | .vword _ w => w == l / 32
  | .pword _ w => w == l / 32
  | _ => false

/-- The error is of no single lane: its consumer is team-lost (R64). -/
def RegErr.ofTeam : RegErr → Bool
  | .sreg _ => true
  | .vside _ => true
  | .spec _ => true
  | _ => false

/-- Lanes that die as the instruction consumes an error of theirs (R62). -/
def Team.errLanes (t : Team) (i : Info) : List Nat :=
  (t.lanesOf t.live).filter (fun l => t.errs.any (fun e => t.consumes i e && e.kills l))

/-- The instruction consumes an error of no single lane (R64). -/
def Team.errTeam (t : Team) (i : Info) : Bool := t.errs.any (fun e => t.consumes i e && e.ofTeam)

/-- The errors that stay: what an instruction writes no longer holds one. -/
def Team.errsAfter (t : Team) (i : Info) : List RegErr :=
  let w := t.writes i
  let whole (k : Nat) : Bool := (t.live &&& wordMask k) &&& ~~~w == 0
  t.errs.filter (fun e =>
    match e with
    | .vlane r l => !(i.vw.contains r && w.getLsbD l)
    | .vword r k => !(i.vw.contains r && w != 0 && whole k)
    | .vside r => !(i.vw.contains r && w != 0 && t.full w)
    | .sreg r => !i.sw.contains r
    | .pword r k => !(i.pw.contains r && w != 0 && whole k)
    | .spec n => !(i.xw.contains n))

/-- The destinations that an access of a team has still to write. -/
def State.pendDests (s : State) (k : Nat) : List Dest := (s.acc.filter (fun a => a.team == k)).flatMap (·.dests)

/-- The register that holds an error. -/
def RegErr.dest : RegErr → Option Dest
  | .vlane r _ => some (.v r)
  | .vword r _ => some (.v r)
  | .vside r => some (.v r)
  | .sreg r => some (.s r)
  | _ => none

/-- What an instruction that has completed wrote holds no error any more; one that parked, or waits to run again, wrote nothing, and
a register that an access has still to write keeps its errors until then (R62). -/
def State.cleared (s : State) (i : Info) (t : Team) : State :=
  s.modTeam t.key (fun u =>
    if u.woff = t.woff ∧ u.pc = t.pc then u
    else { u with errs := u.errs.filter (fun e =>
      (t.errsAfter i).contains e || e.dest.any (s.pendDests t.key).contains) })

/-- An instruction of a team issues: its checks, a lost remote access at a point that waits for it (R464), the
interlock, register errors, then its effect. -/
def State.issueTeam (s : State) (i : Info) (t : Team) (k : Team → State → State) : State :=
  match s.issueFault i t with
  | some f => s.park t f
  | none =>
    match t.lost.filter (fun l => i.stop || i.dests.any l.2.contains) with
    | some (f, _) => s.park { t with lost := none } f
    | none =>
      let b := s.blocked i t
      if b ≠ [] then s.deschedule t (.dests b)
      else if t.errs = [] then k t s
      else
        let n := (t.errs.filter (t.consumes i)).length
        let s := if n = 0 then s else s.addPips 0 (s.groupOf t).core (64 * n)
        if t.errTeam i then s.loseTeam t .none else
        let (s, t) := s.killLanes t (t.errLanes i)
        if t.allDead then s.loseTeam t .none else (k t (s.putTeam t)).cleared i t

/-- The issue of an instruction by the team that holds the issue slot (DEDUCED, notes/assumptions/81.md). -/
def issue (i : Info) (k : Team → State → State) (s : State) : Out :=
  match s.curTeam with
  | none => .fault .noTeam
  | some t => .next (s.issueTeam i t k).tick

end Sys2Proof.Machine
end

