-- ==== Sys2Proof/Machine/Operands.lean ====
section
/-! DEFINITION. Operand forms: the scalar-or-immediate operand b, vector sources by shape, the masked write of a vector
destination, and the two address forms (R218, R222, R223, R268, R301, R309). -/

namespace Sys2Proof.Machine

/-! ### Vector and predicate operands -/

/-- The predicate an MSK prefix reads. -/
def mskP (m : Option Msk) : List PReg := m.toList.map (·.p)

/-- The scalar register of an operand b (R268). -/
def sOrIReg : SOrI → List SReg
  | .reg r => [r]
  | .imm _ => []

/-- The value of an operand b: s(B)[31:0], or the immediate (R268). -/
def Team.sOrI (t : Team) : SOrI → Wd
  | .reg r => (t.s r).setWidth 32
  | .imm v => v

/-- What issue checks of a vector instruction of majors 6, 7 and 44 to 52. -/
def vInfo (d src : List VReg) (m : Option Msk) : Info := { vr := src, vw := d, pr := mskP m, eng := 1, who := some m }

/-- What issue checks of an instruction that FPCTL governs (Table 2-3). -/
def Info.float (i : Info) : Info := { i with xr := [0x08] }

/-- The special registers that addresses through a base register bring in: SLIM, for the stack of space L (R107). -/
def limRegs (sp : Space) (base : SReg) : List Nat := if sp = .L ∧ (base = 60 ∨ base = 62) then [0x09] else []

/-- A per-lane result of one source: U from U, else G. -/
def lift1 (w : Nat) (f : Wd → Wd) : VVal → VVal
  | .u x => .u (f x)
  | v => .g ((v.lanes w).map f)

/-- A per-lane result of two sources: U when both are U, else G (last rows of Table 2-4). -/
def lift2 (w : Nat) (f : Wd → Wd → Wd) : VVal → VVal → VVal
  | .u x, .u y => .u (f x y)
  | x, y => .g (List.zipWith f (x.lanes w) (y.lanes w))

/-- A per-lane result of three sources. -/
def lift3 (w : Nat) (f : Wd → Wd → Wd → Wd) : VVal → VVal → VVal → VVal
  | .u x, .u y, .u z => .u (f x y z)
  | x, y, z => .g (List.zipWith (fun g c => g c) (List.zipWith f (x.lanes w) (y.lanes w)) (z.lanes w))

/-- A vector destination written under R79 with MSK (R223): nothing when no lane is active; with Z = 1 the excluded
lanes that EXEC holds receive 0, and where there are any the register is G (R79 and R223 give no shape for it: DESIGN CHOICE,
notes/assumptions/85.md). -/
def Team.writeMsk (t : Team) (d : VReg) (m : Option Msk) (y : VVal) : Team :=
  let act := t.active m
  if act = 0 then t
  else if m.any (·.z) && act != t.regs.exec then
    t.writeV d t.regs.exec (.g (blend act (y.lanes t.width) (List.replicate t.width 0)))
  else t.writeV d act y

/-- A predicate destination written with MSK (R70, R223). -/
def Team.writePMsk (t : Team) (d : PReg) (m : Option Msk) (y : Mask) : Team :=
  let act := t.active m
  if act = 0 then t
  else if m.any (·.z) then t.setP d t.regs.exec (y &&& act)
  else t.setP d act y

/-- The mask of the lanes that satisfy a test. -/
def maskOf (w : Nat) (f : Nat → Bool) : Mask :=
  (List.range w).foldl (fun a l => if f l then a ||| (1 <<< l) else a) 0

/-- The width of an element (R273). -/
def ewBits : EW → Nat
  | .w32 => 32
  | .w16 => 16
  | .w8 => 8

/-- The elements of a lane, element 0 first (R171). -/
def elems (w : Nat) (x : Wd) : List Nat := (List.range (32 / w)).map (fun i => bits x.toNat (w * i + w - 1) (w * i))

/-- A lane of its elements (R171). -/
def packElems (w : Nat) (xs : List Nat) : Wd := BitVec.ofNat 32 (xs.foldr (fun e a => a * 2 ^ w + e % 2 ^ w) 0)

/-! ### Addresses (R97, R301, R309) -/

/-- The code of a space (Table 3-1). -/
def spaceCode : Space → Nat
  | .L => 0
  | .C => 1
  | .K => 2
  | .H => 3
  | .G => 4

/-- A displacement, sign-extended from bit 25 (R218). -/
def dispOf (d : Option (BitVec 26)) : Dw := (d.getD 0).signExtend 64

/-- The address of a lane: s(B) + v(X)[l], zero-extended, + displacement, modulo 2^64 (R226). -/
def Team.vAddr (t : Team) (a : VAddr) (l : Nat) : Dw :=
  t.s a.base + ((t.v a.x).lane l).setWidth 64 + dispOf a.disp

/-- The address of a scalar form: s(B) + s(X), or s(B) + K x size, + displacement, modulo 2^64 (R216, R309). -/
def Team.sAddr (t : Team) (a : SAddr) (size : Nat) : Dw :=
  (match a.x with
   | .reg r => t.s a.base + t.s r
   | .off k => t.s a.base + BitVec.ofNat 64 (k.toNat * size)) + dispOf a.disp

/-- Registers a vector address reads. -/
def vaInfo (a : VAddr) : List SReg × List VReg := ([a.base], [a.x])

/-- Registers a scalar-form address reads. -/
def saRegs (a : SAddr) : List SReg :=
  match a.x with
  | .reg r => [a.base, r]
  | .off _ => [a.base]

end Sys2Proof.Machine
end

