-- ==== Sys2Proof/Machine/Flags.lean ====
section
/-! DEFINITION. FPCTL: rounding mode, sticky flags and traps of vector float instructions and conversions, and the
shadow check (R76, R190, R194, R195, R200, R201). -/

namespace Sys2Proof.Machine

/-- The rounding mode in force: RM of an FMT prefix, or FPCTL.RM (R224). -/
def Team.mode (t : Team) (rm : Option (BitVec 3)) : Nat :=
  match rm with
  | some r => r.toNat
  | none => bits t.regs.fpctl.toNat 18 16

/-- The mode of an instruction that is no conversion: SR rounds to nearest even (R190). -/
def Team.modeN (t : Team) (rm : Option (BitVec 3)) : Nat := if t.mode rm = 5 then 0 else t.mode rm

/-- What a float instruction computed in a lane: the flags of each element as FPCTL[4:0], the upper word of DET0 that a shadow
mismatch reports (its main result), the results that a shadow checks, by element (none: it checks none), the elements that no pipe
computed, and the result words by element where there are several. -/
structure FLane where
  lane : Nat
  res : Wd
  fl : List Nat
  vals : List FVal := []
  idle : List Nat := []
  words : List Wd := []
  deriving DecidableEq, Repr

/-- The conditions of a lane. -/
def FLane.all (x : FLane) : Nat := x.fl.foldl (· ||| ·) 0

/-- The conditions of every lane. -/
def allFlags (xs : List FLane) : Nat := xs.foldl (fun a x => a ||| x.all) 0

/-- The fault class of a condition number (R195). -/
def fpClass : Nat → FaultClass
  | 0 => .fpInvalid
  | 1 => .fpDiv0
  | 2 => .fpOverflow
  | 3 => .fpUnderflow
  | _ => .fpInexact

/-- The bitmap of a condition over the lanes (R468). -/
def condMap (xs : List FLane) (c : Nat) : Mask :=
  xs.foldl (fun a x => if x.all.testBit c then a ||| (1 <<< x.lane) else a) 0

/-- The trap of R195, when a raised condition is enabled in FPCTL[12:8]: the first class in the order of R195, its
lowest lane and element, and the bitmaps. -/
def fpTrap (fpctl : Wd) (xs : List FLane) : Option FaultInfo :=
  match lowBit 5 0 (allFlags xs &&& bits fpctl.toNat 12 8) with
  | none => none
  | some c =>
    (xs.find? (fun x => x.all.testBit c)).map (fun x =>
      { cls := fpClass c, detail := .none, det0 := 0, lane := some x.lane, elem := x.fl.findIdx (·.testBit c),
        aux := x.all, fp := (List.range 5).map (condMap xs) })

/-- Sticky flags raised (R194). -/
def Team.raise (t : Team) (fl : Nat) : Team :=
  { t with regs := { t.regs with fpctl := t.regs.fpctl ||| BitVec.ofNat 32 (fl % 32) } }

/-- What a shadow unit computes of a result (R200): class, sign, exponent to 10 bits and top six fraction bits. -/
def FVal.sum : FVal → FpSum
  | .nan n _ _ => { cls := 3, neg := n, exp := 0, frac := 0 }
  | .inf n => { cls := 2, neg := n, exp := 0, frac := 0 }
  | .fin n m e =>
    if m = 0 then { cls := 0, neg := n, exp := 0, frac := 0 }
    else
      { cls := 1, neg := n, exp := BitVec.ofInt 10 ((Nat.log2 m : Int) + e)
        frac := BitVec.ofNat 6 ((m <<< 6) >>> Nat.log2 m) }

/-- The mismatch of R201 between two computations of a result. -/
def sumDiffers (a b : FpSum) : Bool :=
  let d := a.exp.toInt - b.exp.toInt
  let x : Int := (64 + a.frac.toNat) >>> (if d < 0 then 1 else 0)
  let y : Int := (64 + b.frac.toNat) >>> (if 0 < d then 1 else 0)
  a.cls != b.cls || (a.cls != 3 && a.neg != b.neg)
    || (a.cls == 1 && (decide (1 < d.natAbs) || decide (1 < (x - y).natAbs)))

/-- The shadow's word of the lanes computed that differs from the pipe's result, with its lane (R200, R201): a shadow unit
computes what its pipe does but for an upset of the input (DEDUCED, notes/assumptions/19.md). -/
def State.misfired (s : State) (t : Team) (xs : List FLane) : Option (FLane × FpSum) :=
  xs.findSome? (fun x => (s.rel.shadow.find? (fun p =>
    p.1 == t.key && p.2.1 == x.lane && !x.idle.contains p.2.2.1
      && x.vals[p.2.2.1]?.any (fun v => sumDiffers v.sum p.2.2.2))).map (fun p =>
        ({ x with res := (x.words[p.2.2.1]?).getD x.res }, p.2.2.2)))

/-- The upsets of a team's lanes that a checked operation has met. -/
def State.shadowMet (s : State) (t : Team) (xs : List FLane) : State :=
  { s with rel := { s.rel with shadow := s.rel.shadow.filter (fun p =>
      !(p.1 == t.key && xs.any (fun x => x.vals != [] && x.lane == p.2.1))) } }

/-- A shadow mismatch in a vector pipe: 32 pips, a record of type 6, and the team parks with silent-error (R201). Which
pipe executed is free. -/
def State.shadowPark (s : State) (t : Team) (x : FLane) (sh : FpSum) : State :=
  let g := s.groupOf t
  let (s, b) := s.choose
  let pipe := 2 * g.core + (if g.core < 192 then b2n b else 0)
  let det := x.res.toNat * 2 ^ 32 + (Config.shadowWord sh).toNat
  let s := s.relRecord (dieOf g.core) 6 1 pipe (min 255 (s.pips 1 pipe + 32)) g.ctx 0 det
  let s := s.addPips 1 pipe 32
  s.park t { mkF .silentError .none det pipe with lane := some x.lane }

/-- The end of a float instruction or conversion: a shadow mismatch, a trap, or the sticky flags and the write. -/
def State.fpDone (s : State) (t : Team) (xs : List FLane) (write : Team → Team) : State :=
  match s.misfired t xs with
  | some x => (s.shadowMet t xs).shadowPark t x.1 x.2
  | none =>
    let s := s.shadowMet t xs
    match fpTrap t.regs.fpctl xs with
    | some f => s.park t f
    | none => s.retire (write (t.raise (allFlags xs)))

end Sys2Proof.Machine
end

