-- ==== Sys2Proof/WellFormed.lean ====
section
/-! DEFINITION. Well-formed instructions: those with an encoding that breaks no rule of the words themselves
(R216, R217, R220, R221, R226 to R228 and the field limits of the entries). One Boolean check per rule;
`Instr.wf` is their conjunction. The checks that need the team's state (VCNT, tile count, R84, R71) are not here. -/

namespace Sys2Proof

/-- Number of MSK prefixes. -/
def optN {α : Type} (o : Option α) : Nat := if o.isSome then 1 else 0

/-- Number of IMM prefixes an operand b takes (R268). -/
def SOrI.pfxN : SOrI → Nat
  | .reg _ => 0
  | .imm _ => 1

/-- Z is legal only with a vector or predicate destination (R223). -/
def mskNoZ (m : Option Msk) : Bool := m.all (fun k => !k.z)

/-- A rounding mode of an FMT prefix is one of 0 to 5 (R221). -/
def rmOk (rm : Option (BitVec 3)) : Bool := rm.all (fun r => r.toNat ≤ 5)

/-- A scope code is one of 0 to 5 (R128). -/
def scopeOk (s : BitVec 3) : Bool := s.toNat ≤ 5

/-- A space field is one of Table 3-1 other than L (Table 10-8). -/
def asyncSpaceOk (s : BitVec 3) : Bool := 1 ≤ s.toNat && s.toNat ≤ 4

/-- A group of `n` scalar registers from `r` does not pass s59 (R216). -/
def sgroupOk (r : SReg) (n : Nat) : Bool := r.toNat + n ≤ 60

/-- The register of a `.b64` access is even (Table 6-7). -/
def evenV (r : VReg) : Bool := r.toNat % 2 = 0

/-- The limits of an atomic (R222, R227, R314, R315): `op` is the operation code of R227. -/
def Atom.ok (x : Atom) (op : Nat) : Bool :=
  x.ty.toNat ≤ 6 && scopeOk x.scope
    && (if x.ty.toNat ≤ 3 then true else if 4 ≤ op && op ≤ 6 then false else op ≠ 9)
    && (if op = 8 ∨ op = 9 then x.ret else true)
    && (match x.o with
        | .vec d _ e => (x.ret || d = 0) && (x.ret || mskNoZ x.m)
            && (if x.ty.toNat = 2 ∨ x.ty.toNat = 3 then evenV d && evenV e else true)
        | .sca d _ _ => (x.ret || d = 0) && mskNoZ x.m)
    && (optN x.m + 1 + (match x.o with
        | .vec _ a _ => optN a.disp
        | .sca _ a _ => optN a.disp) ≤ 2)

/-- The formats of VCVT (R224, R283). -/
def cvtFmtOk (f : BitVec 5) : Bool := f.toNat ≤ 14 || (16 ≤ f.toNat && f.toNat ≤ 19)

/-- A format pair of VCVT (R283). -/
def vcvtOk (src dst : BitVec 5) : Bool := cvtFmtOk src && cvtFmtOk dst && src ≠ dst

/-- A format pair of QCVT (R287). -/
def qcvtOk (src dst : BitVec 5) : Bool :=
  (src = 0 || src = 2 || src = 3) && 15 ≤ dst.toNat && dst.toNat ≤ 29

/-- Elements per lane of a VCVT format (Table 8-6). -/
def cvtElems (f : BitVec 5) : Nat :=
  match f.toNat with
  | 0 | 1 | 16 | 17 => 1
  | 2 | 3 | 18 | 19 => 2
  | 9 | 12 | 13 => 8
  | 14 => 16
  | _ => 4

/-- The selector of VCVT is below the ratio of the element counts (R285). -/
def selOk (src dst : BitVec 5) (sel : BitVec 4) : Bool :=
  sel.toNat * min (cvtElems src) (cvtElems dst) < max (cvtElems src) (cvtElems dst)

/-- Which conditions PCMP admits for a type (R264). -/
def ccOk (cc : Cc) (ty : CmpTy) : Bool :=
  match cc, ty with
  | .un, .f32 => true
  | .ord, .f32 => true
  | .un, _ => false
  | .ord, _ => false
  | _, _ => true

/-- An instruction is well formed when its words break none of the rules above. An event is no instruction word. -/
def Instr.wf : Instr → Bool
  | .br _ => true
  | .brcEq _ _ => true
  | .brcNe _ _ => true
  | .brcLt _ _ => true
  | .brcGe _ _ => true
  | .bany _ _ => true
  | .bnone _ _ => true
  | .balw _ _ _ => true
  | .call _ => true
  | .nop => true
  | .exit => true
  | .yld => true
  | .ret _ => true
  | .callr _ => true
  | .brr _ => true
  | .trap _ => true
  | .pdis => true
  | .pen => true
  | .icinv c _ _ => scopeOk c
  | .add _ _ _ => true
  | .sub _ _ _ => true
  | .mul _ _ _ => true
  | .mulhs _ _ _ => true
  | .mulhu _ _ _ => true
  | .div _ _ _ => true
  | .divu _ _ _ => true
  | .rem _ _ _ => true
  | .remu _ _ _ => true
  | .and _ _ _ => true
  | .or _ _ _ => true
  | .xor _ _ _ => true
  | .andn _ _ _ => true
  | .shl _ _ _ => true
  | .shr _ _ _ => true
  | .sar _ _ _ => true
  | .rol _ _ _ => true
  | .min _ _ _ => true
  | .max _ _ _ => true
  | .minu _ _ _ => true
  | .maxu _ _ _ => true
  | .slt _ _ _ => true
  | .sltu _ _ _ => true
  | .seq _ _ _ => true
  | .clz _ _ => true
  | .popc _ _ => true
  | .addi _ _ _ => true
  | .muli _ _ _ => true
  | .andi _ _ _ => true
  | .ori _ _ _ => true
  | .xori _ _ _ => true
  | .shli _ _ _ => true
  | .shri _ _ _ => true
  | .sari _ _ _ => true
  | .slti _ _ _ => true
  | .sltui _ _ _ => true
  | .seqi _ _ _ => true
  | .li _ _ => true
  | .lih _ _ _ => true
  | .srrd _ _ => true
  | .srwr _ _ => true
  | .msave _ => true
  | .mrstr _ => true
  | .mand _ => true
  | .mandn _ => true
  | .mor _ => true
  | .mnot _ => true
  | .mcnt _ _ => true
  | .mfirst _ _ => true
  | .pand _ _ _ => true
  | .por _ _ _ => true
  | .pxor _ _ _ => true
  | .pandn _ _ _ => true
  | .pnot _ _ => true
  | .ppack _ f c => decide (f.toNat + c.toNat + 1 ≤ 16)
  | .punpk f _ c => decide (f.toNat + c.toNat + 1 ≤ 16)
  | .pcmp _ _ _ cc ty _ => ccOk cc ty
  | .ld _ z d _ _ => decide (z.toNat ≤ 6) && (z ≠ 5 || evenV d)
  | .ldAcq z sc d a m => scopeOk sc && decide (optN a.disp + optN m + 1 ≤ 2) && decide (z.toNat ≤ 6) && (z ≠ 5 || evenV d)
  | .pf _ m => mskNoZ m
  | .pfSpec _ m => mskNoZ m
  | .st _ z _ d m => decide (z.toNat ≤ 4) && (z ≠ 3 || evenV d) && mskNoZ m
  | .stRel z sc a d m => scopeOk sc && decide (optN a.disp + optN m + 1 ≤ 2) && decide (z.toNat ≤ 4) && (z ≠ 3 || evenV d) && mskNoZ m
  | .ldScalar z _ _ => decide (z.toNat ≤ 6)
  | .ldScalarAcq z sc _ _ => scopeOk sc && decide (z.toNat ≤ 6)
  | .stScalar z _ _ => decide (z.toNat ≤ 3)
  | .stScalarRel z sc _ _ => scopeOk sc && decide (z.toNat ≤ 3)
  | .atomAdd x => x.ok 0
  | .atomSub x => x.ok 1
  | .atomMin x => x.ok 2
  | .atomMax x => x.ok 3
  | .atomAnd x => x.ok 4
  | .atomOr x => x.ok 5
  | .atomXor x => x.ok 6
  | .atomExch x => x.ok 7
  | .atomCas x => x.ok 8
  | .atomFaddt x => x.ok 9
  | .vadd _ _ _ _ _ => true
  | .vsub _ _ _ _ _ => true
  | .vmul _ _ _ _ _ => true
  | .vmulhs _ _ _ _ _ => true
  | .vmulhu _ _ _ _ _ => true
  | .vmad _ _ _ _ _ _ => true
  | .vmin _ _ _ _ _ => true
  | .vmax _ _ _ _ _ => true
  | .vminu _ _ _ _ _ => true
  | .vmaxu _ _ _ _ _ => true
  | .vand _ _ _ _ _ => true
  | .vor _ _ _ _ _ => true
  | .vxor _ _ _ _ _ => true
  | .vandn _ _ _ _ _ => true
  | .vshl _ _ _ _ _ => true
  | .vshr _ _ _ _ _ => true
  | .vsar _ _ _ _ _ => true
  | .vabs _ _ _ _ => true
  | .vneg _ _ _ _ => true
  | .vadds _ _ _ _ _ => true
  | .vsubs _ _ _ _ _ => true
  | .vaddus _ _ _ _ _ => true
  | .vsubus _ _ _ _ _ => true
  | .vclz _ _ _ _ => true
  | .vpopc _ _ _ _ => true
  | .vmov _ _ _ => true
  | .vaddScalar _ _ _ _ => true
  | .vsubScalar _ _ _ _ => true
  | .vmulScalar _ _ _ _ => true
  | .vmulhsScalar _ _ _ _ => true
  | .vmulhuScalar _ _ _ _ => true
  | .vmadScalar _ _ b e m => decide (b.pfxN + optN e + optN m ≤ 2)
  | .vminScalar _ _ _ _ => true
  | .vmaxScalar _ _ _ _ => true
  | .vminuScalar _ _ _ _ => true
  | .vmaxuScalar _ _ _ _ => true
  | .vandScalar _ _ _ _ => true
  | .vorScalar _ _ _ _ => true
  | .vxorScalar _ _ _ _ => true
  | .vandnScalar _ _ _ _ => true
  | .vshlScalar _ _ _ _ => true
  | .vshrScalar _ _ _ _ => true
  | .vsarScalar _ _ _ _ => true
  | .vabsScalar _ _ _ => true
  | .vnegScalar _ _ _ => true
  | .vaddsScalar _ _ _ _ => true
  | .vsubsScalar _ _ _ _ => true
  | .vaddusScalar _ _ _ _ => true
  | .vsubusScalar _ _ _ _ => true
  | .vclzScalar _ _ _ => true
  | .vpopcScalar _ _ _ => true
  | .vmovScalar _ _ _ => true
  | .vsel _ _ _ m => !m.z
  | .vfaddF32 _ _ _ _ rm => rmOk rm
  | .vfsubF32 _ _ _ _ rm => rmOk rm
  | .vfmulF32 _ _ _ _ rm => rmOk rm
  | .vfmaF32 _ _ _ e m rm => rmOk rm && decide (optN e + optN m + optN rm ≤ 2)
  | .vfmsF32 _ _ _ e m rm => rmOk rm && decide (optN e + optN m + optN rm ≤ 2)
  | .vfnmaF32 _ _ _ e m rm => rmOk rm && decide (optN e + optN m + optN rm ≤ 2)
  | .vfminF32 _ _ _ _ rm => rmOk rm
  | .vfmaxF32 _ _ _ _ rm => rmOk rm
  | .vfdivF32 _ _ _ _ rm => rmOk rm
  | .vfsqrtF32 _ _ _ rm => rmOk rm
  | .vfrcpF32 _ _ _ rm => rmOk rm
  | .vfrsqF32 _ _ _ rm => rmOk rm
  | .vfabsF32 _ _ _ rm => rmOk rm
  | .vfnegF32 _ _ _ rm => rmOk rm
  | .vfexp2F32 _ _ _ rm => rmOk rm
  | .vflog2F32 _ _ _ rm => rmOk rm
  | .vfaddPacked _ _ _ _ _ rm => rmOk rm
  | .vfsubPacked _ _ _ _ _ rm => rmOk rm
  | .vfmulPacked _ _ _ _ _ rm => rmOk rm
  | .vfmaPacked _ _ _ _ e m rm => rmOk rm && decide (optN e + optN m + optN rm ≤ 2)
  | .vfmsPacked _ _ _ _ e m rm => rmOk rm && decide (optN e + optN m + optN rm ≤ 2)
  | .vfnmaPacked _ _ _ _ e m rm => rmOk rm && decide (optN e + optN m + optN rm ≤ 2)
  | .vfminPacked _ _ _ _ _ rm => rmOk rm
  | .vfmaxPacked _ _ _ _ _ rm => rmOk rm
  | .vfdivPacked _ _ _ _ _ rm => rmOk rm
  | .vfsqrtPacked _ _ _ _ rm => rmOk rm
  | .vfrcpPacked _ _ _ _ rm => rmOk rm
  | .vfrsqPacked _ _ _ _ rm => rmOk rm
  | .vfabsPacked _ _ _ _ rm => rmOk rm
  | .vfnegPacked _ _ _ _ rm => rmOk rm
  | .vfexp2Packed _ _ _ _ rm => rmOk rm
  | .vflog2Packed _ _ _ _ rm => rmOk rm
  | .vfaddScalar _ _ b m rm => rmOk rm && decide (b.pfxN + optN m + optN rm ≤ 2)
  | .vfsubScalar _ _ b m rm => rmOk rm && decide (b.pfxN + optN m + optN rm ≤ 2)
  | .vfmulScalar _ _ b m rm => rmOk rm && decide (b.pfxN + optN m + optN rm ≤ 2)
  | .vfmaScalar _ _ b e m rm => rmOk rm && decide (b.pfxN + optN e + optN m + optN rm ≤ 2)
  | .vfmsScalar _ _ b e m rm => rmOk rm && decide (b.pfxN + optN e + optN m + optN rm ≤ 2)
  | .vfnmaScalar _ _ b e m rm => rmOk rm && decide (b.pfxN + optN e + optN m + optN rm ≤ 2)
  | .vfminScalar _ _ b m rm => rmOk rm && decide (b.pfxN + optN m + optN rm ≤ 2)
  | .vfmaxScalar _ _ b m rm => rmOk rm && decide (b.pfxN + optN m + optN rm ≤ 2)
  | .vfdivScalar _ _ b m rm => rmOk rm && decide (b.pfxN + optN m + optN rm ≤ 2)
  | .vfsqrtScalar _ _ _ rm => rmOk rm
  | .vfrcpScalar _ _ _ rm => rmOk rm
  | .vfrsqScalar _ _ _ rm => rmOk rm
  | .vfabsScalar _ _ _ rm => rmOk rm
  | .vfnegScalar _ _ _ rm => rmOk rm
  | .vfexp2Scalar _ _ _ rm => rmOk rm
  | .vflog2Scalar _ _ _ rm => rmOk rm
  | .vcvt _ _ sel src dst _ rm => rmOk rm && vcvtOk src dst && selOk src dst sel
  | .qcvt _ _ _ src dst _ rm => rmOk rm && qcvtOk src dst
  | .shtag _ _ => true
  | .shpromote _ => true
  | .shtry _ _ => true
  | .shfl _ _ _ _ => true
  | .shflUp _ _ _ _ => true
  | .shflDn _ _ _ _ => true
  | .shflXor _ _ _ _ => true
  | .bcast _ _ _ _ => true
  | .voteAny _ _ m => mskNoZ m
  | .voteAll _ _ m => mskNoZ m
  | .ballot _ _ _ m => mskNoZ m
  | .vredAdd _ _ m => mskNoZ m
  | .vredMin _ _ m => mskNoZ m
  | .vredMax _ _ m => mskNoZ m
  | .vredMinu _ _ m => mskNoZ m
  | .vredMaxu _ _ m => mskNoZ m
  | .vredAnd _ _ m => mskNoZ m
  | .vredOr _ _ m => mskNoZ m
  | .vredXor _ _ m => mskNoZ m
  | .vredAddF32 _ _ m => mskNoZ m
  | .vredMinF32 _ _ m => mskNoZ m
  | .vredMaxF32 _ _ m => mskNoZ m
  | .vscanAdd _ _ _ => true
  | .vscanMin _ _ _ => true
  | .vscanMax _ _ _ => true
  | .vscanMinu _ _ _ => true
  | .vscanMaxu _ _ _ => true
  | .vscanAnd _ _ _ => true
  | .vscanOr _ _ _ => true
  | .vscanXor _ _ _ => true
  | .vscanAddF32 _ _ _ => true
  | .vscanMinF32 _ _ _ => true
  | .vscanMaxF32 _ _ _ => true
  | .barG _ => true
  | .barC _ => true
  | .barL _ => true
  | .fence _ s => scopeOk s
  | .wait _ _ _ _ => true
  | .tlwait _ k o _ s => scopeOk s && (o || decide (k = 0))
  | .waita _ p => asyncSpaceOk p
  | .rdenter => true
  | .rdexit => true
  | .wround s => decide (s = 3 ∨ s = 4)
  | .dfree _ _ _ => true
  | .alwrd _ _ => true
  | .cpy d p r _ => asyncSpaceOk p && asyncSpaceOk r && sgroupOk d 3
  | .cpy2d d p r _ => asyncSpaceOk p && asyncSpaceOk r && sgroupOk d 4
  | .cpyg d p r _ => asyncSpaceOk p && asyncSpaceOk r && sgroupOk d 3
  | .qputMemory s r _ _ => asyncSpaceOk r && sgroupOk s 2
  | .qputRegister _ _ => true
  | .qgetVector _ _ => true
  | .qgetScalar d _ => sgroupOk d 16
  | .tlread _ o _ k => (o || decide (k = 0))
  | .tfetchC d => sgroupOk d 4
  | .tfetchQ d _ _ => sgroupOk d 4
  | .coll _ => true
  | .mma128x128 q _ _ _ _ => sgroupOk q 5
  | .mma128x64 q _ _ _ _ _ => sgroupOk q 5
  | .mma64x128 q _ _ _ _ _ => sgroupOk q 5
  | .mma64x64 q _ _ _ _ _ => sgroupOk q 5
  | .mma32x128 q _ _ _ _ _ => sgroupOk q 5
  | .mma128x32 q _ _ _ _ _ => sgroupOk q 5
  | .accz _ => true
  | .accld q _ _ => sgroupOk q 2
  | .accst q _ _ => sgroupOk q 2
  | .accmv _ _ => true
  | .accovx _ _ _ => true
  | .tspawn _ a => decide (a ≠ 0)
  | .tspawnRel _ b => decide (b ≠ 0)
  | .frd _ _ => true
  | .fwr _ _ => true
  | .fwrClr _ _ => true
  | .lpost _ _ _ => true
  | .give _ k => decide (k ≠ 0)
  | .claim _ k => decide (k ≠ 0)
  | .sread _ _ => true
  | .csrrd _ _ => true
  | .csrwr _ _ => true
  | .tlbinv s _ _ => decide (s = 3 ∨ s = 4)
  | .caprd _ _ => true
  | .hreg _ _ _ => true
  | .pkrd d a => sgroupOk d 2 && sgroupOk a 2
  | .pkwr _ a _ => sgroupOk a 2
  | .pkres _ _ => true
  | .pkretry _ _ => true
  | .pkredir _ _ _ => true
  | .pkkill _ _ => true
  | .clauseIssue _ => false
  | .preEmption _ => false
  | .swapIn _ => false
  | .faultTaskRaise _ => false
  | .pendingFaultTaskSend => false
  | .faultBankFullRefusal _ => false
  | .deckDispatch _ => false
  | .taskStart _ => false
  | .deckAging => false
  | .taskDeadlineExpiry _ => false
  | .recordDeadlineExpiry _ => false
  | .faultTaskDeadlineExpiry _ => false
  | .runBudgetExpiry _ => false
  | .disableBudgetExpiry _ => false
  | .barrierWatchdogExpiry _ => false
  | .stalemate _ => false
  | .contextReset _ => false
  | .contextResetProgress _ => false
  | .contextEnable _ => false
  | .contextDisable _ => false
  | .partitionEnable _ => false
  | .partitionSeal _ => false
  | .partitionDisable _ => false
  | .hRangeGrant _ _ _ => false
  | .reclaimGroupDesignate _ _ => false
  | .groupOverflowWrite _ _ => false
  | .fabannWrite _ => false
  | .launchQueueEnable _ _ _ => false
  | .launchQueueDisable _ _ => false
  | .frontEndMonitorWake _ _ => false
  | .commandSeqReread _ _ => false
  | .launch _ _ => false
  | .ib _ _ => false
  | .pred _ _ => false
  | .loop _ _ => false
  | .wrmem _ _ => false
  | .waitmem _ _ => false
  | .ffence _ _ => false
  | .tlsig _ _ => false
  | .nopPacket _ _ => false
  | .link _ _ => false
  | .postedLaunchHandover _ _ => false
  | .placementStep _ => false
  | .groupEnd _ => false
  | .barrierComplete _ => false
  | .roundComplete _ => false
  | .schedulerRoundStart _ => false
  | .dfreeQueueingComplete _ => false
  | .reclaimQueueFill _ => false
  | .waitaWake _ => false
  | .spuriousWake _ => false
  | .waitConditionMet _ => false
  | .lineRequestReturn _ _ => false
  | .fabricBatchSend _ => false
  | .queueSlotFill _ _ _ => false
  | .hardwarePrefetch _ _ _ => false
  | .copySegmentComplete _ _ _ => false
  | .tileOperationComplete _ _ => false
  | .tilePinGrant _ => false
  | .matrixEngineReset _ => false
  | .collectiveComplete _ _ => false
  | .atomicServicePerform _ _ => false
  | .readRequest _ => false
  | .readReply _ => false
  | .write _ => false
  | .atomicRequest _ => false
  | .atomicReply _ => false
  | .acknowledgement _ => false
  | .faultLaneMessage _ _ => false
  | .recoveryAnnouncement _ => false
  | .announcementBoundExpiry _ => false
  | .fabricAckTrigger _ _ => false
  | .fabricRetransmit _ _ _ => false
  | .linkTimeout _ => false
  | .portRetrain _ => false
  | .hostModuleReset => false
  | .hostBarAccess _ _ _ _ => false
  | .capOffsetWrite _ => false
  | .sendQueueWork _ => false
  | .rdmaCompletion _ _ _ _ => false
  | .rdmaTimeout _ _ => false
  | .rdmaInbound _ => false
  | .powerOn _ => false
  | .patrolScrub _ _ => false
  | .scoreHalving => false
  | .coreVacateMigrate _ _ => false
  | .testVacateTimeout _ => false
  | .testRetry _ => false
  | .targetedTestEnd _ _ => false
  | .traceBlockClose _ => false
  | .portTrainingComplete _ => false
  | .modulePowerLimit _ => false
  | .ideKmRequest _ _ => false

end Sys2Proof
end

