-- ==== Sys2Proof/Decode.lean ====
section
/-! DEFINITION. The decoder of instruction words (R208, R215 to R229) and, after it, the encoder. Decoding is total and
rejects by name: an illegal prefix (R221) or an illegal encoding with the detail the spec gives (R10, R216 to R228).
The checks of a field's value that an entry states (a reserved scope, a space an instruction does not take, a register
pair, a copy operand) are made at issue, in `Sys2Proof.Machine.fieldFault`, so that such words decode to their row. -/

namespace Sys2Proof

/-- Why a word sequence is not an instruction (R221, R541 items 1 and 2). -/
inductive DecErr where
  | illegalPrefix
  | illegalEncoding (d : Detail)
  deriving DecidableEq, Repr

/-- A decoding result. -/
abbrev Dec (α : Type) := Except DecErr α

/-- The major opcode, bits [31:26] (R208). -/
def major (w : Wd) : BitVec 6 := w.extractLsb' 26 6

/-- The legacy of a clause header: bits [31:28] are 0b1010 (R202). -/
def isHeader (w : Wd) : Bool := w.extractLsb' 28 4 = 0xA#4

/-! ### Formats (Table 6-3): the fields of a word, and the word of the fields -/

/-- Format RR, and format M with D, SB, X for D, A, B. -/
structure RR where
  op : BitVec 6
  d : BitVec 7
  a : BitVec 7
  b : BitVec 7
  mn : BitVec 5
  deriving DecidableEq, Repr

/-- The fields of a word in format RR. -/
def rrOf (w : Wd) : RR := ⟨w.extractLsb' 26 6, w.extractLsb' 19 7, w.extractLsb' 12 7, w.extractLsb' 5 7, w.extractLsb' 0 5⟩
/-- The word of format RR. -/
def rrWord (r : RR) : Wd := r.op ++ r.d ++ r.a ++ r.b ++ r.mn

/-- Format RI. -/
structure RI where
  op : BitVec 6
  d : BitVec 7
  a : BitVec 7
  mn : BitVec 4
  i : BitVec 8
  deriving DecidableEq, Repr

/-- The fields of a word in format RI. -/
def riOf (w : Wd) : RI := ⟨w.extractLsb' 26 6, w.extractLsb' 19 7, w.extractLsb' 12 7, w.extractLsb' 8 4, w.extractLsb' 0 8⟩
/-- The word of format RI. -/
def riWord (r : RI) : Wd := r.op ++ r.d ++ r.a ++ r.mn ++ r.i

/-- Format B; OFF15 in two parts, THR and OFF7 for BALW (Table 7-1). -/
structure BF where
  op : BitVec 6
  mn : BitVec 4
  s : BitVec 7
  thr : BitVec 8
  off : BitVec 7
  deriving DecidableEq, Repr

/-- The fields of a word in format B. -/
def bfOf (w : Wd) : BF := ⟨w.extractLsb' 26 6, w.extractLsb' 22 4, w.extractLsb' 15 7, w.extractLsb' 7 8, w.extractLsb' 0 7⟩
/-- The word of format B. -/
def bfWord (r : BF) : Wd := r.op ++ r.mn ++ r.s ++ r.thr ++ r.off

/-- Format MK. -/
structure MK where
  op : BitVec 6
  mn : BitVec 5
  pd : BitVec 4
  pa : BitVec 4
  pb : BitVec 4
  r : BitVec 7
  z : BitVec 2
  deriving DecidableEq, Repr

/-- The fields of a word in format MK. -/
def mkOf (w : Wd) : MK :=
  ⟨w.extractLsb' 26 6, w.extractLsb' 21 5, w.extractLsb' 17 4, w.extractLsb' 13 4, w.extractLsb' 9 4, w.extractLsb' 2 7, w.extractLsb' 0 2⟩
/-- The word of format MK. -/
def mkWord (r : MK) : Wd := r.op ++ r.mn ++ r.pd ++ r.pa ++ r.pb ++ r.r ++ r.z

/-- Format PC. -/
structure PC where
  op : BitVec 6
  pd : BitVec 4
  a : BitVec 7
  b : BitVec 7
  cc : BitVec 4
  ty : BitVec 4
  deriving DecidableEq, Repr

/-- The fields of a word in format PC. -/
def pcOf (w : Wd) : PC :=
  ⟨w.extractLsb' 26 6, w.extractLsb' 22 4, w.extractLsb' 15 7, w.extractLsb' 8 7, w.extractLsb' 4 4, w.extractLsb' 0 4⟩
/-- The word of format PC. -/
def pcWord (r : PC) : Wd := r.op ++ r.pd ++ r.a ++ r.b ++ r.cc ++ r.ty

/-- Format F of major 53: F21 cut as Table 6-9 needs it, [20:14], [13:7], [6:0]. -/
structure FF where
  op : BitVec 6
  mn : BitVec 5
  x : BitVec 7
  y : BitVec 7
  z : BitVec 7
  deriving DecidableEq, Repr

/-- The fields of a word in format F. -/
def ffOf (w : Wd) : FF := ⟨w.extractLsb' 26 6, w.extractLsb' 21 5, w.extractLsb' 14 7, w.extractLsb' 7 7, w.extractLsb' 0 7⟩
/-- The word of format F. -/
def ffWord (r : FF) : Wd := r.op ++ r.mn ++ r.x ++ r.y ++ r.z

/-- Format AS. -/
structure AS where
  op : BitVec 6
  mn : BitVec 5
  sd : BitVec 7
  ds : BitVec 3
  ss : BitVec 3
  f : BitVec 8
  deriving DecidableEq, Repr

/-- The fields of a word in format AS. -/
def asOf (w : Wd) : AS :=
  ⟨w.extractLsb' 26 6, w.extractLsb' 21 5, w.extractLsb' 14 7, w.extractLsb' 11 3, w.extractLsb' 8 3, w.extractLsb' 0 8⟩
/-- The word of format AS. -/
def asWord (r : AS) : Wd := r.op ++ r.mn ++ r.sd ++ r.ds ++ r.ss ++ r.f

/-- Format MX. -/
structure MX where
  op : BitVec 6
  mn : BitVec 5
  q : BitVec 7
  t : BitVec 3
  sat : BitVec 1
  asrc : BitVec 1
  bsrc : BitVec 1
  t2 : BitVec 3
  z : BitVec 5
  deriving DecidableEq, Repr

/-- The fields of a word in format MX. -/
def mxOf (w : Wd) : MX :=
  ⟨w.extractLsb' 26 6, w.extractLsb' 21 5, w.extractLsb' 14 7, w.extractLsb' 11 3, w.extractLsb' 10 1, w.extractLsb' 9 1,
   w.extractLsb' 8 1, w.extractLsb' 5 3, w.extractLsb' 0 5⟩
/-- The word of format MX. -/
def mxWord (r : MX) : Wd := r.op ++ r.mn ++ r.q ++ r.t ++ r.sat ++ r.asrc ++ r.bsrc ++ r.t2 ++ r.z

/-! ### Prefixes (Table 6-4) -/

/-- The fields of an OPX prefix. -/
structure Opx where
  e : BitVec 7
  ty : BitVec 3
  ann : BitVec 2
  scope : BitVec 3
  ret : BitVec 1
  z : BitVec 10
  deriving DecidableEq, Repr

/-- The fields of an MSK prefix, with its zero bits. -/
structure MskW where
  k : Msk
  z : BitVec 20
  deriving DecidableEq, Repr

/-- The fields of an FMT prefix. -/
structure Fmt where
  rv : Bool
  rm : BitVec 3
  fv : Bool
  src : BitVec 5
  dst : BitVec 5
  z : BitVec 11
  deriving DecidableEq, Repr

/-- The prefixes read before a base word. -/
structure Pfx where
  imm : Option (BitVec 26)
  opx : Option Opx
  msk : Option MskW
  fmt : Option Fmt
  deriving DecidableEq, Repr

/-- No prefix. -/
def pfx0 : Pfx := ⟨none, none, none, none⟩

/-- A Boolean as one bit. -/
def bit1 (b : Bool) : BitVec 1 := if b then 1#1 else 0#1
/-- One bit as a Boolean. -/
def isOne (b : BitVec 1) : Bool := b = 1#1

/-- The fields of an OPX word. -/
def opxOf (w : Wd) : Opx :=
  ⟨w.extractLsb' 19 7, w.extractLsb' 16 3, w.extractLsb' 14 2, w.extractLsb' 11 3, w.extractLsb' 10 1, w.extractLsb' 0 10⟩
/-- The word of an OPX prefix. -/
def opxWord (x : Opx) : Wd := 61#6 ++ x.e ++ x.ty ++ x.ann ++ x.scope ++ x.ret ++ x.z
/-- The fields of an MSK word. -/
def mskOf (w : Wd) : MskW :=
  ⟨⟨w.extractLsb' 22 4, isOne (w.extractLsb' 21 1), isOne (w.extractLsb' 20 1)⟩, w.extractLsb' 0 20⟩
/-- The word of an MSK prefix. -/
def mskWord (x : MskW) : Wd := 62#6 ++ x.k.p ++ bit1 x.k.z ++ bit1 x.k.n ++ x.z
/-- The fields of an FMT word. -/
def fmtOf (w : Wd) : Fmt :=
  ⟨isOne (w.extractLsb' 25 1), w.extractLsb' 22 3, isOne (w.extractLsb' 21 1), w.extractLsb' 16 5, w.extractLsb' 11 5, w.extractLsb' 0 11⟩
/-- The word of an FMT prefix. -/
def fmtWord (x : Fmt) : Wd := 63#6 ++ bit1 x.rv ++ x.rm ++ bit1 x.fv ++ x.src ++ x.dst ++ x.z
/-- The word of an IMM prefix. -/
def immWord (v : BitVec 26) : Wd := 60#6 ++ v

/-- Read prefixes up to the base word: the prefixes, the base word, the words read (R208). A third prefix, two of one
kind, or a prefix before a header word is an illegal prefix (R221). -/
def readPfx : List Wd → Pfx → Nat → Dec (Pfx × Wd × Nat)
  | [], _, _ => .error .illegalPrefix
  | w :: ws, p, n =>
    match (major w).toNat with
    | 60 => if p.imm.isSome ∨ n ≥ 2 then .error .illegalPrefix else readPfx ws { p with imm := some (w.extractLsb' 0 26) } (n + 1)
    | 61 => if p.opx.isSome ∨ n ≥ 2 then .error .illegalPrefix else readPfx ws { p with opx := some (opxOf w) } (n + 1)
    | 62 => if p.msk.isSome ∨ n ≥ 2 then .error .illegalPrefix else readPfx ws { p with msk := some (mskOf w) } (n + 1)
    | 63 => if p.fmt.isSome ∨ n ≥ 2 then .error .illegalPrefix else readPfx ws { p with fmt := some (fmtOf w) } (n + 1)
    | _ => if n > 0 ∧ isHeader w then .error .illegalPrefix else .ok (p, w, n + 1)

/-- Which prefixes a base word accepts (Table 6-5): IMM, OPX, MSK, FMT. -/
def pfxAllowed (w : Wd) : Bool × Bool × Bool × Bool :=
  let m := (major w).toNat
  let mo := (w.extractLsb' 0 2).toNat
  let ty := (w.extractLsb' 0 4).toNat
  if m = 1 ∨ m = 4 then (true, false, false, false)
  else if m = 7 then (decide (3 ≤ ty ∧ ty ≤ 5), false, true, false)
  else if 8 ≤ m ∧ m ≤ 12 then (true, mo == 2, true, false)
  else if 16 ≤ m ∧ m ≤ 20 then (true, mo == 1, true, false)
  else if 24 ≤ m ∧ m ≤ 28 then (true, (w.extractLsb' 0 1) == 1#1, false, false)
  else if 32 ≤ m ∧ m ≤ 36 then (true, true, true, false)
  else if 44 ≤ m ∧ m ≤ 46 then (false, true, true, false)
  else if m = 47 then (true, true, true, false)
  else if m = 48 ∨ m = 49 then (false, true, true, true)
  else if m = 50 then (true, true, true, true)
  else if m = 51 then
    if (w.extractLsb' 0 5).toNat ≤ 1 then (false, false, true, true) else (false, false, false, false)
  else if m = 52 then (false, false, true, false)
  else (false, false, false, false)

/-- Every prefix read is one the base word accepts (R221). -/
def pfxLegal (p : Pfx) (w : Wd) : Bool :=
  match pfxAllowed w with
  | (i, x, m, f) => (i || p.imm.isNone) && (x || p.opx.isNone) && (m || p.msk.isNone) && (f || p.fmt.isNone)

/-- The bits marked zero in the prefixes are zero, and an FMT field without its valid bit is zero (R221). -/
def pfxZeros (p : Pfx) : Bool :=
  p.opx.all (fun x => x.z = 0) && p.msk.all (fun x => x.z = 0)
    && p.fmt.all (fun x => x.z = 0 && (x.rv || x.rm = 0) && (x.fv || (x.src = 0 && x.dst = 0)))

/-! ### Field readers -/

/-- Go on if a condition holds; otherwise an illegal encoding with a detail. -/
def need {α : Type} (c : Bool) (d : Detail) (k : Dec α) : Dec α := if c then k else .error (.illegalEncoding d)

/-- A 7-bit field that names a scalar register has bit 6 clear (R216). -/
def sregF {α : Type} (f : BitVec 7) (k : SReg → Dec α) : Dec α :=
  if f.extractLsb' 6 1 = 0#1 then k (f.extractLsb' 0 6) else .error (.illegalEncoding .scalarField)

/-- A 7-bit field that names a predicate has its upper bits zero (Table 7-2, Table 8-10). -/
def predF {α : Type} (f : BitVec 7) (k : PReg → Dec α) : Dec α :=
  if f.extractLsb' 4 3 = 0#3 then k (f.extractLsb' 0 4) else .error (.illegalEncoding .none)

/-- A field that must be zero (R217). -/
def zeroF {α : Type} {n : Nat} (f : BitVec n) (k : Dec α) : Dec α := need (f = 0) .none k

/-- The 32-bit value of an IMM prefix and the six low bits of a field (R218). -/
def immVal (v : BitVec 26) (f : BitVec 6) : Wd := v ++ f

/-- IMM8 or the prefixed immediate of major 4 (R218). -/
def immF {α : Type} (p : Pfx) (f : BitVec 8) (k : Imm → Dec α) : Dec α :=
  match p.imm with
  | none => k (.short f)
  | some v => need (f.extractLsb' 6 2 = 0) .none (k (.long (immVal v (f.extractLsb' 0 6))))

/-- The shift count of SHLI, SHRI and SARI (R256): IMM8[7:6] zero, and VAL zero when an IMM prefix stands. -/
def shF {α : Type} (p : Pfx) (f : BitVec 8) (k : BitVec 6 → Dec α) : Dec α :=
  need (f.extractLsb' 6 2 = 0 && p.imm.all (fun v => v = 0)) .none (k (f.extractLsb' 0 6))

/-- OFF15 or the prefixed offset (R240). -/
def off15F {α : Type} (p : Pfx) (hi : BitVec 8) (lo : BitVec 7) (k : Off15 → Dec α) : Dec α :=
  match p.imm with
  | none => k (.short (hi ++ lo))
  | some v => need (hi = 0 && lo.extractLsb' 6 1 = 0#1) .none (k (.long (immVal v (lo.extractLsb' 0 6))))

/-- OFF7 of BALW or the prefixed offset (R240). -/
def off7F {α : Type} (p : Pfx) (lo : BitVec 7) (k : Off7 → Dec α) : Dec α :=
  match p.imm with
  | none => k (.short lo)
  | some v => need (lo.extractLsb' 6 1 = 0#1) .none (k (.long (immVal v (lo.extractLsb' 0 6))))

/-- Operand b of majors 47, 50 and 7: a scalar register or the prefixed immediate (R268). -/
def sorF {α : Type} (p : Pfx) (f : BitVec 7) (k : SOrI → Dec α) : Dec α :=
  match p.imm with
  | none => sregF f (fun r => k (.reg r))
  | some v => need (f.extractLsb' 6 1 = 0#1) .none (k (.imm (immVal v (f.extractLsb' 0 6))))

/-- The operand b of a unary form of majors 47 and 50 is absent: B and VAL are zero (R228, R271). -/
def noB {α : Type} (p : Pfx) (f : BitVec 7) (k : Dec α) : Dec α :=
  need (f = 0 && p.imm.all (fun v => v = 0)) .none k

/-- XF of an OPX prefix is zero (R269). -/
def xfZero (x : Opx) : Bool := x.ty = 0 && x.ann = 0 && x.scope = 0 && x.ret = 0

/-- The third source of an OPX prefix (R222, R269). -/
def opxE {α : Type} (p : Pfx) (k : Option VReg → Dec α) : Dec α :=
  match p.opx with
  | none => k none
  | some x => need (xfZero x) .none (k (some x.e))

/-- OPX on an instruction with no third source: E and XF are zero (R269). -/
def noE {α : Type} (p : Pfx) (k : Dec α) : Dec α := need (p.opx.all (fun x => xfZero x && x.e = 0)) .none k

/-- OPX of an acquire load or release store: required, E zero, SCOPE only (R220, R222); an ANN there asks for another annotation
(R132). -/
def opxScope {α : Type} (p : Pfx) (k : BitVec 3 → Dec α) : Dec α :=
  match p.opx with
  | none => .error (.illegalEncoding .prefixRequired)
  | some x => need (x.e = 0 && x.ty = 0 && x.ret = 0) .none (need (x.ann = 0) .annotation (k x.scope))

/-- The MSK prefix. -/
def mskF (p : Pfx) : Option Msk := p.msk.map (·.k)

/-- The MSK prefix of an instruction without a vector or predicate destination: Z is zero (R223). -/
def mskNZ {α : Type} (p : Pfx) (k : Option Msk → Dec α) : Dec α := need (mskNoZ (mskF p)) .none (k (mskF p))

/-- The rounding mode of an FMT prefix with FV = 0 (R224, R277). -/
def rmF {α : Type} (p : Pfx) (k : Option (BitVec 3) → Dec α) : Dec α :=
  match p.fmt with
  | none => k none
  | some f => need (!f.fv) .none (if f.rv then need (f.rm.toNat ≤ 5) .reservedValue (k (some f.rm)) else k none)

/-- The formats and the rounding mode of VCVT and QCVT: FMT with FV = 1 is required (R220, R283). -/
def cvtF {α : Type} (p : Pfx) (k : BitVec 5 → BitVec 5 → Option (BitVec 3) → Dec α) : Dec α :=
  match p.fmt with
  | none => .error (.illegalEncoding .prefixRequired)
  | some f => need f.fv .prefixRequired
      (if f.rv then need (f.rm.toNat ≤ 5) .reservedValue (k f.src f.dst (some f.rm)) else k f.src f.dst none)

/-- The space of a memory group, bits [28:26] of the major (R225). -/
def spaceF {α : Type} (b : BitVec 3) (k : Space → Dec α) : Dec α :=
  match b.toNat with
  | 0 => k .L
  | 1 => k .C
  | 2 => k .K
  | 3 => k .H
  | 4 => k .G
  | _ => .error (.illegalEncoding .reservedSpace)

/-- The code of a space (Table 3-1). -/
def spaceCode : Space → BitVec 3
  | .L => 0
  | .C => 1
  | .K => 2
  | .H => 3
  | .G => 4

/-- The address of a vector memory word (R301). -/
def vaddrF {α : Type} (p : Pfx) (r : RR) (k : VAddr → Dec α) : Dec α :=
  spaceF (r.op.extractLsb' 0 3) (fun sp => sregF r.a (fun b => k ⟨sp, b, r.b, p.imm⟩))

/-- The X selector of a scalar form (R216). -/
def xselF (f : BitVec 7) : XSel :=
  if f.extractLsb' 6 1 = 0#1 then .reg (f.extractLsb' 0 6) else .off (f.extractLsb' 0 6)

/-- The address of a scalar-form memory word (R309). -/
def saddrF {α : Type} (p : Pfx) (r : RR) (k : SAddr → Dec α) : Dec α :=
  spaceF (r.op.extractLsb' 0 3) (fun sp => sregF r.a (fun b => k ⟨sp, b, xselF r.b, p.imm⟩))

/-- Condition codes (R264). -/
def ccF {α : Type} (f : BitVec 4) (k : Cc → Dec α) : Dec α :=
  match f.toNat with
  | 0 => k .eq
  | 1 => k .ne
  | 2 => k .lt
  | 3 => k .le
  | 4 => k .gt
  | 5 => k .ge
  | 6 => k .un
  | 7 => k .ord
  | _ => .error (.illegalEncoding .none)

/-- The code of a condition (R264). -/
def ccCode : Cc → BitVec 4
  | .eq => 0
  | .ne => 1
  | .lt => 2
  | .le => 3
  | .gt => 4
  | .ge => 5
  | .un => 6
  | .ord => 7

/-- An instruction that does not exist: a reserved major or minor (R225, R228). -/
def reserved {α : Type} : Dec α := .error (.illegalEncoding .none)

/-! ### The opcode map (Tables 6-6, 6-8, 6-9), one reader per group of majors -/

/-- Major 1 (Table 7-2). -/
def decBranch (p : Pfx) (w : Wd) : Dec OpA :=
  let r := bfOf w
  match r.mn.toNat with
  | 0 => zeroF r.s (off15F p r.thr r.off (fun o => .ok (.br o)))
  | 1 => sregF r.s (fun s => off15F p r.thr r.off (fun o => .ok (.brcEq s o)))
  | 2 => sregF r.s (fun s => off15F p r.thr r.off (fun o => .ok (.brcNe s o)))
  | 3 => sregF r.s (fun s => off15F p r.thr r.off (fun o => .ok (.brcLt s o)))
  | 4 => sregF r.s (fun s => off15F p r.thr r.off (fun o => .ok (.brcGe s o)))
  | 5 => predF r.s (fun s => off15F p r.thr r.off (fun o => .ok (.bany s o)))
  | 6 => predF r.s (fun s => off15F p r.thr r.off (fun o => .ok (.bnone s o)))
  | 7 => sregF r.s (fun s => off7F p r.off (fun o => .ok (.balw s r.thr o)))
  | 8 => zeroF r.s (off15F p r.thr r.off (fun o => .ok (.call o)))
  | _ => reserved

/-- Major 2 (Table 7-3). -/
def decControl (w : Wd) : Dec OpA :=
  let r := rrOf w
  match r.mn.toNat with
  | 0 => zeroF r.d (zeroF r.a (zeroF r.b (.ok .nop)))
  | 1 => zeroF r.d (zeroF r.a (zeroF r.b (.ok .exit)))
  | 2 => zeroF r.d (zeroF r.a (zeroF r.b (.ok .yld)))
  | 7 => zeroF r.d (zeroF r.a (zeroF r.b (.ok .pdis)))
  | 8 => zeroF r.d (zeroF r.a (zeroF r.b (.ok .pen)))
  | 3 => zeroF r.d (zeroF r.b (sregF r.a (fun a => .ok (.ret a))))
  | 4 => zeroF r.d (zeroF r.b (sregF r.a (fun a => .ok (.callr a))))
  | 5 => zeroF r.d (zeroF r.b (sregF r.a (fun a => .ok (.brr a))))
  | 6 => zeroF r.d (zeroF r.a (.ok (.trap r.b)))
  | 9 => zeroF (r.d.extractLsb' 3 4) (sregF r.a (fun a => sregF r.b (fun b => .ok (.icinv (r.d.extractLsb' 0 3) a b))))
  | _ => reserved

/-- Major 3 (Table 7-5). -/
def decScalar (w : Wd) : Dec OpA :=
  let r := rrOf w
  sregF r.d (fun d => sregF r.a (fun a =>
  match r.mn.toNat with
  | 0 => sregF r.b (fun b => .ok (.add d a b))
  | 1 => sregF r.b (fun b => .ok (.sub d a b))
  | 2 => sregF r.b (fun b => .ok (.mul d a b))
  | 3 => sregF r.b (fun b => .ok (.mulhs d a b))
  | 4 => sregF r.b (fun b => .ok (.mulhu d a b))
  | 5 => sregF r.b (fun b => .ok (.div d a b))
  | 6 => sregF r.b (fun b => .ok (.divu d a b))
  | 7 => sregF r.b (fun b => .ok (.rem d a b))
  | 8 => sregF r.b (fun b => .ok (.remu d a b))
  | 9 => sregF r.b (fun b => .ok (.and d a b))
  | 10 => sregF r.b (fun b => .ok (.or d a b))
  | 11 => sregF r.b (fun b => .ok (.xor d a b))
  | 12 => sregF r.b (fun b => .ok (.andn d a b))
  | 13 => sregF r.b (fun b => .ok (.shl d a b))
  | 14 => sregF r.b (fun b => .ok (.shr d a b))
  | 15 => sregF r.b (fun b => .ok (.sar d a b))
  | 16 => sregF r.b (fun b => .ok (.rol d a b))
  | 17 => sregF r.b (fun b => .ok (.min d a b))
  | 18 => sregF r.b (fun b => .ok (.max d a b))
  | 19 => sregF r.b (fun b => .ok (.minu d a b))
  | 20 => sregF r.b (fun b => .ok (.maxu d a b))
  | 21 => sregF r.b (fun b => .ok (.slt d a b))
  | 22 => sregF r.b (fun b => .ok (.sltu d a b))
  | 23 => sregF r.b (fun b => .ok (.seq d a b))
  | 24 => zeroF r.b (.ok (.clz d a))
  | 25 => zeroF r.b (.ok (.popc d a))
  | _ => reserved))

/-- Major 4 (Table 7-6). -/
def decScalarImm (p : Pfx) (w : Wd) : Dec OpA :=
  let r := riOf w
  sregF r.d (fun d => sregF r.a (fun a =>
  match r.mn.toNat with
  | 0 => immF p r.i (fun i => .ok (.addi d a i))
  | 1 => immF p r.i (fun i => .ok (.muli d a i))
  | 2 => immF p r.i (fun i => .ok (.andi d a i))
  | 3 => immF p r.i (fun i => .ok (.ori d a i))
  | 4 => immF p r.i (fun i => .ok (.xori d a i))
  | 5 => shF p r.i (fun i => .ok (.shli d a i))
  | 6 => shF p r.i (fun i => .ok (.shri d a i))
  | 7 => shF p r.i (fun i => .ok (.sari d a i))
  | 8 => immF p r.i (fun i => .ok (.slti d a i))
  | 9 => immF p r.i (fun i => .ok (.sltui d a i))
  | 10 => immF p r.i (fun i => .ok (.seqi d a i))
  | 11 => zeroF r.a (immF p r.i (fun i => .ok (.li d i)))
  | 12 => immF p r.i (fun i => .ok (.lih d a i))
  | _ => reserved))

/-- Major 5 (R257). -/
def decSpecial (w : Wd) : Dec OpA :=
  let r := riOf w
  match r.mn.toNat with
  | 0 => sregF r.d (fun d => zeroF r.a (.ok (.srrd d r.i)))
  | 1 => zeroF r.d (sregF r.a (fun a => .ok (.srwr r.i a)))
  | _ => reserved

/-- Major 6 (Table 7-7). -/
def decMask (w : Wd) : Dec OpA :=
  let r := mkOf w
  zeroF r.z (
  match r.mn.toNat with
  | 0 => zeroF r.pa (zeroF r.pb (zeroF r.r (.ok (.msave r.pd))))
  | 1 => zeroF r.pd (zeroF r.pb (zeroF r.r (.ok (.mrstr r.pa))))
  | 2 => zeroF r.pd (zeroF r.pb (zeroF r.r (.ok (.mand r.pa))))
  | 3 => zeroF r.pd (zeroF r.pb (zeroF r.r (.ok (.mandn r.pa))))
  | 4 => zeroF r.pd (zeroF r.pb (zeroF r.r (.ok (.mor r.pa))))
  | 5 => zeroF r.pd (zeroF r.pb (zeroF r.r (.ok (.mnot r.pa))))
  | 6 => zeroF r.pd (zeroF r.pb (sregF r.r (fun d => .ok (.mcnt d r.pa))))
  | 7 => zeroF r.pd (zeroF r.pb (sregF r.r (fun d => .ok (.mfirst d r.pa))))
  | 8 => zeroF r.r (.ok (.pand r.pd r.pa r.pb))
  | 9 => zeroF r.r (.ok (.por r.pd r.pa r.pb))
  | 10 => zeroF r.r (.ok (.pxor r.pd r.pa r.pb))
  | 11 => zeroF r.r (.ok (.pandn r.pd r.pa r.pb))
  | 12 => zeroF r.pb (zeroF r.r (.ok (.pnot r.pd r.pa)))
  | 13 => zeroF r.pd (zeroF (r.pb.extractLsb' 3 1) (.ok (.ppack r.r r.pa (r.pb.extractLsb' 0 3))))
  | 14 => zeroF r.pd (zeroF (r.pb.extractLsb' 3 1) (.ok (.punpk r.pa r.r (r.pb.extractLsb' 0 3))))
  | _ => reserved)

/-- Major 7 (R264). -/
def decCompare (p : Pfx) (w : Wd) : Dec OpA :=
  let r := pcOf w
  ccF r.cc (fun cc =>
  match r.ty.toNat with
  | 0 => .ok (.pcmp r.pd r.a (.vec r.b) cc .i32 (mskF p))
  | 1 => .ok (.pcmp r.pd r.a (.vec r.b) cc .u32 (mskF p))
  | 2 => .ok (.pcmp r.pd r.a (.vec r.b) cc .f32 (mskF p))
  | 3 => sorF p r.b (fun b => .ok (.pcmp r.pd r.a (.sca b) cc .i32 (mskF p)))
  | 4 => sorF p r.b (fun b => .ok (.pcmp r.pd r.a (.sca b) cc .u32 (mskF p)))
  | 5 => sorF p r.b (fun b => .ok (.pcmp r.pd r.a (.sca b) cc .f32 (mskF p)))
  | _ => reserved)

/-- Majors 8 to 12: vector loads and prefetches (Table 6-7). -/
def decLoad (p : Pfx) (w : Wd) : Dec OpA :=
  let r := rrOf w
  let z := r.mn.extractLsb' 2 3
  vaddrF p r (fun a =>
  if z = 7 then zeroF r.d (
    match (r.mn.extractLsb' 0 2).toNat with
    | 0 => mskNZ p (fun m => .ok (.pf a m))
    | 3 => mskNZ p (fun m => .ok (.pfSpec a m))
    | _ => reserved)
  else
    match (r.mn.extractLsb' 0 2).toNat with
    | 0 => .ok (.ld false z r.d a (mskF p))
    | 1 => .ok (.ld true z r.d a (mskF p))
    | 2 => opxScope p (fun s => .ok (.ldAcq z s r.d a (mskF p)))
    | _ => reserved)

/-- Majors 16 to 20: vector stores (Table 6-7). -/
def decStore (p : Pfx) (w : Wd) : Dec OpA :=
  let r := rrOf w
  let z := r.mn.extractLsb' 2 3
  vaddrF p r (fun a => mskNZ p (fun m => need (z.toNat ≤ 4) .none (
    match (r.mn.extractLsb' 0 2).toNat with
    | 0 => .ok (.st false z a r.d m)
    | 1 => opxScope p (fun s => .ok (.stRel z s a r.d m))
    | 2 => .ok (.st true z a r.d m)
    | _ => reserved)))

/-- Majors 24 to 28: scalar-form loads and stores (Table 6-7). -/
def decScalarMem (p : Pfx) (w : Wd) : Dec OpA :=
  let r := rrOf w
  let z := r.mn.extractLsb' 1 3
  saddrF p r (fun a => sregF r.d (fun d =>
  if r.mn.extractLsb' 4 1 = 0#1 then
    need (z.toNat ≤ 6) .none (
      if r.mn.extractLsb' 0 1 = 0#1 then .ok (.ldScalar z d a)
      else opxScope p (fun s => .ok (.ldScalarAcq z s d a)))
  else
    need (z.toNat ≤ 3) .none (
      if r.mn.extractLsb' 0 1 = 0#1 then .ok (.stScalar z a d)
      else opxScope p (fun s => .ok (.stScalarRel z s a d)))))

/-- The operation of an atomic (R227). -/
def atomOp (n : Nat) (x : Atom) : Dec OpA :=
  match n with
  | 0 => .ok (.atomAdd x)
  | 1 => .ok (.atomSub x)
  | 2 => .ok (.atomMin x)
  | 3 => .ok (.atomMax x)
  | 4 => .ok (.atomAnd x)
  | 5 => .ok (.atomOr x)
  | 6 => .ok (.atomXor x)
  | 7 => .ok (.atomExch x)
  | 8 => .ok (.atomCas x)
  | 9 => .ok (.atomFaddt x)
  | _ => reserved

/-- Majors 32 to 36: atomics (R227, R313). -/
def decAtomic (p : Pfx) (w : Wd) : Dec OpA :=
  let r := rrOf w
  match p.opx with
  | none => .error (.illegalEncoding .prefixRequired)
  | some x =>
    if r.mn.extractLsb' 4 1 = 0#1 then
      vaddrF p r (fun a =>
        atomOp (r.mn.extractLsb' 0 4).toNat ⟨.vec r.d a x.e, x.ty, x.ann, x.scope, isOne x.ret, mskF p⟩)
    else
      saddrF p r (fun a => sregF r.d (fun d => sregF x.e (fun e =>
        atomOp (r.mn.extractLsb' 0 4).toNat ⟨.sca d a e, x.ty, x.ann, x.scope, isOne x.ret, mskF p⟩)))

/-- Majors 44, 45 and 46: vector integer (Table 8-3). -/
def decVInt (e : EW) (p : Pfx) (w : Wd) : Dec OpA :=
  let r := rrOf w
  let m := mskF p
  match r.mn.toNat with
  | 0 => noE p (.ok (.vadd e r.d r.a r.b m))
  | 1 => noE p (.ok (.vsub e r.d r.a r.b m))
  | 2 => noE p (.ok (.vmul e r.d r.a r.b m))
  | 3 => noE p (.ok (.vmulhs e r.d r.a r.b m))
  | 4 => noE p (.ok (.vmulhu e r.d r.a r.b m))
  | 5 => opxE p (fun x => .ok (.vmad e r.d r.a r.b x m))
  | 6 => noE p (.ok (.vmin e r.d r.a r.b m))
  | 7 => noE p (.ok (.vmax e r.d r.a r.b m))
  | 8 => noE p (.ok (.vminu e r.d r.a r.b m))
  | 9 => noE p (.ok (.vmaxu e r.d r.a r.b m))
  | 10 => noE p (.ok (.vand e r.d r.a r.b m))
  | 11 => noE p (.ok (.vor e r.d r.a r.b m))
  | 12 => noE p (.ok (.vxor e r.d r.a r.b m))
  | 13 => noE p (.ok (.vandn e r.d r.a r.b m))
  | 14 => noE p (.ok (.vshl e r.d r.a r.b m))
  | 15 => noE p (.ok (.vshr e r.d r.a r.b m))
  | 16 => noE p (.ok (.vsar e r.d r.a r.b m))
  | 17 => noE p (zeroF r.b (.ok (.vabs e r.d r.a m)))
  | 18 => noE p (zeroF r.b (.ok (.vneg e r.d r.a m)))
  | 19 => noE p (.ok (.vadds e r.d r.a r.b m))
  | 20 => noE p (.ok (.vsubs e r.d r.a r.b m))
  | 21 => noE p (.ok (.vaddus e r.d r.a r.b m))
  | 22 => noE p (.ok (.vsubus e r.d r.a r.b m))
  | 23 => noE p (zeroF r.b (.ok (.vclz e r.d r.a m)))
  | 24 => noE p (zeroF r.b (.ok (.vpopc e r.d r.a m)))
  | 25 => if e = .w32 then noE p (zeroF r.b (.ok (.vmov r.d r.a m))) else reserved
  | 26 => if e = .w32 then
      noE p (match m with
        | none => .error (.illegalEncoding .prefixRequired)
        | some k => need (!k.z) .none (.ok (.vsel r.d r.a (.vec r.b) k)))
    else reserved
  | _ => reserved

/-- Major 47: vector integer with a scalar or immediate operand (R268, R273). -/
def decVIntS (p : Pfx) (w : Wd) : Dec OpA :=
  let r := rrOf w
  let m := mskF p
  match r.mn.toNat with
  | 0 => noE p (sorF p r.b (fun b => .ok (.vaddScalar r.d r.a b m)))
  | 1 => noE p (sorF p r.b (fun b => .ok (.vsubScalar r.d r.a b m)))
  | 2 => noE p (sorF p r.b (fun b => .ok (.vmulScalar r.d r.a b m)))
  | 3 => noE p (sorF p r.b (fun b => .ok (.vmulhsScalar r.d r.a b m)))
  | 4 => noE p (sorF p r.b (fun b => .ok (.vmulhuScalar r.d r.a b m)))
  | 5 => opxE p (fun x => sorF p r.b (fun b => .ok (.vmadScalar r.d r.a b x m)))
  | 6 => noE p (sorF p r.b (fun b => .ok (.vminScalar r.d r.a b m)))
  | 7 => noE p (sorF p r.b (fun b => .ok (.vmaxScalar r.d r.a b m)))
  | 8 => noE p (sorF p r.b (fun b => .ok (.vminuScalar r.d r.a b m)))
  | 9 => noE p (sorF p r.b (fun b => .ok (.vmaxuScalar r.d r.a b m)))
  | 10 => noE p (sorF p r.b (fun b => .ok (.vandScalar r.d r.a b m)))
  | 11 => noE p (sorF p r.b (fun b => .ok (.vorScalar r.d r.a b m)))
  | 12 => noE p (sorF p r.b (fun b => .ok (.vxorScalar r.d r.a b m)))
  | 13 => noE p (sorF p r.b (fun b => .ok (.vandnScalar r.d r.a b m)))
  | 14 => noE p (sorF p r.b (fun b => .ok (.vshlScalar r.d r.a b m)))
  | 15 => noE p (sorF p r.b (fun b => .ok (.vshrScalar r.d r.a b m)))
  | 16 => noE p (sorF p r.b (fun b => .ok (.vsarScalar r.d r.a b m)))
  | 17 => noE p (noB p r.b (.ok (.vabsScalar r.d r.a m)))
  | 18 => noE p (noB p r.b (.ok (.vnegScalar r.d r.a m)))
  | 19 => noE p (sorF p r.b (fun b => .ok (.vaddsScalar r.d r.a b m)))
  | 20 => noE p (sorF p r.b (fun b => .ok (.vsubsScalar r.d r.a b m)))
  | 21 => noE p (sorF p r.b (fun b => .ok (.vaddusScalar r.d r.a b m)))
  | 22 => noE p (sorF p r.b (fun b => .ok (.vsubusScalar r.d r.a b m)))
  | 23 => noE p (noB p r.b (.ok (.vclzScalar r.d r.a m)))
  | 24 => noE p (noB p r.b (.ok (.vpopcScalar r.d r.a m)))
  | 25 => noE p (zeroF r.a (sorF p r.b (fun b => .ok (.vmovScalar r.d b m))))
  | 26 => noE p (sorF p r.b (fun b => match m with
      | none => .error (.illegalEncoding .prefixRequired)
      | some k => need (!k.z) .none (.ok (.vsel r.d r.a (.sca b) k))))
  | _ => reserved

/-- Major 48: vector float, F32 (Table 8-4). -/
def decVF32 (p : Pfx) (w : Wd) : Dec OpB :=
  let r := rrOf w
  let m := mskF p
  rmF p (fun rm =>
  match r.mn.toNat with
  | 0 => noE p (.ok (.vfaddF32 r.d r.a r.b m rm))
  | 1 => noE p (.ok (.vfsubF32 r.d r.a r.b m rm))
  | 2 => noE p (.ok (.vfmulF32 r.d r.a r.b m rm))
  | 3 => opxE p (fun x => .ok (.vfmaF32 r.d r.a r.b x m rm))
  | 4 => opxE p (fun x => .ok (.vfmsF32 r.d r.a r.b x m rm))
  | 5 => opxE p (fun x => .ok (.vfnmaF32 r.d r.a r.b x m rm))
  | 6 => noE p (.ok (.vfminF32 r.d r.a r.b m rm))
  | 7 => noE p (.ok (.vfmaxF32 r.d r.a r.b m rm))
  | 8 => noE p (.ok (.vfdivF32 r.d r.a r.b m rm))
  | 9 => noE p (zeroF r.b (.ok (.vfsqrtF32 r.d r.a m rm)))
  | 10 => noE p (zeroF r.b (.ok (.vfrcpF32 r.d r.a m rm)))
  | 11 => noE p (zeroF r.b (.ok (.vfrsqF32 r.d r.a m rm)))
  | 12 => noE p (zeroF r.b (.ok (.vfabsF32 r.d r.a m rm)))
  | 13 => noE p (zeroF r.b (.ok (.vfnegF32 r.d r.a m rm)))
  | 14 => noE p (zeroF r.b (.ok (.vfexp2F32 r.d r.a m rm)))
  | 15 => noE p (zeroF r.b (.ok (.vflog2F32 r.d r.a m rm)))
  | _ => reserved)

/-- Major 49: packed F16 (minors 0 to 15) and BF16 (16 to 31). -/
def decVFP (p : Pfx) (w : Wd) : Dec OpB :=
  let r := rrOf w
  let m := mskF p
  let t := isOne (r.mn.extractLsb' 4 1)
  rmF p (fun rm =>
  match (r.mn.extractLsb' 0 4).toNat with
  | 0 => noE p (.ok (.vfaddPacked t r.d r.a r.b m rm))
  | 1 => noE p (.ok (.vfsubPacked t r.d r.a r.b m rm))
  | 2 => noE p (.ok (.vfmulPacked t r.d r.a r.b m rm))
  | 3 => opxE p (fun x => .ok (.vfmaPacked t r.d r.a r.b x m rm))
  | 4 => opxE p (fun x => .ok (.vfmsPacked t r.d r.a r.b x m rm))
  | 5 => opxE p (fun x => .ok (.vfnmaPacked t r.d r.a r.b x m rm))
  | 6 => noE p (.ok (.vfminPacked t r.d r.a r.b m rm))
  | 7 => noE p (.ok (.vfmaxPacked t r.d r.a r.b m rm))
  | 8 => noE p (.ok (.vfdivPacked t r.d r.a r.b m rm))
  | 9 => noE p (zeroF r.b (.ok (.vfsqrtPacked t r.d r.a m rm)))
  | 10 => noE p (zeroF r.b (.ok (.vfrcpPacked t r.d r.a m rm)))
  | 11 => noE p (zeroF r.b (.ok (.vfrsqPacked t r.d r.a m rm)))
  | 12 => noE p (zeroF r.b (.ok (.vfabsPacked t r.d r.a m rm)))
  | 13 => noE p (zeroF r.b (.ok (.vfnegPacked t r.d r.a m rm)))
  | 14 => noE p (zeroF r.b (.ok (.vfexp2Packed t r.d r.a m rm)))
  | 15 => noE p (zeroF r.b (.ok (.vflog2Packed t r.d r.a m rm)))
  | _ => reserved)

/-- Major 50: vector float, F32, with a scalar or immediate operand (R268). -/
def decVFS (p : Pfx) (w : Wd) : Dec OpB :=
  let r := rrOf w
  let m := mskF p
  rmF p (fun rm =>
  match r.mn.toNat with
  | 0 => noE p (sorF p r.b (fun b => .ok (.vfaddScalar r.d r.a b m rm)))
  | 1 => noE p (sorF p r.b (fun b => .ok (.vfsubScalar r.d r.a b m rm)))
  | 2 => noE p (sorF p r.b (fun b => .ok (.vfmulScalar r.d r.a b m rm)))
  | 3 => opxE p (fun x => sorF p r.b (fun b => .ok (.vfmaScalar r.d r.a b x m rm)))
  | 4 => opxE p (fun x => sorF p r.b (fun b => .ok (.vfmsScalar r.d r.a b x m rm)))
  | 5 => opxE p (fun x => sorF p r.b (fun b => .ok (.vfnmaScalar r.d r.a b x m rm)))
  | 6 => noE p (sorF p r.b (fun b => .ok (.vfminScalar r.d r.a b m rm)))
  | 7 => noE p (sorF p r.b (fun b => .ok (.vfmaxScalar r.d r.a b m rm)))
  | 8 => noE p (sorF p r.b (fun b => .ok (.vfdivScalar r.d r.a b m rm)))
  | 9 => noE p (noB p r.b (.ok (.vfsqrtScalar r.d r.a m rm)))
  | 10 => noE p (noB p r.b (.ok (.vfrcpScalar r.d r.a m rm)))
  | 11 => noE p (noB p r.b (.ok (.vfrsqScalar r.d r.a m rm)))
  | 12 => noE p (noB p r.b (.ok (.vfabsScalar r.d r.a m rm)))
  | 13 => noE p (noB p r.b (.ok (.vfnegScalar r.d r.a m rm)))
  | 14 => noE p (noB p r.b (.ok (.vfexp2Scalar r.d r.a m rm)))
  | 15 => noE p (noB p r.b (.ok (.vflog2Scalar r.d r.a m rm)))
  | _ => reserved)

/-- Major 51: conversion and shape (R283, R287, Table 8-9). -/
def decConvert (p : Pfx) (w : Wd) : Dec OpB :=
  let r := rrOf w
  let m := mskF p
  match r.mn.toNat with
  | 0 => cvtF p (fun src dst rm => zeroF (r.b.extractLsb' 4 3) (.ok (.vcvt r.d r.a (r.b.extractLsb' 0 4) src dst m rm)))
  | 1 => cvtF p (fun src dst rm => sregF r.b (fun b => .ok (.qcvt r.d r.a b src dst m rm)))
  | 2 => zeroF r.b (sregF r.d (fun d => .ok (.shtag d r.a)))
  | 3 => zeroF r.b (zeroF r.a (.ok (.shpromote r.d)))
  | 4 => zeroF r.a (predF r.b (fun q => .ok (.shtry r.d q)))
  | _ => reserved

/-- Major 52: cross-lane (Table 8-10). -/
def decCross (p : Pfx) (w : Wd) : Dec OpB :=
  let r := rrOf w
  let m := mskF p
  match r.mn.toNat with
  | 0 => .ok (.shfl r.d r.a r.b m)
  | 1 => sregF r.b (fun b => .ok (.shflUp r.d r.a b m))
  | 2 => sregF r.b (fun b => .ok (.shflDn r.d r.a b m))
  | 3 => sregF r.b (fun b => .ok (.shflXor r.d r.a b m))
  | 4 => sregF r.b (fun b => .ok (.bcast r.d r.a b m))
  | 5 => zeroF r.b (sregF r.d (fun d => predF r.a (fun q => mskNZ p (fun m => .ok (.voteAny d q m)))))
  | 6 => zeroF r.b (sregF r.d (fun d => predF r.a (fun q => mskNZ p (fun m => .ok (.voteAll d q m)))))
  | 7 => zeroF (r.b.extractLsb' 4 3) (sregF r.d (fun d => predF r.a (fun q => mskNZ p (fun m => .ok (.ballot d q (r.b.extractLsb' 0 4) m)))))
  | 8 => zeroF r.b (sregF r.d (fun d => mskNZ p (fun m => .ok (.vredAdd d r.a m))))
  | 9 => zeroF r.b (sregF r.d (fun d => mskNZ p (fun m => .ok (.vredMin d r.a m))))
  | 10 => zeroF r.b (sregF r.d (fun d => mskNZ p (fun m => .ok (.vredMax d r.a m))))
  | 11 => zeroF r.b (sregF r.d (fun d => mskNZ p (fun m => .ok (.vredMinu d r.a m))))
  | 12 => zeroF r.b (sregF r.d (fun d => mskNZ p (fun m => .ok (.vredMaxu d r.a m))))
  | 13 => zeroF r.b (sregF r.d (fun d => mskNZ p (fun m => .ok (.vredAnd d r.a m))))
  | 14 => zeroF r.b (sregF r.d (fun d => mskNZ p (fun m => .ok (.vredOr d r.a m))))
  | 15 => zeroF r.b (sregF r.d (fun d => mskNZ p (fun m => .ok (.vredXor d r.a m))))
  | 16 => zeroF r.b (sregF r.d (fun d => mskNZ p (fun m => .ok (.vredAddF32 d r.a m))))
  | 17 => zeroF r.b (sregF r.d (fun d => mskNZ p (fun m => .ok (.vredMinF32 d r.a m))))
  | 18 => zeroF r.b (sregF r.d (fun d => mskNZ p (fun m => .ok (.vredMaxF32 d r.a m))))
  | 20 => zeroF r.b (.ok (.vscanAdd r.d r.a m))
  | 21 => zeroF r.b (.ok (.vscanMin r.d r.a m))
  | 22 => zeroF r.b (.ok (.vscanMax r.d r.a m))
  | 23 => zeroF r.b (.ok (.vscanMinu r.d r.a m))
  | 24 => zeroF r.b (.ok (.vscanMaxu r.d r.a m))
  | 25 => zeroF r.b (.ok (.vscanAnd r.d r.a m))
  | 26 => zeroF r.b (.ok (.vscanOr r.d r.a m))
  | 27 => zeroF r.b (.ok (.vscanXor r.d r.a m))
  | 28 => zeroF r.b (.ok (.vscanAddF32 r.d r.a m))
  | 29 => zeroF r.b (.ok (.vscanMinF32 r.d r.a m))
  | 30 => zeroF r.b (.ok (.vscanMaxF32 r.d r.a m))
  | _ => reserved

/-- Major 53: synchronisation (Table 6-9). -/
def decSync (w : Wd) : Dec OpB :=
  let r := ffOf w
  match r.mn.toNat with
  | 0 => zeroF r.x (zeroF r.y (zeroF (r.z.extractLsb' 4 3) (.ok (.barG (r.z.extractLsb' 0 4)))))
  | 1 => zeroF r.x (zeroF r.y (zeroF (r.z.extractLsb' 3 4) (.ok (.barC (r.z.extractLsb' 0 3)))))
  | 2 => zeroF r.x (zeroF r.y (zeroF (r.z.extractLsb' 2 5) (.ok (.barL (r.z.extractLsb' 0 2)))))
  | 3 => zeroF r.x (zeroF r.y (zeroF (r.z.extractLsb' 5 2) (.ok (.fence (r.z.extractLsb' 3 2) (r.z.extractLsb' 0 3)))))
  | 4 => zeroF (r.x.extractLsb' 2 5) (.ok (.wait (r.x.extractLsb' 0 2 ++ r.y.extractLsb' 5 2) (r.y.extractLsb' 1 4)
      (r.y.extractLsb' 0 1 ++ r.z.extractLsb' 4 3) (r.z.extractLsb' 0 4)))
  | 5 => sregF r.x (fun n => zeroF (r.z.extractLsb' 3 4) (
      need (isOne (r.y.extractLsb' 2 1) || decide (r.y.extractLsb' 3 4 = 0#4)) .none
        (.ok (.tlwait n (r.y.extractLsb' 3 4) (isOne (r.y.extractLsb' 2 1)) (r.y.extractLsb' 0 2) (r.z.extractLsb' 0 3)))))
  | 6 => sregF r.x (fun a => zeroF r.z (zeroF (r.y.extractLsb' 0 4) (.ok (.waita a (r.y.extractLsb' 4 3)))))
  | 7 => zeroF r.x (zeroF r.y (zeroF r.z (.ok .rdenter)))
  | 8 => zeroF r.x (zeroF r.y (zeroF r.z (.ok .rdexit)))
  | 9 => zeroF r.x (zeroF r.y (zeroF (r.z.extractLsb' 3 4) (.ok (.wround (r.z.extractLsb' 0 3)))))
  | 10 => sregF r.x (fun a => sregF r.y (fun b => zeroF (r.z.extractLsb' 4 3) (.ok (.dfree a b (r.z.extractLsb' 0 4)))))
  | 11 => sregF r.x (fun d => sregF r.y (fun a => zeroF r.z (.ok (.alwrd d a))))
  | _ => reserved

/-- A space field that must hold one value of Table 3-1 (R95, R357). -/
def spaceIs {α : Type} (b want : BitVec 3) (k : Dec α) : Dec α :=
  need (decide (b.toNat ≤ 4)) .reservedSpace (need (decide (b = want)) .space k)

/-- Major 54: asynchronous engines (Table 10-8). -/
def decAsync (w : Wd) : Dec OpB :=
  let r := asOf w
  match r.mn.toNat with
  | 0 => zeroF (r.f.extractLsb' 1 7) (sregF r.sd (fun d => .ok (.cpy d r.ds r.ss (isOne (r.f.extractLsb' 0 1)))))
  | 1 => zeroF (r.f.extractLsb' 1 7) (sregF r.sd (fun d => .ok (.cpy2d d r.ds r.ss (isOne (r.f.extractLsb' 0 1)))))
  | 2 => zeroF (r.f.extractLsb' 7 1) (sregF r.sd (fun d => .ok (.cpyg d r.ds r.ss (r.f.extractLsb' 0 7))))
  | 3 => zeroF r.ds (zeroF (r.f.extractLsb' 4 2) (
      if r.f.extractLsb' 6 1 = 1#1 then
        sregF r.sd (fun s => .ok (.qputMemory s r.ss (isOne (r.f.extractLsb' 7 1)) (r.f.extractLsb' 0 4)))
      else zeroF r.ss (zeroF (r.f.extractLsb' 7 1) (.ok (.qputRegister r.sd (r.f.extractLsb' 0 4))))))
  | 4 => zeroF r.ds (zeroF r.ss (zeroF (r.f.extractLsb' 7 1) (zeroF (r.f.extractLsb' 4 2) (
      if r.f.extractLsb' 6 1 = 1#1 then sregF r.sd (fun d => .ok (.qgetScalar d (r.f.extractLsb' 0 4)))
      else .ok (.qgetVector r.sd (r.f.extractLsb' 0 4))))))
  | 5 => zeroF r.ds (zeroF r.ss (zeroF (r.f.extractLsb' 6 1) (sregF r.sd (fun d =>
      need (isOne (r.f.extractLsb' 7 1) || decide (r.f.extractLsb' 0 4 = 0#4)) .none
        (.ok (.tlread d (isOne (r.f.extractLsb' 7 1)) (r.f.extractLsb' 4 2) (r.f.extractLsb' 0 4)))))))
  | 6 => spaceIs r.ss 4 (zeroF (r.f.extractLsb' 4 2) (sregF r.sd (fun d =>
      if r.f.extractLsb' 6 1 = 1#1 then
        spaceIs r.ds 0 (.ok (.tfetchQ d (isOne (r.f.extractLsb' 7 1)) (r.f.extractLsb' 0 4)))
      else spaceIs r.ds 1 (zeroF (r.f.extractLsb' 7 1) (zeroF (r.f.extractLsb' 0 4) (.ok (.tfetchC d)))))))
  | 7 => zeroF r.ds (zeroF r.ss (zeroF r.f (sregF r.sd (fun d => .ok (.coll d)))))
  | _ => reserved

/-- Major 55: matrix (Tables 10-1, 10-2, 10-7). -/
def decMatrix (w : Wd) : Dec OpB :=
  let r := mxOf w
  let s := isOne r.sat
  let a := isOne r.asrc
  let b := isOne r.bsrc
  zeroF r.z (
  match r.mn.toNat with
  | 0 => zeroF r.t2 (sregF r.q (fun q => .ok (.mma128x128 q r.t s a b)))
  | 1 => zeroF (r.t2.extractLsb' 1 2) (sregF r.q (fun q => .ok (.mma128x64 q r.t s a b (r.t2.extractLsb' 0 1))))
  | 2 => zeroF (r.t2.extractLsb' 1 2) (sregF r.q (fun q => .ok (.mma64x128 q r.t s a b (r.t2.extractLsb' 0 1))))
  | 3 => zeroF (r.t2.extractLsb' 2 1) (sregF r.q (fun q => .ok (.mma64x64 q r.t s a b (r.t2.extractLsb' 0 2))))
  | 4 => zeroF (r.t2.extractLsb' 2 1) (sregF r.q (fun q => .ok (.mma32x128 q r.t s a b (r.t2.extractLsb' 0 2))))
  | 5 => zeroF (r.t2.extractLsb' 2 1) (sregF r.q (fun q => .ok (.mma128x32 q r.t s a b (r.t2.extractLsb' 0 2))))
  | 8 => zeroF r.q (zeroF r.sat (zeroF r.asrc (zeroF r.bsrc (zeroF r.t2 (.ok (.accz r.t))))))
  | 9 => zeroF r.sat (zeroF r.bsrc (zeroF r.t2 (sregF r.q (fun q => .ok (.accld q r.t a)))))
  | 10 => zeroF r.sat (zeroF r.bsrc (zeroF r.t2 (sregF r.q (fun q => .ok (.accst q r.t a)))))
  | 11 => zeroF r.q (zeroF r.sat (zeroF r.asrc (zeroF r.bsrc (.ok (.accmv r.t r.t2)))))
  | 12 => zeroF r.asrc (zeroF r.bsrc (zeroF r.t2 (sregF r.q (fun q => .ok (.accovx q r.t s)))))
  | _ => reserved)

/-- Major 56: tasks (Table 10-10). Both forms of TSPAWN share minor 0; the one with B non-zero and A zero is the
release (R371). -/
def decTask (w : Wd) : Dec OpB :=
  let r := rrOf w
  match r.mn.toNat with
  | 0 => sregF r.d (fun d => sregF r.a (fun a => sregF r.b (fun b =>
      if b = 0 then .ok (.tspawn d a) else need (a = 0) .none (.ok (.tspawnRel d b)))))
  | 1 => sregF r.d (fun d => sregF r.a (fun a => zeroF r.b (.ok (.frd d a))))
  | 2 => zeroF r.d (sregF r.a (fun a => sregF r.b (fun b => .ok (.fwr a b))))
  | 3 => sregF r.d (fun d => sregF r.a (fun a => zeroF r.b (.ok (.fwrClr d a))))
  | 4 => sregF r.d (fun d => sregF r.a (fun a => zeroF (r.b.extractLsb' 2 5) (.ok (.lpost d a (r.b.extractLsb' 0 2)))))
  | 5 => sregF r.d (fun d => zeroF r.a (zeroF (r.b.extractLsb' 4 3) (.ok (.give d (r.b.extractLsb' 0 4)))))
  | 6 => sregF r.d (fun d => zeroF r.a (zeroF (r.b.extractLsb' 4 3) (.ok (.claim d (r.b.extractLsb' 0 4)))))
  | 7 => sregF r.d (fun d => sregF r.a (fun a => zeroF r.b (.ok (.sread d a))))
  | _ => reserved

/-- Major 57: privileged (R396, R400, R401, R403). -/
def decPriv (w : Wd) : Dec OpB :=
  let r := rrOf w
  match r.mn.toNat with
  | 0 => sregF r.d (fun d => sregF r.a (fun a => zeroF r.b (.ok (.csrrd d a))))
  | 1 => zeroF r.d (sregF r.a (fun a => sregF r.b (fun b => .ok (.csrwr a b))))
  | 2 => zeroF (r.d.extractLsb' 3 4) (sregF r.a (fun a => sregF r.b (fun b => .ok (.tlbinv (r.d.extractLsb' 0 3) a b))))
  | 3 => sregF r.d (fun d => sregF r.a (fun a => zeroF r.b (.ok (.caprd d a))))
  | 4 => sregF r.d (fun d => sregF r.a (fun a => sregF r.b (fun b => .ok (.hreg d a b))))
  | _ => reserved

/-- Major 58: handler state access (Table 13-10). -/
def decHandler (w : Wd) : Dec OpB :=
  let r := rrOf w
  match r.mn.toNat with
  | 0 => sregF r.d (fun d => sregF r.a (fun a => zeroF r.b (.ok (.pkrd d a))))
  | 1 => sregF r.d (fun d => sregF r.a (fun a => sregF r.b (fun b => .ok (.pkwr d a b))))
  | 2 => sregF r.d (fun d => sregF r.a (fun a => zeroF r.b (.ok (.pkres d a))))
  | 3 => sregF r.d (fun d => sregF r.a (fun a => zeroF r.b (.ok (.pkretry d a))))
  | 4 => sregF r.d (fun d => sregF r.a (fun a => sregF r.b (fun b => .ok (.pkredir d a b))))
  | 5 => sregF r.d (fun d => sregF r.a (fun a => zeroF r.b (.ok (.pkkill d a))))
  | _ => reserved

/-- One base word under its prefixes (Table 6-6). -/
def decodeBase (p : Pfx) (w : Wd) : Dec Code :=
  if !pfxLegal p w then .error .illegalPrefix
  else if !pfxZeros p then .error (.illegalEncoding .none)
  else
    match (major w).toNat with
    | 1 => (decBranch p w).map .a
    | 2 => (decControl w).map .a
    | 3 => (decScalar w).map .a
    | 4 => (decScalarImm p w).map .a
    | 5 => (decSpecial w).map .a
    | 6 => (decMask w).map .a
    | 7 => (decCompare p w).map .a
    | 8 | 9 | 10 | 11 | 12 => (decLoad p w).map .a
    | 16 | 17 | 18 | 19 | 20 => (decStore p w).map .a
    | 24 | 25 | 26 | 27 | 28 => (decScalarMem p w).map .a
    | 32 | 33 | 34 | 35 | 36 => (decAtomic p w).map .a
    | 13 | 14 | 15 | 21 | 22 | 23 | 29 | 30 | 31 | 37 | 38 | 39 => .error (.illegalEncoding .reservedSpace)
    | 40 | 41 | 42 | 43 => .error (.illegalEncoding .headerInBody)
    | 44 => (decVInt .w32 p w).map .a
    | 45 => (decVInt .w16 p w).map .a
    | 46 => (decVInt .w8 p w).map .a
    | 47 => (decVIntS p w).map .a
    | 48 => (decVF32 p w).map .b
    | 49 => (decVFP p w).map .b
    | 50 => (decVFS p w).map .b
    | 51 => (decConvert p w).map .b
    | 52 => (decCross p w).map .b
    | 53 => (decSync w).map .b
    | 54 => (decAsync w).map .b
    | 55 => (decMatrix w).map .b
    | 56 => (decTask w).map .b
    | 57 => (decPriv w).map .b
    | 58 => (decHandler w).map .b
    | _ => reserved

/-- The code at the front of a word list, and how many words it takes (R208) (DEDUCED, notes/assumptions/10.md). -/
def decodeCode (ws : List Wd) : Dec (Code × Nat) :=
  match readPfx ws pfx0 0 with
  | .error e => .error e
  | .ok (p, w, n) =>
    match decodeBase p w with
    | .error e => .error e
    | .ok i => .ok (i, n)

/-- The instruction at the front of a word list, as a row of the table. -/
noncomputable def decode (ws : List Wd) : Dec (Instr × Nat) :=
  match decodeCode ws with
  | .error e => .error e
  | .ok (c, n) => .ok (c.toInstr, n)

/-- Four bytes, lowest address first, as a word (R5). -/
def wordOfBytes (b0 b1 b2 b3 : Byte) : Wd := b3 ++ b2 ++ b1 ++ b0

/-- A byte list as words; a short tail is dropped (R4, R5). -/
def wordsOfBytes : List Byte → List Wd
  | b0 :: b1 :: b2 :: b3 :: bs => wordOfBytes b0 b1 b2 b3 :: wordsOfBytes bs
  | _ => []

/-- The instruction at the front of a byte list. -/
noncomputable def decodeBytes (bs : List Byte) : Dec (Instr × Nat) := decode (wordsOfBytes bs)

/-- Byte `k` of a number, little-endian. -/
def byteOfNat (w k : Nat) : Byte := BitVec.ofNat 8 (w / 2 ^ (8 * k))

/-- The bytes of a table row's word as the hardware stores them, filled with zeros to the longest instruction, three
words (R5, R208). -/
def tableBytes (nbits w : Nat) : List Byte :=
  (List.range 12).map (fun k => if 8 * k < nbits then byteOfNat w k else 0)

/-- The instruction this decoder reads from a table row's word. -/
noncomputable def decodeTableWord (nbits w : Nat) : Option Instr :=
  match decodeBytes (tableBytes nbits w) with
  | .ok (i, _) => some i
  | .error _ => none

/-! ### The encoder, from the same tables -/

/-- A scalar register as a 7-bit field. -/
def sF (r : SReg) : BitVec 7 := 0#1 ++ r
/-- A predicate as a 7-bit field. -/
def pF (r : PReg) : BitVec 7 := 0#3 ++ r
/-- The words of an MSK prefix, if any. -/
def mskE (m : Option Msk) : List Wd :=
  match m with
  | none => []
  | some k => [mskWord ⟨k, 0⟩]
/-- The words of an OPX prefix naming a third source, if any. -/
def opE (e : Option VReg) : List Wd :=
  match e with
  | none => []
  | some r => [opxWord ⟨r, 0, 0, 0, 0, 0⟩]
/-- The OPX prefix of an acquire load or release store. -/
def scE (s : BitVec 3) : List Wd := [opxWord ⟨0, 0, 0, s, 0, 0⟩]
/-- The words of an FMT prefix giving a rounding mode, if any. -/
def rmE (rm : Option (BitVec 3)) : List Wd :=
  match rm with
  | none => []
  | some r => [fmtWord ⟨true, r, false, 0, 0, 0⟩]
/-- The FMT prefix of VCVT and QCVT. -/
def cvE (src dst : BitVec 5) (rm : Option (BitVec 3)) : List Wd :=
  match rm with
  | none => [fmtWord ⟨false, 0, true, src, dst, 0⟩]
  | some r => [fmtWord ⟨true, r, true, src, dst, 0⟩]
/-- The words of an IMM prefix giving a displacement, if any. -/
def dispE (d : Option (BitVec 26)) : List Wd :=
  match d with
  | none => []
  | some v => [immWord v]
/-- The IMM prefix of a 32-bit value (R218). -/
def immE (v : Wd) : List Wd := [immWord (v.extractLsb' 6 26)]
/-- The low six bits of a value in a 7-bit field. -/
def lo7 (v : Wd) : BitVec 7 := 0#1 ++ v.extractLsb' 0 6
/-- The prefix words of an operand b. -/
def sorE : SOrI → List Wd
  | .reg _ => []
  | .imm v => immE v
/-- The B field of an operand b. -/
def sorB : SOrI → BitVec 7
  | .reg r => sF r
  | .imm v => lo7 v
/-- Major 4. -/
def riE (mn : BitVec 4) (d a : SReg) : Imm → List Wd
  | .short i => [riWord ⟨4, sF d, sF a, mn, i⟩]
  | .long v => [immWord (v.extractLsb' 6 26), riWord ⟨4, sF d, sF a, mn, 0#2 ++ v.extractLsb' 0 6⟩]
/-- Major 1 with OFF15. -/
def brE (mn : BitVec 4) (s : BitVec 7) : Off15 → List Wd
  | .short o => [bfWord ⟨1, mn, s, o.extractLsb' 7 8, o.extractLsb' 0 7⟩]
  | .long v => [immWord (v.extractLsb' 6 26), bfWord ⟨1, mn, s, 0, lo7 v⟩]
/-- BALW. -/
def balwE (s : BitVec 7) (t : BitVec 8) : Off7 → List Wd
  | .short o => [bfWord ⟨1, 7, s, t, o⟩]
  | .long v => [immWord (v.extractLsb' 6 26), bfWord ⟨1, 7, s, t, lo7 v⟩]
/-- Format RR. -/
def rrE (op : BitVec 6) (mn : BitVec 5) (d a b : BitVec 7) : List Wd := [rrWord ⟨op, d, a, b, mn⟩]
/-- Major 6. -/
def mkE (mn : BitVec 5) (pd pa pb : BitVec 4) (r : BitVec 7) : List Wd := [mkWord ⟨6, mn, pd, pa, pb, r, 0⟩]
/-- The major of an element width. -/
def ewOp : EW → BitVec 6
  | .w32 => 44
  | .w16 => 45
  | .w8 => 46
/-- Major of a vector address: group base and space. -/
def vOp (g : BitVec 3) (s : Space) : BitVec 6 := g ++ spaceCode s
/-- The X field of a scalar form. -/
def xE : XSel → BitVec 7
  | .reg r => sF r
  | .off k => 1#1 ++ k
/-- A vector memory instruction. -/
def vmE (g : BitVec 3) (mn : BitVec 5) (d : BitVec 7) (a : VAddr) (pre : List Wd) : List Wd :=
  dispE a.disp ++ pre ++ [rrWord ⟨vOp g a.sp, d, sF a.base, a.x, mn⟩]
/-- A scalar-form memory instruction. -/
def smE (g : BitVec 3) (mn : BitVec 5) (d : BitVec 7) (a : SAddr) (pre : List Wd) : List Wd :=
  dispE a.disp ++ pre ++ [rrWord ⟨vOp g a.sp, d, sF a.base, xE a.x, mn⟩]
/-- An atomic with operation code `op`. -/
def atE (op : BitVec 4) (x : Atom) : List Wd :=
  match x.o with
  | .vec d a e => vmE 4 (0#1 ++ op) d a (opxWord ⟨e, x.ty, x.ann, x.scope, bit1 x.ret, 0⟩ :: mskE x.m)
  | .sca d a e => smE 4 (1#1 ++ op) (sF d) a (opxWord ⟨sF e, x.ty, x.ann, x.scope, bit1 x.ret, 0⟩ :: mskE x.m)
/-- PCMP. -/
def pcmpE (d : PReg) (a : VReg) (b : CmpB) (cc : Cc) (ty : CmpTy) (m : Option Msk) : List Wd :=
  let t : BitVec 4 := match ty with
    | .i32 => 0
    | .u32 => 1
    | .f32 => 2
  match b with
  | .vec r => mskE m ++ [pcWord ⟨7, d, a, r, ccCode cc, t⟩]
  | .sca x => sorE x ++ mskE m ++ [pcWord ⟨7, d, a, sorB x, ccCode cc, t + 3⟩]
/-- Major 53. -/
def ffE (mn : BitVec 5) (x y z : BitVec 7) : List Wd := [ffWord ⟨53, mn, x, y, z⟩]
/-- Major 54. -/
def asE (mn : BitVec 5) (sd : BitVec 7) (ds ss : BitVec 3) (f : BitVec 8) : List Wd := [asWord ⟨54, mn, sd, ds, ss, f⟩]
/-- Major 55. -/
def mxE (mn : BitVec 5) (q : BitVec 7) (t : TReg) (s a b : Bool) (t2 : BitVec 3) : List Wd :=
  [mxWord ⟨55, mn, q, t, bit1 s, bit1 a, bit1 b, t2, 0⟩]

/-- The words of an instruction, prefixes in the order IMM, OPX, MSK, FMT, then the base word. -/
def encode : Instr → List Wd
  | .br o => brE 0 0 o
  | .brcEq s o => brE 1 (sF s) o
  | .brcNe s o => brE 2 (sF s) o
  | .brcLt s o => brE 3 (sF s) o
  | .brcGe s o => brE 4 (sF s) o
  | .bany p o => brE 5 (pF p) o
  | .bnone p o => brE 6 (pF p) o
  | .balw s t o => balwE (sF s) t o
  | .call o => brE 8 0 o
  | .nop => rrE 2 0 0 0 0
  | .exit => rrE 2 1 0 0 0
  | .yld => rrE 2 2 0 0 0
  | .pdis => rrE 2 7 0 0 0
  | .pen => rrE 2 8 0 0 0
  | .ret a => rrE 2 3 0 (sF a) 0
  | .callr a => rrE 2 4 0 (sF a) 0
  | .brr a => rrE 2 5 0 (sF a) 0
  | .trap n => rrE 2 6 0 0 n
  | .icinv c a b => rrE 2 9 (0#4 ++ c) (sF a) (sF b)
  | .add d a b => rrE 3 0 (sF d) (sF a) (sF b)
  | .sub d a b => rrE 3 1 (sF d) (sF a) (sF b)
  | .mul d a b => rrE 3 2 (sF d) (sF a) (sF b)
  | .mulhs d a b => rrE 3 3 (sF d) (sF a) (sF b)
  | .mulhu d a b => rrE 3 4 (sF d) (sF a) (sF b)
  | .div d a b => rrE 3 5 (sF d) (sF a) (sF b)
  | .divu d a b => rrE 3 6 (sF d) (sF a) (sF b)
  | .rem d a b => rrE 3 7 (sF d) (sF a) (sF b)
  | .remu d a b => rrE 3 8 (sF d) (sF a) (sF b)
  | .and d a b => rrE 3 9 (sF d) (sF a) (sF b)
  | .or d a b => rrE 3 10 (sF d) (sF a) (sF b)
  | .xor d a b => rrE 3 11 (sF d) (sF a) (sF b)
  | .andn d a b => rrE 3 12 (sF d) (sF a) (sF b)
  | .shl d a b => rrE 3 13 (sF d) (sF a) (sF b)
  | .shr d a b => rrE 3 14 (sF d) (sF a) (sF b)
  | .sar d a b => rrE 3 15 (sF d) (sF a) (sF b)
  | .rol d a b => rrE 3 16 (sF d) (sF a) (sF b)
  | .min d a b => rrE 3 17 (sF d) (sF a) (sF b)
  | .max d a b => rrE 3 18 (sF d) (sF a) (sF b)
  | .minu d a b => rrE 3 19 (sF d) (sF a) (sF b)
  | .maxu d a b => rrE 3 20 (sF d) (sF a) (sF b)
  | .slt d a b => rrE 3 21 (sF d) (sF a) (sF b)
  | .sltu d a b => rrE 3 22 (sF d) (sF a) (sF b)
  | .seq d a b => rrE 3 23 (sF d) (sF a) (sF b)
  | .clz d a => rrE 3 24 (sF d) (sF a) 0
  | .popc d a => rrE 3 25 (sF d) (sF a) 0
  | .addi d a i => riE 0 d a i
  | .muli d a i => riE 1 d a i
  | .andi d a i => riE 2 d a i
  | .ori d a i => riE 3 d a i
  | .xori d a i => riE 4 d a i
  | .shli d a i => [riWord ⟨4, sF d, sF a, 5, 0#2 ++ i⟩]
  | .shri d a i => [riWord ⟨4, sF d, sF a, 6, 0#2 ++ i⟩]
  | .sari d a i => [riWord ⟨4, sF d, sF a, 7, 0#2 ++ i⟩]
  | .slti d a i => riE 8 d a i
  | .sltui d a i => riE 9 d a i
  | .seqi d a i => riE 10 d a i
  | .li d i => riE 11 d 0 i
  | .lih d a i => riE 12 d a i
  | .srrd d n => [riWord ⟨5, sF d, 0, 0, n⟩]
  | .srwr n a => [riWord ⟨5, 0, sF a, 1, n⟩]
  | .msave d => mkE 0 d 0 0 0
  | .mrstr a => mkE 1 0 a 0 0
  | .mand a => mkE 2 0 a 0 0
  | .mandn a => mkE 3 0 a 0 0
  | .mor a => mkE 4 0 a 0 0
  | .mnot a => mkE 5 0 a 0 0
  | .mcnt d a => mkE 6 0 a 0 (sF d)
  | .mfirst d a => mkE 7 0 a 0 (sF d)
  | .pand d a b => mkE 8 d a b 0
  | .por d a b => mkE 9 d a b 0
  | .pxor d a b => mkE 10 d a b 0
  | .pandn d a b => mkE 11 d a b 0
  | .pnot d a => mkE 12 d a 0 0
  | .ppack v f c => mkE 13 0 f (0#1 ++ c) v
  | .punpk f v c => mkE 14 0 f (0#1 ++ c) v
  | .pcmp d a b cc ty m => pcmpE d a b cc ty m
  | .ld y z d a m => vmE 1 (z ++ 0#1 ++ bit1 y) d a (mskE m)
  | .ldAcq z sc d a m => vmE 1 (z ++ 2#2) d a (scE sc ++ mskE m)
  | .pf a m => vmE 1 0x1C#5 0 a (mskE m)
  | .pfSpec a m => vmE 1 0x1F#5 0 a (mskE m)
  | .st n z a d m => vmE 2 (z ++ bit1 n ++ 0#1) d a (mskE m)
  | .stRel z sc a d m => vmE 2 (z ++ 1#2) d a (scE sc ++ mskE m)
  | .ldScalar z d a => smE 3 (0#1 ++ z ++ 0#1) (sF d) a []
  | .ldScalarAcq z sc d a => smE 3 (0#1 ++ z ++ 1#1) (sF d) a (scE sc)
  | .stScalar z a d => smE 3 (1#1 ++ z ++ 0#1) (sF d) a []
  | .stScalarRel z sc a d => smE 3 (1#1 ++ z ++ 1#1) (sF d) a (scE sc)
  | .atomAdd x => atE 0 x
  | .atomSub x => atE 1 x
  | .atomMin x => atE 2 x
  | .atomMax x => atE 3 x
  | .atomAnd x => atE 4 x
  | .atomOr x => atE 5 x
  | .atomXor x => atE 6 x
  | .atomExch x => atE 7 x
  | .atomCas x => atE 8 x
  | .atomFaddt x => atE 9 x
  | .vadd w d a b m => mskE m ++ rrE (ewOp w) 0 d a b
  | .vsub w d a b m => mskE m ++ rrE (ewOp w) 1 d a b
  | .vmul w d a b m => mskE m ++ rrE (ewOp w) 2 d a b
  | .vmulhs w d a b m => mskE m ++ rrE (ewOp w) 3 d a b
  | .vmulhu w d a b m => mskE m ++ rrE (ewOp w) 4 d a b
  | .vmad w d a b x m => opE x ++ mskE m ++ rrE (ewOp w) 5 d a b
  | .vmin w d a b m => mskE m ++ rrE (ewOp w) 6 d a b
  | .vmax w d a b m => mskE m ++ rrE (ewOp w) 7 d a b
  | .vminu w d a b m => mskE m ++ rrE (ewOp w) 8 d a b
  | .vmaxu w d a b m => mskE m ++ rrE (ewOp w) 9 d a b
  | .vand w d a b m => mskE m ++ rrE (ewOp w) 10 d a b
  | .vor w d a b m => mskE m ++ rrE (ewOp w) 11 d a b
  | .vxor w d a b m => mskE m ++ rrE (ewOp w) 12 d a b
  | .vandn w d a b m => mskE m ++ rrE (ewOp w) 13 d a b
  | .vshl w d a b m => mskE m ++ rrE (ewOp w) 14 d a b
  | .vshr w d a b m => mskE m ++ rrE (ewOp w) 15 d a b
  | .vsar w d a b m => mskE m ++ rrE (ewOp w) 16 d a b
  | .vabs w d a m => mskE m ++ rrE (ewOp w) 17 d a 0
  | .vneg w d a m => mskE m ++ rrE (ewOp w) 18 d a 0
  | .vadds w d a b m => mskE m ++ rrE (ewOp w) 19 d a b
  | .vsubs w d a b m => mskE m ++ rrE (ewOp w) 20 d a b
  | .vaddus w d a b m => mskE m ++ rrE (ewOp w) 21 d a b
  | .vsubus w d a b m => mskE m ++ rrE (ewOp w) 22 d a b
  | .vclz w d a m => mskE m ++ rrE (ewOp w) 23 d a 0
  | .vpopc w d a m => mskE m ++ rrE (ewOp w) 24 d a 0
  | .vmov d a m => mskE m ++ rrE 44 25 d a 0
  | .vaddScalar d a b m => sorE b ++ mskE m ++ rrE 47 0 d a (sorB b)
  | .vsubScalar d a b m => sorE b ++ mskE m ++ rrE 47 1 d a (sorB b)
  | .vmulScalar d a b m => sorE b ++ mskE m ++ rrE 47 2 d a (sorB b)
  | .vmulhsScalar d a b m => sorE b ++ mskE m ++ rrE 47 3 d a (sorB b)
  | .vmulhuScalar d a b m => sorE b ++ mskE m ++ rrE 47 4 d a (sorB b)
  | .vmadScalar d a b x m => sorE b ++ opE x ++ mskE m ++ rrE 47 5 d a (sorB b)
  | .vminScalar d a b m => sorE b ++ mskE m ++ rrE 47 6 d a (sorB b)
  | .vmaxScalar d a b m => sorE b ++ mskE m ++ rrE 47 7 d a (sorB b)
  | .vminuScalar d a b m => sorE b ++ mskE m ++ rrE 47 8 d a (sorB b)
  | .vmaxuScalar d a b m => sorE b ++ mskE m ++ rrE 47 9 d a (sorB b)
  | .vandScalar d a b m => sorE b ++ mskE m ++ rrE 47 10 d a (sorB b)
  | .vorScalar d a b m => sorE b ++ mskE m ++ rrE 47 11 d a (sorB b)
  | .vxorScalar d a b m => sorE b ++ mskE m ++ rrE 47 12 d a (sorB b)
  | .vandnScalar d a b m => sorE b ++ mskE m ++ rrE 47 13 d a (sorB b)
  | .vshlScalar d a b m => sorE b ++ mskE m ++ rrE 47 14 d a (sorB b)
  | .vshrScalar d a b m => sorE b ++ mskE m ++ rrE 47 15 d a (sorB b)
  | .vsarScalar d a b m => sorE b ++ mskE m ++ rrE 47 16 d a (sorB b)
  | .vabsScalar d a m => mskE m ++ rrE 47 17 d a 0
  | .vnegScalar d a m => mskE m ++ rrE 47 18 d a 0
  | .vaddsScalar d a b m => sorE b ++ mskE m ++ rrE 47 19 d a (sorB b)
  | .vsubsScalar d a b m => sorE b ++ mskE m ++ rrE 47 20 d a (sorB b)
  | .vaddusScalar d a b m => sorE b ++ mskE m ++ rrE 47 21 d a (sorB b)
  | .vsubusScalar d a b m => sorE b ++ mskE m ++ rrE 47 22 d a (sorB b)
  | .vclzScalar d a m => mskE m ++ rrE 47 23 d a 0
  | .vpopcScalar d a m => mskE m ++ rrE 47 24 d a 0
  | .vmovScalar d b m => sorE b ++ mskE m ++ rrE 47 25 d 0 (sorB b)
  | .vsel d a b m => match b with
    | .vec r => mskE (some m) ++ rrE 44 26 d a r
    | .sca x => sorE x ++ mskE (some m) ++ rrE 47 26 d a (sorB x)
  | .vfaddF32 d a b m rm => mskE m ++ rmE rm ++ rrE 48 0 d a b
  | .vfaddPacked t d a b m rm => mskE m ++ rmE rm ++ rrE 49 (bit1 t ++ 0#4) d a b
  | .vfaddScalar d a b m rm => sorE b ++ mskE m ++ rmE rm ++ rrE 50 0 d a (sorB b)
  | .vfsubF32 d a b m rm => mskE m ++ rmE rm ++ rrE 48 1 d a b
  | .vfsubPacked t d a b m rm => mskE m ++ rmE rm ++ rrE 49 (bit1 t ++ 1#4) d a b
  | .vfsubScalar d a b m rm => sorE b ++ mskE m ++ rmE rm ++ rrE 50 1 d a (sorB b)
  | .vfmulF32 d a b m rm => mskE m ++ rmE rm ++ rrE 48 2 d a b
  | .vfmulPacked t d a b m rm => mskE m ++ rmE rm ++ rrE 49 (bit1 t ++ 2#4) d a b
  | .vfmulScalar d a b m rm => sorE b ++ mskE m ++ rmE rm ++ rrE 50 2 d a (sorB b)
  | .vfmaF32 d a b x m rm => opE x ++ mskE m ++ rmE rm ++ rrE 48 3 d a b
  | .vfmaPacked t d a b x m rm => opE x ++ mskE m ++ rmE rm ++ rrE 49 (bit1 t ++ 3#4) d a b
  | .vfmaScalar d a b x m rm => sorE b ++ opE x ++ mskE m ++ rmE rm ++ rrE 50 3 d a (sorB b)
  | .vfmsF32 d a b x m rm => opE x ++ mskE m ++ rmE rm ++ rrE 48 4 d a b
  | .vfmsPacked t d a b x m rm => opE x ++ mskE m ++ rmE rm ++ rrE 49 (bit1 t ++ 4#4) d a b
  | .vfmsScalar d a b x m rm => sorE b ++ opE x ++ mskE m ++ rmE rm ++ rrE 50 4 d a (sorB b)
  | .vfnmaF32 d a b x m rm => opE x ++ mskE m ++ rmE rm ++ rrE 48 5 d a b
  | .vfnmaPacked t d a b x m rm => opE x ++ mskE m ++ rmE rm ++ rrE 49 (bit1 t ++ 5#4) d a b
  | .vfnmaScalar d a b x m rm => sorE b ++ opE x ++ mskE m ++ rmE rm ++ rrE 50 5 d a (sorB b)
  | .vfminF32 d a b m rm => mskE m ++ rmE rm ++ rrE 48 6 d a b
  | .vfminPacked t d a b m rm => mskE m ++ rmE rm ++ rrE 49 (bit1 t ++ 6#4) d a b
  | .vfminScalar d a b m rm => sorE b ++ mskE m ++ rmE rm ++ rrE 50 6 d a (sorB b)
  | .vfmaxF32 d a b m rm => mskE m ++ rmE rm ++ rrE 48 7 d a b
  | .vfmaxPacked t d a b m rm => mskE m ++ rmE rm ++ rrE 49 (bit1 t ++ 7#4) d a b
  | .vfmaxScalar d a b m rm => sorE b ++ mskE m ++ rmE rm ++ rrE 50 7 d a (sorB b)
  | .vfdivF32 d a b m rm => mskE m ++ rmE rm ++ rrE 48 8 d a b
  | .vfdivPacked t d a b m rm => mskE m ++ rmE rm ++ rrE 49 (bit1 t ++ 8#4) d a b
  | .vfdivScalar d a b m rm => sorE b ++ mskE m ++ rmE rm ++ rrE 50 8 d a (sorB b)
  | .vfsqrtF32 d a m rm => mskE m ++ rmE rm ++ rrE 48 9 d a 0
  | .vfsqrtPacked t d a m rm => mskE m ++ rmE rm ++ rrE 49 (bit1 t ++ 9#4) d a 0
  | .vfsqrtScalar d a m rm => mskE m ++ rmE rm ++ rrE 50 9 d a 0
  | .vfrcpF32 d a m rm => mskE m ++ rmE rm ++ rrE 48 10 d a 0
  | .vfrcpPacked t d a m rm => mskE m ++ rmE rm ++ rrE 49 (bit1 t ++ 10#4) d a 0
  | .vfrcpScalar d a m rm => mskE m ++ rmE rm ++ rrE 50 10 d a 0
  | .vfrsqF32 d a m rm => mskE m ++ rmE rm ++ rrE 48 11 d a 0
  | .vfrsqPacked t d a m rm => mskE m ++ rmE rm ++ rrE 49 (bit1 t ++ 11#4) d a 0
  | .vfrsqScalar d a m rm => mskE m ++ rmE rm ++ rrE 50 11 d a 0
  | .vfabsF32 d a m rm => mskE m ++ rmE rm ++ rrE 48 12 d a 0
  | .vfabsPacked t d a m rm => mskE m ++ rmE rm ++ rrE 49 (bit1 t ++ 12#4) d a 0
  | .vfabsScalar d a m rm => mskE m ++ rmE rm ++ rrE 50 12 d a 0
  | .vfnegF32 d a m rm => mskE m ++ rmE rm ++ rrE 48 13 d a 0
  | .vfnegPacked t d a m rm => mskE m ++ rmE rm ++ rrE 49 (bit1 t ++ 13#4) d a 0
  | .vfnegScalar d a m rm => mskE m ++ rmE rm ++ rrE 50 13 d a 0
  | .vfexp2F32 d a m rm => mskE m ++ rmE rm ++ rrE 48 14 d a 0
  | .vfexp2Packed t d a m rm => mskE m ++ rmE rm ++ rrE 49 (bit1 t ++ 14#4) d a 0
  | .vfexp2Scalar d a m rm => mskE m ++ rmE rm ++ rrE 50 14 d a 0
  | .vflog2F32 d a m rm => mskE m ++ rmE rm ++ rrE 48 15 d a 0
  | .vflog2Packed t d a m rm => mskE m ++ rmE rm ++ rrE 49 (bit1 t ++ 15#4) d a 0
  | .vflog2Scalar d a m rm => mskE m ++ rmE rm ++ rrE 50 15 d a 0
  | .vcvt d a sel src dst m rm => mskE m ++ cvE src dst rm ++ rrE 51 0 d a (0#3 ++ sel)
  | .qcvt d a b src dst m rm => mskE m ++ cvE src dst rm ++ rrE 51 1 d a (sF b)
  | .shtag d a => rrE 51 2 (sF d) a 0
  | .shpromote d => rrE 51 3 d 0 0
  | .shtry d p => rrE 51 4 d 0 (pF p)
  | .shfl d a b m => mskE m ++ rrE 52 0 d a b
  | .shflUp d a b m => mskE m ++ rrE 52 1 d a (sF b)
  | .shflDn d a b m => mskE m ++ rrE 52 2 d a (sF b)
  | .shflXor d a b m => mskE m ++ rrE 52 3 d a (sF b)
  | .bcast d a b m => mskE m ++ rrE 52 4 d a (sF b)
  | .voteAny d p m => mskE m ++ rrE 52 5 (sF d) (pF p) 0
  | .voteAll d p m => mskE m ++ rrE 52 6 (sF d) (pF p) 0
  | .ballot d p k m => mskE m ++ rrE 52 7 (sF d) (pF p) (pF k)
  | .vredAdd d a m => mskE m ++ rrE 52 8 (sF d) a 0
  | .vscanAdd d a m => mskE m ++ rrE 52 20 d a 0
  | .vredMin d a m => mskE m ++ rrE 52 9 (sF d) a 0
  | .vscanMin d a m => mskE m ++ rrE 52 21 d a 0
  | .vredMax d a m => mskE m ++ rrE 52 10 (sF d) a 0
  | .vscanMax d a m => mskE m ++ rrE 52 22 d a 0
  | .vredMinu d a m => mskE m ++ rrE 52 11 (sF d) a 0
  | .vscanMinu d a m => mskE m ++ rrE 52 23 d a 0
  | .vredMaxu d a m => mskE m ++ rrE 52 12 (sF d) a 0
  | .vscanMaxu d a m => mskE m ++ rrE 52 24 d a 0
  | .vredAnd d a m => mskE m ++ rrE 52 13 (sF d) a 0
  | .vscanAnd d a m => mskE m ++ rrE 52 25 d a 0
  | .vredOr d a m => mskE m ++ rrE 52 14 (sF d) a 0
  | .vscanOr d a m => mskE m ++ rrE 52 26 d a 0
  | .vredXor d a m => mskE m ++ rrE 52 15 (sF d) a 0
  | .vscanXor d a m => mskE m ++ rrE 52 27 d a 0
  | .vredAddF32 d a m => mskE m ++ rrE 52 16 (sF d) a 0
  | .vscanAddF32 d a m => mskE m ++ rrE 52 28 d a 0
  | .vredMinF32 d a m => mskE m ++ rrE 52 17 (sF d) a 0
  | .vscanMinF32 d a m => mskE m ++ rrE 52 29 d a 0
  | .vredMaxF32 d a m => mskE m ++ rrE 52 18 (sF d) a 0
  | .vscanMaxF32 d a m => mskE m ++ rrE 52 30 d a 0
  | .barG i => ffE 0 0 0 (0#3 ++ i)
  | .barC i => ffE 1 0 0 (0#4 ++ i)
  | .barL i => ffE 2 0 0 (0#5 ++ i)
  | .fence k s => ffE 3 0 0 (0#2 ++ k ++ s)
  | .wait l s c t => ffE 4 (0#5 ++ l.extractLsb' 2 2) (l.extractLsb' 0 2 ++ s ++ c.extractLsb' 3 1) (c.extractLsb' 0 3 ++ t)
  | .tlwait n k ot c s => ffE 5 (sF n) (k ++ bit1 ot ++ c) (0#4 ++ s)
  | .waita a p => ffE 6 (sF a) (p ++ 0#4) 0
  | .rdenter => ffE 7 0 0 0
  | .rdexit => ffE 8 0 0 0
  | .wround s => ffE 9 0 0 (0#4 ++ s)
  | .dfree a b c => ffE 10 (sF a) (sF b) (0#3 ++ c)
  | .alwrd d a => ffE 11 (sF d) (sF a) 0
  | .cpy d p r n => asE 0 (sF d) p r (0#7 ++ bit1 n)
  | .cpy2d d p r n => asE 1 (sF d) p r (0#7 ++ bit1 n)
  | .cpyg d p r v => asE 2 (sF d) p r (0#1 ++ v)
  | .qputMemory s r p q => asE 3 (sF s) 0 r (bit1 p ++ 1#1 ++ 0#2 ++ q)
  | .qputRegister v q => asE 3 v 0 0 (0#4 ++ q)
  | .qgetVector d q => asE 4 d 0 0 (0#4 ++ q)
  | .qgetScalar d q => asE 4 (sF d) 0 0 (4#4 ++ q)
  | .tlread d ot c k => asE 5 (sF d) 0 0 (bit1 ot ++ 0#1 ++ c ++ k)
  | .tfetchC d => asE 6 (sF d) 1 4 0
  | .tfetchQ d p q => asE 6 (sF d) 0 4 (bit1 p ++ 1#1 ++ 0#2 ++ q)
  | .coll d => asE 7 (sF d) 0 0 0
  | .mma128x128 q t s a b => mxE 0 (sF q) t s a b 0
  | .mma128x64 q t s a b p => mxE 1 (sF q) t s a b (0#2 ++ p)
  | .mma64x128 q t s a b p => mxE 2 (sF q) t s a b (0#2 ++ p)
  | .mma64x64 q t s a b p => mxE 3 (sF q) t s a b (0#1 ++ p)
  | .mma32x128 q t s a b p => mxE 4 (sF q) t s a b (0#1 ++ p)
  | .mma128x32 q t s a b p => mxE 5 (sF q) t s a b (0#1 ++ p)
  | .accz t => mxE 8 0 t false false false 0
  | .accld q t g => mxE 9 (sF q) t false g false 0
  | .accst q t g => mxE 10 (sF q) t false g false 0
  | .accmv t u => mxE 11 0 t false false false u
  | .accovx q t c => mxE 12 (sF q) t c false false 0
  | .tspawn d a => rrE 56 0 (sF d) (sF a) 0
  | .tspawnRel d b => rrE 56 0 (sF d) 0 (sF b)
  | .frd d a => rrE 56 1 (sF d) (sF a) 0
  | .fwr a b => rrE 56 2 0 (sF a) (sF b)
  | .fwrClr d a => rrE 56 3 (sF d) (sF a) 0
  | .lpost d a q => rrE 56 4 (sF d) (sF a) (0#5 ++ q)
  | .give d k => rrE 56 5 (sF d) 0 (pF k)
  | .claim d k => rrE 56 6 (sF d) 0 (pF k)
  | .sread d a => rrE 56 7 (sF d) (sF a) 0
  | .csrrd d a => rrE 57 0 (sF d) (sF a) 0
  | .csrwr a b => rrE 57 1 0 (sF a) (sF b)
  | .tlbinv s a b => rrE 57 2 (0#4 ++ s) (sF a) (sF b)
  | .caprd d a => rrE 57 3 (sF d) (sF a) 0
  | .hreg d a b => rrE 57 4 (sF d) (sF a) (sF b)
  | .pkrd d a => rrE 58 0 (sF d) (sF a) 0
  | .pkwr d a b => rrE 58 1 (sF d) (sF a) (sF b)
  | .pkres d a => rrE 58 2 (sF d) (sF a) 0
  | .pkretry d a => rrE 58 3 (sF d) (sF a) 0
  | .pkredir d a b => rrE 58 4 (sF d) (sF a) (sF b)
  | .pkkill d a => rrE 58 5 (sF d) (sF a) 0
  | .clauseIssue _ => []
  | .preEmption _ => []
  | .swapIn _ => []
  | .faultTaskRaise _ => []
  | .pendingFaultTaskSend => []
  | .faultBankFullRefusal _ => []
  | .deckDispatch _ => []
  | .taskStart _ => []
  | .deckAging => []
  | .taskDeadlineExpiry _ => []
  | .recordDeadlineExpiry _ => []
  | .faultTaskDeadlineExpiry _ => []
  | .runBudgetExpiry _ => []
  | .disableBudgetExpiry _ => []
  | .barrierWatchdogExpiry _ => []
  | .stalemate _ => []
  | .contextReset _ => []
  | .contextResetProgress _ => []
  | .contextEnable _ => []
  | .contextDisable _ => []
  | .partitionEnable _ => []
  | .partitionSeal _ => []
  | .partitionDisable _ => []
  | .hRangeGrant _ _ _ => []
  | .reclaimGroupDesignate _ _ => []
  | .groupOverflowWrite _ _ => []
  | .fabannWrite _ => []
  | .launchQueueEnable _ _ _ => []
  | .launchQueueDisable _ _ => []
  | .frontEndMonitorWake _ _ => []
  | .commandSeqReread _ _ => []
  | .launch _ _ => []
  | .ib _ _ => []
  | .pred _ _ => []
  | .loop _ _ => []
  | .wrmem _ _ => []
  | .waitmem _ _ => []
  | .ffence _ _ => []
  | .tlsig _ _ => []
  | .nopPacket _ _ => []
  | .link _ _ => []
  | .postedLaunchHandover _ _ => []
  | .placementStep _ => []
  | .groupEnd _ => []
  | .barrierComplete _ => []
  | .roundComplete _ => []
  | .schedulerRoundStart _ => []
  | .dfreeQueueingComplete _ => []
  | .reclaimQueueFill _ => []
  | .waitaWake _ => []
  | .spuriousWake _ => []
  | .waitConditionMet _ => []
  | .lineRequestReturn _ _ => []
  | .fabricBatchSend _ => []
  | .queueSlotFill _ _ _ => []
  | .hardwarePrefetch _ _ _ => []
  | .copySegmentComplete _ _ _ => []
  | .tileOperationComplete _ _ => []
  | .tilePinGrant _ => []
  | .matrixEngineReset _ => []
  | .collectiveComplete _ _ => []
  | .atomicServicePerform _ _ => []
  | .readRequest _ => []
  | .readReply _ => []
  | .write _ => []
  | .atomicRequest _ => []
  | .atomicReply _ => []
  | .acknowledgement _ => []
  | .faultLaneMessage _ _ => []
  | .recoveryAnnouncement _ => []
  | .announcementBoundExpiry _ => []
  | .fabricAckTrigger _ _ => []
  | .fabricRetransmit _ _ _ => []
  | .linkTimeout _ => []
  | .portRetrain _ => []
  | .hostModuleReset => []
  | .hostBarAccess _ _ _ _ => []
  | .capOffsetWrite _ => []
  | .sendQueueWork _ => []
  | .rdmaCompletion _ _ _ _ => []
  | .rdmaTimeout _ _ => []
  | .rdmaInbound _ => []
  | .powerOn _ => []
  | .patrolScrub _ _ => []
  | .scoreHalving => []
  | .coreVacateMigrate _ _ => []
  | .testVacateTimeout _ => []
  | .testRetry _ => []
  | .targetedTestEnd _ _ => []
  | .traceBlockClose _ => []
  | .portTrainingComplete _ => []
  | .modulePowerLimit _ => []
  | .ideKmRequest _ _ => []

end Sys2Proof
end

