-- ==== Sys2Proof/Machine/ClauseRegs.lean ====
section
/-! DEFINITION. The vector registers that the instructions of a clause write (R43), from the operand fields of each. -/

namespace Sys2Proof.Machine

/-- The vector registers an atomic writes (R315). -/
def atomDst (x : Atom) : List VReg :=
  match x.o with
  | .vec d _ _ => if !x.ret then [] else if x.ty = 2 ∨ x.ty = 3 then [d, d + 1] else [d]
  | .sca _ _ _ => []

/-- Vector destinations of the instructions of majors 1 to 47. -/
def OpA.vdst : OpA → List VReg
  | .ppack v _ _ => [v]
  | .ld _ z d _ _ => if z = 5 then [d, d + 1] else [d]
  | .ldAcq z _ d _ _ => if z = 5 then [d, d + 1] else [d]
  | .atomAdd x => atomDst x
  | .atomSub x => atomDst x
  | .atomMin x => atomDst x
  | .atomMax x => atomDst x
  | .atomAnd x => atomDst x
  | .atomOr x => atomDst x
  | .atomXor x => atomDst x
  | .atomExch x => atomDst x
  | .atomCas x => atomDst x
  | .atomFaddt x => atomDst x
  | .vadd _ d _ _ _ => [d]
  | .vsub _ d _ _ _ => [d]
  | .vmul _ d _ _ _ => [d]
  | .vmulhs _ d _ _ _ => [d]
  | .vmulhu _ d _ _ _ => [d]
  | .vmad _ d _ _ _ _ => [d]
  | .vmin _ d _ _ _ => [d]
  | .vmax _ d _ _ _ => [d]
  | .vminu _ d _ _ _ => [d]
  | .vmaxu _ d _ _ _ => [d]
  | .vand _ d _ _ _ => [d]
  | .vor _ d _ _ _ => [d]
  | .vxor _ d _ _ _ => [d]
  | .vandn _ d _ _ _ => [d]
  | .vshl _ d _ _ _ => [d]
  | .vshr _ d _ _ _ => [d]
  | .vsar _ d _ _ _ => [d]
  | .vabs _ d _ _ => [d]
  | .vneg _ d _ _ => [d]
  | .vadds _ d _ _ _ => [d]
  | .vsubs _ d _ _ _ => [d]
  | .vaddus _ d _ _ _ => [d]
  | .vsubus _ d _ _ _ => [d]
  | .vclz _ d _ _ => [d]
  | .vpopc _ d _ _ => [d]
  | .vmov d _ _ => [d]
  | .vaddScalar d _ _ _ => [d]
  | .vsubScalar d _ _ _ => [d]
  | .vmulScalar d _ _ _ => [d]
  | .vmulhsScalar d _ _ _ => [d]
  | .vmulhuScalar d _ _ _ => [d]
  | .vmadScalar d _ _ _ _ => [d]
  | .vminScalar d _ _ _ => [d]
  | .vmaxScalar d _ _ _ => [d]
  | .vminuScalar d _ _ _ => [d]
  | .vmaxuScalar d _ _ _ => [d]
  | .vandScalar d _ _ _ => [d]
  | .vorScalar d _ _ _ => [d]
  | .vxorScalar d _ _ _ => [d]
  | .vandnScalar d _ _ _ => [d]
  | .vshlScalar d _ _ _ => [d]
  | .vshrScalar d _ _ _ => [d]
  | .vsarScalar d _ _ _ => [d]
  | .vabsScalar d _ _ => [d]
  | .vnegScalar d _ _ => [d]
  | .vaddsScalar d _ _ _ => [d]
  | .vsubsScalar d _ _ _ => [d]
  | .vaddusScalar d _ _ _ => [d]
  | .vsubusScalar d _ _ _ => [d]
  | .vclzScalar d _ _ => [d]
  | .vpopcScalar d _ _ => [d]
  | .vmovScalar d _ _ => [d]
  | .vsel d _ _ _ => [d]
  | _ => []

/-- The vector registers QCVT may write: those of its longest block, of 32 sources, and the scales (R288, R291). -/
def qcvtDst (d : VReg) (dst : BitVec 5) : List VReg :=
  let c := dst.toNat
  let n := if c == 20 || (22 ≤ c && c ≤ 26) || c == 29 then 5 else 9
  (List.range n).map (fun i => d + BitVec.ofNat 7 i)

/-- Vector destinations of the instructions of majors 48 to 58; SHTRY makes no register G. -/
def OpB.vdst : OpB → List VReg
  | .vfaddF32 d _ _ _ _ => [d]
  | .vfsubF32 d _ _ _ _ => [d]
  | .vfmulF32 d _ _ _ _ => [d]
  | .vfmaF32 d _ _ _ _ _ => [d]
  | .vfmsF32 d _ _ _ _ _ => [d]
  | .vfnmaF32 d _ _ _ _ _ => [d]
  | .vfminF32 d _ _ _ _ => [d]
  | .vfmaxF32 d _ _ _ _ => [d]
  | .vfdivF32 d _ _ _ _ => [d]
  | .vfsqrtF32 d _ _ _ => [d]
  | .vfrcpF32 d _ _ _ => [d]
  | .vfrsqF32 d _ _ _ => [d]
  | .vfabsF32 d _ _ _ => [d]
  | .vfnegF32 d _ _ _ => [d]
  | .vfexp2F32 d _ _ _ => [d]
  | .vflog2F32 d _ _ _ => [d]
  | .vfaddPacked _ d _ _ _ _ => [d]
  | .vfsubPacked _ d _ _ _ _ => [d]
  | .vfmulPacked _ d _ _ _ _ => [d]
  | .vfmaPacked _ d _ _ _ _ _ => [d]
  | .vfmsPacked _ d _ _ _ _ _ => [d]
  | .vfnmaPacked _ d _ _ _ _ _ => [d]
  | .vfminPacked _ d _ _ _ _ => [d]
  | .vfmaxPacked _ d _ _ _ _ => [d]
  | .vfdivPacked _ d _ _ _ _ => [d]
  | .vfsqrtPacked _ d _ _ _ => [d]
  | .vfrcpPacked _ d _ _ _ => [d]
  | .vfrsqPacked _ d _ _ _ => [d]
  | .vfabsPacked _ d _ _ _ => [d]
  | .vfnegPacked _ d _ _ _ => [d]
  | .vfexp2Packed _ d _ _ _ => [d]
  | .vflog2Packed _ d _ _ _ => [d]
  | .vfaddScalar d _ _ _ _ => [d]
  | .vfsubScalar d _ _ _ _ => [d]
  | .vfmulScalar d _ _ _ _ => [d]
  | .vfmaScalar d _ _ _ _ _ => [d]
  | .vfmsScalar d _ _ _ _ _ => [d]
  | .vfnmaScalar d _ _ _ _ _ => [d]
  | .vfminScalar d _ _ _ _ => [d]
  | .vfmaxScalar d _ _ _ _ => [d]
  | .vfdivScalar d _ _ _ _ => [d]
  | .vfsqrtScalar d _ _ _ => [d]
  | .vfrcpScalar d _ _ _ => [d]
  | .vfrsqScalar d _ _ _ => [d]
  | .vfabsScalar d _ _ _ => [d]
  | .vfnegScalar d _ _ _ => [d]
  | .vfexp2Scalar d _ _ _ => [d]
  | .vflog2Scalar d _ _ _ => [d]
  | .vcvt d _ _ _ _ _ _ => [d]
  | .qcvt d _ _ _ dst _ _ => qcvtDst d dst
  | .shpromote d => [d]
  | .shfl d _ _ _ => [d]
  | .shflUp d _ _ _ => [d]
  | .shflDn d _ _ _ => [d]
  | .shflXor d _ _ _ => [d]
  | .bcast d _ _ _ => [d]
  | .vscanAdd d _ _ => [d]
  | .vscanMin d _ _ => [d]
  | .vscanMax d _ _ => [d]
  | .vscanMinu d _ _ => [d]
  | .vscanMaxu d _ _ => [d]
  | .vscanAnd d _ _ => [d]
  | .vscanOr d _ _ => [d]
  | .vscanXor d _ _ => [d]
  | .vscanAddF32 d _ _ => [d]
  | .vscanMinF32 d _ _ => [d]
  | .vscanMaxF32 d _ _ => [d]
  | .qgetVector d _ => [d]
  | _ => []

/-- Vector destinations of an instruction. -/
def Code.vdst : Code → List VReg
  | .a i => OpA.vdst i
  | .b i => OpB.vdst i
  | .ev _ => []

/-- Vector destinations of up to `n` instructions of a clause; a word that decodes to none has none. -/
def clauseVdst : Nat → List Wd → List VReg
  | 0, _ => []
  | n + 1, ws =>
    match decodeCode ws with
    | .ok (i, k) => Code.vdst i ++ clauseVdst n (ws.drop k)
    | .error _ => clauseVdst n (ws.drop 1)

/-- The registers that an instruction adds to the team's count when it succeeds (R85). -/
def Code.claims : Code → Nat
  | .b (.claim _ k) => 8 * k.toNat
  | _ => 0

/-- The registers that up to `n` instructions of a clause may add. -/
def clauseClaims : Nat → List Wd → Nat
  | 0, _ => 0
  | n + 1, ws =>
    match decodeCode ws with
    | .ok (i, k) => Code.claims i + clauseClaims n (ws.drop k)
    | .error _ => clauseClaims n (ws.drop 1)

end Sys2Proof.Machine
end

