-- ==== Sys2Proof/Machine/Clause.lean ====
section
/-! DEFINITION. Clauses: the choice among ready teams, fetching and checking a clause, thresholds, register pressure,
swapping out and in, and the next instruction of the clause in issue (R35 to R43, R202 to R213, R435). -/

namespace Sys2Proof.Machine

/-! ### Register chunks (R42, R43) -/

/-- Chunks the G registers of a team need (R42). -/
def Team.gChunks (t : Team) : Nat := (t.regs.v.filter (fun v => v.tag == 2)).length * (t.width / 32)

/-- Chunks a team holds (R42, R43, R67): those of its G registers, and until a clause that needs chunks completes all that were
held or reserved when it issued (R80). A team swapped out or ended holds none. -/
def Team.chunks (t : Team) : Nat :=
  match t.st with
  | .swapped => 0
  | .ended _ => 0
  | _ => max t.gChunks t.resv

/-- The vector registers, not G now, that an access of a team has still to write and may make G (R43). -/
def State.pendG (s : State) (t : Team) : List VReg :=
  ((s.pendDests t.key).filterMap (fun d =>
    match d with
    | .v r => some r
    | .s _ => none)).dedup.filter (fun r => (t.v r).tag != 2)

/-- Chunks held for a team: beside its own those reserved for what its loads, atomics and `QGET`s under way will make G, which stay
reserved past the clause that issued them (R43, R80). -/
def State.held (s : State) (t : Team) : Nat :=
  match t.st with
  | .swapped => 0
  | .ended _ => 0
  | _ => max t.chunks (t.gChunks + (s.pendG t).length * (t.width / 32))

/-- The teams on a core. -/
def State.teamsOn (s : State) (core : Nat) : List Team := s.teams.filter (fun t => (s.groupOf t).core == core)

/-- Free chunks of a core (R42). -/
def State.freeChunks (s : State) (core : Nat) : Nat :=
  Config.chunksOf core - (s.teamsOn core).foldl (fun a t => a + s.held t) 0

/-! ### Fetch (R208, R209, R167) -/

/-- A word fetched through the instruction cache of a core: a line fetched before may still be executed as it was, until it
is fetched anew (R167). Lines are those of the VA, by context, as ICINV names them (R253). -/
def State.fetchPa (s : State) (core c va pa : Nat) : State × Wd :=
  let now : Wd := BitVec.ofNat 32 (leNat (Mem.readN s.mem (homeG pa) 4))
  let line := c * 2 ^ 45 + va / 128
  match (s.core core).ic.find? (fun x => x.1 == line) with
  | some (_, d) =>
    let old : Wd := (d >>> (8 * (va % 128))).setWidth 32
    if old = now then (s, now)
    else
      let (s, b) := s.choose
      if b then (s, old) else
      let d := lineNat (Mem.readN s.mem (homeG (pa / 128 * 128)) 128)
      (s.modCore core (fun c => { c with ic := (line, d) :: c.ic.filter (fun x => x.1 != line) }), now)
  | none =>
    let d := lineNat (Mem.readN s.mem (homeG (pa / 128 * 128)) 128)
    (s.modCore core (fun c => { c with ic := (line, d) :: c.ic }), now)

/-- One word fetched at a VA, with the page of the word before it when it is the same. -/
def State.fetchWord (s : State) (core c va : Nat) (pg : Option (Nat × Page)) :
    State × (FaultInfo ⊕ (Wd × Option (Nat × Page))) :=
  if 2 ^ 52 ≤ va + 3 then (s, .inl (mkF .spaceBounds .nonCanonical va 4)) else
  match pg.filter (fun p => p.1 == va / 65536) with
  | some (n, p) =>
    let (s, w) := s.fetchPa core c va (p.base + va % 65536)
    (s, .inr (w, some (n, p)))
  | none =>
    match s.xlate core c va .fetch {} with
    | (s, .inl f) => (s, .inl f)
    | (s, .inr p) =>
      let (s, w) := (s.markAD p.ea false).fetchPa core c va (p.base + va % 65536)
      (s, .inr (w, some (va / 65536, p)))

/-- A word is a prefix (R208). -/
def isPfx (w : Wd) : Bool := 60 ≤ (major w).toNat

/-- The words after a header until `n` base words are read; at most 45 words (R208, notes/assumptions/13.md). -/
def State.fetchBody (s : State) (core c : Nat) :
    Nat → Nat → Option (Nat × Page) → Nat → State × (FaultInfo ⊕ List Wd)
  | 0, _, _, _ => (s, .inr [])
  | _ + 1, _, _, 0 => (s, .inr [])
  | k + 1, va, pg, n + 1 =>
    match s.fetchWord core c va pg with
    | (s, .inl f) => (s, .inl f)
    | (s, .inr (w, pg)) =>
      match s.fetchBody core c k (va + 4) pg (if isPfx w then n + 1 else n) with
      | (s, .inl f) => (s, .inl f)
      | (s, .inr ws) => (s, .inr (w :: ws))

/-- Of the words after a header, the number of instructions that begin before offset `off`, when one begins at it. -/
def startsAt : List Wd → Nat → Nat → Bool → Option Nat
  | ws, off, at_, first =>
    match ws with
    | [] => none
    | w :: r =>
      if first && at_ = off then some 0
      else if isPfx w then startsAt r off (at_ + 1) false
      else (startsAt r off (at_ + 1) true).map (· + 1)

/-! ### Swapping out and in (R38, R43, R90, R394) -/

/-- A team swapped out: its image goes to its save area, and its state stays in the part as well; where the save area
cannot be written, the team parks instead (R394). It first waits for its loads, which write its registers. -/
def State.swapOut (s : State) (t : Team) (need : Nat) : State :=
  let g := s.groupOf t
  let t := { t with clause := none }
  if s.openLoads t.key then s.deschedule t (.thr 0 15 15 15) else
  match s.saveVa g.ctx g.core t.place with
  | none => s.park t (mkF .unserviceable .none 0 1)
  | some va =>
    match s.vaWrite g.core g.ctx va (t.image s.clk) with
    | (s, some f) => s.park t { mkF .unserviceable .none 0 1 with det0 := f.det0 }
    | (s, none) =>
      let s := s.putTeam { t with st := .swapped, need := need, resv := 0, pdLeft := t.pdRest s.clk }
      (s.traceBind t 4 0).yieldCur t.key

/-- The bytes of a save area, and whether a byte of it that the part holds is in error (Table 17-1). -/
def State.readImage (s : State) (t : Team) : State × (FaultInfo ⊕ (List Byte × Bool)) :=
  let g := s.groupOf t
  match s.saveVa g.ctx g.core t.place with
  | none => (s, .inl (mkF .unserviceable .none 0 1))
  | some va =>
    let n := imageMax t.width t.vcnt
    match s.xlateRun g.core g.ctx .load {} va (pagesOf va n) with
    | (s, .inl f) => (s, .inl f)
    | (s, .inr ps) =>
      let bad := (splitPages ps va (List.replicate n (0 : Byte))).any
        (fun q => q.1.ap == 0 && s.poisoned (homeG q.2.1) q.2.2.length)
      let (s, bs) := s.readRun ps va n
      (s, .inr (bs, bad))

/-- The core an access was issued on, the team's group gone or not. -/
def State.coreOf (s : State) (a : Access) : Option Nat :=
  match s.team a.team with
  | some t => some (s.groupOf t).core
  | none => a.who.map (·.core)

/-- An access was issued on a core. -/
def State.onCore (s : State) (core : Nat) (a : Access) : Bool := s.coreOf a == some core

/-- The L1 of a core invalidated (R112). -/
def State.invL1 (s : State) (core : Nat) : State :=
  { s.modCore core (fun c => { c with l1 := [] }) with
    acc := s.acc.map (fun (a : Access) => if a.plain && s.onCore core a then { a with plain := false } else a)
    pfs := s.pfs.map (fun (p : PfReq) => if p.core = core then { p with l1 := false } else p) }

/-! ### Barriers a team stands at (R328, R532) -/

/-- A team is a member of a group barrier: of every one with no stage subset, else by its stage (R28). -/
def Group.member (g : Group) (id stage : Nat) : Bool :=
  let sub := (g.barSub.getD id 0).toNat
  sub == 0 || sub.testBit stage

/-- The number of a launch or task, as its barriers name it (R328: a task is a launch of one group). -/
def Origin.num : Origin → Nat
  | .launch n => n
  | .task n => n

/-- A team belongs to a barrier. -/
def State.ofBarrier (s : State) (k : BarrierKey) (t : Team) : Bool :=
  let g := s.groupOf t
  match k with
  | .group x i => t.gslot == x && g.member i t.role
  | .cluster n c _ => g.origin.num == n && clusterOf g.core == c
  | .launch n _ => g.origin.num == n

/-- A barrier at which a team has arrived in a phase not complete. -/
def State.arrivedAt (s : State) (t : Team) : Option BarrierKey :=
  (s.bars.find? (fun (b : Barrier) => b.arrived.contains t.tid && s.ofBarrier b.key t)).map (fun (b : Barrier) => b.key)

/-- Running, or in barrier wait while a phase the team arrived for is not complete (R532). -/
def State.backSt (s : State) (t : Team) : TeamSt :=
  match s.arrivedAt t with
  | some k => .wait (.barrier k)
  | none => .running

/-- A team that has its registers again meets the lane deaths and the end that errors of its atomics brought meanwhile
(R62, R64) (DESIGN CHOICE, notes/assumptions/50.md). -/
def State.settleOwed (s : State) (t : Team) : State :=
  if t.owed = [] ∧ t.owedAll = false then s else
  let (s, u) := s.killLanes { t with owed := [], owedAll := false } t.owed
  let s := s.putTeam u
  if t.owedAll ∨ u.allDead then s.loseTeam u .none else s

/-- A team swapped in: its save area is checked and read (R90); it runs once the chunks of its G entries are free (R43), and
waits on at a barrier whose phase is not complete. An unreadable area parks the team with nothing restored (R394). -/
def State.swapBack (s : State) (t : Team) : State :=
  let g := s.groupOf t
  match s.readImage t with
  | (s, .inl f) =>
    s.formRec t { mkF .unserviceable .none 0 1 with det0 := f.det0 }
  | (s, .inr (bs, bad)) =>
    if bad then s.loseTeam { t with st := .running } .saveAreaError else
    match t.restore bs s.clk with
    | none => s.loseTeam { t with st := .running } .saveAreaMalformed
    | some t' =>
      if s.freeChunks g.core < t'.gChunks then s.putTeam { t with need := t'.gChunks } else
      let t' := { t' with st := s.backSt t', pc := BitVec.ofNat 64 (numAt bs 0xBE0 8), need := 0, age := s.clk }
      (((s.putTeam t').invL1 g.core).traceBind t' 1 0).settleOwed t'

/-! ### Opening a clause (R203 to R210) -/

/-- The faults of a header (R203, R213); `jumped` says that a transfer led here. -/
def headerFault (h : Wd) (jumped : Bool) : Option FaultInfo :=
  let x := h.toNat
  if bits x 31 28 ≠ 0xA then some (mkF (if jumped then .illegalTarget else .illegalClause) .none 0 0)
  else if bits x 27 25 ≠ 0 ∨ 6 ≤ bits x 6 4 ∨ bits x 3 0 = 0 then some (mkF .illegalClause .none 0 0)
  else none

/-- A threshold of 15 imposes no wait (R204). -/
def thrOk (n w : Nat) : Bool := w = 15 || n ≤ w

/-- The four thresholds hold (R204). -/
def Cnts.meets (c : Cnts) (l st cp ti : Nat) : Bool := thrOk c.ld l && thrOk c.st st && thrOk c.cp cp && thrOk c.ti ti

/-- The registers that a clause may make G: its destinations that are not (R43), those among them that a CLAIM of the clause adds
(DEDUCED, notes/assumptions/78.md). -/
def Team.clauseRegs (t : Team) (ws : List Wd) : List VReg :=
  (clauseVdst 16 ws).dedup.filter (fun r => (t.v r).tag ≠ 2 && decide (r.toNat < t.vcnt + clauseClaims 16 ws))

/-- The chunks to hold while a clause is in issue: those held, and those of the registers it may make G (R43). A clause that needs
none reserves none, so that what it frees counts at once (R80). -/
def State.clauseNeed (s : State) (t : Team) (ws : List Wd) : Nat :=
  if t.clauseRegs ws = [] then t.resv
  else max (t.gChunks + (s.pendG t ++ t.clauseRegs ws).dedup.length * (t.width / 32)) t.resv

/-- An overflow window written since is applied at the clause boundary (R108). -/
def Team.applyWindow (t : Team) (ov : Dw) : Team :=
  { t with ovBase := fld ov 51 16 * 65536, ovLen := fld ov 62 52 * 1024 }

/-- A fault that a team meets at a clause boundary: one due (R40, R476, R478), or a lost remote access (R464). -/
def Team.boundary (t : Team) : Option (FaultInfo × Team) :=
  match t.due with
  | f :: r => some (f, { t with due := r })
  | [] =>
    match t.lost with
    | some (f, _) => some (f, { t with lost := none })
    | none => none

/-- A fault is due for a team at its next clause boundary; a team already at one meets it there (R40, R476, R478). -/
def Team.owe (t : Team) (f : FaultInfo) : Team :=
  match t.st with
  | .ended _ => t
  | _ => { t with due := t.due ++ [f] }

/-- The disable budget of a team has run out (R40). -/
def Team.pdOut (t : Team) (clk : Nat) : Bool := t.pdis && decide (t.pdRest clk = 0)

/-- The fault of a budget that has run out, of an expiry by its number (R40, R48). -/
def budgetF (budget expiry : Nat) : FaultInfo := { mkF .budgetExpired .none budget 0 with expiry := expiry }

/-- Pre-emption enabled again by the core when the disable budget of a team runs out, and the fault that is then due (R40). -/
def State.pdEnd (s : State) (t : Team) : State :=
  let (s, n) := s.fresh
  s.putTeam ({ t with pdis := false, pdLeft := 0 }.owe (budgetF (s.groupOf t).pdBud n))

/-- A run budget that has run out: the fault is due for every team of the group (R48). -/
def State.runOut (s : State) (g : Group) : State :=
  if g.budget = some 0 ∧ g.expired = false then
    let (s, n) := s.fresh
    let f := budgetF (2 ^ g.budLog) n
    let s := s.modGroup g.slot (fun g => { g with expired := true })
    { s with teams := s.teams.map (fun (t : Team) => if t.gslot = g.slot then t.owe f else t) }
  else s

/-- The budgets that have run out by a clause boundary of a team (R40, R48). -/
def State.expireBudgets (s : State) (t : Team) : State × Team :=
  let g := s.groupOf t
  if t.pdOut s.clk = false ∧ ¬ (g.budget = some 0 ∧ g.expired = false) then (s, t) else
  let s := if t.pdOut s.clk then s.pdEnd t else s
  let s := s.runOut g
  (s, (s.team t.key).getD t)

/-- A clause starts: it counts, and one in 2^SAMPLE is recorded (R501, Table 17-8). -/
def State.traceClause (s : State) (t : Team) (pc : Nat) : State :=
  let g := s.groupOf t
  let s := s.modCore g.core (fun k => { k with trace := { k.trace with clauses := k.trace.clauses + 1 } })
  let smp := fld (s.trc.getD ((s.ctx g.ctx).part * 2 + dieOf g.core) TrRegs.init).ctl 60 57
  if smp ≠ 15 && (s.core g.core).trace.clauses % 2 ^ smp = 0 then s.tracePc t 3 pc else s

/-- A clause fetched, checked and put into issue for a team at its PC, or resumed at its park point (R463). A clause held at
its thresholds is fetched again when they are met: R204 says nothing of the words fetched before (DESIGN CHOICE,
notes/assumptions/87.md). -/
def State.openClause (s : State) (t : Team) : State :=
  let (s, t) := if t.woff = 0 then s.expireBudgets t else (s, t)
  let g := s.groupOf t
  let c := g.ctx
  let t := if t.woff = 0 then t.applyWindow g.ovReg else t
  match (if t.woff = 0 then t.boundary else none) with
  | some (f, t) => s.park t f
  | none =>
    let pc := t.pc.toNat
    if pc % 4 ≠ 0 then s.park t { mkF .illegalTarget .none 0 0 with xfer := t.src } else
    match s.fetchWord g.core c pc none with
    | (s, .inl f) => s.park t f
    | (s, .inr (h, pg)) =>
      match headerFault h t.src.isSome with
      | some f => s.park { t with woff := 0 } { f with xfer := t.src }
      | none =>
        let n := bits h.toNat 3 0
        match s.fetchBody g.core c 45 (pc + 4) pg n with
        | (s, .inl f) => s.park t f
        | (s, .inr ws) =>
          let x := h.toNat
          let skip := if t.woff = 0 then some 0 else startsAt ws t.woff 1 true
          match skip with
          | none => s.park t (mkF .illegalClause .none 0 0)
          | some k =>
            if n ≤ k then s.park t (mkF .illegalClause .none 0 0)
            else if t.woff = 0 && !t.cnt.meets (bits x 10 7) (bits x 14 11) (bits x 18 15) (bits x 22 19) then
              s.deschedule t (.thr (bits x 10 7) (bits x 14 11) (bits x 18 15) (bits x 22 19))
            else
              let need := s.clauseNeed t ws
              if s.freeChunks g.core + s.held t < need then s.swapOut t need
              else
                let starts := t.woff == 0
                let t := { t with woff := if t.woff = 0 then 1 else t.woff, resv := need, st := .running
                                  yieldNow := t.yieldNow && t.woff != 0
                                  clause := some { hdr := h, words := ws, left := n - k } }
                let s := s.modCore g.core (fun k => { k with rr := t.place })
                let s := if starts then s.traceClause t pc else s
                { s.putTeam t with cur := some t.key }

/-- A clause with YIELD, or one that held YLD, completed last (R207, R249): until the team's next clause opens. -/
def Team.yields (t : Team) : Bool := t.yieldNow && t.woff == 0

/-- Among ready teams, the order of R435: age, a yield behind its equals (R207), round robin from the slot after the
last. -/
def issueKey (rr : Nat) (t : Team) : Nat := (2 * t.age + b2n t.yields) * 64 + (t.place + 63 - rr) % 64

/-- The least element under a key. -/
def minBy {α : Type} (key : α → Nat) : List α → Option α
  | [] => none
  | x :: r =>
    match minBy key r with
    | none => some x
    | some y => if key x ≤ key y then some x else some y

/-- A team may be issued from. A frozen context has no running team but those that re-entered (R439, R440). -/
def State.ready (_ : State) (t : Team) : Bool := t.st == .running

/-- The team whose clause a core issues next (R435). -/
def State.choice (s : State) (core : Nat) : Option Team :=
  minBy (issueKey (s.core core).rr) ((s.teamsOn core).filter s.ready)

/-! ### The next instruction -/

/-- The next instruction of the clause in issue, decoded (R208); a decoding fault parks the team at it (R210). -/
def State.fetchNext (s : State) (t : Team) : State × Option Code :=
  match t.clause with
  | none => (s, none)
  | some c =>
    match decodeCode (c.words.drop (t.woff - 1)) with
    | .ok (i, n) =>
      (s.putTeam { t with next := t.woff + n }, some i)
    | .error .illegalPrefix => ((s.park t (mkF .illegalPrefix .none 0 0)).tick, none)
    | .error (.illegalEncoding d) => ((s.park t (mkF .illegalEncoding d 0 0)).tick, none)

end Sys2Proof.Machine
end

