-- ==== Sys2Proof/Machine/MemOps.lean ====
section
/-! DEFINITION. What memory instructions share: address resolution and its checks (R97 to R108, R452), the scope checker
(R160 to R162), the L1 (R109 to R112), line requests (R122 to R124), packets and batches (R310, R311), and accesses from
issue to completion (R307, R308). -/

namespace Sys2Proof.Machine

/-! ### Pieces of an access -/

/-- Bytes of an access at one target: aperture (0 local home, 1 peer, 2 host), module, home or physical address, count,
ordering kind, address of the leaf entry. -/
structure Piece where
  ap : Nat
  peer : Nat
  addr : Nat
  n : Nat
  ord : Nat
  ea : Option Nat
  kid : Bool := false
  deriving DecidableEq, Repr

/-- Home of a byte of another module, as the address monitor and the determinism buffer name it. -/
def homeP (peer pa : Nat) : Nat := 8 * 2 ^ 80 + peer * 2 ^ 60 + pa

/-- The byte address of a piece by the home of its line: that of a peer's line names the module, that of the host's module
512. -/
def Piece.home (p : Piece) : Nat :=
  match p.ap with
  | 0 => p.addr
  | 1 => homeP p.peer p.addr
  | _ => homeP 512 p.addr

/-- The lines of a piece, by home. -/
def Piece.lines (p : Piece) : List Nat :=
  (List.range ((p.addr + p.n - 1) / 128 - p.addr / 128 + 1)).map (fun i => p.home / 128 + i)

/-- Bytes in one local home. -/
def localPiece (a n : Nat) : Piece := { ap := 0, peer := 0, addr := a, n := n, ord := 0, ea := none }

/-- The pieces of a translated run, one a page. -/
def piecesOf (ps : List Page) (va n : Nat) : List Piece :=
  (enum ps).map (fun q =>
    let lo := if q.1 = 0 then 0 else (va / 65536 + q.1) * 65536 - va
    let hi := min n ((va / 65536 + q.1 + 1) * 65536 - va)
    { ap := q.2.ap, peer := q.2.peer, addr := q.2.base + (va + lo) % 65536, n := hi - lo, ord := q.2.ord, ea := q.2.ea,
      kid := q.2.kid })

/-- How the instruction accesses: kind, size, whether alignment is required in space G too, whether the size breaks
R132, the scope of a synchronising access, whether it is atomic, AUX of remote-atomic-denied. -/
structure AccOpt where
  k : AccK
  size : Nat
  align : Bool := false
  badSize : Bool := false
  sync : Option (BitVec 3) := none
  atomic : Bool := false
  aop : Nat := 0
  deriving DecidableEq, Repr

/-- The XOpt of a translated access at an address. -/
def AccOpt.xopt (o : AccOpt) (va : Nat) (window : Bool) : XOpt :=
  { size := o.size, skew := va % o.size ≠ 0 || va / 65536 ≠ (va + o.size - 1) / 65536,
    sync := o.sync.isSome && !o.atomic, window := window, aop := o.aop }

/-- The place of a translation fault among the checks of Table 15-3. -/
def FaultInfo.check (f : FaultInfo) : Nat :=
  match f.cls, f.detail with
  | .pageMiss, _ => 1
  | .protection, .malformedEntry => 1
  | .protection, .apertureReserved => 2
  | .protection, .reservedOrd => 3
  | .enclaveViolation, _ => 4
  | .protection, .permission => 5
  | .remoteAtomicDenied, _ => 7
  | _, _ => 6

/-- A fault that an access met at its second page, as its record names it: at the address of the access (R99), but a page miss and a
denied remote atomic, which name the page to be mended (DEDUCED, notes/assumptions/95.md). -/
def FaultInfo.atAccess (f : FaultInfo) (va : Nat) : FaultInfo :=
  if f.cls = .pageMiss ∨ f.cls = .remoteAtomicDenied then f else { f with det0 := BitVec.ofNat 64 va }

/-- A G run of an access translated: of the checks of Table 15-3 that its one or two pages fail, the first in the order of the table,
at the first page where both fail it (R99; DEDUCED, notes/assumptions/95.md). -/
def State.xlateAcc (s : State) (t : Team) (o : AccOpt) (window : Bool) (va : Nat) : State × (FaultInfo ⊕ List Piece) :=
  let g := s.groupOf t
  if 2 ^ 52 < va + o.size then (s, .inl (mkF .spaceBounds .nonCanonical va 4)) else
  let x := o.xopt va window
  let (s, r) := s.xlate g.core g.ctx va o.k x
  let (s, r') : State × Option (FaultInfo ⊕ Page) :=
    if pagesOf va o.size = 1 then (s, none)
    else
      let (s, r') := s.xlate g.core g.ctx ((va / 65536 + 1) * 65536) o.k x
      (s, some r')
  match r, r' with
  | .inr p, none => (s, .inr (piecesOf [p] va o.size))
  | .inr p, some (.inr p') => (s, .inr (piecesOf [p, p'] va o.size))
  | .inr _, some (.inl f') => (s, .inl (f'.atAccess va))
  | .inl f, some (.inl f') => (s, .inl (if f'.check < f.check then f'.atAccess va else f))
  | .inl f, _ => (s, .inl f)

/-- D(x) of R107. -/
def stackDist (ssize x : Nat) : Nat := (ssize + 2 ^ 32 - x % 2 ^ 32) % 2 ^ 32

/-- The checks of R99 on one lane's access up to the translation: its pieces, or the first fault (DEDUCED, notes/assumptions/95.md). -/
def State.resolve (s : State) (t : Team) (sp : Space) (base : SReg) (o : AccOpt) (l : Nat) (va : Dw) :
    State × (FaultInfo ⊕ List Piece) :=
  let g := s.groupOf t
  let x := va.toNat
  let off := x % 2 ^ 32
  if o.badSize ∨ ((o.align ∨ sp ≠ .G) ∧ x % o.size ≠ 0) then
    (s, .inl (mkF .alignment .none (if sp = .L then off else x) o.size))
  else
    match sp with
    | .L =>
      if (base = 60 ∨ base = 62) ∧ stackDist g.sSize t.regs.slim.toNat < stackDist g.sSize off then
        (s, .inl (mkF .stackLimit .none off t.regs.slim.toNat))
      else if t.ovLen ≠ 0 ∧ 2 ^ 32 - t.ovLen ≤ off then
        s.xlateAcc t o true (t.ovBase + (t.index * t.width + l) * t.ovLen + (off - (2 ^ 32 - t.ovLen)))
      else if off + o.size ≤ g.sSize then (s, .inr [localPiece (homeL t.key l off) o.size])
      else (s, .inl (mkF .spaceBounds .none off 0))
    | .C =>
      if x + o.size ≤ g.cSize then (s, .inr [localPiece (homeC g.slot x) o.size])
      else (s, .inl (mkF .spaceBounds .none x 1))
    | .K =>
      if x + o.size ≤ g.kSize then (s, .inr [localPiece (homeK (clusterOf g.core) (g.kBase + x)) o.size])
      else (s, .inl (mkF .spaceBounds .none x 2))
    | .H =>
      if x + o.size ≤ 2 ^ 29 ∧ (s.inH g.ctx x && s.inH g.ctx (x + o.size - 1)) then
        (s, .inr [localPiece (homeH x) o.size])
      else (s, .inl (mkF .spaceBounds .none x 3))
    | .G => s.xlateAcc t o false x

/-! ### The scope checker (R160 to R162) -/

/-- A team as a party. -/
def State.party (s : State) (t : Team) : Party :=
  let g := s.groupOf t
  .team t.key t.uid g.uid (clusterOf g.core) t.tid

/-- The scope used by a party includes a party (R129, Table 4-1). -/
def includesP (sc : Nat) (me a : Party) : Bool :=
  match me, a with
  | .team k u g c _, .team k' u' g' c' _ =>
    3 ≤ sc || (sc == 0 && k == k' && u == u') || (sc == 1 && g == g') || (sc == 2 && c == c')
  | .team _ _ _ _ _, .frontEnd => 3 ≤ sc
  | .team _ _ _ _ _, .peer _ _ => 4 ≤ sc
  | .frontEnd, .peer _ _ => 4 ≤ sc
  | .frontEnd, .frontEnd => true
  | .frontEnd, .team _ _ _ _ _ => 3 ≤ sc
  | .peer m (some a), .peer m' (some b) =>
    4 ≤ sc || (m == m' && (3 ≤ sc || (sc == 0 && a == b) || (sc == 1 && a.group == b.group) || (sc == 2 && a.cluster == b.cluster)))
  | .peer m none, .peer m' none => m == m' || 4 ≤ sc
  | .peer m _, .peer m' _ => 4 ≤ sc || (m == m' && 3 ≤ sc)
  | .peer _ _, _ => 4 ≤ sc

/-- The team identifier a record holds. -/
def Party.tid : Party → Nat
  | .team _ _ _ _ i => i
  | .peer _ (some a) => a.tid
  | _ => 0

/-- The scope fault of a synchronising access by a team to the lines of its pieces, in the local or the peer aperture, if
one is due (R160 to R162) (DESIGN CHOICE, notes/assumptions/43.md). -/
def State.scopeFault (s : State) (t : Team) (sp : Space) (sc : BitVec 3) (va : Dw) (ps : List Piece) :
    Option FaultInfo :=
  if sp = .L then none else
  (ps.filter (fun p => p.ap ≤ 1)).findSome? (fun p =>
    (s.scopes.find? (fun r => r.line == p.home / 128)).bind (fun r =>
      if includesP sc.toNat (s.party t) r.party then none
      else some (mkF .scope .none (va.toNat / 128 * 128) (r.party.tid * 2 ^ 12 + r.scope * 2 ^ 9 + sc.toNat * 2 ^ 6))))

/-- The scope record of a line becomes (party, scope). -/
def State.setScope (s : State) (line : Nat) (p : Party) (sc : Nat) : State :=
  { s with scopes := upsert (fun (r : ScopeRec) => r.line) { line := line, party := p, scope := sc } s.scopes }

/-- The records of a team's synchronising access to the lines of its pieces (R160); one of space L through the overflow window leaves
none (DESIGN CHOICE, notes/assumptions/43.md). -/
def State.recordScopes (s : State) (t : Team) (sp : Space) (sc : BitVec 3) (ps : List Piece) : State :=
  if sp = .L then s else
  (ps.filter (fun p => p.ap ≤ 1)).foldl (fun s p => s.setScope (p.home / 128) (s.party t) sc.toNat) s

/-! ### Every active lane -/

/-- One access of an instruction: the lane it is reported for, its address, its pieces. -/
structure Unit1 where
  lane : Nat
  va : Dw
  ps : List Piece
  deriving DecidableEq, Repr

/-- Every access of an instruction checked in ascending lane order before any is performed (R99, R162). -/
def State.resolveAll (s : State) (t : Team) (sp : Space) (base : SReg) (o : AccOpt) :
    List (Nat × Dw) → State × (FaultInfo ⊕ List Unit1)
  | [] => (s, .inr [])
  | (l, va) :: r =>
    match s.resolve t sp base o l va with
    | (s, .inl f) => (s, .inl { f with lane := some l })
    | (s, .inr ps) =>
      match o.sync.bind (fun sc => s.scopeFault t sp sc va ps) with
      | some f => (s, .inl { f with lane := some l })
      | none =>
        match s.resolveAll t sp base o r with
        | (s, .inl f) => (s, .inl f)
        | (s, .inr us) => (s, .inr ({ lane := l, va := va, ps := ps } :: us))

/-- A and D set for the pages of the accesses, before they are performed (R453). -/
def State.markAll (s : State) (us : List Unit1) (wr : Bool) : State :=
  us.foldl (fun s u => u.ps.foldl (fun s p => s.markAD p.ea wr) s) s

/-- A group whose team did what FRD may not follow (R58, Table 1-6). -/
def State.effect (s : State) (t : Team) : State := s.modGroup t.gslot (fun g => { g with effect := true })

/-! ### Line requests (R122 to R124) -/

/-- Slots and issue queue of a core (R122, Table 3-6) (DESIGN CHOICE, notes/assumptions/99.md). -/
def slotsOf (core : Nat) : Nat := if core < 192 then 224 else 128

/-- The line requests of a core's accesses, oldest first, and those of its prefetches. -/
def State.coreReqs (s : State) (core : Nat) : List (Nat × Bool) :=
  (s.acc.filter (s.onCore core)).flatMap (·.reqs)
    ++ (s.pfs.filter (fun p => p.core == core)).filterMap (fun p => p.slot.map (fun l => (l, true)))

/-- The number under which a line of the host is requested. -/
def hostReq (line : Nat) : Nat := line + 2 ^ 60

/-- The lines of a list that lie in the bank of a line; a line of the host lies in none. -/
def sameBank (xs : List Nat) (l : Nat) : Nat :=
  (xs.filter (fun x => x < 2 ^ 60 && Config.bankOf x == Config.bankOf l)).length
/-- The lines of a list that lie in the L2 slice of a line; a line of the host lies in none. -/
def sameSlice (xs : List Nat) (l : Nat) : Nat :=
  (xs.filter (fun x => x < 2 ^ 60 && Config.sliceOf x == Config.sliceOf l && dieOfPa (x * 128) == dieOfPa (l * 128))).length

/-- A line may take a slot beside the lines that hold one: 0 yes, 1 no slot, 2 the bank cap, 3 the slice cap (R122, R123). -/
def slotFor (n : Nat) (held : List Nat) (l : Nat) : Nat :=
  if n ≤ held.length then 1
  else if 2 ^ 60 ≤ l then 0
  else if n / 8 ≤ sameBank held l then 2
  else if n / 4 ≤ sameSlice held l then 3
  else 0

/-- New lines given slots, in order: each with whether it has one, and how many the bank and slice caps held back. -/
def giveSlots (n : Nat) : List Nat → List Nat → List (Nat × Bool) × Nat × Nat
  | _, [] => ([], 0, 0)
  | held, l :: r =>
    let k := slotFor n held l
    let (rs, b, c) := giveSlots n (if k = 0 then l :: held else held) r
    ((l, k == 0) :: rs, b + b2n (k == 2), c + b2n (k == 3))

/-- Requests that a service team's queue holds; later ones of the cluster wait in the issue queues of their cores (R317). -/
def svcRoom : Nat := 4096

/-- The requests of a cluster's queue that its service team has room for, oldest first. -/
def State.svcQueue (s : State) (cluster : Nat) : List SvcReq := (s.svc.filter (fun r => r.cluster == cluster)).take svcRoom

/-- Atomics of a core that wait in its issue queue (R317). -/
def State.svcWaiting (s : State) (core : Nat) : Nat :=
  ((List.range Config.clusters).flatMap (fun c => (s.svc.filter (fun r => r.cluster == c)).drop svcRoom)).foldl
    (fun n r => n + b2n (r.pkt.isNone && (s.team r.team).any (fun t => (s.groupOf t).core == core))) 0

/-- The requests of new lines on a core: none when they do not fit in slots and issue queue (R124) (DEDUCED, notes/assumptions/51.md). -/
def State.askSlots (s : State) (core : Nat) (lines : List Nat) : Option (List (Nat × Bool) × Nat × Nat) :=
  let old := s.coreReqs core
  let held := (old.filter (·.2)).map (·.1)
  let r := giveSlots (slotsOf core) held lines
  if (old.filter (fun x => !x.2)).length + (r.1.filter (fun x => !x.2)).length + s.svcWaiting core ≤ 256 then some r else none

/-- The lines that a cap holds back as requests are given slots (R123). -/
def cappedLines (n : Nat) : List Nat → List Nat → List Nat
  | _, [] => []
  | held, l :: r =>
    let k := slotFor n held l
    (if 2 ≤ k then [l] else []) ++ cappedLines n (if k = 0 then l :: held else held) r

/-- The new lines on a core that a cap holds back (R120). -/
def State.heldBack (s : State) (core : Nat) (lines : List Nat) : List Nat :=
  cappedLines (slotsOf core) (((s.coreReqs core).filter (·.2)).map (·.1)) lines

/-- A counter of a context raised; it saturates (R120). -/
def Ctx.count (c : Ctx) (i n : Nat) : Ctx :=
  if n = 0 then c else
  let old := ((c.cnts.find? (fun p => p.1 == i)).map (·.2)).getD 0
  { c with cnts := upsert (·.1) (i, BitVec.ofNat 64 (min (old.toNat + n) (2 ^ 64 - 1))) c.cnts }

/-- The queued requests of one access given slots beside the lines that hold one: the lines that hold one then, the requests,
and of the lines that hold none those that the bank cap and the slice cap hold back. -/
def regrant (n : Nat) : List Nat → List (Nat × Bool) → List Nat × List (Nat × Bool) × List Nat × List Nat
  | held, [] => (held, [], [], [])
  | held, q :: r =>
    let k := if q.2 then 1 else slotFor n held q.1
    let x := regrant n (if k = 0 then q.1 :: held else held) r
    (x.1, (q.1, q.2 || k == 0) :: x.2.1, if k = 2 then q.1 :: x.2.2.1 else x.2.2.1, if k = 3 then q.1 :: x.2.2.2 else x.2.2.2)

/-- The queued requests of a core take slots that became free, oldest first among those below their caps (R124); one that a cap
holds back for the first time counts (R120). -/
def State.grantSlots (s : State) (core : Nat) : State :=
  let held := ((s.coreReqs core).filter (·.2)).map (·.1)
  (s.acc.foldl (fun (r : State × List Nat) a =>
    if !s.onCore core a then r else
    let (held, qs, b, c) := regrant (slotsOf core) r.2 a.reqs
    let b := b.filter (fun l => !a.capd.contains l)
    let c := c.filter (fun l => !a.capd.contains l)
    let s := { r.1 with acc := r.1.acc.map (fun (x : Access) =>
      if x.id = a.id then { x with reqs := qs, capd := x.capd ++ b ++ c } else x) }
    (s.modCtx a.ctx (fun x => (x.count 7 b.length).count 8 c.length), held)) (s, held)).1

/-- Local G lines and host lines of accesses (a host line apart from every local one). -/
def reqLines (us : List Unit1) : List Nat :=
  ((us.flatMap (·.ps)).filter (fun p => p.ap == 2 || (p.ap == 0 && decide (p.addr < 2 ^ 80)))).flatMap (fun p =>
    (List.range ((p.addr + p.n - 1) / 128 - p.addr / 128 + 1)).map (fun i =>
      if p.ap = 2 then hostReq (p.addr / 128 + i) else p.addr / 128 + i)) |>.dedup

/-! ### The L1 (R109 to R112) -/

/-- The byte address of a remote line by its home. -/
def RemLine.home (r : RemLine) : Nat := homeP (r.peer.getD 512) r.addr

/-- The lines of an L1 of 64 KiB (Table 0-2). -/
def l1Lines : Nat := 512

/-- A line put into the L1 of a core, in the place of what it held of it, and of the line it has held longest where it is full (R112;
DESIGN CHOICE, notes/assumptions/8.md). -/
def State.l1Put (s : State) (core ln : Nat) (d : Line) : State :=
  s.modCore core (fun c => { c with l1 := ((ln, d) :: c.l1.filter (fun x => x.1 != ln)).take l1Lines })

/-- The L1 of a core drops a line, and does not take one that is on its way for a load or a prefetch. -/
def State.l1Drop (s : State) (core : Nat) (hit : Nat → Bool) : State :=
  { s.modCore core (fun c => { c with l1 := c.l1.filter (fun x => !hit x.1) }) with
    acc := s.acc.map (fun (a : Access) =>
      if a.plain && s.onCore core a && a.rem.any (fun r => hit (r.home / 128)) then { a with plain := false } else a)
    pfs := s.pfs.map (fun (p : PfReq) => if p.core == core && hit p.line then { p with l1 := false } else p) }

/-- A line of another module or the host comes for the L1 of a core, for the access or prefetch of this number: it is put there, but where
another request of the core for it is on its way, whose answer may be the older, none of them enters (R135). -/
def State.l1Arrive (s : State) (core id ln : Nat) (d : Line) : State :=
  if s.acc.any (fun a => a.id != id && a.load && s.onCore core a && a.rem.any (fun r => r.home / 128 == ln))
      || s.pfs.any (fun (p : PfReq) => p.id != id && p.core == core && p.line == ln) then s.l1Drop core (fun l => l == ln)
  else s.l1Put core ln d

/-- A store or atomic to a line, by its home, is not performed: the L1 does not allocate the line (R136). -/
def State.lineBusy (s : State) (ln : Nat) : Bool :=
  s.svc.any (fun r => r.pkt.isNone && r.addr / 128 == ln) ||
    s.acc.any (fun a => a.write && a.rem.any (fun r => r.home / 128 == ln)) ||
    s.det.any (fun e => e.addr / 128 == ln)

/-- The part [lo, hi) of one line as a plain load of space G may see it: a line the core's L1 holds may be used as it
was when it was loaded (later loads then see nothing older, R135), else the line enters the L1 unless a store or atomic to it
is under way (R110, R136). -/
def State.l1Line (s : State) (core ln lo hi : Nat) : State × List Byte :=
  let cur := Mem.readN s.mem lo (hi - lo)
  let fill (s : State) : State :=
    if s.lineBusy ln then s.modCore core (fun c => { c with l1 := c.l1.filter (fun x => x.1 != ln) })
    else s.l1Put core ln (lineNat (Mem.readN s.mem (ln * 128) 128))
  match (s.core core).l1.find? (fun x => x.1 == ln) with
  | some (_, d) =>
    let old := (List.range (hi - lo)).map (fun i => Line.byte d (lo % 128 + i))
    if old = cur then (s, cur)
    else
      let (s, b) := s.choose
      if b then (s, old) else (fill s, cur)
  | none => (fill s, cur)

/-- The bytes of a local piece as a plain load of space G may see them (DESIGN CHOICE, notes/assumptions/8.md). -/
def State.l1Bytes (s : State) (core a n : Nat) : State × List Byte :=
  ((List.range ((a + n - 1) / 128 - a / 128 + 1)).map (fun i => a / 128 + i)).foldl
    (fun (r : State × List Byte) ln =>
      let (s, bs) := r.1.l1Line core ln (max a (ln * 128)) (min (a + n) (ln * 128 + 128))
      (s, r.2 ++ bs)) (s, [])

/-- A store or atomic of a core invalidates the lines it targets in that core's L1, those on their way to it too (R109, R136). -/
def State.dropL1 (s : State) (core : Nat) (us : List Unit1) : State :=
  let ps := us.flatMap (·.ps)
  s.l1Drop core (fun l => ps.any (fun p => decide (p.home / 128 ≤ l) && decide (l ≤ (p.home + p.n - 1) / 128)))

/-- Lines a context prefetched, by home, are used by a demand access: counted as used, late while they are in flight and else
early (R120, R121) (DEDUCED, notes/assumptions/44.md). -/
def State.usePf (s : State) (c : Nat) (lines : List Nat) : State :=
  if (s.ctx c).pfl = [] then s else
  lines.foldl (fun s l =>
    let n := ((s.ctx c).pfl.filter (fun x => x == l)).length
    if n = 0 then s else
    let late := min n ((s.pfs.filter (fun p => p.ctx == c && p.line == l)).length)
    s.modCtx c (fun x =>
      (({ x with pfl := x.pfl.filter (fun y => y != l) }.count 1 n).count 3 (n - late)).count 4 late)) s

/-- The lines of pieces, by home. -/
def pieceLines (ps : List Piece) : List Nat := (ps.flatMap Piece.lines).dedup

/-- The lines of accesses, by home. -/
def homeLines (us : List Unit1) : List Nat := ((us.flatMap (·.ps)).flatMap Piece.lines).dedup

/-- The lines of a translated run of an engine or a queue are used (R120). -/
def State.useRun (s : State) (c : Nat) (ps : List Page) (va n : Nat) : State :=
  if (s.ctx c).pfl = [] then s else s.usePf c (pieceLines (piecesOf ps va n))

/-! ### Packets and batches (R310, R311) -/

/-- A batch is held back: too little allowance, or an earlier batch that waits on its peer's allowance, or an earlier one of
its own party (R310, R311). -/
def State.batchHeld (s : State) (before : List Batch) (b : Batch) : Bool :=
  s.allowance b.peer < b.pkts.length
    || before.any (fun x => (x.peer == b.peer && decide (s.allowance x.peer < x.pkts.length))
        || (b.team.isSome && x.team == b.team))

/-- The waiting batches sent as far as they may be, in the order in which they began to wait. -/
def State.sendBatches (s : State) : State :=
  let bs := s.batches
  bs.foldl (fun s b =>
    let before := s.batches.takeWhile (fun x => x.id != b.id)
    if s.batchHeld before b then s
    else ({ s with batches := s.batches.filter (fun x => x.id != b.id) }).sendPkts b.peer b.pkts) s

/-- A list cut into runs of at most k. -/
def chunksUp {α : Type} (k : Nat) : Nat → List α → List (List α)
  | 0, _ => []
  | n + 1, xs => if xs.isEmpty then [] else xs.take k :: chunksUp k n (xs.drop k)

/-- The packets of an instruction queued in batches of at most 32 and CAP, in ascending order of target (R311). -/
def State.queuePkts (s : State) (team : Option Nat) (ps : List Packet) : State :=
  let peers := (ps.map (fun (p : Packet) => p.dst)).dedup
  let s := peers.foldl (fun s m =>
    let mine := ps.filter (fun (p : Packet) => p.dst == m)
    let k := min 32 (s.peer m).cap
    (chunksUp k mine.length mine).foldl (fun s xs =>
      let (s, i) := s.fresh
      { s with batches := s.batches ++ [{ id := i, peer := m, team := team, pkts := xs }] }) s) s
  s.sendBatches

/-! ### Lines of other modules that an engine reads (R310, R311, R360) -/

/-- The lines of other modules in a translated run: module, PA of the line, VA of the line, first VA wanted, STRONG,
whether its leaf has a KID. -/
def farRun (ps : List Page) (va n : Nat) : List (Nat × Nat × Nat × Nat × Bool × Bool) :=
  (List.range ((va % 128 + n + 127) / 128)).filterMap (fun k =>
    let ln := (va / 128 + k) * 128
    let a := max va ln
    let (p, pa) := pageByte ps va (a - va)
    if p.ap = 1 then some (p.peer, pa / 128 * 128, ln, a, p.ord == 2, p.kid) else none)

/-- What an operation has asked of other modules for a segment or slot of it. -/
def State.farOf (s : State) (op no : Nat) : List FarLine := s.far.filter (fun (x : FarLine) => x.op == op && x.no == no)

/-- A line asked for has neither come nor been lost. -/
def FarLine.waits (x : FarLine) : Bool := x.got.isNone && x.lost.isNone

/-- An operation waits for a line of another module. -/
def State.farWaits (s : State) (op : Nat) : Bool := s.far.any (fun (x : FarLine) => x.op == op && x.waits)

/-- The lines of a segment or slot are used, or wanted no more. -/
def State.dropFar (s : State) (op no : Nat) : State :=
  { s with far := s.far.filter (fun (x : FarLine) => !(x.op == op && x.no == no)) }

/-- Lines asked for: one read request each (R310), in batches that wait for the allowances like a team's (R311, R360). -/
def State.askFar (s : State) (ctx op no : Nat) (ls : List (Nat × Nat × Nat × Nat × Bool × Bool)) : State :=
  let r := ls.foldl (fun (r : State × List Packet) l =>
    if r.1.far.any (fun (x : FarLine) => x.op == op && x.no == no && x.va == l.2.2.1) then r
    else
      let (s, i) := r.1.fresh
      let rid := BitVec.ofNat 32 i
      let x : FarLine := { op := op, no := no, va := l.2.2.1, want := l.2.2.2.1, rid := rid, got := none, lost := none }
      ({ s with far := s.far ++ [x] },
        r.2 ++ [{ s.mkPkt ctx l.1 0 l.2.1 rid l.2.2.2.2.2 with so := l.2.2.2.2.1 }])) (s, [])
  r.1.queuePkts none r.2

/-- The bytes of lines that have come, in order. -/
def farBytes (xs : List FarLine) : List Byte :=
  xs.flatMap (fun (x : FarLine) => (List.range 128).map (fun i => Line.byte (x.got.getD 0) i))

/-- The bytes of a translated run as an operation reads them: those of other modules from the lines that came for it. -/
def State.readFor (s : State) (op : Nat) (ps : List Page) (va n : Nat) : State × List Byte :=
  let (s', bs) := s.readRun ps va n
  if ps.all (fun p => p.ap != 1) then (s', bs)
  else
    (s', (enum bs).map (fun b =>
      if (pageByte ps va b.1).1.ap = 1 then
        match s.far.find? (fun (x : FarLine) => x.op == op && x.va == (va + b.1) / 128 * 128) with
        | some x => Line.byte (x.got.getD 0) ((va + b.1) % 128)
        | none => b.2
      else b.2))

/-- The bytes of a run, by index, that lie in words which came with an error (R308). -/
def farBad (xs : List FarLine) (va n : Nat) : List Nat :=
  if xs.all (fun x => x.bad == 0) then []
  else
    (List.range n).filter (fun i =>
      xs.any (fun x => x.va == (va + i) / 128 * 128 && x.bad.getLsbD ((va + i) % 128 / 8)))

/-- The failure that the bytes of a run met on another module. -/
def State.farLost (s : State) (op va n : Nat) : Option FaultInfo :=
  ((s.far.find? (fun (x : FarLine) => x.op == op && x.lost.isSome && decide (x.va < va + n) && decide (va < x.va + 128))).bind
    (·.lost)).orElse (fun _ =>
      (farBad (s.far.filter (fun (x : FarLine) => x.op == op)) va n).head?.map (fun i => mkF .copySegment .dataError (va + i) 0))

/-- A team whose batches wait is descheduled in fabric-wait (R311). -/
def State.retireFabric (s : State) (t : Team) : State :=
  match s.batches.find? (fun b => b.team == some t.key) with
  | some b => (s.traceTeam t 8 (b.peer * 2 ^ 31)).retireWait t (.fabric b.peer)
  | none => s.retire t

/-! ### Remote lines (R310) -/

/-- A byte of an access in a remote line: target, line, ordering, lane and offset there, offset in the line, value, the
lane reported for it and its VA. -/
structure RByte where
  peer : Option Nat
  line : Nat
  so : Bool
  kid : Bool
  lane : Nat
  off : Nat
  o : Nat
  v : Byte
  rep : Nat
  va : Nat
  deriving DecidableEq, Repr

/-- The order of targets and lines (R310): peers ascending, then the host. -/
def RByte.key (b : RByte) : Nat := (b.peer.getD 512) * 2 ^ 60 + b.line

/-- A number put into an ascending list without repeats. -/
def insAsc (x : Nat) : List Nat → List Nat
  | [] => [x]
  | y :: r => if x < y then x :: y :: r else if x = y then y :: r else y :: insAsc x r

/-- The remote bytes of an access: `at_ u i` gives lane, offset and value of byte i of its unit, none where the byte is
not accessed. -/
def remoteBytes (us : List Unit1) (at_ : Unit1 → Nat → Option (Nat × Nat × Byte)) : List RByte :=
  us.flatMap (fun u =>
    (u.ps.foldl (fun (r : Nat × List RByte) p =>
      (r.1 + p.n,
        if p.ap = 0 then r.2 else
        r.2 ++ (List.range p.n).filterMap (fun i =>
          (at_ u (r.1 + i)).map (fun x =>
            { peer := if p.ap = 1 then some p.peer else none, line := (p.addr + i) / 128, so := p.ord == 2, kid := p.kid,
              lane := x.1, off := x.2.1, o := (p.addr + i) % 128, v := x.2.2,
              rep := u.lane, va := u.va.toNat + r.1 + i })))) (0, [])).2)

/-- The remote lines of an access, each with a request identifier, and the bytes of each. -/
def State.remLines (s : State) (bs : List RByte) : State × List (RemLine × List RByte) :=
  (bs.foldl (fun ks b => insAsc b.key ks) []).foldl (fun (r : State × List (RemLine × List RByte)) k =>
    let mine := bs.filter (fun b => b.key == k)
    match mine with
    | [] => r
    | b :: _ =>
      let (s, i) := r.1.fresh
      (s, r.2 ++ [({ rid := BitVec.ofNat 32 i, peer := b.peer, addr := b.line * 128,
                     lanes := mine.map (fun x => (x.lane, x.off, x.o))
                     lane := ((minBy (fun (x : RByte) => x.rep) mine).map (·.rep)).getD 0
                     va := ((minBy (fun (x : RByte) => x.rep) mine).map (·.va)).getD 0
                     so := mine.any (·.so) }, mine)])) (s, [])

/-- The bytes of remote lines that a plain load takes from the core's L1, and those it asks for: a line that the L1 holds may
serve (R110). -/
def State.l1Far (s : State) (core : Nat) (plain : Bool) (bs : List RByte) : State × List RByte × List RByte :=
  if !plain then (s, [], bs) else
  (bs.foldl (fun ks b => insAsc b.key ks) []).foldl (fun (r : State × List RByte × List RByte) k =>
    let mine := bs.filter (fun b => b.key == k)
    match mine with
    | [] => r
    | b :: _ =>
      match (r.1.core core).l1.find? (fun x => x.1 == homeP (b.peer.getD 512) (b.line * 128) / 128) with
      | none => (r.1, r.2.1, r.2.2 ++ mine)
      | some (_, d) =>
        let (s, hit) := r.1.choose
        if b.so || !hit then (s, r.2.1, r.2.2 ++ mine)
        else (s, r.2.1 ++ mine.map (fun x => { x with v := Line.byte d x.o }), r.2.2)) (s, [], [])

/-- Bytes of a location by TYPE (R315). -/
def atomSize (ty : BitVec 3) : Nat :=
  match ty.toNat with
  | 2 => 8
  | 3 => 8
  | 5 => 2
  | 6 => 2
  | _ => 4

/-! ### A team's own earlier accesses (Table 4-2) -/

/-- A queued atomic of a team that a later access to a piece comes after: one that overlaps it, or is like it on a STRONG page
(R139, R165). A later atomic joins the same queue behind one that overlaps it. -/
def SvcReq.first (r : SvcReq) (atom : Bool) (p : Piece) : Bool :=
  p.ap == 0 && ((!atom && decide (r.addr < p.addr + p.n) && decide (p.addr < r.addr + atomSize r.ty))
    || (r.so && p.ord == 2 && decide (p.addr < 2 ^ 80)))

/-- A line of a peer or the host that a team has asked for, or written, before a later access to a piece that overlaps it in bytes, or
that goes to a STRONG page of the host as it does; the fabric keeps the order of a peer's STRONG pages itself (R139, R163, R165). -/
def RemLine.first (r : RemLine) (p : Piece) : Bool :=
  let both := r.lanes.any (fun x => decide (p.addr ≤ r.addr + x.2.2) && decide (r.addr + x.2.2 < p.addr + p.n))
  match r.peer with
  | some m => p.ap == 1 && m == p.peer && !(r.so && p.ord == 2) && both
  | none => p.ap == 2 && (both || (r.so && p.ord == 2))

/-- An access is under way outside the home slices of this module, or in a service queue. -/
def Access.away (a : Access) : Bool := !a.rem.isEmpty || a.svc != 0

/-- An access comes before those that a team makes now: its own, or one that a barrier has ordered before them (R155, R329). -/
def State.before (s : State) (k : Nat) (a : Access) : Bool := a.team == k || (s.team k).any (fun t => t.after.contains a.id)

/-- The accesses that a team's release orders, not performed yet, that are not its own (R155). -/
def State.afterBar (s : State) (t : Team) : List Nat := (s.acc.filter (fun a => t.after.contains a.id && a.away)).map (·.id)

/-- The accesses of a team, not performed yet, that come before an access of it to these pieces in the order of Table 4-2 (R139,
R141; DEDUCED, notes/assumptions/90.md): the access waits for them. -/
def State.earlier (s : State) (k : Nat) (atom : Bool) (us : List Unit1) : List Nat :=
  let ps := us.flatMap (·.ps)
  (s.acc.filter (fun a => s.before k a && ((decide (0 < a.svc) && s.svc.any (fun r => r.access == some a.id && ps.any (r.first atom)))
      || a.rem.any (fun r => ps.any r.first)))).map (·.id)

/-- A store or atomic that a team issued before an operation of its own, to bytes that the operation reads, is not performed
yet: the operation reads them later (R148). -/
def State.behind (s : State) (team op : Nat) (ps : List Piece) : Bool :=
  s.acc.any (fun a => s.before team a && a.write && decide (a.id < op) &&
    ((decide (0 < a.svc) && s.svc.any (fun r => r.access == some a.id && ps.any (r.first false)))
      || a.rem.any (fun r => ps.any r.first)))

/-- The packets of the peer lines: reads (TYPE 0), or writes (TYPE 2) with mask and data. -/
def State.linePkts (s : State) (ctx : Nat) (wr : Bool) (ls : List (RemLine × List RByte)) : List Packet :=
  ls.filterMap (fun l =>
    l.1.peer.map (fun m =>
      let md := lineOf (l.2.map (fun b => (b.o, b.v)))
      { s.mkPkt ctx m (if wr then 2 else 0) l.1.addr l.1.rid (l.2.any (·.kid)) with
        so := l.2.any (·.so), mask := if wr then md.1 else 0, data := if wr then md.2 else 0 }))

/-! ### Accesses from issue to completion -/

/-- Every earlier store and atomic of a team is performed and acknowledged, and no load of it is under way outside the
module (R164, R322) (DEDUCED, notes/assumptions/45.md); the same of what a barrier has ordered before it (R155). -/
def State.settled (s : State) (k : Nat) : Bool :=
  !s.acc.any (fun a => a.team == k && (!a.load || a.away)) && ((s.team k).map s.afterBar).getD [] == []

/-- An access that has begun counts in CNT.LD or CNT.ST (R307). -/
def Team.countIn (t : Team) (load : Bool) : Team :=
  if load then { t with cnt := { t.cnt with ld := t.cnt.ld + 1 } }
  else { t with cnt := { t.cnt with st := t.cnt.st + 1 } }

/-- An access that has completed leaves its counter. -/
def Team.countOut (t : Team) (load : Bool) : Team :=
  if load then { t with cnt := { t.cnt with ld := t.cnt.ld - 1 } }
  else { t with cnt := { t.cnt with st := t.cnt.st - 1 } }

/-- A counter at 0xFFFF admits no further access (R307). -/
def Team.countFull (t : Team) (load : Bool) : Bool := if load then t.cnt.ld == 0xFFFF else t.cnt.st == 0xFFFF

/-- The bytes of a lane in a buffer, from an offset. -/
def bufBytes (buf : List (Nat × Nat × Byte)) (lane off n : Nat) : List Byte :=
  (List.range n).map (fun i => ((buf.find? (fun x => x.1 == lane && x.2.1 == off + i)).map (·.2.2)).getD 0)

/-- A load's value extended to a word by SZ (R302). -/
def extLoad (z : BitVec 3) (bs : List Byte) : Wd :=
  let x := leNat bs
  match z.toNat with
  | 1 => (BitVec.ofNat 8 x).signExtend 32
  | 3 => (BitVec.ofNat 16 x).signExtend 32
  | _ => BitVec.ofNat 32 x

/-- A load's value extended to a doubleword by SZ (R309). -/
def extScalar (z : BitVec 3) (bs : List Byte) : Dw :=
  let x := leNat bs
  match z.toNat with
  | 1 => (BitVec.ofNat 8 x).signExtend 64
  | 3 => (BitVec.ofNat 16 x).signExtend 64
  | 5 => (BitVec.ofNat 32 x).signExtend 64
  | _ => BitVec.ofNat 64 x

/-- Bytes of a vector load's element by SZ. -/
def ldSize (z : BitVec 3) : Nat :=
  match z.toNat with
  | 0 => 1
  | 1 => 1
  | 2 => 2
  | 3 => 2
  | 4 => 4
  | 5 => 8
  | _ => 128

/-- Bytes of a scalar load by SZ. -/
def ldSizeS (z : BitVec 3) : Nat :=
  match z.toNat with
  | 0 => 1
  | 1 => 1
  | 2 => 2
  | 3 => 2
  | 4 => 4
  | 5 => 4
  | _ => 8

/-- A vector destination written at completion: the loaded lanes, and zero in the lanes that Z = 1 clears; lanes that
died since are not written. -/
def Team.loadV (t : Team) (d : VReg) (mask zero : Mask) (u : Bool) (f : Nat → Wd) (l0 : Nat) : Team :=
  let alive := ~~~t.regs.dead
  if u && (zero &&& alive) == 0 then t.writeV d (mask &&& alive) (.u (f l0))
  else
    t.writeV d ((mask ||| zero) &&& alive)
      (.g ((List.range t.width).map (fun l => if mask.getLsbD l then f (if u then l0 else l) else 0)))

/-- The registers a completed access writes (R302, R303, R309, R315). -/
def Team.finish (t : Team) (a : Access) : Team :=
  match a.fin with
  | .none => t
  | .sca z d => t.setS d (extScalar z (bufBytes a.buf 0 0 (ldSizeS z)))
  | .vec z d mask zero u =>
    let l0 := (t.lanesOf mask).headD 0
    if z = 5 then
      let lo (l : Nat) : Wd := BitVec.ofNat 32 (leNat (bufBytes a.buf l 0 4))
      let hi (l : Nat) : Wd := BitVec.ofNat 32 (leNat (bufBytes a.buf l 4 4))
      (t.loadV d mask zero u lo l0).loadV (d + 1) mask zero u hi l0
    else t.loadV d mask zero u (fun l => extLoad z (bufBytes a.buf l 0 (ldSize z))) l0
  | .line d mask zero => t.loadV d mask zero false (fun l => BitVec.ofNat 32 (leNat (bufBytes a.buf l 0 4))) 0
  | .atomS ty d =>
    let x := leNat (bufBytes a.buf 0 0 (atomSize ty))
    t.setS d (if ty = 0 then (BitVec.ofNat 32 x).signExtend 64 else BitVec.ofNat 64 x)
  | .atomV ty d mask zero =>
    let n := atomSize ty
    if n = 8 then
      let lo (l : Nat) : Wd := BitVec.ofNat 32 (leNat (bufBytes a.buf l 0 4))
      let hi (l : Nat) : Wd := BitVec.ofNat 32 (leNat (bufBytes a.buf l 4 4))
      (t.loadV d mask zero false lo 0).loadV (d + 1) mask zero false hi 0
    else t.loadV d mask zero false (fun l => BitVec.ofNat 32 (leNat (bufBytes a.buf l 0 n))) 0

/-- The lanes of its vector destinations that a completed access writes. -/
def Finish.lanes : Finish → Mask
  | .vec _ _ mask zero _ => mask ||| zero
  | .line _ mask zero => mask ||| zero
  | .atomV _ _ mask zero => mask ||| zero
  | _ => 0

/-- What a completed access wrote holds no error any more. -/
def Team.landed (t : Team) (a : Access) : Team :=
  let w := a.fin.lanes &&& ~~~t.regs.dead
  let whole (k : Nat) : Bool := (t.live &&& wordMask k) &&& ~~~w == 0
  if t.errs = [] then t else
  { t with errs := t.errs.filter (fun e =>
      !(e.dest.any a.dests.contains &&
        (match e with
         | .vlane _ l => w.getLsbD l
         | .vword _ k => w != 0 && whole k
         | .vside _ => w != 0 && t.full w
         | _ => true))) }

/-- The lanes that die with an access: its bad lanes, or every lane of a U load (R308). -/
def Team.badLanes (t : Team) (a : Access) : List Nat :=
  match a.fin with
  | .vec _ _ mask _ true => if a.bad = [] then [] else t.lanesOf mask
  | _ => a.bad

/-- The access made once for the team: its errors end the team (R308, R321). -/
def Access.single (a : Access) : Bool :=
  match a.fin with
  | .sca _ _ => true
  | .atomS _ _ => true
  | _ => false

/-- What waits for an access forgets it. -/
def State.forget (s : State) (id : Nat) : State :=
  { s with
    acc := s.acc.filter (fun a => a.id != id)
    recs := s.recs.map (fun (r : Rec) => { r with waits := r.waits.filter (fun i => i != id) })
    dfl := s.dfl.map (fun (e : DEntry) => { e with waits := e.waits.filter (fun i => i != id) }) }

/-- A team whose last awaited load has completed parks (R462). -/
def State.parkIfDone (s : State) (k : Nat) : State :=
  match s.team k with
  | some t =>
    match t.st with
    | .parking f => if s.openLoads k then s else s.formRec { t with st := .running } f
    | _ => s
  | none => s

/-- A team still holds registers that a load may write. -/
def Team.holds (t : Team) : Bool :=
  match t.st with
  | .ended _ => false
  | .parked _ => false
  | .swapped => false
  | _ => true

/-- A team has ended. -/
def Team.isEnded (t : Team) : Bool :=
  match t.st with
  | .ended _ => true
  | _ => false

/-- An access completes: registers, counters, lane deaths (R302, R307, R308); those of a team that is parked or swapped out wait
until it has its registers again. -/
def State.complete (s : State) (a : Access) : State :=
  let s := s.forget a.id
  match s.team a.team with
  | none => s
  | some t =>
    let t := t.countOut a.load
    let s := s.putTeam t
    if !t.holds then
      if a.bad = [] ∨ t.isEnded then s
      else s.putTeam { t with owed := t.owed ++ t.badLanes a, owedAll := t.owedAll || a.single }
    else if a.bad ≠ [] ∧ a.single then s.loseTeam t .none
    else
      let (s, t) := s.killLanes t (t.badLanes a)
      let t := (t.finish a).landed a
      let s := s.putTeam t
      let s := if a.acq then s.invL1 (s.groupOf t).core else s
      if t.allDead then s.loseTeam t .none else s.parkIfDone t.key

/-- A line that comes for a plain load enters the L1 of its core, unless its page is STRONG or a store or atomic to it is under
way (R110, R136). -/
def State.l1Come (s : State) (a : Access) (r : RemLine) (d : Line) : State :=
  if !a.plain || r.so || s.lineBusy (r.home / 128) then s
  else
    match s.coreOf a with
    | some core => s.l1Arrive core a.id (r.home / 128) d
    | none => s

/-- A team whose access has begun goes on: behind its waiting batches (R311), or once an acquire has completed (Table 4-2). -/
def State.retireAcc (s : State) (t : Team) (a : Access) : State :=
  if s.batches.any (fun b => b.team == some t.key) then s.retireFabric t
  else if a.await then s.retireWait t (.accs [a.id])
  else s.retire t

/-- An access with nothing outstanding completes. -/
def State.settle (s : State) (a : Access) : State :=
  if a.loc || !a.rem.isEmpty || a.svc ≠ 0 || !a.reqs.isEmpty then
    { s with acc := s.acc.map (fun x => if x.id = a.id then a else x) }
  else s.complete a

end Sys2Proof.Machine
end

