-- ==== Sys2Proof/Machine/Memory.lean ====
section
/-! DEFINITION. Majors 8 to 28: loads, stores and prefetches, and the return of their line requests (R300 to R311). -/

namespace Sys2Proof.Machine

/-! ### Loads -/

/-- The word a vector or scalar access arms the address monitor on: that of the first byte, at an offset of its last unit (R326;
DESIGN CHOICE where the bytes lie in two words, notes/assumptions/88.md); no word of space L. -/
def armWord (sp : Space) (us : List Unit1) (off : Nat) : Option Nat :=
  if sp = .L then none else
  us.getLast?.bind (fun u => u.ps.head?.bind (fun p =>
    some ((p.home + off) / 8 * 8)))

/-- The local bytes of an access and the lanes that meet poison: per unit, byte index and value. -/
def State.localBytes (s : State) (core : Nat) (plain : Bool) (us : List Unit1) :
    State × List (Unit1 × Nat × Byte × Bool) :=
  us.foldl (fun (r : State × List (Unit1 × Nat × Byte × Bool)) u =>
    let (s, xs, _) := u.ps.foldl (fun (q : State × List (Unit1 × Nat × Byte × Bool) × Nat) p =>
      if p.ap ≠ 0 then (q.1, q.2.1, q.2.2 + p.n)
      else
        let (s, bs) := if plain && p.ord != 2 then q.1.l1Bytes core p.addr p.n
          else (q.1, Mem.readN q.1.mem p.addr p.n)
        (s, q.2.1 ++ (enum bs).map (fun b => (u, q.2.2 + b.1, b.2, s.poisoned (p.addr + b.1) 1)), q.2.2 + p.n))
      (r.1, [], 0)
    (s, r.2 ++ xs)) (s, [])

/-- What a load does beyond its units: whether the L1 may serve it, lane and offset of each byte, finish, registers,
whether it acquires for the L1, the scope of a synchronising load, the word it arms the monitor on. -/
structure LoadPlan where
  plain : Bool
  at_ : Unit1 → Nat → Option (Nat × Nat)
  fin : Finish
  dests : List Dest
  acq : Bool
  sync : Option (BitVec 3)
  arm : Option Nat

/-- A checked load issues, once what the team must wait for has been performed: its local values are read as they stand, and it
completes when its line requests have returned (DEDUCED, notes/assumptions/7.md). -/
def State.startLoad (s : State) (t : Team) (sp : Space) (us : List Unit1) (pl : LoadPlan) : State :=
  let g := s.groupOf t
  let first := s.earlier t.key false us
  if first ≠ [] then s.deschedule t (.accs first) else
  let (s1, near, far) := s.l1Far g.core pl.plain (remoteBytes us (fun u i => (pl.at_ u i).map (fun y => (y.1, y.2, 0))))
  let all := reqLines us
  let need := all.filter (fun l =>
    if 2 ^ 60 ≤ l then far.any (fun b => b.peer.isNone && hostReq b.line == l)
    else !(pl.plain && (s.core g.core).l1.any (fun x => x.1 == l)))
  if t.countFull true then s.deschedule t (.slot need.length) else
  match s.askSlots g.core need with
  | none => s.deschedule t (.slot need.length)
  | some (reqs, nb, ns) =>
    let capd := s.heldBack g.core need
    let s := s1.markAll us false
    let t := (s.team t.key).getD t
    let s := (s.usePf g.ctx (homeLines us)).modCtx g.ctx (fun c => (c.count 7 nb).count 8 ns)
    let (s, loc) := s.localBytes g.core pl.plain us
    let hits := loc.filterMap (fun x => (pl.at_ x.1 x.2.1).map (fun y => (y.1, y.2, x.2.2.1, x.2.2.2)))
    let (s, rem) := s.remLines far
    let (s, id) := s.fresh
    let a : Access :=
      { id := id, ctx := g.ctx, team := t.key, load := true, loc := us.any (fun u => u.ps.any (fun p => p.ap != 1)) || rem.isEmpty,
        reqs := reqs, rem := rem.map (·.1), svc := 0,
        buf := hits.map (fun x => (x.1, x.2.1, x.2.2.1)) ++ near.map (fun b => (b.lane, b.off, b.v)),
        bad := ((hits.filter (·.2.2.2)).map (·.1)).dedup, acq := pl.acq, fin := pl.fin, dests := pl.dests,
        va := (us.head?.map (·.va)).getD 0, plain := pl.plain, await := pl.sync.isSome && !rem.isEmpty, capd := capd }
    let s := { s with acc := s.acc ++ [a] }
    let s := match pl.sync with
      | some sc => us.foldl (fun (s : State) (u : Unit1) => s.recordScopes t sp sc u.ps) s
      | none => s
    let s := if pl.acq then s.invL1 g.core else s
    let t := { t.countIn true with monitor := match pl.arm with
                                              | some w => some (w, false)
                                              | none => t.monitor }
    ((s.putTeam t).queuePkts (some t.key) (s.linePkts g.ctx false rem)).retireAcc t a

/-- Lane and offset of a byte of a lane's own access. -/
def ownByte (u : Unit1) (i : Nat) : Option (Nat × Nat) := some (u.lane, i)

/-- Lane and offset of a byte of a line: lane 32w + i / 4, if active (R303). -/
def lineByte (act : Mask) (u : Unit1) (i : Nat) : Option (Nat × Nat) :=
  let l := u.lane / 32 * 32 + i / 4
  if act.getLsbD l then some (l, i % 4) else none

/-- The lowest active lane of each mask word that holds one. -/
def wordLeads : List Nat → List Nat
  | [] => []
  | l :: r => l :: (wordLeads r).filter (fun x => x / 32 != l / 32)

/-- A vector source is U. -/
def VVal.isU : VVal → Bool
  | .u _ => true
  | _ => false

/-- The lanes for which a vector load makes an access: one a line of 32 lanes, one for a U address, else every active lane
(R301, R303). -/
def Team.ldWho (t : Team) (z : BitVec 3) (a : VAddr) (m : Option Msk) : List Nat :=
  let lanes := t.lanesOf (t.active m)
  if z = 6 then wordLeads lanes else if (t.v a.x).isU && a.sp != .L then lanes.take 1 else lanes

/-- How a vector load accesses, with the scope of a synchronising one. -/
def ldOpt (z : BitVec 3) (sc : Option (BitVec 3)) : AccOpt :=
  { k := .load, size := ldSize z, align := sc.isSome || z = 6, badSize := sc.isSome && z != 4 && z != 5, sync := sc }

/-- The registers a vector load writes. -/
def ldDests (z : BitVec 3) (d : VReg) : List Dest := if z = 5 then [.v d, .v (d + 1)] else [.v d]

/-- The effect of a vector load (R301 to R303). -/
def State.loadVec (s : State) (t : Team) (by_ : Bool) (sc : Option (BitVec 3)) (z : BitVec 3) (d : VReg) (a : VAddr)
    (m : Option Msk) : State :=
  let act := t.active m
  let lanes := t.lanesOf act
  if lanes = [] then s.retire t else
  let line := z = 6
  let uni := !line && (t.v a.x).isU && a.sp != .L
  match s.resolveAll t a.sp a.base (ldOpt z sc) ((t.ldWho z a m).map (fun l => (l, t.vAddr a l))) with
  | (s, .inl f) => s.park t f
  | (s, .inr us) =>
    let zero := if m.any (·.z) then t.regs.exec &&& ~~~act else 0
    let top := (lanes.getLast?).getD 0
    s.startLoad t a.sp us
      { plain := !by_ && sc.isNone && a.sp == .G
        at_ := if line then lineByte act else ownByte
        fin := if line then .line d act zero else .vec z d act zero uni
        dests := ldDests z d
        acq := sc.any (fun c => 2 ≤ c.toNat)
        sync := sc
        arm := if by_ || sc.isSome then armWord a.sp us (if line then 4 * (top % 32) else 0) else none }

/-- What issue checks of a vector load. -/
def ldInfo (z : BitVec 3) (d : VReg) (a : VAddr) (m : Option Msk) (bad : Option Detail) : Info :=
  { bad := match bad with
           | some x => some x
           | none => if z = 5 ∧ evenV d = false then some .registerPair else none
    pairs := if z = 5 then [d] else [], sr := [a.base], vr := [a.x],
    vw := if z = 5 then [d, d + 1] else [d], pr := mskP m, eng := 2, who := some m, xr := limRegs a.sp a.base }

/-- LD (R302): `y` is `.by`. -/
def execLd (y : Bool) (z : BitVec 3) (d : VReg) (a : VAddr) (m : Option Msk) (s : State) : Out :=
  issue (ldInfo z d a m (if z.toNat ≤ 6 then none else some .none)) (fun t s => s.loadVec t y none z d a m) s

/-- LD.ACQ (R132, R302): behaves as `.by`; a size other than 4 or 8 bytes raises alignment. -/
def execLdAcq (z sc : BitVec 3) (d : VReg) (a : VAddr) (m : Option Msk) (s : State) : Out :=
  issue (ldInfo z d a m (if !scopeOk sc then some .reservedScope else if z.toNat ≤ 6 then none else some .none))
    (fun t s => s.loadVec t true (some sc) z d a m) s

/-- How a scalar-form load accesses. -/
def ldsOpt (z : BitVec 3) (sc : Option (BitVec 3)) : AccOpt :=
  let n := ldSizeS z
  { k := .load, size := n, align := sc.isSome, badSize := sc.isSome && n != 4 && n != 8, sync := sc }

/-- The effect of a scalar-form load (R309): made once, in lane 0's slice for space L. -/
def State.loadSca (s : State) (t : Team) (sc : Option (BitVec 3)) (z : BitVec 3) (d : SReg) (a : SAddr) : State :=
  match s.resolveAll t a.sp a.base (ldsOpt z sc) [(0, t.sAddr a (ldSizeS z))] with
  | (s, .inl f) => s.park t f
  | (s, .inr us) =>
    s.startLoad t a.sp us
      { plain := false, at_ := ownByte, fin := .sca z d, dests := [.s d], acq := sc.any (fun c => 2 ≤ c.toNat),
        sync := sc, arm := if sc.isSome || a.sp == .G then armWord a.sp us 0 else none }

/-- What issue checks of a scalar-form load. -/
def ldsInfo (d : SReg) (a : SAddr) (bad : Option Detail) : Info :=
  { bad := bad, sr := saRegs a, sw := [d], eng := 2, xr := limRegs a.sp a.base }

/-- LD, scalar form (R309). -/
def execLdScalar (z : BitVec 3) (d : SReg) (a : SAddr) (s : State) : Out :=
  issue (ldsInfo d a (if z.toNat ≤ 6 then none else some .none)) (fun t s => s.loadSca t none z d a) s

/-- LD.ACQ, scalar form (R309). -/
def execLdScalarAcq (z sc : BitVec 3) (d : SReg) (a : SAddr) (s : State) : Out :=
  issue (ldsInfo d a (if !scopeOk sc then some .reservedScope else if z.toNat ≤ 6 then none else some .none))
    (fun t s => s.loadSca t (some sc) z d a) s

/-! ### Stores -/

/-- Bytes of a unit by index, in runs without gaps: index of the first, bytes. -/
def runsOf : List (Nat × Byte) → List (Nat × List Byte)
  | [] => []
  | (i, b) :: r =>
    match runsOf r with
    | (j, bs) :: q => if j = i + 1 then (i, b :: bs) :: q else (i, [b]) :: (j, bs) :: q
    | [] => [(i, [b])]

/-- Words of which an instruction writes every byte, though by several accesses, lose their poison (R481). -/
def State.wholeWords (s : State) (at_ : List Nat) : State :=
  if s.rel.poison = [] then s else
  { s with rel := { s.rel with poison := s.rel.poison.filter (fun d => !((List.range 8).all (fun i => at_.contains (8 * d + i)))) } }

/-- The local bytes that a unit writes. -/
def unitBytes (u : Unit1) (bs : List (Nat × Byte)) : List Nat :=
  (u.ps.foldl (fun (r : List Nat × Nat) p =>
    (r.1 ++ (if p.ap = 0 then (bs.filter (fun b => r.2 ≤ b.1 && b.1 < r.2 + p.n)).map (fun b => p.addr + (b.1 - r.2)) else []),
      r.2 + p.n)) ([], 0)).1

/-- The bytes of a unit written to its local pieces. -/
def State.storeUnit (s : State) (u : Unit1) (bs : List (Nat × Byte)) : State :=
  (u.ps.foldl (fun (r : State × Nat) p =>
    let mine := if p.ap = 0 then bs.filter (fun b => r.2 ≤ b.1 && b.1 < r.2 + p.n) else []
    ((runsOf mine).foldl (fun (s : State) q => s.perform (p.addr + (q.1 - r.2)) q.2) r.1, r.2 + p.n)) (s, 0)).1

/-- The bytes that an access writes to the host, one request a line (R310): the higher lane's byte stands (R133). -/
def State.hostStores (s : State) (ls : List (RemLine × List RByte)) : State :=
  { s with hostOut := s.hostOut ++ (ls.filter (fun l => l.1.peer.isNone)).map (fun l =>
      (l.1.addr, (List.range 128).map (fun i => ((l.2.filter (fun b => b.o == i)).getLast?).map (·.v)))) }

/-- Stores to K, H and G end the time in which FRD is legal (Table 1-6). -/
def State.storeEffect (s : State) (t : Team) (sp : Space) : State :=
  if sp = .L ∨ sp = .C then s else s.effect t

/-- A checked store issues, once what the team must wait for has been performed: its bytes are performed, the higher lane last
(R133), or sent. -/
def State.startStore (s : State) (t : Team) (sp : Space) (sync : Option (BitVec 3)) (us : List Unit1)
    (data : Unit1 → List (Nat × Byte)) : State :=
  let g := s.groupOf t
  let lines := reqLines us
  let first := s.earlier t.key false us
  if sync.isSome && !s.settled t.key then s.deschedule t .stores
  else if first ≠ [] then s.deschedule t (.accs first)
  else if t.countFull false then s.deschedule t (.slot lines.length) else
  match s.askSlots g.core lines with
  | none => s.deschedule t (.slot lines.length)
  | some (reqs, nb, ns) =>
    let capd := s.heldBack g.core lines
    let s := (s.storeEffect t sp).markAll us true
    let s := (s.usePf g.ctx (homeLines us)).modCtx g.ctx (fun c => (c.count 7 nb).count 8 ns)
    let s := s.dropL1 g.core us
    let s := (us.foldl (fun s u => s.storeUnit u (data u)) s).wholeWords (us.flatMap (fun u => unitBytes u (data u)))
    let t := (s.team t.key).getD t
    let (s, rem) := s.remLines (remoteBytes us (fun u i =>
      ((data u).find? (fun b => b.1 == i)).map (fun b => (u.lane, i, b.2))))
    let s := s.hostStores rem
    let (s, id) := s.fresh
    let a : Access :=
      { id := id, ctx := g.ctx, team := t.key, load := false, loc := us.any (fun u => u.ps.any (fun p => p.ap != 1)), reqs := reqs,
        rem := rem.map (·.1), svc := 0, buf := [], bad := [], acq := false, fin := .none, dests := [],
        va := (us.head?.map (·.va)).getD 0, capd := capd }
    let s := { s with acc := s.acc ++ [a] }
    let s := match sync with
      | some sc => us.foldl (fun (s : State) (u : Unit1) => s.recordScopes t sp sc u.ps) s
      | none => s
    let t := t.countIn false
    ((s.putTeam t).queuePkts (some t.key) (s.linePkts g.ctx true rem)).retireAcc t a

/-- Bytes of a vector store's element by SZ. -/
def stSize (z : BitVec 3) : Nat :=
  match z.toNat with
  | 0 => 1
  | 1 => 2
  | 2 => 4
  | 3 => 8
  | _ => 128

/-- The bytes a lane stores (R304). -/
def Team.storeBytes (t : Team) (z : BitVec 3) (d : VReg) (l : Nat) : List Byte :=
  if z = 3 then leBytes 4 ((t.v d).lane l).toNat ++ leBytes 4 ((t.v (d + 1)).lane l).toNat
  else leBytes (stSize z) ((t.v d).lane l).toNat

/-- The bytes of a line that the active lanes of a word store (R303). -/
def Team.storeLine (t : Team) (act : Mask) (d : VReg) (l0 : Nat) : List (Nat × Byte) :=
  (List.range 128).filterMap (fun i =>
    let l := l0 / 32 * 32 + i / 4
    if act.getLsbD l then some (i, BitVec.ofNat 8 (((t.v d).lane l).toNat >>> (8 * (i % 4)))) else none)

/-- The lanes for which a vector store makes an access (R303). -/
def Team.stWho (t : Team) (z : BitVec 3) (m : Option Msk) : List Nat :=
  let lanes := t.lanesOf (t.active m)
  if z = 4 then wordLeads lanes else lanes

/-- How a vector store accesses. -/
def stOpt (z : BitVec 3) (sc : Option (BitVec 3)) : AccOpt :=
  { k := .store, size := stSize z, align := sc.isSome || z = 4, badSize := sc.isSome && z != 2 && z != 3, sync := sc }

/-- The effect of a vector store (R303, R304). -/
def State.storeVec (s : State) (t : Team) (sc : Option (BitVec 3)) (z : BitVec 3) (a : VAddr) (d : VReg)
    (m : Option Msk) : State :=
  let act := t.active m
  let lanes := t.lanesOf act
  if lanes = [] then (s.storeEffect t a.sp).retire t else
  let line := z = 4
  match s.resolveAll t a.sp a.base (stOpt z sc) ((t.stWho z m).map (fun l => (l, t.vAddr a l))) with
  | (s, .inl f) => s.park t f
  | (s, .inr us) =>
    s.startStore t a.sp sc us (fun u =>
      if line then t.storeLine act d u.lane else enum (t.storeBytes z d u.lane))

/-- What issue checks of a vector store. -/
def stInfo (z : BitVec 3) (a : VAddr) (d : VReg) (m : Option Msk) (bad : Option Detail) (rel : Bool) : Info :=
  { bad := match bad with
           | some x => some x
           | none =>
             if z.toNat ≤ 4 ∧ mskNoZ m then (if z = 3 ∧ evenV d = false then some .registerPair else none)
             else some .none
    pairs := if z = 3 then [d] else [], sr := [a.base], vr := if z = 3 then [a.x, d, d + 1] else [a.x, d],
    pr := mskP m, eng := 2, stop := rel, who := some m, xr := limRegs a.sp a.base }

/-- ST (R304): `.nt` (`n`) changes placement only. -/
def execSt (n : Bool) (z : BitVec 3) (a : VAddr) (d : VReg) (m : Option Msk) (s : State) : Out :=
  let _ := n
  issue (stInfo z a d m none false) (fun t s => s.storeVec t none z a d m) s

/-- ST.REL (R132, R164): waits until earlier accesses are performed. -/
def execStRel (z sc : BitVec 3) (a : VAddr) (d : VReg) (m : Option Msk) (s : State) : Out :=
  issue (stInfo z a d m (if scopeOk sc then none else some .reservedScope) true)
    (fun t s => s.storeVec t (some sc) z a d m) s

/-- How a scalar-form store accesses. -/
def stsOpt (z : BitVec 3) (sc : Option (BitVec 3)) : AccOpt :=
  let n := stSize z
  { k := .store, size := n, align := sc.isSome, badSize := sc.isSome && n != 4 && n != 8, sync := sc }

/-- The effect of a scalar-form store (R309). -/
def State.storeSca (s : State) (t : Team) (sc : Option (BitVec 3)) (z : BitVec 3) (a : SAddr) (d : SReg) : State :=
  let n := stSize z
  match s.resolveAll t a.sp a.base (stsOpt z sc) [(0, t.sAddr a n)] with
  | (s, .inl f) => s.park t f
  | (s, .inr us) => s.startStore t a.sp sc us (fun _ => enum (leBytes n (t.s d).toNat))

/-- ST, scalar form (R309). -/
def execStScalar (z : BitVec 3) (a : SAddr) (d : SReg) (s : State) : Out :=
  issue { bad := if z.toNat ≤ 3 then none else some .none, sr := saRegs a ++ [d], eng := 2, xr := limRegs a.sp a.base }
    (fun t s => s.storeSca t none z a d) s

/-- ST.REL, scalar form (R309). -/
def execStScalarRel (z sc : BitVec 3) (a : SAddr) (d : SReg) (s : State) : Out :=
  issue { bad := if !scopeOk sc then some .reservedScope else if z.toNat ≤ 3 then none else some .none,
          sr := saRegs a ++ [d], eng := 2, stop := true, xr := limRegs a.sp a.base }
    (fun t s => s.storeSca t (some sc) z a d) s

/-! ### Prefetches (R117, R305) -/

/-- A speculative read of bytes at a VA: its pieces, or why it is dropped (R117; for a malformed or reserved entry, and for a KID
denied, protection: DESIGN CHOICE, notes/assumptions/91.md). Speculation sets neither A nor D. -/
def State.specRead (s : State) (core c va n : Nat) : State × (DropCause ⊕ List Page) :=
  if 2 ^ 52 < va + n then (s, .inl .spaceBounds) else
  (List.range (pagesOf va n)).foldl (fun (r : State × (DropCause ⊕ List Page)) i =>
    match r.2 with
    | .inl d => (r.1, .inl d)
    | .inr ps =>
      let a := if i = 0 then va else (va / 65536 + i) * 65536
      match r.1.walk c (dieOf core) a false with
      | (s, .leaf l e ea) =>
        match s.leafCheck c a .load {} l e with
        | .inl _ => (s, .inl .protection)
        | .inr p =>
          if p.ord = 2 then (s, .inl .protection)
          else if !flag e 38 then (s, .inl .untouched)
          else if p.ap = 1 ∧ s.allowance p.peer = 0 then (s, .inl .allowance)
          else (s, .inr (ps ++ [{ p with ea := some ea }]))
      | (s, .miss _) => (s, .inl .pageMiss)
      | (s, .bad _) => (s, .inl .protection)) (s, .inr [])

/-- A line of a prefetch requested of its home: counted, and to be brought into the L1 of the core for `.spec`. -/
def State.askPf (s : State) (core c line : Nat) (slot : Option Nat) (intoL1 : Bool) : State × Wd :=
  let (s, i) := s.fresh
  let r : PfReq := { id := i, core := core, ctx := c, line := line, slot := slot, rid := BitVec.ofNat 32 i, l1 := intoL1 }
  ({ s with pfs := s.pfs ++ [r] }.modCtx c (fun x => { x.count 0 1 with pfl := x.pfl ++ [line] }), r.rid)

/-- Where one lane's prefetch goes: its line, or none where it may not be speculated on: dropped and counted (R117). -/
def State.pfTarget (s : State) (core c va : Nat) : State × Option Piece :=
  match s.specRead core c va 1 with
  | (s, .inl _) => (s.modCtx c (fun x => x.count 5 1), none)
  | (s, .inr ps) =>
    (s, ps.head?.map (fun p =>
      { ap := p.ap, peer := p.peer, addr := (p.base + va % 65536) / 128 * 128, n := 128, ord := p.ord, ea := none, kid := p.kid }))

/-- A line of a prefetch requested (R117, R305): of a peer with a packet beside those of the instruction before it, dropped beyond the
send allowance; of this module dropped where it holds an uncorrectable error, and discarded where no line request slot is free to
it. -/
def State.pfAsk (s : State) (core c : Nat) (intoL1 : Bool) (sent : List Packet) (p : Piece) : State × List Packet :=
  let line := p.home / 128
  let drop := s.modCtx c (fun x => x.count 5 1)
  let slot := if p.ap = 0 then line else hostReq (p.addr / 128)
  if p.ap = 1 then
    if s.allowance p.peer ≤ (sent.filter (fun (q : Packet) => q.dst == p.peer)).length then (drop, sent)
    else
      let (s, rid) := s.askPf core c line none intoL1
      (s, sent ++ [{ s.mkPkt c p.peer 0 p.addr rid p.kid with so := false }])
  else if p.ap = 0 ∧ s.poisoned p.addr 128 then (drop, sent)
  else if slotFor (slotsOf core) (((s.coreReqs core).filter (·.2)).map (·.1)) slot ≠ 0 then (s, sent)
  else ((s.askPf core c line (some slot) intoL1).1, sent)

/-- A piece put into a list in ascending order of target and line, without repeats (R310). -/
def insPiece (p : Piece) : List Piece → List Piece
  | [] => [p]
  | q :: r => if p.home < q.home then p :: q :: r else if p.home = q.home then q :: r else q :: insPiece p r

/-- A prefetched line has come, with an error or without: dropped (R117), or brought into the L1 where it is wanted there. -/
def State.pfCame (s : State) (p : PfReq) (d : Line) (bad : Bool) : State :=
  let s := { s with pfs := s.pfs.filter (fun (x : PfReq) => x.id != p.id) }
  let s := if bad then
      s.modCtx p.ctx (fun x =>
        if x.pfl.contains p.line then ({ x with pfl := x.pfl.erase p.line }.count 2 1).count 5 1 else x.count 5 1)
    else if p.l1 && !s.lineBusy p.line then
      (if p.line * 128 < 2 ^ 80 then s.l1Put p.core p.line d else s.l1Arrive p.core p.id p.line d)
    else s
  s.grantSlots p.core

/-- The effect of PF: on spaces other than G none (R305); each line once, in ascending order of target and line (R310). -/
def State.pfVec (s : State) (t : Team) (a : VAddr) (m : Option Msk) (spec : Bool) : State :=
  let g := s.groupOf t
  if a.sp ≠ .G then s.retire t
  else
    let (s, ls) := (t.lanesOf (t.active m)).foldl (fun (r : State × List Piece) l =>
      let (s, p) := r.1.pfTarget g.core g.ctx (t.vAddr a l).toNat
      (s, match p with
          | some p => insPiece p r.2
          | none => r.2)) (s, [])
    let (s, pk) := ls.foldl (fun (r : State × List Packet) p => r.1.pfAsk g.core g.ctx spec r.2 p) (s, [])
    (s.queuePkts (some t.key) pk).retireFabric t

/-- What issue checks of PF. -/
def pfInfo (a : VAddr) (m : Option Msk) : Info :=
  { bad := if mskNoZ m then none else some .none, sr := [a.base], vr := [a.x], pr := mskP m, eng := 2, who := some m }

/-- PF (R305). -/
def execPf (a : VAddr) (m : Option Msk) (s : State) : Out :=
  issue (pfInfo a m) (fun t s => s.pfVec t a m false) s

/-- PF.SPEC (R305). -/
def execPfSpec (a : VAddr) (m : Option Msk) (s : State) : Out :=
  issue (pfInfo a m) (fun t s => s.pfVec t a m true) s

/-- HARDWARE_PREFETCH (R119): a line of a local RC or LOOSE page; any other access is dropped and counted. -/
def execHardwarePrefetch (core ctx : Nat) (va : Dw) (s : State) : Out :=
  match s.pfTarget core ctx va.toNat with
  | (s, none) => .next s
  | (s, some p) => if p.ap = 0 then .next (s.pfAsk core ctx false [] p).1 else .next (s.modCtx ctx (fun x => x.count 5 1))

/-! ### The return of line requests (R124, R307) -/

/-- A line of the host as the event brings it, or free (notes/assumptions/6.md). -/
def hostLine (free : Nat) (data : List Line) (i addr : Nat) : Line :=
  match data[i]? with
  | some d => d
  | none => lineNat ((List.range 128).map (fun j => Config.remoteByte (free + i) (addr + j)))

/-- The bytes of a remote line that an access wants. -/
def remBytes (r : RemLine) (d : Line) : List (Nat × Nat × Byte) :=
  r.lanes.map (fun x => (x.1, x.2.1, Line.byte d x.2.2))

/-- The lines of the host of an access arrive or are acknowledged. -/
def Access.hostDone (a : Access) (free : Nat) (data : List Line) : Access :=
  let hs := a.rem.filter (fun r => r.peer.isNone)
  { a with
    rem := a.rem.filter (fun r => r.peer.isSome)
    buf := a.buf ++ (if a.load then ((enum hs).map (fun p => remBytes p.2 (hostLine free data p.1 p.2.addr))).flatten
                     else []) }

/-- LINE_REQUEST_RETURN: the requests of an access that hold slots return, or that of a prefetch, and free them for queued
requests. -/
def execLineRequestReturn (access : Nat) (data : List Line) (s : State) : Out :=
  match s.acc.find? (fun a => a.id == access) with
  | none =>
    match s.pfs.find? (fun (p : PfReq) => p.id == access && p.slot.isSome) with
    | none => .next s
    | some p =>
      let near := decide (p.line * 128 < 2 ^ 80)
      let d := if near then lineNat (Mem.readN s.mem (p.line * 128) 128) else hostLine s.free data 0 (p.line * 128 - homeP 512 0)
      .next ({ s with free := s.free + 1 }.pfCame p d (near && s.poisoned (p.line * 128) 128))
  | some a =>
    let core := (s.coreOf a).getD 0
    let left := a.reqs.filter (fun q => !q.2)
    let a0 := a
    let a := { a with reqs := left }
    let a := if left = [] then { a.hostDone s.free data with loc := false } else a
    let s := if left = [] then (enum (a0.rem.filter (fun r => r.peer.isNone))).foldl (fun (s : State) p =>
        s.l1Come a0 p.2 (hostLine s.free data p.1 p.2.addr)) s else s
    let s := { s with free := s.free + 1 + a0.rem.length, acc := s.acc.map (fun (x : Access) => if x.id = a.id then a else x) }
    let s := s.grantSlots core
    .next (if left = [] then s.settle a else s)

end Sys2Proof.Machine
end

