-- ==== Sys2Proof/Machine/Atomic.lean ====
section
/-! DEFINITION. Majors 32 to 36: atomics and reductions, the determinism buffer, and the atomic service teams (R313 to
R321, R483). -/

namespace Sys2Proof.Machine

/-! ### The read-modify-write (R314 to R319) -/

/-- The float format of a TYPE (R227). -/
def atomFmt (ty : BitVec 3) : Option Fmt :=
  match ty.toNat with
  | 4 => some fF32
  | 5 => some fBF16
  | 6 => some fF16
  | _ => none

/-- A NaN result of a float atomic is the canonical NaN (R318). -/
def canonNan (f : Fmt) (x : Nat) : Nat :=
  match f.decode x with
  | .nan _ _ _ => f.canon
  | _ => x

/-- The signed value of an integer location for I types, the unsigned one for UI types (R227). -/
def atomInt (ty : BitVec 3) (x : Nat) : Int :=
  let w := 8 * atomSize ty
  if ty = 0 ∨ ty = 2 then sext w x else (x % 2 ^ w : Nat)

/-- The new value of a location (R316, R318); none when a compare fails. -/
def atomNew (op : Nat) (ty : BitVec 3) (old e c : Nat) : Option Nat :=
  let m := 2 ^ (8 * atomSize ty)
  match op with
  | 7 => some (e % m)
  | 8 => if old % m = c % m then some (e % m) else none
  | _ =>
    match atomFmt ty with
    | some f =>
      match op with
      | 0 => some (canonNan f (fAdd f 0 old e).1)
      | 1 => some (canonNan f (fSub f 0 old e).1)
      | 2 => some (canonNan f (fMinMax f false old e).1)
      | _ => some (canonNan f (fMinMax f true old e).1)
    | none =>
      match op with
      | 0 => some ((old + e) % m)
      | 1 => some ((old + m - e % m) % m)
      | 2 => some (if atomInt ty old ≤ atomInt ty e then old % m else e % m)
      | 3 => some (if atomInt ty old ≤ atomInt ty e then e % m else old % m)
      | 4 => some (old &&& e)
      | 5 => some (old ||| e)
      | 6 => some (old ^^^ e)
      | _ => some ((old + e) % m)

/-- A faddt reaches its threshold (R319): old differs from c, and c lies between old and the exact sum. -/
def faddtHit (ty : BitVec 3) (old e c : Nat) : Bool :=
  let o := atomInt ty old
  let s := o + atomInt ty e
  let k := atomInt ty c
  o != k && decide (min o s ≤ k) && decide (k ≤ max o s)

/-- Registered waiters on a word are woken; no write is recorded (a compare that failed) (DEDUCED, notes/assumptions/52.md). -/
def State.wakeWait (s : State) (a n : Nat) : State :=
  { s with teams := s.teams.map (fun (t : Team) =>
      match t.st with
      | .wait (.waita w) => if w < a + n ∧ a < w + 8 then { t with st := .wait .woken } else t
      | _ => t) }

/-- The atomic performed at a local home: the state, and the old value. A faddt short of its threshold wakes no one and
is no write for a monitor (R319). -/
def State.atomAt (s : State) (a op : Nat) (ty : BitVec 3) (e c : Nat) : State × Nat :=
  let n := atomSize ty
  let old := leNat (Mem.readN s.mem a n)
  match atomNew op ty old e c with
  | none => (s.wakeWait a n, old)
  | some v =>
    if op = 9 ∧ !faddtHit ty old e c then ({ s with mem := Mem.writeN s.mem a (leBytes n v) }, old)
    else (s.perform a (leBytes n v), old)

/-! ### Operands -/

/-- One lane's atomic: its unit, data operand, compare or threshold value. -/
structure AtomLane where
  u : Unit1
  e : Nat
  c : Nat
  deriving DecidableEq, Repr

/-- The value of a lane's register or pair by size (R315). -/
def Team.atomReg (t : Team) (ty : BitVec 3) (r : VReg) (l : Nat) : Nat :=
  let lo := ((t.v r).lane l).toNat
  match atomSize ty with
  | 8 => lo + ((t.v (r + 1)).lane l).toNat * 2 ^ 32
  | n => lo % 2 ^ (8 * n)

/-- The value of a scalar register by size. -/
def Team.atomRegS (t : Team) (ty : BitVec 3) (r : SReg) : Nat := (t.s r).toNat % 2 ^ (8 * atomSize ty)

/-- The cluster whose service team owns the home slice of a local line (R317). -/
def homeCluster (a : Nat) : Nat := dieOfPa a * 12 + Config.ownerOf (Config.sliceOf (a / 128)) % 12

/-- A home lies in space G. -/
def inG (a : Nat) : Bool := a < 2 ^ 80

/-- What an atomic instruction is, apart from its lanes. -/
structure AtomPlan where
  op : Nat
  ty : BitVec 3
  sp : Space
  scope : BitVec 3
  ann : BitVec 2
  ret : Bool
  fin : Finish
  dests : List Dest

/-! ### Issue -/

/-- A float add or sub without a result in a context in determinism mode is buffered (R320). -/
def AtomPlan.buffers (p : AtomPlan) (c : Ctx) : Bool :=
  c.detm && (atomFmt p.ty).isSome && (p.op == 0 || p.op == 1)

/-- Room for entries in the determinism area of a context (R320). -/
def State.detRoom (s : State) (c : Nat) : Nat :=
  fld (s.ctx c).det 63 52 * 65536 - (s.det.filter (fun (e : DetEntry) => e.ctx == c)).length

/-- The lanes of a buffered reduction, numbered by the team in issue order (R320) (DEDUCED, notes/assumptions/54.md). -/
def State.detPush (s : State) (t : Team) (p : AtomPlan) (ls : List AtomLane) : State :=
  let g := s.groupOf t
  let es := (enum ls).map (fun (q : Nat × AtomLane) =>
    { ctx := g.ctx, origin := g.origin, tid := t.tid, seq := t.detSeq + q.1,
      addr := ((q.2.u.ps.head?).map Piece.home).getD 0, sub := p.op == 1, ty := p.ty,
      data := BitVec.ofNat 64 q.2.e, kid := q.2.u.ps.any (·.kid) : DetEntry })
  { s with det := s.det ++ es }

/-- A lane's atomic in a scratchpad or slice, performed at its bank at once, or queued for its service team, or sent. -/
def State.atomLane (s : State) (t : Team) (p : AtomPlan) (id : Nat) (q : AtomLane) (a : Access) : State × Access :=
  match q.u.ps with
  | [] => (s, a)
  | pc :: _ =>
    let n := atomSize p.ty
    if pc.ap ≠ 0 then
      let (s, i) := s.fresh
      (s, { a with rem := a.rem ++ [{ rid := BitVec.ofNat 32 i, peer := some pc.peer, addr := pc.addr,
                                      lanes := (List.range n).map (fun j => (q.u.lane, j, j)), lane := q.u.lane,
                                      va := q.u.va.toNat, so := pc.ord == 2 }] })
    else if inG pc.addr then
      let (s, i) := s.fresh
      let r : SvcReq :=
        { id := i, cluster := homeCluster pc.addr, access := some id, lane := q.u.lane, team := t.key, pkt := none,
          addr := pc.addr, op := p.op, ty := p.ty, data := BitVec.ofNat 64 q.e, cmp := BitVec.ofNat 64 q.c, ret := p.ret,
          so := pc.ord == 2 }
      ({ s with svc := s.svc ++ [r] }, { a with svc := a.svc + 1 })
    else if s.poisoned pc.addr n then (s, { a with bad := a.bad ++ [q.u.lane] })
    else
      let (s, old) := s.atomAt pc.addr p.op p.ty q.e q.c
      (s, { a with buf := a.buf ++ (enum (leBytes n old)).map (fun b => (q.u.lane, b.1, b.2)) })

/-- A lane's location put into its place among those of an instruction: ascending target, then line, then lane (R310). -/
def insRem (r : RemLine) : List RemLine → List RemLine
  | [] => [r]
  | x :: q => if r.home / 128 < x.home / 128 then r :: x :: q else x :: insRem r q

/-- The atomic packets of lanes to peers, one a lane: operand at [63:0] of the payload, compare value or threshold at [127:64]
(R310, R506, R507; notes/assumptions/20.md). -/
def State.atomPkts (s : State) (ctx : Nat) (p : AtomPlan) (rem : List RemLine) (ls : List AtomLane) : List Packet :=
  (rem.foldl (fun q r => insRem r q) []).filterMap (fun r =>
    (ls.find? (fun q => r.lanes.any (fun x => x.1 == q.u.lane))).map (fun q =>
      { s.mkPkt ctx (r.peer.getD 0) 3 r.addr r.rid (q.u.ps.any (·.kid)) with
        so := q.u.ps.any (fun x => x.ord == 2), aop := BitVec.ofNat 4 p.op, aty := p.ty, aret := p.ret,
        data := BitVec.ofNat 1024 (q.e + q.c * 2 ^ 64) }))

/-- A checked atomic issues, once what the team must wait for has been performed. -/
def State.startAtomic (s : State) (t : Team) (p : AtomPlan) (ls : List AtomLane) : State :=
  let g := s.groupOf t
  let us := ls.map (·.u)
  let lines := reqLines us
  let first := s.earlier t.key true us
  let acq := p.ann.toNat % 2 = 1
  if p.ann.toNat ≥ 2 && !s.settled t.key then s.deschedule t .stores
  else if first ≠ [] then s.deschedule t (.accs first)
  else if t.countFull p.ret then s.deschedule t (.slot lines.length)
  else if p.buffers (s.ctx g.ctx) then
    if s.detRoom g.ctx < ls.length then
      s.park t { mkF .pageMiss .detAreaFull ((us.head?.map (·.va.toNat)).getD 0) 0 with lane := us.head?.map (·.lane) }
    else
      let s := (((s.effect t).markAll us true).usePf g.ctx (homeLines us)).dropL1 g.core us
      let s := us.foldl (fun (s : State) (u : Unit1) => s.recordScopes t p.sp p.scope u.ps) (s.detPush t p ls)
      let s := if acq && decide (2 ≤ p.scope.toNat) then s.invL1 g.core else s
      let (s, id) := s.fresh
      let a : Access :=
        { id := id, ctx := g.ctx, team := t.key, load := false, loc := true, reqs := [], rem := [], svc := 0, buf := [], bad := [],
          acq := false, fin := p.fin, dests := [], va := (us.head?.map (·.va)).getD 0 }
      let t := (s.team t.key).getD t
      ({ s with acc := s.acc ++ [a] }).retire { (t.countIn false) with detSeq := t.detSeq + ls.length }
  else
  match s.askSlots g.core lines with
  | none => s.deschedule t (.slot lines.length)
  | some (reqs, nb, ns) =>
    let capd := s.heldBack g.core lines
    let s := (s.effect t).markAll us true
    let s := (s.usePf g.ctx (homeLines us)).modCtx g.ctx (fun c => (c.count 7 nb).count 8 ns)
    let s := s.dropL1 g.core us
    let (s, id) := s.fresh
    let a : Access :=
      { id := id, ctx := g.ctx, team := t.key, load := p.ret, loc := us.any (fun u => u.ps.any (fun x => x.ap != 1)), reqs := reqs,
        rem := [], svc := 0, buf := [], bad := [], acq := acq && decide (2 ≤ p.scope.toNat), fin := p.fin,
        dests := p.dests, va := (us.head?.map (·.va)).getD 0, capd := capd }
    let (s, a) := ls.foldl (fun (r : State × Access) q => r.1.atomLane t p id q r.2) (s, a)
    let a := { a with await := acq && (!a.rem.isEmpty || a.svc != 0) }
    let s := { s with acc := s.acc ++ [a] }
    let s := us.foldl (fun (s : State) (u : Unit1) => s.recordScopes t p.sp p.scope u.ps) s
    let s := if a.acq then s.invL1 g.core else s
    let t := (s.team t.key).getD t
    let t := { t.countIn p.ret with monitor := if p.ret then
        (match armWord p.sp us 0 with
         | some w => some (w, false)
         | none => t.monitor) else t.monitor }
    ((s.putTeam t).queuePkts (some t.key) (s.atomPkts g.ctx p a.rem ls)).retireAcc t a

/-- The access option of an atomic. -/
def atomOpt (op : Nat) (x : Atom) : AccOpt :=
  { k := .atom, size := atomSize x.ty, align := true, sync := some x.scope, atomic := true, aop := op * 8 + x.ty.toNat }

/-- A float add or sub with a result in determinism mode is an illegal encoding (R320). -/
def State.detBad (s : State) (t : Team) (op : Nat) (x : Atom) : Bool :=
  (s.ctx (s.ctxOf t)).detm && (atomFmt x.ty).isSome && (op == 0 || op == 1) && x.ret

/-- The space of an atomic. -/
def atomSp (x : Atom) : Space :=
  match x.o with
  | .vec _ a _ => a.sp
  | .sca _ a _ => a.sp

/-- The base register of an atomic. -/
def atomBase (x : Atom) : SReg :=
  match x.o with
  | .vec _ a _ => a.base
  | .sca _ a _ => a.base

/-- The lanes and addresses of an atomic, by FORM. -/
def Team.atomWho (t : Team) (x : Atom) : List (Nat × Dw) :=
  match x.o with
  | .vec _ a _ => (t.lanesOf (t.active x.m)).map (fun l => (l, t.vAddr a l))
  | .sca _ a _ => [(0, t.sAddr a (atomSize x.ty))]

/-- The registers an atomic writes with the old value. -/
def atomDests (x : Atom) : List Dest :=
  match x.o with
  | .vec d _ _ => if !x.ret then [] else if atomSize x.ty = 8 then [.v d, .v (d + 1)] else [.v d]
  | .sca d _ _ => if x.ret then [.s d] else []

/-- The effect of an atomic, by FORM (R227, R315, R316). -/
def State.atomic (s : State) (t : Team) (op : Nat) (x : Atom) : State :=
  match x.o with
  | .vec d a e =>
    let act := t.active x.m
    let lanes := t.lanesOf act
    if lanes = [] then (s.effect t).retire t
    else if s.detBad t op x then s.park t (mkF .illegalEncoding .returnInDeterminism 0 0)
    else
      match s.resolveAll t a.sp a.base (atomOpt op x) (t.atomWho x) with
      | (s, .inl f) => s.park t f
      | (s, .inr us) =>
        let zero := if x.m.any (·.z) then t.regs.exec &&& ~~~act else 0
        s.startAtomic t
          { op := op, ty := x.ty, sp := a.sp, scope := x.scope, ann := x.ann, ret := x.ret
            fin := if x.ret then .atomV x.ty d act zero else .atomV x.ty d 0 0
            dests := atomDests x }
          (us.map (fun u => { u := u, e := t.atomReg x.ty e u.lane, c := if x.ret then t.atomReg x.ty d u.lane else 0 }))
  | .sca d a e =>
    if s.detBad t op x then s.park t (mkF .illegalEncoding .returnInDeterminism 0 0)
    else
      match s.resolveAll t a.sp a.base (atomOpt op x) (t.atomWho x) with
      | (s, .inl f) => s.park t f
      | (s, .inr us) =>
        s.startAtomic t
          { op := op, ty := x.ty, sp := a.sp, scope := x.scope, ann := x.ann, ret := x.ret
            fin := .atomS x.ty (if x.ret then d else 0), dests := atomDests x }
          (us.map (fun u => { u := u, e := t.atomRegS x.ty e, c := if x.ret then t.atomRegS x.ty d else 0 }))

/-- A 64-bit type names a pair in FORM 0 (R315). -/
def Atom_pair (x : Atom) : Bool := x.ty = 2 || x.ty = 3

/-- What issue checks of an atomic. -/
def atomInfo (op : Nat) (x : Atom) : Info :=
  let rel := x.ann.toNat ≥ 2
  match x.o with
  | .vec d a e =>
    let es := if Atom_pair x then [e, e + 1] else [e]
    let ds := if !x.ret then [] else if Atom_pair x then [d, d + 1] else [d]
    { bad := if !scopeOk x.scope then some .reservedScope
             else if Atom_pair x ∧ (!evenV d ∨ !evenV e) then some .registerPair
             else if x.ok op then none else some .none
      sr := [a.base]
      vr := a.x :: es ++ (if 8 ≤ op then ds else []), vw := ds, pr := mskP x.m, eng := 2, stop := rel,
      who := some x.m, xr := limRegs a.sp a.base }
  | .sca d a e =>
    { bad := if !scopeOk x.scope then some .reservedScope else if x.ok op then none else some .none
      sr := saRegs a ++ [e] ++ (if 8 ≤ op then [d] else []), sw := if x.ret then [d] else [], eng := 2, stop := rel,
      xr := limRegs a.sp a.base }

/-- An atomic instruction. -/
def atom (op : Nat) (x : Atom) (s : State) : Out := issue (atomInfo op x) (fun t s => s.atomic t op x) s

/-- ATOM.ADD (R316). -/
def execAtomAdd (x : Atom) (s : State) : Out := atom 0 x s
/-- ATOM.SUB (R316). -/
def execAtomSub (x : Atom) (s : State) : Out := atom 1 x s
/-- ATOM.MIN (R316). -/
def execAtomMin (x : Atom) (s : State) : Out := atom 2 x s
/-- ATOM.MAX (R316). -/
def execAtomMax (x : Atom) (s : State) : Out := atom 3 x s
/-- ATOM.AND (R316). -/
def execAtomAnd (x : Atom) (s : State) : Out := atom 4 x s
/-- ATOM.OR (R316). -/
def execAtomOr (x : Atom) (s : State) : Out := atom 5 x s
/-- ATOM.XOR (R316). -/
def execAtomXor (x : Atom) (s : State) : Out := atom 6 x s
/-- ATOM.EXCH (R316). -/
def execAtomExch (x : Atom) (s : State) : Out := atom 7 x s
/-- ATOM.CAS (R316). -/
def execAtomCas (x : Atom) (s : State) : Out := atom 8 x s
/-- ATOM.FADDT (R319). -/
def execAtomFaddt (x : Atom) (s : State) : Out := atom 9 x s

/-! ### Reception of packets (R509, R510) -/

/-- BASE moved past every received PSN; `n` bounds the steps. -/
def baseUp : Nat → Wd → List Nat → Wd × List Nat
  | 0, b, got => (b, got)
  | n + 1, b, got => if got.contains b.toNat then baseUp n (b + 1) (got.erase b.toNat) else (b, got)

/-- The lane of a peer's packets. -/
def Peer.rx (p : Peer) (lane : Bool) : RxLane := if lane then p.rxF else p.rxO

/-- The lane of a peer's packets changed. -/
def Peer.modRx (p : Peer) (lane : Bool) (f : RxLane → RxLane) : Peer :=
  if lane then { p with rxF := f p.rxF } else { p with rxO := f p.rxO }

/-- An arrival that the next acknowledgement answers (R510). -/
def RxLane.count (x : RxLane) (cm : Bool) (clk : Nat) : RxLane :=
  { x with arrivals := x.arrivals + 1, firstArr := if x.arrivals = 0 then clk else x.firstArr, cmc := x.cmc + b2n cm }

/-- A PSN lies below another, modulo 2^32. -/
def psnBelow (a b : Wd) : Bool := decide (2 ^ 31 ≤ (a - b).toNat)

/-- A PSN received (R509); when its packet is performed after the acknowledgement that its arrival triggered, another is due. -/
def RxLane.receive (x : RxLane) (psn : Wd) (clk : Nat) : RxLane :=
  let x := if x.arrivals = 0 then x.count false clk else x
  if psnBelow psn x.base then x else
  let (b, g) := baseUp (x.got.length + 1) x.base (psn.toNat :: x.got)
  { x with base := b, got := g }

/-- The partitions whose packages hold the line of a request of a peer. -/
def State.partsAt (s : State) (q : Packet) : List Nat :=
  if q.lane || !(q.typ == 0 || q.typ == 2 || q.typ == 3) then []
  else (List.range 8).filter (fun i => (s.part i).en && (s.part i).pkg.testBit (q.pa / 2 ^ 36))

/-- A packet of a peer counts as received: one that is performed counts when it has been (R510) (DEDUCED, notes/assumptions/70.md). -/
def State.received (s : State) (q : Packet) : State :=
  s.modPeer q.src (fun p => p.modRx q.lane (fun x =>
    let x := x.receive q.psn s.clk
    { x with parts := x.parts ++ s.partsAt q }))

/-- Local memory exists at a physical address (R450). -/
def State.hasPa (s : State) (pa : Nat) : Bool := s.modl.packages.contains (pa / 2 ^ 36)

/-- The bytes of a line that a mask selects. -/
def maskedBytes (m : BitVec 128) (d : Line) : List (Nat × Byte) :=
  ((List.range 128).filter (fun i => m.getLsbD i)).map (fun i => (i, Line.byte d i))

/-- A write packet performed at its home (R134, R507); no memory lies beyond the packages (notes/assumptions/36.md). -/
def State.inWrite (s : State) (q : Packet) : State :=
  if s.hasPa q.pa then (runsOf (maskedBytes q.mask q.data)).foldl (fun (s : State) b => s.perform (homeG (q.pa + b.1)) b.2) s
  else s

/-- A reply to a packet, under the encryption of the request (R496, R506). -/
def State.reply (s : State) (q : Packet) (typ : Nat) (d : Line) : Packet :=
  { s.mkPkt 0 q.src typ q.pa q.rid false with enc := q.enc, join := q.join, data := d, ctx := none }

/-- The reply to a read request sent: the request may be acknowledged once the reply is in flight (R510). -/
def State.sendReply (s : State) (q p : Packet) : State :=
  if q.lane then s.sendPkts q.src [p] else
  (s.modPeer q.src (fun x => { x with rxO := { x.rxO with unsent := q.psn.toNat :: x.rxO.unsent } })).sendPkts q.src
    [{ p with ans := some q.psn }]

/-- The 8-byte words of a line that are poisoned (R481). -/
def State.badWords (s : State) (a : Nat) : BitVec 16 :=
  (List.range 16).foldl (fun m i => if s.poisoned (a + 8 * i) 8 then m ||| 1 <<< i else m) 0

/-- A read request served: its reply is sent, with the words in error marked (R308, R510). -/
def State.inRead (s : State) (q : Packet) : State :=
  let d : Line := if s.hasPa q.pa then lineNat (Mem.readN s.mem (homeG q.pa) 128)
    else lineNat ((List.range 128).map (fun i => Config.remoteByte s.free (q.pa + i)))
  let bad := if s.hasPa q.pa then s.badWords (homeG q.pa) else 0
  ({ s with free := s.free + 1 }).sendReply q { s.reply q 1 d with bad := bad }

/-- An atomic request joins the queue of its location's service team (R317). -/
def State.inAtomic (s : State) (q : Packet) : State :=
  let (s, i) := s.fresh
  let r : SvcReq :=
    { id := i, cluster := homeCluster q.pa, access := none, lane := 0, team := 0, pkt := some q, addr := homeG q.pa,
      op := q.aop.toNat, ty := q.aty, data := q.data.setWidth 64, cmp := (q.data >>> 64).setWidth 64, ret := q.aret,
      so := q.so }
  { s with svc := s.svc ++ [r] }

/-- A packet of the ordinary lane performed (R510, R512). -/
def State.inPkt (s : State) (q : Packet) : State :=
  match q.typ.toNat with
  | 0 => (s.inRead q).received q
  | 2 => if q.coll then s.received q else (s.inWrite q).received q
  | 3 => if s.hasPa q.pa then s.inAtomic q else s.received q
  | _ => s.received q

/-- The held packet of a lane that goes next: nothing of a lower PSN is still to come (R512, R514). -/
def RxLane.nextHeld (x : RxLane) : Option Packet :=
  minBy (fun (q : Packet) => (q.psn - x.base + BitVec.ofNat 32 (2 ^ 31)).toNat)
    (x.held.filter (fun (q : Packet) => q.psn == x.base || psnBelow q.psn x.base))

/-- Packets of a lane held for those of lower PSN are performed once these have been (R512); `n` bounds the steps. -/
def State.unhold (s : State) (m : Nat) (lane : Bool) : Nat → State
  | 0 => s
  | n + 1 =>
    match ((s.peer m).rx lane).nextHeld with
    | none => s
    | some q =>
      ((s.modPeer m (fun p => p.modRx lane (fun x => { x with held := x.held.erase q }))).inPkt q).unhold m lane n

/-- A packet of a peer performed. -/
def State.gotPkt (s : State) (q : Packet) : State :=
  let s := s.received q
  s.unhold q.src q.lane ((s.peer q.src).rx q.lane).held.length

/-! ### Accesses that are lost (R464, R467, R483) -/

/-- The number under which the accesses of a launch or task whose teams have gone are held. -/
def Origin.orphan (o : Origin) : Nat := 2 ^ 40 + o.num

/-- What a report names of a team. -/
def Team.issuer (g : Group) (t : Team) : Issuer :=
  { gslot := t.gslot, core := g.core, depth := t.depth, serving := t.serving.getD 0, tid := t.tid, pc := t.pc, woff := t.woff }

/-- A team that has ended leaves one report of its lost accesses (R464, R467; notes/assumptions/83.md). -/
def State.lostReport (s : State) (origin : Nat) (f : FaultInfo) (ctx : Nat) (w : Issuer) : State :=
  if s.recs.any (fun (r : Rec) => r.st == .report && r.team == origin && r.tid == w.tid && r.fault.cls == f.cls) then s
  else
    s.report { s.newRec .team f ctx w.gslot w.depth w.serving w.tid with
               team := origin, pc := w.pc, woff := w.woff, rimg := true } (dieOf w.core)

/-- Registers that an access would have written are lost to its team, which meets the fault where it waits for them, or at its
next clause boundary (R464, R496); a team that has ended leaves a report (R467). -/
def State.loseRegs (s : State) (a : Access) (f : FaultInfo) : State :=
  match s.team a.team with
  | some t =>
    if t.isEnded then s.lostReport (s.groupOf t).origin.orphan f a.ctx (t.issuer (s.groupOf t))
    else
      s.putTeam { t with lost := match t.lost with
                                 | some (g, ds) => some (g, ds ++ a.dests)
                                 | none => some (f, a.dests) }
  | none =>
    match a.who with
    | some w => s.lostReport a.team f a.ctx w
    | none => s

/-- The finish of an atomic that returns no value for a lane. -/
def Finish.without (f : Finish) (lane : Nat) : Finish :=
  match f with
  | .atomS ty _ => .atomS ty 0
  | .atomV ty d mask zero => .atomV ty d (mask &&& ~~~((1 : Mask) <<< lane)) zero
  | x => x

/-- An atomic of a lane that its service team did not perform: no value is returned, and its team is lost the register as
where it waits for the access (R483). -/
def State.loseLane (s : State) (a : Access) (lane : Nat) (f : FaultInfo) : State :=
  let s := s.loseRegs a { f with lane := some lane }
  { s with acc := s.acc.map (fun (x : Access) => if x.id = a.id then { x with fin := x.fin.without lane } else x) }

/-! ### The service teams (R317, R318, R483) -/

/-- A queued atomic answered: an old value into the access of its team, or by a reply packet; `q'` changes the reply. -/
def State.svcDone (s : State) (r : SvcReq) (old : Option Nat) (q' : Packet → Packet) : State :=
  let n := atomSize r.ty
  match r.pkt with
  | some q =>
    let p := q' (s.reply q 4 (BitVec.ofNat 1024 (old.getD 0)))
    let s := if r.ret || p.bad != 0 || p.silent then s.sendPkts q.src [p] else s
    s.gotPkt q
  | none =>
    { s with acc := s.acc.map (fun (a : Access) =>
        if some a.id = r.access then
          { a with svc := a.svc - 1
                   buf := a.buf ++ (match old with
                     | some v => (enum (leBytes n v)).map (fun b => (r.lane, b.1, b.2))
                     | none => []) }
        else a) }

/-- The access of a queued atomic completes when nothing of it is left. -/
def State.svcSettle (s : State) (r : SvcReq) : State :=
  match r.access.bind (fun i => s.acc.find? (fun a => a.id == i)) with
  | some a => if a.svc = 0 then s.settle a else s
  | none => s

/-- The monitor that an atomic with a result armed is armed as it reads its location: its own write is none since (R326; DESIGN
CHOICE, notes/assumptions/88.md). -/
def State.rearm (s : State) (r : SvcReq) : State :=
  if !r.ret || r.access.isNone then s
  else
    s.modTeam r.team (fun t =>
      match t.monitor with
      | some (w, _) => if w = r.addr / 8 * 8 then { t with monitor := some (w, false) } else t
      | none => t)

/-- One queued atomic performed, or its lane lost on a poisoned location (R321). -/
def State.svcOne (s : State) (r : SvcReq) : State :=
  if s.poisoned r.addr (atomSize r.ty) then
    let s := { s with acc := s.acc.map (fun (a : Access) =>
      if some a.id = r.access then { a with bad := a.bad ++ [r.lane] } else a) }
    (s.svcDone r none (fun p => { p with bad := 1 })).svcSettle r
  else
    let (s, old) := s.atomAt r.addr r.op r.ty r.data.toNat r.cmp.toNat
    ((s.rearm r).svcDone r (some old) id).svcSettle r

/-- What the service team's pipe computes for a request that its shadow checks, a float addition or subtraction (R200, R318). -/
def State.svcMain (s : State) (r : SvcReq) : Option (Fmt × Nat) :=
  match atomFmt r.ty with
  | some f =>
    if r.op ≤ 1 then
      (atomNew r.op r.ty (leNat (Mem.readN s.mem r.addr (atomSize r.ty))) r.data.toNat r.cmp.toNat).map (fun v => (f, v))
    else none
  | none => none

/-- The shadow's result of a request, where it is a mismatch (R201): DET0 of the silent-error. -/
def State.svcDiffers (s : State) (r : SvcReq) (x : FpSum) : Option Nat :=
  (s.svcMain r).bind (fun m =>
    if sumDiffers (m.1.decode m.2).sum x then some (m.2 % 2 ^ 32 * 2 ^ 32 + (Config.shadowWord x).toNat) else none)

/-- A mismatch of a service team's shadow: 32 pips for the keep core's pipe, and a record of type 6 (R483, R491); it names the
context of a request of this module. -/
def State.svcMismatch (s : State) (cluster : Nat) (r : SvcReq) (det : Nat) : State :=
  let u := 2 * (192 + cluster)
  let c := ((r.access.bind (fun i => s.acc.find? (fun a => a.id == i))).map (·.ctx)).getD 0
  (s.relRecord (dieOf (192 + cluster)) 6 1 u (min 255 (s.pips 1 u + 32)) c 0 det).addPips 1 u 32

/-- An atomic that mismatched twice: the location stands, no value is returned, and the team parks with silent-error at
the first point where it waits for the atomic (R483); a peer is told (notes/assumptions/89.md). -/
def State.svcLost (s : State) (cluster : Nat) (r : SvcReq) (det : Nat) : State :=
  let u := 2 * (192 + cluster)
  match r.access.bind (fun i => s.acc.find? (fun a => a.id == i)) with
  | none => s.svcDone r none (fun p => { p with silent := true, data := BitVec.ofNat 1024 (det + u * 2 ^ 64) })
  | some a => ((s.loseLane a r.lane (mkF .silentError .none det u)).svcDone r none id).svcSettle r

/-- A request performed by a service team, under the verdict of its shadow (R483). -/
def State.svcTry (s : State) (cluster : Nat) (r : SvcReq) : Shadow → State
  | .agree => s.svcOne r
  | .once x =>
    match s.svcDiffers r x with
    | none => s.svcOne r
    | some d => (s.svcMismatch cluster r d).svcOne r
  | .twice x y =>
    match s.svcDiffers r x with
    | none => s.svcOne r
    | some d =>
      let s := s.svcMismatch cluster r d
      match s.svcDiffers r y with
      | none => s.svcOne r
      | some d => (s.svcMismatch cluster r d).svcLost cluster r d

/-- Requests of a queue to one location that come with its first: the other lanes of the same instruction; of a peer those that
follow from it before any other party's (R317; DEDUCED, notes/assumptions/92.md). -/
def svcGroup (r : SvcReq) (q : List SvcReq) : List SvcReq :=
  let here := q.filter (fun x => x.addr == r.addr)
  match r.pkt with
  | none => here.filter (fun x => x.access == r.access)
  | some p => here.takeWhile (fun x => x.pkt.any (fun y => y.src == p.src))

/-- ATOMIC_SERVICE_PERFORM (R317): the oldest request of a cluster's queue, with the other lanes of its instruction to
that location, in ascending lane order; `shadow`: the verdicts of the shadow on each of them, in that order (R483). -/
def execAtomicServicePerform (cluster : Nat) (shadow : List Shadow) (s : State) : Out :=
  match s.svcQueue cluster with
  | [] => .next s
  | r :: q =>
    let rs := svcGroup r (r :: q)
    let s := { s with svc := s.svc.filter (fun x => !rs.any (fun y => y.id == x.id)) }
    .next ((enum rs).foldl (fun (s : State) x => s.svcTry cluster x.2 (shadow.getD x.1 .agree)) s)

end Sys2Proof.Machine
end

