-- ==== Sys2Proof/Machine/Park.lean ====
section
/-! DEFINITION. Work that parks by itself: the records of tile operations and copy segments (R465, R466, R469, R473), and
the registers of the timelines their completion moves (R149). -/

namespace Sys2Proof.Machine

/-- The team of an operation, which the J9 keeps until its group ends (R248). -/
def State.depthOf (s : State) (team : Nat) : Nat := ((s.team team).map (·.depth)).getD 0

/-- The page a coalesced set is kept for, plus one; 0 for a class that is not coalesced (R458). -/
def FaultInfo.page (f : FaultInfo) : Nat :=
  if (f.cls = .pageMiss ∧ f.detail = .none) ∨ f.cls = .remoteAtomicDenied then f.det0.toNat / 65536 + 1 else 0

/-- The record of a tile operation or copy segment, not yet placed. -/
def State.opRec (s : State) (kind : RecKind) (team gslot : Nat) (f : FaultInfo) : Rec :=
  let t := s.team team
  let r := s.newRec kind f (s.groupAt gslot).ctx gslot (s.depthOf team) ((t.bind (·.serving)).getD 0)
    ((t.map (·.tid)).getD 0)
  { r with team := team, page := f.page, parts := 1 }

/-- An operation that faults after issue parks by itself: the number of its record, or none when no record forms and the
work is to be killed (R465, R469, R473). -/
def State.parkOp (s : State) (kind : RecKind) (team gslot : Nat) (f : FaultInfo) : State × Option Nat :=
  let g := s.groupAt gslot
  let die := dieOf g.core
  let r := s.opRec kind team gslot f
  if r.depth = 3 then
    (match s.team team with
     | some t => s.escalate t
     | none => s, none)
  else
    match s.barPlace die r.part r.depth 1 with
    | some (d, i) =>
      let head := s.openSet g.ctx r.page f.cls
      let (s, r) := s.placeRec { r with head := head.map (·.id), st := if head.isSome then .member else .parked } d i
      (s, some r.id)
    | none =>
      if r.depth ≠ 0 then
        (match s.team team with
         | some t => s.escalate t
         | none => s, none)
      else
        let r := { s.opRec kind team gslot (mkF .unserviceable .barFull 0 2) with st := .report, pool := 1, page := 0 }
        match s.barPlace die r.part 1 1 with
        | some (d, i) => ((s.placeRec r d i).1, none)
        | none => (s.askReset g.ctx, none)

/-- A kill of a tile operation or copy segment voids a determinism run (R499). -/
def State.voidOp (s : State) (team gslot : Nat) : State :=
  let g := s.groupAt gslot
  s.voidRun g.ctx (dieOf g.core) (((s.team team).map (·.tid)).getD 0) 2

/-- A numbered operation of a team has completed: its timeline, and CNT.CP or CNT.TI (R149, R337, R358). -/
def State.retireOp (s : State) (team cls num : Nat) : State :=
  let s1 := s.modTeam team (fun t =>
    let t := t.complete cls num
    if cls = 1 then { t with cnt := { t.cnt with ti := t.cnt.ti - 1 } }
    else { t with cnt := { t.cnt with cp := t.cnt.cp - 1 } })
  match s.team team with
  | some t => s1.traceTl t (t.complete cls num) cls
  | none => s1

/-- The core that holds an offset of a cluster's window, and the offset in its lent region (R105). -/
def State.windowCore (s : State) (cluster o : Nat) : Nat × Nat :=
  let en := s.modl.cores.filter (fun k => k < 192 && k / 8 == cluster)
  let g := o % 2 ^ 32 / 256
  (en.getD (g % en.length) (8 * cluster), g / en.length * 256 + o % 256)

/-- The die that holds a byte: that of its address, of its chip scratchpad offset (R103), of the core that lends its part of the
window (R105), or of the core of its group or team. -/
def State.dieOfHome (s : State) (a : Nat) : Nat :=
  let off := a % 2 ^ 40
  let unit := a % 2 ^ 80 / 2 ^ 40
  match a / 2 ^ 80 with
  | 0 => dieOfPa a
  | 1 => off / 2 ^ 28 % 2
  | 2 => dieOf (s.groupAt unit).core
  | 3 => dieOf (s.windowCore unit off).1
  | 9 => dieOf (s.groupAt unit).core
  | _ => ((s.team (unit / 1024)).map (fun t => dieOf (s.groupOf t).core)).getD 0

/-- What names a byte's place among the granules of its die: its home, or the core of R105 and its offset there. -/
def State.granuleKey (s : State) (a : Nat) : Nat :=
  if a / 2 ^ 80 = 3 then
    let x := s.windowCore (a % 2 ^ 80 / 2 ^ 40) (a % 2 ^ 40)
    3 * 2 ^ 80 + 2 ^ 79 + x.1 * 2 ^ 40 + x.2
  else a

/-- The unit charged for an error in a byte of memory: its L2 slice, or its SRAM bank group (Table 17-2). -/
def State.memUnit (s : State) (a : Nat) : Nat × Nat :=
  if a < 2 ^ 80 then (4, 64 * dieOfPa a + Config.sliceOf (a / 128) % 64)
  else (3, 768 * s.dieOfHome a + Config.granuleOf (s.granuleKey a) % 768)

/-- An uncorrectable error in a byte: a record of type 5, and 64 pips for the unit that holds it; whether a word of space
G stands in the L2 or only in LPDDR5X, which has no unit, is open (R481, R484). -/
def State.uncorrectable (s : State) (a ctx : Nat) : State :=
  let (s, l2) := s.choose
  let u := s.memUnit a
  if a < 2 ^ 80 ∧ l2 = false then s.relRecord (dieOfPa a) 5 15 0 0 ctx a 0
  else
    let s := s.relRecord (s.dieOfHome a) 5 u.1 u.2 (min 255 (s.pips u.1 u.2 + 64)) ctx (a % 2 ^ 64) 0
    s.addPips u.1 u.2 64

/-! ### Scratchpad ranges (R97) -/

/-- Bytes of a context's H ranges. -/
def State.inHRun (s : State) (c off n : Nat) : Bool :=
  off + n ≤ 2 ^ 29 && (List.range ((off + n - 1) / 65536 - off / 65536 + 1)).all
    (fun i => s.inH c (max off ((off / 65536 + i) * 65536)))

/-- The fault of a run of bytes that leaves its space, or a non-canonical G run (R97, R358). -/
def State.runFault (s : State) (g : Group) (sp : BitVec 3) (a n : Nat) : Option FaultInfo :=
  if n = 0 then none else
  match sp.toNat with
  | 1 => if a + n ≤ g.cSize then none else some (mkF .spaceBounds .none a 1)
  | 2 => if a + n ≤ g.kSize then none else some (mkF .spaceBounds .none a 2)
  | 3 => if s.inHRun g.ctx a n then none else some (mkF .spaceBounds .none a 3)
  | _ => if a + n ≤ 2 ^ 52 then none else some (mkF .spaceBounds .nonCanonical a 4)

/-- The home of a byte of a scratchpad, as a group's work names it. -/
def Group.home (g : Group) (sp : BitVec 3) (a : Nat) : Nat :=
  match sp.toNat with
  | 1 => homeC g.slot a
  | 2 => homeK (clusterOf g.core) (g.kBase + a)
  | _ => homeH a

end Sys2Proof.Machine
end

