-- ==== Sys2Proof/Machine/Scalar.lean ====
section
/-! DEFINITION. Majors 1 to 5: branches, control, scalar arithmetic, special-register moves (R240 to R258). -/

namespace Sys2Proof.Machine

/-! ### Branches (R240 to R244) -/

/-- The offset of a branch, sign-extended (R240). -/
def off15 : Off15 → Dw
  | .short o => o.signExtend 64
  | .long o => o.signExtend 64

/-- The offset of BALW, sign-extended (R240). -/
def off7 : Off7 → Dw
  | .short o => o.signExtend 64
  | .long o => o.signExtend 64

/-- The target of a direct transfer: header + 4 x offset modulo 2^64 (R213, R240). -/
def Team.target (t : Team) (o : Dw) : Dw := t.pc + 4 * o

/-- A target has no bit set at or above bit 52. -/
def canonical (a : Dw) : Bool := decide (a.toNat < 2 ^ 52)

/-- A taken direct transfer, or the fault of a non-canonical target (R240). -/
def State.branchTo (s : State) (t : Team) (o : Dw) : State :=
  if canonical (t.target o) then s.jump t (t.target o) else s.park t (mkF .illegalTarget .nonCanonical 0 0)

/-- What issue checks of a branch that reads scalar registers. -/
def brInfo (rs : List SReg) : Info := { sr := rs, eng := 5, xfer := true }

/-- A conditional branch on a scalar register (R241, R242). -/
def branchS (a : SReg) (o : Off15) (f : Dw → Bool) (s : State) : Out :=
  issue (brInfo [a]) (fun t s => if f (t.s a) then s.branchTo t (off15 o) else s.retire t) s

/-- BR (R241). -/
def execBr (o : Off15) (s : State) : Out := issue (brInfo []) (fun t s => s.branchTo t (off15 o)) s
/-- BRC.EQ (R241). -/
def execBrcEq (a : SReg) (o : Off15) (s : State) : Out := branchS a o (fun x => x == 0) s
/-- BRC.NE (R241). -/
def execBrcNe (a : SReg) (o : Off15) (s : State) : Out := branchS a o (fun x => x != 0) s
/-- BRC.LT (R241). -/
def execBrcLt (a : SReg) (o : Off15) (s : State) : Out := branchS a o (fun x => x.msb) s
/-- BRC.GE (R241). -/
def execBrcGe (a : SReg) (o : Off15) (s : State) : Out := branchS a o (fun x => !x.msb) s

/-- A conditional branch on the lanes of a predicate (R241). -/
def branchP (p : PReg) (o : Off15) (any : Bool) (s : State) : Out :=
  issue { pr := [p], eng := 5, xfer := true, ex := true }
    (fun t s => if (t.regs.exec &&& t.p p ≠ 0) = any then s.branchTo t (off15 o) else s.retire t) s

/-- BANY (R241). -/
def execBany (p : PReg) (o : Off15) (s : State) : Out := branchP p o true s
/-- BNONE (R241). -/
def execBnone (p : PReg) (o : Off15) (s : State) : Out := branchP p o false s

/-- Allowance(n) as a team reads it (R243). -/
def State.allowRead (s : State) (t : Team) (n : Nat) : Nat :=
  if 512 ≤ n ∨ !s.modl.modules.contains n then 0
  else if n = s.modl.modNo ∨ (s.ctx (s.ctxOf t)).detm then 255
  else s.allowance n

/-- BALW (R243): never deschedules the team. -/
def execBalw (a : SReg) (thr : BitVec 8) (o : Off7) (s : State) : Out :=
  issue (brInfo [a])
    (fun t s => if thr.toNat ≤ s.allowRead t (t.s a).toNat then s.branchTo t (off7 o) else s.retire t) s

/-- The address of the clause that follows the clause in issue (R214): the transfer is its last instruction. -/
def Team.nextClause (t : Team) : Dw := t.pc + BitVec.ofNat 64 (4 * t.next)

/-- CALL (R244). -/
def execCall (o : Off15) (s : State) : Out :=
  issue { sw := [61], eng := 5, xfer := true }
    (fun t s =>
      if canonical (t.target (off15 o)) then s.jump (t.setS 61 t.nextClause) (t.target (off15 o))
      else s.park t (mkF .illegalTarget .nonCanonical 0 0)) s

/-! ### Control without an offset (R245 to R254) -/

/-- NOP (R250). -/
def execNop (s : State) : Out := issue {} (fun t s => s.retire t) s

/-- EXIT (R247). -/
def execExit (s : State) : Out :=
  issue { eng := 5, xfer := true, stop := true }
    (fun t s =>
      (s.modPart (s.ctx (s.ctxOf t)).part (fun p => { p with lastEvent := s.clk })).endTeam t (.exited t.pc)) s

/-- YLD (R249). -/
def execYld (s : State) : Out := issue { eng := 5 } (fun t s => s.retire { t with yieldNow := true }) s

/-- A transfer through a register (R246). -/
def State.jumpReg (s : State) (t : Team) (x : Dw) (link : Bool) : State :=
  if x.toNat % 4 ≠ 0 then s.park t (mkF .illegalTarget .unaligned 0 0)
  else if !canonical x then s.park t (mkF .illegalTarget .nonCanonical 0 0)
  else s.jump (if link then t.setS 61 t.nextClause else t) x

/-- RET (R246). -/
def execRet (a : SReg) (s : State) : Out := issue (brInfo [a]) (fun t s => s.jumpReg t (t.s a) false) s
/-- CALLR (R246). -/
def execCallr (a : SReg) (s : State) : Out :=
  issue { brInfo [a] with sw := [61] } (fun t s => s.jumpReg t (t.s a) true) s
/-- BRR (R246). -/
def execBrr (a : SReg) (s : State) : Out := issue (brInfo [a]) (fun t s => s.jumpReg t (t.s a) false) s

/-- TRAP n (R251): parks the team at the TRAP. -/
def execTrap (n : BitVec 7) (s : State) : Out :=
  issue { eng := 5 } (fun t s => s.park t (mkF .illegalEncoding .trap n.toNat 0)) s

/-- PDIS (R252, R39): the budget counts from the PDIS that found pre-emption enabled. -/
def execPdis (s : State) : Out :=
  issue { eng := 5, xr := [0x0D], xw := [0x0D] }
    (fun t s =>
      if t.pdis then s.retire t
      else s.retire { t with pdis := true, pdLeft := (s.groupOf t).pdBud, pdAt := s.clk }) s

/-- PEN (R252). -/
def execPen (s : State) : Out :=
  issue { eng := 5, xw := [0x0D] } (fun t s => s.retire { t with pdis := false, pdLeft := 0 }) s

/-- The cores in the instance of a scope of a core (Table 4-1, R168). -/
def coresIn (scope core : Nat) : List Nat :=
  if scope ≤ 1 then [core]
  else if scope = 2 then (List.range Config.allCores).filter (fun k => clusterOf k = clusterOf core)
  else List.range Config.allCores

/-- The lines of a range of VAs, of any context, leave the instruction caches of cores (R168, R253). -/
def State.dropCode (s : State) (cores : List Nat) (lo n : Nat) : State :=
  let hit (l : Nat) : Bool := n ≠ 0 && lo / 128 ≤ l % 2 ^ 45 && l % 2 ^ 45 ≤ (lo + n - 1) / 128
  { s with cores := s.cores.map (fun (k : Core) =>
      if cores.contains k.id then { k with ic := k.ic.filter (fun l => !hit l.1) } else k) }

/-- ICINV (R253, R254): the team waits for its earlier stores and atomics; the lines of the range leave the instruction caches in
the scope. -/
def execIcinv (c : BitVec 3) (a b : SReg) (s : State) : Out :=
  issue { bad := if scopeOk c then none else some .reservedScope, sr := [a, b], eng := 5, stop := true }
    (fun t s =>
      let lo := (t.s a).toNat
      let n := (t.s b).toNat
      let g := s.groupOf t
      if n ≠ 0 ∧ 2 ^ 52 < lo + n then s.park t (mkF .spaceBounds .nonCanonical (max lo (2 ^ 52)) 4)
      else if s.openWrites t.key ≠ [] then s.deschedule t .sys
      else
        (s.dropCode (coresIn c.toNat g.core) lo n).retire t) s

/-! ### Scalar arithmetic (R255, R256) -/

/-- A scalar instruction of two sources. -/
def sop2 (d a b : SReg) (f : Dw → Dw → Dw) (s : State) : Out :=
  issue { sr := [a, b], sw := [d] } (fun t s => s.retire (t.setS d (f (t.s a) (t.s b)))) s

/-- A scalar instruction of one source. -/
def sop1 (d a : SReg) (f : Dw → Dw) (s : State) : Out :=
  issue { sr := [a], sw := [d] } (fun t s => s.retire (t.setS d (f (t.s a)))) s

/-- Signed quotient truncated toward zero; b = 0 gives 2^64 - 1 (Table 7-5). -/
def divS (a b : Dw) : Dw := if b = 0 then BitVec.allOnes 64 else BitVec.ofInt 64 (a.toInt.tdiv b.toInt)
/-- Unsigned quotient; b = 0 gives 2^64 - 1. -/
def divU (a b : Dw) : Dw := if b = 0 then BitVec.allOnes 64 else BitVec.ofNat 64 (a.toNat / b.toNat)
/-- Signed remainder; b = 0 gives a. -/
def remS (a b : Dw) : Dw := if b = 0 then a else BitVec.ofInt 64 (a.toInt.tmod b.toInt)
/-- Unsigned remainder; b = 0 gives a. -/
def remU (a b : Dw) : Dw := if b = 0 then a else BitVec.ofNat 64 (a.toNat % b.toNat)

/-- ADD (R255): a + b modulo 2^64. -/
def execAdd (d a b : SReg) (s : State) : Out := sop2 d a b (fun x y => x + y) s
/-- SUB (R255): a - b modulo 2^64. -/
def execSub (d a b : SReg) (s : State) : Out := sop2 d a b (fun x y => x - y) s
/-- MUL (R255): the low 64 bits of the product. -/
def execMul (d a b : SReg) (s : State) : Out := sop2 d a b (fun x y => x * y) s
/-- MULHS (R255): the high 64 bits of the signed product. -/
def execMulhs (d a b : SReg) (s : State) : Out := sop2 d a b (fun x y => BitVec.ofInt 64 (x.toInt * y.toInt / 2 ^ 64)) s
/-- MULHU (R255): the high 64 bits of the unsigned product. -/
def execMulhu (d a b : SReg) (s : State) : Out := sop2 d a b (fun x y => BitVec.ofNat 64 (x.toNat * y.toNat / 2 ^ 64)) s
/-- DIV (R255): the signed quotient. -/
def execDiv (d a b : SReg) (s : State) : Out := sop2 d a b (divS) s
/-- DIVU (R255): the unsigned quotient. -/
def execDivu (d a b : SReg) (s : State) : Out := sop2 d a b (divU) s
/-- REM (R255): the signed remainder. -/
def execRem (d a b : SReg) (s : State) : Out := sop2 d a b (remS) s
/-- REMU (R255): the unsigned remainder. -/
def execRemu (d a b : SReg) (s : State) : Out := sop2 d a b (remU) s
/-- AND (R255): a AND b. -/
def execAnd (d a b : SReg) (s : State) : Out := sop2 d a b (fun x y => x &&& y) s
/-- OR (R255): a OR b. -/
def execOr (d a b : SReg) (s : State) : Out := sop2 d a b (fun x y => x ||| y) s
/-- XOR (R255): a XOR b. -/
def execXor (d a b : SReg) (s : State) : Out := sop2 d a b (fun x y => x ^^^ y) s
/-- ANDN (R255): a AND NOT b. -/
def execAndn (d a b : SReg) (s : State) : Out := sop2 d a b (fun x y => x &&& ~~~y) s
/-- SHL (R255): a shifted left by b[5:0]. -/
def execShl (d a b : SReg) (s : State) : Out := sop2 d a b (fun x y => x <<< (y.toNat % 64)) s
/-- SHR (R255): a shifted right by b[5:0], filling with zeros. -/
def execShr (d a b : SReg) (s : State) : Out := sop2 d a b (fun x y => x >>> (y.toNat % 64)) s
/-- SAR (R255): a shifted right by b[5:0], filling with a[63]. -/
def execSar (d a b : SReg) (s : State) : Out := sop2 d a b (fun x y => x.sshiftRight (y.toNat % 64)) s
/-- ROL (R255): a rotated left by b[5:0]. -/
def execRol (d a b : SReg) (s : State) : Out := sop2 d a b (fun x y => x.rotateLeft (y.toNat % 64)) s
/-- MIN (R255): the smaller, signed. -/
def execMin (d a b : SReg) (s : State) : Out := sop2 d a b (fun x y => if x.slt y then x else y) s
/-- MAX (R255): the larger, signed. -/
def execMax (d a b : SReg) (s : State) : Out := sop2 d a b (fun x y => if x.slt y then y else x) s
/-- MINU (R255): the smaller, unsigned. -/
def execMinu (d a b : SReg) (s : State) : Out := sop2 d a b (fun x y => if x.ult y then x else y) s
/-- MAXU (R255): the larger, unsigned. -/
def execMaxu (d a b : SReg) (s : State) : Out := sop2 d a b (fun x y => if x.ult y then y else x) s
/-- SLT (R255): 1 if a < b signed. -/
def execSlt (d a b : SReg) (s : State) : Out := sop2 d a b (fun x y => if x.slt y then 1 else 0) s
/-- SLTU (R255): 1 if a < b unsigned. -/
def execSltu (d a b : SReg) (s : State) : Out := sop2 d a b (fun x y => if x.ult y then 1 else 0) s
/-- SEQ (R255): 1 if a = b. -/
def execSeq (d a b : SReg) (s : State) : Out := sop2 d a b (fun x y => if x = y then 1 else 0) s

/-- Leading zero bits of the low `n` bits of a number. -/
def clzNat (n x : Nat) : Nat := if x = 0 then n else n - 1 - Nat.log2 x

/-- CLZ (R255): leading zero bits, 64 for 0. -/
def execClz (d a : SReg) (s : State) : Out := sop1 d a (fun x => BitVec.ofNat 64 (clzNat 64 x.toNat)) s
/-- POPC (R255): count of one bits. -/
def execPopc (d a : SReg) (s : State) : Out := sop1 d a (fun x => BitVec.ofNat 64 (popNat 64 x.toNat)) s

/-- The immediate of major 4 extended to 64 bits (R256). -/
def immSext : Imm → Dw
  | .short i => i.signExtend 64
  | .long i => i.signExtend 64

/-- The immediate of LIH as 32 bits (Table 7-6). -/
def immWord : Imm → Wd
  | .short i => i.signExtend 32
  | .long i => i

/-- ADDI (R256). -/
def execAddi (d a : SReg) (i : Imm) (s : State) : Out := sop1 d a (fun x => x + (immSext i)) s
/-- MULI (R256). -/
def execMuli (d a : SReg) (i : Imm) (s : State) : Out := sop1 d a (fun x => x * (immSext i)) s
/-- ANDI (R256). -/
def execAndi (d a : SReg) (i : Imm) (s : State) : Out := sop1 d a (fun x => x &&& (immSext i)) s
/-- ORI (R256). -/
def execOri (d a : SReg) (i : Imm) (s : State) : Out := sop1 d a (fun x => x ||| (immSext i)) s
/-- XORI (R256). -/
def execXori (d a : SReg) (i : Imm) (s : State) : Out := sop1 d a (fun x => x ^^^ (immSext i)) s
/-- SHLI (R256). -/
def execShli (d a : SReg) (i : BitVec 6) (s : State) : Out := sop1 d a (fun x => x <<< i.toNat) s
/-- SHRI (R256). -/
def execShri (d a : SReg) (i : BitVec 6) (s : State) : Out := sop1 d a (fun x => x >>> i.toNat) s
/-- SARI (R256). -/
def execSari (d a : SReg) (i : BitVec 6) (s : State) : Out := sop1 d a (fun x => x.sshiftRight i.toNat) s
/-- SLTI (R256). -/
def execSlti (d a : SReg) (i : Imm) (s : State) : Out := sop1 d a (fun x => if x.slt (immSext i) then 1 else 0) s
/-- SLTUI (R256). -/
def execSltui (d a : SReg) (i : Imm) (s : State) : Out := sop1 d a (fun x => if x.ult (immSext i) then 1 else 0) s
/-- SEQI (R256). -/
def execSeqi (d a : SReg) (i : Imm) (s : State) : Out := sop1 d a (fun x => if x = (immSext i) then 1 else 0) s
/-- LI (R256): s(D) := sext(i). -/
def execLi (d : SReg) (i : Imm) (s : State) : Out := issue { sw := [d] } (fun t s => s.retire (t.setS d (immSext i))) s
/-- LIH (R256): s(D) := (j << 32) OR s(A)[31:0]. -/
def execLih (d a : SReg) (i : Imm) (s : State) : Out := sop1 d a (fun x => immWord i ++ x.setWidth 32) s

/-! ### Special registers (R72 to R76, R257, R258) -/

/-- Doubleword k of a mask. -/
def maskDw (m : Mask) (k : Nat) : Dw := (m >>> (64 * k)).setWidth 64

/-- A mask with doubleword k replaced. -/
def maskSet (m : Mask) (k : Nat) (x : Dw) : Mask :=
  (m &&& ~~~((0xFFFFFFFFFFFFFFFF : Mask) <<< (64 * k))) ||| (x.setWidth 1024 <<< (64 * k))

/-- Doubleword k of a mask register; at or above WIDTH it reads zero (R73). -/
def Team.maskRead (t : Team) (m : Mask) (k : Nat) : Dw := if t.width ≤ 64 * k then 0 else maskDw m k

/-- The disable budget that remains (R39, R41). -/
def State.pdRemain (s : State) (t : Team) : Nat := if t.pdis then t.pdLeft - (s.clk - t.pdAt) else 0

/-- A special register read (Table 2-2); none for an SRN missing from the table. -/
def State.srRead (s : State) (t : Team) (n : Nat) : Option Dw :=
  let g := s.groupOf t
  let nat (x : Nat) : Option Dw := some (BitVec.ofNat 64 x)
  match n with
  | 0x00 => nat (summary t.regs.exec)
  | 0x01 => nat t.width
  | 0x02 => nat t.index
  | 0x03 => nat t.role
  | 0x04 => nat t.stages
  | 0x05 => nat g.gx
  | 0x06 => nat g.gy
  | 0x07 => nat g.gz
  | 0x08 => some (t.regs.fpctl.setWidth 64)
  | 0x09 => some (t.regs.slim.setWidth 64)
  | 0x0A => some t.regs.seed
  | 0x0B => nat t.vcnt
  | 0x0C => nat t.rdDepth
  | 0x0D => nat (b2n t.pdis * 2 ^ 31 + bits (s.pdRemain t) 20 0)
  | 0x10 => nat t.cnt.ld
  | 0x11 => nat t.cnt.st
  | 0x12 => nat t.cnt.cp
  | 0x13 => nat t.cnt.ti
  | 0x14 => nat t.tl.cpy.count
  | 0x15 => nat t.tl.tile.count
  | 0x16 => nat t.tl.gath.count
  | 0x17 => nat t.tl.coll.count
  | 0x18 => some t.regs.srctr
  | _ =>
    if 0x20 ≤ n ∧ n < 0x30 then some (t.maskRead t.regs.exec (n - 0x20))
    else if 0x30 ≤ n ∧ n < 0x40 then some (t.maskRead t.regs.dead (n - 0x30))
    else if 0x40 ≤ n ∧ n < 0x50 then some (t.maskRead t.regs.deadsrc (n - 0x40))
    else none

/-- An SRN of Table 2-2. -/
def srnOk (n : Nat) : Bool := n ≤ 0x0D || (0x10 ≤ n && n ≤ 0x18) || (0x20 ≤ n && n < 0x50)

/-- The bits of FPCTL that are not RZ (Table 2-3). -/
def fpctlBits : Wd := 0x00071F1F

/-- A special register written (R72 to R76): an RO register ignores it; none for an RM of 6 or 7. `w1c` says whether
DEADSRC is written as W1C (an instruction) or as given (PKWR). -/
def Team.srWrite (t : Team) (n : Nat) (x : Dw) (w1c : Bool) : Option Team :=
  let setR (r : Regs) : Option Team := some { t with regs := r }
  match n with
  | 0x08 => if 6 ≤ fld x 18 16 then none else setR { t.regs with fpctl := x.setWidth 32 &&& fpctlBits }
  | 0x09 => setR { t.regs with slim := x.setWidth 32 &&& 0xFFFFFFF0 }
  | 0x0A => setR { t.regs with seed := x }
  | _ =>
    if 0x20 ≤ n ∧ n < 0x30 then
      if t.width ≤ 64 * (n - 0x20) then some t else some (t.setExec (maskSet t.regs.exec (n - 0x20) x))
    else if 0x40 ≤ n ∧ n < 0x50 then
      if t.width ≤ 64 * (n - 0x40) then some t
      else
        let old := maskDw t.regs.deadsrc (n - 0x40)
        let new := if w1c then old &&& ~~~x else x
        setR { t.regs with deadsrc := maskSet t.regs.deadsrc (n - 0x40) new &&& widthMask t.width }
    else some t

/-- SRRD (R257). -/
def execSrrd (d : SReg) (n : BitVec 8) (s : State) : Out :=
  issue { bad := if srnOk n.toNat then none else some .reservedSrn, sw := [d], xr := [n.toNat] }
    (fun t s => s.retire (t.setS d ((s.srRead t n.toNat).getD 0))) s

/-- SRWR (R257): an RM of 6 or 7 raises illegal-encoding and FPCTL keeps its value (R76). -/
def execSrwr (n : BitVec 8) (a : SReg) (s : State) : Out :=
  issue { bad := if srnOk n.toNat then none else some .reservedSrn, sr := [a], xw := [n.toNat] }
    (fun t s =>
      match t.srWrite n.toNat (t.s a) true with
      | some t => s.retire t
      | none => s.park t (mkF .illegalEncoding .reservedValue 0 0)) s

end Sys2Proof.Machine
end

