-- ==== Sys2Proof/Machine/Sync.lean ====
section
/-! DEFINITION. Major 53: barriers, fences, waits, read sections, rounds, deferred free, the allowance (R312, R322 to
R335). -/

namespace Sys2Proof.Machine

/-! ### Barriers (R328 to R330) -/

/-- A team counted as arrived, by its identifier; the first arrival starts the phase's timer (R438). `ids`: the accesses that it comes
after and that are not performed. -/
def Barrier.arrive (b : Barrier) (k clk : Nat) (ids : List Nat) : Barrier :=
  { b with arrived := b.arrived ++ [k], start := if b.arrived = [] then some clk else b.start, before := b.before ++ ids }

/-- The barrier with a key, or one in its first phase. -/
def State.barrier (s : State) (key : BarrierKey) : Barrier :=
  (s.bars.find? (fun b => b.key == key)).getD { key := key, arrived := [], start := none, phase := 0 }

/-- A barrier replaced. -/
def State.putBarrier (s : State) (b : Barrier) : State :=
  { s with bars := b :: s.bars.filter (fun x => x.key != b.key) }

/-- A team arrives when it executes the instruction, and waits after it until the phase completes (R329): what the team's accesses
have still to perform outside comes before what members do after the phase (R155, R535; DEDUCED, notes/assumptions/45.md). -/
def State.arrive (s : State) (t : Team) (key : BarrierKey) : State :=
  let ids := (s.acc.filter (fun a => a.team == t.key && a.away)).map (·.id) ++ s.afterBar t
  (s.putBarrier ((s.barrier key).arrive t.tid s.clk ids)).retireWait t (.barrier key)

/-- BAR.G (R328). -/
def execBarG (i : BitVec 4) (s : State) : Out :=
  issue { eng := 5, stop := true }
    (fun t s =>
      if (s.groupOf t).member i.toNat t.role then s.arrive t (.group t.gslot i.toNat)
      else s.park t (mkF .illegalEncoding .notABarrierMember 0 0)) s

/-- BAR.C (R328). -/
def execBarC (i : BitVec 3) (s : State) : Out :=
  issue { eng := 5, stop := true }
    (fun t s =>
      let g := s.groupOf t
      s.arrive t (.cluster g.origin.num (clusterOf g.core) i.toNat)) s

/-- BAR.L (R328). -/
def execBarL (i : BitVec 2) (s : State) : Out :=
  issue { eng := 5, stop := true } (fun t s => s.arrive t (.launch (s.groupOf t).origin.num i.toNat)) s

/-! ### Fences and waits (R322 to R324) -/

/-- FENCE (R322): an acquire waits for the team's loads, the other kinds for every earlier access, those that a barrier has ordered
before it among them (R145); an acquire of CLUSTER scope or wider invalidates the L1. -/
def execFence (k : BitVec 2) (c : BitVec 3) (s : State) : Out :=
  issue { bad := if scopeOk c then none else some .reservedScope, eng := 5, stop := true
          xr := if k = 0 then [0x10] else [0x10, 0x11] }
    (fun t s =>
      let st := if k = 0 then 15 else 0
      if k ≠ 0 ∧ s.afterBar t ≠ [] then s.deschedule t (.accs (s.afterBar t))
      else if t.cnt.meets 0 st 15 15 then
        let s := if k ≠ 1 ∧ 2 ≤ c.toNat then s.invL1 (s.groupOf t).core else s
        s.retire t
      else s.deschedule t (.thr 0 st 15 15)) s

/-- The counters that thresholds read: those of a threshold that imposes a wait (R204). -/
def waitRegs (ws : List (BitVec 4)) : List Nat := ((enum ws).filter (fun p => p.2 != 15)).map (fun p => 0x10 + p.1)

/-- WAIT (R323). -/
def execWait (l st c ti : BitVec 4) (s : State) : Out :=
  issue { eng := 5, stop := true, xr := waitRegs [l, st, c, ti] }
    (fun t s =>
      if t.cnt.meets l.toNat st.toNat c.toNat ti.toNat then s.retire t
      else s.deschedule t (.thr l.toNat st.toNat c.toNat ti.toNat)) s

/-- The counter of a class of a team of the group (R152). -/
def State.tlCount (s : State) (k c : Nat) : Nat := ((s.team k).map (fun t => (t.tl.get c).count)).getD 0

/-- TLWAIT (R324): it acts as an acquire of CLUSTER scope or wider, and at SYSTEM scope makes the writes to the host visible there by a
flushing read (R151) (DEDUCED, notes/assumptions/98.md). -/
def execTlwait (n : SReg) (k : BitVec 4) (o : Bool) (c : BitVec 2) (sc : BitVec 3) (s : State) : Out :=
  issue { bad := if !scopeOk sc then some .reservedScope else if !o && k ≠ 0 then some .none else none
          sr := [n], eng := 5, stop := true, xr := if o then [] else [0x14 + c.toNat] }
    (fun t s =>
      let g := s.groupOf t
      let x := (t.s n).toNat
      if o && g.stageMap.length ≤ k.toNat then s.park t (mkF .illegalEncoding .teamBeyondGroup 0 0)
      else if !o && (t.tl.get c.toNat).issued < x then s.park t (mkF .illegalEncoding .timelineBeyondIssue 0 0)
      else
        let who := if o then t.gslot * 16 + k.toNat else t.key
        if x ≤ s.tlCount who c.toNat then
          (if sc = 5 ∧ s.hostSeen < s.hostOut.length then s.deschedule t (.flush s.hostOut.length)
           else (s.invL1 g.core).retire t)
        else s.deschedule t (.tl who c.toNat x)) s

/-! ### WAITA (R325 to R327) -/

/-- The word WAITA names, as the monitor knows it: a local home, or a word of a peer; the host's is of module 512. -/
def Piece.word (p : Piece) : Nat :=
  match p.ap with
  | 0 => p.addr
  | 1 => homeP p.peer p.addr
  | _ => homeP 512 p.addr

/-- A waiter is registered at the word's home. -/
def Piece.wait (p : Piece) : Wait :=
  match p.ap with
  | 0 => .waita p.addr
  | 1 => .waitaPeer p.peer p.addr
  | _ => .waitaPeer 512 p.addr

/-- The space of a code (Table 3-1). -/
def spaceOf (p : BitVec 3) : Space :=
  match p.toNat with
  | 0 => .L
  | 1 => .C
  | 2 => .K
  | 3 => .H
  | _ => .G

/-- The detail of a space that an instruction does not allow (R95, R325, R357) (DEDUCED, notes/assumptions/11.md). -/
def spaceBad (p : BitVec 3) : Option Detail :=
  if p = 0 then some .space else if p.toNat ≤ 4 then none else some .reservedSpace

/-- WAITA (R325, R326). -/
def execWaita (a : SReg) (p : BitVec 3) (s : State) : Out :=
  issue { bad := spaceBad p, sr := [a], eng := 5, stop := true }
    (fun t s =>
      match s.resolve t (spaceOf p) a { k := .load, size := 8, align := true } 0 (t.s a) with
      | (s, .inl f) => s.park t f
      | (s, .inr ps) =>
        let s := (s.markAll [{ lane := 0, va := t.s a, ps := ps }] false).effect t
        match ps with
        | [] => s.retire t
        | pc :: _ =>
          let seen := t.monitor == some (pc.word, true)
          let t := { t with monitor := none }
          if seen then s.retire t else s.deschedule t pc.wait) s

/-- The WAITA of a woken team completes: it goes on with the next instruction (R327). -/
def State.endWaita (s : State) (t : Team) : State := s.retire { t with st := .running, age := s.clk }

/-! ### Read sections, rounds, deferred free (R331 to R335) -/

/-- RDENTER (R331, R332). -/
def execRdenter (s : State) : Out :=
  issue { eng := 5, xr := [0x0C], xw := [0x0C] }
    (fun t s =>
      if t.rdDepth = 255 then s.park t (mkF .illegalEncoding .readDepth 0 0)
      else
        let s := s.effect t
        let s := if t.rdDepth = 0 then s.invL1 (s.groupOf t).core else s
        s.retire { t with rdDepth := t.rdDepth + 1 }) s

/-- A load, or an atomic of any kind, of a team is not complete (R332). -/
def State.readsOpen (s : State) (k : Nat) : Bool :=
  s.acc.any (fun a => a.team == k && (a.load || a.fin != .none))

/-- RDEXIT (R331, R332): the team's turn when the depth returns to 0. -/
def execRdexit (s : State) : Out :=
  issue { eng := 5, xr := [0x0C], xw := [0x0C] }
    (fun t s =>
      if t.rdDepth = 0 then s.park t (mkF .illegalEncoding .readDepth 0 0)
      else if t.rdDepth = 1 then
        if s.readsOpen t.key then s.deschedule t .cond
        else
          let s := { s with rounds := s.rounds.map (fun (r : Round) => r.without t.key) }
          s.retire { t with rdDepth := 0 }
      else s.retire { t with rdDepth := t.rdDepth - 1 }) s

/-- The teams of a context that are inside a read section (R333). -/
def State.readers (s : State) (c : Nat) : List Nat :=
  (s.teams.filter (fun t => s.ctxOf t == c && decide (0 < t.rdDepth))).map (·.key)

/-- The modules with contexts that may be joined to one: the others of the domain, where its JOIN is not zero (Table 13-5). -/
def State.joinedModules (s : State) (c : Nat) : List Nat :=
  if fld (s.ctx c).join 15 0 = 0 then [] else s.modl.modules.filter (fun m => m != s.modl.modNo)

/-- A round begins: its set is formed, and it will release the entries queued before it (R333, R335, R382). -/
def State.beginRound (s : State) (c : Nat) (team : Option Nat) (scope : Nat) : State × Nat :=
  let (s, id) := s.fresh
  ({ s with
     rounds := s.rounds ++ [{ id := id, ctx := c, team := team, scope := scope, set := s.readers c, at_ := s.clk,
                              far := if scope = 4 then s.joinedModules c else [] }]
     dfl := s.dfl.map (fun (e : DEntry) =>
       if e.ctx == c && e.queued && e.round.isNone && !e.released then { e with round := some id } else e) }, id)

/-- WROUND (R333): a release at SCOPE, then a round. -/
def execWround (sc : BitVec 3) (s : State) : Out :=
  issue { bad := if sc = 3 ∨ sc = 4 then none else some .roundScope, eng := 5, stop := true, xr := [0x0C] }
    (fun t s =>
      if t.rdDepth ≠ 0 then s.park t (mkF .illegalEncoding .roundInsideReadSection 0 0)
      else if !s.settled t.key then s.deschedule t .stores
      else
        let (s, id) := s.beginRound (s.ctxOf t) (some t.key) sc.toNat
        s.deschedule t (.round id)) s

/-- Entries of a context on its deferred-free list (R335). -/
def State.dflCount (s : State) (c : Nat) : Nat := (s.dfl.filter (fun e => e.ctx == c)).length

/-- DFREE (R335): the queueing completes later, in the event of that name. -/
def execDfree (a b : SReg) (c : BitVec 4) (s : State) : Out :=
  issue { sr := [a, b], eng := 5 }
    (fun t s =>
      let ctx := s.ctxOf t
      if !canonical (t.s a) then s.park t (mkF .spaceBounds .nonCanonical (t.s a).toNat 4)
      else if 65536 ≤ s.dflCount ctx then s.deschedule t .cond
      else
        let s := s.effect t
        let (s, id) := s.fresh
        let e : DEntry := { id := id, ctx := ctx, addr := t.s a, size := t.s b, cls := c.toNat,
                            waits := s.openWrites t.key, queued := false, round := none, released := false }
        ({ s with dfl := s.dfl ++ [e] }).retire t) s

/-- ALWRD (R312). -/
def execAlwrd (d a : SReg) (s : State) : Out :=
  issue { sr := [a], sw := [d], eng := 5 }
    (fun t s => s.retire (t.setS d (BitVec.ofNat 64 (s.allowRead t (t.s a).toNat)))) s

end Sys2Proof.Machine
end

