-- ==== Sys2Proof/Machine/Async.lean ====
section
/-! DEFINITION. Major 54: copies, stream queues, timeline reads, tile fetches and collectives, with the completion of
their segments and fills (R357 to R369, R114 to R118). -/

namespace Sys2Proof.Machine

/-! ### Numbered operations (R358, R149) -/

/-- An operation by its number in the machine. -/
def State.asyOp (s : State) (id : Nat) : Option AsyncOp := s.asy.find? (fun o => o.id == id)

/-- An operation replaced. -/
def State.putAsy (s : State) (o : AsyncOp) : State := { s with asy := s.asy.map (fun x => if x.id = o.id then o else x) }

/-- Every segment, fill and packet of an operation is done. -/
def AsyncOp.done (o : AsyncOp) : Bool := o.segs.isEmpty && o.fills.isEmpty

/-- An operation with nothing left completes (R149, R361, R363). -/
def State.asySettle (s : State) (id : Nat) : State :=
  match s.asyOp id with
  | some o => if o.done then ({ s with asy := s.asy.filter (fun x => x.id != id) }).retireOp o.team o.cls o.num else s
  | none => s

/-- What an instruction hands to an engine. -/
structure AsyncPlan where
  cls : Nat
  minor : Nat
  segs : List Seg := []
  fills : List Nat := []
  queue : Option Nat := none
  coll : List Dw := []
  spec : Bool := false

/-- A checked operation issues with number and counter (R358); `k` finishes what issue itself does, given its number. -/
def State.startAsync (s : State) (t : Team) (p : AsyncPlan) (k : State → Nat → State) : State :=
  let (t, n) := t.number p.cls p.spec
  let s := s.putTeam { t with cnt := { t.cnt with cp := t.cnt.cp + 1 } }
  let (s, id) := s.fresh
  let o : AsyncOp := { id := id, team := t.key, group := t.gslot, cls := p.cls, num := n, minor := p.minor, segs := p.segs,
                       fills := p.fills, queue := p.queue, coll := p.coll }
  let s := k s id
  let s := if o.done then s.retireOp o.team o.cls o.num else { s with asy := s.asy ++ [o] }
  s.retire ((s.team t.key).getD t)

/-- The effect of a numbered operation (Table 1-6, R358): it does not issue while CNT.CP is full. -/
def State.async (s : State) (t : Team) (k : State → State) : State :=
  if t.cnt.cp = 0xFFFF then s.deschedule t (.slot 0) else k (s.effect t)

/-- The fault of the first of some runs that leaves its space, with the lane it belongs to. -/
def State.runsFault (s : State) (g : Group) (rs : List (Option Nat × BitVec 3 × Nat × Nat)) : Option FaultInfo :=
  rs.findSome? (fun r => (s.runFault g r.2.1 r.2.2.1 r.2.2.2).map (fun f => { f with lane := r.1 }))

/-- The scalar registers of a group of n from a register. -/
def sgroup (d : SReg) (n : Nat) : List SReg := (List.range n).map (fun i => d + BitVec.ofNat 6 i)

/-- What issue checks of a major-54 instruction with a group of n scalar registers. -/
def asInfo (d : SReg) (n : Nat) (sp : List (BitVec 3)) : Info :=
  { bad := if !sgroupOk d n then some .scalarField else sp.findSome? spaceBad, sr := sgroup d n, eng := 4 }

/-! ### Segments (R360) -/

/-- A row cut at the 64 KiB boundaries of its source and destination: source, destination, bytes. -/
def rowSegs : Nat → Nat → Nat → Nat → List (Nat × Nat × Nat)
  | 0, _, _, _ => []
  | k + 1, src, dst, len =>
    if len = 0 then [] else
    let n := min len (min (65536 - src % 65536) (65536 - dst % 65536))
    (src, dst, n) :: rowSegs k (src + n) (dst + n) (len - n)

/-- The segments of rows (source, destination, bytes). -/
def mkSegs (ssp dsp : BitVec 3) (rows : List (Nat × Nat × Nat)) : List Seg :=
  (enum (rows.flatMap (fun r => rowSegs (2 * (r.2.2 / 65536) + 3) r.1 r.2.1 r.2.2))).map (fun q =>
    { no := q.1, ssp := ssp, src := BitVec.ofNat 64 q.2.1, dsp := dsp, dst := BitVec.ofNat 64 q.2.2.1,
      len := q.2.2.2, b := 0, acks := [], parked := none })

/-- The effect of CPY and CPY2D on their rows (R359). -/
def State.copy (s : State) (t : Team) (minor : Nat) (dsp ssp : BitVec 3) (total : Nat) (rows : List (Nat × Nat × Nat)) :
    State :=
  let g := s.groupOf t
  if 2 ^ 36 < total then s.park t (mkF .illegalEncoding .copyOperand 0 0)
  else
    match s.runsFault g (rows.flatMap (fun r => [(none, ssp, r.1, r.2.2), (none, dsp, r.2.1, r.2.2)])) with
    | some f => s.park t f
    | none => s.async t (fun s => s.startAsync t { cls := 0, minor := minor, segs := mkSegs ssp dsp rows } (fun s _ => s))

/-- CPY (R359); `.nt` changes placement only. -/
def execCpy (d : SReg) (p r : BitVec 3) (n : Bool) (s : State) : Out :=
  let _ := n
  issue (asInfo d 3 [p, r])
    (fun t s =>
      let len := (t.s (d + 2)).toNat
      s.copy t 0 p r len (if len = 0 then [] else [((t.s (d + 1)).toNat, (t.s d).toNat, len)])) s

/-- CPY2D (R359). -/
def execCpy2d (d : SReg) (p r : BitVec 3) (n : Bool) (s : State) : Out :=
  let _ := n
  issue (asInfo d 4 [p, r])
    (fun t s =>
      let x := t.s (d + 2)
      let rows := fld x 63 32
      let rb := fld x 31 0
      let st := t.s (d + 3)
      let at_ (i : Nat) : Nat × Nat × Nat :=
        (((t.s (d + 1)).toNat + i * fld st 63 32) % 2 ^ 64, ((t.s d).toNat + i * fld st 31 0) % 2 ^ 64, rb)
      let all := if rb = 0 ∨ 2 ^ 36 < rows * rb then [] else (List.range rows).map at_
      s.copy t 1 p r (rows * rb) all) s

/-- CPYG (R362). -/
def execCpyg (d : SReg) (p r : BitVec 3) (v : VReg) (s : State) : Out :=
  issue { asInfo d 3 [p, r] with vr := [v], who := some none }
    (fun t s =>
      let g := s.groupOf t
      let z := (t.s (d + 2)).toNat
      let lanes := t.lanesOf t.regs.exec
      let src (l : Nat) : Nat := (t.s (d + 1) + ((t.v v).lane l).setWidth 64).toNat
      let dst (l : Nat) : Nat := (t.s d + BitVec.ofNat 64 (l * z)).toNat
      let skew (l : Nat) : Option FaultInfo :=
        if src l % z ≠ 0 then some { mkF .alignment .none (src l) z with lane := some l }
        else if dst l % z ≠ 0 then some { mkF .alignment .none (dst l) z with lane := some l }
        else none
      if lanes ≠ [] ∧ !([4, 8, 16, 32, 64, 128].contains z) then s.park t (mkF .illegalEncoding .copyOperand 0 0)
      else
        match lanes.findSome? skew with
        | some f => s.park t f
        | none =>
          match s.runsFault g (lanes.flatMap (fun l => [(some l, r, src l, z), (some l, p, dst l, z)])) with
          | some f => s.park t f
          | none =>
            s.async t (fun s =>
              s.startAsync t { cls := 2, minor := 2, segs := mkSegs r p (lanes.map (fun l => (src l, dst l, z))) }
                (fun s _ => s))) s

/-! ### Stream queues (R114 to R118, R363 to R365) -/

/-- A queue of a group; one past the list does not exist. -/
def Group.queue (g : Group) (q : Nat) : Queue := g.queues.getD q { depth := 0, slots := [] }

/-- A queue of a group replaced. -/
def State.putQueue (s : State) (gslot q : Nat) (x : Queue) : State :=
  s.modGroup gslot (fun g => { g with queues := g.queues.set q x })

/-- A queue without its n head slots. -/
def Queue.dropHead (q : Queue) (n : Nat) : Queue :=
  { q with slots := q.slots.drop n, bad := (q.bad.filter (fun b => n ≤ b.1)).map (fun b => (b.1 - n, b.2)) }

/-- The bytes of a slot that hold an error (R481). -/
def Queue.badAt (q : Queue) (i : Nat) : List Nat :=
  (q.bad.filter (fun b => b.1 == i)).flatMap (fun b => (List.range 8).map (8 * b.2 + ·))

/-- The EMPTY slots of a queue. -/
def Queue.empty (q : Queue) : Nat := q.depth - q.slots.length

/-- The fault of naming n slots of a queue (R114, R363). -/
def Queue.fault (q : Queue) (n : Nat) : Option FaultInfo :=
  if q.depth = 0 then some (mkF .spaceBounds .queueAbsent 0 0)
  else if q.depth < n then some (mkF .spaceBounds .countBeyondDepth 0 0)
  else none

/-- Fills of consecutive tail slots issued (R116): reserved together, or the team waits for EMPTY slots. -/
def State.fill (s : State) (t : Team) (minor q : Nat) (spec : Bool) (srcs : List (BitVec 3 × Nat × Nat)) : State :=
  let x := (s.groupOf t).queue q
  if x.empty < srcs.length then s.deschedule t (.fill q srcs.length)
  else
    s.async t (fun s =>
      s.startAsync t { cls := 2, minor := minor, fills := List.range srcs.length, queue := some q, spec := spec } (fun s id =>
        s.putQueue t.gslot q { x with slots := x.slots ++ (enum srcs).map (fun (c : Nat × BitVec 3 × Nat × Nat) =>
          QSlot.pending { op := id, idx := c.1, sp := c.2.1, addr := BitVec.ofNat 64 c.2.2.1, len := c.2.2.2,
                          spec := spec, late := false }) }))

/-- QPUT, memory form (R363). -/
def execQputMemory (a : SReg) (r : BitVec 3) (p : Bool) (q : BitVec 4) (s : State) : Out :=
  issue (asInfo a 2 [r])
    (fun t s =>
      let g := s.groupOf t
      let base := (t.s a).toNat
      let n := (t.s (a + 1)).toNat
      if n = 0 ∨ 64 < n then s.park t (mkF .illegalEncoding .copyOperand 0 0)
      else if base % 128 ≠ 0 then s.park t (mkF .alignment .none base 128)
      else
        match ((g.queue q.toNat).fault n).orElse (fun _ => if p then none else s.runFault g r base (128 * n)) with
        | some f => s.park t f
        | none => s.fill t 3 q.toNat p ((List.range n).map (fun i => (r, base + 128 * i, 128)))) s

/-- The mask words that hold an active lane (R18). -/
def Team.words (t : Team) : List Nat :=
  (List.range (t.width / 32)).filter (fun w => (t.lanesOf t.regs.exec).any (fun l => l / 32 == w))

/-- The slot a register fill writes for a mask word (R363). -/
def Team.slotLine (t : Team) (v : VReg) (w : Nat) : Line :=
  lineNat ((List.range 32).flatMap (fun b =>
    let l := 32 * w + b
    leBytes 4 (if t.regs.exec.getLsbD l then ((t.v v).lane l).toNat else 0)))

/-- QPUT, register form (R363). -/
def execQputRegister (v : VReg) (q : BitVec 4) (s : State) : Out :=
  issue { vr := [v], eng := 4, who := some none }
    (fun t s =>
      let x := (s.groupOf t).queue q.toNat
      let ws := t.words
      match x.fault ws.length with
      | some f => s.park t f
      | none =>
        if x.empty < ws.length then s.deschedule t (.fill q.toNat ws.length)
        else
          s.async t (fun s =>
            s.startAsync t { cls := 2, minor := 3 } (fun s _ =>
              s.putQueue t.gslot q.toNat
                { x with slots := x.slots ++ ws.map (fun w => QSlot.full (t.slotLine v w) 0) }))) s

/-- A line of a fill's bytes, zero beyond them. -/
def fillLine (bs : List Byte) : Line := lineNat bs

/-- A fill's bytes from a page, the host's bytes given or free (notes/assumptions/6.md). -/
def State.fillBytes (s : State) (ps : List Page) (f : Fill) (data : Option Line) : State × List Byte :=
  match data with
  | some d =>
    if ps.all (fun p => p.ap == 0) then s.readRun ps f.addr.toNat f.len
    else (ps.foldl (fun s p => s.markAD p.ea false) s, (List.range f.len).map (fun i => Line.byte d i))
  | none => s.readRun ps f.addr.toNat f.len

/-- Bytes of a local run of pages are poisoned. -/
def State.badRun (s : State) (ps : List Page) (va n : Nat) : List Nat :=
  (List.range n).filter (fun i =>
    let p := pageByte ps va i
    p.1.ap == 0 && s.poisoned p.2 1)

/-- The cause of a failed demand fill (R364); a failure for which R117 has no cause, a link timeout among them, has the cause
protection (DESIGN CHOICE, notes/assumptions/91.md). -/
def dropOf (f : FaultInfo) : DropCause :=
  match f.cls with
  | .pageMiss => .pageMiss
  | .spaceBounds => .spaceBounds
  | .copySegment => .dataError
  | _ => .protection

/-- A fill's line as it arrives, or why it is dropped (R117, R364); none: it has been asked of another module (R310), or comes
after an earlier store of its team (R148). -/
def State.fillData (s : State) (g : Group) (team : Nat) (f : Fill) (data : Option Line) : State × Option (DropCause ⊕ Line) :=
  let n := f.len
  if (s.runFault g f.sp f.addr.toNat n).isSome then (s, some (.inl .spaceBounds)) else
  if f.sp ≠ 4 then
    let h := g.home f.sp f.addr.toNat
    if s.behind team f.op [localPiece h n] then (s, none)
    else if s.poisoned h n then (s, some (.inl .dataError)) else (s, some (.inr (fillLine (Mem.readN s.mem h n))))
  else
    let (s, r) : State × (DropCause ⊕ List Page) :=
      if f.spec then s.specRead g.core g.ctx f.addr.toNat n
      else
        match s.xlateRun g.core g.ctx .load {} f.addr.toNat (pagesOf f.addr.toNat n) with
        | (s, .inl e) => (s, .inl (dropOf e))
        | (s, .inr ps) => (s, .inr ps)
    match r with
    | .inl c => (s, some (.inl c))
    | .inr ps =>
      if s.behind team f.op (piecesOf ps f.addr.toNat n) then (s, none)
      else if s.badRun ps f.addr.toNat n ≠ [] then (s, some (.inl .dataError))
      else
        let s := if f.spec then s else s.useRun g.ctx ps f.addr.toNat n
        let ps := if f.spec then ps.map (fun (p : Page) => { p with ea := none }) else ps
        match farRun ps f.addr.toNat n with
        | [] =>
          let (s, bs) := s.fillBytes ps f data
          (s, some (.inr (fillLine bs)))
        | ls =>
          let s := ps.foldl (fun (s : State) (p : Page) => s.markAD p.ea false) s
          ((s.modCtx g.ctx (fun c => c.count 0 (b2n f.spec))).askFar g.ctx f.op f.idx ls, none)

/-- A fill's outcome: the lines that came from another module, else the fill is made. -/
def State.fillOut (s : State) (g : Group) (team : Nat) (f : Fill) (data : Option Line) : State × Option (DropCause ⊕ Line) :=
  let xs := s.farOf f.op f.idx
  if xs = [] then s.fillData g team f data
  else if xs.any FarLine.waits then (s, none)
  else
    (s.dropFar f.op f.idx,
      some (match xs.findSome? (·.lost) with
        | some e => .inl (dropOf e)
        | none =>
          if farBad xs f.addr.toNat f.len ≠ [] then .inl .dataError
          else .inr (fillLine (((farBytes xs).drop (f.addr.toNat % 128)).take f.len))))

/-- A slot of a queue that waits for a fill gets its outcome. -/
def settleSlot (op idx : Nat) (out : DropCause ⊕ Line) : QSlot → QSlot
  | .pending f =>
    if f.op = op ∧ f.idx = idx then
      match out with
      | .inl c => .poisoned f c
      | .inr d => .full d (if f.spec then (if f.late then 2 else 1) else 0)
    else .pending f
  | x => x

/-- The fill of an operation for one of its slots. -/
def Queue.pendingFill (q : Queue) (op idx : Nat) : Option Fill :=
  q.slots.findSome? (fun x =>
    match x with
    | .pending f => if f.op = op ∧ f.idx = idx then some f else none
    | _ => none)

/-- One slot's fill performed: its counters, its slot, and the operation (R117, R120, R364). -/
def State.fillSlot (s : State) (op idx : Nat) (data : Option Line) : State :=
  match s.asyOp op with
  | none => s
  | some o =>
    let g := s.groupAt o.group
    let q := o.queue.getD 0
    match (g.queue q).pendingFill op idx with
    | none => s
    | some f =>
      let asked := f.spec && s.farOf op idx ≠ []
      match s.fillOut g o.team f data with
      | (s, none) => s
      | (s, some out) =>
        let s := s.modCtx g.ctx (fun c =>
          match out with
          | .inl _ => ((c.count 5 (b2n f.spec)).count 6 1).count 2 (b2n asked)
          | .inr _ => c.count 0 (b2n (f.spec && !asked)))
        let x := (s.groupAt o.group).queue q
        let s := s.putQueue o.group q { x with slots := x.slots.map (settleSlot op idx out) }
        (s.putAsy { o with fills := o.fills.filter (fun i => i != idx) }).asySettle op

/-- QUEUE_SLOT_FILL (R364): a fill is made, or asked of another module; `data` is the line of the host. -/
def execQueueSlotFill (op slot : Nat) (data : Line) (s : State) : Out := .next (s.fillSlot op slot (some data))

/-- What a QGET meets at a head slot: a fault; data to come from another module, or after accesses of its team (Table 4-2); or its data, with the bytes that hold an
uncorrectable error, and the slot as it stands should the QGET not complete. -/
inductive Refilled where
  | fault (f : FaultInfo)
  | waits (first : List Nat)
  | got (x : QSlot) (d : Line) (bad : List Nat)
  deriving DecidableEq, Repr

/-- A demand load's answer for a slot: FULL, or POISONED still where it holds an error, which the QGET meets when it takes the
slot (DEDUCED, notes/assumptions/58.md). -/
def refilled (x : QSlot) (bs : List Byte) (bad : List Nat) : Refilled :=
  .got (if bad = [] then .full (fillLine bs) 0 else x) (fillLine bs) bad

/-- A head slot as a QGET meets it: a POISONED slot is filled again as a demand load at the QGET's place in program order (R118, R139),
with a request where its line belongs to another module (R310). -/
def State.refill (s : State) (t : Team) (x : QSlot) : State × Refilled :=
  let g := s.groupOf t
  match x with
  | .full d pf => (s, .got (.full d pf) d [])
  | .pending f => (s, .got (.pending f) 0 [])
  | .poisoned f _ =>
    let a := f.addr.toNat
    match s.runFault g f.sp a f.len with
    | some e => (s, .fault e)
    | none =>
      let after (ps : List Piece) : List Nat := s.earlier t.key false [{ lane := 0, va := f.addr, ps := ps }]
      if f.sp ≠ 4 then
        let h := g.home f.sp a
        if after [localPiece h f.len] ≠ [] then (s, .waits (after [localPiece h f.len])) else
        (s, refilled x (Mem.readN s.mem h f.len) ((List.range f.len).filter (fun i => s.poisoned (h + i) 1)))
      else
        match s.xlateRun g.core g.ctx .load {} a (pagesOf a f.len) with
        | (s, .inl e) => (s, .fault e)
        | (s, .inr ps) =>
          if after (piecesOf ps a f.len) ≠ [] then (s, .waits (after (piecesOf ps a f.len))) else
          let s := s.useRun g.ctx ps a f.len
          match farRun ps a f.len, s.farOf f.op f.idx with
          | [], _ =>
            let (s, bs) := s.readRun ps a f.len
            (s, refilled x bs (s.badRun ps a f.len))
          | ls, [] => ((ps.foldl (fun (s : State) (p : Page) => s.markAD p.ea false) s).askFar g.ctx f.op f.idx ls, .waits [])
          | _, xs =>
            if xs.any FarLine.waits then (s, .waits [])
            else
              let s := s.dropFar f.op f.idx
              match xs.findSome? (·.lost) with
              | some e => (s, .fault e)
              | none => (s, refilled x (((farBytes xs).drop (a % 128)).take f.len) (farBad xs a f.len))

/-- The head slots of a QGET from the i-th in order, refilled where POISONED, up to one that stops it; slots refilled before that
one stay FULL. -/
def State.refillAll (s : State) (t : Team) (q : Nat) : Nat → List QSlot → State × Option Refilled × List (QSlot × Line × List Nat)
  | _, [] => (s, none, [])
  | i, x :: r =>
    match s.refill t x with
    | (s, .got y d bad) =>
      let (s, f, ys) := s.refillAll t q (i + 1) r
      (s, f, (y, d, bad) :: ys)
    | (s, .waits ids) => (s, some (.waits ids), (x :: r).map (fun y => (y, 0, [])))
    | (s, .fault f) => (s, some (.fault { f with slot := some (q, i) }), (x :: r).map (fun y => (y, 0, [])))

/-- The use of speculative lines by a QGET counted (R120, R121). -/
def Ctx.usedBy (c : Ctx) (xs : List QSlot) : Ctx :=
  xs.foldl (fun (c : Ctx) x =>
    match x with
    | .full _ 1 => (c.count 1 1).count 3 1
    | .full _ 2 => (c.count 1 1).count 4 1
    | _ => c) c

/-- A slot a QGET waits for notes that its demand has come (R121). -/
def QSlot.wanted : QSlot → QSlot
  | .pending f => .pending { f with late := true }
  | x => x

/-- A slot has no data yet. -/
def QSlot.isPending : QSlot → Bool
  | .pending _ => true
  | _ => false

/-- The taking of n head slots: what follows is given the team, the lines and the erroneous bytes of each (R365, R118). -/
def State.take (s : State) (t : Team) (q n : Nat) (k : State → List (Line × List Nat) → State) : State :=
  let x := (s.groupOf t).queue q
  let hd := x.slots.take n
  if hd.length < n ∨ hd.any QSlot.isPending then
    (s.putQueue t.gslot q { x with slots := hd.map QSlot.wanted ++ x.slots.drop n }).deschedule t (.head q n)
  else
    let keep (s : State) (ys : List (QSlot × Line × List Nat)) : State :=
      s.putQueue t.gslot q { x with slots := ys.map (·.1) ++ x.slots.drop n }
    match s.refillAll t q 0 hd with
    | (s, some (.fault f), ys) => (keep s ys).park t f
    | (s, some (.waits (i :: ids)), ys) => (keep s ys).deschedule t (.accs (i :: ids))
    | (s, some _, ys) => (keep s ys).deschedule t (.head q n)
    | (s, none, ys) =>
      let s := (s.effect t).modCtx (s.ctxOf t) (fun c => c.usedBy hd)
      k (s.putQueue t.gslot q (x.dropHead n)) ((enum ys).map (fun y => (y.2.2.1, y.2.2.2 ++ x.badAt y.1)))

/-- QGET, vector form (R365). -/
def execQgetVector (d : VReg) (q : BitVec 4) (s : State) : Out :=
  issue { vw := [d], eng := 4, who := some none }
    (fun t s =>
      let ws := t.words
      if ws = [] then (s.effect t).retire t else
      match ((s.groupOf t).queue q.toNat).fault ws.length with
      | some f => s.park t f
      | none =>
        s.take t q.toNat ws.length (fun s xs =>
          let line (l : Nat) : Line × List Nat := xs.getD ((ws.findIdx? (fun w => w == l / 32)).getD 0) (0, [])
          let bad := (t.lanesOf t.regs.exec).filter (fun l => (line l).2.any (fun i => i / 4 == l % 32))
          let (s, t) := s.killLanes t bad
          let val (l : Nat) : Wd := ((line l).1 >>> (32 * (l % 32))).setWidth 32
          let t := t.writeV d t.regs.exec (.g ((List.range t.width).map val))
          if t.allDead then (s.putTeam t).loseTeam t .none else s.retire t)) s

/-- QGET, scalar form (R365). -/
def execQgetScalar (d : SReg) (q : BitVec 4) (s : State) : Out :=
  issue { bad := if sgroupOk d 16 then none else some .scalarField, sw := sgroup d 16, eng := 4 }
    (fun t s =>
      match ((s.groupOf t).queue q.toNat).fault 1 with
      | some f => s.park t f
      | none =>
        s.take t q.toNat 1 (fun s xs =>
          match xs with
          | [] => s.retire t
          | (x, bad) :: _ =>
            if bad ≠ [] then s.loseTeam t .none
            else
              s.retire ((List.range 16).foldl (fun (t : Team) i =>
                t.setS (d + BitVec.ofNat 6 i) ((x >>> (64 * i)).setWidth 64)) t))) s

/-- TLREAD (R366): the counter at issue. -/
def execTlread (d : SReg) (o : Bool) (c : BitVec 2) (k : BitVec 4) (s : State) : Out :=
  issue { bad := if !o && k ≠ 0 then some .none else none, sw := [d], eng := 4, xr := if o then [] else [0x14 + c.toNat] }
    (fun t s =>
      if o && (s.groupOf t).stageMap.length ≤ k.toNat then s.park t (mkF .illegalEncoding .teamBeyondGroup 0 0)
      else
        let who := if o then t.gslot * 16 + k.toNat else t.key
        (s.effect t).retire (t.setS d (BitVec.ofNat 64 (s.tlCount who c.toNat)))) s

/-! ### Tile fetches (R367) -/

/-- The rows of a tile fetch, or its fault: source, bytes (DEDUCED, notes/assumptions/58.md). -/
def tfetchRows (src shape stride : Dw) : FaultInfo ⊕ List (Nat × Nat) :=
  let rows := fld shape 47 32
  let rb := fld shape 15 0
  let at_ (i : Nat) : Nat := (src.toNat + i * fld stride 63 32) % 2 ^ 64
  if rows = 0 ∨ 128 < rows ∨ rb < 8 ∨ 128 < rb ∨ rb % 8 ≠ 0 then .inl (mkF .illegalEncoding .copyOperand 0 0)
  else
    match (List.range rows).find? (fun i => at_ i / 128 ≠ (at_ i + rb - 1) / 128) with
    | some i => .inl (mkF .alignment .rowCrossesLine (at_ i) rb)
    | none => .inr ((List.range rows).map (fun i => (at_ i, rb)))

/-- TFETCH.C (R367). -/
def execTfetchC (d : SReg) (s : State) : Out :=
  issue (asInfo d 4 [])
    (fun t s =>
      match tfetchRows (t.s (d + 1)) (t.s (d + 2)) (t.s (d + 3)) with
      | .inl f => s.park t f
      | .inr rs =>
        let rows := (enum rs).map (fun r => (r.2.1, ((t.s d).toNat + r.1 * fld (t.s (d + 3)) 31 0) % 2 ^ 64, r.2.2))
        match s.runsFault (s.groupOf t) (rows.flatMap (fun r => [(none, 4, r.1, r.2.2), (none, 1, r.2.1, r.2.2)])) with
        | some f => s.park t f
        | none =>
          s.async t (fun s => s.startAsync t
            { cls := 2, minor := 6
              segs := (enum rows).map (fun r =>
                { no := r.1, ssp := 4, src := BitVec.ofNat 64 r.2.1, dsp := 1, dst := BitVec.ofNat 64 r.2.2.1,
                  len := r.2.2.2, b := 0, acks := [], parked := none }) } (fun s _ => s))) s

/-- TFETCH.Q (R367). -/
def execTfetchQ (d : SReg) (p : Bool) (q : BitVec 4) (s : State) : Out :=
  issue (asInfo d 4 [])
    (fun t s =>
      if t.s d ≠ 0 then s.park t (mkF .illegalEncoding .copyOperand 0 0) else
      match tfetchRows (t.s (d + 1)) (t.s (d + 2)) (t.s (d + 3)) with
      | .inl f => s.park t f
      | .inr rs =>
        let g := s.groupOf t
        match ((g.queue q.toNat).fault rs.length).orElse
            (fun _ => if p then none else s.runsFault g (rs.map (fun r => (none, 4, r.1, r.2)))) with
        | some f => s.park t f
        | none => s.fill t 6 q.toNat p (rs.map (fun r => (4, r.1, r.2)))) s

/-! ### Collectives (R368, R369) -/

/-- Bytes of an element by DT (Table 10-9). -/
def dtSize (dt : Nat) : Nat := if dt = 0 ∨ dt = 3 then 4 else if dt = 4 then 1 else 2

/-- The members of a bitmap of 512 bits, ascending. -/
def membersOf (m : List Dw) : List Nat :=
  (List.range 512).filter (fun i => flag (m.getD (i / 64) 0) (i % 64))

/-- A descriptor is malformed (Table 10-9); `self` is this module's number, `ms` the members (DESIGN CHOICE, notes/assumptions/57.md). -/
def collBad (self : Nat) (ms : List Nat) (d : List Dw) : Bool :=
  let x := d.getD 0 0
  let op := fld x 63 60
  let dt := fld x 59 56
  3 < op || 4 < dt || (dt = 4 && 2 ≤ op) || fld x 55 49 ≠ 0 || fld x 39 32 ≠ 0
    || (d.getD 3 0).toNat = 0 || 2 ^ 32 < (d.getD 3 0).toNat
    || d.getD 5 0 ≠ 0 || d.getD 6 0 ≠ 0 || d.getD 7 0 ≠ 0
    || !ms.contains self || (op = 0 && !ms.contains (fld x 48 40))

/-- Bytes a collective reads at SRC and writes at DST, for n members (R369). -/
def collLens (d : List Dw) (n : Nat) : Nat × Nat :=
  let x := d.getD 0 0
  let k := (d.getD 3 0).toNat * dtSize (fld x 59 56)
  match fld x 63 60 with
  | 1 => (k, n * k)
  | 2 => (n * k, k)
  | _ => (k, k)

/-- COLL (R368): the descriptor and the member bitmap are read at issue. Its one register may be any (Table 10-8, R216). -/
def execColl (d : SReg) (s : State) : Out :=
  issue { sr := [d], eng := 4 }
    (fun t s =>
      let g := s.groupOf t
      let va := (t.s d).toNat
      if va % 64 ≠ 0 then s.park t (mkF .alignment .none va 64) else
      match s.vaRead g.core g.ctx va 64 with
      | (s, .inl f) => s.park t f
      | (s, .inr bs) =>
        let ds := leDws 8 bs
        match s.vaRead g.core g.ctx (ds.getD 4 0).toNat 64 with
        | (s, .inl f) => s.park t f
        | (s, .inr mb) =>
          let ms := membersOf (leDws 8 mb)
          if collBad s.modl.modNo ms ds then s.park t (mkF .illegalEncoding .collectiveDescriptor 0 0)
          else
            let n := collLens ds ms.length
            let src := (ds.getD 1 0).toNat
            let dst := (ds.getD 2 0).toNat
            match s.runsFault g [(none, 4, src, n.1), (none, 4, dst, n.2)] with
            | some f => s.park t f
            | none =>
              s.async t (fun s => s.startAsync t
                { cls := 3, minor := 7, coll := ds ++ leDws 8 mb
                  segs := [{ no := 0, ssp := 4, src := ds.getD 1 0, dsp := 4, dst := ds.getD 2 0, len := n.2, b := 0,
                             acks := [], parked := none }] } (fun s _ => s))) s

/-- The sum of two elements of DT: one rounding under RNE, I32 wraps (R369, R187). -/
def dtAdd (dt a b : Nat) : Nat :=
  match dt with
  | 0 => (fAdd fF32 0 a b).1
  | 1 => (fAdd fBF16 0 a b).1
  | 2 => (fAdd fF16 0 a b).1
  | _ => (a + b) % 2 ^ 32

/-- Elements of a byte string. -/
def elemsOf (e : Nat) : Nat → List Byte → List Nat
  | 0, _ => []
  | n + 1, bs => leNat (bs.take e) :: elemsOf e n (bs.drop e)

/-- What a member's DST receives, given each member's contribution in ascending rank (R369). -/
def collResult (op dt count root : Nat) (parts : List (Nat × List Byte)) : List Byte :=
  let e := dtSize dt
  match op with
  | 0 => ((parts.find? (fun p => p.1 == root)).map (·.2)).getD []
  | 1 => parts.flatMap (·.2)
  | _ =>
    match parts with
    | [] => []
    | p :: r =>
      (r.foldl (fun acc q => List.zipWith (dtAdd dt) acc (elemsOf e count q.2)) (elemsOf e count p.2)).flatMap (leBytes e)

/-! ### Completion of segments (R360, R361, R150) -/

/-- Bytes copied between local homes in ascending order: a byte the copy has already written over may be read as it was
or as it now is (R360); words written whole lose their poison (R481). -/
def State.copyLocal (s : State) (src dst n : Nat) : State :=
  let old := Mem.readN s.mem src n
  if src + n ≤ dst ∨ dst + n ≤ src then s.perform dst old
  else
    let s := (enum old).foldl (fun (s : State) p =>
      let (s, b) := s.choose
      s.perform (dst + p.1) [if b then Mem.read s.mem (src + p.1) else p.2]) s
    s.perform dst (Mem.readN s.mem dst n)

/-- Bytes written through pages, with the packets a peer is to acknowledge (R360, R149). -/
def State.writeAcked (s : State) (ctx : Nat) (ps : List Page) (va : Nat) (bs : List Byte) : State × List (Wd × Nat) :=
  ((splitPages ps va bs).foldl (fun (r : State × List (Wd × Nat) × Nat) q =>
    let s := r.1.markAD q.1.ea true
    let off := r.2.2 + q.2.2.length
    match q.1.ap with
    | 0 => (s.perform (homeG q.2.1) q.2.2, r.2.1, off)
    | 1 =>
      let pk := s.writePkts ctx q.1.peer (q.1.ord == 2) q.1.kid q.2.1 q.2.2
      let id := s.uid
      let pk := (enum pk).map (fun p => { p.2 with rid := BitVec.ofNat 32 (id + p.1) })
      let s := { s with uid := s.uid + pk.length }
      (s.queuePkts none pk, r.2.1 ++ pk.map (fun (p : Packet) => (p.rid, r.2.2 + (p.pa - q.2.1))), off)
    | _ => ({ s with hostOut := s.hostOut ++ [(q.2.1, q.2.2.map some)] }, r.2.1, off)) (s, [], 0)) |> fun r => (r.1, r.2.1)

/-- One end of a segment: a local home, pages, or what came from another module. -/
inductive End1 where
  | home (a : Nat)
  | pages (ps : List Page)
  | got (bs : List Byte)

/-- One end of a segment translated. -/
def State.segEnd (s : State) (g : Group) (sp : BitVec 3) (a : Dw) (n : Nat) (k : AccK) : State × (FaultInfo ⊕ End1) :=
  if sp ≠ 4 then (s, .inr (.home (g.home sp a.toNat)))
  else
    match s.xlateRun g.core g.ctx k {} a.toNat (pagesOf a.toNat n) with
    | (s, .inl f) => (s, .inl f)
    | (s, .inr ps) => (s, .inr (.pages ps))

/-- The bytes of an end hold an uncorrectable error from this one on. -/
def State.endBad (s : State) (e : End1) (a : Dw) (n : Nat) : Option Nat :=
  match e with
  | .home h => (List.range n).find? (fun i => s.poisoned (h + i) 1)
  | .pages ps => (s.badRun ps a.toNat n).head?
  | .got _ => none

/-- The bytes of a segment moved; a copy that stays in one memory follows R360 where the two ends overlap (DEDUCED, notes/assumptions/42.md). -/
def State.moveBytes (s : State) (ctx : Nat) (se de : End1) (src dst : Dw) (n : Nat) : State × List (Wd × Nat) :=
  let one (e : End1) (a : Dw) : Option Nat :=
    match e with
    | .home h => some h
    | .pages ps =>
      match ps with
      | [p] => if p.ap = 0 then some (homeG (p.base + a.toNat % 65536)) else none
      | _ => none
    | .got _ => none
  match one se src, one de dst with
  | some a, some b =>
    let s := match se with
      | .pages ps => ps.foldl (fun (s : State) (p : Page) => s.markAD p.ea false) s
      | _ => s
    let s := match de with
      | .pages ps => ps.foldl (fun (s : State) (p : Page) => s.markAD p.ea true) s
      | _ => s
    (s.copyLocal a b n, [])
  | _, _ =>
    let (s, bs) := match se with
      | .home h => (s, Mem.readN s.mem h n)
      | .pages ps => s.readRun ps src.toNat n
      | .got bs => (s, bs.take n)
    match de with
    | .home h => (s.perform h bs, [])
    | .pages ps => s.writeAcked ctx ps dst.toNat bs
    | .got _ => (s, [])

/-- A segment of an operation replaced, or taken off it. -/
def AsyncOp.putSeg (o : AsyncOp) (no : Nat) (x : Option Seg) : AsyncOp :=
  { o with segs := o.segs.filterMap (fun y => if y.no = no then x else some y) }

/-- A segment killed: it counts as delivered, with the bytes as they stand (R157, R361, R411). -/
def State.killSeg (s : State) (op no : Nat) : State :=
  match s.asyOp op with
  | none => s
  | some o => ((s.voidOp o.team o.group).putAsy (o.putSeg no none)).asySettle op

/-- A segment parked at its byte b, or killed where no record can form (R361, R473). -/
def State.parkSeg (s : State) (op no : Nat) (sg : Seg) (f : FaultInfo) : State :=
  match s.asyOp op with
  | none => s
  | some o =>
    match s.parkOp (.seg { o with segs := [] } sg) o.team o.group f with
    | (s, some r) => s.putAsy (o.putSeg no (some { sg with parked := some r, acks := [] }))
    | (s, none) => s.killSeg op no

/-- The part of a segment from n bytes on. -/
def Seg.from (sg : Seg) (n : Nat) : Seg :=
  { sg with src := sg.src + BitVec.ofNat 64 n, dst := sg.dst + BitVec.ofNat 64 n, len := sg.len - n, b := sg.b + n }

/-- A segment taken back to its byte p, where it stands beyond it. -/
def Seg.at (sg : Seg) (p : Nat) : Seg :=
  let n := sg.b - p
  { sg with src := sg.src - BitVec.ofNat 64 n, dst := sg.dst - BitVec.ofNat 64 n, len := sg.len + n, b := sg.b - n }

/-- The fault of a physical failure of a segment (R361, R369, R496). -/
def segFault (k : SegErrKind) (sg : Seg) (peer : Nat) : FaultInfo :=
  let a := if sg.wside then sg.dst.toNat else sg.src.toNat
  match k with
  | .checksum => mkF .copySegment .checksum a 0
  | .dataError => mkF .copySegment .dataError a 0
  | .linkTimeout => mkF .linkTimeout .none a peer
  | .sealedPeer => mkF .protection .sealedPeer a 0
  | .mismatch => mkF .copySegment .collectiveMismatch a 0
  | .cured _ => mkF .copySegment .checksum a 0

/-- The module at a peer end of a segment. -/
def endPeer : End1 → Option Nat
  | .pages ps => (ps.find? (fun p => p.ap == 1)).map (·.peer)
  | _ => none

/-- The home of the byte at an end of a segment. -/
def endByte (e : End1) (a : Dw) : Nat :=
  match e with
  | .home h => h
  | .pages ps => ((ps.head?).map (fun p => p.base + a.toNat % 65536)).getD 0
  | .got _ => 0

/-- Each CRC mismatch of n charges the units at both ends 8 pips; it takes four to park a segment (R361, Table 17-2) (DEDUCED, notes/assumptions/62.md). -/
def State.crcPips (s : State) (n : Nat) (se de : End1) (src dst : Dw) : State :=
  let unit (e : End1) (a : Dw) : Option (Nat × Nat) :=
    match e with
    | .home h => some (s.memUnit h)
    | .pages ps => (ps.head?.filter (fun p => p.ap == 0)).map (fun p => s.memUnit (p.base + a.toNat % 65536))
    | .got _ => none
  let us := (unit se src).toList ++ (unit de dst).toList
  (List.range n).foldl (fun s _ => us.foldl (fun s u => s.addPips u.1 u.2 8) s) s

/-- The source of a segment: translated, or the lines that came from another module. -/
def State.segSrc (s : State) (g : Group) (op : Nat) (sg : Seg) : State × (FaultInfo ⊕ End1) :=
  match s.farOf op sg.no with
  | [] => s.segEnd g sg.ssp sg.src sg.len .load
  | x :: xs => (s, .inr (.got (((farBytes (x :: xs)).drop (sg.src.toNat - x.va)).take sg.len)))

/-- The lines of other modules at an end. -/
def farEnd (e : End1) (va n : Nat) : List (Nat × Nat × Nat × Nat × Bool × Bool) :=
  match e with
  | .pages ps => farRun ps va n
  | _ => []

/-- The first byte of a segment's source that another module failed to give, or gave with an error, and why (R361). -/
def State.segLost (s : State) (op : Nat) (sg : Seg) : Option (Nat × FaultInfo) :=
  let a := sg.src.toNat
  let xs := (s.farOf op sg.no).filter (fun (x : FarLine) => a < x.va + 128)
  minBy (fun (x : Nat × FaultInfo) => x.1)
    (xs.filterMap (fun (x : FarLine) => x.lost.map (fun f => (x.want - a, f)))
      ++ (farBad xs a sg.len).map (fun i => (i, mkF .copySegment .dataError (a + i) 0)))

/-- The bytes of an end. -/
def End1.pieces (e : End1) (a n : Nat) : List Piece :=
  match e with
  | .home h => [localPiece h n]
  | .pages ps => piecesOf ps a n
  | .got _ => []

/-- The CRC mismatches of a segment that repeats cured (R361). -/
def curedOf (e : SegError) : Option Nat :=
  match e.kind with
  | .cured n => some (min n 3)
  | _ => none

/-- Slots of a copy engine (Table 3-6). -/
def engineSlots : Nat := 24

/-- The line requests for bytes [a, a + n) of an end: local lines of space G and lines of the host. -/
def End1.lines (e : End1) (a n : Nat) : List Nat := reqLines [{ lane := 0, va := 0, ps := e.pieces a n }]

/-- How many of some pieces of work, each with its line requests, run together beside the lines that hold a slot of the engine
(R122, R123). -/
def fitSlots : List Nat → List (List Nat) → Nat
  | _, [] => 0
  | held, ls :: r =>
    let new := ls.filter (fun l => !held.contains l)
    if (giveSlots engineSlots held new).1.all (·.2) then 1 + fitSlots (new ++ held) r else 0

/-- Bytes of a segment that its engine has slots for at a time: as many source lines, with what they are written to, as fit. Where source
and destination overlap, all of it (R360; DESIGN CHOICE, notes/assumptions/99.md). -/
def segWindow (se de : End1) (src dst len : Nat) : Nat :=
  let start (i : Nat) : Nat := if i = 0 then 0 else (src / 128 + i) * 128 - src
  let chunk (i : Nat) : List Nat :=
    let lo := start i
    let n := min len (start (i + 1)) - lo
    (se.lines (src + lo) n ++ de.lines (dst + lo) n).dedup
  let n := fitSlots [] ((List.range (min 64 ((src % 128 + len + 127) / 128))).map chunk)
  if src < dst + len ∧ dst < src + len then len else min len (start (max 1 n))

/-- A segment stops at its byte: it parks there, once the bytes before are acknowledged (R361). -/
def State.stopSeg (s : State) (o : AsyncOp) (sg : Seg) (f : FaultInfo) : State :=
  let s := s.dropFar o.id sg.no
  if sg.acks = [] then s.parkSeg o.id sg.no sg f else s.putAsy (o.putSeg sg.no (some { sg with fail := some f }))

/-- A segment runs: as many bytes as its engine has line-request slots for, up to the first failure, are moved, and it goes on, completes
or parks (R360, R361). A source on another module is asked for first, and the segment runs when all of it has come
(notes/assumptions/82.md). -/
def State.runSeg (s : State) (o : AsyncOp) (sg : Seg) (err : Option SegError) : State :=
  let g := s.groupAt o.group
  if (s.farOf o.id sg.no).any FarLine.waits then s else
  let lost := s.segLost o.id sg
  match s.segSrc g o.id sg with
  | (s, .inl f) => s.stopSeg o { sg with wside := false } f
  | (s, .inr se) =>
    let ls := farEnd se sg.src.toNat sg.len
    if s.behind o.team o.id (se.pieces sg.src.toNat sg.len) then s
    else if ls ≠ [] then (match se with
      | .pages ps => ps.foldl (fun (s : State) (p : Page) => s.markAD p.ea false) s
      | _ => s).askFar g.ctx o.id sg.no ls
    else
    match s.segEnd g sg.dsp sg.dst sg.len .store with
    | (s, .inl f) => s.stopSeg o { sg with wside := true } f
    | (s, .inr de) =>
      let bad := (lost.map (·.1)).orElse (fun _ => s.endBad se sg.src sg.len)
      let s := match err.bind curedOf with
        | some n => s.crcPips n se de sg.src sg.dst
        | none => s
      let e := err.filter (fun e => (curedOf e).isNone && e.b < sg.len && bad.all (fun i => e.b ≤ i))
      let stop := match e, bad with
        | some e, _ => e.b
        | none, some i => i
        | none, none => sg.len
      let w := segWindow se de sg.src.toNat sg.dst.toNat sg.len
      let n := min w stop
      let s := (s.usePf g.ctx (pieceLines (se.pieces sg.src.toNat n))).usePf g.ctx (pieceLines (de.pieces sg.dst.toNat n))
      let (s, acks) := s.moveBytes g.ctx se de sg.src sg.dst n
      let rest := { sg.from n with acks := sg.acks ++ acks.map (fun a => (a.1, sg.b + a.2)) }
      if n < stop ∨ stop = sg.len then
        let s := if rest.len = 0 then s.dropFar o.id sg.no else s
        (s.putAsy (o.putSeg sg.no (if rest.len = 0 ∧ rest.acks = [] then none else some rest))).asySettle o.id
      else
        let far := e.any (fun x => x.kind == .linkTimeout || x.kind == .sealedPeer)
        let rest := { rest with wside := far }
        let kind : SegErrKind := (e.map (·.kind)).getD .dataError
        let s := if kind = .checksum then s.crcPips 4 se de sg.src sg.dst else s
        let s := if e.any (fun x => x.kind == .dataError) then s.uncorrectable (endByte se rest.src) g.ctx else s
        match e, lost with
        | none, some x => s.stopSeg o rest x.2
        | _, _ => s.stopSeg o rest (segFault kind rest ((endPeer de).getD 0))

/-- A segment may run: it is not parked, nor waits to park, and has bytes left; a collective's has not been performed. -/
def Seg.open (x : Seg) (cls : Nat) : Bool :=
  x.parked.isNone && x.fail.isNone && x.len != 0 && (cls != 3 || x.acks.isEmpty)

/-- The bytes a member of a collective has for another: broadcast and all-gather, the sum of all its SRC, or the elements of that rank
(R369). -/
def collFor (d : List Dw) (ms : List Nat) (self m : Nat) (bs : List Byte) : List Byte :=
  let x := d.getD 0 0
  let k := (d.getD 3 0).toNat * dtSize (fld x 59 56)
  match fld x 63 60 with
  | 0 => if fld x 48 40 = self then bs else []
  | 2 => (bs.drop (ms.findIdx (fun y => y == m) * k)).take k
  | _ => bs

/-- The packets of a collective engine to a member: its bytes, a line at a time, at addresses that are free (R311, R513; DESIGN CHOICE,
notes/assumptions/57.md). -/
def State.collPkts (s : State) (ctx m : Nat) (bs : List Byte) : State × List Packet :=
  (chunksUp 128 bs.length bs).foldl (fun (r : State × List Packet) c =>
    let (s, id) := r.1.fresh
    let md := lineOf (enum c)
    (s, r.2 ++ [{ s.mkPkt ctx m 2 (Config.collAddress id % 2 ^ 45 * 128) (BitVec.ofNat 32 id) false with
                  coll := true, mask := md.1, data := md.2 }])) (s, [])

/-- What the engine of a collective reads of its SRC: only the root of a broadcast reads it. -/
def State.collReads (s : State) (o : AsyncOp) : Nat :=
  let d := o.coll.take 8
  let x := d.getD 0 0
  if fld x 63 60 = 0 ∧ fld x 48 40 ≠ s.modl.modNo then 0 else (collLens d (membersOf (o.coll.drop 8)).length).1

/-- The engine of a collective reads its SRC and sends the other members their parts, once (R369, R311): the operation then; a failure
that parks it; or none, behind an earlier store of its team (R148). -/
def State.collSend (s : State) (o : AsyncOp) (sg : Seg) : State × Option (FaultInfo ⊕ AsyncOp) :=
  if o.own.isSome then (s, some (.inr o)) else
  let g := s.groupAt o.group
  let n := s.collReads o
  match s.xlateRun g.core g.ctx .load {} sg.src.toNat (pagesOf sg.src.toNat n) with
  | (s, .inl f) => (s, some (.inl f))
  | (s, .inr ps) =>
    if s.behind o.team o.id (piecesOf ps sg.src.toNat n) then (s, none)
    else if s.badRun ps sg.src.toNat n ≠ [] then (s, some (.inl (mkF .copySegment .dataError sg.src.toNat 0)))
    else
      let (s, bs) := s.readRun ps sg.src.toNat n
      let ms := membersOf (o.coll.drop 8)
      let (s, pk) := (ms.filter (fun m => m != s.modl.modNo)).foldl (fun (r : State × List Packet) m =>
        let (s, p) := r.1.collPkts g.ctx m (collFor (o.coll.take 8) ms s.modl.modNo m bs)
        (s, r.2 ++ p)) (s, [])
      let o := { o with own := some bs, sent := pk.map (fun (p : Packet) => p.rid) }
      ((s.putAsy o).queuePkts none pk, some (.inr o))

/-- COPY_SEGMENT_COMPLETE (R361): a segment goes on, completes or parks; of a collective the sending of its parts, or a
failure (R369), none for the silence of a member that has announced recovery. -/
def execCopySegmentComplete (op seg : Nat) (err : Option SegError) (s : State) : Out :=
  match s.asyOp op with
  | none => .next s
  | some o =>
    match o.segs.find? (fun x => x.no == seg && x.open o.cls) with
    | none => .next s
    | some sg =>
      if o.cls = 3 then
        match err with
        | none =>
          match s.collSend o sg with
          | (s, some (.inl f)) => .next (s.parkSeg op seg sg f)
          | (s, _) => .next s
        | some e =>
          if (curedOf e).isSome || (e.kind == .linkTimeout && decide (s.clk < (s.peer e.peer).annUntil)) then .next s
          else .next (s.parkSeg op seg sg (segFault e.kind sg e.peer))
      else .next (s.runSeg o sg err)

/-- The other members' parts of a collective, cut from the bytes the event brings, free beyond them. -/
def partsOf (free k : Nat) (self : Nat) (mine : List Byte) : List Nat → List Byte → List (Nat × List Byte)
  | [], _ => []
  | m :: r, bs =>
    if m = self then (m, mine) :: partsOf free k self mine r bs
    else
      let p := bs.take k
      let p := p ++ (List.range (k - p.length)).map (fun i => Config.remoteByte free (m * 2 ^ 40 + i))
      (m, p) :: partsOf free k self mine r (bs.drop k)

/-- COLLECTIVE_COMPLETE (R369): the parts of this member sent, DST receives the result; `data` holds what the other members contribute, by
rank (notes/assumptions/57.md). -/
def execCollectiveComplete (op : Nat) (data : List Byte) (s : State) : Out :=
  match s.asyOp op with
  | none => .next s
  | some o =>
    match o.segs.find? (fun x => x.open o.cls) with
    | none => .next s
    | some sg =>
      if o.cls ≠ 3 then .next s else
      let g := s.groupAt o.group
      let d := o.coll.take 8
      let ms := membersOf (o.coll.drop 8)
      let x := d.getD 0 0
      let dt := fld x 59 56
      let count := (d.getD 3 0).toNat
      let k := count * dtSize dt
      let n := (collLens d ms.length).2
      let own := if fld x 63 60 = 2 then ms.findIdx (fun m => m == s.modl.modNo) * k else 0
      match s.collSend o sg with
      | (s, none) => .next s
      | (s, some (.inl f)) => .next (s.parkSeg op sg.no sg f)
      | (s, some (.inr o)) =>
        match s.xlateRun g.core g.ctx .store {} sg.dst.toNat (pagesOf sg.dst.toNat n) with
        | (s, .inl f) => .next (s.parkSeg op sg.no sg f)
        | (s, .inr pd) =>
          let parts := partsOf s.free k s.modl.modNo (((o.own.getD []).drop own).take k) ms data
          let out := collResult (fld x 63 60) dt count (fld x 48 40) parts
          let (s, acks) := ({ s with free := s.free + 1 }).writeAcked g.ctx pd sg.dst.toNat out
          let o := o.putSeg sg.no (if acks = [] then none else some { sg with acks := acks })
          .next ((s.putAsy o).asySettle op)

end Sys2Proof.Machine
end

