-- ==== Sys2Proof/Machine/Mask.lean ====
section
/-! DEFINITION. Majors 6 and 7: masks, predicates and predicate compares (R259 to R265). -/

namespace Sys2Proof.Machine

/-! ### Whole masks (R260) -/

/-- MSAVE (R260): EXEC into p(D) in the live lanes. -/
def execMsave (d : PReg) (s : State) : Out :=
  issue { pw := [d], eng := 1, ex := true } (fun t s => s.retire (t.setP d t.live t.regs.exec)) s

/-- A whole-mask write of EXEC from EXEC, where the operation reads it, and p(A); dead lanes stay clear (R17, R260). -/
def maskOp (a : PReg) (reads : Bool) (f : Mask → Mask → Mask) (s : State) : Out :=
  issue { pr := [a], eng := 1, ex := reads, xw := (List.range 16).map (0x20 + ·) }
    (fun t s => s.retire (t.setExec (f t.regs.exec (t.p a)))) s

/-- MRSTR (R260). -/
def execMrstr (a : PReg) (s : State) : Out := maskOp a false (fun _ p => p) s
/-- MAND (R260). -/
def execMand (a : PReg) (s : State) : Out := maskOp a true (fun e p => e &&& p) s
/-- MANDN (R260). -/
def execMandn (a : PReg) (s : State) : Out := maskOp a true (fun e p => e &&& ~~~p) s
/-- MOR (R260). -/
def execMor (a : PReg) (s : State) : Out := maskOp a true (fun e p => e ||| p) s
/-- MNOT (R260). -/
def execMnot (a : PReg) (s : State) : Out := maskOp a true (fun e p => p &&& ~~~e) s

/-- MCNT (R260): the count of active lanes whose predicate bit is set. -/
def execMcnt (d : SReg) (a : PReg) (s : State) : Out :=
  issue { pr := [a], sw := [d], eng := 1, ex := true }
    (fun t s => s.retire (t.setS d (BitVec.ofNat 64 (popNat t.width (t.regs.exec &&& t.p a).toNat)))) s

/-- MFIRST (R260): the least such lane, or 2^64 - 1. -/
def execMfirst (d : SReg) (a : PReg) (s : State) : Out :=
  issue { pr := [a], sw := [d], eng := 1, ex := true }
    (fun t s => s.retire (t.setS d (match lowBit t.width 0 (t.regs.exec &&& t.p a).toNat with
      | some l => BitVec.ofNat 64 l
      | none => BitVec.allOnes 64))) s

/-! ### Per-lane predicate logic (R261) -/

/-- A predicate of two predicates in the active lanes. -/
def predOp (d a b : PReg) (f : Mask → Mask → Mask) (s : State) : Out :=
  issue { pr := [a, b], pw := [d], eng := 1, who := some none }
    (fun t s => s.retire (t.setP d t.regs.exec (f (t.p a) (t.p b)))) s

/-- PAND (R261). -/
def execPand (d a b : PReg) (s : State) : Out := predOp d a b (fun x y => x &&& y) s
/-- POR (R261). -/
def execPor (d a b : PReg) (s : State) : Out := predOp d a b (fun x y => x ||| y) s
/-- PXOR (R261). -/
def execPxor (d a b : PReg) (s : State) : Out := predOp d a b (fun x y => x ^^^ y) s
/-- PANDN (R261). -/
def execPandn (d a b : PReg) (s : State) : Out := predOp d a b (fun x y => x &&& ~~~y) s
/-- PNOT (R261). -/
def execPnot (d a : PReg) (s : State) : Out :=
  issue { pr := [a], pw := [d], eng := 1, who := some none }
    (fun t s => s.retire (t.setP d t.regs.exec (~~~(t.p a)))) s

/-! ### Predicate packing (R87, R263) -/

/-- Predicate f + i. -/
def predAt (f : PReg) (i : Nat) : PReg := BitVec.ofNat 4 (f.toNat + i)

/-- The word PPACK gives lane l: bit i is p(f + i)[l]. -/
def Team.packWord (t : Team) (f : PReg) (c l : Nat) : Wd :=
  BitVec.ofNat 32 ((List.range c).foldl (fun a i => a + b2n ((t.p (predAt f i)).getLsbD l) * 2 ^ i) 0)

/-- PPACK (R87, R263); the field holds the count less 1. -/
def execPpack (v : VReg) (f : PReg) (c : BitVec 3) (s : State) : Out :=
  let n := c.toNat + 1
  issue { vInfo [v] [] none with
          bad := if f.toNat + n ≤ 16 then none else some .none, pr := (List.range n).map (predAt f) }
    (fun t s => s.retire (t.writeMsk v none (.g ((List.range t.width).map (t.packWord f n))))) s

/-- PUNPK (R87, R263). -/
def execPunpk (f : PReg) (v : VReg) (c : BitVec 3) (s : State) : Out :=
  let n := c.toNat + 1
  issue { vInfo [] [v] none with
          bad := if f.toNat + n ≤ 16 then none else some .none, pw := (List.range n).map (predAt f) }
    (fun t s =>
      let xs := (t.v v).lanes t.width
      let bit (i : Nat) : Mask := maskOf t.width (fun l => (xs.getD l 0).getLsbD i)
      s.retire ((List.range n).foldl (fun t i => t.setP (predAt f i) t.regs.exec (bit i)) t)) s

/-! ### Predicate compares (R264, R265) -/

/-- An integer comparison as the condition of `Cc` reads it. -/
def cmpInt (cc : Cc) (o : Ordering) : Bool :=
  match cc with
  | .eq => o == .eq
  | .ne => o != .eq
  | .lt => o == .lt
  | .le => o != .gt
  | .gt => o == .gt
  | .ge => o != .lt
  | .un => false
  | .ord => true

/-- A lane of PCMP: the bit, and whether NV is raised (R265). -/
def cmpLane (ty : CmpTy) (cc : Cc) (x y : Wd) : Bool × Bool :=
  match ty with
  | .i32 => (cmpInt cc (compare x.toInt y.toInt), false)
  | .u32 => (cmpInt cc (compare x.toNat y.toNat), false)
  | .f32 =>
    match fCmp x.toNat y.toNat with
    | (some o, _, _) => (cmpInt cc o, false)
    | (none, _, sg) =>
      (cc == .ne || cc == .un, sg || cc == .lt || cc == .le || cc == .gt || cc == .ge)

/-- The registers and value of a comparand. -/
def cmpRegs : CmpB → List SReg × List VReg
  | .vec r => ([], [r])
  | .sca b => (sOrIReg b, [])

/-- The comparand as a value by lanes. -/
def Team.cmpVal (t : Team) : CmpB → VVal
  | .vec r => t.v r
  | .sca b => .u (t.sOrI b)

/-- The effect of PCMP: compares have no shadow check (R265). -/
def State.pcmp (s : State) (t : Team) (d : PReg) (a : VReg) (b : CmpB) (cc : Cc) (ty : CmpTy) (m : Option Msk) :
    State :=
  let xs := (t.v a).lanes t.width
  let ys := (t.cmpVal b).lanes t.width
  let rs := (t.lanesOf (t.active m)).map (fun l => (l, cmpLane ty cc (xs.getD l 0) (ys.getD l 0)))
  let y : Mask := rs.foldl (fun a r => if r.2.1 then a ||| (1 <<< r.1) else a) 0
  s.fpDone t (rs.map (fun r => { lane := r.1, res := 0, fl := [if r.2.2 then flNV else 0] }))
    (fun t => t.writePMsk d m y)

/-- A float compare sets flags in FPCTL. -/
def cmpFpctl (ty : CmpTy) : List Nat :=
  match ty with
  | .f32 => [0x08]
  | _ => []

/-- PCMP (R264, R265). -/
def execPcmp (d : PReg) (a : VReg) (b : CmpB) (cc : Cc) (ty : CmpTy) (m : Option Msk) (s : State) : Out :=
  issue { vInfo [] (a :: (cmpRegs b).2) m with
          bad := if ccOk cc ty then none else some .none, sr := (cmpRegs b).1, pw := [d], xr := cmpFpctl ty }
    (fun t s => s.pcmp t d a b cc ty m) s

end Sys2Proof.Machine
end

