-- ==== Sys2Proof/Machine/VecFloat.lean ====
section
/-! DEFINITION. Majors 48 to 50: vector float instructions (R276 to R282). -/

namespace Sys2Proof.Machine

/-- The element format and width of the packed major by its type bit: F16, BF16 (R276). -/
def packedFmt (bf : Bool) : Fmt := if bf then fBF16 else fF16

/-- One element operation on the elements of the source words of a lane: the word, and the flags by element. -/
def fLane (w : Nat) (op : List Nat → Nat × Nat) (xs : List Wd) : Wd × List Nat :=
  let rs := (List.range (32 / w)).map (fun i => op (xs.map (fun x => bits x.toNat (w * i + w - 1) (w * i))))
  (packElems w (rs.map (·.1)), rs.map (·.2))

/-- Every source is U. -/
def allU : List VVal → Option (List Wd)
  | [] => some []
  | .u x :: r => (allU r).map (x :: ·)
  | _ :: _ => none

/-- The elements of a word that a shadow checks, in the format they have; none where it checks none. -/
def elemVals (chk : Option Fmt) (w : Nat) (x : Wd) : List FVal :=
  match chk with
  | none => []
  | some f => (List.range (32 / w)).map (fun i => f.decode (bits x.toNat (w * i + w - 1) (w * i)))

/-- What the active lanes compute, and the result: shape U when every source is U, else G (R282). -/
def floatLanes (t : Team) (act : Mask) (chk : Option Fmt) (w : Nat) (op : List Wd → Wd × List Nat) (xs : List VVal) :
    List FLane × VVal :=
  match allU xs with
  | some ws =>
    let r := op ws
    ((t.lanesOf act).map (fun l => { lane := l, res := r.1, fl := r.2, vals := elemVals chk w r.1 }), .u r.1)
  | none =>
    let rs := (List.range t.width).map (fun l =>
      if act.getLsbD l then op (xs.map (fun v => v.lane l)) else (0, []))
    ((t.lanesOf act).map (fun l =>
       { lane := l, res := (rs.getD l (0, [])).1, fl := (rs.getD l (0, [])).2, vals := elemVals chk w (rs.getD l (0, [])).1 }),
     .g (rs.map (·.1)))

/-- The effect of a vector float instruction; `chk` the format of the results that a shadow checks (R281). -/
def State.vfloat (s : State) (t : Team) (chk : Option Fmt) (d : VReg) (m : Option Msk) (w : Nat)
    (op : List Nat → Nat × Nat) (xs : List VVal) : State :=
  let r := floatLanes t (t.active m) chk w (fLane w op) xs
  s.fpDone t r.1 (fun t => t.writeMsk d m r.2)

/-- An operation on one element. -/
def on1 (f : Nat → Nat × Nat) : List Nat → Nat × Nat
  | x :: _ => f x
  | _ => (0, 0)

/-- An operation on two elements. -/
def on2 (f : Nat → Nat → Nat × Nat) : List Nat → Nat × Nat
  | x :: y :: _ => f x y
  | _ => (0, 0)

/-- An operation on three elements. -/
def on3 (f : Nat → Nat → Nat → Nat × Nat) : List Nat → Nat × Nat
  | x :: y :: z :: _ => f x y z
  | _ => (0, 0)

/-- A float instruction of one vector source. -/
def vf1 (chk : Option Fmt) (w : Nat) (f : Nat → Nat → Nat × Nat) (d a : VReg) (m : Option Msk)
    (rm : Option (BitVec 3)) (s : State) : Out :=
  issue (vInfo [d] [a] m).float (fun t s => s.vfloat t chk d m w (on1 (f (t.modeN rm))) [t.v a]) s

/-- A float instruction of two vector sources. -/
def vf2 (chk : Option Fmt) (w : Nat) (f : Nat → Nat → Nat → Nat × Nat) (d a b : VReg) (m : Option Msk)
    (rm : Option (BitVec 3)) (s : State) : Out :=
  issue (vInfo [d] [a, b] m).float (fun t s => s.vfloat t chk d m w (on2 (f (t.modeN rm))) [t.v a, t.v b]) s

/-- A float instruction whose second source is a scalar or immediate (R268). -/
def vf2S (chk : Option Fmt) (f : Nat → Nat → Nat → Nat × Nat) (d a : VReg) (b : SOrI) (m : Option Msk)
    (rm : Option (BitVec 3)) (s : State) : Out :=
  issue { (vInfo [d] [a] m).float with sr := sOrIReg b }
    (fun t s => s.vfloat t chk d m 32 (on2 (f (t.modeN rm))) [t.v a, .u (t.sOrI b)]) s

/-- A float instruction of three vector sources; the third is E, or D (R222). -/
def vf3 (chk : Option Fmt) (w : Nat) (f : Nat → Nat → Nat → Nat → Nat × Nat) (d a b : VReg) (e : Option VReg) (m : Option Msk)
    (rm : Option (BitVec 3)) (s : State) : Out :=
  issue (vInfo [d] [a, b, e.getD d] m).float
    (fun t s => s.vfloat t chk d m w (on3 (f (t.modeN rm))) [t.v a, t.v b, t.v (e.getD d)]) s

/-- A float instruction of three sources, the second a scalar or immediate. -/
def vf3S (chk : Option Fmt) (f : Nat → Nat → Nat → Nat → Nat × Nat) (d a : VReg) (b : SOrI) (e : Option VReg) (m : Option Msk)
    (rm : Option (BitVec 3)) (s : State) : Out :=
  issue { (vInfo [d] [a, e.getD d] m).float with sr := sOrIReg b }
    (fun t s => s.vfloat t chk d m 32 (on3 (f (t.modeN rm))) [t.v a, .u (t.sOrI b), t.v (e.getD d)]) s

/-- a x b + c. -/
def oFma (f : Fmt) (md a b c : Nat) : Nat × Nat := fFma f md a b c false false
/-- a x b - c. -/
def oFms (f : Fmt) (md a b c : Nat) : Nat × Nat := fFma f md a b c false true
/-- -(a x b) + c. -/
def oFnma (f : Fmt) (md a b c : Nat) : Nat × Nat := fFma f md a b c true false
/-- The smaller; no rounding. -/
def oMin (f : Fmt) (_ a b : Nat) : Nat × Nat := fMinMax f false a b
/-- The larger; no rounding. -/
def oMax (f : Fmt) (_ a b : Nat) : Nat × Nat := fMinMax f true a b
/-- Sign cleared. -/
def oAbs (f : Fmt) (_ a : Nat) : Nat × Nat := fAbs f a
/-- Sign inverted. -/
def oNeg (f : Fmt) (_ a : Nat) : Nat × Nat := fNeg f a

/-! ### The instructions -/

/-- VFADD, major 48 (R276). -/
def execVfaddF32 (d a b : VReg) (m : Option Msk) (rm : Option (BitVec 3)) (s : State) : Out :=
  vf2 (some fF32) 32 (fAdd fF32) d a b m rm s
/-- VFSUB, major 48 (R276). -/
def execVfsubF32 (d a b : VReg) (m : Option Msk) (rm : Option (BitVec 3)) (s : State) : Out :=
  vf2 (some fF32) 32 (fSub fF32) d a b m rm s
/-- VFMUL, major 48 (R276). -/
def execVfmulF32 (d a b : VReg) (m : Option Msk) (rm : Option (BitVec 3)) (s : State) : Out :=
  vf2 (some fF32) 32 (fMul fF32) d a b m rm s
/-- VFMIN, major 48 (R276). -/
def execVfminF32 (d a b : VReg) (m : Option Msk) (rm : Option (BitVec 3)) (s : State) : Out :=
  vf2 none 32 (oMin fF32) d a b m rm s
/-- VFMAX, major 48 (R276). -/
def execVfmaxF32 (d a b : VReg) (m : Option Msk) (rm : Option (BitVec 3)) (s : State) : Out :=
  vf2 none 32 (oMax fF32) d a b m rm s
/-- VFDIV, major 48 (R276). -/
def execVfdivF32 (d a b : VReg) (m : Option Msk) (rm : Option (BitVec 3)) (s : State) : Out :=
  vf2 (some fF32) 32 (fDiv fF32) d a b m rm s
/-- VFMA, major 48 (R276). -/
def execVfmaF32 (d a b : VReg) (e : Option VReg) (m : Option Msk) (rm : Option (BitVec 3)) (s : State) : Out :=
  vf3 (some fF32) 32 (oFma fF32) d a b e m rm s
/-- VFMS, major 48 (R276). -/
def execVfmsF32 (d a b : VReg) (e : Option VReg) (m : Option Msk) (rm : Option (BitVec 3)) (s : State) : Out :=
  vf3 (some fF32) 32 (oFms fF32) d a b e m rm s
/-- VFNMA, major 48 (R276). -/
def execVfnmaF32 (d a b : VReg) (e : Option VReg) (m : Option Msk) (rm : Option (BitVec 3)) (s : State) : Out :=
  vf3 (some fF32) 32 (oFnma fF32) d a b e m rm s
/-- VFSQRT, major 48 (R276). -/
def execVfsqrtF32 (d a : VReg) (m : Option Msk) (rm : Option (BitVec 3)) (s : State) : Out :=
  vf1 (some fF32) 32 (fSqrt fF32) d a m rm s
/-- VFRCP, major 48 (R276). -/
def execVfrcpF32 (d a : VReg) (m : Option Msk) (rm : Option (BitVec 3)) (s : State) : Out :=
  vf1 (some fF32) 32 (fRcp fF32) d a m rm s
/-- VFRSQ, major 48 (R276). -/
def execVfrsqF32 (d a : VReg) (m : Option Msk) (rm : Option (BitVec 3)) (s : State) : Out :=
  vf1 (some fF32) 32 (fRsq fF32) d a m rm s
/-- VFABS, major 48 (R276). -/
def execVfabsF32 (d a : VReg) (m : Option Msk) (rm : Option (BitVec 3)) (s : State) : Out :=
  vf1 none 32 (oAbs fF32) d a m rm s
/-- VFNEG, major 48 (R276). -/
def execVfnegF32 (d a : VReg) (m : Option Msk) (rm : Option (BitVec 3)) (s : State) : Out :=
  vf1 none 32 (oNeg fF32) d a m rm s
/-- VFEXP2, major 48 (R276). -/
def execVfexp2F32 (d a : VReg) (m : Option Msk) (rm : Option (BitVec 3)) (s : State) : Out :=
  vf1 (some fF32) 32 (fExp2 fF32) d a m rm s
/-- VFLOG2, major 48 (R276). -/
def execVflog2F32 (d a : VReg) (m : Option Msk) (rm : Option (BitVec 3)) (s : State) : Out :=
  vf1 (some fF32) 32 (fLog2 fF32) d a m rm s
/-- VFADD, major 49 (R276). -/
def execVfaddPacked (tb : Bool) (d a b : VReg) (m : Option Msk) (rm : Option (BitVec 3)) (s : State) : Out :=
  vf2 (some (packedFmt tb)) 16 (fAdd (packedFmt tb)) d a b m rm s
/-- VFSUB, major 49 (R276). -/
def execVfsubPacked (tb : Bool) (d a b : VReg) (m : Option Msk) (rm : Option (BitVec 3)) (s : State) : Out :=
  vf2 (some (packedFmt tb)) 16 (fSub (packedFmt tb)) d a b m rm s
/-- VFMUL, major 49 (R276). -/
def execVfmulPacked (tb : Bool) (d a b : VReg) (m : Option Msk) (rm : Option (BitVec 3)) (s : State) : Out :=
  vf2 (some (packedFmt tb)) 16 (fMul (packedFmt tb)) d a b m rm s
/-- VFMIN, major 49 (R276). -/
def execVfminPacked (tb : Bool) (d a b : VReg) (m : Option Msk) (rm : Option (BitVec 3)) (s : State) : Out :=
  vf2 none 16 (oMin (packedFmt tb)) d a b m rm s
/-- VFMAX, major 49 (R276). -/
def execVfmaxPacked (tb : Bool) (d a b : VReg) (m : Option Msk) (rm : Option (BitVec 3)) (s : State) : Out :=
  vf2 none 16 (oMax (packedFmt tb)) d a b m rm s
/-- VFDIV, major 49 (R276). -/
def execVfdivPacked (tb : Bool) (d a b : VReg) (m : Option Msk) (rm : Option (BitVec 3)) (s : State) : Out :=
  vf2 (some (packedFmt tb)) 16 (fDiv (packedFmt tb)) d a b m rm s
/-- VFMA, major 49 (R276). -/
def execVfmaPacked (tb : Bool) (d a b : VReg) (e : Option VReg) (m : Option Msk) (rm : Option (BitVec 3)) (s : State) : Out :=
  vf3 (some (packedFmt tb)) 16 (oFma (packedFmt tb)) d a b e m rm s
/-- VFMS, major 49 (R276). -/
def execVfmsPacked (tb : Bool) (d a b : VReg) (e : Option VReg) (m : Option Msk) (rm : Option (BitVec 3)) (s : State) : Out :=
  vf3 (some (packedFmt tb)) 16 (oFms (packedFmt tb)) d a b e m rm s
/-- VFNMA, major 49 (R276). -/
def execVfnmaPacked (tb : Bool) (d a b : VReg) (e : Option VReg) (m : Option Msk) (rm : Option (BitVec 3)) (s : State) : Out :=
  vf3 (some (packedFmt tb)) 16 (oFnma (packedFmt tb)) d a b e m rm s
/-- VFSQRT, major 49 (R276). -/
def execVfsqrtPacked (tb : Bool) (d a : VReg) (m : Option Msk) (rm : Option (BitVec 3)) (s : State) : Out :=
  vf1 (some (packedFmt tb)) 16 (fSqrt (packedFmt tb)) d a m rm s
/-- VFRCP, major 49 (R276). -/
def execVfrcpPacked (tb : Bool) (d a : VReg) (m : Option Msk) (rm : Option (BitVec 3)) (s : State) : Out :=
  vf1 (some (packedFmt tb)) 16 (fRcp (packedFmt tb)) d a m rm s
/-- VFRSQ, major 49 (R276). -/
def execVfrsqPacked (tb : Bool) (d a : VReg) (m : Option Msk) (rm : Option (BitVec 3)) (s : State) : Out :=
  vf1 (some (packedFmt tb)) 16 (fRsq (packedFmt tb)) d a m rm s
/-- VFABS, major 49 (R276). -/
def execVfabsPacked (tb : Bool) (d a : VReg) (m : Option Msk) (rm : Option (BitVec 3)) (s : State) : Out :=
  vf1 none 16 (oAbs (packedFmt tb)) d a m rm s
/-- VFNEG, major 49 (R276). -/
def execVfnegPacked (tb : Bool) (d a : VReg) (m : Option Msk) (rm : Option (BitVec 3)) (s : State) : Out :=
  vf1 none 16 (oNeg (packedFmt tb)) d a m rm s
/-- VFEXP2, major 49 (R276). -/
def execVfexp2Packed (tb : Bool) (d a : VReg) (m : Option Msk) (rm : Option (BitVec 3)) (s : State) : Out :=
  vf1 (some (packedFmt tb)) 16 (fExp2 (packedFmt tb)) d a m rm s
/-- VFLOG2, major 49 (R276). -/
def execVflog2Packed (tb : Bool) (d a : VReg) (m : Option Msk) (rm : Option (BitVec 3)) (s : State) : Out :=
  vf1 (some (packedFmt tb)) 16 (fLog2 (packedFmt tb)) d a m rm s
/-- VFADD, major 50 (R276). -/
def execVfaddScalar (d a : VReg) (b : SOrI) (m : Option Msk) (rm : Option (BitVec 3)) (s : State) : Out :=
  vf2S (some fF32) (fAdd fF32) d a b m rm s
/-- VFSUB, major 50 (R276). -/
def execVfsubScalar (d a : VReg) (b : SOrI) (m : Option Msk) (rm : Option (BitVec 3)) (s : State) : Out :=
  vf2S (some fF32) (fSub fF32) d a b m rm s
/-- VFMUL, major 50 (R276). -/
def execVfmulScalar (d a : VReg) (b : SOrI) (m : Option Msk) (rm : Option (BitVec 3)) (s : State) : Out :=
  vf2S (some fF32) (fMul fF32) d a b m rm s
/-- VFMIN, major 50 (R276). -/
def execVfminScalar (d a : VReg) (b : SOrI) (m : Option Msk) (rm : Option (BitVec 3)) (s : State) : Out :=
  vf2S none (oMin fF32) d a b m rm s
/-- VFMAX, major 50 (R276). -/
def execVfmaxScalar (d a : VReg) (b : SOrI) (m : Option Msk) (rm : Option (BitVec 3)) (s : State) : Out :=
  vf2S none (oMax fF32) d a b m rm s
/-- VFDIV, major 50 (R276). -/
def execVfdivScalar (d a : VReg) (b : SOrI) (m : Option Msk) (rm : Option (BitVec 3)) (s : State) : Out :=
  vf2S (some fF32) (fDiv fF32) d a b m rm s
/-- VFMA, major 50 (R276). -/
def execVfmaScalar (d a : VReg) (b : SOrI) (e : Option VReg) (m : Option Msk) (rm : Option (BitVec 3)) (s : State) : Out :=
  vf3S (some fF32) (oFma fF32) d a b e m rm s
/-- VFMS, major 50 (R276). -/
def execVfmsScalar (d a : VReg) (b : SOrI) (e : Option VReg) (m : Option Msk) (rm : Option (BitVec 3)) (s : State) : Out :=
  vf3S (some fF32) (oFms fF32) d a b e m rm s
/-- VFNMA, major 50 (R276). -/
def execVfnmaScalar (d a : VReg) (b : SOrI) (e : Option VReg) (m : Option Msk) (rm : Option (BitVec 3)) (s : State) : Out :=
  vf3S (some fF32) (oFnma fF32) d a b e m rm s
/-- VFSQRT, major 50 (R276). -/
def execVfsqrtScalar (d a : VReg) (m : Option Msk) (rm : Option (BitVec 3)) (s : State) : Out :=
  vf1 (some fF32) 32 (fSqrt fF32) d a m rm s
/-- VFRCP, major 50 (R276). -/
def execVfrcpScalar (d a : VReg) (m : Option Msk) (rm : Option (BitVec 3)) (s : State) : Out :=
  vf1 (some fF32) 32 (fRcp fF32) d a m rm s
/-- VFRSQ, major 50 (R276). -/
def execVfrsqScalar (d a : VReg) (m : Option Msk) (rm : Option (BitVec 3)) (s : State) : Out :=
  vf1 (some fF32) 32 (fRsq fF32) d a m rm s
/-- VFABS, major 50 (R276). -/
def execVfabsScalar (d a : VReg) (m : Option Msk) (rm : Option (BitVec 3)) (s : State) : Out :=
  vf1 none 32 (oAbs fF32) d a m rm s
/-- VFNEG, major 50 (R276). -/
def execVfnegScalar (d a : VReg) (m : Option Msk) (rm : Option (BitVec 3)) (s : State) : Out :=
  vf1 none 32 (oNeg fF32) d a m rm s
/-- VFEXP2, major 50 (R276). -/
def execVfexp2Scalar (d a : VReg) (m : Option Msk) (rm : Option (BitVec 3)) (s : State) : Out :=
  vf1 (some fF32) 32 (fExp2 fF32) d a m rm s
/-- VFLOG2, major 50 (R276). -/
def execVflog2Scalar (d a : VReg) (m : Option Msk) (rm : Option (BitVec 3)) (s : State) : Out :=
  vf1 (some fF32) 32 (fLog2 fF32) d a m rm s

end Sys2Proof.Machine
end

