-- ==== Sys2Proof/Machine/Convert.lean ====
section
/-! DEFINITION. Major 51: VCVT, QCVT and the shape instructions (R283 to R292, R179 to R183). -/

namespace Sys2Proof.Machine

/-- The SR counter advances after a conversion under SR with an active lane (R189). -/
def Team.srStep (t : Team) (md : Nat) (act : Mask) : Team :=
  if md = 5 ∧ act ≠ 0 then { t with regs := { t.regs with srctr := t.regs.srctr + 1 } } else t

/-- The random word of an element of a lane (R189). -/
def Team.rnd (t : Team) (l e : Nat) : Nat := srWord t.regs.seed.toNat t.regs.srctr.toNat l e

/-! ### VCVT -/

/-- A converted lane (R285): word, and flags by destination element. `old` is the destination's word, whose other
elements a narrowing conversion keeps; `rw e` is the random word of element e. -/
def cvtLane (src dst : CFmt) (md sel : Nat) (rw : Nat → Nat) (x old : Wd) : Wd × List Nat :=
  let cs := 32 / src.width
  let cd := 32 / dst.width
  let el (w : Nat) (y : Wd) (i : Nat) : Nat := bits y.toNat (w * i + w - 1) (w * i)
  let rs := (List.range cd).map (fun e =>
    if cd ≤ cs then cvt src dst md (rw e) (el src.width x (sel * cd + e))
    else if sel * cs ≤ e ∧ e < sel * cs + cs then cvt src dst md (rw e) (el src.width x (e - sel * cs))
    else (el dst.width old e, 0))
  (packElems dst.width (rs.map (·.1)), rs.map (·.2))

/-- A conversion has a float side, so that the shadow checks it (R286). -/
def CFmt.isFlt : CFmt → Bool
  | .flt _ _ _ => true
  | .int _ _ => false

/-- The value of an element of a format. -/
def CFmt.val (c : CFmt) (x : Nat) : FVal :=
  match c with
  | .flt f _ sh => f.decode (x >>> sh)
  | .int w sg => let v : Int := if sg then sext w x else x; .fin (decide (v < 0)) v.natAbs 0

/-- The elements of a converted word that the shadow checks: those of a destination register's word. -/
def cvtVals (src dst : CFmt) (x : Wd) : List FVal :=
  if src.isFlt || dst.isFlt then
    (List.range (32 / dst.width)).map (fun i => dst.val (bits x.toNat (dst.width * i + dst.width - 1) (dst.width * i)))
  else []

/-- The elements of a word that a conversion keeps from its destination (R285). -/
def cvtKept (src dst : CFmt) (sel : Nat) : List Nat :=
  let cs := 32 / src.width
  let cd := 32 / dst.width
  if cd ≤ cs then [] else (List.range cd).filter (fun e => !(decide (sel * cs ≤ e) && decide (e < sel * cs + cs)))

/-- The effect of VCVT (R285, R286): under SR every active lane has its own rounding. -/
def State.vcvt (s : State) (t : Team) (d a : VReg) (sel : BitVec 4) (src dst : CFmt) (m : Option Msk) (md : Nat) :
    State :=
  let act := t.active m
  let f (l : Nat) : Wd × List Nat :=
    cvtLane src dst md sel.toNat (fun e => if md = 5 then t.rnd l e else 0) ((t.v a).lane l) ((t.v d).lane l)
  let srcs := if 32 / src.width < 32 / dst.width then [t.v a, t.v d] else [t.v a]
  let idle := cvtKept src dst sel.toNat
  let r : List FLane × VVal :=
    if (allU srcs).isSome && md != 5 then
      let r := f 0
      ((t.lanesOf act).map (fun l => { lane := l, res := r.1, fl := r.2, vals := cvtVals src dst r.1, idle := idle }), .u r.1)
    else
      let rs := (List.range t.width).map (fun l => if act.getLsbD l then f l else (0, []))
      ((t.lanesOf act).map (fun l =>
         { lane := l, res := (rs.getD l (0, [])).1, fl := (rs.getD l (0, [])).2,
           vals := cvtVals src dst (rs.getD l (0, [])).1, idle := idle }),
       .g (rs.map (·.1)))
  s.fpDone t r.1 (fun t => (t.writeMsk d m r.2).srStep md act)

/-- VCVT (R283 to R286). A selector beyond the formats is a fault of the words (R541 step 2) when both codes are
formats; a code pair that is none is illegal-format. -/
def execVcvt (d a : VReg) (sel : BitVec 4) (src dst : BitVec 5) (m : Option Msk) (rm : Option (BitVec 3))
    (s : State) : Out :=
  issue { (vInfo [d] (if cvtElems src < cvtElems dst then [a, d] else [a]) m).float with
          bad := if cvtFmtOk src && cvtFmtOk dst && !selOk src dst sel then some .selector else none, conv := some rm
          fmt := !vcvtOk src dst }
    (fun t s =>
      match cfmt src.toNat, cfmt dst.toNat with
      | some cs, some cd => s.vcvt t d a sel cs cd m (t.mode rm)
      | _, _ => s.retire t) s

/-! ### QCVT -/

/-- An element format of a block-scaled code (Table 5-4). -/
inductive QEl where
  | flt (f : Fmt)
  | int (w : Nat) (mx : Nat)
  deriving DecidableEq, Repr

/-- The element format of a block-scaled code. -/
def qEl (c : Nat) : QEl :=
  match c with
  | 15 => .flt fE5M2
  | 16 => .flt fE4M3
  | 17 => .flt fE3M4
  | 18 => .flt fE3M2
  | 19 => .flt fE2M3
  | 20 => .flt fE2M1
  | 21 => .int 8 127
  | 22 => .int 4 7
  | 23 => .int 4 7
  | 24 => .flt fE2M1
  | 25 => .int 4 7
  | 26 => .int 4 7
  | 27 => .flt fE4M3
  | 28 => .flt fE4M3
  | _ => .flt fE2M1

/-- The code holds an I4X format (R290). -/
def qIsX (c : Nat) : Bool := c == 23 || c == 26
/-- The scale is an E4M3 byte beside an operand scale. -/
def qE4 (c : Nat) : Bool := 24 ≤ c && c ≤ 27
/-- The elements take 4 bits (Table 8-8). -/
def qIs4 (c : Nat) : Bool := c == 20 || (22 ≤ c && c ≤ 26) || c == 29

/-- Mx as a magnitude m x 2^e (R183). -/
def QEl.mx : QEl → Nat × Int
  | .flt f =>
    match f.decode f.maxCode with
    | .fin _ m e => (m, e)
    | _ => (1, 0)
  | .int _ mx => (mx, 0)

/-- The block length of a control word (Table 8-7). -/
def qLen (ctl : Dw) : Nat :=
  match fld ctl 1 0 with
  | 0 => 24
  | 1 => 16
  | _ => 32

/-- The operand scale is a positive normal finite F32 (R287). -/
def posNormal (x : Nat) : Bool := decide (0 < x >>> 23) && decide (x >>> 23 < 255)

/-- The control word is malformed for a destination code (R287). -/
def qCtlBad (ctl : Dw) (dst : Nat) : Bool :=
  fld ctl 1 0 == 3 || (28 ≤ dst && fld ctl 1 0 != 2) || fld ctl 31 2 != 0
    || (qE4 dst && !posNormal (fld ctl 63 32))

/-- The magnitude of a finite value. -/
def FVal.mag : FVal → Nat × Int
  | .fin _ m e => (m, e)
  | _ => (0, 0)

/-- One magnitude is below another. -/
def magLt (x y : Nat × Int) : Bool :=
  let e := min x.2 y.2
  decide (x.1 <<< (x.2 - e).toNat < y.1 <<< (y.2 - e).toNat)

/-- The value is finite. -/
def FVal.isFin : FVal → Bool
  | .fin _ _ _ => true
  | _ => false

/-- The sign of a value. -/
def FVal.sign : FVal → Bool
  | .nan n _ _ => n
  | .inf n => n
  | .fin n _ _ => n

/-- The lowest index of largest magnitude among the allowed ones. -/
def argMax (mags : List (Nat × Int)) (ok : Nat → Bool) : Option Nat :=
  ((enum mags).filter (fun p => ok p.1)).foldl (fun (best : Option Nat) p =>
    match best with
    | none => some p.1
    | some b => if magLt (mags.getD b (0, 0)) p.2 then some p.1 else some b) none

/-- A quotient of magnitudes with 100 bits beyond the divisor, and whether it is inexact. -/
def magDiv (x y : Nat × Int) : Nat × Int × Bool :=
  let sh := 100 + Nat.log2 y.1
  ((x.1 <<< sh) / y.1, x.2 - y.2 - sh, (x.1 <<< sh) % y.1 != 0)

/-- The scale byte for amax (Table 5-5); `opm` is the operand scale. -/
def qScale (dst : Nat) (amax opm : Nat × Int) : Nat :=
  let mx := (qEl dst).mx
  if qE4 dst then
    if amax.1 = 0 then 0x38
    else
      let (q, e, st) := magDiv amax (mx.1 * opm.1, mx.2 + opm.2)
      min (max (fE4M3.round 3 0 false q e st).1 1) 0x7E
  else if amax.1 = 0 then 0x7F
  else
    let lg (x : Nat × Int) : Int := (Nat.log2 x.1 : Int) + x.2
    (max 0 (min 254 (lg amax - lg mx + 127))).toNat

/-- The value of a scale byte. -/
def scaleVal (dst b : Nat) : Nat × Int :=
  if qE4 dst then (fE4M3.decode b).mag else (1, (b : Int) - 127)

/-- A quotient converted to a float element: a finite overflow gives the largest finite value (R289). -/
def qFlt (f : Fmt) (md r : Nat) (neg : Bool) (q : Nat × Int × Bool) : Nat × Nat :=
  if q.1 = 0 then (f.withSign neg 0, 0)
  else
    let (c, fl) := f.round md r neg q.1 q.2.1 q.2.2
    if fl.testBit 2 then (f.withSign neg f.maxCode, fl) else (c, fl)

/-- A quotient converted to an integer element: beyond ±Mx it takes the bound with NV (R289). -/
def qInt (w mx : Nat) (md r : Nat) (neg : Bool) (q : Nat × Int × Bool) : Nat × Nat :=
  let (t, nx) := roundAt md neg r q.1 q.2.1 0 q.2.2
  let v : Int := sgn neg (min t mx)
  ((v % 2 ^ w).toNat, if mx < t then flNV else if nx then flNX else 0)

/-- A quotient converted to an element of a code (DEDUCED, notes/assumptions/17.md). -/
def qConv (el : QEl) (md r : Nat) (neg : Bool) (q : Nat × Int × Bool) : Nat × Nat :=
  match el with
  | .flt f => qFlt f md r neg q
  | .int w mx => qInt w mx md r neg q

/-- The result of a block: element codes, scale byte, outlier byte, flags by element, the converted value of each element, and the elements
that no conversion made (R290). -/
structure QBlock where
  codes : List Nat
  scale : Nat
  outb : Nat
  fl : List Nat
  vals : List FVal := []
  idle : List Nat := []
  deriving DecidableEq, Repr

/-- The candidates of R290 step 1. -/
def qCands (xs : List FVal) : List Nat :=
  let mags := xs.map (·.mag)
  let c1 := argMax mags (fun _ => true)
  let c2 := c1.bind (fun c => argMax mags (fun k => k / 2 != c / 2))
  (c1.toList ++ c2.toList).filter (fun k => (mags.getD k (0, 0)).1 != 0)

/-- One block (R289, R290). -/
def qBlock (dst : Nat) (md : Nat) (opm : Nat × Int) (rw : Nat → Nat) (xs : List FVal) : QBlock :=
  match xs.findIdx? (fun x => !x.isFin) with
  | some k0 =>
    { codes := xs.map (fun _ => 0), scale := if qE4 dst then 0x7F else 0xFF, outb := 0,
      fl := (List.range xs.length).map (fun k => if k = k0 then flNV else 0) }
  | none =>
    let mags := xs.map (·.mag)
    let cands := if qIsX dst then qCands xs else []
    let inCand (k : Nat) : Bool := cands.any (fun c => c / 2 == k / 2)
    let amax := match argMax mags (fun k => !inCand k) with
      | some k => mags.getD k (0, 0)
      | none => (0, 0)
    let sc := qScale dst amax opm
    let sv := scaleVal dst sc
    let den := (sv.1 * opm.1, sv.2 + opm.2)
    let q (k : Nat) := magDiv (mags.getD k (0, 0)) den
    let neg (k : Nat) : Bool := (xs.getD k (.fin false 0 0)).sign
    let outs := (List.range xs.length).filter (fun k => cands.contains k && magLt (7 * den.1, den.2) (mags.getD k (0, 0)))
    let oc (k : Nat) : Nat × Nat := qFlt fE4M3 md (rw k) (neg k) (q k)
    let one (k : Nat) : Nat × Nat :=
      if outs.contains k then (8, (oc k).2)
      else
        match outs.find? (fun c => c / 2 == k / 2) with
        | some c => ((oc c).1 / 16, if (mags.getD k (0, 0)).1 ≠ 0 then flNX else 0)
        | none => qConv (qEl dst) md (rw k) (neg k) (q k)
    let val (k : Nat) : FVal :=
      if outs.contains k then fE4M3.decode (oc k).1
      else
        match qEl dst with
        | .flt f => f.decode (one k).1
        | .int w _ => let v : Int := sext w (one k).1; .fin (decide (v < 0)) v.natAbs 0
    let ks := List.range xs.length
    let rs := ks.map one
    { codes := rs.map (·.1), scale := sc
      outb := ((enum outs).foldl (fun a p => a + ((oc p.2).1 % 16) * 16 ^ p.1) 0), fl := rs.map (·.2), vals := ks.map val
      idle := ks.filter (fun k => !outs.contains k && outs.any (fun c => c / 2 == k / 2)) }

/-- The words of the destination registers, the side register last (R288). -/
def qWords (dst : Nat) (b : QBlock) : List Wd :=
  let n := if qIs4 dst then b.codes.length / 8 else b.codes.length / 4
  let w := if qIs4 dst then 4 else 8
  let per := 32 / w
  (List.range n).map (fun i => packElems w ((b.codes.drop (i * per)).take per))
    ++ [BitVec.ofNat 32 (b.scale + (if qIsX dst then b.outb * 256 else 0))]

/-- The source elements of a lane: element k mod c of v(A + k / c) (R288). -/
def qSource (f : Fmt) (c n : Nat) (ws : List Wd) : List FVal :=
  (List.range n).map (fun k =>
    f.decode (if c = 1 then (ws.getD k 0).toNat else bits (ws.getD (k / 2) 0).toNat (16 * (k % 2) + 15) (16 * (k % 2))))

/-- The format of a QCVT source. -/
def qSrcFmt (src : Nat) : Fmt := if src = 0 then fF32 else if src = 2 then fBF16 else fF16

/-- What the shadow checks of a lane's block: the elements converted, and an E4M3 scale (R200, R291); with each the word that holds it. -/
def qLane (dst l : Nat) (b : QBlock) : FLane :=
  let ws := qWords dst b
  let per := if qIs4 dst then 8 else 4
  { lane := l, res := ws.getD 0 0, fl := b.fl, vals := b.vals ++ (if qE4 dst then [fE4M3.decode b.scale] else []), idle := b.idle
    words := (List.range b.vals.length).map (fun k => ws.getD (k / per) 0) ++ [ws.getLastD 0] }

/-- Registers `r` onward. -/
def vRange (r : VReg) (n : Nat) : List VReg := (List.range n).map (fun i => BitVec.ofNat 7 (r.toNat + i))

/-- The effect of QCVT once the registers are checked (R289 to R291). -/
def State.qcvt (s : State) (t : Team) (d a : VReg) (ctl : Dw) (src dst : Nat) (m : Option Msk) (md : Nat) : State :=
  let n := qLen ctl
  let c := if src = 0 then 1 else 2
  let nd := if qIs4 dst then n / 8 else n / 4
  let act := t.active m
  let opm := if qE4 dst then (fF32.decode (fld ctl 63 32)).mag else (1, 0)
  let srcs := (vRange a (n / c)).map t.v
  let f (l : Nat) : QBlock := qBlock dst md opm (fun k => if md = 5 then t.rnd l k else 0)
    (qSource (qSrcFmt src) c n (srcs.map (fun v => v.lane l)))
  let uni := (allU srcs).isSome && md != 5
  let u := f 0
  let none_ : QBlock := { codes := [], scale := 0, outb := 0, fl := [] }
  let rs := if uni then [] else (List.range t.width).map (fun l => if act.getLsbD l then f l else none_)
  let ws := rs.map (fun b => if b.fl = [] then [] else qWords dst b)
  let xs := (t.lanesOf act).map (fun l => qLane dst l (if uni then u else rs.getD l none_))
  s.fpDone t xs (fun t =>
    ((List.range (nd + 1)).foldl (fun (t : Team) i =>
      t.writeMsk (BitVec.ofNat 7 (d.toNat + i)) m
        (if uni then .u ((qWords dst u).getD i 0) else .g (ws.map (fun r => r.getD i 0)))) t).srStep md act)

/-- QCVT (R287 to R291): the named registers, the formats, then the control word, then the register ranges (R541);
nothing of the control word and the ranges is checked when no lane is active (R21) (DEDUCED, notes/assumptions/16.md). -/
def execQcvt (d a : VReg) (b : SReg) (src dst : BitVec 5) (m : Option Msk) (rm : Option (BitVec 3)) (s : State) : Out :=
  issue { vInfo [] [] m with sr := [b], named := [d, a], fmt := !qcvtOk src dst }
    (fun t s =>
      let ctl := t.s b
      let n := qLen ctl
      let ns := if src = 0 then n else n / 2
      let nd := if qIs4 dst.toNat then n / 8 else n / 4
      if t.active m = 0 then s.retire t
      else if qCtlBad ctl dst.toNat then s.park t (mkF .illegalFormat .control 0 0)
      else if t.vcnt < a.toNat + ns ∨ t.vcnt ≤ d.toNat + nd then
        s.park t (mkF .illegalEncoding .registerBeyondCount 0 0)
      else
        s.issueTeam { (vInfo (vRange d (nd + 1)) (vRange a ns) m).float with sr := [b], conv := some rm } t
          (fun t s => s.qcvt t d a ctl src.toNat dst.toNat m (t.mode rm))) s

/-! ### Shape instructions (R81, R292) -/

/-- SHTAG (R81). -/
def execShtag (d : SReg) (a : VReg) (s : State) : Out :=
  issue { vInfo [] [a] none with sw := [d], who := none } (fun t s => s.retire (t.setS d (BitVec.ofNat 64 (t.v a).tag))) s

/-- SHPROMOTE (R81). -/
def execShpromote (d : VReg) (s : State) : Out :=
  issue { vInfo [d] [d] none with who := none }
    (fun t s => s.retire (if (t.v d).tag = 2 then t else t.putV d (.g ((t.v d).lanes t.width)))) s

/-- The shape SHTRY finds (R81): U, then A from lanes 0 and 1, over the live lanes. -/
def shtryShape (w : Nat) (live : Mask) (xs : List Wd) : Option VVal :=
  let ls := (List.range w).filter (fun l => live.getLsbD l)
  let x0 := xs.getD (ls.headD 0) 0
  let b := xs.getD 0 0
  let d := xs.getD 1 0 - b
  if ls.all (fun l => xs.getD l 0 == x0) then some (.u x0)
  else if live.getLsbD 0 && live.getLsbD 1 && ls.all (fun l => xs.getD l 0 == b + BitVec.ofNat 32 l * d) then
    some (.a b d)
  else none

/-- SHTRY (R81, R292). -/
def execShtry (d : VReg) (p : PReg) (s : State) : Out :=
  issue { vInfo [d] [d] none with pw := [p], who := none }
    (fun t s =>
      let r := match t.v d with
        | .g xs => shtryShape t.width t.live xs
        | v => some v
      let t' := match r with
        | some v => t.putV d v
        | none => t
      s.retire (t'.setP p t.live (if r.isSome then t.live else 0))) s

end Sys2Proof.Machine
end

