-- ==== Sys2Proof/Machine/Matrix.lean ====
section
/-! DEFINITION. Major 55: the matrix engine and the accumulator tiles (R337 to R356), with the sums of R198 and R199, the
decoding of block-scaled operands (R179 to R185), and the completion of tile operations. -/

namespace Sys2Proof.Machine

/-! ### Operand formats (R177, R344) -/

/-- The element of an operand format code; none for I4X (Table 5-4). -/
def mElem (c : Nat) : Option CFmt :=
  match c with
  | 15 => cfmt 4
  | 16 => cfmt 5
  | 17 => cfmt 6
  | 18 => cfmt 7
  | 19 => cfmt 8
  | 20 => cfmt 9
  | 21 => cfmt 10
  | 22 => cfmt 12
  | 23 => none
  | 24 => cfmt 9
  | 25 => cfmt 12
  | 26 => none
  | 27 => cfmt 5
  | 28 => cfmt 5
  | 29 => cfmt 9
  | n => cfmt n

/-- The width of an element in memory (R176, R344). -/
def mWidth (c : Nat) : Nat :=
  if c ≤ 1 then 32 else if c ≤ 3 then 16
  else if c = 14 then 2
  else if c = 9 ∨ c = 12 ∨ c = 13 ∨ c = 20 ∨ (22 ≤ c ∧ c ≤ 26) ∨ c = 29 then 4 else 8

/-- The element class (Table 5-4). -/
def mClass (c : Nat) : Nat := max 4 (mWidth c)

/-- Integer kind (Table 5-4). -/
def mInt (c : Nat) : Bool := 10 ≤ c && c ≤ 14

/-- A block-scaled format. -/
def mScaled (c : Nat) : Bool := 15 ≤ c

/-- The format of an I4X element (R184). -/
def mX (c : Nat) : Bool := c == 23 || c == 26

/-- A format with an operand scale. -/
def mOp (c : Nat) : Bool := 24 ≤ c && c ≤ 27

/-- K of one MMA (R197). -/
def mK (a b : Nat) : Nat :=
  match max (mClass a) (mClass b) with
  | 32 => 12
  | 16 => 24
  | 8 => 48
  | _ => 96

/-- The block length of BLK (Table 10-3). -/
def mBlk (b : Nat) : Nat :=
  match b with
  | 0 => 24
  | 1 => 16
  | _ => 32

/-- M, N, first row and first column of a shape (Table 10-2). -/
def mShape (minor pos : Nat) : Nat × Nat × Nat × Nat :=
  match minor with
  | 0 => (128, 128, 0, 0)
  | 1 => (128, 64, 0, 64 * pos)
  | 2 => (64, 128, 64 * pos, 0)
  | 3 => (64, 64, 64 * (pos / 2), 64 * (pos % 2))
  | 4 => (32, 128, 32 * pos, 0)
  | _ => (128, 32, 0, 32 * pos)

/-- One operand as the registers give it: format code, base, stride, read from G, scale field, operand scale, block. -/
structure MOp where
  code : Nat
  base : Nat
  stride : Nat
  g : Bool
  sc : Nat
  op : Nat
  blk : Nat

/-- The operands A and B of five registers (Table 10-3). -/
def mOps (r : List Dw) (asrc bsrc : Bool) : MOp × MOp :=
  let f := r.getD 0 0
  let o := r.getD 1 0
  let st := r.getD 4 0
  ({ code := fld f 63 59, base := (r.getD 2 0).toNat, stride := fld st 63 32, g := asrc, sc := fld f 51 26,
     op := fld o 31 0, blk := fld f 53 52 },
   { code := fld f 58 54, base := (r.getD 3 0).toNat, stride := fld st 31 0, g := bsrc, sc := fld f 25 0,
     op := fld o 63 32, blk := fld f 53 52 })

/-- illegal-format of a format block, with the field (R343). -/
def fmtBad (a b : MOp) (sat : Bool) : Option Detail :=
  if 30 ≤ a.code then some .fmtA
  else if 30 ≤ b.code then some .fmtB
  else if mInt a.code ≠ mInt b.code then some .fmtB
  else if a.blk = 3 ∨ ((28 ≤ a.code ∨ 28 ≤ b.code) ∧ a.blk ≠ 2) ∨ (a.blk ≠ 0 ∧ !mScaled a.code ∧ !mScaled b.code) then
    some .fmtBlk
  else if a.sc ≠ 0 ∧ !mScaled a.code then some .fmtAsc
  else if b.sc ≠ 0 ∧ !mScaled b.code then some .fmtBsc
  else if a.op ≠ 0 ∧ !mOp a.code then some .fmtAop
  else if b.op ≠ 0 ∧ !mOp b.code then some .fmtBop
  else if (2 ^ 25 ≤ a.sc ∧ !a.g) ∨ (2 ^ 25 ≤ b.sc ∧ !b.g) then some .fmtSsp
  else if sat ∧ !mInt a.code then some .fmtSat
  else none

/-- Address of a row of A or a column of B. -/
def MOp.at_ (o : MOp) (i : Nat) : Nat := (o.base + i * o.stride) % 2 ^ 64

/-- Bytes of a row. -/
def MOp.rowLen (o : MOp) (k : Nat) : Nat := k * mWidth o.code / 8

/-- The alignment faults of an operand of n rows (R344). -/
def MOp.skew (o : MOp) (n k : Nat) : Option FaultInfo :=
  if o.base % 8 ≠ 0 then some (mkF .alignment .none o.base 8)
  else if o.stride % 8 ≠ 0 then some (mkF .alignment .none o.stride 8)
  else if o.g then
    ((List.range n).find? (fun i => o.at_ i / 128 ≠ (o.at_ i + o.rowLen k - 1) / 128)).map
      (fun i => mkF .alignment .rowCrossesLine (o.at_ i) (o.rowLen k))
  else none

/-- Blocks of a row, and scale bytes of a row (R345). -/
def MOp.scaleLen (o : MOp) (k : Nat) : Nat :=
  (k + mBlk o.blk - 1) / mBlk o.blk * (if mX o.code then 2 else 1)

/-- The scale area of a row: in G, and its address (Table 10-3, R345). -/
def MOp.scaleAt (o : MOp) (k i : Nat) : Bool × Nat :=
  let off := o.sc % 2 ^ 25
  if 2 ^ 25 ≤ o.sc then
    let d : Int := if off.testBit 24 then (off : Int) - 2 ^ 25 else off
    (true, (((o.base : Int) + d + (i * o.scaleLen k : Nat)) % 2 ^ 64).toNat)
  else (false, off + i * o.scaleLen k)

/-- Runs an operand reads for the given rows: in G, address, bytes (DEDUCED, notes/assumptions/59.md). -/
def MOp.runs (o : MOp) (k : Nat) (rows : List Nat) : List (Bool × Nat × Nat) :=
  rows.flatMap (fun i =>
    (o.g, o.at_ i, o.rowLen k) ::
      (if mScaled o.code then [((o.scaleAt k i).1, (o.scaleAt k i).2, o.scaleLen k)] else []))

/-- The space-bounds fault of runs (Table 10-4, check 6). -/
def State.matBounds (s : State) (g : Group) (rs : List (Bool × Nat × Nat)) : Option FaultInfo :=
  rs.findSome? (fun r => s.runFault g (if r.1 then 4 else 1) r.2.1 r.2.2)

/-! ### Values of a row (R181, R182, R184) -/

/-- The canonical NaN as a value. -/
def nanV : FVal := .nan false (2 ^ 22) false

/-- A product of two values, a NaN where a factor is one or for 0 x infinity (R181, R188). -/
def mulV (a b : FVal) : FVal :=
  match a, b with
  | .nan _ _ _, _ => nanV
  | _, .nan _ _ _ => nanV
  | x, y => (mulVal x y).getD nanV

/-- The raw bits of element k of a row (R176). -/
def rawElem (w : Nat) (bs : List Byte) (k : Nat) : Nat :=
  if 8 ≤ w then leNat ((bs.drop (k * w / 8)).take (w / 8))
  else ((bs.getD (k * w / 8) 0).toNat >>> (k * w % 8)) % 2 ^ w

/-- The value of an I4X nibble that is no escape. -/
def i4V (x : Nat) : FVal :=
  let v := sext 4 x
  .fin (v < 0) v.natAbs 0

/-- Zero. -/
def zeroV : FVal := .fin false 0 0

/-- An I4X block decoded pair by pair: values, and whether OVX is set (R184); `n` outliers are taken. -/
def decodeX (outb : Nat) : Nat → List Nat → List FVal × Bool
  | n, x :: y :: r =>
    if x ≠ 8 ∧ y ≠ 8 then
      let q := decodeX outb n r
      (i4V x :: i4V y :: q.1, q.2)
    else if (x = 8 ∧ y = 8) ∨ 2 ≤ n then
      let q := decodeX outb n r
      (zeroV :: zeroV :: q.1, true)
    else
      let hi := if x = 8 then y else x
      let lo := if n = 0 then outb % 16 else outb / 16 % 16
      let v := fE4M3.decode (hi * 16 + lo)
      let q := decodeX outb (n + 1) r
      (if x = 8 then v :: zeroV :: q.1 else zeroV :: v :: q.1, q.2)
  | _, _ => ([], false)

/-- The value of a block's scale byte (R180). -/
def scaleV (c b : Nat) : FVal :=
  if mOp c then fE4M3.decode b
  else if b = 0xFF then nanV else .fin false 1 ((b : Int) - 127)

/-- The values of a row of K elements, and whether a block sets OVX (R181, R184). -/
def rowVals (o : MOp) (k : Nat) (bs sc : List Byte) : List FVal × Bool :=
  let w := mWidth o.code
  let raw := (List.range k).map (rawElem w bs)
  if !mScaled o.code then (raw.map (fun x => ((mElem o.code).map (fun c => c.read x)).getD zeroV), false)
  else
    let L := mBlk o.blk
    let nb := (k + L - 1) / L
    let opv := if mOp o.code then fF32.decode o.op else .fin false 1 0
    let blocks := (List.range nb).map (fun b =>
      let xs := (raw.drop (b * L)).take L
      let e := if mX o.code then decodeX (sc.getD (2 * b + 1) 0).toNat 0 xs
        else (xs.map (fun x => ((mElem o.code).map (fun c => c.read x)).getD zeroV), false)
      let s := scaleV o.code (sc.getD (if mX o.code then 2 * b else b) 0).toNat
      (e.1.map (fun v => mulV (mulV v s) opv), e.2))
    (blocks.flatMap (·.1), blocks.any (·.2))

/-! ### Sums (R198, R199) -/

/-- An exact finite value as an integer times 2^e for an e no larger than its exponent. -/
def finAt (e : Int) : FVal → Int
  | .fin n m x => sgn n (m <<< (x - e).toNat)
  | _ => 0

/-- The exponent of a finite value. -/
def finExp : FVal → Int
  | .fin _ _ e => e
  | _ => 0

/-- A value is an infinity of a sign. -/
def isInf (neg : Bool) : FVal → Bool
  | .inf n => n == neg
  | _ => false

/-- A value is a NaN. -/
def isNanV : FVal → Bool
  | .nan _ _ _ => true
  | _ => false

/-- A value is -0. -/
def isNegZero : FVal → Bool
  | .fin n m _ => n && m == 0
  | _ => false

/-- The rounded sum of the products of a group (R199), as an F32 code. -/
def groupSum (ps : List FVal) : Nat :=
  if ps.any isNanV ∨ (ps.any (isInf false) ∧ ps.any (isInf true)) then fF32.canon
  else if ps.any (isInf false) then fF32.infCode false
  else if ps.any (isInf true) then fF32.infCode true
  else
    let e := ps.foldl (fun a v => min a (finExp v)) 0
    let v := ps.foldl (fun a p => a + finAt e p) 0
    if v = 0 then (if ps.all isNegZero then fF32.withSign true 0 else 0)
    else (fF32.round 0 0 (v < 0) v.natAbs e false).1

/-- A group sum added to the accumulator: one rounding, a NaN becomes 0x7FC00000 (R199). -/
def accAdd (acc g : Nat) : Nat :=
  let r := (fAdd fF32 0 acc g).1
  if isNanV (fF32.decode r) then fF32.canon else r

/-- The groups of 24 consecutive products. -/
def groups24 : Nat → List FVal → List (List FVal)
  | 0, _ => []
  | n + 1, ps => if ps.isEmpty then [] else ps.take 24 :: groups24 n (ps.drop 24)

/-- An element after an MMA of float kind (R199). -/
def floatElem (acc : Nat) (a b : List FVal) : Nat :=
  (groups24 4 (List.zipWith mulV a b)).foldl (fun x g => accAdd x (groupSum g)) acc

/-- An element after an MMA of integer kind (R198). -/
def intElem (sat : Bool) (acc : Nat) (a b : List FVal) : Nat :=
  let r := (List.zipWith (fun x y => finAt 0 x * finAt 0 y) a b).foldl
    (fun (t : Int) p =>
      if sat then max (-(2 ^ 31 : Int)) (min (2 ^ 31 - 1) (t + p)) else sext 32 ((t + p) % 2 ^ 32).toNat)
    (sext 32 acc)
  (r % 2 ^ 32).toNat

/-! ### Tile operations at issue (R337 to R339, R347, R348) -/

/-- A tile of a group. -/
def Group.tile (g : Group) (k : Nat) : Tile := g.tiles.getD k { valid := false, bad := true, ovx := false }

/-- A tile of a group changed. -/
def State.modTile (s : State) (gslot k : Nat) (f : Tile → Tile) : State :=
  s.modGroup gslot (fun g => { g with tiles := g.tiles.set k (f (g.tile k)) })

/-- A tile becomes invalid (R339, R355, R356). -/
def Tile.invalid (t : Tile) : Tile := { t with valid := false, bad := true }

/-- Lines pinned on a core: by operations in the engine, and those held for a team that may now issue (R348, R437); one that two pin
counts once. -/
def State.pinned (s : State) (core : Nat) : List Nat :=
  ((s.tops.filter (fun o => o.core == core && !o.pinWait)).flatMap (·.pins)
    ++ (s.teamsOn core).flatMap (fun t => if t.isEnded then [] else t.pinHeld)).dedup

/-- Lines can be pinned beside those pinned on a core: it holds at most 256 (R348). -/
def State.pinFits (s : State) (core : Nat) (ls : List Nat) : Bool := (s.pinned core ++ ls).dedup.length ≤ 256

/-- An MMA of the core waits for pins, so a later one waits behind it (R437). -/
def State.pinQueue (s : State) (core : Nat) : Bool :=
  s.tops.any (fun o => o.core == core && o.pinWait)
    || (s.teamsOn core).any (fun t =>
      match t.st with
      | .wait (.pins _ _) => true
      | _ => false)

/-- The G operand lines of an MMA, each numbered with its context (R348). -/
def mmaLines (c : Nat) (a b : MOp) (k : Nat) (rows : List Nat) (n : Nat) : List Nat :=
  if k = 0 then []
  else ((if a.g then rows.map (fun i => c * 2 ^ 45 + a.at_ i / 128) else [])
    ++ (if b.g then (List.range n).map (fun j => c * 2 ^ 45 + b.at_ j / 128) else [])).dedup

/-- The major-55 word of a tile operation (Table 10-1). -/
def mxWord (minor : Nat) (q : SReg) (t : TReg) (sat a b : Bool) (t2 : Nat) : Wd :=
  BitVec.ofNat 32 (0x37 * 2 ^ 26 + minor * 2 ^ 21 + q.toNat * 2 ^ 14 + t.toNat * 2 ^ 11 + b2n sat * 2 ^ 10
    + b2n a * 2 ^ 9 + b2n b * 2 ^ 8 + t2 * 2 ^ 5)

/-- What a tile instruction hands to the engine. -/
structure TilePlan where
  minor : Nat
  q : SReg
  t : TReg
  src : Nat
  sat : Bool := false
  asrc : Bool := false
  bsrc : Bool := false
  pos : Nat := 0
  oprs : List Dw := []
  rows : BitVec 128 := 0
  pins : List Nat := []

/-- A checked tile operation issues with number and counter (R337). -/
def State.startTile (s : State) (t : Team) (p : TilePlan) : State :=
  if t.cnt.ti = 0xFFFF then s.deschedule t (.slot 0)
  else
    let (t, n) := t.number 1 (p.minor < 8)
    let (s, id) := s.fresh
    let o : TileOp :=
      { id := id, team := t.key, group := t.gslot, core := (s.groupOf t).core, tile := p.t.toNat, src := p.src,
        minor := p.minor, word := mxWord p.minor p.q p.t p.sat p.asrc p.bsrc (if p.minor = 11 then p.src else p.pos),
        sat := p.sat, asrc := p.asrc, bsrc := p.bsrc, pos := p.pos, oprs := p.oprs, rows := p.rows, num := n,
        at_ := s.clk, parked := none, pins := p.pins, pinWait := false, acks := [] }
    ({ s with tops := s.tops ++ [o] }).retire
      { t with cnt := { t.cnt with ti := t.cnt.ti + 1 }, pinHeld := [] }

/-- A tile whose validity bit is clear is read at issue (R339). -/
def State.tileFault (s : State) (t : Team) (k : Nat) : Option FaultInfo :=
  if ((s.groupOf t).tile k).valid then none else some (mkF .engineReset .tileInvalid 0 k)

/-- The row mask of an MMA of M rows: EXEC, which holds no dead lane (R22, R346). -/
def Team.rowMask (t : Team) (m : Nat) : BitVec 128 := t.regs.exec.setWidth 128 &&& BitVec.ofNat 128 (2 ^ m - 1)

/-- Rows of a mask. -/
def rowsOf (m : BitVec 128) : List Nat := (List.range 128).filter (fun i => m.getLsbD i)

/-- The effect of an MMA at issue: the checks of Table 10-4, pins, number (R346 to R348). -/
def State.mma (s : State) (t : Team) (minor : Nat) (q : SReg) (tl : TReg) (sat asrc bsrc : Bool) (pos : Nat) : State :=
  let g := s.groupOf t
  let oprs := (sgroup q 5).map t.s
  let (a, b) := mOps oprs asrc bsrc
  let (m, n, _, _) := mShape minor pos
  match fmtBad a b sat with
  | some d => s.park t (mkF .illegalFormat d 0 0)
  | none =>
    let k := mK a.code b.code
    match (a.skew m k).orElse (fun _ => b.skew n k) with
    | some f => s.park t f
    | none =>
      let mask := t.rowMask m
      let rows := rowsOf mask
      if rows = [] then
        if t.cnt.ti = 0xFFFF then s.deschedule t (.slot 0)
        else
          let (t, x) := t.number 1 true
          (s.traceTl t (t.complete 1 x) 1).retire (t.complete 1 x)
      else
        match (s.tileFault t tl.toNat).orElse (fun _ =>
            s.matBounds g (a.runs k rows ++ b.runs k (List.range n))) with
        | some f => s.park t f
        | none =>
          let pins := mmaLines g.ctx a b k rows n
          if t.pinHeld = [] && pins ≠ [] && (s.pinQueue g.core || !s.pinFits g.core pins) then
            s.deschedule t (.pins pins s.clk)
          else s.startTile t { minor := minor, q := q, t := tl, src := tl.toNat, sat := sat, asrc := asrc, bsrc := bsrc,
                               pos := pos, oprs := oprs, rows := mask, pins := pins }

/-- What issue checks of an instruction of major 55 with a group of n scalar registers. -/
def mxInfo (q : SReg) (n : Nat) (ts : List TReg) : Info :=
  { bad := if sgroupOk q n then none else some .scalarField, sr := sgroup q n, ts := ts, eng := 3 }

/-- MMA.128x128 (R340). -/
def execMma128x128 (q : SReg) (t : TReg) (st a b : Bool) (s : State) : Out :=
  issue (mxInfo q 5 [t]) (fun tm s => s.mma tm 0 q t st a b 0) s
/-- MMA.128x64 (R340). -/
def execMma128x64 (q : SReg) (t : TReg) (st a b : Bool) (p : BitVec 1) (s : State) : Out :=
  issue (mxInfo q 5 [t]) (fun tm s => s.mma tm 1 q t st a b p.toNat) s
/-- MMA.64x128 (R340). -/
def execMma64x128 (q : SReg) (t : TReg) (st a b : Bool) (p : BitVec 1) (s : State) : Out :=
  issue (mxInfo q 5 [t]) (fun tm s => s.mma tm 2 q t st a b p.toNat) s
/-- MMA.64x64 (R340). -/
def execMma64x64 (q : SReg) (t : TReg) (st a b : Bool) (p : BitVec 2) (s : State) : Out :=
  issue (mxInfo q 5 [t]) (fun tm s => s.mma tm 3 q t st a b p.toNat) s
/-- MMA.32x128 (R340). -/
def execMma32x128 (q : SReg) (t : TReg) (st a b : Bool) (p : BitVec 2) (s : State) : Out :=
  issue (mxInfo q 5 [t]) (fun tm s => s.mma tm 4 q t st a b p.toNat) s
/-- MMA.128x32 (R340). -/
def execMma128x32 (q : SReg) (t : TReg) (st a b : Bool) (p : BitVec 2) (s : State) : Out :=
  issue (mxInfo q 5 [t]) (fun tm s => s.mma tm 5 q t st a b p.toNat) s

/-- A tile operation that makes its destination valid issues (R339). -/
def State.setTile (s : State) (t : Team) (k : Nat) : State :=
  if t.cnt.ti = 0xFFFF then s else s.modTile t.gslot k (fun x => { x with valid := true })

/-- ACCZ (R353). -/
def execAccz (t : TReg) (s : State) : Out :=
  issue { ts := [t], eng := 3 }
    (fun tm s => (s.setTile tm t.toNat).startTile tm { minor := 8, q := 0, t := t, src := t.toNat }) s

/-- The checks of ACCLD and ACCST on address and stride (R353, Table 10-4). -/
def State.accFault (s : State) (t : Team) (q : SReg) (g : Bool) : Option FaultInfo :=
  let a := (t.s q).toNat
  let d := (t.s (q + 1)).toNat
  if a % 128 ≠ 0 then some (mkF .alignment .none a 128)
  else if d % 128 ≠ 0 then some (mkF .alignment .none d 128)
  else s.matBounds (s.groupOf t) ((List.range 128).map (fun i => (g, (a + i * d) % 2 ^ 64, 512)))

/-- ACCLD (R353). -/
def execAccld (q : SReg) (t : TReg) (g : Bool) (s : State) : Out :=
  issue (mxInfo q 2 [t])
    (fun tm s =>
      match s.accFault tm q g with
      | some f => s.park tm f
      | none => (s.setTile tm t.toNat).startTile tm
          { minor := 9, q := q, t := t, src := t.toNat, asrc := g, oprs := (sgroup q 2).map tm.s }) s

/-- ACCST (R353, R354). -/
def execAccst (q : SReg) (t : TReg) (g : Bool) (s : State) : Out :=
  issue (mxInfo q 2 [t])
    (fun tm s =>
      match s.accFault tm q g with
      | some f =>
        if f.cls = .alignment then s.park tm f
        else s.park tm ((s.tileFault tm t.toNat).getD f)
      | none =>
        match s.tileFault tm t.toNat with
        | some f => s.park tm f
        | none => s.startTile tm
            { minor := 10, q := q, t := t, src := t.toNat, asrc := g, oprs := (sgroup q 2).map tm.s }) s

/-- ACCMV (R353): it never issues from an invalid source (R339). -/
def execAccmv (t u : TReg) (s : State) : Out :=
  issue { ts := [t, u], eng := 3 }
    (fun tm s =>
      match s.tileFault tm u.toNat with
      | some f => s.park tm f
      | none => (s.setTile tm t.toNat).startTile tm { minor := 11, q := 0, t := t, src := u.toNat }) s

/-- A tile operation names a tile (R338). -/
def TileOp.names (o : TileOp) (gslot k : Nat) : Bool := o.group == gslot && (o.tile == k || o.src == k)

/-- ACCOVX (R353): it waits for the operations on the tile issued before it, and reads validity and OVX. -/
def execAccovx (q : SReg) (t : TReg) (c : Bool) (s : State) : Out :=
  issue { sw := [q], ts := [t], eng := 3 }
    (fun tm s =>
      let since := tm.ovx.getD s.uid
      if s.tops.any (fun o => o.names tm.gslot t.toNat && o.id < since) then
        s.deschedule { tm with ovx := some since } (.tile t.toNat)
      else
        let x := (s.groupOf tm).tile t.toNat
        let s := if c then s.modTile tm.gslot t.toNat (fun x => { x with ovx := false }) else s
        s.retire { tm.setS q (BitVec.ofNat 64 (b2n (!x.valid) * 2 + b2n x.ovx)) with ovx := none }) s

/-! ### Completion (R346, R349, R353, R356) -/

/-- A tile operation by its number. -/
def State.tileOp (s : State) (id : Nat) : Option TileOp := s.tops.find? (fun o => o.id == id)

/-- A tile operation replaced. -/
def State.putTop (s : State) (o : TileOp) : State := { s with tops := s.tops.map (fun x => if x.id = o.id then o else x) }

/-- An earlier operation of the group on a tile it names is not complete (R338, R349). -/
def State.tileBlocked (s : State) (o : TileOp) : Bool :=
  (s.tops.takeWhile (fun x => x.id != o.id)).any (fun x => x.names o.group o.tile || x.names o.group o.src)

/-- A tile operation occupies its engine: it has begun, and neither waits for an earlier one on its tiles, for pins or for
lines of other modules, nor is parked (R478). -/
def State.occupies (s : State) (o : TileOp) : Bool :=
  o.parked.isNone && !o.pinWait && o.acks.isEmpty && !s.tileBlocked o && !s.farWaits o.id

/-- The operations that occupy their engine only since a change begin to do so now. -/
def State.beginTiles (s s' : State) : State :=
  { s' with tops := s'.tops.map (fun o => if s'.occupies o && !s.occupies o then { o with at_ := s'.clk } else o) }

/-- A tile operation leaves the engine and counts as complete (R337, R149). -/
def State.endTile (s : State) (o : TileOp) : State :=
  (s.beginTiles { s with tops := s.tops.filter (fun x => x.id != o.id) }).retireOp o.team 1 o.num

/-- A tile operation killed: its destination tile is invalid, a killed ACCST leaves its bytes (R356). -/
def State.killTile (s : State) (o : TileOp) : State :=
  let s := s.voidOp o.team o.group
  (if o.minor = 10 then s else s.modTile o.group o.tile Tile.invalid).endTile o

/-- A tile operation parked by itself; its pins are released (R349), or killed where no record can form (R473). -/
def State.parkTile (s : State) (o : TileOp) (f : FaultInfo) : State :=
  match s.parkOp (.tile o) o.team o.group f with
  | (s, some r) => s.putTop { o with parked := some r, pins := [] }
  | (s, none) => s.killTile o

/-- A run read by the engine: from C, or each page as a demand load (R348); an uncorrectable error parks the operation
(Table 10-5). -/
def State.matRead (s : State) (g : Group) (op : Nat) (r : Bool × Nat × Nat) : State × (FaultInfo ⊕ List Byte) :=
  if r.2.2 = 0 then (s, .inr []) else
  if !r.1 then
    let h := homeC g.slot r.2.1
    if s.poisoned h r.2.2 then (s, .inl (mkF .copySegment .dataError r.2.1 0))
    else (s, .inr (Mem.readN s.mem h r.2.2))
  else
    match s.xlateRun g.core g.ctx .load {} r.2.1 (pagesOf r.2.1 r.2.2) with
    | (s, .inl f) => (s, .inl f)
    | (s, .inr ps) =>
      match (s.badRun ps r.2.1 r.2.2).head? with
      | some i => (s, .inl (mkF .copySegment .dataError (r.2.1 + i) 0))
      | none =>
        match s.farLost op r.2.1 r.2.2 with
        | some f => (s, .inl f)
        | none =>
          let (s, bs) := (s.useRun g.ctx ps r.2.1 r.2.2).readFor op ps r.2.1 r.2.2
          (s, .inr bs)

/-- The values of the rows of an operand, and whether any block sets OVX. -/
def State.matRows (s : State) (g : Group) (op : Nat) (o : MOp) (k : Nat) : List Nat → State × (FaultInfo ⊕ List (Nat × List FVal) × Bool)
  | [] => (s, .inr ([], false))
  | i :: r =>
    match s.matRead g op (o.g, o.at_ i, o.rowLen k) with
    | (s, .inl f) => (s, .inl f)
    | (s, .inr bs) =>
      let sa := o.scaleAt k i
      match s.matRead g op (sa.1, sa.2, if mScaled o.code then o.scaleLen k else 0) with
      | (s, .inl f) => (s, .inl f)
      | (s, .inr sc) =>
        let v := rowVals o k bs sc
        match s.matRows g op o k r with
        | (s, .inl f) => (s, .inl f)
        | (s, .inr (vs, x)) => (s, .inr ((i, v.1) :: vs, v.2 || x))

/-- The home of an accumulator element. -/
def accHome (gslot tile row col : Nat) : Nat := homeA gslot tile ((row * 128 + col) * 4)

/-- The products of an MMA added to its tile (R346). -/
def State.mmaAdd (s : State) (o : TileOp) (as bs : List (Nat × List FVal)) (integer : Bool) : State :=
  let (_, _, r0, c0) := mShape o.minor o.pos
  as.foldl (fun (s : State) ra =>
    let row := bs.flatMap (fun cb =>
      let acc := leNat (Mem.readN s.mem (accHome o.group o.tile (r0 + ra.1) (c0 + cb.1)) 4)
      leBytes 4 (if integer then intElem o.sat acc ra.2 cb.2 else floatElem acc ra.2 cb.2))
    { s with mem := Mem.writeN s.mem (accHome o.group o.tile (r0 + ra.1) c0) row }) s

/-- An MMA executes (R346, R349). -/
def State.runMma (s : State) (o : TileOp) : State :=
  let g := s.groupAt o.group
  let (a, b) := mOps o.oprs o.asrc o.bsrc
  let k := mK a.code b.code
  if (g.tile o.tile).bad then s.parkTile o (mkF .engineReset .tileInvalid 0 o.tile) else
  match s.matRows g o.id a k (rowsOf o.rows) with
  | (s, .inl f) => s.parkTile o f
  | (s, .inr (as, xa)) =>
    match s.matRows g o.id b k (List.range (mShape o.minor o.pos).2.1) with
    | (s, .inl f) => s.parkTile o f
    | (s, .inr (bs, xb)) =>
      let s := s.mmaAdd o as bs (mInt a.code)
      (s.modTile o.group o.tile (fun x => { x with ovx := x.ovx || xa || xb })).endTile o

/-- The rows of an ACCLD or ACCST: in G, address, bytes. -/
def TileOp.accRows (o : TileOp) : List (Bool × Nat × Nat) :=
  (List.range 128).map (fun i => (o.asrc, ((o.oprs.getD 0 0).toNat + i * (o.oprs.getD 1 0).toNat) % 2 ^ 64, 512))

/-- Rows read in order. -/
def State.matReads (s : State) (g : Group) (op : Nat) : List (Bool × Nat × Nat) → State × (FaultInfo ⊕ List (List Byte))
  | [] => (s, .inr [])
  | r :: rs =>
    match s.matRead g op r with
    | (s, .inl f) => (s, .inl f)
    | (s, .inr bs) =>
      match s.matReads g op rs with
      | (s, .inl f) => (s, .inl f)
      | (s, .inr bss) => (s, .inr (bs :: bss))

/-- A tile's elements become valid data. -/
def Tile.fresh (t : Tile) (ovx : Bool) : Tile := { t with valid := true, bad := false, ovx := ovx }

/-- ACCLD executes (R353). -/
def State.runAccld (s : State) (o : TileOp) : State :=
  match s.matReads (s.groupAt o.group) o.id o.accRows with
  | (s, .inl f) => s.parkTile o f
  | (s, .inr bss) =>
    let s := { s with mem := Mem.writeN s.mem (homeA o.group o.tile 0) bss.flatten }
    (s.modTile o.group o.tile (fun x => x.fresh false)).endTile o

/-- Where the rows of an ACCST go, checked before any is written. -/
def State.accDst (s : State) (g : Group) : List (Bool × Nat × Nat) → State × (FaultInfo ⊕ List (Nat × End1))
  | [] => (s, .inr [])
  | r :: rs =>
    match s.segEnd g (if r.1 then 4 else 1) (BitVec.ofNat 64 r.2.1) r.2.2 .store with
    | (s, .inl f) => (s, .inl f)
    | (s, .inr e) =>
      match s.accDst g rs with
      | (s, .inl f) => (s, .inl f)
      | (s, .inr es) => (s, .inr ((r.2.1, e) :: es))

/-- ACCST executes: its rows are written, in order (R353, R354). -/
def State.runAccst (s : State) (o : TileOp) : State :=
  let g := s.groupAt o.group
  if (g.tile o.tile).bad then s.parkTile o (mkF .engineReset .tileInvalid 0 o.tile) else
  match s.accDst g o.accRows with
  | (s, .inl f) => s.parkTile o f
  | (s, .inr es) =>
    let (s, acks) := (enum es).foldl (fun (r : State × List Wd) q =>
      let bs := Mem.readN r.1.mem (homeA o.group o.tile (512 * q.1)) 512
      match q.2.2 with
      | .home h => (r.1.perform h bs, r.2)
      | .pages ps =>
        let (s, a) := r.1.writeAcked g.ctx ps q.2.1 bs
        (s, r.2 ++ a.map (·.1))
      | .got _ => r) (s, [])
    if acks = [] then s.endTile o else s.putTop { o with acks := acks }

/-- ACCMV executes (R353). -/
def State.runAccmv (s : State) (o : TileOp) : State :=
  let g := s.groupAt o.group
  let x := g.tile o.src
  if x.bad then s.parkTile o (mkF .engineReset .tileInvalid 0 o.src)
  else
    let s := { s with mem := Mem.writeN s.mem (homeA o.group o.tile 0) (Mem.readN s.mem (homeA o.group o.src 0) 65536) }
    (s.modTile o.group o.tile (fun y => y.fresh x.ovx)).endTile o

/-- ACCZ executes (R353). -/
def State.runAccz (s : State) (o : TileOp) : State :=
  let s := { s with mem := Mem.clear s.mem (homeA o.group o.tile 0) (homeA o.group o.tile 65536) }
  (s.modTile o.group o.tile (fun x => x.fresh false)).endTile o

/-- The runs of G that a tile operation reads. -/
def TileOp.gRuns (o : TileOp) : List (Nat × Nat) :=
  let rs := if o.minor = 9 then o.accRows
    else if 8 ≤ o.minor then []
    else
      let (a, b) := mOps o.oprs o.asrc o.bsrc
      let k := mK a.code b.code
      a.runs k (rowsOf o.rows) ++ b.runs k (List.range (mShape o.minor o.pos).2.1)
  (rs.filter (fun r => r.1 && r.2.2 != 0)).map (·.2)

/-- The lines of other modules that a tile operation reads, up to the first run that faults, with A set for their pages (R453), and the
bytes of the runs. -/
def State.tileFar (s : State) (g : Group) :
    List (Nat × Nat) → State × List (Nat × Nat × Nat × Nat × Bool × Bool) × List Piece
  | [] => (s, [], [])
  | r :: rs =>
    match s.xlateRun g.core g.ctx .load {} r.1 (pagesOf r.1 r.2) with
    | (s, .inl _) => (s, [], [])
    | (s, .inr ps) =>
      let far := farRun ps r.1 r.2
      let s := if far = [] then s else ps.foldl (fun (s : State) (p : Page) => s.markAD p.ea false) s
      let (s, ls, qs) := s.tileFar g rs
      (s, far ++ ls, piecesOf ps r.1 r.2 ++ qs)

/-- A tile operation executes. -/
def State.runTile (s : State) (o : TileOp) : State :=
  match o.minor with
  | 8 => s.runAccz o
  | 9 => s.runAccld o
  | 10 => s.runAccst o
  | 11 => s.runAccmv o
  | _ => s.runMma o

/-- The module whose memory a VA of a group names. -/
def State.farPeer (s : State) (g : Group) (va : Nat) : Option Nat :=
  match s.xlateRun g.core g.ctx .load {} va 1 with
  | (_, .inr (p :: _)) => if p.ap = 1 then some p.peer else none
  | _ => none

/-- A physical failure of a tile operation after issue (Table 10-5, R200, R356, R484). -/
def State.failTile (s : State) (o : TileOp) (e : TileError) : State :=
  let g := s.groupAt o.group
  match e with
  | .linkTimeout va => s.parkTile o (mkF .linkTimeout .none va.toNat ((s.farPeer g va.toNat).getD 0))
  | .dataError va => s.parkTile o (mkF .copySegment .dataError va.toNat 0)
  | .shadow main x =>
    let det := main.toNat * 2 ^ 32 + (Config.shadowWord x).toNat
    let s := s.relRecord (dieOf g.core) 6 2 o.core (min 255 (s.pips 2 o.core + 32)) g.ctx 0 det
    (s.addPips 2 o.core 32).parkTile o (mkF .silentError .none det o.core)
  | .tileError k =>
    let s := (s.modTile o.group k Tile.invalid).relRecord (dieOf g.core) 5 2 o.core (min 255 (s.pips 2 o.core + 64)) g.ctx 0 0
    (s.addPips 2 o.core 64).parkTile o (mkF .engineReset .tileError 0 k)

/-- The failure can strike the operation: a shadow checks sums of float kind only, and differs as R201 says from the adder's
result; a tile error strikes one of its tiles. -/
def TileOp.canFail (o : TileOp) : TileError → Bool
  | .shadow main x => o.minor ≤ 5 && !mInt (mOps o.oprs o.asrc o.bsrc).1.code && sumDiffers (fF32.decode main.toNat).sum x
  | .tileError k => (o.minor ≤ 5 || o.minor == 10 || o.minor == 11) && o.src == k
  | .linkTimeout _ => o.asrc || o.bsrc
  | .dataError _ => o.minor ≤ 5 || o.minor == 9

/-- TILE_OPERATION_COMPLETE (R346, R349): an operation with nothing before it on its tiles executes, or fails; operands on
other modules are asked for first. -/
def execTileOperationComplete (op : Nat) (err : Option TileError) (s : State) : Out :=
  match s.tileOp op with
  | none => .next s
  | some o =>
    if o.parked.isSome || o.pinWait || !o.acks.isEmpty || s.tileBlocked o || s.farWaits o.id then .next s
    else
      match err with
      | some e => if o.canFail e then .next ((s.failTile o e).dropFar o.id 0) else .next s
      | none =>
        if s.farOf o.id 0 ≠ [] then .next ((s.runTile o).dropFar o.id 0)
        else
          let g := s.groupAt o.group
          match s.tileFar g o.gRuns with
          | (s', ls, ps) =>
            if s.behind o.team o.id ps then .next s
            else if ls = [] then .next (s.runTile o)
            else .next (s'.askFar g.ctx o.id 0 ls)

/-- Of what waits for pins on a core the one that waits longest: since when, lines, 0 an operation or 1 a team, its
number (R437). -/
def State.nextPin (s : State) (core : Nat) : Option (Nat × List Nat × Nat × Nat) :=
  let ops := (s.tops.filter (fun o => o.core == core && o.pinWait)).map (fun o => (o.at_, o.pins, 0, o.id))
  let tms := (s.teamsOn core).filterMap (fun t =>
    match t.st with
    | .wait (.pins n at_) => some (at_, n, 1, t.key)
    | _ => none)
  minBy (fun (x : Nat × List Nat × Nat × Nat) => x.1) (ops ++ tms)

/-- TILE_PIN_GRANT (R437): of what waits for pins on a core, the one that waits longest gets its lines once they fit. -/
def execTilePinGrant (core : Nat) (s : State) : Out :=
  match s.nextPin core with
  | none => .next s
  | some (_, n, kind, id) =>
    if !s.pinFits core n then .next s
    else if kind = 0 then
      .next { s with tops := s.tops.map (fun (o : TileOp) => if o.id = id then { o with pinWait := false, at_ := s.clk } else o) }
    else .next (s.modTeam id (fun t => { t with st := .running, pinHeld := n, age := s.clk }))

/-! ### Engine reset (R355, R478) -/

/-- A team that issued a killed operation is parked with engine-reset at its next clause boundary, once (R478). -/
def State.resetTeam (s : State) (k : Nat) (ops : List TileOp) : State :=
  match minBy (fun (o : TileOp) => o.num) ops, s.team k with
  | some o, some t =>
    match t.st with
    | .ended _ => s
    | .parked r => { s with recs := s.recs.map (fun (x : Rec) => if x.id = r then { x with erst := true } else x) }
    | _ => s.putTeam { t with due := t.due ++ [mkF .engineReset .none o.num o.tile] }
  | _, _ => s

/-- MATRIX_ENGINE_RESET (R478): one tile operation has occupied the engine of a core for 2^20 clk; the operations that wait behind
one of its tiles are queued on it (R355). -/
def execMatrixEngineReset (core : Nat) (s : State) : Out :=
  let ops := s.tops.filter (fun o => o.core == core && o.parked.isNone)
  if ops.any (fun o => s.occupies o && decide (2 ^ 20 ≤ s.clk - o.at_)) then
    let s := ops.foldl (fun (s : State) o =>
      let s := (s.modTile o.group o.tile Tile.invalid).modTile o.group o.src Tile.invalid
      (s.voidOp o.team o.group).endTile o) s
    .next ((ops.map (·.team)).dedup.foldl (fun (s : State) k => s.resetTeam k (ops.filter (fun o => o.team == k))) s)
  else .next s

end Sys2Proof.Machine
end

