-- ==== Sys2Proof/Machine/Groups.lean ====
section
/-! DEFINITION. Groups: what a launch packet or task record declares, the resources a core and a cluster have left, the
start of a group with the start state of its teams, and its end (R16, R23 to R30, R42, R71, R100 to R105, R248, R395,
R424, Tables 1-3, 1-5, 1-7, 3-2, 14-4). -/

namespace Sys2Proof.Machine

/-! ### Declarations -/

/-- What a launch or task declares of each of its groups, and how its teams start. `matrix`: compute cores only; `teams`,
`stages`, `map` as in Table 1-5; sizes in bytes; `served`: the handle a handler team gets in s1, with the class for s2. -/
structure GSpec where
  ctx : Nat
  entry : Dw
  arg : Dw
  teams : Nat
  width : Nat
  vcnt : Nat
  slice : Nat
  stages : Nat
  map : Nat
  matrix : Bool
  tiles : Nat
  cmem : Nat
  kmem : Nat
  qdepth : List Nat
  barSub : List (BitVec 8)
  fpctl : Wd
  slim : Wd
  seed : Dw
  pdBud : Nat
  handler : Bool
  depth : Nat
  served : Option (Dw × Nat)
  budLog : Nat
  deriving DecidableEq, Repr

/-- The sixteen bytes of two doublewords. -/
def sixteen (a b : Dw) : List Nat := (leBytes 8 a.toNat ++ leBytes 8 b.toNat).map (·.toNat)

/-- The counts of the stages of a stage map (R27). -/
def stageCounts (stages map : Nat) : List Nat := (List.range stages).map (fun k => bits map (4 * k + 3) (4 * k) + 1)

/-- The stage of each team in order (R27). -/
def stageList (stages map : Nat) : List Nat :=
  ((stageCounts stages map).zipIdx).flatMap (fun p => List.replicate p.1 p.2)

/-- A stage map agrees with the team count and has no other nibble (R27, Table 1-5). -/
def stageMapOk (teams stages map : Nat) : Bool :=
  (stageCounts stages map).foldl (· + ·) 0 == teams && map >>> (4 * stages) == 0

/-- The declarations of a launch packet (Table 14-4). -/
def launchSpec (pdDefault : Nat) (ctx : Nat) (d : List Dw) : GSpec :=
  let x := d.getD 4 0
  let y := d.getD 5 0
  let pd := fld x 20 0
  let teams := fld x 63 60 + 1
  let stages := fld x 47 45 + 1
  { ctx := ctx, entry := BitVec.ofNat 64 (fld (d.getD 1 0) 51 0), arg := d.getD 2 0, teams := teams,
    width := 32 * 2 ^ fld x 59 57, vcnt := 8 * (fld x 56 53 + 1), slice := 1024 * fld x 52 48, stages := stages,
    map := fld y 63 32,
    matrix := fld x 44 41 ≠ 0, tiles := fld x 44 41, cmem := 4096 * fld y 31 22, kmem := 65536 * fld y 21 13,
    qdepth := sixteen (d.getD 6 0) (d.getD 7 0), barSub := (sixteen (d.getD 8 0) (d.getD 9 0)).map (BitVec.ofNat 8),
    fpctl := BitVec.ofNat 32 (fld (d.getD 10 0) 63 32), slim := BitVec.ofNat 32 (fld (d.getD 10 0) 31 0),
    seed := d.getD 11 0, pdBud := if pd = 0x1FFFFF then pdDefault else pd, handler := flag x 27,
    depth := 0, served := none, budLog := 0 }

/-- The declarations of a task record with its extension (Tables 1-5, 1-7). -/
def taskSpec (pdDefault : Nat) (d : List Dw) (ext : Option (List Dw)) : GSpec :=
  let x := d.getD 0 0
  let y := d.getD 1 0
  let e := ext.getD []
  let fault := fld x 63 62 = 2
  { ctx := fld (d.getD 2 0) 63 52, entry := BitVec.ofNat 64 (fld x 49 0 * 4), arg := d.getD 3 0,
    teams := if fault then 1 else fld x 57 54 + 1,
    width := 32 * 2 ^ fld x 53 51, vcnt := 8 * (fld y 63 60 + 1), slice := 1024 * fld y 59 55,
    stages := fld y 54 52 + 1, map := fld y 31 0, matrix := flag x 58, tiles := if flag x 58 then 8 else 0,
    cmem := 4096 * fld (e.getD 0 0) 31 22, kmem := 65536 * fld (e.getD 0 0) 21 13,
    qdepth := sixteen (e.getD 1 0) (e.getD 2 0), barSub := (sixteen (e.getD 3 0) (e.getD 4 0)).map (BitVec.ofNat 8),
    fpctl := BitVec.ofNat 32 (fld (e.getD 5 0) 63 32), slim := BitVec.ofNat 32 (fld (e.getD 5 0) 31 0),
    seed := e.getD 6 0, pdBud := pdDefault, handler := fault,
    depth := if ¬fault then 0 else if fld (d.getD 5 0) 7 0 = 43 then 3 else fld (d.getD 5 0) 9 8 + 1,
    served := if fault then some (d.getD 4 0, fld (d.getD 5 0) 7 0) else none,
    budLog := fld y 39 32 }

/-- The linear indices of a launch's grid: DX, DY, DZ (R25, Table 14-4). -/
def launchGrid (d : List Dw) : Nat × Nat × Nat :=
  let x := d.getD 3 0
  (fld x 63 40 + 1, fld x 39 24 + 1, fld x 23 8 + 1)

/-- The groups of a launch. -/
def launchSize (d : List Dw) : Nat :=
  let (x, y, z) := launchGrid d
  x * y * z

/-- Priority of a launch packet. -/
def launchPrio (d : List Dw) : Nat := fld (d.getD 4 0) 26 24

/-- The gang size of a launch; 0: no co-residency (R33). -/
def launchGang (d : List Dw) : Nat :=
  let g := fld (d.getD 4 0) 40 28
  if g = 0x1FFF then launchSize d else g

/-! ### Resources of a core (R23, R42, R71, R100, Table 3-2) -/

/-- Places, lane-slice bytes, C bytes, queue bytes and tiles taken. -/
structure Use where
  places : Nat
  slices : Nat
  cmem : Nat
  queues : Nat
  tiles : Nat
  deriving DecidableEq, Repr

/-- Resources taken together. -/
def Use.add (a b : Use) : Use :=
  { places := a.places + b.places, slices := a.slices + b.slices, cmem := a.cmem + b.cmem,
    queues := a.queues + b.queues, tiles := a.tiles + b.tiles }

/-- Nothing taken. -/
def Use.none : Use := { places := 0, slices := 0, cmem := 0, queues := 0, tiles := 0 }

/-- What a group takes while it is resident. -/
def Group.use (g : Group) : Use :=
  { places := g.stageMap.length, slices := g.stageMap.length * g.width * g.sSize, cmem := g.cSize,
    queues := g.queues.foldl (fun a q => a + 128 * q.depth) 0, tiles := g.tiles.length }

/-- What a group of a declaration takes. -/
def GSpec.use (p : GSpec) : Use :=
  { places := p.teams, slices := p.teams * p.width * p.slice, cmem := p.cmem,
    queues := p.qdepth.foldl (fun a q => a + 128 * q) 0, tiles := p.tiles }

/-- The declarations of a launch of a context. -/
def State.lspec (s : State) (l : Launch) : GSpec := launchSpec (s.ctx l.ctx).pdbud l.ctx l.dws

/-- The core that is vacated for a test; none: the unit is tested in place (R486) (DESIGN CHOICE, notes/assumptions/76.md). -/
def State.testCore (s : State) (u : UnitTest) : Option Nat :=
  match u.ukind with
  | 0 => some u.unum
  | 1 => some (u.unum / 2)
  | 2 => some u.unum
  | 3 =>
    let k := Config.granuleCore u.unum
    if k < 216 ∧ !(k < 192 && s.parts.any (fun (p : Part) =>
        p.en && decide (Config.granuleRank u.unum < p.lend) && p.clu.testBit (clusterOf k))) then some k else Option.none
  | _ => Option.none

/-- A core is being vacated, or stands vacated, for a test (R487). -/
def State.vacating (s : State) (core : Nat) : Bool :=
  s.rel.tests.any (fun (u : UnitTest) => u.stage != 1 && s.testCore u == some core)

/-- A core that takes no work: not enabled, being vacated, or fenced (R487, R489). -/
def State.shut (s : State) (core : Nat) : Bool :=
  !s.modl.cores.contains core || s.vacating core || s.rel.fenced.contains (0, core)

/-- The compute core that runs the atomic service team of its cluster while the cluster's keep core is vacated or fenced: the
lowest that takes work (R487; DESIGN CHOICE, notes/assumptions/76.md). -/
def State.servesAtoms (s : State) (core : Nat) : Bool :=
  core < 192 && s.shut (192 + clusterOf core) && !s.shut core
    && !s.modl.cores.any (fun k => decide (k < core) && clusterOf k == clusterOf core && !s.shut k)

/-- A core that is not there for the partition's work, test or no test: not enabled, or fenced (R427, R489). -/
def State.gone (s : State) (core : Nat) : Bool := !s.modl.cores.contains core || s.rel.fenced.contains (0, core)

/-- What is taken on a core of an idle partition: the place of the atomic service team that it runs while the keep core of its
cluster is fenced (R34, R487). -/
def State.idleUse (s : State) (core : Nat) : Use :=
  { Use.none with places := b2n (core < 192 && s.gone (192 + clusterOf core) && !s.gone core
      && !s.modl.cores.any (fun k => decide (k < core) && clusterOf k == clusterOf core && !s.gone k)) }

/-- What is taken on a core: its groups, and the reservations of gangs not yet started (R428). -/
def State.coreUse (s : State) (core : Nat) : Use :=
  let u0 : Use := { Use.none with places := b2n (s.servesAtoms core) }
  let u := (s.groups.filter (fun (g : Group) => g.core == core)).foldl (fun (u : Use) (g : Group) => u.add g.use) u0
  s.launches.foldl (fun (u : Use) (l : Launch) =>
    (l.resv.filter (fun (r : Resv) => r.core == core)).foldl (fun (u : Use) (_ : Resv) => u.add (s.lspec l).use) u) u

/-- Bytes a core of a partition lends, of its scratchpad (R100). -/
def lentBytes (p : Part) (core : Nat) : Nat := if core < 192 then p.lend * 2 ^ 20 else 0

/-- A group fits beside what is taken on a core (R23, R71, R100). Free chunks bound no start: a team starts without a G
register (R42, Table 1-3). -/
def GSpec.fitsUse (p : GSpec) (u : Use) (lent core : Nat) : Bool :=
  let c := core < 192
  let v := u.add p.use
  (!p.matrix || c) && (v.places ≤ Config.placesOf core) && (p.tiles = 0 || v.tiles ≤ 8)
    && (v.slices ≤ (if c then 2 ^ 21 else 2 ^ 19))
    && (lent + v.slices + v.cmem + v.queues ≤ (if c then 2 ^ 22 else 2 ^ 20))

/-- Bytes of a cluster's window (R105). -/
def State.window (s : State) (p : Part) (cluster : Nat) : Nat :=
  p.lend * 2 ^ 20 * ((s.modl.cores.filter (fun k => k < 192 && k / 8 == cluster)).length)

/-- K intervals taken on a cluster: allocations of launches, and of tasks' groups (R102). -/
def State.kUsed (s : State) (cluster : Nat) : List (Nat × Nat) :=
  s.launches.flatMap (fun (l : Launch) => (l.kAlloc.filter (fun k => k.1 == cluster)).map (fun k => (k.2, (s.lspec l).kmem)))
    ++ (s.groups.filterMap (fun (g : Group) =>
      match g.origin with
      | .launch _ => Option.none
      | .task _ => if clusterOf g.core = cluster ∧ g.kSize ≠ 0 then some (g.kBase, g.kSize) else Option.none))

/-- The place of a K allocation on a cluster: the launch's own, or the first that is free (notes/assumptions/30.md). -/
def State.kPlace (s : State) (l : Option Launch) (p : Part) (cluster kmem : Nat) : Option Nat :=
  if kmem = 0 then some 0 else
  match l.bind (fun l => l.kAlloc.find? (fun k => k.1 == cluster)) with
  | some k => some k.2
  | Option.none => firstFree (s.kUsed cluster) 0 (s.window p cluster) kmem

/-- The cores of an enabled partition that take new work: enabled, not fenced, not being vacated (R427, R487, R489, R492). -/
def State.coresOf (s : State) (p : Part) : List Nat :=
  s.modl.cores.filter (fun k =>
    p.en && p.clu.testBit (clusterOf k) && !s.rel.fenced.contains (0, k) && !s.vacating k)

/-- The cores of a partition where a group fits now. -/
def State.fitting (s : State) (l : Option Launch) (p : GSpec) : List Nat :=
  let pt := s.part (s.ctx p.ctx).part
  (s.coresOf pt).filter (fun k =>
    p.fitsUse (s.coreUse k) (lentBytes pt k) k && (s.kPlace l pt (clusterOf k) p.kmem).isSome)

/-- The cores of a partition where a group fits when they are idle (Table 14-6, cause 4). -/
def State.fittingIdle (s : State) (p : GSpec) : List Nat :=
  let pt := s.part (s.ctx p.ctx).part
  (s.modl.cores.filter (fun k => pt.en && pt.clu.testBit (clusterOf k) && !s.rel.fenced.contains (0, k))).filter (fun k =>
    p.fitsUse (s.idleUse k) (lentBytes pt k) k && decide (p.kmem ≤ s.window pt (clusterOf k)))

/-- How many groups of a declaration an idle core holds, at most 32. -/
def GSpec.howMany (p : GSpec) (lent core : Nat) : Nat → Use → Nat
  | 0, _ => 0
  | n + 1, u => if p.fitsUse u lent core then 1 + p.howMany lent core n (u.add p.use) else 0

/-- How many groups an idle partition holds together (Table 14-6, cause 5). -/
def State.gangRoom (s : State) (p : GSpec) : Nat :=
  let pt := s.part (s.ctx p.ctx).part
  (s.fittingIdle p).foldl (fun a k => a + p.howMany (lentBytes pt k) k 32 (s.idleUse k)) 0

/-- Free team places of a core. -/
def State.freePlaces (s : State) (core : Nat) : Nat := Config.placesOf core - (s.coreUse core).places

/-- Unreserved scratchpad bytes of a core. -/
def State.freeBytes (s : State) (p : Part) (core : Nat) : Nat :=
  let u := s.coreUse core
  (if core < 192 then 2 ^ 22 else 2 ^ 20) - (lentBytes p core + u.slices + u.cmem + u.queues)

/-- The core that the distributor takes among those that fit (R427): in the cluster with the most free places, then
chunks, then bytes, the core with the most free places, then chunks. -/
def State.chooseCore (s : State) (p : Part) (ks : List Nat) : Option Nat :=
  let score (k : Nat) : Nat := s.freePlaces k * 2 ^ 43 + s.freeChunks k * 2 ^ 26 + s.freeBytes p k
  let total (c : Nat) : Nat := (ks.filter (fun k => clusterOf k == c)).foldl (fun a k => a + score k) 0
  match minBy (fun c => (2 ^ 60 - total c) * 32 + c) (ks.map clusterOf).dedup with
  | Option.none => Option.none
  | some c =>
    let mine := ks.filter (fun k => clusterOf k == c)
    minBy (fun k => (2 ^ 40 - (s.freePlaces k * 2 ^ 20 + s.freeChunks k)) * 256 + k) mine

/-! ### Launch errors (R425, Table 14-6) -/

/-- A reserved value or non-zero zero field of a launch packet, or a bad ENTRY (Table 14-6, cause 1; R29). -/
def launchReserved (d : List Dw) : Bool :=
  let x := d.getD 4 0
  let y := d.getD 5 0
  fld (d.getD 1 0) 63 52 ≠ 0 || fld (d.getD 1 0) 1 0 ≠ 0 || fld (d.getD 3 0) 7 0 ≠ 0
    || 6 ≤ fld x 59 57 || 16 < fld x 52 48 || 8 < fld x 44 41 || fld x 23 21 ≠ 0
    || (2 ^ 20 < fld x 20 0 && fld x 20 0 ≠ 0x1FFFFF)
    || fld y 12 0 ≠ 0 || fld y 63 32 >>> (4 * (fld x 47 45 + 1)) ≠ 0 || 6 ≤ fld (d.getD 10 0) 50 48

/-- The grid breaks a limit of R25. -/
def gridBad (d : List Dw) : Bool :=
  let (_, y, z) := launchGrid d
  65535 < y || 65535 < z || 2 ^ 32 ≤ launchSize d

/-- A BARSUB bit at or above STAGES. -/
def barSubBad (stages : Nat) (bs : List (BitVec 8)) : Bool := bs.any (fun b => b.toNat >>> stages ≠ 0)

/-- The launch error of a packet, if it meets one: the lowest that holds (Table 14-6). -/
def State.launchError (s : State) (ctx : Nat) (d : List Dw) : Option Nat :=
  let c := s.ctx ctx
  let p := launchSpec c.pdbud ctx d
  if launchReserved d then some 1
  else if gridBad d then some 2
  else if !stageMapOk p.teams p.stages p.map || barSubBad p.stages p.barSub then some 3
  else if s.fittingIdle p = [] then some 4
  else if s.gangRoom p < min (launchGang d) (launchSize d) then some 5
  else if p.handler && c.priv = 0 then some 6
  else if !c.en || c.rst ≠ 0 then some 7
  else if 512 * 4096 < p.cmem || 256 * 65536 < p.kmem || p.qdepth.any (fun q => 64 < q) then some 8
  else Option.none

/-! ### The start of a group (R29, R30, R104, R395, Table 1-3) -/

/-- Bytes [lo, hi) made zero, and their poison with them. -/
def State.zero (s : State) (lo hi : Nat) : State :=
  { s with mem := Mem.clear s.mem lo hi
           rel := { s.rel with poison := s.rel.poison.filter (fun d => !(lo ≤ d * 8 && d * 8 < hi)) } }

/-- The lowest number that a list does not hold, below a bound. -/
def lowestFree (used : List Nat) : Nat → Nat → Option Nat
  | 0, _ => Option.none
  | n + 1, i => if used.contains i then lowestFree used n (i + 1) else some i

/-- The free team places of a core, lowest first. -/
def State.placesFree (s : State) (core : Nat) : List Nat :=
  let used := (s.teamsOn core).map (fun (t : Team) => t.place)
  (List.range (Config.placesOf core)).filter (fun i => !used.contains i)

/-- A timeline at start. -/
def Timeline.start : Timeline := { issued := 0, opn := [] }

/-- The registers of a team at start (R29, Table 1-3). -/
def GSpec.regs (p : GSpec) (tid : Nat) : Regs :=
  let z : Vector Dw 64 := Vector.replicate 64 0
  let z := (z.set 62 (BitVec.ofNat 64 p.slice)).set 63 p.arg
  let z := match p.served with
    | some (h, c) => (z.set 1 h).set 2 (BitVec.ofNat 64 c)
    | Option.none => z
  { s := z, v := List.replicate p.vcnt (.u 0), p := Vector.replicate 16 0, exec := widthMask p.width, dead := 0,
    deadsrc := 0, fpctl := p.fpctl &&& fpctlBits, slim := p.slim &&& 0xFFFFFFF0,
    seed := if p.seed = 0 then BitVec.ofNat 64 tid else p.seed, srctr := 0 }

/-- A team at start (R29): no transfer led to its entry clause (DESIGN CHOICE, notes/assumptions/101.md). -/
def GSpec.team (p : GSpec) (gslot uid idx place role tid clk : Nat) : Team :=
  let l := Timeline.start
  { key := gslot * 16 + idx, uid := uid, width := p.width, role := role, stages := p.stages, tid := tid, place := place,
    st := .running, pc := p.entry, woff := 0, next := 0, clause := Option.none, src := Option.none, nopre := 0,
    yieldNow := false,
    age := clk, regs := p.regs tid, cnt := { ld := 0, st := 0, cp := 0, ti := 0 },
    tl := { cpy := l, tile := l, gath := l, coll := l }, rdDepth := 0, pdis := false, pdLeft := 0, pdAt := 0,
    ovBase := 0, ovLen := 0, monitor := Option.none, handler := p.handler, depth := p.depth,
    serving := p.served.map (·.1), unserv := p.served.any (fun x => x.2 == 43), due := [], need := 0,
    lost := Option.none, errs := [], detSeq := 0, spur := Option.none, pinHeld := [] }

/-- The stages of a declaration's teams. -/
def GSpec.roles (p : GSpec) : List Nat := stageList p.stages p.map

/-- A group starts on a core, in the lowest free slot: its C allocation, lane slices and queues hold zero (R104); in a
sealed partition its K allocation and tiles are cleared too when `clearK` says that the allocation is new (R495). -/
def State.startGroup (s : State) (p : GSpec) (o : Origin) (lin gx gy gz core kBase : Nat) (clearK : Bool) :
    State × Nat :=
  let slot := (lowestFree (s.groups.map (fun (g : Group) => g.slot)) (s.groups.length + 1) 0).getD 0
  let tid0 := match o with
    | .launch _ => lin * 16
    | .task _ => 0
  let places := s.placesFree core
  let g : Group :=
    { slot := slot, uid := s.uid, ctx := p.ctx, core := core, origin := o, lin := lin, gx := gx, gy := gy, gz := gz,
      width := p.width, stageMap := p.roles, pool := 0, cSize := p.cmem, sSize := p.slice, kBase := kBase,
      kSize := p.kmem, ovReg := 0, queues := p.qdepth.map (fun d => { depth := d, slots := [] }), barSub := p.barSub,
      tiles := List.replicate p.tiles { valid := false, bad := true, ovx := false }, pdBud := p.pdBud, effect := false,
      budget := if p.budLog = 0 then Option.none else some (2 ^ p.budLog), budLog := p.budLog, expired := false }
  let ts := (enum p.roles).map (fun (q : Nat × Nat) =>
    p.team slot (s.uid + 1 + q.1) q.1 (places.getD q.1 0) q.2 (tid0 + q.1) s.clk)
  let sealedP := s.sealedCtx p.ctx
  let s := { s with uid := s.uid + 1 + ts.length, groups := s.groups ++ [g], teams := s.teams ++ ts }
  let s := (s.zero (homeC slot 0) (homeC slot p.cmem)).zero (homeL (slot * 16) 0 0) (homeL (slot * 16 + 16) 0 0)
  let s := if sealedP then s.zero (homeA slot 0 0) (homeA slot 8 0) else s
  let k := clusterOf core
  let s := if sealedP && clearK then s.zero (homeK k kBase) (homeK k (kBase + p.kmem)) else s
  let s := ts.foldl (fun (s : State) (t : Team) => s.traceBind t 0 0) s
  (s.invL1 core, slot)

/-! ### The end of a group (R247, R248) -/

/-- Lines a group's queues hold that speculation brought and no QGET took. -/
def Group.unusedSpec (g : Group) : Nat :=
  g.queues.foldl (fun a q => a + (q.slots.filter (fun x =>
    match x with
    | .full _ 0 => false
    | .full _ _ => true
    | _ => false)).length) 0

/-- Speculative fills of a group's queues whose line another module has been asked for (R120). -/
def State.askedSpec (s : State) (g : Group) : Nat :=
  g.queues.foldl (fun a q => a + (q.slots.filter (fun x =>
    match x with
    | .pending f => f.spec && s.far.any (fun (x : FarLine) => x.op == f.op && x.no == f.idx)
    | _ => false)).length) 0

/-- A group and its teams leave the core: queues, tiles, barriers, slots and places are released; accesses under way are
still performed (R247, R248). -/
def State.dropGroup (s : State) (slot : Nat) : State :=
  let g := s.groupAt slot
  let mine (k : Nat) : Bool := k / 16 == slot && decide (k < 2 ^ 40)
  let s := s.modCtx g.ctx (fun c => c.count 2 (g.unusedSpec + s.askedSpec g))
  { s with
    groups := s.groups.filter (fun x => x.slot != slot)
    teams := s.teams.filter (fun t => t.gslot != slot)
    recs := s.recs.map (fun (r : Rec) => if r.guid = some g.uid then { r with ov := g.ovReg } else r)
    acc := s.acc.map (fun (a : Access) =>
      if mine a.team then
        { a with team := g.origin.orphan, who := (s.team a.team).map (Team.issuer g) }
      else a)
    batches := s.batches.map (fun (b : Batch) => if b.team.any mine then { b with team := Option.none } else b)
    laneReqs := s.laneReqs.filter (fun (r : LaneReq) => !mine r.team)
    rounds := s.rounds.map (fun (r : Round) => if r.team.any mine then { r with team := Option.none } else r)
    bars := s.bars.filter (fun (b : Barrier) =>
      match b.key with
      | .group k _ => k != slot
      | .cluster n _ _ => g.origin != .task n
      | .launch n _ => g.origin != .task n)
    tops := s.tops.filter (fun (o : TileOp) => o.group != slot)
    asy := s.asy.filter (fun (o : AsyncOp) => o.group != slot)
    cur := if s.cur.any mine then Option.none else s.cur }

end Sys2Proof.Machine
end

