-- ==== Sys2Proof/Machine/Deck.lean ====
section
/-! DEFINITION. The Deck: task records, futures, hands, the start of tasks, aging, deadlines and run budgets (R45 to R58,
R371, R372, R431 to R434, R475, R476). -/

namespace Sys2Proof.Machine

/-! ### Bar records that end (R407, R459, R477) -/

/-- A frozen context goes on when the last record of a freeze of it is gone (R440). -/
def State.thaw (s : State) (c : Nat) : State :=
  if (s.ctx c).frozen.isNone || (s.ctx c).freeze.isSome
      || s.recs.any (fun (x : Rec) => x.ctx == c && x.frz.isSome && x.st != .report) then s
  else s.modCtx c (fun x => { x with frozen := none })

/-- A record leaves the Bar with its spill bytes; what waits to serve it is removed (Table 16-8). -/
def State.freeRec (s : State) (r : Rec) : State :=
  let h := s.handle r
  State.thaw (c := r.ctx)
  { s with
    recs := s.recs.filter (fun (x : Rec) => x.id != r.id)
    pend := s.pend.filter (fun (p : PendTask) => p.bar != r.id)
    tasks := s.tasks.filter (fun (t : Task) => !(t.bank == 16 && t.st != .running && t.dws.getD 4 0 == h))
    cores := s.cores.map (fun (c : Core) => { c with hand := c.hand.filter (fun i =>
      !s.tasks.any (fun (t : Task) => t.id == i && t.bank == 16 && t.st != .running && t.dws.getD 4 0 == h)) }) }

/-- The members of a coalesced set, oldest first (R459). -/
def State.membersOfRec (s : State) (r : Rec) : List Rec :=
  s.recs.filter (fun (x : Rec) => x.head == some r.id && x.st == .member)

/-- The head of a set is gone: its oldest member becomes the head, whose fault task is then raised (R459). -/
def State.promote (s : State) (r : Rec) : State :=
  match minBy (fun (x : Rec) => x.parkt * 2 ^ 64 + x.id) (s.membersOfRec r) with
  | none => s
  | some m =>
    { s with recs := s.recs.map (fun (x : Rec) =>
        if x.id = m.id then { x with head := none, st := .parked, raised := false }
        else if x.head = some r.id then { x with head := some m.id } else x) }

/-! ### Records of the Deck (R371, R432) -/

/-- The H offsets, as doubleword numbers, and the futures of a task. -/
def State.task (s : State) (id : Nat) : Option Task := s.tasks.find? (fun (t : Task) => t.id == id)

/-- A task replaced. -/
def State.putTask (s : State) (t : Task) : State := { s with tasks := s.tasks.map (fun (x : Task) => if x.id = t.id then t else x) }

/-- Priority of a record. -/
def taskPrio (d : List Dw) : Nat := fld (d.getD 0 0) 61 59
/-- KIND of a record. -/
def taskKind (d : List Dw) : Nat := fld (d.getD 0 0) 63 62
/-- CONTEXT of a record. -/
def taskCtx (d : List Dw) : Nat := fld (d.getD 2 0) 63 52
/-- DEADLINE of a record. -/
def taskDeadline (d : List Dw) : Nat := fld (d.getD 2 0) 43 0
/-- ENTRY of a record. -/
def taskEntry (d : List Dw) : Nat := fld (d.getD 0 0) 49 0 * 4
/-- XD of a record. -/
def taskXd (d : List Dw) : Bool := flag (d.getD 0 0) 50

/-- The indices used in a bank of a die; bank 16 is the fault bank. -/
def State.bankUsed (s : State) (die bank : Nat) : List Nat :=
  (s.tasks.filter (fun (t : Task) => t.die == die && t.bank == bank)).map (fun (t : Task) => t.idx)

/-- Records of a bank. -/
def bankSize (bank : Nat) : Nat := if bank = 16 then 4096 else 16128

/-- A free place in a bank. -/
def State.bankFree (s : State) (die bank : Nat) : Option (Nat × Nat × Nat) :=
  let u := s.bankUsed die bank
  if bankSize bank ≤ u.length then none else (lowestFree u (u.length + 1) 0).map (fun i => (die, bank, i))

/-- A place for a task of a context submitted on a die: its bank, the next ones, then the other die's (R432). -/
def State.deckPlace (s : State) (die ctx : Nat) : Option (Nat × Nat × Nat) :=
  ([die, 1 - die].flatMap (fun d => (List.range 16).map (fun i => (d, (ctx + i) % 16)))).findSome?
    (fun p => s.bankFree p.1 p.2)

/-- The next generation of a Deck index, 14 bits (Table 10-11). -/
def State.nextGenT (s : State) (die bank idx : Nat) : State × Nat :=
  let k := 2 ^ 30 + die * 2 ^ 20 + bank * 2 ^ 14 + idx
  let g := (((s.gens.find? (fun p => p.1 == k)).map (·.2)).getD 0 + 1) % 2 ^ 14
  ({ s with gens := upsert (·.1) (k, g) s.gens }, g)

/-- A record put into the Deck: ready unless it is a graph node with a counter above zero (R50). -/
def State.addTask (s : State) (die bank idx : Nat) (d : List Dw) (ext : Option (List Dw)) : State × Task :=
  let (s, g) := s.nextGenT die bank idx
  let n := if taskKind d = 1 then fld (d.getD 1 0) 51 40 else 0
  let t : Task := { id := s.uid, die := die, bank := bank, idx := idx, gen := g, dws := d, ext := ext,
                    st := if n = 0 then .ready else .waiting, waitCnt := n, squashed := false, level := taskPrio d,
                    promoted := false, qtime := s.clk }
  ({ s with uid := s.uid + 1, tasks := s.tasks ++ [t] }, t)

/-- DIE, INDEX and GEN of a record in bits [32:0] (Table 10-11). -/
def Task.handle (t : Task) : Nat := t.die * 2 ^ 32 + (t.bank * 2 ^ 14 + t.idx) * 2 ^ 14 + t.gen

/-- A context counter raised. -/
def State.bump (s : State) (c i n : Nat) : State := s.modCtx c (fun x => x.count i n)

/-- The counter of a task lowered by one; at zero it enters the ready pool (R50, R57) (DESIGN CHOICE, notes/assumptions/64.md). -/
def State.lower (s : State) (t : Task) : State :=
  if t.waitCnt = 0 then s.bump (taskCtx t.dws) 0x40 1
  else if 1 < t.waitCnt ∨ t.st ≠ .waiting then s.putTask { t with waitCnt := t.waitCnt - 1 }
  else
    let s := s.putTask { t with waitCnt := 0, st := .ready, squashed := false, qtime := s.clk }
    if t.squashed then s.bump (taskCtx t.dws) 0x42 1 else s

/-! ### Extensions (R47, Table 1-7) -/

/-- An extension is malformed. -/
def extBad (stages : Nat) (e : List Dw) : Bool :=
  let x := e.getD 0 0
  fld x 63 32 ≠ 0 || fld x 12 0 ≠ 0 || 512 < fld x 31 22 || 256 < fld x 21 13
    || (sixteen (e.getD 1 0) (e.getD 2 0)).any (fun q => 64 < q)
    || barSubBad stages ((sixteen (e.getD 3 0) (e.getD 4 0)).map (BitVec.ofNat 8))
    || 6 ≤ fld (e.getD 5 0) 50 48 || e.getD 7 0 ≠ 0

/-- A submitted record is malformed (R46, Table 10-11). -/
def taskBad (ctx : Nat) (d : List Dw) : Bool :=
  let x := d.getD 0 0
  let y := d.getD 1 0
  let st := fld y 54 52 + 1
  let bud := fld y 39 32
  2 ≤ taskKind d || taskCtx d ≠ ctx || 6 ≤ fld x 53 51 || 16 < fld y 59 55
    || (bud ≠ 0 && (bud < 10 || 40 < bud)) || fld (d.getD 2 0) 51 44 ≠ 0
    || !stageMapOk (fld x 57 54 + 1) st (fld y 31 0)
    || (taskXd d && taskEntry d % 64 ≠ 0)
    || (List.range 4).any (fun i => fld (d.getD (4 + i) 0) 63 62 = 0 && d.getD (4 + i) 0 ≠ 0)

/-! ### Dispatch (R51 to R53, R433) -/

/-- A task whose context may run: not in reset, and not frozen unless the task is a fault task (R439, R443, R444). -/
def State.taskLive (s : State) (t : Task) : Bool :=
  let c := s.ctx (taskCtx t.dws)
  c.rst = 0 && (c.frozen.isNone || t.bank == 16)

/-- The partition of a task. -/
def State.taskPart (s : State) (t : Task) : Part := s.part (s.ctx (taskCtx t.dws)).part

/-- The core takes tasks of the kind of a task (R51): MATRIX tasks on compute cores; others on keep cores, and on compute
cores only when every keep-core hand in the partition is full. -/
def State.kindFits (s : State) (t : Task) (core : Nat) : Bool :=
  let p := s.taskPart t
  if flag (t.dws.getD 0 0) 58 then core < 192
  else 192 ≤ core || ((s.coresOf p).filter (fun k => 192 ≤ k)).all (fun k => 2 ≤ (s.core k).hand.length)

/-- Level of a task in a hand. -/
def State.handLevel (s : State) (i : Nat) : Nat := ((s.task i).map (·.level)).getD 0

/-- The hand task that a task of a higher priority may displace on a core: the lowest (R53), of equals the youngest (DESIGN CHOICE, notes/assumptions/64.md). -/
def State.recallOf (s : State) (t : Task) (core : Nat) : Option Nat :=
  minBy (fun i => (8 - s.handLevel i) * 2 ^ 64 + (2 ^ 63 - i))
    ((s.core core).hand.filter (fun i => t.level < s.handLevel i))

/-- The bytes of a task's operands that it reads, whose home slices lie in a cluster: the mapping of lines to slices is
open (R51, R123). -/
def State.nearBytes (t : Task) (cluster : Nat) : Nat :=
  ((List.range 4).map (fun i =>
    let x := t.dws.getD (4 + i) 0
    let u := fld x 63 62
    if taskKind t.dws ≠ 2 ∧ (u = 1 ∨ u = 3) then
      Config.nearBytes cluster (fld x 61 22 * 4096) ((fld x 21 0 + 1) * 4096) else 0)).foldl (· + ·) 0

/-- The core preferred for a ready task (R51): with a free hand slot if there is one, else with a task to recall. -/
def State.preferred (s : State) (t : Task) : Option Nat :=
  let ks := (s.coresOf (s.taskPart t)).filter (fun k => s.kindFits t k)
  let open_ := ks.filter (fun k => (s.core k).hand.length < 2)
  let ks := if open_ ≠ [] then open_ else ks.filter (fun k => (s.recallOf t k).isSome)
  minBy (fun k => (2 ^ 64 - State.nearBytes t (clusterOf k)) * 2 ^ 16 + clusterOf k * 256 + k) ks

/-- The order of ready tasks (R433): level, queueing time, fault tasks, die, bank, index. -/
def Task.order (t : Task) : Nat :=
  ((((t.level * 2 ^ 64 + t.qtime) * 2 + b2n (t.bank != 16)) * 2 + t.die) * 32 + t.bank) * 2 ^ 15 + t.idx

/-- The ready task that the Deck chooses for a hand slot of a core, if that core is the one it prefers (R433, R51). -/
def State.dispatchFor (s : State) (core : Nat) : Option Task :=
  (minBy Task.order (s.tasks.filter (fun (t : Task) =>
    t.st == .ready && s.taskLive t && (s.coresOf (s.taskPart t)).contains core && s.kindFits t core))).filter
      (fun t => s.preferred t == some core)

/-- A hand task returns to its bank (R53). -/
def State.recall (s : State) (i : Nat) : State :=
  match s.task i with
  | some t => { s.putTask { t with st := .ready } with
                cores := s.cores.map (fun (c : Core) => { c with hand := c.hand.filter (fun j => j != i) }) }
  | none => s

/-- A counted event of a partition (R442). -/
def State.mark (s : State) (part : Nat) : State := s.modPart part (fun p => { p with lastEvent := s.clk })

/-- The clause at a VA brought into a core's instruction cache (R52); what does not translate is not. -/
def State.fetchHand (s : State) (core c va : Nat) : State :=
  match s.fetchWord core c va none with
  | (s, .inl _) => s
  | (s, .inr (h, pg)) => (s.fetchBody core c 45 (va + 4) pg (bits h.toNat 3 0)).1

/-- DECK_DISPATCH (R433): the task and its entry clause come into the core's hand (R52). -/
def execDeckDispatch (core : Nat) (s : State) : Out :=
  match s.dispatchFor core with
  | none => .next s
  | some t =>
    let s := if 2 ≤ (s.core core).hand.length then
        (match s.recallOf t core with
         | some i => s.recall i
         | none => s)
      else s
    let s := s.putTask { t with st := .hand core }
    .next (((s.modCore core (fun c => { c with hand := c.hand ++ [t.id] })).fetchHand core (taskCtx t.dws) (taskEntry t.dws)).mark
      (s.ctx (taskCtx t.dws)).part)

/-! ### Pending launches (R427, R431) -/

/-- Groups of a launch not yet placed, in ascending linear index: the ones whose reservations were released come first
(R429). -/
def State.placedOf (s : State) (l : Launch) : List Nat :=
  (l.resv.map (fun (r : Resv) => r.lin))
    ++ (s.groups.filter (fun (g : Group) => g.origin == .launch l.id)).map (fun (g : Group) => g.lin)
    ++ l.ended.map (·.1)

/-- The next group of a launch to place. -/
def State.nextGroup (s : State) (l : Launch) : Option Nat :=
  let n := launchSize l.dws
  let done := s.placedOf l
  (lowestFree done (done.length + 1) 0).filter (fun i => i < n)

/-- A launch's context lets the distributor start its groups (R439, R430). -/
def State.launchLive (s : State) (l : Launch) : Bool :=
  let c := s.ctx l.ctx
  c.rst = 0 && c.frozen.isNone

/-- The pending group of a launch would take a core before a task of a level queued at a time (R431); before an
equal task too (DESIGN CHOICE, notes/assumptions/64.md). -/
def State.launchFirst (s : State) (core level qtime : Nat) : Bool :=
  s.launches.any (fun (l : Launch) =>
    s.launchLive l && (s.nextGroup l).isSome
      && (launchPrio l.dws < level || (launchPrio l.dws == level && l.arrival ≤ qtime))
      && (s.fitting (some l) (s.lspec l)).contains core)

/-! ### Starting a task (R52, R29, R388) -/

/-- The declarations of a task. -/
def State.tspec (s : State) (t : Task) : GSpec := taskSpec (s.ctx (taskCtx t.dws)).pdbud t.dws t.ext

/-- The hand task that a core starts next: the best one whose group it can admit (R52). -/
def State.startable (s : State) (core : Nat) : Option Task :=
  let pt (t : Task) : Part := s.taskPart t
  minBy Task.order (((s.core core).hand.filterMap s.task).filter (fun (t : Task) =>
    let p := s.tspec t
    s.taskLive t && p.fitsUse (s.coreUse core) (lentBytes (pt t) core) core
      && (s.kPlace none (pt t) (clusterOf core) p.kmem).isSome && !s.launchFirst core t.level t.qtime))

/-- The record a fault task names is SERVED while its handler runs, on whichever module (R477) (DEDUCED, notes/assumptions/79.md). -/
def State.serve (s : State) (ctx : Nat) (h : Dw) : State :=
  if handleMod h ≠ s.modl.modNo then s.sendLane ctx (handleMod h) 0 (.record h 0) else
  { s with recs := s.recs.map (fun (r : Rec) => if s.handle r = h ∧ r.st = .parked then { r with st := .served } else r) }

/-- TASK_START (R52). -/
def execTaskStart (core : Nat) (s : State) : Out :=
  match s.startable core with
  | none => .next s
  | some t =>
    let p := s.tspec t
    let kb := (s.kPlace none (s.taskPart t) (clusterOf core) p.kmem).getD 0
    let s := s.modCore core (fun c => { c with hand := c.hand.filter (fun i => i != t.id) })
    let s := s.putTask { t with st := .running }
    let (s, slot) := s.startGroup p (.task t.id) 0 0 0 0 core kb true
    let s := match p.served with
      | some (h, _) => s.serve p.ctx h
      | none => s
    .next (s.trace core p.ctx (((s.team (slot * 16)).map (·.place)).getD 0) 7
      (taskKind t.dws * 2 ^ 38 + taskPrio t.dws * 2 ^ 35 + (t.bank % 16) * 2 ^ 14 + t.idx))

/-! ### Aging and deadlines (R434, R49, R475) -/

/-- A task has waited in the ready pool beyond the bound of its level (R434). -/
def State.aged (s : State) (t : Task) : Bool :=
  t.st == .ready && !t.promoted && 1 ≤ t.level && t.level ≤ 7 && decide (2 ^ (20 + t.level) < s.clk - t.qtime)

/-- DECK_AGING (R434). -/
def execDeckAging (s : State) : Out :=
  .next { s with tasks := s.tasks.map (fun (t : Task) =>
    if s.aged t then { t with level := t.level - 1, promoted := true } else t) }

/-- A task leaves the Deck. -/
def State.dropTask (s : State) (id : Nat) : State :=
  { s with
    tasks := s.tasks.filter (fun (t : Task) => t.id != id)
    futWait := s.futWait.filter (fun w => w.2 != id)
    cores := s.cores.map (fun (c : Core) => { c with hand := c.hand.filter (fun i => i != id) }) }

/-- A queued task is past its DEADLINE. -/
def State.taskLate (s : State) (t : Task) : Bool :=
  t.st != .running && taskDeadline t.dws ≠ 0 && decide (taskDeadline t.dws ≤ s.usec % 2 ^ 44)

/-- The kill report of a task that never ran (R49, R467). -/
def State.taskReport (s : State) (t : Task) (f : FaultInfo) : State :=
  let r := s.newRec .team f (taskCtx t.dws) 0 0 0 0
  s.report { r with pc := BitVec.ofNat 64 (taskEntry t.dws), rimg := true } t.die

/-- TASK_DEADLINE_EXPIRY (R49). -/
def execTaskDeadlineExpiry (task : Nat) (s : State) : Out :=
  match s.task task with
  | none => .next s
  | some t => if t.bank ≠ 16 ∧ s.taskLate t then .next ((s.dropTask t.id).taskReport t (mkF .deadlineExpired .none (taskDeadline t.dws) 0)) else .next s

/-- FAULT_TASK_DEADLINE_EXPIRY (R475). -/
def execFaultTaskDeadlineExpiry (task : Nat) (s : State) : Out :=
  match s.task task with
  | none => .next s
  | some t => if t.bank = 16 ∧ s.taskLate t then .next (s.dropTask t.id) else .next s

/-! ### Run budgets (R48, R476, R39, R40) -/

/-- RUN_BUDGET_EXPIRY (R48). -/
def execRunBudgetExpiry (group : Nat) (s : State) : Out :=
  match s.group group with
  | none => .next s
  | some g => .next (s.runOut g)

/-- DISABLE_BUDGET_EXPIRY (R40): the budget of a team in the core's file runs out. -/
def execDisableBudgetExpiry (team : Nat) (s : State) : Out :=
  match s.team team with
  | none => .next s
  | some t =>
    if t.pdOut s.clk && t.holds then .next (s.pdEnd t) else .next s

end Sys2Proof.Machine
end

