-- ==== Sys2Proof/Machine/Task.lean ====
section
/-! DEFINITION. Major 56: task submission, futures, launch posting, register moves between teams, counters (R370 to
R375, R54 to R60, R85, R86). -/

namespace Sys2Proof.Machine

/-! ### TSPAWN (R371) -/

/-- A doubleword ST and zeros (Table 10-11). -/
def stWord (st : Nat) : Dw := BitVec.ofNat 64 (st * 2 ^ 62)

/-- A submission refused: status and counter (Table 10-12). -/
def State.refuseTask (s : State) (t : Team) (d : SReg) (st : Nat) : State :=
  (s.bump (s.ctxOf t) 0x44 1).retire (t.setS d (stWord st))

/-- A read record is accepted, or refused with its status (R371, R432). A record of a disabled context, or of one in
reset, is malformed (notes/assumptions/31.md). -/
def State.submit (s : State) (t : Team) (d : SReg) (dws : List Dw) (ext : Option (List Dw)) : State :=
  let c := s.ctxOf t
  if taskBad c dws || ext.any (extBad (fld (dws.getD 1 0) 54 52 + 1)) || !(s.ctx c).en || (s.ctx c).rst ≠ 0 then
    s.refuseTask t d 1
  else
    match s.deckPlace (dieOf (s.groupOf t).core) c with
    | none => s.refuseTask t d 2
    | some (die, bank, i) =>
      let (s, k) := s.addTask die bank i dws ext
      (s.bump c 0x43 1).retire (t.setS d (BitVec.ofNat 64 k.handle))

/-- TSPAWN, the submitting form (R371): a release at DEVICE scope, then the record and its extension are read. The extension of an
ENTRY of 0 lies at the top of the address space (DESIGN CHOICE, notes/assumptions/96.md). -/
def execTspawn (d a : SReg) (s : State) : Out :=
  issue { bad := if a = 0 then some .none else none, sr := [a], sw := [d], eng := 5, stop := true }
    (fun t s =>
      let g := s.groupOf t
      let va := (t.s a).toNat
      if va % 64 ≠ 0 then s.park t (mkF .alignment .none va 64)
      else if !s.settled t.key then s.deschedule t .sys
      else
        match s.vaRead g.core g.ctx va 64 with
        | (s, .inl f) => s.park t f
        | (s, .inr bs) =>
          let dws := leDws 8 bs
          if taskXd dws && !taskBad g.ctx dws then
            match s.vaRead g.core g.ctx ((taskEntry dws + 2 ^ 52 - 64) % 2 ^ 52) 64 with
            | (s, .inl f) => s.park t f
            | (s, .inr es) => (s.effect t).submit t d dws (some (leDws 8 es))
          else (s.effect t).submit t d dws none) s

/-- The graph node of a context that a handle names, while it is in the Deck (R371). -/
def State.nodeOf (s : State) (c : Nat) (h : Dw) : Option Task :=
  s.tasks.find? (fun (k : Task) =>
    k.bank != 16 && k.handle == h.toNat && taskCtx k.dws == c && taskKind k.dws == 1 && k.st != .running)

/-- TSPAWN.REL (R371, R50). -/
def execTspawnRel (d b : SReg) (s : State) : Out :=
  issue { bad := if b = 0 then some .none else none, sr := [b], sw := [d], eng := 5, stop := true }
    (fun t s =>
      if !s.settled t.key then s.deschedule t .sys
      else
        let s := s.effect t
        let c := s.ctxOf t
        match s.nodeOf c (t.s b) with
        | none => (s.bump c 0x40 1).refuseTask t d 3
        | some k => (s.lower k).retire (t.setS d 0)) s

/-! ### Futures (R54 to R58, R372) -/

/-- The fault of a future's offset (R372, R97). -/
def State.futFault (s : State) (t : Team) (x : Dw) : Option FaultInfo :=
  if x.toNat % 8 ≠ 0 then some (mkF .alignment .none x.toNat 8)
  else s.runFault (s.groupOf t) 3 x.toNat 8

/-- A future is FULL. -/
def State.isFull (s : State) (off : Nat) : Bool := s.futFull.contains (off / 8)

/-- The task of a team is squashed and registered as a waiter (R55): its group goes, with every record of its work. -/
def State.squash (s : State) (t : Team) (task : Nat) (off : Nat) : State :=
  let g := s.groupOf t
  let s := s.bump g.ctx 0x41 1
  let s := (s.teams.filter (fun (u : Team) => u.gslot == t.gslot)).foldl (fun (s : State) u => s.unserve u) s
  let dead := s.recs.filter (fun (r : Rec) => r.gslot == t.gslot && r.ctx == g.ctx && r.st != .report)
  let s := dead.foldl (fun (s : State) r => (s.freeRec r).promote r) s
  let s := s.dropGroup t.gslot
  { s with
    tasks := s.tasks.map (fun (k : Task) =>
      if k.id = task then { k with st := .waiting, waitCnt := k.waitCnt + 1, squashed := true } else k)
    futWait := s.futWait ++ [(off / 8, task)] }

/-- FRD (R372, R58). -/
def execFrd (d a : SReg) (s : State) : Out :=
  issue { sr := [a], sw := [d], eng := 5 }
    (fun t s =>
      let g := s.groupOf t
      let off := (t.s a).toNat
      match s.futFault t (t.s a) with
      | some f => s.park t f
      | none =>
        match g.origin with
        | .launch _ => s.park t (mkF .futureOrder .notATask off 0)
        | .task id =>
          if g.effect then s.park t (mkF .futureOrder .lateRead off 0)
          else if s.isFull off then
            if s.poisoned (homeH off) 8 then s.loseTeam t .none
            else (s.invL1 g.core).retire (t.setS d (s.rd64 (homeH off)))
          else s.squash t id off) s

/-- The waiters of a future are told that it is FULL (R57). -/
def State.fillWaiters (s : State) (off : Nat) : State :=
  let ws := s.futWait.filter (fun w => w.1 == off / 8)
  let s := { s with futWait := s.futWait.filter (fun w => w.1 != off / 8) }
  ws.foldl (fun (s : State) w =>
    match s.task w.2 with
    | some k => s.lower k
    | none => s) s

/-- FWR (R372): a release at DEVICE scope. -/
def execFwr (a b : SReg) (s : State) : Out :=
  issue { sr := [a, b], eng := 5, stop := true }
    (fun t s =>
      let off := (t.s a).toNat
      match s.futFault t (t.s a) with
      | some f => s.park t f
      | none =>
        if s.isFull off then s.park t (mkF .futureOrder .refill off 0)
        else if !s.settled t.key then s.deschedule t .sys
        else
          let s := (s.effect t).perform (homeH off) (leBytes 8 (t.s b).toNat)
          let t := (s.team t.key).getD t
          (({ s with futFull := (off / 8) :: s.futFull }).fillWaiters off).retire t) s

/-- FWR.CLR (R372). -/
def execFwrClr (d a : SReg) (s : State) : Out :=
  issue { sr := [a], sw := [d], eng := 5 }
    (fun t s =>
      let off := (t.s a).toNat
      match s.futFault t (t.s a) with
      | some f => s.park t f
      | none =>
        if !s.isFull off then s.park t (mkF .futureOrder .clearEmpty off 0)
        else if s.poisoned (homeH off) 8 then s.loseTeam t .none
        else
          let s := { s.effect t with futFull := s.futFull.filter (fun i => i != off / 8) }
          s.retire (t.setS d (s.rd64 (homeH off)))) s

/-! ### LPOST (R373, R426) -/

/-- A launch queue in the front end. -/
def State.lq (s : State) (c q : Nat) : Option LaunchQ := s.lqs.find? (fun (x : LaunchQ) => x.ctx == c && x.q == q)

/-- A launch queue replaced. -/
def State.putLq (s : State) (x : LaunchQ) : State :=
  { s with lqs := s.lqs.map (fun (y : LaunchQ) => if y.ctx = x.ctx ∧ y.q = x.q then x else y) }

/-- The header of a posted packet is that of a LAUNCH (Tables 14-2, 14-3). -/
def postHeaderOk (h : Dw) : Bool := fld h 63 56 = 1 && fld h 55 48 = 13 && fld h 47 40 = 0 && fld h 39 33 = 0

/-- The answer of LPOST for a packet read (R373) (DESIGN CHOICE, notes/assumptions/63.md). -/
def State.post (s : State) (t : Team) (d : SReg) (q : Nat) (dws : List Dw) : State :=
  let g := s.groupOf t
  match s.lq g.ctx q with
  | none => (s.bump g.ctx 0x44 1).retire (t.setS d 3)
  | some x =>
    if !postHeaderOk (dws.getD 0 0) || (s.launchError g.ctx dws).isSome then
      (s.bump g.ctx 0x44 1).retire (t.setS d 1)
    else if 64 ≤ x.posted.length then (s.bump g.ctx 0x44 1).retire (t.setS d 2)
    else
      let up := match g.origin with
        | .launch n => n :: ((s.launches.find? (fun (l : Launch) => l.id == n)).map (·.parents)).getD []
        | .task _ => []
      (s.putLq { x with posted := x.posted ++ [(dws, g.origin, up)] }).retire (t.setS d 0)

/-- LPOST (R373): a release at DEVICE scope; the packet is read by its header's length, but for a queue that is not
configured (DESIGN CHOICE, notes/assumptions/63.md). -/
def execLpost (d a : SReg) (q : BitVec 2) (s : State) : Out :=
  issue { sr := [a], sw := [d], eng := 5, stop := true }
    (fun t s =>
      let g := s.groupOf t
      let va := (t.s a).toNat
      if va % 64 ≠ 0 then s.park t (mkF .alignment .none va 64)
      else if !s.settled t.key then s.deschedule t .sys
      else if !flag ((s.ctx g.ctx).lq.toList.getD q.toNat 0) 63 then
        ((s.effect t).bump g.ctx 0x44 1).retire (t.setS d 3)
      else
        match s.vaRead g.core g.ctx va 8 with
        | (s, .inl f) => s.park t f
        | (s, .inr hs) =>
          let n := if postHeaderOk (BitVec.ofNat 64 (leNat hs)) then 104 else 8
          match s.vaRead g.core g.ctx va n with
          | (s, .inl f) => s.park t f
          | (s, .inr bs) => (s.effect t).post t d q.toNat (leDws (n / 8) bs)) s

/-! ### GIVE, CLAIM, SREAD (R85, R86, R374, R375) -/

/-- The error is in a vector register given up (R85): it goes with the register. -/
def RegErr.beyond (n : Nat) (e : RegErr) : Bool :=
  match e.dest with
  | some (.v r) => decide (n ≤ r.toNat)
  | _ => false

/-- GIVE (R85). -/
def execGive (d : SReg) (k : BitVec 4) (s : State) : Out :=
  issue { bad := if k = 0 then some .none else none, sw := [d], eng := 5, xr := [0x0B], xw := [0x0B] }
    (fun t s =>
      let n := 8 * k.toNat
      if n + 8 ≤ t.vcnt then
        let s := s.modGroup t.gslot (fun g => { g with pool := g.pool + n })
        s.retire ({ t with regs := { t.regs with v := t.regs.v.take (t.vcnt - n) }
                           errs := t.errs.filter (fun e => !e.beyond (t.vcnt - n)) }.setS d 1)
      else s.retire (t.setS d 0)) s

/-- CLAIM (R85) (DEDUCED, notes/assumptions/18.md). -/
def execClaim (d : SReg) (k : BitVec 4) (s : State) : Out :=
  issue { bad := if k = 0 then some .none else none, sw := [d], eng := 5, xr := [0x0B], xw := [0x0B] }
    (fun t s =>
      let n := 8 * k.toNat
      if n ≤ (s.groupOf t).pool ∧ t.vcnt + n ≤ 128 then
        let s := s.modGroup t.gslot (fun g => { g with pool := g.pool - n })
        s.retire ({ t with regs := { t.regs with v := t.regs.v ++ List.replicate n (VVal.u 0) } }.setS d 1)
      else s.retire (t.setS d 0)) s

/-- A counter of a context by index; every other index reads zero (R375). -/
def Ctx.counter (c : Ctx) (i : Nat) : Dw :=
  if i ≤ 8 ∨ (0x40 ≤ i ∧ i ≤ 0x47) then ((c.cnts.find? (fun p => p.1 == i)).map (·.2)).getD 0 else 0

/-- SREAD (R375). -/
def execSread (d a : SReg) (s : State) : Out :=
  issue { sr := [a], sw := [d], eng := 5 }
    (fun t s => s.retire (t.setS d ((s.ctx (s.ctxOf t)).counter (t.s a).toNat))) s

end Sys2Proof.Machine
end

