-- ==== Sys2Proof/Machine/Sched.lean ====
section
/-! DEFINITION. What wakes and moves teams: clause issue, pre-emption and swap-in, the ends of waits, barriers with the
determinism buffer, rounds, deferred free, and the end of groups (R35 to R43, R90, R156 to R158, R204, R248, R311, R320,
R327 to R336, R435). -/

namespace Sys2Proof.Machine

/-! ### Issue, pre-emption, swap-in -/

/-- A team takes the issue slot: it goes on in its open clause, or a clause is put into issue for it (DEDUCED, notes/assumptions/55.md). -/
def State.resume (s : State) (t : Team) : State :=
  if t.clause.isSome then { s with cur := some t.key } else s.openClause t

/-- CLAUSE_ISSUE (R435). -/
def execClauseIssue (core : Nat) (s : State) : Out :=
  match s.choice core with
  | none => .next s
  | some t => .next (s.resume t)

/-- The boundary a team stands at is a pre-emption point (R37). -/
def Team.preemptible (t : Team) : Bool :=
  t.st == .running && t.clause.isNone && t.woff == 0 && !t.pdis && t.nopre == 0

/-- PRE_EMPTION (R38) (DEDUCED, notes/assumptions/49.md). -/
def execPreEmption (team : Nat) (s : State) : Out :=
  match s.team team with
  | none => .next s
  | some t => if t.preemptible && !s.openLoads t.key then .next (s.swapOut t t.chunks) else .next s

/-- SWAP_IN (R43, R90). -/
def execSwapIn (team : Nat) (s : State) : Out :=
  match s.team team with
  | none => .next s
  | some t =>
    if t.st = .swapped ∧ t.need ≤ s.freeChunks (s.groupOf t).core then .next (s.swapBack t) else .next s

/-! ### Waits (Table 1-4) -/

/-- A slot that a QGET fills again waits for its line from another module (R118). -/
def State.refilling (s : State) : QSlot → Bool
  | .poisoned f _ => (s.farOf f.op f.idx).any FarLine.waits
  | _ => false

/-- A timer-free wait of a team is over. -/
def State.met (s : State) (t : Team) (w : Wait) : Bool :=
  match w with
  | .cond => true
  | .thr l st c ti => t.cnt.meets l st c ti
  | .tl who cls n => n ≤ s.tlCount who cls
  | .dests ds => !s.acc.any (fun a => a.team == t.key && a.dests.any ds.contains)
  | .stores => s.settled t.key
  | .slot n =>
    let k := (s.groupOf t).core
    (s.coreReqs k).length + s.svcWaiting k + n ≤ slotsOf k + 256 && t.cnt.ld ≠ 0xFFFF && t.cnt.st ≠ 0xFFFF && t.cnt.cp ≠ 0xFFFF
      && t.cnt.ti ≠ 0xFFFF
  | .fill q n => n ≤ ((s.groupOf t).queue q).empty
  | .head q n =>
    let x := (s.groupOf t).queue q
    n ≤ x.slots.length && !(x.slots.take n).any (fun y => y.isPending || s.refilling y)
  | .tile k => !s.tops.any (fun o => o.names t.gslot k && o.id < t.ovx.getD s.uid)
  | .fabric _ => !s.batches.any (fun (b : Batch) => b.team == some t.key)
  | .accs ids => !s.acc.any (fun (a : Access) => ids.contains a.id)
  | .sys => s.settled t.key
  | .flush _ => true
  | .drain ids rids far =>
    far == [] && !s.acc.any (fun (a : Access) => ids.contains a.id) && !s.pfs.any (fun (p : PfReq) => ids.contains p.id)
      && !s.lqs.any (fun (x : LaunchQ) => x.acks.any rids.contains) && !s.far.any (fun (x : FarLine) => x.waits && rids.contains x.rid)
      && !s.asy.any (fun (o : AsyncOp) =>
        o.sent.any rids.contains || o.segs.any (fun (x : Seg) => x.acks.any (fun y => rids.contains y.1)))
      && !s.tops.any (fun (o : TileOp) => o.acks.any rids.contains)
  | _ => false

/-- A team is ready again (R435: its age starts). -/
def State.awake (s : State) (t : Team) : State := s.putTeam { t with st := .running, age := s.clk }

/-- The accesses by which a team acquires, not complete (Table 4-2). -/
def State.acquiring (s : State) (k : Nat) : List Nat := (s.acc.filter (fun (a : Access) => a.team == k && a.await)).map (·.id)

/-- WAIT_CONDITION_MET (R204, R323, R324, R211, R124, R116, R311, R151): a lost access parks the team where it waits (R464), and a
team whose packets have gone still waits for what it acquires by. -/
def execWaitConditionMet (team : Nat) (s : State) : Out :=
  match s.team team with
  | none => .next s
  | some t =>
    match t.st with
    | .wait w =>
      if s.met t w then
        .next (match w with
          | .fabric p =>
            let s := s.traceTeam t 8 (p * 2 ^ 31 + 2 ^ 30)
            match s.acquiring t.key with
            | [] => s.awake t
            | ids => s.putTeam { t with st := .wait (.accs ids) }
          | .flush n => { s with hostSeen := max s.hostSeen n }.awake t
          | _ => s.awake t)
      else .next s
    | _ => .next s

/-- A line of space G, by its home, is evicted from its L2 slice, here or on its peer: its scope record is lost (R160), prefetches of it that no demand
has used are wasted (R120), and waiters on its words are woken (R327). -/
def State.evict (s : State) (line : Nat) : State :=
  if 2 ^ 80 ≤ line * 128 ∧ !(homeP 0 0 ≤ line * 128 && line * 128 < homeP 512 0) then s
  else
    { s with
      scopes := s.scopes.filter (fun r => r.line != line)
      ctxs := s.ctxs.map (fun (c : Ctx) =>
        { c.count 2 (c.pfl.filter (fun l => l == line)).length with pfl := c.pfl.filter (fun l => l != line) })
      teams := s.teams.map (fun (t : Team) =>
        match t.st with
        | .wait (.waita w) => if w / 128 = line then { t with st := .wait .woken } else t
        | _ => t) }

/-- A synchronising access of a party of another module reaches a line of this one, or one of that module's that parties here
have used: the record becomes that party's (R160, R161); where the scope does not include the party recorded, the access raises
its fault there and the record stays (DESIGN CHOICE, notes/assumptions/43.md). -/
def State.peerSync (s : State) (m : Nat) (w : Option PeerTeam) (line sc : Nat) : State :=
  match s.scopes.find? (fun r => r.line == line) with
  | none => s.setScope line (.peer m w) sc
  | some r => if includesP sc (.peer m w) r.party then s.setScope line (.peer m w) sc else s

/-- A module has removed its translations for a TLBINV of a team of this one, and drained them (R402). -/
def State.drained (s : State) (team peer : Nat) : State :=
  s.modTeam team (fun t =>
    match t.st with
    | .wait (.drain ids rids far) => { t with st := .wait (.drain ids rids (far.filter (fun m => m != peer))) }
    | _ => t)

/-- WAITA_WAKE (R327): a waiter whose word was written resumes; a registered one on a word of space G does at an eviction of the
word's line, or when a peer or the host tells of a write. -/
def execWaitaWake (team : Nat) (s : State) : Out :=
  match s.team team with
  | none => .next s
  | some t =>
    match t.st with
    | .wait .woken => .next (s.endWaita t)
    | .wait (.waita a) => if inG a then .next ((s.evict (a / 128)).endWaita t) else .next s
    | .wait (.waitaPeer _ _) => .next (s.endWaita t)
    | _ => .next s

/-- SPURIOUS_WAKE (R327): at most one per 2^16 clk for a waiter. -/
def execSpuriousWake (team : Nat) (s : State) : Out :=
  match s.team team with
  | none => .next s
  | some t =>
    let late : Bool := match t.spur with
      | some c => decide (c + 65536 ≤ s.clk)
      | none => true
    match t.st with
    | .wait (.waita _) => if late then .next (s.endWaita { t with spur := some s.clk }) else .next s
    | .wait (.waitaPeer _ _) => if late then .next (s.endWaita { t with spur := some s.clk }) else .next s
    | _ => .next s

/-- A batch larger than its peer's CAP is split in packet order (R311). -/
def State.splitBatches (s : State) : State :=
  s.batches.foldl (fun (s : State) (b : Batch) =>
    let k := max 1 (s.peer b.peer).cap
    if b.pkts.length ≤ k then { s with batches := s.batches ++ [b] }
    else
      (chunksUp k b.pkts.length b.pkts).foldl (fun (s : State) ps =>
        let (s, i) := s.fresh
        { s with batches := s.batches ++ [{ b with id := i, pkts := ps }] }) s) { s with batches := [] }

/-- FABRIC_BATCH_SEND (R311): the waiting batches whose peers' allowances cover them. -/
def execFabricBatchSend (batch : Nat) (s : State) : Out :=
  if s.batches.any (fun (b : Batch) => b.id == batch) then .next s.splitBatches.sendBatches else .next s

/-! ### The determinism buffer (R320) -/

/-- A buffered operation put in its place: ascending team identifier, then sequence. -/
def insDet (e : DetEntry) : List DetEntry → List DetEntry
  | [] => [e]
  | x :: r => if e.tid * 2 ^ 64 + e.seq < x.tid * 2 ^ 64 + x.seq then e :: x :: r else x :: insDet e r

/-- A buffered operation on a peer's page sent as an ordered atomic request: an access of its team, or of its launch once the
team has ended, until the peer has acknowledged it (R156, R320). Its remote line has no lane. -/
def State.applyFar (s : State) (e : DetEntry) (peer pa : Nat) : State :=
  let (s, id) := s.fresh
  let rid : Wd := BitVec.ofNat 32 id
  let t := s.teams.find? (fun (t : Team) => t.tid == e.tid && (s.groupOf t).origin == e.origin && !t.isEnded)
  let w : Issuer := { gslot := 0, core := 0, depth := 0, serving := 0, tid := e.tid, pc := 0, woff := 0 }
  let a : Access :=
    { id := id, ctx := e.ctx, team := (t.map (·.key)).getD e.origin.orphan, load := false, loc := false, reqs := [],
      rem := [{ rid := rid, peer := some peer, addr := pa, lanes := [], so := true }], svc := 0, buf := [], bad := [], acq := false,
      fin := .none, dests := [], va := 0, who := if t.isSome then none else some w }
  let p := { s.mkPkt e.ctx peer 3 pa rid e.kid with
             so := true, aop := BitVec.ofNat 4 (b2n e.sub), aty := e.ty, data := e.data.setWidth 1024 }
  let s := match t with
    | some t => s.putTeam (t.countIn false)
    | none => s
  { s with acc := s.acc ++ [a] }.queuePkts none [p]

/-- One buffered operation applied; a poisoned location stays as it is, and the run is voided (R320, R499). -/
def State.applyOne (s : State) (e : DetEntry) : State :=
  let op := b2n e.sub
  if homeP 0 0 ≤ e.addr then s.applyFar e ((e.addr - homeP 0 0) / 2 ^ 60) ((e.addr - homeP 0 0) % 2 ^ 60)
  else if s.poisoned e.addr (atomSize e.ty) then
    (s.uncorrectable e.addr e.ctx).voidRun e.ctx (s.dieOfHome e.addr) e.tid 3
  else (s.atomAt e.addr op e.ty e.data.toNat 0).1

/-- The buffered operations of a launch or task applied, and their entries freed (R320). -/
def State.applyDet (s : State) (n : Nat) : State :=
  let mine := s.det.filter (fun (e : DetEntry) => e.origin.num == n)
  (mine.foldr insDet []).foldl State.applyOne { s with det := s.det.filter (fun (e : DetEntry) => e.origin.num != n) }

/-! ### Barriers (R328 to R330, R156 to R158) -/

/-- The launch with a number. -/
def State.launch (s : State) (n : Nat) : Option Launch := s.launches.find? (fun (l : Launch) => l.id == n)

/-- Every group of a launch has started. A task's one group has. -/
def State.allStarted (s : State) (n : Nat) : Bool :=
  match s.launch n with
  | some l => (s.nextGroup l).isNone && l.resv.isEmpty
  | none => true

/-- Identifiers of the teams of a launch or task on a cluster, or on every one: resident, and of its groups that ended. -/
def State.teamIds (s : State) (n : Nat) (cluster : Option Nat) : List Nat :=
  let there (c : Nat) : Bool := cluster.all (fun k => k == c)
  ((s.teams.filter (fun (t : Team) =>
      let g := s.groupOf t
      g.origin.num == n && there (clusterOf g.core))).map (fun (t : Team) => t.tid))
    ++ (match s.launch n with
        | some l => (l.ended.filter (fun x => there x.2.1)).flatMap (fun x => x.2.2.map (·.1))
        | none => [])

/-- The identifiers of a barrier's members, when they are settled. -/
def State.members (s : State) : BarrierKey → Option (List Nat)
  | .group g i =>
    some ((s.teams.filter (fun (t : Team) => t.gslot == g && (s.groupOf t).member i t.role)).map (fun (t : Team) => t.tid))
  | .cluster n c _ => if s.allStarted n then some (s.teamIds n (some c)) else none
  | .launch n _ => if s.allStarted n then some (s.teamIds n none) else none

/-- Something is left of an operation of major 54 other than speculative fills, for which no barrier waits (R157). -/
def State.delivers (s : State) (o : AsyncOp) : Bool :=
  o.segs ≠ [] || o.fills.any (fun i =>
    !(((s.groupAt o.group).queue (o.queue.getD 0)).pendingFill o.id i).any (fun f => f.spec))

/-- What the members of a launch issued before they arrived, and that writes memory or a queue slot, has completed (R156): stores
and atomics, numbered operations of major 54; with them the tile operations but MMA, and an MMA or speculative fill with a lower number
than one of those, which holds the counter back (R158) (DEDUCED, notes/assumptions/68.md). -/
def State.delivered (s : State) (n : Nat) : Bool :=
  s.settled (2 ^ 40 + n) && (s.teams.filter (fun (t : Team) => (s.groupOf t).origin.num == n)).all (fun (t : Team) =>
    s.settled t.key && !s.asy.any (fun o => o.team == t.key && s.delivers o)
      && !s.tops.any (fun o => o.team == t.key && decide (8 ≤ o.minor))
      && !s.batches.any (fun (b : Batch) => b.team == some t.key)
      && [0, 1, 2, 3].all (fun c => decide ((t.tl.get c).bar ≤ (t.tl.get c).count)))

/-- LEVEL and ID of a barrier (Table 14-8). -/
def barLevel : BarrierKey → Nat × Nat
  | .group _ i => (0, i)
  | .cluster _ _ i => (1, i)
  | .launch _ i => (2, i)

/-- A phase is ready to complete (R329, R156). -/
def State.barrierDone (s : State) (b : Barrier) : Bool :=
  match s.members b.key with
  | none => false
  | some ms =>
    ms ≠ [] && ms.all b.arrived.contains &&
      (match b.key with
       | .launch n _ => s.delivered n
       | _ => true)

/-- A member is released with the completion of its phase (R329, R112); what the arrivals come after comes before what it does now
(R155). -/
def State.releaseTeam (s : State) (b : Barrier) (t : Team) : State :=
  let (lv, id) := barLevel b.key
  let s := if lv = 0 then s else s.invL1 (s.groupOf t).core
  let t := { t with after := (s.acc.filter (fun a => b.before.contains a.id || t.after.contains a.id)).map (·.id) }
  let s := s.putTeam t
  if t.st = .wait (.barrier b.key) then
    (s.traceTeam t 5 (lv * 2 ^ 38 + id * 2 ^ 34 + (b.phase + 1) % 2 ^ 34)).awake t
  else s

/-- The buffered reductions that a phase's completion applies (R320). -/
def State.applyFor (s : State) (b : Barrier) : State :=
  match b.key with
  | .launch n _ => s.applyDet n
  | _ => s

/-- BARRIER_COMPLETE (R329): buffered reductions are applied first, and the phase completes once those on peers' pages are
acknowledged (R156, R320). -/
def execBarrierComplete (barrier : BarrierKey) (s : State) : Out :=
  match s.bars.find? (fun (b : Barrier) => b.key == barrier) with
  | none => .next s
  | some b =>
    if !s.barrierDone b then .next s
    else
      let s := s.applyFor b
      if !s.barrierDone b then .next s
      else
      let ts := s.teams.filter (fun (t : Team) => s.ofBarrier b.key t)
      let s := ts.foldl (fun (s : State) t => s.releaseTeam b t) s
      let s := (s.putBarrier { b with arrived := [], start := none, phase := b.phase + 1, before := [] })
      .next (match ts with
        | t :: _ => s.mark (s.ctx (s.ctxOf t)).part
        | [] => s)

/-! ### Rounds and deferred free (R333 to R336) -/

/-- The entries a round releases go behind those released before, in the order of queueing (R336). -/
def releaseEntries (id : Nat) (es : List DEntry) : List DEntry :=
  let old := es.filter (fun (e : DEntry) => e.released)
  let mine := (es.filter (fun (e : DEntry) => !e.released && e.round == some id)).map
    (fun (e : DEntry) => { e with released := true })
  let rest := es.filter (fun (e : DEntry) => !e.released && e.round != some id)
  old ++ mine ++ rest

/-- ROUND_COMPLETE (R333): an acquire for the team that waits for it; later than the clk in which the round's set was formed
(R382). -/
def execRoundComplete (round : Nat) (s : State) : Out :=
  match s.rounds.find? (fun (r : Round) => r.id == round) with
  | none => .next s
  | some r =>
    if r.set ≠ [] ∨ r.far ≠ [] ∨ s.clk ≤ r.at_ then .next s
    else
      let s := (s.bump r.ctx 0x47 1)
      let s := { s with rounds := s.rounds.filter (fun (x : Round) => x.id != round), dfl := releaseEntries round s.dfl }
      match r.team.bind s.team with
      | none => .next s
      | some t =>
        if t.st = .wait (.round round) then
          .next ((s.invL1 (s.groupOf t).core).retire { t with st := .running, age := s.clk })
        else .next s

/-- SCHEDULER_ROUND_START (R335): for entries queued in an earlier clk, since a `wround` may form its set in the clk of the
queueing (R382). -/
def execSchedulerRoundStart (ctx : Nat) (s : State) : Out :=
  if s.dfl.any (fun (e : DEntry) => e.ctx == ctx && e.queued && e.round.isNone && !e.released && decide (e.qclk < s.clk))
      && !s.rounds.any (fun (r : Round) => r.ctx == ctx) then
    .next (s.beginRound ctx none 3).1
  else .next s

/-- DFREE_QUEUEING_COMPLETE (R335): an entry queued in the clk in which a round's set was formed counts as queued before that round
begins (R382). -/
def execDfreeQueueingComplete (entry : Nat) (s : State) : Out :=
  match s.dfl.find? (fun (e : DEntry) => e.id == entry) with
  | none => .next s
  | some e =>
    if e.queued || e.waits ≠ [] then .next s
    else
      let r := s.rounds.find? (fun (r : Round) => r.ctx == e.ctx && r.at_ == s.clk)
      .next { s with dfl := s.dfl.filter (fun (x : DEntry) => x.id != entry)
                              ++ [{ e with queued := true, qclk := s.clk, round := r.map (·.id) }] }

/-- The bytes of entries in a slot (Table 9-4). -/
def reclaimLine (es : List DEntry) : Line :=
  lineNat (es.flatMap (fun (e : DEntry) =>
    leBytes 8 (2 ^ 63 + e.cls * 2 ^ 52 + e.addr.toNat) ++ leBytes 8 e.size.toNat))

/-- The group that CTXRQ designates, while it is one of the context on a keep core (Table 13-5). -/
def State.reclaimGroup (s : State) (c : Nat) : Option Group :=
  let x := (s.ctx c).rq
  if flag x 63 then (s.group (fld x 12 0)).filter (fun g => g.ctx == c && 192 ≤ g.core) else none

/-- One slot of the reclaim queue is filled with up to eight released entries, when there are some and a slot is EMPTY. -/
def State.reclaim (s : State) (c : Nat) : State :=
  match s.reclaimGroup c with
  | none => s
  | some g =>
    let es := (s.dfl.filter (fun (e : DEntry) => e.ctx == c && e.released)).take 8
    let q := g.queue 15
    if es = [] ∨ q.empty = 0 then s
    else
      { s.putQueue g.slot 15 { q with slots := q.slots ++ [.full (reclaimLine es) 0] } with
        dfl := s.dfl.filter (fun (e : DEntry) => !es.contains e) }

/-- RECLAIM_QUEUE_FILL (R336). -/
def execReclaimQueueFill (ctx : Nat) (s : State) : Out := .next (s.reclaim ctx)

/-! ### The end of a group (R248) -/

/-- A task has buffered reductions, and a write of its team is not performed yet: they are applied after it (R320). -/
def State.detWaits (s : State) (g : Group) : Bool :=
  match g.origin with
  | .launch _ => false
  | .task n => s.det.any (fun (e : DetEntry) => e.origin.num == n)
      && (s.teams.filter (fun (t : Team) => t.gslot == g.slot)).any (fun (t : Team) => s.openWrites t.key ≠ [])

/-- A group has ended: its teams have, and their operations have completed. -/
def State.groupDone (s : State) (g : Group) : Bool :=
  !s.detWaits g && (s.teams.filter (fun (t : Team) => t.gslot == g.slot)).all Team.isEnded
    && !s.asy.any (fun o => o.group == g.slot) && !s.tops.any (fun o => o.group == g.slot)

/-- How a team ended. -/
def Team.how (t : Team) : EndHow :=
  match t.st with
  | .ended h => h
  | _ => .lost

/-- A launch whose groups have all ended leaves the distributor; its buffered reductions are applied, once every other write of it
is performed (R320). -/
def State.closeLaunch (s : State) (n : Nat) : State :=
  match s.launch n with
  | none => s
  | some l =>
    if !s.groups.any (fun (g : Group) => g.origin.num == n) && l.resv.isEmpty && (s.openWrites (2 ^ 40 + n)).isEmpty
        && (s.nextGroup l).isNone then
      let s := s.applyDet n
      { s with launches := s.launches.filter (fun (x : Launch) => x.id != n)
               bars := s.bars.filter (fun (b : Barrier) =>
                 match b.key with
                 | .group _ _ => true
                 | .cluster k _ _ => k != n
                 | .launch k _ => k != n) }
    else s

/-- Every launch that has ended leaves. -/
def State.closeLaunches (s : State) : State := (s.launches.map (fun (l : Launch) => l.id)).foldl State.closeLaunch s

/-- The buffered reductions to a group's own scratchpad and slices go with it (R104, R248). -/
def State.dropDet (s : State) (slot : Nat) : State :=
  { s with det := s.det.filter (fun (e : DetEntry) =>
      !((homeC slot 0 ≤ e.addr && e.addr < homeC (slot + 1) 0)
        || (homeL (slot * 16) 0 0 ≤ e.addr && e.addr < homeL (slot * 16 + 16) 0 0))) }

/-- A group's resources are released, and its launch or task ends with its last group (R248). -/
def State.finishGroup (s : State) (g : Group) : State :=
  let how := (s.teams.filter (fun (t : Team) => t.gslot == g.slot)).map (fun (t : Team) => (t.tid, t.how))
  match g.origin with
  | .task id => ((s.applyDet id).dropGroup g.slot).dropTask id
  | .launch id =>
    let s := { s with launches := s.launches.map (fun (l : Launch) =>
      if l.id = id then { l with ended := l.ended ++ [(g.lin, clusterOf g.core, how)] } else l) }
    ((s.dropDet g.slot).dropGroup g.slot).closeLaunch id

/-- GROUP_END (R248). -/
def execGroupEnd (group : Nat) (s : State) : Out :=
  match s.group group with
  | none => .next s
  | some g => if s.groupDone g then .next (s.finishGroup g) else .next s

end Sys2Proof.Machine
end

