-- ==== Sys2Proof/Machine/Faults.lean ====
section
/-! DEFINITION. Fault tasks: their forming, routing, escalation and pending queue, kills and deadlines of records, the
barrier watchdog, the stalemate monitor and the freeze of a context (R438 to R443, R458, R459, R467 to R477, R532, R533,
R542). -/

namespace Sys2Proof.Machine

/-! ### Reads and writes by the part itself -/

/-- Bytes read at a VA of a context by the Deck or the front end of a die: no core's TLB or L1 takes part. -/
def State.engRead (s : State) (die c va n : Nat) : State × (FaultInfo ⊕ List Byte) :=
  let (s', r) := ({ s with cores := [] }).vaRead (if die = 0 then 0 else 96) c va n
  ({ s' with cores := s.cores }, r)

/-- Bytes written at a VA of a context by the front end or an engine. -/
def State.engWrite (s : State) (die c va : Nat) (bs : List Byte) : State × Option FaultInfo :=
  let (s', r) := ({ s with cores := [] }).vaWrite (if die = 0 then 0 else 96) c va bs
  ({ s' with cores := s.cores }, r)

/-- The front end's synchronising access at SYSTEM scope leaves its scope record at the word's line (R160). -/
def State.feMark (s : State) (c va : Nat) : State :=
  match ({ s with cores := [] }).xlateRun 0 c .load {} va 1 with
  | (s', .inr (p :: _)) =>
    let s' := { s' with cores := s.cores }
    let a := homeG (p.base + va % 65536)
    if p.ap = 0 then s'.setScope (a / 128) .frontEnd 5
    else if p.ap = 1 then s'.setScope (homeP p.peer a / 128) .frontEnd 5
    else s'
  | _ => s

/-- Bytes written by the front end as a release at SYSTEM scope, which leaves its scope record at every line (R160): the packets a
peer is to acknowledge, none when they do not translate. -/
def State.feWriteN (s : State) (c va : Nat) (bs : List Byte) : State × Option (List Wd) :=
  match ({ s with cores := [] }).xlateRun 0 c .store {} va (pagesOf va bs.length) with
  | (s', .inl _) => ({ s' with cores := s.cores }, none)
  | (s', .inr ps) =>
    let (s, acks) := ({ s' with cores := s.cores }).writeAcked c ps va bs
    ((List.range ((va + bs.length - 1) / 128 - va / 128 + 1)).foldl
        (fun (s : State) i => s.feMark c (max va ((va / 128 + i) * 128))) s,
      some (acks.map (fun (a : Wd × Nat) => a.1)))

/-! ### Forming a fault task (R470, Table 16-6, R47) -/

/-- The context, priority and place a handler descriptor gives (Table 13-9). -/
def descPeer (d : List Dw) : Option Nat := if flag (d.getD 0 0) 62 then some (fld (d.getD 0 0) 56 48) else none

/-- The Deck record of a fault task (Table 16-6). -/
def State.faultDws (s : State) (r : Rec) (cls : FaultClass) (d : List Dw) : List Dw :=
  let x := d.getD 0 0
  let w (n : Nat) : Dw := BitVec.ofNat 64 n
  [ w (2 * 2 ^ 62 + fld x 47 45 * 2 ^ 59 + fld x 44 42 * 2 ^ 51 + b2n (flag x 63) * 2 ^ 50 + fld (d.getD 1 0) 51 2),
    w (fld x 41 38 * 2 ^ 60 + fld x 37 33 * 2 ^ 55 + fld x 31 24 * 2 ^ 32),
    w (fld x 11 0 * 2 ^ 52 + r.deadline % 2 ^ 44),
    d.getD 3 0, s.handle r, w (cls.code + r.depth * 2 ^ 8 + s.modl.modNo * 2 ^ 10), 0, 0 ]

/-- The extension of a fault task, if it has one: none when it cannot be read or is malformed (R47). -/
def State.faultExt (s : State) (die : Nat) (dws : List Dw) : State × Option (Option (List Dw)) :=
  if !taskXd dws then (s, some none)
  else if taskEntry dws % 64 ≠ 0 then (s, none)
  else
    match s.engRead die (taskCtx dws) ((taskEntry dws + 2 ^ 52 - 64) % 2 ^ 52) 64 with
    | (s, .inl _) => (s, none)
    | (s, .inr bs) => if extBad 1 (leDws 8 bs) then (s, none) else (s, some (some (leDws 8 bs)))

/-- A fault task kept pending goes to its module's fault bank, if it can (R470, R472). -/
def State.sendPend (s : State) (p : PendTask) : State :=
  match s.recs.find? (fun (r : Rec) => r.id == p.bar) with
  | none => { s with pend := s.pend.filter (fun (x : PendTask) => x != p) }
  | some r =>
    let dws := s.faultDws r p.cls p.desc
    let peer := if p.cls = .unserviceable then none else (descPeer p.desc).filter (fun m => m != s.modl.modNo)
    match peer with
    | some m =>
      let (s, id) := s.fresh
      let rid : Wd := BitVec.ofNat 32 id
      let s := { s with pend := s.pend.map (fun (x : PendTask) => if x = p then { x with sent := some s.clk, rid := rid } else x) }
      let remain := if r.deadline = 0 then 0 else max 1 (r.deadline - s.usec)
      if s.modl.modules.contains m then
        (s.putRec { r with far := some m }).sendLane r.ctx m rid (.faultTask dws (s.sealedCtx r.ctx) remain)
      else
        ({ s with pend := s.pend.filter (fun (x : PendTask) => !(x.bar == p.bar && x.cls == p.cls)) }).escalateRec r p.cls
    | none =>
      match s.bankFree r.die 16 with
      | none => s
      | some (die, bank, i) =>
        let s := { s with pend := s.pend.filter (fun (x : PendTask) => x != p) }
        if (s.ctx (taskCtx dws)).rst ≠ 0 then s.escalateRec r p.cls else
        match s.faultExt die dws with
        | (s, none) => s.escalateRec r p.cls
        | (s, some ext) => (s.addTask die bank i dws ext).1

/-- Where a pending fault task goes: another module, or the fault bank of a die (R470, R472). -/
def State.pendDest (s : State) (p : PendTask) : Nat :=
  let peer := if p.cls = .unserviceable then none else (descPeer p.desc).filter (fun m => m != s.modl.modNo)
  match peer with
  | some m => 2 + m
  | none => ((s.recs.find? (fun (r : Rec) => r.id == p.bar)).map (·.die)).getD 0

/-- The first of the pending fault tasks for a place, in order of PARKT (R470). -/
def State.nextPend (s : State) (dest : Nat) : Option PendTask :=
  minBy (fun (p : PendTask) => p.parkt * 2 ^ 64 + p.bar)
    (s.pend.filter (fun (p : PendTask) => p.sent.isNone && s.pendDest p == dest))

/-- The first pending fault task for a place sent, as far as it can be. -/
def State.sendNext (s : State) (dest : Nat) : State :=
  match s.nextPend dest with
  | some p => s.sendPend p
  | none => s

/-- FAULT_TASK_RAISE (R470, R471): the record's fault task is formed once what it waits for is performed. -/
def execFaultTaskRaise (record : Nat) (s : State) : Out :=
  match s.recs.find? (fun (r : Rec) => r.id == record) with
  | none => .next s
  | some r =>
    if r.raised || r.waits ≠ [] || r.st == .member then .next s
    else
      let s := s.putRec { r with raised := true }
      match r.entry with
      | some d =>
        let p : PendTask := { bar := r.id, cls := r.frz.getD r.fault.cls, desc := d, parkt := r.parkt, escalated := false, sent := none }
        .next ({ s with pend := s.pend ++ [p] }.sendNext (s.pendDest p))
      | none =>
        if r.fault.cls = .watchdog ∨ r.fault.cls = .stalemate then .next (s.askReset r.ctx)
        else if r.fault.cls = .deadlineExpired then .next (s.freeRec r)
        else .next (s.escalateRec r r.fault.cls)

/-! ### Fault tasks of other modules (R472, R475) -/

/-- A fault task of another module, received at `since`, is accepted into the fault bank of a die, if one has room: its DEADLINE
in this module's clock (R475). It is refused for its extension (R47), and for a context that is not enabled or in reset
(R444, R472). -/
def State.acceptTask (s : State) (dws : List Dw) (remain since : Nat) : State × Option Bool :=
  if !(s.ctx (taskCtx dws)).en || (s.ctx (taskCtx dws)).rst ≠ 0 then (s, some false) else
  match (s.bankFree 0 16).orElse (fun _ => s.bankFree 1 16) with
  | none => (s, none)
  | some (die, bank, i) =>
    let dl := if remain = 0 then 0 else (since / Config.clkPerUs + remain) % 2 ^ 44
    let dws := dws.set 2 (setFld (dws.getD 2 0) 43 0 dl)
    match s.faultExt die dws with
    | (s, none) => (s, some false)
    | (s, some ext) => ((s.addTask die bank i dws ext).1, some true)

/-- The answer to a fault task of another module. -/
def State.answerTask (s : State) (p : Packet) (dws : List Dw) (ok : Bool) : State :=
  s.sendLane 0 p.src p.rid (.taskReply (dws.getD 4 0) ok) (some (taskCtx dws))

/-- A fault task received and not yet accepted or refused takes a record that freed. -/
def State.takeIn (s : State) (p : Packet) (m : LaneMsg) (since : Nat) : State :=
  match m with
  | .faultTask dws _ remain =>
    match s.acceptTask dws remain since with
    | (s, none) => s
    | (s, some ok) =>
      ({ s with inTasks := s.inTasks.filter (fun x => !(x.1 == p && x.2.1 == m)) }).answerTask p dws ok
  | _ => s

/-- PENDING_FAULT_TASK_SEND (R470): of this module's pending fault tasks for each place the first in order of PARKT; then, of
those received from other modules, the one that has waited longest. -/
def execPendingFaultTaskSend (s : State) : Out :=
  let s := ((s.pend.map s.pendDest).dedup).foldl State.sendNext s
  match s.inTasks with
  | [] => .next s
  | x :: _ => .next (s.takeIn x.1 x.2.1 x.2.2)

/-- FAULT_BANK_FULL_REFUSAL (R472): the bank has stayed full for longer than 20 µs. -/
def execFaultBankFullRefusal (message : Nat) (s : State) : Out :=
  match s.inTasks[message]? with
  | none => .next s
  | some (p, m, since) =>
    if 20 * Config.clkPerUs < s.clk - since ∧ (s.bankFree 0 16).isNone ∧ (s.bankFree 1 16).isNone then
      match m with
      | .faultTask dws _ _ =>
        .next (({ s with inTasks := s.inTasks.eraseIdx message }).answerTask p dws false)
      | _ => .next s
    else .next s

/-! ### Kills (R411, R474) -/

/-- Parked work killed as PKKILL kills it (R68, R356, R361). -/
def State.killWork (s : State) (r : Rec) : State :=
  match r.kind with
  | .team =>
    match s.team r.team with
    | some t => if t.st = .parked r.id then s.killTeam { t with pc := r.pc } else s
    | none => s
  | .tile o => (match s.tileOp o.id with
    | some x => s.killTile x
    | none => s)
  | .seg o x => s.killSeg o.id x.no

/-- A live record becomes a kill report at its index, with a new generation (R474). -/
def State.toReport (s : State) (r : Rec) (f : FaultInfo) : State :=
  let s := (s.freeRec r).promote r
  let n := s.newRec r.kind f r.ctx r.gslot r.depth r.origin r.tid
  (s.placeRec { n with team := r.team, pc := r.pc, woff := r.woff, rimg := r.rimg, imgva := r.imgva, spill := r.spill,
                       st := .report, parts := 1, pool := r.pool, erst := r.erst, ids := r.ids, guid := r.guid, tuid := r.tuid,
                       ov := r.ov } r.die r.idx).1

/-- The deadline of a record has come: its work is killed and a report formed; a report is freed (R474, Table 16-8). -/
def State.expire (s : State) (r : Rec) : State :=
  if r.st = .report then s.freeRec r else (s.killWork r).toReport r (mkF .deadlineExpired .none r.deadline 0)

/-- RECORD_DEADLINE_EXPIRY (R474). -/
def execRecordDeadlineExpiry (record : Nat) (s : State) : Out :=
  match s.recs.find? (fun (r : Rec) => r.id == record) with
  | none => .next s
  | some r => if r.deadline ≠ 0 ∧ r.deadline ≤ s.usec then .next (s.expire r) else .next s

/-! ### Freezing a context (R439, R443, R542, R532) -/

/-- A team waits for an answer, for an instruction that completes before the team is parked (R542). -/
def Wait.asks : Wait → Bool
  | .lane _ _ _ => true
  | .sys => true
  | .drain _ _ _ => true
  | _ => false

/-- The context of a barrier. -/
def State.barCtx (s : State) (b : Barrier) : Option Nat :=
  match b.key with
  | .group g _ => (s.group g).map (·.ctx)
  | .cluster n _ _ => ((s.launch n).map (·.ctx)).orElse (fun _ => (s.task n).map (fun t => taskCtx t.dws))
  | .launch n _ => ((s.launch n).map (·.ctx)).orElse (fun _ => (s.task n).map (fun t => taskCtx t.dws))

/-- The word offset behind the instructions left of a clause (R208); `n` bounds the words. -/
def clauseEnd : List Wd → Nat → Nat → Nat
  | _, 0, off => off
  | [], _, off => off
  | w :: r, n + 1, off => if isPfx w then clauseEnd r (n + 1) (off + 1) else clauseEnd r n (off + 1)

/-- A descheduled team where a freeze, or the loss of an access it waits for, parks it (R464, R542): where it stands; from a
barrier at the clause boundary that follows, with the clause's later instructions not run (R532; DEDUCED,
notes/assumptions/94.md). -/
def Team.parkPoint (t : Team) : Team :=
  match t.st, t.clause with
  | .wait (.barrier _), some c =>
    { t with pc := t.pc + BitVec.ofNat 64 (4 * clauseEnd (c.words.drop (t.woff - 1)) c.left t.woff), woff := 0, clause := none,
             src := none }
  | _, _ => t

/-- The teams of a context that are not of a handler. -/
def State.ordinary (s : State) (c : Nat) : List Team := s.teams.filter (fun (t : Team) => s.ctxOf t == c && !t.handler)

/-- What a freeze does to a team (R439, R542): descheduled or at a clause boundary it parks; one that waits for an answer parks
behind its instruction. -/
def State.freezeTeam (x : State × Freeze) (t : Team) : State × Freeze :=
  let (s, z) := x
  let gone : Freeze := { z with parked := z.parked ++ [t.key] }
  match t.st with
  | .wait w =>
    if w.asks then
      let at_ := match w with
        | .drain _ _ _ => (t.key, t.pc, 2 ^ 16)
        | _ => (t.key, t.pc, t.woff)
      (s, if z.asked.any (fun a => a.1 == t.key) then z else { z with asked := z.asked ++ [at_] })
    else (s.park t.parkPoint z.f, gone)
  | .running =>
    match z.asked.find? (fun a => a.1 == t.key) with
    | some (_, pc, woff) => if t.pc = pc ∧ t.woff = woff then (s, z) else (s.park t z.f, gone)
    | none => if t.clause.isNone && t.woff == 0 then (s.park t z.f, gone) else (s, z)
  | .swapped => (s.formRec t z.f, gone)
  | _ => x

/-- A team that a freeze has still to park, or that is parking. -/
def Team.going (t : Team) : Bool :=
  match t.st with
  | .running => true
  | .wait _ => true
  | .swapped => true
  | .parking _ => true
  | _ => false

/-- A freeze of a context begins: no work of it starts, and its barrier timers are held (R439, R440) (DEDUCED, notes/assumptions/47.md). -/
def State.beginFreeze (s : State) (c : Nat) (f : FaultInfo) (bar : Option BarrierKey) : State :=
  if (s.ctx c).freeze.isSome ∨ (s.ctx c).rst ≠ 0 then s else
  let z : Freeze := { f := f, bar := bar, usec := s.usec, parked := [], asked := [] }
  { s with bars := s.bars.map (fun (b : Barrier) => if s.barCtx b = some c then { b with start := none } else b) }.modCtx c
    (fun x => { x with frozen := some f.cls, freeze := some z })

/-- The record of a team parked. -/
def State.recOfTeam (s : State) (k : Nat) : Option Rec :=
  (s.team k).bind (fun t =>
    match t.st with
    | .parked r => s.recs.find? (fun (x : Rec) => x.id == r)
    | _ => none)

/-- The one fault task of a freeze: it names the record of the lowest team identifier; with no entry, or with no team
parked, the context is reset (R439, R443). -/
def State.raiseFreeze (s : State) (c : Nat) (f : FaultInfo) (ks : List (Nat × Nat)) : State :=
  if (s.ctx c).rst ≠ 0 then s else
  match s.entry c f.cls.code, (minBy (fun (k : Nat × Nat) => k.2 * 2 ^ 20 + k.1) ks).bind (fun k => s.recOfTeam k.1) with
  | some d, some r => s.putRec { r with raised := false, entry := some d }
  | _, _ => s.askReset c

/-! ### The barrier watchdog (R438, R439, Table 14-8) -/

/-- A team is excused: it waits on a peer that has announced recovery (R441). -/
def State.excused (s : State) (t : Team) : Bool :=
  match t.st with
  | .wait (.fabric p) => decide (s.clk < (s.peer p).annUntil)
  | .wait (.waitaPeer p _) => decide (s.clk < (s.peer p).annUntil)
  | _ => false

/-- The launch of a barrier is in gang placement: groups of it are pending. -/
def State.gangPending (s : State) (n : Nat) : Bool :=
  match s.launch n with
  | some l => launchGang l.dws ≠ 0 && ((s.nextGroup l).isSome || !l.resv.isEmpty)
  | none => false

/-- The number of the launch or task of a barrier. -/
def State.barNum (s : State) : BarrierKey → Nat
  | .group g _ => (s.groupAt g).origin.num
  | .cluster n _ _ => n
  | .launch n _ => n

/-- A member of a barrier ended with its group and had not arrived. -/
def State.barGone (s : State) (b : Barrier) : Bool :=
  let out (x : Nat × Nat × List (Nat × EndHow)) : Bool := x.2.2.any (fun e => !b.arrived.contains e.1)
  match b.key with
  | .group _ _ => false
  | .cluster n c _ => (s.launch n).any (fun l => l.ended.any (fun x => x.2.1 == c && out x))
  | .launch n _ => (s.launch n).any (fun l => l.ended.any out)

/-- The timer of a phase is held: every member that has not arrived is pending in a gang placement, or excused (R438). -/
def State.barHeld (s : State) (b : Barrier) : Bool :=
  let late := s.teams.filter (fun (t : Team) => s.ofBarrier b.key t && !b.arrived.contains t.tid)
  let pend := (match b.key with
    | .group _ _ => false
    | _ => !s.allStarted (s.barNum b.key))
  !s.barGone b && late.all (fun (t : Team) => s.excused t) && (pend || late ≠ []) && (!pend || s.gangPending (s.barNum b.key))

/-- One entry of the diagnostic record for a member not arrived: TID, STATE, REF. -/
structure DiagEntry where
  tid : Nat
  st : Nat
  ref : Nat
  deriving DecidableEq, Repr

/-- How a team not arrived is listed; `fresh`: keys of the teams this watchdog parked. -/
def State.diagTeam (s : State) (fresh : List Nat) (t : Team) : DiagEntry :=
  match t.st with
  | .ended (.exited pc) => { tid := t.tid, st := 1, ref := pc.toNat }
  | .ended (.killed pc) => { tid := t.tid, st := 5, ref := pc.toNat }
  | .ended .lost => { tid := t.tid, st := 4, ref := 0 }
  | _ => { tid := t.tid, st := if fresh.contains t.key then 0 else 3,
           ref := ((s.recOfTeam t.key).map (fun r => (s.handle r).toNat)).getD 0 }

/-- How a team of a group that ended is listed. -/
def diagEnded (x : Nat × EndHow) : DiagEntry :=
  match x.2 with
  | .exited pc => { tid := x.1, st := 1, ref := pc.toNat }
  | .killed pc => { tid := x.1, st := 5, ref := pc.toNat }
  | .lost => { tid := x.1, st := 4, ref := 0 }

/-- An entry put into its place by TID. -/
def insDiag (e : DiagEntry) : List DiagEntry → List DiagEntry
  | [] => [e]
  | x :: r => if e.tid < x.tid then e :: x :: r else x :: insDiag e r

/-- The teams of pending groups of a launch barrier, for at most as many groups as the record holds entries. -/
def State.diagPending (s : State) : BarrierKey → List DiagEntry
  | .launch n _ =>
    match s.launch n with
    | none => []
    | some l =>
      let on := (s.groups.filter (fun (g : Group) => g.origin == .launch n)).map (fun (g : Group) => g.lin)
      let on := on ++ l.ended.map (·.1)
      let teams := (s.lspec l).teams
      ((List.range (min (launchSize l.dws) (4093 + on.length))).filter (fun i => !on.contains i)).flatMap (fun i =>
        (List.range teams).map (fun k => { tid := i * 16 + k, st := 2, ref := 0 }))
  | _ => []

/-- The members of a barrier that have not arrived, ascending. -/
def State.diagList (s : State) (b : Barrier) (fresh : List Nat) : List DiagEntry :=
  let here := (s.teams.filter (fun (t : Team) => s.ofBarrier b.key t)).map (s.diagTeam fresh)
  let gone : List DiagEntry := match b.key with
    | .group _ _ => []
    | .cluster n c _ => (match s.launch n with
      | some l => ((l.ended.filter (fun (x : Nat × Nat × List (Nat × EndHow)) => x.2.1 == c)).flatMap (fun (x : Nat × Nat × List (Nat × EndHow)) => x.2.2)).map diagEnded
      | none => [])
    | .launch n _ => (match s.launch n with
      | some l => (l.ended.flatMap (fun (x : Nat × Nat × List (Nat × EndHow)) => x.2.2)).map diagEnded
      | none => [])
  ((here ++ gone ++ s.diagPending b.key).filter (fun e => !b.arrived.contains e.tid)).foldr insDiag []

/-- WHERE of a barrier (Table 14-8). -/
def barWhere : BarrierKey → Nat
  | .group g _ => g
  | .cluster _ c _ => c
  | .launch _ _ => 0

/-- The diagnostic record (Table 14-8) (DEDUCED, notes/assumptions/61.md); `usec`: the timestamp at expiry. -/
def State.diagRecord (s : State) (b : Barrier) (usec : Nat) (fresh : List Nat) : List Byte :=
  let es := s.diagList b fresh
  let (lv, id) := barLevel b.key
  let n := min es.length 4092
  leBytes 8 (lv * 2 ^ 62 + id * 2 ^ 58 + barWhere b.key * 2 ^ 45) ++ leBytes 8 (usec % 2 ^ 44)
    ++ leBytes 8 (b.arrived.length * 2 ^ 32 + n) ++ leBytes 8 (b2n (4092 < es.length)) ++ List.replicate 32 0
    ++ (es.take 4092).flatMap (fun e => leBytes 8 (e.tid * 2 ^ 28 + e.st * 2 ^ 24) ++ leBytes 8 e.ref)

/-- The VA of the diagnostic record, none when the context has no save areas (R439, R394). -/
def State.diagVa (s : State) (c : Nat) : Option Nat :=
  let v := (s.ctx c).save
  if fld v 63 52 = 0 then none else some ((fld v 51 16 * 65536 + 6528 * fld v 63 52 * 65536) % 2 ^ 52)

/-- The timer of a phase has run out; `State.elapsed` holds it while the context is frozen (R440). -/
def State.barLate (s : State) (b : Barrier) : Bool :=
  match b.start, s.barCtx b with
  | some at_, some c => 2 ^ fld (s.part (s.ctx c).part).mon 15 8 ≤ s.clk - at_ && !s.barHeld b && (s.ctx c).rst = 0
  | _, _ => false

/-- BARRIER_WATCHDOG_EXPIRY (R439): the freeze of the barrier's context begins. -/
def execBarrierWatchdogExpiry (barrier : BarrierKey) (s : State) : Out :=
  match s.bars.find? (fun (b : Barrier) => b.key == barrier) with
  | none => .next s
  | some b =>
    match s.barCtx b with
    | none => .next s
    | some c =>
      if !s.barLate b then .next s
      else .next (s.beginFreeze c (mkF .watchdog .none ((s.diagVa c).getD 0) 0) (some barrier))

/-- The end of a freeze: once the writes of its diagnostic record are performed, its one fault task is raised, or the context reset
(R439, R443, R533). -/
def State.closeFreeze (s : State) (c : Nat) (z : Freeze) (ks : List (Nat × Nat)) : State :=
  if z.acks ≠ [] then s else (s.modCtx c (fun x => { x with freeze := none })).raiseFreeze c z.f ks

/-- A freeze whose teams have all parked: the front end writes the diagnostic record, as a release at SYSTEM scope, and the fault
task is to name the lowest team parked, of the barrier's members if one is among them (R439, R443, R533). -/
def State.endFreeze (s : State) (c : Nat) (z : Freeze) : State :=
  let ks := (s.ordinary c).filter (fun (t : Team) => z.parked.contains t.key && (s.recOfTeam t.key).isSome)
  let pairs (ts : List Team) : List (Nat × Nat) := ts.map (fun (t : Team) => (t.key, t.tid))
  match z.bar.bind (fun k => s.bars.find? (fun (b : Barrier) => b.key == k)) with
  | none => s.closeFreeze c z (pairs ks)
  | some b =>
    let mine := ks.filter (s.ofBarrier b.key)
    let name := pairs (if mine ≠ [] then mine else ks)
    let (s, acks) : State × List Wd := match s.diagVa c with
      | some va =>
        let (s, r) := s.feWriteN c va (s.diagRecord b z.usec (ks.map (fun (t : Team) => t.key)))
        (s, r.getD [])
      | none => (s, [])
    let z := { z with ending := some name, acks := acks }
    (s.modCtx c (fun x => { x with freeze := some z })).closeFreeze c z name

/-- The freeze of a context goes on: each of its teams that can be parked is. -/
def State.freezeStep (s : State) (c : Nat) : State :=
  match (s.ctx c).freeze with
  | none => s
  | some z =>
    match z.ending with
    | some ks => s.closeFreeze c z ks
    | none =>
      let (s, z) := (s.ordinary c).foldl State.freezeTeam (s, z)
      if (s.ordinary c).any Team.going then s.modCtx c (fun x => { x with freeze := some z })
      else s.endFreeze c z

/-- Every freeze in progress goes on. -/
def State.freezeSweep (s : State) : State :=
  ((s.ctxs.filter (fun (c : Ctx) => c.freeze.isSome)).map (fun (c : Ctx) => c.id)).foldl State.freezeStep s

/-! ### The stalemate monitor (R442, R443) -/

/-- The contexts of a partition that the machine knows. -/
def State.ctxsOf (s : State) (p : Nat) : List Nat := (s.ctxs.filter (fun (c : Ctx) => c.part == p)).map (fun (c : Ctx) => c.id)

/-- A context has a resident team (DEDUCED, notes/assumptions/48.md). -/
def State.resident (s : State) (c : Nat) : Bool := s.teams.any (fun (t : Team) => s.ctxOf t == c && !t.isEnded)

/-- A context has work that holds no team: a pending group, a queued task or a fault task not served (R442). -/
def State.queuedWork (s : State) (c : Nat) : Bool :=
  s.launches.any (fun (l : Launch) => l.ctx == c && (s.nextGroup l).isSome)
    || s.tasks.any (fun (t : Task) => taskCtx t.dws == c && t.st != .running)
    || s.pend.any (fun (p : PendTask) => s.recs.any (fun (r : Rec) => r.id == p.bar && r.ctx == c))

/-- A partition has work (R442). -/
def State.hasWork (s : State) (p : Nat) : Bool :=
  (s.ctxsOf p).any (fun c =>
    s.queuedWork c || s.teams.any (fun (t : Team) => s.ctxOf t == c && !t.isEnded && !s.excused t))

/-- The window of a partition has passed with no counted event (R442). -/
def State.stale (s : State) (p : Nat) : Bool :=
  let x := s.part p
  2 ^ fld x.mon 7 0 ≤ s.clk - max x.lastEvent x.lastStale && s.hasWork p

/-- The freeze of a context by a stalemate begins (R443). -/
def State.stallCtx (s : State) (c : Nat) : State :=
  if (s.ctx c).rst ≠ 0 then s else s.beginFreeze c (mkF .stalemate .none 0 0) none

/-- STALEMATE (R443). -/
def execStalemate (part : Nat) (s : State) : Out :=
  let cs := (s.ctxsOf part).filter s.resident
  if !s.stale part then .next s
  else
    let s := s.modPart part (fun p => { p with lastStale := s.clk })
    if cs = [] then .next (((s.ctxsOf part).filter s.queuedWork).foldl State.askReset s)
    else .next (cs.foldl State.stallCtx s)

end Sys2Proof.Machine
end

