-- ==== Sys2Proof/Machine/Launch.lean ====
section
/-! DEFINITION. The distributor: launches handed over, placement in steps, gangs and their reservations, posted launches
(R33, R34, R60, R61, R421, R426 to R431, Table 14-7). -/

namespace Sys2Proof.Machine

/-! ### Launches handed to the distributor -/

/-- A launch handed to the distributor. -/
def State.handOver (s : State) (ctx : Nat) (dws : List Dw) (parents : List Nat) : State × Nat :=
  let (s, id) := s.fresh
  ({ s with launches := s.launches ++ [{ id := id, ctx := ctx, dws := dws, parents := parents, arrival := s.clk, resv := [],
                                         ended := [], kAlloc := [] }] }, id)

/-- A parent has ended (R60). -/
def State.over (s : State) : Origin → Bool
  | .launch n => (s.launch n).isNone
  | .task n => (s.task n).isNone

/-- A launch and everything posted from it have ended, and the writes of launches that ended are performed (R421). -/
def State.launchOver (s : State) (ctx n : Nat) : Bool :=
  (s.launch n).isNone && !s.launches.any (fun (l : Launch) => l.parents.contains n)
    && !s.lqs.any (fun (x : LaunchQ) => x.posted.any (fun (p : List Dw × Origin × List Nat) => p.2.2.contains n))
    && !s.acc.any (fun (a : Access) => 2 ^ 40 ≤ a.team && a.write && a.ctx == ctx)

/-- Eligible posted launches of a queue handed over in order of posting (R426); those of a disabled context are refused (DEDUCED, notes/assumptions/26.md). -/
def State.handPosted (s : State) (c q : Nat) : State :=
  match s.lq c q with
  | none => s
  | some x =>
    let go := x.posted.filter (fun (p : List Dw × Origin × List Nat) => s.over p.2.1)
    let s := s.putLq { x with posted := x.posted.filter (fun (p : List Dw × Origin × List Nat) => !s.over p.2.1) }
    if !(s.ctx c).en ∨ (s.ctx c).rst ≠ 0 then s
    else go.foldl (fun (s : State) (p : List Dw × Origin × List Nat) => (s.handOver c p.1 p.2.2).1) s

/-- POSTED_LAUNCH_HANDOVER (R426). -/
def execPostedLaunchHandover (ctx q : Nat) (s : State) : Out := .next (s.handPosted ctx q)

/-! ### Reservations (R428, R429) -/

/-- A launch replaced. -/
def State.putLaunch (s : State) (l : Launch) : State :=
  { s with launches := s.launches.map (fun (x : Launch) => if x.id = l.id then l else x) }

/-- The K allocations of a launch on clusters where it has a group or reservation. -/
def State.pruneK (s : State) (l : Launch) : Launch :=
  let on (c : Nat) : Bool :=
    l.resv.any (fun (r : Resv) => clusterOf r.core == c)
      || s.groups.any (fun (g : Group) => g.origin == .launch l.id && clusterOf g.core == c)
      || l.ended.any (fun (e : Nat × Nat × List (Nat × EndHow)) => e.2.1 == c)
  { l with kAlloc := l.kAlloc.filter (fun (k : Nat × Nat) => on k.1) }

/-- One reservation released. -/
def State.unreserve (s : State) (id lin : Nat) : State :=
  match s.launch id with
  | none => s
  | some l => s.putLaunch (s.pruneK { l with resv := l.resv.filter (fun (r : Resv) => r.lin != lin) })

/-- Every reservation of a launch released. -/
def State.unreserveAll (s : State) (l : Launch) : State := s.putLaunch (s.pruneK { l with resv := [] })

/-- Launches of a lower priority than one. -/
def State.lowerThan (s : State) (l : Launch) : List Launch :=
  s.launches.filter (fun (x : Launch) => launchPrio l.dws < launchPrio x.dws)

/-- The reservations of lower launches that a group on a core may need: those of its cluster, then those of the core. -/
def State.needed (s : State) (l : Launch) (core : Nat) : List (Nat × Nat) :=
  let all := (s.lowerThan l).flatMap (fun (x : Launch) => x.resv.map (fun (r : Resv) => (x.id, r.lin, r.core)))
  ((all.filter (fun (r : Nat × Nat × Nat) => r.2.2 != core && clusterOf r.2.2 == clusterOf core))
    ++ (all.filter (fun (r : Nat × Nat × Nat) => r.2.2 == core))).map (fun (r : Nat × Nat × Nat) => (r.1, r.2.1))

/-- Reservations released, last first, until a group fits on a core. -/
def State.freeFor (s : State) (l : Launch) (core : Nat) : Nat → State
  | 0 => s
  | n + 1 =>
    if (s.fitting (some l) (s.lspec l)).contains core then s
    else
      match (s.needed l core).getLast? with
      | none => s
      | some r => (s.unreserve r.1 r.2).freeFor l core n

/-- A hand task of a core goes before a pending group of a launch there (R431). -/
def State.taskFirst (s : State) (l : Launch) (core : Nat) : Bool :=
  ((s.core core).hand.filterMap s.task).any (fun (t : Task) =>
    let p := s.tspec t
    s.taskLive t && (t.level < launchPrio l.dws || (t.level == launchPrio l.dws && t.qtime < l.arrival))
      && p.fitsUse (s.coreUse core) (lentBytes (s.taskPart t) core) core
      && (s.kPlace none (s.taskPart t) (clusterOf core) p.kmem).isSome)

/-- A core reserved for a group. -/
def State.reserve (s : State) (l : Launch) (lin core : Nat) : State :=
  let p := s.lspec l
  let c := clusterOf core
  let kb := (s.kPlace (some l) (s.part (s.ctx l.ctx).part) c p.kmem).getD 0
  let ks := if p.kmem = 0 ∨ l.kAlloc.any (fun (k : Nat × Nat) => k.1 == c) then l.kAlloc else l.kAlloc ++ [(c, kb)]
  s.putLaunch { l with resv := l.resv ++ [{ lin := lin, core := core }], kAlloc := ks }

/-- One group placed: on a core that fits (R427), or on one that fits once lower gangs give up what it needs (R429). -/
def State.placeOne (s : State) (id : Nat) : Option State :=
  match s.launch id with
  | none => none
  | some l =>
    match s.nextGroup l with
    | none => none
    | some i =>
      let p := s.lspec l
      let pt := s.part (s.ctx l.ctx).part
      match s.chooseCore pt ((s.fitting (some l) p).filter (fun k => !s.taskFirst l k)) with
      | some k => some (s.reserve l i k)
      | none =>
        let s' := (s.lowerThan l).foldl State.unreserveAll s
        match s'.chooseCore pt ((s'.fitting (some l) p).filter (fun k => !s.taskFirst l k)) with
        | none => none
        | some k =>
          let s := s.freeFor l k ((s.needed l k).length)
          if (s.fitting (some l) p).contains k then some (s.reserve l i k) else none

/-- Up to n groups placed. -/
def State.placeUpTo (s : State) (id : Nat) : Nat → State
  | 0 => s
  | n + 1 =>
    match s.placeOne id with
    | none => s
    | some s => s.placeUpTo id n

/-! ### Starts (R428, R33, R34) -/

/-- The linear indices [lo, hi) of the gang of a group. -/
def gangRange (d : List Dw) (lin : Nat) : Nat × Nat :=
  let n := launchGang d
  if n = 0 then (lin, lin + 1) else (lin / n * n, min (launchSize d) (lin / n * n + n))

/-- The reservations of a launch whose gangs are complete. -/
def Launch.complete (l : Launch) : List Resv :=
  l.resv.filter (fun (r : Resv) =>
    let g := gangRange l.dws r.lin
    (l.resv.filter (fun (x : Resv) => decide (g.1 ≤ x.lin) && decide (x.lin < g.2))).length == g.2 - g.1)

/-- A reserved group starts. -/
def State.startOne (s : State) (id : Nat) (r : Resv) : State :=
  match s.launch id with
  | none => s
  | some l =>
    let (dx, dy, _) := launchGrid l.dws
    let c := clusterOf r.core
    let kb := ((l.kAlloc.find? (fun (k : Nat × Nat) => k.1 == c)).map (fun (k : Nat × Nat) => k.2)).getD 0
    let used := s.groups.any (fun (g : Group) => g.origin == .launch id && clusterOf g.core == c)
      || l.ended.any (fun (e : Nat × Nat × List (Nat × EndHow)) => e.2.1 == c)
    let s := s.putLaunch { l with resv := l.resv.filter (fun (x : Resv) => x.lin != r.lin) }
    (s.startGroup (s.lspec l) (.launch id) r.lin (r.lin % dx) (r.lin / dx % dy) (r.lin / (dx * dy)) r.core kb (!used)).1

/-- The complete gangs of a launch start. -/
def State.startGangs (s : State) (id : Nat) : State :=
  match s.launch id with
  | none => s
  | some l => l.complete.foldl (fun (s : State) (r : Resv) => s.startOne id r) s

/-- The launch that the distributor of a partition places next: in order of priority, then of arrival (R427) (DEDUCED, notes/assumptions/25.md). -/
def State.headLaunch (s : State) (part : Nat) : Option Launch :=
  minBy (fun (l : Launch) => launchPrio l.dws * 2 ^ 64 + l.arrival)
    (s.launches.filter (fun (l : Launch) =>
      (s.ctx l.ctx).part == part && s.launchLive l && (s.nextGroup l).isSome))

/-- PLACEMENT_STEP (R428): up to 16 groups of the launch are reserved, and what may start starts. -/
def execPlacementStep (part : Nat) (s : State) : Out :=
  match s.headLaunch part with
  | none => .next s
  | some l => .next ((s.placeUpTo l.id 16).startGangs l.id)

/-! ### Events during placement (Table 14-7) -/

/-- Cores of the same kind in the same cluster. -/
def siblings (core : Nat) : List Nat :=
  if core < 192 then ((List.range 8).map (fun i => core / 8 * 8 + i)).filter (fun k => k != core) else []

/-- The reservations of a launch on a core move to siblings; where one does not fit, every reservation is released. -/
def State.moveResv (s : State) (core id : Nat) : State :=
  match s.launch id with
  | none => s
  | some l =>
    let go := l.resv.filter (fun (r : Resv) => r.core == core)
    if go = [] then s else
    let s1 := s.putLaunch { l with resv := l.resv.filter (fun (r : Resv) => r.core != core) }
    let out : Option State := go.foldl (fun (o : Option State) (r : Resv) =>
      o.bind (fun (s : State) =>
        (s.launch id).bind (fun (l : Launch) =>
          ((siblings core).find? (fun k => (s.fitting (some l) (s.lspec l)).contains k)).map (fun k => s.reserve l r.lin k))))
      (some s1)
    match out with
    | some s => s
    | none => s.unreserveAll l

/-- The reservations held on a core that takes no more work move or are released. -/
def State.clearResv (s : State) (core : Nat) : State :=
  (s.launches.map (fun (l : Launch) => l.id)).foldl (fun (s : State) i => s.moveResv core i) s

/-- A launch has started a group. -/
def State.begun (s : State) (l : Launch) : Bool :=
  l.ended ≠ [] || s.groups.any (fun (g : Group) => g.origin == .launch l.id)

/-- The reservations of a context are released, and its launches that have not started are discarded. -/
def State.discard (s : State) (c : Nat) : State :=
  let s := (s.launches.filter (fun (l : Launch) => l.ctx == c)).foldl State.unreserveAll s
  { s with launches := s.launches.filter (fun (l : Launch) => l.ctx != c || s.begun l) }

end Sys2Proof.Machine
end

