-- ==== Sys2Proof/Machine/FrontEnd.lean ====
section
/-! DEFINITION. The front end: launch queues, link words, sequence checks, fetching ahead, the packets of a command chain
and command faults (R413 to R426, R536, R537, Tables 14-1 to 14-5). -/

namespace Sys2Proof.Machine

/-! ### Memory as the front end sees it (R414, R418) -/

/-- A doubleword read as an acquire. -/
def State.feRead (s : State) (c va : Nat) : State × Option Dw :=
  match s.engRead 0 c va 8 with
  | (s, .inl _) => (s, none)
  | (s, .inr bs) => (s.feMark c va, some (BitVec.ofNat 64 (leNat bs)))

/-- A link word read: an acquire when V = 1 (R418). -/
def State.feLink (s : State) (c va : Nat) : State × Option Dw :=
  match s.engRead 0 c va 8 with
  | (s, .inl _) => (s, none)
  | (s, .inr bs) =>
    let w : Dw := BitVec.ofNat 64 (leNat bs)
    (if flag w 63 then s.feMark c va else s, some w)

/-- A doubleword written as a release: the packets a peer is to acknowledge, none when it does not translate. -/
def State.feWrite (s : State) (c va : Nat) (v : Dw) : State × Option (List Wd) := s.feWriteN c va (leBytes 8 v.toNat)

/-- A field of a queue page written (Table 14-1); the queue awaits what a peer is to acknowledge of it before its next packet
or release (R166). -/
def State.fePage (s : State) (x : LaunchQ) (off : Nat) (v : Dw) : State :=
  let (s, acks) := s.feWrite x.ctx (x.page + off) v
  match s.lq x.ctx x.q with
  | some y => s.putLq { y with acks := y.acks ++ acks.getD [] }
  | none => s

/-- STATE, CODE and PVA written. -/
def State.feState (s : State) (x : LaunchQ) : State :=
  (s.putLq x).fePage x 0x10 (BitVec.ofNat 64 (x.state * 2 ^ 60 + x.code * 2 ^ 52 + x.pva % 2 ^ 52))

/-- A queue that stops: nothing of its chain is kept (notes/assumptions/33.md). -/
def LaunchQ.stop (x : LaunchQ) (state code pva : Nat) : LaunchQ :=
  { x with state := state, code := code, pva := pva, frames := [], cur := none, reread := 0, sigs := [], acks := [],
           sigDue := false }

/-- A command fault (R423, R519). -/
def State.feFault (s : State) (x : LaunchQ) (code pva : Nat) : State :=
  (s.feState (x.stop 2 code pva)).notify (x.ctx * 2 ^ 52 + x.q * 2 ^ 48 + code * 2 ^ 40) (pva % 2 ^ 52)
    (s.ctx x.ctx).part

/-! ### Packets (R416, R417, R420) -/

/-- LEN of a TYPE (Table 14-3); 0: reserved. -/
def pktLen : Nat → Nat
  | 1 => 13
  | 2 => 4
  | 3 => 4
  | 4 => 3
  | 5 => 4
  | 6 => 4
  | 7 => 2
  | 8 => 3
  | 9 => 2
  | 10 => 3
  | _ => 0

/-- TYPE of a packet. -/
def pktType (d : List Dw) : Nat := fld (d.getD 0 0) 63 56
/-- N of a packet. -/
def pktN (d : List Dw) : Nat := fld (d.getD 0 0) 47 40
/-- WAIT of a packet. -/
def pktWait (d : List Dw) : Bool := flag (d.getD 0 0) 32
/-- SEQ of a packet. -/
def pktSeq (d : List Dw) : Wd := (d.getD 0 0).setWidth 32

/-- A field of a packet is reserved, zero or unused and is not zero, or is outside its range (R420). -/
def pktBad (d : List Dw) : Bool :=
  let h := d.getD 0 0
  let t := pktType d
  let a := d.getD 1 0
  fld h 39 36 ≠ 0 || 4 ≤ fld h 35 33 || (fld h 35 33 ≠ 0 && t ≠ 3 && t ≠ 6) || (pktN d ≠ 0 && t ≠ 3 && t ≠ 4)
    || (match t with
        | 2 => a.toNat % 64 ≠ 0 || fld (d.getD 2 0) 63 32 = 0 || 65535 < fld (d.getD 2 0) 63 32
        | 3 => a.toNat % 8 ≠ 0
        | 4 => 256 ≤ a.toNat || pktN d = 0 || 8 < pktN d
        | 5 => a.toNat % 8 ≠ 0
        | 8 => a.toNat % 8 ≠ 0
        | 10 => 2 ^ 32 ≤ a.toNat
        | _ => false)

/-- What reading a packet gives: the packet, a wrong SEQ, or a command-fault code. -/
inductive PktRead where
  | ok (d : List Dw)
  | seq
  | bad (code : Nat)

/-- A packet read and checked; `exp` is the SEQ expected, none on a repeated read of a loop's body (R422) (DEDUCED, notes/assumptions/23.md). -/
def State.fePacket (s : State) (c va : Nat) (exp : Option Wd) : State × PktRead :=
  match s.engRead 0 c va 8 with
  | (s, .inl _) => (s, .bad 7)
  | (s, .inr bs) =>
    let h : Dw := BitVec.ofNat 64 (leNat bs)
    if exp.any (fun e => e != h.setWidth 32) then (s, .seq)
    else
      let n := pktLen (fld h 63 56)
      if n = 0 ∨ fld h 55 48 ≠ n then (s, .bad 2)
      else
        match s.engRead 0 c va (8 * n) with
        | (s, .inl _) => (s, .bad 7)
        | (s, .inr bs) =>
          let d := leDws n bs
          (s, if pktBad d then .bad 3 else .ok d)

/-- A link word breaks R415. -/
def linkBad (w : Dw) : Bool := fld w 62 52 ≠ 0 || fld w 5 0 ≠ 0

/-- The place of fetching after a packet: its copy's link word, if that leads on. -/
def Frame.after (f : Frame) (va : Nat) (d : List Dw) : Frame :=
  let w := d.getLastD 0
  { f with
    next := if flag w 63 && !linkBad w then some (fld w 51 0) else none
    link := va + 8 * (d.length - 1), last := va
    exp := if pktType d = 10 then (d.getD 1 0).setWidth 32 else pktSeq d + 1 }

/-- The link word of a packet just read, which leads on, is an acquire (R418). -/
def State.feLinked (s : State) (c : Nat) (f : Frame) : State := if f.next.isSome then s.feMark c f.link else s

/-- What the next fetch of a depth gives: a packet, the end of the buffer, a link word to watch, a SEQ to read again, or a
command fault with its PVA. -/
inductive Fetch where
  | pkt (va : Nat) (d : List Dw)
  | over
  | link
  | seq (va : Nat)
  | bad (code pva : Nat)

/-- The next packet of a depth fetched (R415, R417, R422). -/
def State.feNext (s : State) (c : Nat) (f : Frame) : State × Frame × Fetch :=
  if f.left = some 0 then (s, f, .over)
  else
    let (s, dst) : State × (Nat ⊕ Fetch) :=
      match f.next with
      | some va => (s, .inl va)
      | none =>
        match s.feLink c f.link with
        | (s, none) => (s, .inr (Fetch.bad 7 f.last))
        | (s, some w) =>
          if !flag w 63 then (s, .inr (if f.left.isNone then Fetch.link else Fetch.bad 5 f.last))
          else if linkBad w then (s, .inr (Fetch.bad 3 f.last))
          else (s, .inl (fld w 51 0))
    match dst with
    | .inr r => (s, f, r)
    | .inl va =>
      let f := { f with next := some va }
      match s.fePacket c va (some f.exp) with
      | (s, .bad k) => (s, f, .bad k va)
      | (s, .seq) => (s, f, .seq va)
      | (s, .ok d) => (s.feLinked c (f.after va d), { f.after va d with left := f.left.map (· - 1) }, .pkt va d)

/-- Bytes of packets. -/
def pktBytes (ps : List (Nat × List Dw)) : Nat := ps.foldl (fun a p => a + 8 * p.2.length) 0

/-- Packets fetched ahead while links lead on, up to 8 packets or 512 bytes (R419) (DEDUCED, notes/assumptions/24.md). -/
def State.feAhead (s : State) (c : Nat) (f : Frame) : Nat → State × Frame
  | 0 => (s, f)
  | n + 1 =>
    if 8 ≤ f.ahead.length then (s, f)
    else
      match s.feNext c f with
      | (s', f', .pkt va d) =>
        let f' := { f' with ahead := f.ahead ++ [(va, d)] }
        if 512 < pktBytes f'.ahead then (s, f) else s'.feAhead c f' n
      | (s', _, _) => (s', f)

/-! ### The next packet of a queue (R419, R421, R422) -/

/-- The deepest depth of a queue replaced. -/
def LaunchQ.setTop (x : LaunchQ) (f : Frame) : LaunchQ :=
  { x with frames := match x.frames with
                     | [] => [f]
                     | _ :: r => f :: r }

/-- What a fetch that gives no packet does to a queue: it waits on the link word with STATE 0, reads again, or halts. -/
def State.feStall (s : State) (x : LaunchQ) (f : Frame) (r : Fetch) : State :=
  match r with
  | .link => s.feState { x.setTop f with state := 0, pva := f.last }
  | .seq _ =>
    s.putLq (if x.reread = 0 then { x.setTop f with reread := 1, firstRead := s.clk } else x.setTop f)
  | .bad code pva => s.feFault x code pva
  | _ => s.putLq (x.setTop f)

/-- A packet becomes the one in execution, and packets are fetched ahead (R419). -/
def State.feBegin (s : State) (x : LaunchQ) (f : Frame) (va : Nat) (d : List Dw) : State :=
  let (s, f) := s.feAhead x.ctx f 8
  s.feState { x.setTop f with state := 1, pva := va, cur := some (va, d), reread := 0 }

/-- A packet taken: it begins, or it is skipped with what it would run (R422). -/
def Frame.skipped (f : Frame) (d : List Dw) : Frame :=
  { f with skip := f.skip - 1 + (if pktType d = 4 then pktN d else 0) }

/-- The queue goes on with its next packet; a skip count left at the end of a pass of a LOOP goes on into the next (DESIGN CHOICE,
notes/assumptions/106.md). -/
def State.feGo (s : State) (x : LaunchQ) : Nat → State
  | 0 => s.putLq x
  | n + 1 =>
    match x.frames with
    | [] => s.putLq x
    | f :: rest =>
      if f.body ≠ [] then
        match f.body[f.at_]? with
        | none =>
          if f.passes ≤ 1 then s.feGo (x.setTop { f with body := [], at_ := 0, passes := 0 }) n
          else s.feGo (x.setTop { f with at_ := 0, passes := f.passes - 1 }) n
        | some (va, d) =>
          let gone := d.isEmpty
          let (s, r) : State × PktRead := if gone then s.fePacket x.ctx va none else (s, .ok d)
          match r with
          | .seq => s.putLq x
          | .bad k => s.feFault x k va
          | .ok d =>
            if pktType d = 4 ∨ pktType d = 10 ∨ 512 < pktBytes (f.body.set f.at_ (va, d)) then s.feFault x 6 va
            else
              let f : Frame := { f with body := f.body.set f.at_ (va, d), at_ := f.at_ + 1 }
              let f : Frame := if gone && f.at_ == f.body.length && f.ahead.isEmpty then { f.after va d with exp := f.exp } else f
              let s := if gone then s.feLinked x.ctx (f.after va d) else s
              if f.skip = 0 then s.feBegin x f va d else s.feGo (x.setTop (f.skipped d)) n
      else
        match f.ahead with
        | (va, d) :: r =>
          let f : Frame := { f with ahead := r }
          if f.skip = 0 then s.feBegin x f va d else s.feGo (x.setTop (f.skipped d)) n
        | [] =>
          match s.feNext x.ctx f with
          | (s, f', .pkt va d) =>
            let f : Frame := f'
            if f.skip = 0 then s.feBegin x f va d else s.feGo { x.setTop (f.skipped d) with reread := 0 } n
          | (s, _, .over) => s.feGo { x with frames := rest } n
          | (s, f, r) => s.feStall x f r

/-- Steps that follow from one packet: skipped packets, ends of loops and buffers. -/
def feFuel : Nat := 4096

/-! ### The effects of packets (R422) -/

/-- What a packet does: it is done, it is held, or it meets a command fault. -/
inductive PktDone where
  | done
  | held
  | bad (code : Nat)

/-- CMP of a packet holds of a value (R420). -/
def pktCmp (d : List Dw) (m : Dw) : Bool :=
  let c := d.getD 2 0
  match fld (d.getD 0 0) 35 33 with
  | 0 => m == c
  | 1 => m != c
  | 2 => decide (m.toNat < c.toNat)
  | _ => decide (c.toNat ≤ m.toNat)

/-- LAUNCH: refused with LERR and LSEQ, or handed to the distributor (R425). -/
def State.pktLaunch (s : State) (x : LaunchQ) (d : List Dw) : State × LaunchQ × PktDone :=
  match s.launchError x.ctx d with
  | some e =>
    let x := { x with lerr := e, lseq := pktSeq d }
    let (s, acks) := s.feWrite x.ctx (x.page + 0x18) (BitVec.ofNat 64 (e * 2 ^ 56 + x.lseq.toNat))
    (s, { x with acks := x.acks ++ acks.getD [] }, .done)
  | none =>
    let (s, id) := s.handOver x.ctx d []
    (s, { x with launched := x.launched ++ [id] }, .done)

/-- A depth that begins at a packet. -/
def Frame.init (next : Option Nat) (link last : Nat) (exp : Wd) (left : Option Nat) : Frame :=
  { next := next, link := link, last := last, exp := exp, left := left, ahead := [], skip := 0, body := [], at_ := 0,
    passes := 0 }

/-- IB: the next depth opens at the buffer. -/
def State.pktIb (s : State) (x : LaunchQ) (va : Nat) (d : List Dw) : State × LaunchQ × PktDone :=
  if 3 ≤ x.frames.length then (s, x, .bad 4)
  else
    let f := Frame.init (some (d.getD 1 0).toNat) va va ((d.getD 2 0).setWidth 32) (some (fld (d.getD 2 0) 63 32))
    (s, { x with frames := f :: x.frames }, .done)

/-- The packets of the deepest depth to be skipped. -/
def LaunchQ.skip (x : LaunchQ) (n : Nat) : LaunchQ :=
  match x.frames with
  | f :: r => { x with frames := { f with skip := f.skip + n } :: r }
  | [] => x

/-- PRED. -/
def State.pktPred (s : State) (x : LaunchQ) (d : List Dw) : State × LaunchQ × PktDone :=
  match s.feRead x.ctx (d.getD 1 0).toNat with
  | (s, none) => (s, x, .bad 7)
  | (s, some m) => (s, if pktCmp d m then x.skip (pktN d) else x, .done)

/-- WAITMEM. -/
def State.pktWaitmem (s : State) (x : LaunchQ) (d : List Dw) : State × LaunchQ × PktDone :=
  match s.feRead x.ctx (d.getD 1 0).toNat with
  | (s, none) => (s, x, .bad 7)
  | (s, some m) => (s, x, if pktCmp d m then .done else .held)

/-- WRMEM: the packet completes when its write is performed (R536). -/
def State.pktWrmem (s : State) (x : LaunchQ) (d : List Dw) : State × LaunchQ × PktDone :=
  match s.feWrite x.ctx (d.getD 1 0).toNat (d.getD 2 0) with
  | (s, none) => (s, x, .bad 7)
  | (s, some acks) => (s, { x with acks := x.acks ++ acks }, .done)

/-- FFENCE in one depth: what was fetched ahead is discarded, with the held copies of body packets not yet replayed;
fetching goes on at the packet after the last one taken. -/
def Frame.fence (f : Frame) : Frame :=
  let f := { f with body := (enum f.body).map (fun (p : Nat × Nat × List Dw) =>
                      if p.1 < f.at_ then p.2 else (p.2.1, [])) }
  match f.ahead with
  | [] => f
  | (va, d) :: _ => { f with ahead := [], next := some va, exp := pktSeq d, left := f.left.map (· + f.ahead.length) }

/-- LOOP: once its N body packets have been read (R536), its passes begin; with K = 0 they are skipped. A body packet whose SEQ is
wrong is read again, on a count of its own (R417); a body cut short by its buffer's COUNT is code 6 (DESIGN CHOICE, notes/assumptions/106.md). -/
def State.pktLoop (s : State) (x : LaunchQ) (va : Nat) (d : List Dw) : State × LaunchQ × PktDone :=
  let n := pktN d
  let k := fld (d.getD 1 0) 7 0
  match x.frames with
  | [] => (s, x, .done)
  | f :: r =>
    if f.body ≠ [] then (s, x, .bad 6)
    else
      let was := f.next
      let (s, f) := s.feAhead x.ctx f 8
      let ps := f.ahead.take n
      let x := { x with frames := f :: r }
      if ps.any (fun p => pktType p.2 == 4 || pktType p.2 == 10) then
        (s, { x with pva := ((ps.find? (fun p => pktType p.2 == 4 || pktType p.2 == 10)).map (·.1)).getD va }, .bad 6)
      else if ps.length = n then
        (s, { x with frames := { f with ahead := f.ahead.drop n, body := if k = 0 then [] else ps, at_ := 0, passes := k } :: r,
                     reread := 0 }, .done)
      else
        match s.feNext x.ctx f with
        | (s, _, .pkt _ _) => (s, x, .bad 6)
        | (s, _, .over) => (s, x, .bad 6)
        | (s, _, .bad code pva) => (s, { x with pva := pva }, .bad code)
        | (s, _, .link) => (s, { x with state := 0, pva := f.last, reread := 0 }, .held)
        | (s, f', .seq v) =>
          let x := { x with frames := f' :: r }
          (s, if x.reread = 0 ∨ was ≠ some v then { x with reread := 1, firstRead := s.clk } else x, .held)

/-- The TLSIG writes whose launches have ended, in chain order: SIGCNT, the word, and once that is performed the queue page
(R414, R536). -/
def State.feSigs (s : State) (ctx q : Nat) : Nat → State
  | 0 => s
  | n + 1 =>
    match s.lq ctx q with
    | none => s
    | some x =>
      if x.acks ≠ [] then s
      else if x.sigDue then ((s.putLq { x with sigDue := false }).fePage x 0x20 x.sigcnt).feSigs ctx q n
      else
        match x.sigs with
        | [] => s
        | (pv, va, ls) :: r =>
          if !ls.all (fun l => s.launchOver ctx l) then s
          else
            let x := { x with sigs := r, sigcnt := x.sigcnt + 1, sigDue := true }
            match s.feWrite ctx va x.sigcnt with
            | (s, none) => s.feFault x 7 pv
            | (s, some acks) => (s.putLq { x with acks := acks }).feSigs ctx q n

/-- Every TLSIG write of a queue that may be made now. -/
def State.feSig (s : State) (ctx q : Nat) : State :=
  match s.lq ctx q with
  | some x => s.feSigs ctx q (2 * x.sigs.length + 2)
  | none => s

/-- The effect of a packet of each type. -/
def State.pktDo (s : State) (x : LaunchQ) (va : Nat) (d : List Dw) : State × LaunchQ × PktDone :=
  match pktType d with
  | 1 => s.pktLaunch x d
  | 2 => s.pktIb x va d
  | 3 => s.pktPred x d
  | 4 => s.pktLoop x va d
  | 5 => s.pktWrmem x d
  | 6 => s.pktWaitmem x d
  | 7 => (s, { x with frames := x.frames.map Frame.fence }, .done)
  | 8 => (s, { x with sigs := x.sigs ++ [(va, (d.getD 1 0).toNat, x.launched)] }, .done)
  | _ => (s, x, .done)

/-- The packet in execution may run: no write of the queue is under way (R536), and with WAIT every launch before it has
ended (R421); a TLSIG waits by its own rule. -/
def State.pktReady (s : State) (x : LaunchQ) (d : List Dw) : Bool :=
  x.acks.isEmpty && (!pktWait d || pktType d = 8 || x.launched.all (fun l => s.launchOver x.ctx l))

/-- A queue with no packet in execution makes the TLSIG writes that are due, and goes on with the next packet once everything it
wrote is performed (R536). -/
def State.feRest (s : State) (ctx q : Nat) : State :=
  let s := s.feSig ctx q
  match s.lq ctx q with
  | some x => if x.acks = [] ∧ x.cur = none ∧ x.state < 2 then s.feGo x feFuel else s
  | none => s

/-- A packet is done: the queue is between packets. -/
def State.feDone (s : State) (x : LaunchQ) : State :=
  (s.putLq { x with cur := none, state := 1, launched := x.launched.filter (fun l => !s.launchOver x.ctx l) }).feRest x.ctx x.q

/-- A queue stops with STATE 3: what it has fetched ahead and its posted launches go (R414, R444). -/
def State.lqHalt (s : State) (x : LaunchQ) : State := s.feState { x.stop 3 0 x.pva with posted := [], closing := false }

/-- A queue that is being disabled and whose packet has completed stops, once what it wrote is performed (R414, R536). -/
def State.lqEnd (s : State) (x : LaunchQ) : State :=
  let s := (s.putLq { x with cur := none }).feSig x.ctx x.q
  match s.lq x.ctx x.q with
  | some x => if x.closing && x.acks.isEmpty then s.lqHalt x else s
  | none => s

/-- A command fault of the packet in execution; a queue that is being disabled then stops. -/
def State.pktFault (s : State) (x : LaunchQ) (code : Nat) : State :=
  let s := s.feFault x code x.pva
  match s.lq x.ctx x.q with
  | some x => if x.closing then s.lqEnd x else s
  | none => s

/-- The packet in execution runs, if it is of a type, and the queue goes on; posted launches that may go are handed over first
(R426). -/
def State.pktRun (s : State) (ctx q ty : Nat) : State :=
  match s.lq ctx q with
  | none => s
  | some x =>
    match x.cur with
    | none => s
    | some (va, d) =>
      if pktType d ≠ ty || 2 ≤ x.state then s
      else
        let s := s.handPosted ctx q
        match s.lq ctx q with
        | none => s
        | some x =>
          if !s.pktReady x d then s
          else
            match s.pktDo x va d with
            | (s, x, .bad code) => s.pktFault x code
            | (s, x, .held) => if x.state = 0 then s.feState x else s.putLq x
            | (s, x, .done) => if x.closing then s.lqEnd x else s.feDone x

/-- LAUNCH (R422). -/
def execLaunch (ctx q : Nat) (s : State) : Out := .next (s.pktRun ctx q 1)
/-- IB (R422). -/
def execIb (ctx q : Nat) (s : State) : Out := .next (s.pktRun ctx q 2)
/-- PRED (R422). -/
def execPred (ctx q : Nat) (s : State) : Out := .next (s.pktRun ctx q 3)
/-- LOOP (R422). -/
def execLoop (ctx q : Nat) (s : State) : Out := .next (s.pktRun ctx q 4)
/-- WRMEM (R422). -/
def execWrmem (ctx q : Nat) (s : State) : Out := .next (s.pktRun ctx q 5)
/-- WAITMEM (R422). -/
def execWaitmem (ctx q : Nat) (s : State) : Out := .next (s.pktRun ctx q 6)
/-- FFENCE (R422). -/
def execFfence (ctx q : Nat) (s : State) : Out := .next (s.pktRun ctx q 7)

/-- TLSIG (R422): a packet of that type is taken up, and the writes that are due are made. -/
def execTlsig (ctx q : Nat) (s : State) : Out := .next ((s.pktRun ctx q 8).feSig ctx q)

/-- NOP, the packet (R422). -/
def execNopPacket (ctx q : Nat) (s : State) : Out := .next (s.pktRun ctx q 9)
/-- LINK (R422): NEWSEQ is the SEQ expected of the packet after it. -/
def execLink (ctx q : Nat) (s : State) : Out := .next (s.pktRun ctx q 10)

/-! ### Waking and reading again -/

/-- FRONT_END_MONITOR_WAKE (R419, R422): the link word, or the word of a WAITMEM, is read again; a queue whose writes have been
performed goes on (R536). -/
def execFrontEndMonitorWake (ctx q : Nat) (s : State) : Out :=
  match s.lq ctx q with
  | none => .next s
  | some x =>
    if (2 ≤ x.state ∧ x.closing = false) ∨ x.reread ≠ 0 then .next s
    else
      match x.cur with
      | none => .next (if x.acks ≠ [] then s else if x.closing then s.lqEnd x else s.feRest ctx q)
      | some (_, d) =>
        if pktType d = 6 ∨ x.state = 0 then .next (s.pktRun ctx q (pktType d)) else .next s

/-- The next re-read of a packet is due: re-read k begins 125 ns x k after the first read (R417). -/
def State.rereadDue (s : State) (x : LaunchQ) : Bool :=
  x.reread ≠ 0 && decide (x.reread * Config.clkPerUs ≤ 8 * (s.clk - x.firstRead))

/-- The SEQ is still wrong after re-read `was` of the packet first read at `first`. -/
def State.feMissed (s : State) (ctx q was first : Nat) : State :=
  match s.lq ctx q with
  | none => s
  | some x =>
    if x.reread ≠ was ∨ x.firstRead ≠ first ∨ 2 ≤ x.state then s
    else if was < 16 then s.putLq { x with reread := was + 1 }
    else s.feFault x 1 (((x.frames.head?).bind (fun (f : Frame) => f.next)).getD 0)

/-- COMMAND_SEQ_REREAD (R417). -/
def execCommandSeqReread (ctx q : Nat) (s : State) : Out :=
  match s.lq ctx q with
  | none => .next s
  | some x =>
    if !s.rereadDue x || !x.acks.isEmpty then .next s
    else
      let s' := match x.cur with
        | none => s.feGo x feFuel
        | some (_, d) => s.pktRun ctx q (pktType d)
      .next (s'.feMissed ctx q x.reread x.firstRead)

/-! ### Enabling and disabling a queue (R414) -/

/-- A queue enabled: SEQ0 is read, SIGCNT cleared and ROOT followed. Launches of the queue that still run hold its WAIT packets
as before (R421), and what it wrote is still awaited (DESIGN CHOICE, notes/assumptions/107.md). -/
def State.lqEnable (s : State) (ctx q : Nat) (v : Dw) : State :=
  let page := fld v 51 12 * 4096
  let x : LaunchQ :=
    { ctx := ctx, q := q, page := page, state := 0, code := 0, pva := page, lerr := 0, lseq := 0, sigcnt := 0,
      frames := [], cur := none, reread := 0, firstRead := 0, posted := []
      launched := ((s.lq ctx q).map (·.launched)).getD [], sigs := [], acks := ((s.lq ctx q).map (·.acks)).getD [] }
  let s := { s with lqs := s.lqs.filter (fun (y : LaunchQ) => !(y.ctx == ctx && y.q == q)) ++ [x] }
  match s.engRead 0 ctx (page + 8) 4 with
  | (s, .inl _) => s.feFault x 7 page
  | (s, .inr bs) =>
    ((s.putLq { x with frames := [Frame.init none page page (BitVec.ofNat 32 (leNat bs)) none] }).fePage x 0x20 0).feRest ctx q

/-- A queue disabled: the packet in execution completes first, one that is held when it goes on (R414); a LOOP whose body is not
read begins no pass (DEDUCED, notes/assumptions/33.md). -/
def State.lqDisable (s : State) (ctx q : Nat) : State :=
  match s.lq ctx q with
  | none => s
  | some x =>
    let y := { x with posted := [], closing := true }
    if x.acks ≠ [] then s.putLq y
    else if 2 ≤ x.state then s.lqHalt y
    else
      match x.cur with
      | none => s.lqHalt y
      | some (va, d) =>
        if !s.pktReady y d then s.putLq y
        else
          match s.pktDo y va d with
          | (s, z, .bad code) => s.pktFault z code
          | (s, z, .held) => if pktType d = 4 then s.lqHalt z else s.putLq z
          | (s, z, .done) => s.lqEnd z

end Sys2Proof.Machine
end

