-- ==== Sys2Proof/Machine/CtxReset.lean ====
section
/-! DEFINITION. Context reset: STOP, KILL, SETTLE, CLEAR (R444, R445, R497, Table 14-9). -/

namespace Sys2Proof.Machine

/-- STOP: the launch queues halt with STATE 3, the reservations are released, and no freeze goes on. -/
def State.rstStop (s : State) (c : Nat) : State :=
  let s := (s.lqs.filter (fun (x : LaunchQ) => x.ctx == c)).foldl State.lqHalt s
  (s.discard c).modCtx c (fun x => { x with rst := 2, freeze := none, frozen := none })

/-- KILL: every team of the context ends, and its tasks leave the hands. -/
def State.rstKill (s : State) (c : Nat) : State :=
  let s := (s.teams.filter (fun (t : Team) => s.ctxOf t == c && !t.isEnded)).foldl State.killTeam s
  let ids := (s.tasks.filter (fun (t : Task) => taskCtx t.dws == c)).map (fun (t : Task) => t.id)
  let s := { s with
    cores := s.cores.map (fun (k : Core) => { k with hand := k.hand.filter (fun i => !ids.contains i) })
    tasks := s.tasks.map (fun (t : Task) =>
      match t.st with
      | .hand _ => if taskCtx t.dws = c then { t with st := .ready } else t
      | _ => t) }
  s.modCtx c (fun x => { x with rst := 3 })

/-- The operations of the context's groups are killed; what they wrote stands. -/
def State.rstOps (s : State) (c : Nat) : State :=
  let mine (g : Nat) : Bool := (s.groupAt g).ctx == c
  let s := (s.tops.filter (fun (o : TileOp) => mine o.group)).foldl
    (fun (s : State) (o : TileOp) => if o.acks = [] then s.killTile o else s.endTile o) s
  (s.asy.filter (fun (o : AsyncOp) => mine o.group)).foldl
    (fun (s : State) (o : AsyncOp) =>
      let s := if o.segs.any (fun (x : Seg) => x.acks.isEmpty || (o.cls != 3 && x.len != 0)) then s.voidOp o.team o.group else s
      (s.putAsy { o with segs := [], fills := [] }).asySettle o.id) s

/-- Read requests of a context that have not been sent are abandoned. -/
def State.dropReads (s : State) (c : Nat) : State :=
  let keep (p : Packet) : Bool := !(p.typ == 0 && p.ctx == some c)
  { s with
    batches := (s.batches.map (fun (b : Batch) => { b with pkts := b.pkts.filter keep })).filter (fun (b : Batch) => b.pkts != [])
    peers := s.peers.map (fun (p : Peer) => { p with que := p.que.filter keep }) }

/-- Loads of other modules are abandoned: a late reply finds no access. Stores and atomics that were issued are still performed. -/
def State.rstRemote (s : State) (c : Nat) : State :=
  let s := s.dropReads c
  let s := { s with pfs := s.pfs.filter (fun (p : PfReq) => !(p.ctx == c && p.slot.isNone)) }
  (s.acc.filter (fun (a : Access) => a.ctx == c && !a.write && a.rem.any (fun (r : RemLine) => r.peer.isSome))).foldl
    (fun (s : State) (a : Access) => s.settle { a with rem := a.rem.filter (fun (r : RemLine) => r.peer.isNone) }) s

/-- Buffered reductions of the context's launches and tasks, which end, are applied (R320). -/
def State.rstDet (s : State) (c : Nat) : State :=
  (((s.det.filter (fun (e : DetEntry) => e.ctx == c)).map (fun (e : DetEntry) => e.origin.num)).dedup).foldl
    State.applyDet s

/-- SETTLE: operations end, remote requests are abandoned, and the groups go. -/
def State.rstSettle (s : State) (c : Nat) : State :=
  let s := ((s.rstOps c).rstRemote c).rstDet c
  (s.groups.filter (fun (g : Group) => g.ctx == c)).foldl State.finishGroup s

/-- A write or atomic request of a context is on its way to another module. -/
def State.writesOut (s : State) (c : Nat) : Bool :=
  let mine (p : Packet) : Bool := (p.typ == 2 || p.typ == 3) && p.ctx == some c
  s.batches.any (fun (b : Batch) => b.pkts.any mine)
    || s.peers.any (fun (p : Peer) => p.que.any mine || p.flight.any (fun (f : Flight) => mine f.p))

/-- Every write of the context is performed. -/
def State.rstSettled (s : State) (c : Nat) : Bool :=
  !s.writesOut c && !s.acc.any (fun (a : Access) => a.ctx == c && a.write)
    && !s.groups.any (fun (g : Group) => g.ctx == c)

/-- CLEAR and DONE: Deck records, launches, Bar records, deferred-free list, translations and counters of the context go.
The registers of its block take their Reset values (R9), every CTXLQq.V so 0, but for EN, which stands
(DEDUCED, notes/assumptions/9.md); the handler table, of which the spec says nothing here, stands too (the model's choice, same entry). -/
def State.rstClear (s : State) (c : Nat) : State :=
  let s := (s.recs.filter (fun (r : Rec) => r.ctx == c)).foldl State.freeRec s
  let s := ((s.tasks.filter (fun (t : Task) => taskCtx t.dws == c)).map (fun (t : Task) => t.id)).foldl State.dropTask s
  let ls := (s.launches.filter (fun (l : Launch) => l.ctx == c)).map (fun (l : Launch) => l.id)
  let s := { s with
    launches := s.launches.filter (fun (l : Launch) => l.ctx != c)
    bars := s.bars.filter (fun (b : Barrier) =>
      match b.key with
      | .group _ _ => true
      | .cluster n _ _ => !ls.contains n
      | .launch n _ => !ls.contains n)
    lqs := s.lqs.filter (fun (x : LaunchQ) => x.ctx != c)
    dfl := s.dfl.filter (fun (e : DEntry) => e.ctx != c)
    rounds := s.rounds.filter (fun (r : Round) => r.ctx != c)
    tcache := s.tcache.filter (fun (x : Nat × Nat × Nat × Nat × Dw) => x.2.1 != c)
    cores := s.cores.map (fun (k : Core) => { k with tlb := k.tlb.filter (fun (x : Nat × Nat × Nat × Dw) => x.1 != c) }) }
  (s.endRun c).modCtx c (fun x =>
    { Ctx.init c with ctl := setFld (Ctx.init c).ctl 63 63 (b2n x.en), handlers := x.handlers })

/-- CONTEXT_RESET (R444): a reset starts, unless one runs (R445). -/
def execContextReset (ctx : Nat) (s : State) : Out := .next (s.askReset ctx)

/-- CONTEXT_RESET_PROGRESS (R444): the stage a reset stands in does its work and is left when its condition holds. -/
def execContextResetProgress (ctx : Nat) (s : State) : Out :=
  match (s.ctx ctx).rst with
  | 0 => .next s
  | 1 => .next (s.rstStop ctx)
  | 2 => .next (s.rstKill ctx)
  | 3 =>
    let s := s.rstSettle ctx
    if s.rstSettled ctx then .next (s.modCtx ctx (fun x => { x with rst := 4 })) else .next s
  | _ => .next (s.rstClear ctx)

end Sys2Proof.Machine
end

