-- ==== Sys2Proof/Machine/Csr.lean ====
section
/-! DEFINITION. Control registers: addresses and reach, the values that reads return, and what a write of each does
(R386 to R398, R403, R493 to R497, R516, Tables 13-2 to 13-6, 17-4, 17-5, 18-2), with the events that such writes are. -/

namespace Sys2Proof.Machine

/-! ### Addresses and reach (R389, R390, R397) -/

/-- A control register: module, partition, context or group block, and byte offset. -/
inductive Csr where
  | modl (reg : Nat)
  | part (p reg : Nat)
  | ctx (c reg : Nat)
  | grp (g reg : Nat)
  deriving DecidableEq, Repr

/-- The register of an address (Table 13-2); none: "CSR address". -/
def State.csrAt (s : State) (x : Dw) : Option Csr :=
  let inst := fld x 27 12
  let reg := fld x 11 0
  if fld x 63 32 ≠ 0 ∨ reg % 8 ≠ 0 then none else
  match fld x 31 28 with
  | 0 => if inst = 0 ∧ reg ≤ 0x28 then some (.modl reg) else none
  | 1 => if inst < 8 ∧ reg ≤ 0x18 then some (.part inst reg) else none
  | 2 => if inst < 4096 ∧ reg ≤ 0x88 then some (.ctx inst reg) else none
  | 3 => if (s.group inst).isSome ∧ inst < 8192 ∧ reg ≤ 8 then some (.grp inst reg) else none
  | _ => none

/-- The partition a register belongs to; none: the module block. -/
def State.csrPart (s : State) : Csr → Option Nat
  | .modl _ => none
  | .part p _ => some p
  | .ctx c _ => some (s.ctx c).part
  | .grp g _ => some (s.ctx (s.groupAt g).ctx).part

/-- A register beyond the reach of a context (R389). -/
def State.csrReach (s : State) (who : Ctx) (a : Csr) (wr : Bool) : Option Detail :=
  if who.priv ≠ 1 then none
  else if (s.csrPart a).any (fun p => p != who.part) then some .csrPartition
  else
    match a with
    | .modl _ => if wr then some .csrLevel else none
    | .part _ _ => if wr then some .csrLevel else none
    | _ => none

/-- Fields of CTXCTL that are stored. -/
def ctlMask : Dw := 0xBFBFFFF0001FFFFF

/-- A context outside a sealed partition reaches beyond what R390 leaves it. -/
def State.csrSealed (s : State) (who : Ctx) (a : Csr) (v : Option Dw) : Bool :=
  let shut (p : Nat) : Bool := (s.part p).isSealed && who.part != p
  match a with
  | .ctx c 0 =>
    shut (s.ctx c).part &&
      (match v with
       | none => false
       | some v => (v ||| (1 <<< 63)) &&& ctlMask != ((s.ctx c).ctl ||| (1 <<< 63)) &&& ctlMask || (flag v 63 && !(s.ctx c).en))
  | .ctx c _ => shut (s.ctx c).part
  | .grp g 0 => shut (s.ctx (s.groupAt g).ctx).part && v.isSome
  | .grp g _ => shut (s.ctx (s.groupAt g).ctx).part
  | _ => false

/-- KID of an enclave-violation at a register. -/
def State.csrKid (s : State) : Csr → Nat
  | .ctx c _ => (s.ctx c).kid
  | .grp g _ => (s.ctx (s.groupAt g).ctx).kid
  | _ => 0

/-! ### Reads (R391 to R395, R8) -/

/-- CTXCTL as read: RST while a reset runs, SEALED of the partition. -/
def State.ctlRead (s : State) (c : Nat) : Dw :=
  let x := s.ctx c
  setFld (setFld (x.ctl &&& ctlMask) 62 62 (b2n (x.rst != 0))) 54 54 (b2n (s.part x.part).sealBit)

/-- The value a register holds. -/
def State.csrRead (s : State) : Csr → Dw
  | .modl r =>
    match r with
    | 0 => BitVec.ofNat 64 (s.modl.modNo * 2 ^ 55 + s.modl.domNo * 2 ^ 44)
    | 8 => BitVec.ofNat 64 (bits s.usec 43 0)
    | 0x10 => s.modl.fabann
    | 0x18 => s.modl.hnbase
    | 0x20 => s.modl.hnptr
    | _ => s.modl.sotab
  | .part p r =>
    let x := s.part p
    match r with
    | 0 => x.ctl
    | 8 => x.mem
    | 0x10 => x.h
    | _ => x.mon
  | .ctx c r =>
    let x := s.ctx c
    match r with
    | 0 => s.ctlRead c
    | 8 => x.pt
    | 0x10 => x.save
    | 0x18 => x.det
    | 0x20 => x.rq
    | 0x28 => x.join
    | _ => if r < 0x50 then x.lq.toList.getD ((r - 0x30) / 8) 0 else x.hr.toList.getD ((r - 0x50) / 8) 0
  | .grp g r =>
    let x := s.groupAt g
    if r = 0 then BitVec.ofNat 64 (2 ^ 63 + x.ctx * 2 ^ 51 + x.core) else x.ovReg

/-! ### The module block (R515, R516) -/

/-- A recovery announcement to every other present module (R515). -/
def State.announce (s : State) (bound : Nat) : State :=
  (s.modl.modules.filter (fun m => m != s.modl.modNo)).foldl
    (fun (s : State) m => s.sendPkts m [{ s.mkPkt 0 m 7 0 (BitVec.ofNat 32 bound) false with lane := true, ctx := none }]) s

/-- A write of FABANN. -/
def State.setFabann (s : State) (v : Dw) : Except Detail State :=
  if 500 < fld v 8 0 then .error .csrValue
  else .ok ({ s with modl := { s.modl with fabann := v &&& 0x1FF } }.announce (fld v 8 0))

/-- A write of a register of the module block. -/
def State.setModl (s : State) (r : Nat) (v : Dw) : Except Detail State :=
  match r with
  | 0x10 => s.setFabann v
  | 0x18 => .ok { s with modl := { s.modl with hnbase := v &&& 0xFFFFFFFFFFFFF000 } }
  | 0x20 =>
    if 4096 < fld v 63 48 then .error .csrValue
    else .ok { s with modl := { s.modl with hnptr := setFld s.modl.hnptr 63 32 (fld v 63 32) } }
  | 0x28 => .ok { s with modl := { s.modl with sotab := v &&& 0xFFFFFFFFFFFFF000 } }
  | _ => .ok s

/-! ### Contexts (R386, R393, R397, R493, R497) -/

/-- A context of another partition than `p` holds a KID; `sealedOnly`: of a sealed one. -/
def State.kidElse (s : State) (p kid : Nat) (sealedOnly : Bool) : Bool :=
  s.ctxs.any (fun (x : Ctx) => x.part != p && x.kid == kid && (!sealedOnly || (s.part x.part).isSealed))

/-- A KID breaks the rule of sealed partitions (R493) (DEDUCED, notes/assumptions/28.md). -/
def State.kidBad (s : State) (ctl : Dw) : Bool :=
  let p := fld ctl 59 57
  let k := fld ctl 53 48
  if k = 0 then flag ctl 63 && (s.part p).isSealed else s.kidElse p k (!(s.part p).isSealed)

/-- CTXCTL.EN goes from 0 to 1 (R497). -/
def State.ctxOn (s : State) (c : Nat) : State :=
  s.modCtx c (fun x => { x with ctl := setFld x.ctl 63 63 1, run := x.detm, voids := 0 })

/-- CTXCTL.EN goes from 1 to 0: launches not started are discarded (Table 14-7), and a determinism run ends (R497). -/
def State.ctxOff (s : State) (c : Nat) : State :=
  ((s.discard c).endRun c).modCtx c (fun x => { x with ctl := setFld x.ctl 63 63 0 })

/-- A write of CTXCTL; `sup`: by a SUPERVISOR context. -/
def State.setCtl (s : State) (sup : Bool) (c : Nat) (v : Dw) : Except Detail State :=
  let x := s.ctx c
  let same (hi lo : Nat) : Bool := fld v hi lo == fld x.ctl hi lo
  if sup && !same 61 60 then .error .csrLevel
  else if fld v 61 60 = 3 then .error .csrValue
  else if sup && !same 59 57 then .error .csrPartition
  else if x.en && !(same 61 60 && same 59 57 && same 56 56 && same 53 48) then .error .contextActive
  else if 2 ^ 20 < fld v 20 0 ∨ s.kidBad v then .error .csrValue
  else
    let s := s.modCtx c (fun x => { x with ctl := setFld (v &&& ctlMask) 63 63 (b2n x.en) })
    let s := if flag v 63 && !x.en then s.ctxOn c else if !flag v 63 && x.en then s.ctxOff c else s
    .ok (if flag v 62 then s.askReset c else s)

/-- Two ranges of H units meet. -/
def meet (a n b m : Nat) : Bool := n ≠ 0 && m ≠ 0 && a < b + m && b < a + n

/-- A write of CTXH k (R393): each doubleword of a range that becomes valid is EMPTY, and of one that is rewritten as
another range too (DESIGN CHOICE, notes/assumptions/29.md). -/
def State.setRange (s : State) (c k : Nat) (v : Dw) : Except Detail State :=
  let x := s.ctx c
  let v := v &&& 0x80003FFF1FFF0000
  let len := fld v 45 32
  let base := fld v 28 16
  let h := (s.part x.part).h
  let clash := (enum x.hr.toList).any (fun (p : Nat × Dw) =>
    p.1 != k && flag p.2 63 && meet base len (fld p.2 28 16) (fld p.2 45 32))
  if flag v 63 && (len = 0 || 8192 < len || base < fld h 28 16 || fld h 28 16 + fld h 45 32 < base + len || clash) then
    .error .csrValue
  else
    let s1 := s.modCtx c (fun x => { x with hr := Vector.ofFn (fun i => if i.val = k then v else x.hr[i]) })
    if flag v 63 && x.hr.toList.getD k 0 != v then
      .ok { s1 with futFull := s.futFull.filter (fun i => !(base * 8192 ≤ i && i < (base + len) * 8192)) }
    else .ok s1

/-- CTXRQ designates the reclaim group: waiting entries fill its queue (R336) (DEDUCED, notes/assumptions/67.md). -/
def State.setRq (s : State) (c : Nat) (v : Dw) : State :=
  (s.modCtx c (fun x => { x with rq := v &&& 0x8000000000001FFF })).reclaim c

/-- A write of CTXLQ q (R414). -/
def State.setLq (s : State) (c q : Nat) (v : Dw) : State :=
  let v := v &&& 0x800FFFFFFFFFF000
  let old := (s.ctx c).lq.toList.getD q 0
  let s := s.modCtx c (fun x => { x with lq := Vector.ofFn (fun i => if i.val = q then v else x.lq[i]) })
  if flag v 63 && !flag old 63 then (if (s.ctx c).rst = 0 then s.lqEnable c q v else s)
  else if flag old 63 && !flag v 63 then s.lqDisable c q
  else s

/-- A write of a register of a context block. -/
def State.setCtx (s : State) (sup : Bool) (c r : Nat) (v : Dw) : Except Detail State :=
  match r with
  | 0 => s.setCtl sup c v
  | 8 => .ok (s.modCtx c (fun x => { x with pt := v &&& 0xFFFFFFFFFE000 }))
  | 0x10 => .ok (s.modCtx c (fun x => { x with save := v &&& 0xFFFFFFFFFFFF0000 }))
  | 0x18 => .ok (s.modCtx c (fun x => { x with det := v &&& 0xFFFFFFFFFFFF0000 }))
  | 0x20 => .ok (s.setRq c v)
  | 0x28 => .ok (s.modCtx c (fun x => { x with join := v &&& 0xFFFF }))
  | _ => if r < 0x50 then .ok (s.setLq c ((r - 0x30) / 8) v) else s.setRange c ((r - 0x50) / 8) v

/-- A write of GRPOV (R108). -/
def State.setOv (s : State) (g : Nat) (v : Dw) : Except Detail State :=
  if 1024 < fld v 62 52 then .error .csrValue
  else .ok (s.modGroup g (fun x => { x with ovReg := v &&& 0x7FFFFFFFFFFF0000 }))

/-! ### Partitions (R392, R494, R495) -/

/-- The resources of two enabled partitions meet (R392). -/
def partsMeet (a b : Part) : Bool :=
  a.clu &&& b.clu ≠ 0 || fld a.mem 63 48 &&& fld b.mem 63 48 ≠ 0 || a.pkg &&& b.pkg ≠ 0
    || meet (fld a.h 28 16) (fld a.h 45 32) (fld b.h 28 16) (fld b.h 45 32)

/-- A partition with the given registers would meet another enabled one. -/
def State.partClash (s : State) (p : Nat) (x : Part) : Bool :=
  (enum s.parts).any (fun (q : Nat × Part) => q.1 != p && q.2.en && partsMeet x q.2)

/-- Big-endian bytes of a number. -/
def beBytes (n x : Nat) : List Byte := (leBytes n x).reverse

/-- The home of a byte of a partition's H share. -/
def Part.share (p : Part) (off : Nat) : Nat := homeH (fld p.h 28 16 * 65536 + off)

/-- The leaves of a loader's pages, and its bytes; none when a page is not a local leaf in the partition's packages. -/
def State.loaderPages (s : State) (p : Part) (c va : Nat) : Nat → Option (List Nat × List Byte)
  | 0 => some ([], [])
  | n + 1 =>
    match (s.walk c 0 va false).2 with
    | .leaf l e ea =>
      let m := 2 ^ lvlShift l
      let pa := entryPa e / m * m + va % m
      if fld e 57 56 ≤ 1 && (fld e 57 56 = 0 || fld e 55 47 = s.modl.modNo) && inPackages p.pkg pa 65536 && s.hasPa pa then
        (s.loaderPages p c (va + 65536) n).map (fun (r : List Nat × List Byte) =>
          (ea :: r.1, Mem.readN s.mem (homeG pa) 65536 ++ r.2))
      else none
    | _ => none

/-- The lowest-numbered enabled context of a partition. -/
def State.firstCtx (s : State) (p : Nat) : Option Nat :=
  ((s.ctxs.filter (fun (x : Ctx) => x.en && x.part == p)).map (fun (x : Ctx) => x.id)).min?

/-- The attestation report up to its measurement (Table 17-5). -/
def State.reportBytes (s : State) (p n usec : Nat) (x : Part) (digest : BitVec 512) : List Byte :=
  leBytes 8 (2 ^ 48 + s.modl.modNo * 2 ^ 32 + s.modl.domNo * 2 ^ 16 + p) ++ leBytes 8 (bits usec 43 0)
    ++ beBytes 64 Config.firmwareDigest.toNat ++ beBytes 64 Config.recordDigest.toNat
    ++ dwBytes [x.ctl, x.mem, x.h] ++ beBytes 64 digest.toNat ++ beBytes 132 (Config.sealPublic n).toNat
    ++ List.replicate 4 0 ++ Mem.readN s.mem (x.share 0) 64

/-- The KIDs that have a key of a sealed partition, after a sealing: fresh ones for every KID that the partition's contexts hold (Table
17-4, step 1). -/
def State.sealKeys (s : State) (p n : Nat) : List (Nat × Nat) :=
  (((s.ctxs.filter (fun (x : Ctx) => x.part == p && x.kid != 0)).map (fun (x : Ctx) => x.kid)).dedup).foldl
    (fun (ks : List (Nat × Nat)) k => upsert (fun (e : Nat × Nat) => e.1) (k, n) ks) s.modl.keys

/-- Sealing (R494, Table 17-4): fresh keys, loader digest and KID, private key, report; "seal" where the loader is not as it must be (DEDUCED, notes/assumptions/27.md). -/
def State.sealPart (s : State) (p : Nat) (x : Part) : Except Detail State :=
  let va := (s.rd64 (x.share 0x40)).toNat
  let d := s.rd64 (x.share 0x48)
  let len := fld d 31 0
  match s.firstCtx p with
  | none => .error .seal
  | some c =>
    if fld x.h 45 32 = 0 ∨ len % 65536 ≠ 0 ∨ 2 ^ 24 < len ∨ 2 ^ 52 < va + len ∨ va % 65536 ≠ 0 then .error .seal
    else
      match s.loaderPages x c va (len / 65536) with
      | none => .error .seal
      | some (eas, bs) =>
        let n := x.sealNo + 1
        let x := { x with sealNo := n }
        let s := eas.foldl (fun (s : State) ea =>
          let e := s.rd64 (homeG ea)
          s.perform (homeG ea) (leBytes 8 (setFld e 45 40 (fld d 63 58)).toNat)) s
        let key := beBytes 66 (Config.sealPrivate (n * 8 + p)).toNat ++ List.replicate 6 0
        let rep := s.reportBytes p (n * 8 + p) s.usec x (Config.sha512 bs)
        let meas := Config.sha512 rep
        let s := s.perform (x.share 0x80) key
        let s := s.perform (x.share 0x100)
          (rep ++ beBytes 64 meas.toNat ++ beBytes 132 (Config.identitySign meas).toNat)
        .ok { s with parts := s.parts.set p x, modl := { s.modl with keys := s.sealKeys p (n * 8 + p) } }

/-- Every enabled context of a partition holds a KID as a sealed partition's must (R493). -/
def State.kidsOk (s : State) (p : Nat) : Bool :=
  s.ctxs.all (fun (x : Ctx) => !(x.en && x.part == p) || (x.kid != 0 && !s.kidElse p x.kid false))

/-- EN goes from 0 to 1 with the given registers. -/
def State.partOn (s : State) (p : Nat) (x : Part) : Except Detail State :=
  if s.partClash p x then .error .partitionOverlap
  else if !x.sealBit then .ok { s with parts := s.parts.set p x }
  else if !s.kidsOk p then .error .csrValue
  else s.sealPart p x

/-- The scratchpads of a partition's clusters zeroed: C allocations and lane slices of the groups there, queues, tiles,
cluster windows. -/
def State.zeroClusters (s : State) (x : Part) : State :=
  let gs := s.groups.filter (fun (g : Group) => x.clu.testBit (clusterOf g.core))
  let s := gs.foldl (fun (s : State) (g : Group) =>
    let s := (s.zero (homeC g.slot 0) (homeC (g.slot + 1) 0)).zero (homeL (g.slot * 16) 0 0) (homeL (g.slot * 16 + 16) 0 0)
    (s.zero (homeA g.slot 0 0) (homeA (g.slot + 1) 0 0)).modGroup g.slot (fun g =>
      { g with queues := g.queues.map (fun (q : Queue) => { q with
          bad := []
          slots := q.slots.map (fun (y : QSlot) =>
            match y with
            | .full _ pf => .full 0 pf
            | z => z) }) })) s
  ((List.range 24).filter (fun c => x.clu.testBit c)).foldl
    (fun (s : State) c => s.zero (homeK c 0) (homeK (c + 1) 0)) s

/-- EN goes from 1 to 0 (R430, R495). -/
def State.partOff (s : State) (p : Nat) : State :=
  let x := s.part p
  let s := ((s.ctxs.filter (fun (c : Ctx) => c.part == p)).map (fun (c : Ctx) => c.id)).foldl State.discard s
  let s := if x.sealBit then
      let s := (s.zero (x.share 0) (x.share (fld x.h 45 32 * 65536))).zeroClusters x
      { s with modl := { s.modl with keys := s.modl.keys.filter (fun (e : Nat × Nat) => e.2 != x.sealNo * 8 + p) } }
    else s
  s.modPart p (fun x => { x with ctl := setFld x.ctl 63 63 0 })

/-- A value outside the range a field of the partition block states. -/
def partValueBad (r : Nat) (v : Dw) : Bool :=
  match r with
  | 0 => fld v 61 60 = 3
  | 0x10 => 8192 < fld v 45 32
  | 0x18 => fld v 15 8 < 20 || 40 < fld v 15 8 || fld v 7 0 < 20 || 40 < fld v 7 0
  | _ => false

/-- A write of a register of a partition block (R392); "partition active" comes before "CSR value" (DESIGN CHOICE, notes/assumptions/29.md). -/
def State.setPart (s : State) (p r : Nat) (v : Dw) : Except Detail State :=
  let x := s.part p
  let new : Part := match r with
    | 0 => { x with ctl := v &&& 0xF000000000FFFFFF }
    | 8 => { x with mem := v &&& 0xFFFFFFFFFF000000 }
    | 0x10 => { x with h := v &&& 0x3FFF1FFF0000 }
    | _ => { x with mon := v &&& 0xFFFF }
  if x.en && ({ new with ctl := setFld new.ctl 63 63 1 } != x) then .error .partitionActive
  else if partValueBad r v then .error .csrValue
  else if new.en && !x.en then s.partOn p new
  else if x.en && !new.en then .ok (s.partOff p)
  else .ok { s with parts := s.parts.set p new }

/-! ### Writes -/

/-- A register written (R397, step 6). -/
def State.csrSet (s : State) (sup : Bool) (a : Csr) (v : Dw) : Except Detail State :=
  match a with
  | .modl r => s.setModl r v
  | .part p r => s.setPart p r v
  | .ctx c r => s.setCtx sup c r v
  | .grp g r => if r = 8 then s.setOv g v else .ok s

/-- A write as an event: one that its rules refuse changes nothing. -/
def State.csrTry (s : State) (r : Except Detail State) : State :=
  match r with
  | .ok s' => s'
  | .error _ => s

/-- CONTEXT_ENABLE (R497). -/
def execContextEnable (ctx : Nat) (s : State) : Out := .next (s.csrTry (s.setCtl false ctx (setFld (s.ctx ctx).ctl 63 63 1)))

/-- CONTEXT_DISABLE (R497). -/
def execContextDisable (ctx : Nat) (s : State) : Out := .next (s.csrTry (s.setCtl false ctx (setFld (s.ctx ctx).ctl 63 63 0)))

/-- PARTITION_ENABLE (R392): a partition that is not to be sealed. -/
def execPartitionEnable (part : Nat) (s : State) : Out :=
  let x := s.part part
  if x.sealBit then .next s else .next (s.csrTry (s.setPart part 0 (setFld x.ctl 63 63 1)))

/-- PARTITION_SEAL (R494). -/
def execPartitionSeal (part : Nat) (s : State) : Out :=
  let x := s.part part
  if x.sealBit then .next (s.csrTry (s.setPart part 0 (setFld x.ctl 63 63 1))) else .next s

/-- PARTITION_DISABLE (R495). -/
def execPartitionDisable (part : Nat) (s : State) : Out :=
  .next (s.csrTry (s.setPart part 0 (setFld (s.part part).ctl 63 63 0)))

/-- H_RANGE_GRANT (R393). -/
def execHRangeGrant (ctx k : Nat) (v : Dw) (s : State) : Out := .next (s.csrTry (s.setRange ctx k v))

/-- RECLAIM_GROUP_DESIGNATE (R336). -/
def execReclaimGroupDesignate (ctx : Nat) (v : Dw) (s : State) : Out := .next (s.setRq ctx v)

/-- GROUP_OVERFLOW_WRITE (R108). -/
def execGroupOverflowWrite (group : Nat) (v : Dw) (s : State) : Out :=
  if (s.group group).isSome then .next (s.csrTry (s.setOv group v)) else .next s

/-- FABANN_WRITE (R516). -/
def execFabannWrite (bound : Dw) (s : State) : Out := .next (s.csrTry (s.setFabann bound))

/-- LAUNCH_QUEUE_ENABLE (R414). -/
def execLaunchQueueEnable (ctx q : Nat) (v : Dw) (s : State) : Out := .next (s.setLq ctx q (setFld v 63 63 1))

/-- LAUNCH_QUEUE_DISABLE (R414). -/
def execLaunchQueueDisable (ctx q : Nat) (s : State) : Out :=
  .next (s.setLq ctx q (setFld ((s.ctx ctx).lq.toList.getD q 0) 63 63 0))

end Sys2Proof.Machine
end

