-- ==== Sys2Proof/Machine/Priv.lean ====
section
/-! DEFINITION. Major 57: CSRRD, CSRWR, TLBINV, CAPRD and HREG, with the capability list (R396 to R404). -/

namespace Sys2Proof.Machine

/-! ### CSRRD and CSRWR (R397, R398) -/

/-- The first of the checks 3 to 5 of R397 that an access to a register fails, else the register. -/
def State.csrCheck (s : State) (t : Team) (x : Dw) (v : Option Dw) : FaultInfo ⊕ Csr :=
  let who := s.ctx (s.ctxOf t)
  match s.csrAt x with
  | none => .inl (mkF .protection .csrAddress x.toNat 0)
  | some a =>
    match s.csrReach who a v.isSome with
    | some d => .inl (mkF .protection d x.toNat 0)
    | none =>
      if s.csrSealed who a v then .inl (mkF .enclaveViolation .none x.toNat (s.csrKid a)) else .inr a

/-- CSRRD (R397). -/
def execCsrrd (d a : SReg) (s : State) : Out :=
  issue { sr := [a], sw := [d], eng := 5, lvl := 1 }
    (fun t s =>
      match s.csrCheck t (t.s a) none with
      | .inl f => s.park t f
      | .inr r => s.retire (t.setS d (s.csrRead r))) s

/-- CSRWR (R397, R398): earlier stores and atomics are performed first. -/
def execCsrwr (a b : SReg) (s : State) : Out :=
  issue { sr := [a, b], eng := 5, lvl := 1, stop := true }
    (fun t s =>
      match s.csrCheck t (t.s a) (some (t.s b)) with
      | .inl f => s.park t f
      | .inr r =>
        if !s.settled t.key then s.deschedule t .sys
        else
          match s.csrSet ((s.ctx (s.ctxOf t)).priv == 1) r (t.s b) with
          | .error d => s.park t (mkF .protection d (t.s a).toNat 0)
          | .ok s => s.retire ((s.team t.key).getD t)) s

/-! ### TLBINV (R401, R402) -/

/-- Pages [lo, hi) of 64 KiB meet the VAs that an entry of a level covers, whose index is that of page `p`. -/
def lvlMeets (lvl p lo hi : Nat) : Bool :=
  let k := lvlShift lvl - 16
  lo < ((p >>> k) + 1) <<< k && (p >>> k) <<< k < hi

/-- Cached translations of a context for pages [lo, hi) leave the walk units, translation caches and core TLBs. -/
def State.flush (s : State) (c lo hi : Nat) : State :=
  { s with
    tcache := s.tcache.filter (fun (x : Nat × Nat × Nat × Nat × Dw) =>
      !(x.2.1 == c && lvlMeets x.2.2.1 (x.2.2.2.1 <<< (lvlShift x.2.2.1 - 16)) lo hi))
    cores := s.cores.map (fun (k : Core) => { k with tlb := k.tlb.filter (fun (x : Nat × Nat × Nat × Dw) =>
      !(x.1 == c && (lvlMeets x.2.2.1 x.2.1 lo hi
          || (x.2.2.1 == 3 && flag x.2.2.2 39 && lo < (x.2.1 / 32 + 1) * 32 && x.2.1 / 32 * 32 < hi)))) }) }

/-- The contexts of this module that a TLBINV covers (R402). -/
def State.flushCtxs (s : State) (sc : BitVec 3) (c : Nat) : List Nat :=
  let j := fld (s.ctx c).join 15 0
  if sc = 4 ∧ j ≠ 0 then
    c :: ((s.ctxs.filter (fun (x : Ctx) => x.id != c && fld x.join 15 0 == j)).map (fun (x : Ctx) => x.id))
  else [c]

/-- The requests to other modules that segments, fills, tile operations and launch queues of contexts have outstanding (R402). -/
def State.engineRids (s : State) (cs : List Nat) : List Wd :=
  let mine (g : Nat) : Bool := cs.contains (s.groupAt g).ctx
  (s.far.filter (fun (x : FarLine) => x.waits
      && (s.asy.any (fun (o : AsyncOp) => o.id == x.op && mine o.group)
        || s.tops.any (fun (o : TileOp) => o.id == x.op && mine o.group)))).map (·.rid)
    ++ (s.asy.filter (fun (o : AsyncOp) => mine o.group)).flatMap
        (fun o => o.sent ++ o.segs.flatMap (fun (x : Seg) => x.acks.map (·.1)))
    ++ (s.lqs.filter (fun (x : LaunchQ) => cs.contains x.ctx)).flatMap (·.acks)
    ++ (s.tops.filter (fun (o : TileOp) => mine o.group)).flatMap (·.acks)

/-- The accesses and prefetches of contexts under way (R402). -/
def State.ctxIds (s : State) (cs : List Nat) : List Nat :=
  (s.acc.filter (fun (y : Access) => cs.contains y.ctx)).map (fun (y : Access) => y.id)
    ++ (s.pfs.filter (fun (p : PfReq) => cs.contains p.ctx)).map (fun (p : PfReq) => p.id)

/-- A TLBINV of DOMAIN scope of another module: the translations of the contexts here that are joined under its number go (R402;
DEDUCED, notes/assumptions/105.md). -/
def State.peerFlush (s : State) (join lo hi : Nat) : State :=
  if join = 0 then s else
  ((s.ctxs.filter (fun (c : Ctx) => fld c.join 15 0 == join)).map (fun (c : Ctx) => c.id)).foldl (fun (s : State) i => s.flush i lo hi) s

/-- TLBINV (R401, R402): it completes when the accesses translated before have completed, at DOMAIN scope on every module that may
hold a joined context. -/
def execTlbinv (sc : BitVec 3) (a b : SReg) (s : State) : Out :=
  issue { bad := if sc = 3 ∨ sc = 4 then none else some .reservedScope, sr := [a, b], eng := 5, lvl := 1, stop := true }
    (fun t s =>
      let x := t.s b
      let who := s.ctx (s.ctxOf t)
      let c := fld x 63 52
      let n := fld x 31 0
      let va := (t.s a).toNat / 65536 * 65536
      if fld x 51 32 ≠ 0 then s.park t (mkF .illegalEncoding .reservedValue 0 0)
      else if who.priv = 1 ∧ (s.ctx c).part ≠ who.part then s.park t (mkF .protection .csrPartition va 0)
      else if n ≠ 0 ∧ 2 ^ 52 < va + n * 65536 then s.park t (mkF .spaceBounds .nonCanonical (max va (2 ^ 52)) 4)
      else if !s.settled t.key then s.deschedule t .sys
      else
        let (lo, hi) := if n = 0 then (0, 2 ^ 36) else (va / 65536, va / 65536 + n)
        let cs := s.flushCtxs sc c
        let s := cs.foldl (fun (s : State) i => s.flush i lo hi) s
        let ids := s.ctxIds cs
        let rids := s.engineRids cs
        let far := if sc = 4 then s.joinedModules c else []
        if ids = [] ∧ rids = [] ∧ far = [] then s.retire t else s.retireWait t (.drain ids rids far)) s

/-! ### The capability list (R399, R400) -/

/-- The bits of a list of numbers from a base in one doubleword. -/
def bitsOf (ns : List Nat) (base : Nat) : Dw :=
  ns.foldl (fun (d : Dw) n => if base ≤ n ∧ n < base + 64 then d ||| (1 <<< (n - base)) else d) 0

/-- Fenced units of the configuration record: cores and packages that it does not enable, and the pipes, engines, bank groups,
slices and ports it fences (R399, Table 17-2). -/
def State.fencedUnits (s : State) : Nat :=
  (216 - s.modl.cores.length) + (24 - s.modl.packages.length) + s.modl.fenced.length

/-- The blocks of the list: identifier and doublewords after the header (Table 13-8); DOMSIZE counts the modules that
the record enables (DESIGN CHOICE, notes/assumptions/29.md). -/
def State.capBlocks (s : State) : List (Nat × List Dw) :=
  let w (n : Nat) : Dw := BitVec.ofNat 64 n
  let m := s.modl
  let keep := (m.cores.filter (fun k => 192 ≤ k)).map (fun k => k - 192)
  let comp := m.cores.filter (fun k => k < 192)
  [ (1, [w (2 * 2 ^ 60 + 12 * 2 ^ 52 + 8 * 2 ^ 48 + 1 * 2 ^ 44 + 32 * 2 ^ 36 + 16 * 2 ^ 28 + 128 * 2 ^ 20 + 10 * 2 ^ 16 + 1900),
         bitsOf comp 0, bitsOf comp 64, bitsOf comp 128, bitsOf keep 0]),
    (2, [w (8 * 2 ^ 48 + 0x3F * 2 ^ 40 + 7 * 2 ^ 32 + 0x3FFFFFFF)]),
    (3, w (65536 * 2 ^ 44 + 64 * 2 ^ 36 + 512 * 2 ^ 24 + 224 * 2 ^ 8 + 72) :: w (m.modNo * 2 ^ 10 + m.modules.length)
          :: (List.range 8).map (fun i => bitsOf m.modules (64 * i))),
    (4, [w (2 ^ 11 + 2 ^ 10 + 2 ^ 9 + 2 ^ 8 + 64)]),
    (5, [w 0xF]),
    (6, [w (2 ^ 25 + 2 ^ 24 + 8 * 2 ^ 16 + 32)]),
    (7, [w (10 * 2 ^ 32 + s.fencedUnits * 2 ^ 16 + 32 * 2 ^ 8 + 64)]),
    (8, [w (1536 * 2 ^ 20 + 800 * 2 ^ 4 + 4)]) ]

/-- Blocks laid out from an offset, each with its header (Table 13-7). -/
def capWords : Nat → List (Nat × List Dw) → List Dw
  | _, [] => []
  | off, (id, ws) :: r =>
    let len := ws.length + 1
    let next := if r.isEmpty then 0 else off + 8 * len
    BitVec.ofNat 64 (id * 2 ^ 48 + 2 ^ 40 + len * 2 ^ 32 + next) :: ws ++ capWords (off + 8 * len) r

/-- The doubleword at a capability offset; zero beyond the last block. -/
def State.capRead (s : State) (off : Nat) : Dw := (capWords 0 s.capBlocks).getD (off / 8) 0

/-- CAPRD (R400). -/
def execCaprd (d a : SReg) (s : State) : Out :=
  issue { sr := [a], sw := [d], eng := 5, lvl := 1 }
    (fun t s =>
      let off := (t.s a).toNat
      if off % 8 ≠ 0 then s.park t (mkF .alignment .none off 8) else s.retire (t.setS d (s.capRead off))) s

/-! ### HREG (R403, R404) -/

/-- A handler descriptor is malformed (Table 13-9). -/
def descBad (d : List Dw) : Bool :=
  let x := d.getD 0 0
  let e := (d.getD 1 0).toNat
  let bud := fld x 31 24
  fld x 61 57 ≠ 0 || 6 ≤ fld x 44 42 || 16 < fld x 37 33 || fld x 32 32 ≠ 0 || (bud ≠ 0 && (bud < 10 || 40 < bud))
    || fld x 23 12 ≠ 0 || e % 4 ≠ 0 || 2 ^ 52 ≤ e || fld (d.getD 2 0) 63 44 ≠ 0

/-- The entry of a context and class set or removed. -/
def State.setEntry (s : State) (c cls : Nat) (d : Option (List Dw)) : State :=
  s.modCtx c (fun x =>
    let rest := x.handlers.filter (fun (p : Nat × List Dw) => p.1 != cls)
    { x with handlers := match d with
                         | some d => (cls, d) :: rest
                         | none => rest })

/-- The local context in which a descriptor's handler runs. -/
def State.localHctx (s : State) (d : List Dw) : Option Nat :=
  let x := d.getD 0 0
  if flag x 62 && fld x 56 48 != s.modl.modNo then none else some (fld x 11 0)

/-- HREG (R403, R404) (DESIGN CHOICE, notes/assumptions/29.md). -/
def execHreg (d a b : SReg) (s : State) : Out :=
  issue { sr := [a, b], sw := [d], eng := 5, lvl := 1, stop := true }
    (fun t s =>
      let g := s.groupOf t
      let who := s.ctx g.ctx
      let key := t.s a
      let c := fld key 27 16
      let cls := fld key 7 0
      let va := (t.s b).toNat
      let far (x : Nat) : Bool := who.priv == 1 && (s.ctx x).part != who.part
      if va % 32 ≠ 0 then s.park t (mkF .alignment .none va 32)
      else if !s.settled t.key then s.deschedule t .sys
      else if fld key 63 28 ≠ 0 ∨ fld key 15 8 ≠ 0 then s.retire (t.setS d 1)
      else if far c then s.retire (t.setS d 2)
      else if s.sealedCtx c && (s.ctx c).part != who.part then
        s.park t (mkF .enclaveViolation .none key.toNat (s.ctx c).kid)
      else if !FaultClass.all.any (fun k => k.code == cls) then s.retire (t.setS d 3)
      else if va = 0 then (s.setEntry c cls none).retire (t.setS d 0)
      else
        match s.vaRead g.core g.ctx va 32 with
        | (s, .inl f) => s.park t f
        | (s, .inr bs) =>
          let ds := leDws 4 bs
          if descBad ds then s.retire (t.setS d 1)
          else if (s.localHctx ds).any (fun h => far h || (s.sealedCtx c && (s.ctx h).part != (s.ctx c).part)) then
            s.retire (t.setS d 2)
          else (s.setEntry c cls (some ds)).retire (t.setS d 0)) s

end Sys2Proof.Machine
end

