-- ==== Sys2Proof/Machine/Handler.lean ====
section
/-! DEFINITION. Major 58: PKRD, PKWR, PKRES, PKRETRY, PKREDIR, PKKILL (R405 to R412, R91, R459, R463, R466 to R468,
Tables 13-10 to 13-13, 15-4, 16-2 to 16-5), at the Bar of this module and over the fault lane at another's. -/

namespace Sys2Proof.Machine

/-! ### The fixed part of a record (Tables 16-2 to 16-5) -/

/-- The detail text as the spec spells it. -/
def detailText : Detail → String
  | .none => ""
  | .tileBeyondCount => "tile beyond count"
  | .reservedSrn => "reserved SRN"
  | .reservedValue => "reserved value"
  | .registerBeyondCount => "register beyond count"
  | .lateRead => "late read"
  | .notATask => "not a task"
  | .refill => "refill"
  | .clearEmpty => "clear empty"
  | .trap => "trap"
  | .engineClass => "engine class"
  | .transferNotLast => "transfer not last"
  | .scalarField => "scalar field"
  | .prefixRequired => "prefix required"
  | .headerInBody => "header in body"
  | .reservedSpace => "reserved space"
  | .reservedScope => "reserved scope"
  | .annotation => "annotation"
  | .orderedOnLoose => "ordered access on loose page"
  | .windowOnStrong => "overflow window on strong page"
  | .reservedOrd => "reserved ORD"
  | .queueAbsent => "queue absent"
  | .countBeyondDepth => "count beyond depth"
  | .nonCanonical => "non-canonical"
  | .unaligned => "unaligned"
  | .registerPair => "register pair"
  | .selector => "selector"
  | .control => "control"
  | .copyOperand => "copy operand"
  | .space => "space"
  | .collectiveDescriptor => "collective descriptor"
  | .collectiveMismatch => "collective mismatch"
  | .teamBeyondGroup => "team beyond group"
  | .timelineBeyondIssue => "timeline beyond issue"
  | .notABarrierMember => "not a barrier member"
  | .readDepth => "read depth"
  | .roundScope => "round scope"
  | .roundInsideReadSection => "round inside read section"
  | .tileInvalid => "tile invalid"
  | .tileError => "tile error"
  | .rowCrossesLine => "row crosses line"
  | .dataError => "data error"
  | .checksum => "checksum"
  | .detAreaFull => "determinism area full"
  | .returnInDeterminism => "return in determinism mode"
  | .atomicToHost => "atomic to host"
  | .privileged => "privileged instruction"
  | .notAHandler => "not a handler"
  | .csrAddress => "CSR address"
  | .csrLevel => "CSR level"
  | .csrPartition => "CSR partition"
  | .csrValue => "CSR value"
  | .partitionActive => "partition active"
  | .partitionOverlap => "partition overlap"
  | .contextActive => "context active"
  | .seal => "seal"
  | .malformedEntry => "malformed entry"
  | .apertureReserved => "APERTURE reserved"
  | .key => "key"
  | .permission => "permission"
  | .fetchAperture => "fetch aperture"
  | .saveAreaMalformed => "save area malformed"
  | .saveAreaError => "save area error"
  | .barFull => "Bar full"
  | .sealedPeer => "sealed peer"
  | .fmtA => "AFMT"
  | .fmtB => "BFMT"
  | .fmtBlk => "BLK"
  | .fmtAsc => "ASC"
  | .fmtBsc => "BSC"
  | .fmtAop => "AOP"
  | .fmtBop => "BOP"
  | .fmtSsp => "SSP"
  | .fmtSat => "SAT"

/-- STATE of a record (Table 16-8). -/
def RecSt.code : RecSt → Nat
  | .parked => 0 | .served => 1 | .member => 2 | .report => 3

/-- A doubleword of fields. -/
def ndw (n : Nat) : Dw := BitVec.ofNat 64 n

/-- The tile operation a record holds, as it stands. -/
def State.recTile (s : State) (o : TileOp) : TileOp := (s.tileOp o.id).getD o

/-- The copy segment a record holds, as it stands. -/
def State.recSeg (s : State) (r : Rec) (o : AsyncOp) (x : Seg) : Seg :=
  ((s.asyOp o.id).bind (fun y => y.segs.find? (fun (z : Seg) => z.parked == some r.id))).getD x

/-- Doublewords 0 to 11 (Table 16-2). -/
def State.commonPart (s : State) (r : Rec) : List Dw :=
  let head := ((r.head.bind (fun h => s.recs.find? (fun (x : Rec) => x.id == h))).map s.handle).getD 0
  let f := r.fault
  [ ndw (r.kind.code * 2 ^ 62 + r.st.code * 2 ^ 59 + r.depth * 2 ^ 57 + b2n (r.st == .member) * 2 ^ 56 + b2n r.erst * 2 ^ 55
      + b2n r.rimg * 2 ^ 54 + f.cls.code * 2 ^ 44 + r.ctx % 4096 * 2 ^ 32 + r.gslot % 8192),
    ndw (r.tid % 2 ^ 36 * 2 ^ 28), ndw (r.parkt % 2 ^ 44), ndw (r.deadline % 2 ^ 44), if r.st = .member then head else 0,
    r.origin, f.det0,
    ndw ((f.lane.getD 0) % 1024 * 2 ^ 54 + b2n f.lane.isNone * 2 ^ 53 + f.elem % 32 * 2 ^ 48 + f.aux % 2 ^ 48) ]
    ++ leDws 4 (((detailText f.detail).toList.map (fun c => BitVec.ofNat 8 c.toNat)) ++ List.replicate 32 0)

/-- Doublewords 12 to 31, by kind (Tables 16-3 to 16-5). -/
def State.kindPart (s : State) (r : Rec) : List Dw :=
  let own : List Dw := match r.kind with
    | .team => [ndw (r.woff % 64 * 2 ^ 58 + r.pc.toNat % 2 ^ 52), r.imgva]
    | .tile o =>
      let o := s.recTile o
      [ndw o.word.toNat] ++ (List.range 5).map (fun i => o.oprs.getD i 0)
        ++ [ndw (o.rows.toNat % 2 ^ 64), ndw (o.rows.toNat / 2 ^ 64), ndw o.num, ndw (o.tile * 2 ^ 13 + o.core)]
    | .seg o x =>
      let x := s.recSeg r o x
      [ndw (x.ssp.toNat * 2 ^ 61 + x.src.toNat % 2 ^ 52), ndw (x.dsp.toNat * 2 ^ 61 + x.dst.toNat % 2 ^ 52), ndw x.len, ndw x.b,
       ndw (o.cls * 2 ^ 62 + o.minor), ndw o.num]
  own ++ List.replicate (20 - own.length) 0

/-- The fixed part of a record: 32 doublewords, and the five lane bitmaps of an fp class (R466, R468). -/
def State.fixedPart (s : State) (r : Rec) : List Dw :=
  s.commonPart r ++ s.kindPart r
    ++ (if r.fault.cls.isFp then
          (List.range 5).flatMap (fun c => (List.range 16).map (fun k => maskDw (r.fault.fp.getD c 0) k))
        else [])

/-! ### The register image (R468) -/

/-- The image of a team record: from the save area through the context's translation, or from the spill space; with it,
whether the part holds a byte of it in error. None: it cannot be reached. -/
def State.recImage (s : State) (r : Rec) : State × Option (List Byte × Bool) :=
  if !r.rimg then (s, some (Mem.readN s.mem (homeB r.die r.imgva.toNat) r.spill, false)) else
  let va := r.imgva.toNat
  match s.engRead r.die r.ctx va 0xC40 with
  | (s, .inl _) => (s, none)
  | (s, .inr h) =>
    let n := imageMax (32 * 2 ^ min (numAt h 1 1) 5) (numAt h 0 1)
    match s.engRead r.die r.ctx va n with
    | (s, .inl _) => (s, none)
    | (s, .inr bs) =>
      let bad := match (s.xlateRun (if r.die = 0 then 0 else 96) r.ctx .load {} va (pagesOf va n)).2 with
        | .inl _ => false
        | .inr ps => (splitPages ps va bs).any (fun q => q.1.ap == 0 && s.poisoned (homeG q.2.1) q.2.2.length)
      (s, some (bs, bad))

/-- The image of a changed team: counters and timelines stay as of parking, and a dead lane's word is kept (R91). -/
def Team.reimage (t : Team) (clk : Nat) (old : List Byte) : List Byte :=
  let new := t.image clk
  new.take 0xBD0 ++ (old.drop 0xBD0).take 64 ++ (new.drop 0xC10).take 48
    ++ ((enum t.regs.v).map (fun p => vecEntry t.width 0 p.1 p.2)).flatten

/-- A changed image written back; false: it cannot be reached (R468). -/
def State.putImage (s : State) (r : Rec) (bs : List Byte) : State × Bool :=
  if r.rimg then
    match s.engWrite r.die r.ctx r.imgva.toNat bs with
    | (s, none) => (s, true)
    | (s, some _) => (s, false)
  else ({ s with mem := Mem.writeN s.mem (homeB r.die r.imgva.toNat) bs }, true)

/-! ### Selectors (R410, Table 13-12, R91) -/

/-- What a selector reads, or a status. -/
abbrev PkVal := Nat ⊕ Dw

/-- A special register of an image: counters, timelines, VCNT and PDSTATE as of parking (R66); ROLE, STAGES and the group's
index as the record holds them. -/
def State.imgSr (s : State) (r : Rec) (t : Team) (bs : List Byte) (n : Nat) : PkVal :=
  if 3 ≤ n ∧ n ≤ 7 ∧ r.ids ≠ [] then .inr (ndw (r.ids.getD (n - 3) 0))
  else if n = 0x0B then .inr (ndw (numAt bs 0 1))
  else if n = 0x0D then .inr (ndw (b2n t.pdis * 2 ^ 31 + numAt bs 0xBDC 4 % 2 ^ 21))
  else if 0x10 ≤ n ∧ n ≤ 0x13 then .inr (ndw (numAt bs (0xBD0 + 2 * (n - 0x10)) 2))
  else if 0x14 ≤ n ∧ n ≤ 0x17 then .inr (ndw (numAt bs (0xBF0 + 8 * (n - 0x14)) 8))
  else
    match s.srRead t n with
    | some x => .inr x
    | none => .inl 4

/-- PKRD of groups 1 to 7 on the team restored from the image (DESIGN CHOICE, notes/assumptions/73.md). -/
def State.imgRead (s : State) (r : Rec) (t : Team) (bs : List Byte) (grp n lane : Nat) : PkVal :=
  match grp with
  | 1 => if 64 ≤ n then .inl 4 else .inr (t.s (BitVec.ofNat 6 n))
  | 2 => if 16 ≤ n ∨ 16 ≤ lane then .inl 4 else .inr (maskDw (t.p (BitVec.ofNat 4 n)) lane)
  | 3 => s.imgSr r t bs n
  | _ =>
    if t.vcnt ≤ n ∨ (grp = 7 ∧ t.width ≤ lane) then .inl 4 else
    let v := t.v (BitVec.ofNat 7 n)
    match grp, v with
    | 4, _ => .inr (ndw (v.tag + n * 256))
    | 5, .u x => .inr (x.setWidth 64)
    | 5, _ => .inl 5
    | 6, .a b d => .inr (ndw (d.toNat * 2 ^ 32 + b.toNat))
    | 6, _ => .inl 5
    | _, _ => .inr ((v.lane lane).setWidth 64)

/-- An SRN that software may write (Table 2-2). -/
def srnWritable (n : Nat) : Bool := (8 ≤ n && n ≤ 0x0A) || (0x20 ≤ n && n < 0x30) || (0x40 ≤ n && n < 0x50)

/-- One lane of a vector register written (R91). -/
def VVal.setLane (v : VVal) (w lane : Nat) (x : Wd) : VVal :=
  match v with
  | .g xs => .g (xs.set lane x)
  | _ => if v.lane lane = x then v else .g ((v.lanes w).set lane x)

/-- PKWR of groups 1 to 7 on the team restored from the image, or a status. -/
def Team.imgWrite (t : Team) (grp n lane : Nat) (x : Dw) : Nat ⊕ Team :=
  match grp with
  | 1 => if 64 ≤ n then .inl 4 else .inr (t.setS (BitVec.ofNat 6 n) x)
  | 2 =>
    if 16 ≤ n ∨ 16 ≤ lane then .inl 4
    else .inr (t.setP (BitVec.ofNat 4 n) (0xFFFFFFFFFFFFFFFF <<< (64 * lane)) (x.setWidth 1024 <<< (64 * lane)))
  | 3 =>
    if !srnOk n then .inl 4
    else if !srnWritable n then .inl 6
    else
      match t.srWrite n x false with
      | some t => .inr t
      | none => .inl 4
  | _ =>
    if t.vcnt ≤ n ∨ (grp = 7 ∧ t.width ≤ lane) then .inl 4 else
    let r : VReg := BitVec.ofNat 7 n
    match grp with
    | 4 => if x = 2 then .inr (t.putV r (.g ((t.v r).lanes t.width))) else .inl 4
    | 5 => .inr (t.putV r (.u (x.setWidth 32)))
    | 6 => .inr (t.putV r (.a (x.setWidth 32) ((x >>> 32).setWidth 32)))
    | _ => .inr (t.putV r ((t.v r).setLane t.width lane (x.setWidth 32)))

/-- The team of a record whose own team has gone, of the width that the image gives: what the image does not hold stands at
zero. -/
def Rec.blank (r : Rec) (bs : List Byte) : Team :=
  let z : Timeline := { issued := 0, opn := [] }
  { key := r.team, uid := 0, width := 32 * 2 ^ min (numAt bs 1 1) 5, role := 0, stages := 0, tid := r.tid, place := 0,
    st := .parked r.id, pc := r.pc, woff := r.woff, next := 0, clause := Option.none, src := Option.none, nopre := 0,
    yieldNow := false, age := 0,
    regs := { s := Vector.replicate 64 0, v := [], p := Vector.replicate 16 0, exec := 0, dead := 0, deadsrc := 0, fpctl := 0,
              slim := 0, seed := 0, srctr := 0 },
    cnt := { ld := 0, st := 0, cp := 0, ti := 0 }, tl := { cpy := z, tile := z, gath := z, coll := z }, rdDepth := 0,
    pdis := false, pdLeft := 0, pdAt := 0, ovBase := 0, ovLen := 0, monitor := Option.none, handler := false, depth := r.depth,
    serving := Option.none, unserv := false, due := [], need := 0, lost := Option.none, errs := [], detSeq := 0,
    spur := Option.none, pinHeld := [] }

/-- The team of a record, as its image holds it (R467, R468); none: the image cannot be reached, or does not restore. -/
def State.imgTeam (s : State) (r : Rec) : State × Option (Team × List Byte) :=
  match s.recImage r with
  | (s, none) => (s, none)
  | (s, some (bs, _)) =>
    let t := ((s.team r.team).filter (fun t => some t.uid == r.tuid)).getD (r.blank bs)
    (s, (t.restore bs s.clk).map (fun t => (t, bs)))

/-- The group of a record's team, while it is resident. -/
def State.recGroup (s : State) (r : Rec) : Option Group := (s.group r.gslot).filter (fun g => some g.uid == r.guid)

/-- GRPOV of the group of a record's team: of a group that has ended the value it had (R410, R467; DESIGN CHOICE,
notes/assumptions/73.md); none where no group ran. -/
def State.recWindow (s : State) (r : Rec) : Option Dw :=
  match s.recGroup r with
  | some g => some g.ovReg
  | none => r.guid.map (fun _ => r.ov)

/-- An identity field (Table 13-12, group 9). -/
def identity (r : Rec) (n : Nat) : Nat :=
  match n with
  | 0 => r.ctx
  | 1 => r.gslot
  | 2 => r.tid
  | 3 => r.fault.cls.code
  | _ => r.depth

/-- PKRD at the Bar: status and value; of a group that has ended group 8 answers 4 (DESIGN CHOICE, notes/assumptions/73.md). -/
def State.pkRead (s : State) (r : Rec) (sel : Dw) : State × PkVal :=
  let grp := fld sel 63 60
  let n := fld sel 47 32
  let lane := fld sel 31 0
  if fld sel 59 48 ≠ 0 ∨ 10 ≤ grp then (s, .inl 4)
  else if grp = 0 then
    match (s.fixedPart r)[n]? with
    | some x => (s, .inr x)
    | none => (s, .inl 4)
  else if grp = 9 then (s, if 4 < n then .inl 4 else .inr (ndw (identity r n)))
  else if r.kind ≠ .team then (s, .inl 3)
  else if grp = 8 then
    match s.recWindow r, n with
    | some w, 0 => (s, .inr (ndw (fld w 51 16 * 65536)))
    | some w, 1 => (s, .inr (ndw (fld w 62 52 * 1024)))
    | _, _ => (s, .inl 4)
  else
    match s.imgTeam r with
    | (s, none) => (s, .inl 8)
    | (s, some (t, bs)) => (s, s.imgRead r t bs grp n lane)

/-- PKWR of the fixed part: the fields marked RW. -/
def State.pkWriteFixed (s : State) (r : Rec) (n : Nat) (v : Dw) : State × Nat :=
  if (s.fixedPart r).length ≤ n then (s, 4)
  else if n = 3 then
    let r := { r with deadline := fld v 43 0 }
    let s := s.putRec r
    (if r.deadline ≠ 0 ∧ r.deadline ≤ s.usec then s.expire r else s, 0)
  else
    match r.kind with
    | .tile o =>
      if 13 ≤ n ∧ n ≤ 17 then
        let o := s.recTile o
        let o := { o with oprs := (o.oprs ++ List.replicate (5 - o.oprs.length) 0).set (n - 13) v }
        ((s.putTop o).putRec { r with kind := .tile o }, 0)
      else (s, 6)
    | _ => (s, 6)

/-- GRPOV with an overflow-window field written; none: a value outside the field's limits (R379). -/
def windowSet (w : Dw) (n : Nat) (v : Dw) : Option Dw :=
  if n = 0 then
    if fld v 15 0 ≠ 0 ∨ fld v 63 52 ≠ 0 then none else some (setFld w 51 16 (fld v 51 16))
  else if n = 1 then
    if v.toNat % 1024 ≠ 0 ∨ 2 ^ 20 < v.toNat then none else some (setFld w 62 52 (v.toNat / 1024))
  else none

/-- PKWR of an overflow window (R379). -/
def State.pkWindow (s : State) (r : Rec) (n : Nat) (v : Dw) : State × Nat :=
  match (s.recWindow r).bind (fun w => windowSet w n v), s.recGroup r with
  | none, _ => (s, 4)
  | some w, some g => (s.modGroup g.slot (fun g => { g with ovReg := w }), 0)
  | some w, none => (s.putRec { r with ov := w }, 0)

/-- PKWR at the Bar: its status. -/
def State.pkWrite (s : State) (r : Rec) (sel v : Dw) : State × Nat :=
  let grp := fld sel 63 60
  let n := fld sel 47 32
  if fld sel 59 48 ≠ 0 ∨ 10 ≤ grp then (s, 4)
  else if grp = 0 then s.pkWriteFixed r n v
  else if grp = 9 then (s, if 4 < n then 4 else 6)
  else if r.kind ≠ .team then (s, 3)
  else if grp = 8 then s.pkWindow r n v
  else
    match s.imgTeam r with
    | (s, none) => (s, 8)
    | (s, some (t, bs)) =>
      match t.imgWrite grp n (fld sel 31 0) v with
      | .inl st => (s, st)
      | .inr t =>
        match s.putImage r (t.reimage s.clk bs) with
        | (s, true) => (s, 0)
        | (s, false) => (s, 8)

/-! ### Re-entry (R68, R91, R412, R440, R463, R532) -/

/-- Held timers of a context restart at the first re-entry from a record of its freeze (R440). -/
def State.restartTimers (s : State) (r : Rec) : State :=
  if r.frz.isSome then
    { s with bars := s.bars.map (fun (b : Barrier) =>
        if s.barCtx b = some r.ctx ∧ b.arrived ≠ [] ∧ b.start.isNone then { b with start := some s.clk } else b) }
  else s

/-- The first re-entry from a record of class budget-expired gives the group its run budget anew; re-entries from other records of
that expiry share it (R48). -/
def Group.renewed (g : Group) (f : FaultInfo) : Group :=
  if f.cls = .budgetExpired ∧ g.budget.isSome ∧ f.expiry ∉ g.renewals then
    { g with budget := some (2 ^ g.budLog), expired := false, renewals := f.expiry :: g.renewals }
  else g

/-- A team goes on from its image: at the park point, or (PKREDIR) at another clause. -/
def State.reenter (s : State) (r : Rec) (red : Option Dw) : State :=
  match s.team r.team with
  | none => s
  | some t =>
    if t.st ≠ .parked r.id then s else
    let g := s.groupOf t
    let free := s.freeChunks g.core + s.held t
    match s.recImage r with
    | (s, none) => s.formRec { t with st := .running } (mkF .unserviceable .none r.imgva.toNat 1)
    | (s, some (bs, bad)) =>
      if bad then s.loseTeam { t with st := .running } .saveAreaError else
      match t.restore bs s.clk with
      | none => s.loseTeam { t with st := .running } .saveAreaMalformed
      | some t =>
        let s := (s.restartTimers r).modGroup g.slot (fun g => g.renewed r.fault)
        let t := { t.applyWindow (s.groupAt g.slot).ovReg with
          st := s.backSt t, clause := none, age := s.clk, pc := red.getD r.pc, woff := if red.isSome then 0 else r.woff,
          src := red.map (fun _ => (r.pc, r.woff)), resv := if red.isSome then 0 else t.resv,
          yieldNow := t.yieldNow && red.isNone }
        let s := (s.putTeam t).invL1 g.core
        if free < t.chunks then s.swapOut t t.chunks else (s.traceBind t 2 0).settleOwed t

/-! ### Retry and redirection of operations (R349, R361, R411) -/

/-- Checks 3, 4 and 6 of Table 10-4 on a parked operation's OPR0 to OPR4 and row mask pass. -/
def State.retryOk (s : State) (o : TileOp) : Bool :=
  let g := s.groupAt o.group
  if o.minor ≤ 5 then
    let (a, b) := mOps o.oprs o.asrc o.bsrc
    let (m, n, _, _) := mShape o.minor o.pos
    let k := mK a.code b.code
    (fmtBad a b o.sat).isNone && (a.skew m k).isNone && (b.skew n k).isNone
      && (s.matBounds g (a.runs k (rowsOf o.rows) ++ b.runs k (List.range n))).isNone
  else if o.minor = 9 ∨ o.minor = 10 then
    (o.oprs.getD 0 0).toNat % 128 = 0 && (o.oprs.getD 1 0).toNat % 128 = 0 && (s.matBounds g o.accRows).isNone
  else true

/-- A parked tile operation issues again; it waits for its pins (R348, R349). -/
def State.retryTile (s : State) (o : TileOp) : State :=
  let pins := if o.minor ≤ 5 then
      let (a, b) := mOps o.oprs o.asrc o.bsrc
      let (_, n, _, _) := mShape o.minor o.pos
      mmaLines (s.groupAt o.group).ctx a b (mK a.code b.code) (rowsOf o.rows) n
    else []
  s.putTop { o with parked := none, pins := pins, pinWait := pins != [], at_ := s.clk }

/-- A parked copy segment goes on from byte b; with a new address for the side that failed (R411). -/
def State.retrySeg (s : State) (r : Rec) (o : AsyncOp) (red : Option Dw) : State :=
  match s.asyOp o.id with
  | none => s
  | some o =>
    s.putAsy { o with segs := o.segs.map (fun (x : Seg) =>
      if x.parked = some r.id then
        let x := { x with parked := none }
        match red with
        | none => x
        | some a => if x.wside then { x with dst := a } else { x with src := a }
      else x) }

/-! ### Disposal (R407, R409, R411, R459, Tables 13-13 and 15-4) -/

/-- The work of a record goes on: a team re-enters, an operation issues again. -/
def State.goOn (s : State) (r : Rec) (red : Option Dw) : State :=
  match r.kind with
  | .team => s.reenter r red
  | .tile o =>
    match s.tileOp o.id with
    | some o => if o.parked = some r.id then s.retryTile o else s
    | none => s
  | .seg o _ => s.retrySeg r o red

/-- A fault task of a record, queued in another module's fault bank, goes with the record (Table 16-8). -/
def State.recallFar (s : State) (r : Rec) : State :=
  match r.far with
  | some m => if r.st = .parked then s.sendLane r.ctx m 0 (.record (s.handle r) 3) else s
  | none => s

/-- A record disposed of, with what becomes of its work. -/
def State.disposeOne (s : State) (kill : Bool) (r : Rec) (red : Option Dw) : State :=
  let s := s.recallFar r
  if kill then (s.killWork r).freeRec r else (s.freeRec r).goOn r red

/-- A record put into its place by parking time. -/
def insRec (r : Rec) : List Rec → List Rec
  | [] => [r]
  | x :: q => if r.parkt * 2 ^ 64 + r.id < x.parkt * 2 ^ 64 + x.id then r :: x :: q else x :: insRec r q

/-- The work of a member may go on: a tile operation passes the checks that PKRETRY makes first (R411, R459). -/
def State.memberOk (s : State) (m : Rec) : Bool :=
  match m.kind with
  | .tile o => s.retryOk (s.recTile o)
  | _ => true

/-- The disposal of a record and of the members of its set, in order of parking. A member whose operation fails the checks of PKRETRY
stays live, with a fault task of its own as where a head is gone (R411, R459; DESIGN CHOICE, notes/assumptions/104.md). -/
def State.disposeAll (s : State) (kill : Bool) (r : Rec) (red : Option Dw) : State :=
  let ms := (s.membersOfRec r).foldr insRec []
  (ms.foldl (fun (s : State) (m : Rec) => if kill || s.memberOk m then s.disposeOne kill m none else s)
    (s.disposeOne kill r red)).promote r

/-- A record's kind does not take a disposal (Table 13-13), or it is the head of a set (R409). -/
def State.wrongKind (s : State) (minor : Nat) (r : Rec) : Bool :=
  match minor, r.kind with
  | 2, .team => false
  | 3, .team => true
  | 3, _ => false
  | 4, .tile _ => true
  | 4, _ => s.membersOfRec r != []
  | 5, _ => false
  | _, _ => true

/-- A disposal instruction (minors 2 to 5) at the Bar: its status. -/
def State.dispose (s : State) (minor : Nat) (r : Rec) (v : Dw) : State × Nat :=
  if r.st = .report then
    if minor = 5 then (s.freeRec r, 0) else (s, 3)
  else if s.wrongKind minor r then (s, 3)
  else if minor = 4 ∧ (fld v 1 0 ≠ 0 ∨ fld v 63 52 ≠ 0) then (s, 4)
  else if minor = 5 then (s.disposeAll true r none, 0)
  else
    match r.kind with
    | .team =>
      match s.recImage r with
      | (s, none) => (s, 8)
      | (s, some _) => (s.disposeAll false r (if minor = 4 then some v else none), 0)
    | .tile o =>
      if s.retryOk (s.recTile o) then (s.disposeAll false r none, 0) else (s, 4)
    | .seg _ _ => (s.disposeAll false r (if minor = 4 then some v else none), 0)

/-- An instruction of major 58 at the Bar that holds the record: status, and the value of PKRD. -/
def State.pkServe (s : State) (minor : Nat) (r : Rec) (sel v : Dw) : State × Nat × Dw :=
  match minor with
  | 0 =>
    match s.pkRead r sel with
    | (s, .inl st) => (s, st, 0)
    | (s, .inr x) => (s, 0, x)
  | 1 =>
    let (s, st) := s.pkWrite r sel v
    (s, st, 0)
  | _ =>
    let (s, st) := s.dispose minor r v
    (s, st, 0)

/-! ### The instructions (R405, R406, R408) -/

/-- A team receives the answer of the Bar and goes on. -/
def State.pkAnswer (s : State) (key : Nat) (d : SReg) (two : Bool) (st : Nat) (v : Dw) : State :=
  match s.team key with
  | none => s
  | some t =>
    if t.isEnded then s else
    let t : Team := { t with st := TeamSt.running, age := if t.st = TeamSt.running then t.age else s.clk }
    s.retire (if two then (t.setS d v).setS (d + 1) (ndw st) else t.setS d (ndw st))

/-- A handler of this module owns a record of its own Bar (R408) (DEDUCED, notes/assumptions/74.md). -/
def State.owns (s : State) (t : Team) (r : Rec) : Bool :=
  t.serving == some (s.handle r) || r.ctx == s.ctxOf t || (s.ctx r.ctx).supv == s.ctxOf t

/-- The request goes to the Bar of another module over the fault lane, and the team waits (R408). -/
def State.pkFar (s : State) (t : Team) (minor : Nat) (d : SReg) (two : Bool) (h sel v : Dw) : State :=
  let (s, id) := s.fresh
  let rid : Wd := BitVec.ofNat 32 id
  let m := h.toNat / 2 ^ 55
  let msg : LaneMsg := .request minor h sel v (s.ctxOf t) (t.serving.getD 0)
  let q : LaneReq := { rid := id, team := t.key, peer := m, since := s.clk, msg := msg }
  let s := { s with laneReqs := s.laneReqs ++ [q] }
  let s := if s.modl.modules.contains m then s.sendLane (s.ctxOf t) m rid msg else s
  s.deschedule t (.lane id d two)

/-- The effect of an instruction of major 58. -/
def State.pk (s : State) (t : Team) (minor : Nat) (d : SReg) (two : Bool) (h sel v : Dw) : State :=
  if 2 ≤ minor ∧ !s.settled t.key then s.deschedule t .sys
  else if h.toNat / 2 ^ 55 ≠ s.modl.modNo then s.pkFar t minor d two h sel v
  else
    match s.recOf h with
    | none => s.pkAnswer t.key d two 1 0
    | some r =>
      if s.sealedCtx r.ctx ∧ (s.ctx (s.ctxOf t)).part ≠ r.part ∧ minor ≠ 5 then
        s.park t (mkF .enclaveViolation .none h.toNat (s.ctx r.ctx).kid)
      else if !s.owns t r then s.pkAnswer t.key d two 2 0
      else
        let (s, st, x) := s.pkServe minor r sel v
        s.pkAnswer t.key d two st x

/-- PKRD. -/
def execPkrd (d a : SReg) (s : State) : Out :=
  issue { bad := if sgroupOk d 2 && sgroupOk a 2 then none else some .scalarField
          sr := [a, a + 1], sw := [d, d + 1], eng := 5, lvl := 2 }
    (fun t s => s.pk t 0 d true (t.s a) (t.s (a + 1)) 0) s

/-- PKWR. -/
def execPkwr (d a b : SReg) (s : State) : Out :=
  issue { bad := if sgroupOk a 2 then none else some .scalarField
          sr := [a, a + 1, b], sw := [d], eng := 5, lvl := 2 }
    (fun t s => s.pk t 1 d false (t.s a) (t.s (a + 1)) (t.s b)) s

/-- PKRES. -/
def execPkres (d a : SReg) (s : State) : Out :=
  issue { sr := [a], sw := [d], eng := 5, lvl := 2, stop := true } (fun t s => s.pk t 2 d false (t.s a) 0 0) s

/-- PKRETRY. -/
def execPkretry (d a : SReg) (s : State) : Out :=
  issue { sr := [a], sw := [d], eng := 5, lvl := 2, stop := true } (fun t s => s.pk t 3 d false (t.s a) 0 0) s

/-- PKREDIR. -/
def execPkredir (d a b : SReg) (s : State) : Out :=
  issue { sr := [a, b], sw := [d], eng := 5, lvl := 2, stop := true } (fun t s => s.pk t 4 d false (t.s a) 0 (t.s b)) s

/-- PKKILL. -/
def execPkkill (d a : SReg) (s : State) : Out :=
  issue { sr := [a], sw := [d], eng := 5, lvl := 2, stop := true } (fun t s => s.pk t 5 d false (t.s a) 0 0) s

end Sys2Proof.Machine
end

