-- ==== Sys2Proof/Machine/Wire.lean ====
section
/-! DEFINITION. A packet as it stands on the links: header, payload, flits, encryption, tag, CRC-32C (R496, R506, R507, Table 18-1).
The machine keeps packets as records of their fields; these functions say which bits carry them. -/

namespace Sys2Proof.Machine

/-- Zero bits of a packet's header, the reserved bits of offset 0x00, 0x08 and 0x10 in turn. -/
def zeroBits (q : Packet) (hi lo : Nat) : Nat := q.zero.toNat / 2 ^ lo % 2 ^ (hi + 1 - lo)

/-- Bytes of a payload before encryption (R507). An atomic request carries its comparand after its operand (notes/assumptions/20.md). -/
def wirePayload (q : Packet) : List Byte :=
  let line (n : Nat) : List Byte := (List.range n).map (fun i => Line.byte q.data i)
  match q.typ.toNat with
  | 0 => []
  | 1 => line 128
  | 2 => leBytes 16 q.mask.toNat ++ line (((List.range 128).filter (fun i => q.mask.getLsbD i)).foldl (fun _ i => i + 1) 0)
  | 3 => line 16
  | 4 => line 8
  | 5 => line 8
  | 6 => line 128
  | _ => []

/-- Flits of a packet: the fewest that hold header, payload and, with ENC, the tag (R507). -/
def wireFlits (q : Packet) : Nat := (24 + (wirePayload q).length + (if q.enc then 16 else 0) + 63) / 64

/-- The header of a packet (Table 18-1); `cm`: the congestion mark it shows. -/
def wireHeader (q : Packet) (cm : Bool) : List Dw :=
  [BitVec.ofNat 64 (q.typ.toNat * 2 ^ 59 + b2n q.lane * 2 ^ 58 + q.src % 512 * 2 ^ 49 + q.dst % 512 * 2 ^ 40 + b2n q.enc * 2 ^ 39
      + b2n cm * 2 ^ 38 + (wireFlits q - 1) % 4 * 2 ^ 36 + b2n q.so * 2 ^ 35 + zeroBits q 2 0 * 2 ^ 32 + q.psn.toNat),
   BitVec.ofNat 64 (q.aop.toNat * 2 ^ 60 + q.aty.toNat * 2 ^ 57 + b2n q.aret * 2 ^ 56 + zeroBits q 6 3 * 2 ^ 52 + q.pa % 2 ^ 52),
   BitVec.ofNat 64 (q.join.toNat * 2 ^ 48 + zeroBits q 22 7 * 2 ^ 32 + q.rid.toNat)]

/-- The key under which this module sends to a peer with a JOIN value (R496). -/
def State.wireKey (s : State) (m : Nat) (join : BitVec 16) : BitVec 256 :=
  Config.linkKey s.modl.modNo m join ((((s.peer m).ivs.find? (fun (x : Iv) => x.join == join)).map (·.keys)).getD 0)

/-- The payload and tag of a packet sent under a key and IV: with ENC, AES-256-GCM with the header, CM taken as zero, as additional data; the
tag follows the payload in the last flit (R496, R507). -/
def wireBody (key : BitVec 256) (iv : BitVec 96) (q : Packet) : List Byte :=
  let p := wirePayload q
  if q.enc then
    let ct := Config.gcmText key iv (leNat p)
    let room := 64 * wireFlits q - 24 - 16
    let gap := if 64 * ((24 + p.length + 63) / 64) < 24 + p.length + 16 then room - p.length else 0
    leBytes p.length ct ++ List.replicate gap 0
      ++ leBytes 16 (Config.gcmTag key iv (leNat (dwBytes (wireHeader q false))) ct).toNat
  else p

/-- The bytes of a packet in its flits. -/
def wireBytes (key : BitVec 256) (iv : BitVec 96) (q : Packet) : List Byte :=
  let bs := dwBytes (wireHeader q q.cm) ++ wireBody key iv q
  bs ++ List.replicate (64 * wireFlits q - bs.length) 0

/-- One bit of the CRC-32C, least significant bit first. -/
def crcBit (c : Wd) : Wd := if c.getLsbD 0 then (c >>> 1) ^^^ 0x82F63B78 else c >>> 1

/-- CRC-32C of bytes. -/
def crc32c (bs : List Byte) : Wd :=
  ~~~(bs.foldl (fun (c : Wd) b => (List.range 8).foldl (fun c _ => crcBit c) (c ^^^ b.setWidth 32)) 0xFFFFFFFF)

/-- The flits of a packet in flight to a peer, each with its CRC. -/
def State.wire (s : State) (m : Nat) (f : Flight) : List (List Byte × Wd) :=
  let bs := wireBytes (s.wireKey m f.p.join) f.iv f.p
  (List.range (wireFlits f.p)).map (fun i =>
    let x := (bs.drop (64 * i)).take 64
    (x, crc32c x))

end Sys2Proof.Machine
end

