-- ==== Sys2Proof/Machine/Fabric.lean ====
section
/-! DEFINITION. The Psipol fabric as this module meets it: packets received, acknowledgements, retransmission, link
timeouts, recovery announcements, ports (R408, R464, R472, R496, R505 to R515, Table 18-1). -/

namespace Sys2Proof.Machine

/-! ### Arrival (R506, R509, R512, R496) -/

/-- A packet not performed yet stands in this module: held, in a service queue, or a fault task not yet placed. -/
def State.standing (s : State) (q : Packet) : Bool :=
  let same (x : Packet) : Bool := x.src == q.src && x.psn == q.psn && x.lane == q.lane
  ((s.peer q.src).rx q.lane).held.any same || s.svc.any (fun (r : SvcReq) => r.pkt.any same)

/-- A packet with a bad CRC, a reserved TYPE or a zero field that is not zero is dropped, and charges the port it came
through 8 pips (R506, R484) (DEDUCED, notes/assumptions/71.md). -/
def State.dropPkt (s : State) : State :=
  ({ s with free := s.free + 1 }).addPips 5 (Config.arrivalPort s.free % 72) 8

/-- The zero fields of a packet are zero: the reserved bits, the operation of what is no atomic request, PA of TYPE 5 to 7, JOIN without
encryption (Table 18-1). -/
def zeroFieldsOk (q : Packet) : Bool :=
  q.zero == 0 && (q.typ == 3 || (q.aop == 0 && q.aty == 0 && !q.aret)) && (decide (q.typ.toNat < 5) || q.pa == 0)
    && (q.enc || q.join == 0)

/-- A packet is well formed, of the TYPE its event names, and for this module. -/
def State.fit (s : State) (q : Packet) (typ : Nat) : Bool :=
  q.crcOk && zeroFieldsOk q && q.typ.toNat == typ && q.dst == s.modl.modNo && q.src != s.modl.modNo

/-- BASE moves up when a PSN lies beyond the window (R514) (DEDUCED, notes/assumptions/69.md). -/
def RxLane.advance (x : RxLane) (psn : Wd) : RxLane :=
  if 255 < (psn - x.base).toNat then
    let b := psn - 255
    let (b, g) := baseUp (x.got.length + 1) b (x.got.filter (fun n => !psnBelow (BitVec.ofNat 32 n) b))
    { x with base := b, got := g }
  else x

/-- The answer to an arrival: performed by `k` once, a duplicate acknowledged again, anything else dropped (R506, R509, R510); nothing
arrives in a module that is not brought up (R523). -/
def State.arrive_ (s : State) (q : Packet) (typ : Nat) (k : State → State) : State :=
  if s.modl.stage < 8 then s
  else if !s.fit q typ then s.dropPkt
  else
    let x := (s.peer q.src).rx q.lane
    let s := s.modPeer q.src (fun p => p.modRx q.lane (fun x => x.count q.cm s.clk))
    if psnBelow q.psn x.base || x.got.contains q.psn.toNat || s.standing q then s
    else k (s.modPeer q.src (fun p => p.modRx q.lane (fun x => x.advance q.psn)))

/-- The context of a sealed partition of this module under which a peer's access is performed (R496). -/
def State.joined (s : State) (q : Packet) : Bool :=
  let own (c : Ctx) : Bool :=
    let p := s.part c.part
    !((List.range 8).any (fun i => (s.part i).isSealed && (s.part i).pkg.testBit (q.pa / 2 ^ 36)))
      || p.pkg.testBit (q.pa / 2 ^ 36)
  q.enc && s.ctxs.any (fun (c : Ctx) =>
    c.en && (s.part c.part).isSealed && fld c.join 15 0 == q.join.toNat && own c)

/-- An access that the peer's sealed partition refuses (R496). -/
def State.refuses (s : State) (q : Packet) : Bool :=
  let shut := (List.range 8).any (fun i => (s.part i).isSealed && (s.part i).pkg.testBit (q.pa / 2 ^ 36))
  (shut || q.enc) && !s.joined q

/-- A request of a peer: refused, held behind packets of lower PSN when SO is set (R512), or performed. -/
def State.request (s : State) (q : Packet) (typ : Nat) : State :=
  s.arrive_ q typ (fun s =>
    if s.refuses q then
      (if typ = 0 then s.sendReply q { s.reply q 1 0 with refused := true }
       else s.sendPkts q.src [{ s.reply q 4 0 with refused := true }]).gotPkt q
    else if q.so && q.psn != ((s.peer q.src).rx q.lane).base then
      s.modPeer q.src (fun p => p.modRx q.lane (fun x => { x with held := x.held ++ [q] }))
    else
      let s := s.inPkt q
      s.unhold q.src q.lane ((s.peer q.src).rx q.lane).held.length)

/-- READ_REQUEST (R510). -/
def execReadRequest (p : Packet) (s : State) : Out := .next (s.request p 0)
/-- WRITE (R512). -/
def execWrite (p : Packet) (s : State) : Out := .next (s.request p 2)
/-- ATOMIC_REQUEST (R510). -/
def execAtomicRequest (p : Packet) (s : State) : Out := .next (s.request p 3)

/-! ### What a request of this module waited for has come, or never will -/

/-- The access that a request identifier belongs to. -/
def State.accOf (s : State) (rid : Wd) : Option Access :=
  s.acc.find? (fun (a : Access) => a.rem.any (fun (r : RemLine) => r.rid == rid && r.peer.isSome))

/-- A wait at a point where a team waits for an access (R464): the interlock on its destinations, a threshold or `WAIT`, a
fence, release or EXIT, the access itself, a timeline, a barrier. -/
def Wait.waitsFor (w : Wait) (a : Access) : Bool :=
  match w with
  | .thr _ _ _ _ => true
  | .tl _ _ _ => true
  | .dests ds => ds.any a.dests.contains
  | .stores => true
  | .sys => true
  | .accs ids => ids.contains a.id
  | .barrier _ => true
  | _ => false

/-- A team that is descheduled where it waits for an access that is lost parks there (R464, R532). -/
def State.parkLost (s : State) (a : Access) : State :=
  match s.team a.team with
  | none => s
  | some t =>
    match t.st, t.lost with
    | .wait w, some (f, _) => if w.waitsFor a then s.park { t.parkPoint with lost := none } f else s
    | _, _ => s.parkIfDone t.key

/-- Registers a lost access would have written are left, and its team meets the fault where it waits for it, or at its next
clause boundary (R464, R496); a team that has ended leaves a report (R467). -/
def State.abandon (s : State) (a : Access) (f : FaultInfo) : State :=
  let core := (s.coreOf a).getD 0
  let s := ((s.forget a.id).grantSlots core).loseRegs a f
  let s := s.modTeam a.team (fun t => if t.isEnded then t else t.countOut a.load)
  s.parkLost a

/-- The lane and VA that a lost access is reported for: the lowest lane that lost a line (R464). -/
def Access.lostAt (a : Access) (rid : Wd) (every : Bool) : Nat × Nat :=
  let m := (a.rem.find? (fun (r : RemLine) => r.rid == rid)).bind (·.peer)
  let ls := a.rem.filter (fun (r : RemLine) => r.rid == rid || (every && r.peer == m))
  ((minBy (fun (r : RemLine) => r.lane) ls).map (fun r => (r.lane, r.va))).getD (0, a.va.toNat)

/-- A write of the front end is acknowledged, or will never be: a launch queue, or the diagnostic record of a freeze, waits for it no
more (R533, R536). -/
def State.feAcked (s : State) (rid : Wd) : State :=
  { s with lqs := s.lqs.map (fun (x : LaunchQ) => { x with acks := x.acks.erase rid })
           ctxs := s.ctxs.map (fun (c : Ctx) => { c with freeze := c.freeze.map (fun z => { z with acks := z.acks.erase rid }) }) }

/-- Packets of a segment, tile operation or queue that are acknowledged leave what waits for them (R149). -/
def State.ackOps (s : State) (rid : Wd) : State :=
  match s.asy.find? (fun (o : AsyncOp) => o.segs.any (fun (x : Seg) => x.acks.any (fun y => y.1 == rid))) with
  | some o =>
    match o.segs.find? (fun (x : Seg) => x.acks.any (fun y => y.1 == rid)) with
    | none => s
    | some x =>
      let x := { x with acks := x.acks.filter (fun y => y.1 != rid) }
      match x.acks, x.fail with
      | [], some f => s.parkSeg o.id x.no { x with fail := none } f
      | [], none =>
        if x.len = 0 ∨ o.cls = 3 then (s.putAsy (o.putSeg x.no none)).asySettle o.id else s.putAsy (o.putSeg x.no (some x))
      | _, _ => s.putAsy (o.putSeg x.no (some x))
  | none =>
    match s.tops.find? (fun (o : TileOp) => o.acks.contains rid) with
    | some o =>
      let o := { o with acks := o.acks.erase rid }
      if o.acks = [] then s.endTile o else s.putTop o
    | none =>
      { s.feAcked rid with asy := s.asy.map (fun (o : AsyncOp) => { o with sent := o.sent.erase rid }) }

/-- A write or an atomic without result is acknowledged (R307, R510). -/
def State.ackRid (s : State) (rid : Wd) : State :=
  match s.accOf rid with
  | some a =>
    if a.load then s
    else s.settle { a with rem := a.rem.filter (fun (r : RemLine) => r.rid != rid) }
  | none => s.ackOps rid

/-- A slot is POISONED, its fill that of an operation for one of its slots. -/
def QSlot.refillOf (op no : Nat) : QSlot → Bool
  | .poisoned f _ => f.op == op && f.idx == no
  | _ => false

/-- Who asked for a line of another module is still there. -/
def State.farOwned (s : State) (x : FarLine) : Bool :=
  s.groups.any (fun (g : Group) => g.queues.any (fun q => q.slots.any (QSlot.refillOf x.op x.no))) || s.asy.any (fun (o : AsyncOp) => o.id == x.op && (o.segs.any (fun (y : Seg) => y.no == x.no) || o.fills.contains x.no))
    || s.tops.any (fun (o : TileOp) => o.id == x.op)

/-- A line of another module has come for an engine, or is lost; a tile operation that has all of them begins. -/
def State.farCame (s : State) (rid : Wd) (f : FarLine → FarLine) : State :=
  let s := { s with far := (s.far.map (fun (x : FarLine) => if x.rid = rid then f x else x)).filter s.farOwned }
  { s with tops := s.tops.map (fun (o : TileOp) =>
      if (s.farOf o.id 0).any (fun (x : FarLine) => x.rid == rid) && !s.farWaits o.id then { o with at_ := s.clk } else o) }

/-- What a packet belongs to meets a failure: `f` the fault's maker, given the VA; `every` line of its module is lost
with it (R464, R361, R349, R369). -/
def State.failRid (s : State) (rid : Wd) (every : Bool) (f : Nat → FaultInfo) : State :=
  match s.accOf rid with
  | some a =>
    let x := a.lostAt rid every
    s.abandon a { f x.2 with lane := some x.1 }
  | none =>
    match s.pfs.find? (fun (p : PfReq) => p.slot.isNone && p.rid == rid) with
    | some p => s.pfCame p 0 true
    | none =>
    if s.far.any (fun (x : FarLine) => x.rid == rid) then
      s.farCame rid (fun (x : FarLine) => { x with lost := some (f x.want) })
    else
    match s.asy.find? (fun (o : AsyncOp) => o.segs.any (fun (x : Seg) => x.acks.any (fun y => y.1 == rid))) with
    | some o =>
      match o.segs.find? (fun (x : Seg) => x.acks.any (fun y => y.1 == rid)) with
      | some x =>
        let x := if o.cls = 3 then x else x.at ((x.acks.map (·.2)).foldl min x.b)
        let x := { x with acks := [], fail := none, wside := true }
        (s.dropFar o.id x.no).parkSeg o.id x.no x (f x.dst.toNat)
      | none => s
    | none =>
      match s.tops.find? (fun (o : TileOp) => o.acks.contains rid) with
      | some o => s.parkTile { o with acks := [] } (f (o.oprs.getD 0 0).toNat)
      | none =>
      match s.asy.find? (fun (o : AsyncOp) => o.sent.contains rid) with
      | some o =>
        match o.segs.find? (fun (x : Seg) => x.parked.isNone) with
        | some x => s.parkSeg o.id x.no { x with acks := [] } (f x.src.toNat)
        | none => s
      | none => s.feAcked rid

/-! ### Replies (R307, R510) -/

/-- The context that asked for what a reply brings (R442) (DEDUCED, notes/assumptions/72.md). -/
def State.ctxOfRid (s : State) (rid : Wd) : Option Nat :=
  match s.accOf rid with
  | some a => some a.ctx
  | none =>
    let far := s.far.find? (fun (x : FarLine) => x.rid == rid)
    let pf := (s.pfs.find? (fun (p : PfReq) => p.slot.isNone && p.rid == rid)).map (fun (p : PfReq) => p.ctx)
    let lq := (s.lqs.find? (fun (x : LaunchQ) => x.acks.contains rid)).map (fun (x : LaunchQ) => x.ctx)
    match s.asy.find? (fun (o : AsyncOp) => far.any (fun x => x.op == o.id)
        || o.sent.contains rid || o.segs.any (fun (x : Seg) => x.acks.any (fun y => y.1 == rid))) with
    | some o => some (s.groupAt o.group).ctx
    | none => (s.tops.find? (fun (o : TileOp) => far.any (fun x => x.op == o.id) || o.acks.contains rid)).map
        (fun o => (s.groupAt o.group).ctx) |>.orElse (fun _ => pf) |>.orElse (fun _ => lq)

/-- The partitions of the contexts that asked for what a reply brings. -/
def State.replyParts (s : State) (q : Packet) : List Nat := (s.ctxOfRid q.rid).toList.map (fun c => (s.ctx c).part)

/-- The silent-error that a reply tells of: DET0 and the pipe of the service team's core (R483; notes/assumptions/89.md). -/
def silentOf (q : Packet) : FaultInfo := mkF .silentError .none (q.data.toNat % 2 ^ 64) (q.data.toNat / 2 ^ 64 % 2 ^ 64)

/-- A reply brings a line, or an old value, to the access that asked; the lanes whose words came with an error die with it (R308,
R321), and a lane whose atomic was not performed returns none (R483); of a buffered reduction no lane dies, and the run is voided (R320,
R499). -/
def State.replyTo (s : State) (q : Packet) (a : Access) : State :=
  let mine := a.rem.filter (fun (r : RemLine) => r.rid == q.rid)
  let dead := (mine.flatMap (·.lanes)).filter (fun x => if q.typ = 1 then q.bad.getLsbD (x.2.2 / 8) else q.bad != 0)
  let s := if q.typ = 1 then mine.foldl (fun (s : State) r => if q.bad = 0 then s.l1Come a r q.data else s) s else s
  let s := if dead = [] ∧ q.typ = 4 ∧ q.bad ≠ 0 then s.voidRun a.ctx 0 0 3 else s
  let s := if q.silent then mine.foldl (fun (s : State) r => s.loseLane a r.lane (silentOf q)) s else s
  let a := (s.acc.find? (fun x => x.id == a.id)).getD a
  let a := { a with bad := (a.bad ++ dead.map (·.1)).dedup }
  if q.typ = 4 ∧ !a.load then { s with acc := s.acc.map (fun (x : Access) => if x.id = a.id then a else x) }
  else
    s.settle { a with rem := a.rem.filter (fun (r : RemLine) => r.rid != q.rid)
                      buf := a.buf ++ (if q.silent then [] else mine.flatMap (fun r => remBytes r q.data)) }

/-- A reply received, for an access, a prefetch or an engine. -/
def State.replied (s : State) (q : Packet) : State :=
  let ps := s.replyParts q
  let s := (s.gotPkt q).modPeer q.src (fun p => p.modRx q.lane (fun x => { x with parts := x.parts ++ ps }))
  if q.refused then s.failRid q.rid false (fun va => mkF .protection .sealedPeer va 0) else
  match s.accOf q.rid, s.pfs.find? (fun (p : PfReq) => p.slot.isNone && p.rid == q.rid) with
  | some a, _ => s.replyTo q a
  | none, some p => s.pfCame p q.data (q.bad != 0)
  | none, none => s.farCame q.rid (fun (x : FarLine) => { x with got := some q.data, bad := q.bad })

/-- READ_REPLY (R510). -/
def execReadReply (p : Packet) (s : State) : Out := .next (s.arrive_ p 1 (fun s => s.replied p))
/-- ATOMIC_REPLY (R510). -/
def execAtomicReply (p : Packet) (s : State) : Out := .next (s.arrive_ p 4 (fun s => s.replied p))

/-! ### Acknowledgements (R510, R513) -/

/-- A packet in flight that an acknowledgement covers. -/
def acked (p q : Packet) : Bool :=
  let win := bits p.rid.toNat 9 8
  let i := (q.psn - p.psn).toNat
  q.lane == p.lane && (psnBelow q.psn p.psn || (64 * win ≤ i && i < 64 * win + 64 && p.data.getLsbD (i - 64 * win)))

/-- A packet acknowledged: a write or an atomic without result is performed, and a flit counts as progress of the partition of the
context it was formed for (R442). -/
def State.retirePkt (s : State) (q : Packet) : State :=
  let s := match q.ctx with
    | some c => s.mark (s.ctx c).part
    | none => s
  if q.typ = 2 ∨ (q.typ = 3 ∧ !q.aret) then s.ackRid q.rid else s

/-- CAP after an acknowledgement with WIN 0 (R513). -/
def capAfter (cap cmc : Nat) : Nat := if cmc = 0 then min 255 (cap + 1) else max 16 (cap / 2)

/-- ACKNOWLEDGEMENT (R510, R513). -/
def execAcknowledgement (p : Packet) (s : State) : Out :=
  if s.modl.stage < 8 then .next s
  else if !s.fit p 5 then .next s.dropPkt
  else
    let mine := ((s.peer p.src).flight.filter (fun (f : Flight) => acked p f.p)).map (fun (f : Flight) => f.p)
    let s := s.modPeer p.src (fun x =>
      { x with flight := x.flight.filter (fun (f : Flight) => !acked p f.p)
               cap := if bits p.rid.toNat 9 8 = 0 then capAfter x.cap (bits p.rid.toNat 7 0) else x.cap })
    let s := mine.foldl State.retirePkt s
    .next ((s.pump p.src (s.peer p.src).que.length).sendBatches)

/-- BASE of an acknowledgement: the lowest PSN that it may not report as received (R510). -/
def RxLane.ackBase (x : RxLane) : Wd :=
  x.unsent.foldl (fun b n => if psnBelow (BitVec.ofNat 32 n) b then BitVec.ofNat 32 n else b) x.base

/-- The PSNs from there on that an acknowledgement reports as received. -/
def RxLane.ups (x : RxLane) : List Nat :=
  ((List.range (x.base - x.ackBase).toNat).map (fun i => (x.ackBase + BitVec.ofNat 32 i).toNat) ++ x.got).filter
    (fun n => !x.unsent.contains n)

/-- One acknowledgement of a lane: WIN, and CMC for WIN 0. -/
def State.ackPkt (s : State) (m : Nat) (lane : Bool) (x : RxLane) (cmc win : Nat) : Packet :=
  let map := (List.range 64).foldl (fun a i =>
    if x.ups.contains (x.ackBase + BitVec.ofNat 32 (64 * win + i)).toNat then a + 2 ^ i else a) 0
  { s.mkPkt 0 m 5 0 (BitVec.ofNat 32 (win * 256 + (if win = 0 then min cmc 255 else 0))) false with
    enc := false, join := 0, lane := lane, psn := x.ackBase, data := BitVec.ofNat 1024 map, ctx := none }

/-- A window from 1 to 3 holds a received PSN that no acknowledgement has reported. -/
def RxLane.fresh (x : RxLane) (win : Nat) : Bool :=
  x.ups.any (fun n => !x.reported.contains n && ((BitVec.ofNat 32 n : Wd) - x.ackBase).toNat / 64 == win)

/-- The count of marked packets starts anew (R510). -/
def Peer.unmarked (p : Peer) : Peer := { p with rxO := { p.rxO with cmc := 0 }, rxF := { p.rxF with cmc := 0 } }

/-- The acknowledgements of a lane sent, each on the next plane in the rotation (R508); CMC counts the marked packets of the source since
the trigger before, on either lane (R510); the flits they answer count as progress of the partitions they were for (R442). -/
def State.sendAcks (s : State) (m : Nat) (lane : Bool) : State :=
  if s.modl.planes = [] then s else
  let p := s.peer m
  let x := p.rx lane
  let s := x.parts.foldl State.mark s
  let wins := 0 :: ([1, 2, 3].filter x.fresh)
  let out := (enum (wins.map (s.ackPkt m lane x (p.rxO.cmc + p.rxF.cmc)))).map (fun q => (q.2, (s.plane (p.rot + q.1)).getD 0))
  { s with fabOut := s.fabOut ++ out }.modPeer m (fun p =>
    { p.modRx lane (fun x => { x with arrivals := 0, reported := x.ups, parts := [] }) with rot := p.rot + wins.length }.unmarked)

/-- FABRIC_ACK_TRIGGER (R510): after 16 arrivals, or 1 µs after the first not acknowledged. -/
def execFabricAckTrigger (peer : Nat) (lane : Bool) (s : State) : Out :=
  let x := (s.peer peer).rx lane
  if 16 ≤ x.arrivals ∨ (x.arrivals ≠ 0 ∧ Config.clkPerUs ≤ s.clk - x.firstArr) then .next (s.sendAcks peer lane)
  else .next s

/-- FABRIC_RETRANSMIT (R511, R508, R515): a packet unacknowledged for 20 µs since it was last sent, unless a recovery
announcement of its target stands; it is encrypted afresh, under a counter value of its own (R496). -/
def execFabricRetransmit (peer : Nat) (lane : Bool) (psn : Wd) (s : State) : Out :=
  let p := s.peer peer
  let due (f : Flight) : Bool := f.p.lane == lane && f.p.psn == psn && decide (20 * Config.clkPerUs ≤ s.clk - f.sent)
  match s.plane p.rot with
  | none => .next s
  | some k =>
    if s.clk < p.annUntil ∨ !p.flight.any due then .next s
    else
      .next (s.modPeer peer (fun p =>
        { p with flight := p.flight.map (fun (f : Flight) =>
                   if due f then { f with sent := s.clk, plane := k, iv := (p.seal f.p).2 } else f)
                 ivs := ((p.flight.find? due).map (fun f => (p.seal f.p).1.ivs)).getD p.ivs
                 rot := p.rot + 1 }))

/-! ### The fault lane (R472, R475, R408) -/

/-- A fault task of another module arrives (R472). -/
def State.inTask (s : State) (q : Packet) (dws : List Dw) (sl : Bool) (remain : Nat) : State :=
  if sl && !s.sealedCtx (taskCtx dws) then s.answerTask q dws false
  else
    match s.acceptTask dws remain s.clk with
    | (s, none) => { s with inTasks := s.inTasks ++ [(q, .faultTask dws sl remain, s.clk)] }
    | (s, some ok) => s.answerTask q dws ok

/-- The answer to a fault task sent: refused, it escalates here (R472). -/
def State.taskAnswer (s : State) (q : Packet) (h : Dw) (ok : Bool) : State :=
  match s.recOf h with
  | none => s
  | some r =>
    match s.pend.find? (fun (p : PendTask) => p.bar == r.id && p.sent.isSome && descPeer p.desc == some q.src) with
    | none => s
    | some p =>
      let s := { s with pend := s.pend.filter (fun (x : PendTask) => x != p) }
      if ok then s else (s.putRec { r with far := none }).escalateRec r p.cls

/-- The status by which the Bar tells a handler of another module that its instruction raises enclave-violation; no status of
R406 has the number (DESIGN CHOICE, notes/assumptions/93.md). -/
def enclaveStatus : Nat := 255

/-- A handler of another module stands outside the sealed partition of a record: its packet does not come under the CTXJOIN of a
context there (R408, R496). -/
def State.outside (s : State) (q : Packet) (r : Rec) : Bool :=
  s.sealedCtx r.ctx && !(q.enc && s.ctxs.any (fun (c : Ctx) => c.en && c.part == r.part && fld c.join 15 0 == q.join.toNat))

/-- An instruction of major 58 of a handler on another module (R408): it owns only the record of its own fault task. -/
def State.inRequest (s : State) (q : Packet) (minor : Nat) (h sel v served : Dw) : State :=
  let (s, st, x) : State × Nat × Dw := match s.recOf h with
    | none => (s, 1, 0)
    | some r =>
      if minor ≠ 5 && s.outside q r then (s, enclaveStatus, ndw (s.ctx r.ctx).kid)
      else if served = h then s.pkServe minor r sel v else (s, 2, 0)
  s.sendLane 0 q.src q.rid (.reply q.rid st x) ((s.recOf h).map (·.ctx))

/-- The handle that a request names. -/
def LaneReq.handle (r : LaneReq) : Nat :=
  match r.msg with
  | .request _ h _ _ _ _ => h.toNat
  | _ => 0

/-- The answer to a request of a handler of this module. -/
def State.inAnswer (s : State) (src : Nat) (rid : Wd) (st : Nat) (v : Dw) : State :=
  match s.laneReqs.find? (fun (r : LaneReq) => r.peer == src && BitVec.ofNat 32 r.rid == rid) with
  | none => s
  | some r =>
    let s := { s with laneReqs := s.laneReqs.filter (fun (x : LaneReq) => x.rid != r.rid) }
    match s.team r.team with
    | none => s
    | some t =>
      match t.st with
      | .wait (.lane i d two) =>
        if i ≠ r.rid then s
        else if st = enclaveStatus then s.park t (mkF .enclaveViolation .none r.handle v.toNat)
        else s.pkAnswer r.team d two st v
      | _ => s

/-- The fault task of a record of another module that has been disposed of goes, unless it has begun (Table 16-8). -/
def State.unqueue (s : State) (h : Dw) : State :=
  let gone (t : Task) : Bool := t.bank == 16 && t.st != .running && t.dws.getD 4 0 == h
  { ((s.tasks.filter gone).map (fun (t : Task) => t.id)).foldl State.dropTask s with
    inTasks := s.inTasks.filter (fun x =>
      match x.2.1 with
      | .faultTask dws _ _ => dws.getD 4 0 != h
      | _ => true) }

/-- A record of this module that a handler on another serves, has left, or cannot serve; or one of another module, whose fault task is
here, that has been disposed of (R477, R473; notes/assumptions/93.md). -/
def State.inRecord (s : State) (h : Dw) (what : Nat) : State :=
  if what = 3 then s.unqueue h else
  match s.recOf h with
  | none => s
  | some r =>
    match what with
    | 0 => if r.st = .parked then s.putRec { r with st := .served } else s
    | 1 => if r.st = .served then s.putRec { r with st := .parked } else s
    | _ => s.escalateRec r .teamLost

/-- The partition that a fault-lane message is for (R442). -/
def State.msgParts (s : State) (m : LaneMsg) : List Nat :=
  match m with
  | .faultTask dws _ _ => [(s.ctx (taskCtx dws)).part]
  | .taskReply h _ => (s.recOf h).toList.map (·.part)
  | .request _ h _ _ _ _ => (s.recOf h).toList.map (·.part)
  | .record h _ => (s.recOf h).toList.map (·.part)
  | .reply rid _ _ => (((s.laneReqs.find? (fun (r : LaneReq) => BitVec.ofNat 32 r.rid == rid)).bind (fun r => s.team r.team)).map
      (fun t => (s.ctx (s.ctxOf t)).part)).toList

/-- FAULT_LANE_MESSAGE. -/
def execFaultLaneMessage (p : Packet) (msg : LaneMsg) (s : State) : Out :=
  .next (s.arrive_ p 6 (fun s =>
    let ps := s.msgParts msg
    let s := (s.gotPkt p).modPeer p.src (fun x => x.modRx true (fun y => { y with parts := y.parts ++ ps }))
    match msg with
    | .faultTask dws sl remain => s.inTask p dws sl remain
    | .taskReply h ok => s.taskAnswer p h ok
    | .request minor h sel v _ served => s.inRequest p minor h sel v served
    | .reply rid st v => s.inAnswer p.src rid st v
    | .record h w => s.inRecord h w))

/-! ### Recovery (R515, R441) -/

/-- Periods of clk in a millisecond. -/
def clkPerMs : Nat := 1000 * Config.clkPerUs

/-- An announcement takes effect: BOUND 0 ends it; no bound reaches beyond 500 ms after the first. -/
def Peer.announced (p : Peer) (bound clk : Nat) : Peer :=
  if bound = 0 then { p with annFirst := 0, annUntil := 0 }
  else
    let first := if p.annFirst = 0 then clk + 1 else p.annFirst
    let until_ := min (clk + bound * clkPerMs) (first - 1 + 500 * clkPerMs)
    if until_ ≤ clk then { p with annFirst := first }
    else { p with annFirst := first, annUntil := until_, holdFrom := if p.annUntil = 0 then clk else p.holdFrom }

/-- The starts of the 5 ms timers towards a module changed: of packets in flight, fault tasks sent and handlers' requests (R514, R515). -/
def State.retime (s : State) (m : Nat) (f : Nat → Nat) : State :=
  { s.modPeer m (fun p => { p with flight := p.flight.map (fun (x : Flight) => { x with first := f x.first }) }) with
    pend := s.pend.map (fun (p : PendTask) => if descPeer p.desc = some m then { p with sent := p.sent.map f } else p)
    laneReqs := s.laneReqs.map (fun (r : LaneReq) => if r.peer = m then { r with since := f r.since } else r) }

/-- RECOVERY_ANNOUNCEMENT (R515): with BOUND 0 the timers go on from where the first announcement held them. -/
def execRecoveryAnnouncement (p : Packet) (s : State) : Out :=
  .next (s.arrive_ p 7 (fun s =>
    let s := s.gotPkt p
    let b := bits p.rid.toNat 8 0
    let x := s.peer p.src
    let s := if b = 0 ∧ x.annUntil ≠ 0 then s.retime p.src (fun t => t + (s.clk - max x.holdFrom t)) else s
    s.modPeer p.src (fun x => x.announced b s.clk)))

/-- ANNOUNCEMENT_BOUND_EXPIRY (R515): the 5 ms timer starts anew for the packets in flight. -/
def execAnnouncementBoundExpiry (peer : Nat) (s : State) : Out :=
  let p := s.peer peer
  if p.annUntil = 0 ∨ s.clk < p.annUntil then .next s
  else .next (((s.retime peer (fun _ => s.clk)).modPeer peer (fun p => { p with annUntil := 0 })).sendBatches)

/-! ### Link timeout (R514, R464, R472) -/

/-- A destination is silent. -/
def State.silent (s : State) (m : Nat) : Bool :=
  let p := s.peer m
  p.annUntil = 0 && p.flight.any (fun (f : Flight) => Config.linkTimeoutClk ≤ s.clk - f.first)

/-- The 5 ms timer of something sent to a module at a time has run out, and no announcement of it stands (R514, R515). -/
def State.outOfTime (s : State) (m at_ : Nat) : Bool := (s.peer m).annUntil = 0 && Config.linkTimeoutClk ≤ s.clk - at_

/-- Handler requests to a module that are lost (`gone`), or have had no answer for 5 ms, end with status 7 (R406). -/
def State.lateRequests (s : State) (m : Nat) (gone : List Wd) : State :=
  let late := s.laneReqs.filter (fun (r : LaneReq) =>
    r.peer == m && (s.outOfTime m r.since || gone.contains (BitVec.ofNat 32 r.rid)))
  late.foldl (fun (s : State) (r : LaneReq) => s.inAnswer m (BitVec.ofNat 32 r.rid) 7 0) s

/-- Fault tasks sent to a module that are lost (`gone`), or have had no answer for 5 ms, escalate here (R472, R514). -/
def State.lateTasks (s : State) (m : Nat) (gone : List Wd) : State :=
  let late := s.pend.filter (fun (p : PendTask) =>
    descPeer p.desc == some m && p.sent.any (fun t => s.outOfTime m t || gone.contains p.rid))
  late.foldl (fun (s : State) (p : PendTask) =>
    let s := { s with pend := s.pend.filter (fun (x : PendTask) => x != p) }
    match s.recs.find? (fun (r : Rec) => r.id == p.bar) with
    | some r => (s.putRec { r with far := none }).escalateRec r p.cls
    | none => s) s

/-- LINK_TIMEOUT (R514): every packet in flight or queued to a silent destination is abandoned, and what loses one meets it. -/
def execLinkTimeout (peer : Nat) (s : State) : Out :=
  let lost := if s.silent peer then (((s.peer peer).flight.map (fun (f : Flight) => f.p)) ++ (s.peer peer).que).filterMap
      (fun (q : Packet) => if q.typ = 6 then some q.rid else none) else []
  let quiet := s.silent peer
  let s := (s.lateRequests peer lost).lateTasks peer lost
  if !quiet then .next s
  else
    let p := s.peer peer
    let gone := (p.flight.map (fun (f : Flight) => f.p)) ++ p.que
    let s := s.modPeer peer (fun p => { p with flight := [], que := [] })
    let s := (gone.filter (fun (q : Packet) => q.typ = 0 || q.typ = 2 || q.typ = 3)).foldl
      (fun (s : State) (q : Packet) => s.failRid q.rid true (fun va => mkF .linkTimeout .none va peer)) s
    .next s.sendBatches

/-! ### Ports (R505, R508, R515) -/

/-- PORT_RETRAIN: firmware announces a retrain of more than 1 ms with BOUND 20, and the plane leaves the rotation. -/
def execPortRetrain (plane : Nat) (s : State) : Out :=
  let s := s.announce 20
  .next { s with modl := { s.modl with planes := s.modl.planes.filter (fun n => n != plane) } }

/-- PORT_TRAINING_COMPLETE: the plane returns to the rotation, unless it is withdrawn (R490). -/
def execPortTrainingComplete (plane : Nat) (s : State) : Out :=
  if 72 ≤ plane ∨ s.rel.fenced.contains (5, plane) ∨ s.modl.planes.contains plane then .next s
  else .next { s with modl := { s.modl with planes := insAsc plane s.modl.planes } }

end Sys2Proof.Machine
end

