-- ==== Sys2Proof/Machine/HostLink.lean ====
section
/-! DEFINITION. The host link: BAR2 and BAR4, the capability offset, IDE keys, host-initiated reset (R400, R495, R501,
R502, R515, R517, R518, Table 17-7). -/

namespace Sys2Proof.Machine

/-! ### BAR2: trace registers and trace stores (R501, Table 17-7) -/

/-- The index of the trace registers of a partition on a die. -/
def trIndex (die part : Nat) : Nat := part * 2 + die

/-- A trace register as it reads; none: no register stands at the offset. -/
def State.trRead (s : State) (die off : Nat) : Option Dw :=
  let r := s.trc.getD (trIndex die (off / 0x40)) TrRegs.init
  if off = 0x800 then some (ndw (s.rel.rlwp.getD die 0 % 32768))
  else if off = 0x808 then some (ndw (s.rel.rllost.getD die 0))
  else if 0x200 ≤ off then none
  else
    match off % 0x40 with
    | 0 => some r.ctl
    | 8 => some (ndw (r.rp * 2 ^ 32 + r.wp))
    | 0x10 => some r.lost
    | 0x18 => some r.host
    | 0x20 => some (ndw (r.hlen * 2 ^ 48 + r.hrp * 2 ^ 32 + r.hwp))
    | _ => none

/-- A trace register written. -/
def State.trWrite (s : State) (die off : Nat) (v : Dw) : State :=
  let i := trIndex die (off / 0x40)
  let r := s.trc.getD i TrRegs.init
  let put (r : TrRegs) : State := { s with trc := s.trc.set i r }
  if off = 0x808 then { s with rel := { s.rel with rllost := s.rel.rllost.set die v.toNat } }
  else if 0x200 ≤ off then s
  else
    match off % 0x40 with
    | 0 => put { r with ctl := v &&& 0xFE00000000000000 }
    | 8 => put { r with rp := fld v 47 32 }
    | 0x10 => put { r with lost := v }
    | 0x18 => put { r with host := v &&& 0xFFFFFFFFFFFFFFC0 }
    | 0x20 => put { r with hlen := fld v 63 48, hrp := fld v 47 32 }
    | _ => s

/-- The place of a byte of BAR2: a register's die, offset and byte, or a byte of a store. -/
inductive Bar2 where
  | reg (die off i : Nat)
  | store (die off : Nat)
  | hole
  deriving DecidableEq, Repr

/-- The place of an offset in BAR2. -/
def bar2At (off : Nat) : Bar2 :=
  if off < 0x2000 then .reg (off / 0x1000) (off % 0x1000 / 8 * 8) (off % 8)
  else if 0x1000000 ≤ off ∧ off < 0x5000000 then .store ((off - 0x1000000) / 0x2000000) ((off - 0x1000000) % 0x2000000)
  else .hole

/-- A byte of BAR2 as it reads; what holds no register reads a free value (notes/assumptions/37.md). -/
def State.bar2Read (s : State) (off : Nat) : Byte :=
  match bar2At off with
  | .reg die o i =>
    match s.trRead die o with
    | some x => BitVec.ofNat 8 (x.toNat >>> (8 * i))
    | none => Config.remoteByte s.free off
  | .store die o => Mem.read s.mem (homeT die o)
  | .hole => Config.remoteByte s.free off

/-- A doubleword with byte i replaced. -/
def putByte (x : Dw) (i : Nat) (b : Byte) : Dw := setFld x (8 * i + 7) (8 * i) b.toNat

/-- The registers that a write covers, in ascending order, each written once with the bytes given. -/
def State.bar2Write (s : State) (off : Nat) (bs : List Byte) : State :=
  let cells := (enum bs).map (fun (b : Nat × Byte) => (off + b.1, b.2))
  let words := (cells.map (fun (c : Nat × Byte) => c.1 / 8)).dedup
  words.foldl (fun (s : State) w =>
    let mine := cells.filter (fun (c : Nat × Byte) => c.1 / 8 == w)
    match bar2At (w * 8) with
    | .reg die o _ =>
      match s.trRead die o with
      | some x => s.trWrite die o (mine.foldl (fun (x : Dw) (c : Nat × Byte) => putByte x (c.1 % 8) c.2) x)
      | none => s
    | .store die o =>
      mine.foldl (fun (s : State) (c : Nat × Byte) =>
        { s with mem := Mem.write s.mem (homeT die (o + c.1 % 8)) c.2 }) s
    | .hole => s) s

/-! ### BAR4: local memory as the host party (R166, R495, R518) -/

/-- A sealed partition holds the package of a physical byte (R495). -/
def State.hostShut (s : State) (pa : Nat) : Bool :=
  (List.range 8).any (fun i => (s.part i).isSealed && (s.part i).pkg.testBit (pa / 2 ^ 36))

/-- The host reaches a physical byte: it exists, and no sealed partition holds its package. -/
def State.hostReach (s : State) (pa : Nat) : Bool := s.hasPa pa && !s.hostShut pa

/-- The host sees a completer abort where an access touches what a sealed partition holds (R495). -/
def State.hostAbort (s : State) (pa len : Nat) : State :=
  if (List.range len).any (fun i => s.hostShut (pa + i)) then { s with hostCpl := s.hostCpl ++ [.completerAbort] } else s

/-- A byte of BAR4 as it reads: all ones where the host reaches nothing. -/
def State.bar4Read (s : State) (pa : Nat) : Byte := if s.hostReach pa then Mem.read s.mem (homeG pa) else 0xFF

/-- Bytes of BAR4 written. -/
def State.bar4Write (s : State) (pa : Nat) (bs : List Byte) : State :=
  if (List.range bs.length).all (fun i => s.hostReach (pa + i)) then s.perform (homeG pa) bs
  else
    (enum bs).foldl (fun (s : State) (b : Nat × Byte) =>
      if s.hostReach (pa + b.1) then s.perform (homeG (pa + b.1)) [b.2] else s) s

/-- Bytes that the host reads are handed to it. -/
def State.hostGets (s : State) (bs : List Byte) : State := { s with free := s.free + 1, hostRd := s.hostRd ++ [bs] }

/-- HOST_BAR_ACCESS (R518): `wr` holds the bytes of a write; a read is of `len` bytes. Until bring-up has reached step 8,
both windows read all ones and discard writes. -/
def execHostBarAccess (bar off : Nat) (wr : Option (List Byte)) (len : Nat) (s : State) : Out :=
  if s.modl.stage < 8 then
    (match wr with
     | some _ => .next s
     | none => .next (s.hostGets (List.replicate len 0xFF)))
  else
    match bar, wr with
    | 2, some bs => .next (s.bar2Write off bs)
    | 2, none => .next (s.hostGets ((List.range len).map (fun i => s.bar2Read (off + i))))
    | 4, some bs => .next ((s.bar4Write off bs).hostAbort off bs.length)
    | 4, none => .next ((s.hostGets ((List.range len).map (fun i => s.bar4Read (off + i)))).hostAbort off len)
    | _, _ => .next s

/-! ### Configuration space, keys, reset -/

/-- The doublewords of the DVSEC that the host reads: the capability offset, the doubleword there, BOOTSTS (R400, R523). -/
def State.dvsec (s : State) (off : Nat) : Wd :=
  match off with
  | 0x0C => BitVec.ofNat 32 s.modl.capOff
  | 0x10 => (s.capRead s.modl.capOff).setWidth 32
  | 0x14 => ((s.capRead s.modl.capOff) >>> 32).setWidth 32
  | 0x18 => BitVec.ofNat 32 (s.modl.stage % 16 * 2 ^ 28 + s.modl.err % 16 * 2 ^ 24)
  | _ => 0

/-- CAP_OFFSET_WRITE (R400). -/
def execCapOffsetWrite (off : Wd) (s : State) : Out := .next { s with modl := { s.modl with capOff := off.toNat } }

/-- IDE_KM_REQUEST (R517): the key of the link stream (0) or of one of 8 selective streams (1 to 8) is set. -/
def execIdeKmRequest (stream key : Nat) (s : State) : Out :=
  if stream ≤ 8 then
    .next { s with modl := { s.modl with ide := upsert (fun (x : Nat × Nat) => x.1) (stream, key) s.modl.ide } }
  else .next s

/-- HOST_MODULE_RESET (R515): firmware announces recovery with BOUND 500; bring-up follows as POWER_ON
(notes/assumptions/38.md). -/
def execHostModuleReset (s : State) : Out := .next (s.announce 500)

end Sys2Proof.Machine
end

