-- ==== Sys2Proof/Machine/ScaleOut.lean ====
section
/-! DEFINITION. Scale-out: queue pairs, work entries, completions (R520 to R522, Tables 18-4 and 18-5). -/

namespace Sys2Proof.Machine

/-- An entry of the queue-pair table (Table 18-4); none: beyond SOTAB.COUNT. -/
def State.qpEntry (s : State) (i : Nat) : Option (List Dw) :=
  if fld s.modl.sotab 63 52 ≤ i then none
  else some ((List.range 4).map (fun k => s.rd64 (homeG (fld s.modl.sotab 51 12 * 4096 + 32 * i + 8 * k))))

/-- The context of an entry. -/
def qpCtx (e : List Dw) : Nat := fld (e.getD 0 0) 11 0
/-- The send-queue page of an entry. -/
def qpSq (e : List Dw) : Nat := fld (e.getD 0 0) 51 12 * 4096
/-- The completion-queue page of an entry. -/
def qpCq (e : List Dw) : Nat := fld (e.getD 1 0) 51 12 * 4096

/-- Every work entry of the queue pair is malformed: a reserved bit, or a context that is not enabled (R522). -/
def State.qpBad (s : State) (e : List Dw) : Bool :=
  fld (e.getD 0 0) 62 52 ≠ 0 || fld (e.getD 1 0) 63 52 ≠ 0 || fld (e.getD 1 0) 11 0 ≠ 0 || fld (e.getD 2 0) 63 59 ≠ 0
    || fld (e.getD 2 0) 38 12 ≠ 0 || e.getD 3 0 ≠ 0 || !(s.ctx (qpCtx e)).en

/-- A queue pair's state in the engine. -/
def State.qp (s : State) (i : Nat) : QueuePair :=
  (s.qps.find? (fun (q : QueuePair) => q.id == i)).getD { id := i, head := 0, wp := 0, work := [] }

/-- A queue pair's state replaced. -/
def State.putQp (s : State) (q : QueuePair) : State := { s with qps := upsert (fun (x : QueuePair) => x.id) q s.qps }

/-- A word of a queue page. -/
def State.qpWord (s : State) (e : List Dw) (va : Nat) : State × Option Nat :=
  match s.engRead 0 (qpCtx e) va 4 with
  | (s, .inl _) => (s, none)
  | (s, .inr bs) => (s, some (leNat bs))

/-- A completion may be written: WP - RP is below 127 (R521). -/
def State.qpRoom (s : State) (e : List Dw) (q : QueuePair) : State × Bool :=
  match s.qpWord e (qpCq e + 8) with
  | (s, none) => (s, false)
  | (s, some rp) => (s, (q.wp + 2 ^ 32 - rp) % 2 ^ 32 != 127)

/-- A completion entry (Table 18-5) and WP written, where the work entry asks for it or STATUS is not 0 (DEDUCED, notes/assumptions/75.md). -/
def State.qpDone (s : State) (i : Nat) (e : List Dw) (w : List Dw) (status len : Nat) : State :=
  let x := w.getD 0 0
  if !flag x 59 ∧ status = 0 then s else
  let q := s.qp i
  let c := leBytes 8 (w.getD 5 0).toNat ++ leBytes 8 (status * 2 ^ 60 + fld x 63 60 * 2 ^ 56 + len % 2 ^ 32)
    ++ leBytes 8 (s.usec % 2 ^ 44) ++ List.replicate 8 0
  let s := (s.engWrite 0 (qpCtx e) (qpCq e + 0x20 + 32 * (q.wp % 127)) c).1
  let wp := (q.wp + 1) % 2 ^ 32
  ((s.engWrite 0 (qpCtx e) (qpCq e) (leBytes 4 wp)).1).putQp { q with wp := wp }

/-- A work entry is malformed: a reserved OP, or another endpoint than its queue pair's (R521, R522). -/
def workBad (e w : List Dw) : Bool :=
  2 < fld (w.getD 0 0) 63 60 || fld (w.getD 2 0) 58 39 ≠ fld (e.getD 2 0) 58 39

/-- A message sent to the remote endpoint of a queue pair (R520), when a scale-out port is in service. -/
def State.rdmaSend (s : State) (i : Nat) (e : List Dw) (reply : Bool) (op : Nat) (va key : Dw) (len : Nat) (data : List Byte) :
    State :=
  if s.modl.soPorts = [] then s
  else
    let w := e.getD 2 0
    { s with rdmaOut := s.rdmaOut ++ [{ qp := i, dom := fld w 58 48, mod := fld w 47 39, rqp := fld w 11 0, reply := reply, op := op,
                                        va := va, key := key, len := len, data := data }] }

/-- The message of a work entry leaves: a write and a send with the bytes at the local VA, a read without; a local VA that does not
translate ends the operation with STATUS 3 (notes/assumptions/39.md). -/
def State.qpSend (s : State) (i n : Nat) (e w : List Dw) : State :=
  let op := fld (w.getD 0 0) 63 60
  let len := fld (w.getD 0 0) 31 0
  let send (s : State) (bs : List Byte) : State :=
    (s.putQp { s.qp i with work := (s.qp i).work ++ [(n, s.clk, w)] }).rdmaSend i e false op (w.getD 3 0) (w.getD 4 0) len bs
  if op = 1 then send s []
  else
    match s.engRead 0 (qpCtx e) (w.getD 1 0).toNat len with
    | (s, .inl _) => s.qpDone i e w 3 0
    | (s, .inr bs) => send s bs

/-- One posted entry taken: HEAD is written, and a malformed entry completes with STATUS 3. -/
def State.qpTake (s : State) (i : Nat) (e : List Dw) : State :=
  let q := s.qp i
  match s.engRead 0 (qpCtx e) (qpSq e + 0x40 + 64 * (q.head % 63)) 64 with
  | (s, .inl _) => s
  | (s, .inr bs) =>
    let w := leDws 8 bs
    let head := (q.head + 1) % 2 ^ 32
    let bad := s.qpBad e || workBad e w
    let s := ((s.engWrite 0 (qpCtx e) (qpSq e + 8) (leBytes 4 head)).1).putQp { q with head := head }
    if bad then s.qpDone i e w 3 0 else s.qpSend i q.head e w

/-- Entries posted and not taken, with room for their completions. -/
def State.qpPosted (s : State) (i : Nat) : State × Bool :=
  match s.qpEntry i with
  | none => (s, false)
  | some e =>
    if !flag (e.getD 0 0) 63 then (s, false) else
    match s.qpWord e (qpSq e) with
    | (s, none) => (s, false)
    | (s, some tail) =>
      let (s, room) := s.qpRoom e (s.qp i)
      (s, room && tail != (s.qp i).head)

/-- SEND_QUEUE_WORK (R521, R522): the engine takes the next posted entry of a queue pair. -/
def execSendQueueWork (qp : Nat) (s : State) : Out :=
  match s.qpEntry qp, s.qpPosted qp with
  | some e, (s, true) => .next (s.qpTake qp e)
  | _, (s, _) => .next s

/-- An operation in progress leaves its queue pair. -/
def State.qpDrop (s : State) (i n : Nat) : State :=
  let q := s.qp i
  s.putQp { q with work := q.work.filter (fun (w : Nat × Nat × List Dw) => w.1 != n) }

/-- RDMA_COMPLETION (R521): the oldest operation of a queue pair ends with STATUS 0 or 1; what a read brought is written
at the local VA. A local VA that does not translate ends the operation with STATUS 3 (notes/assumptions/39.md). An operation that
needs a completion entry ends when there is room for it. -/
def execRdmaCompletion (qp n status : Nat) (data : List Byte) (s : State) : Out :=
  match s.qpEntry qp, (s.qp qp).work with
  | some e, (k, _, w) :: _ =>
    let (s, room) := s.qpRoom e (s.qp qp)
    if k ≠ n ∨ 1 < status ∨ (!room && (flag (w.getD 0 0) 59 || status == 1)) then .next s
    else
      let failed (s' : State) : Out := if room then .next (s'.qpDone qp e w 3 0) else .next s
      let len := fld (w.getD 0 0) 31 0
      let s := s.qpDrop qp n
      if status = 1 then .next (s.qpDone qp e w 1 (min len data.length))
      else if fld (w.getD 0 0) 63 60 = 1 then
        let bs := data.take len
        let bs := bs ++ (List.range (len - bs.length)).map (fun i => Config.remoteByte s.free i)
        match ({ s with free := s.free + 1 }).engWrite 0 (qpCtx e) (w.getD 1 0).toNat bs with
        | (s, none) => .next (s.qpDone qp e w 0 len)
        | (s, some _) => failed s
      else .next (s.qpDone qp e w 0 len)
  | _, _ => .next s

/-- RDMA_TIMEOUT (R521): an operation without answer for 100 ms completes with STATUS 2; how many bytes were transferred is
open. -/
def execRdmaTimeout (qp n : Nat) (s : State) : Out :=
  match s.qpEntry qp, (s.qp qp).work.find? (fun (w : Nat × Nat × List Dw) => w.1 == n) with
  | some e, some (_, at_, w) =>
    let (s, room) := s.qpRoom e (s.qp qp)
    if s.clk - at_ < 100 * clkPerMs ∨ !room then .next s
    else
      let open_ := leNat ((List.range 4).map (fun i => Config.remoteByte s.free i))
      let s := { s with free := s.free + 1 }
      .next ((s.qpDrop qp n).qpDone qp e w 2 (open_ % (fld (w.getD 0 0) 31 0 + 1)))
  | _, _ => .next s

/-- A message comes from the remote endpoint that a queue pair's entry names (R520). -/
def fromEnd (e : List Dw) (m : RdmaMsg) : Bool :=
  let w := e.getD 2 0
  fld w 58 48 == m.dom && fld w 47 39 == m.mod && fld w 11 0 == m.rqp

/-- RDMA_INBOUND (R520, R521): an operation of the remote endpoint is performed here, and answered: a write's bytes, a read with the bytes
read, or a send's receive completion, whose WRID is open; the answer to an access that does not translate carries 0 bytes. -/
def execRdmaInbound (m : RdmaMsg) (s : State) : Out :=
  match s.qpEntry m.qp with
  | none => .next s
  | some e =>
    if s.modl.soPorts.isEmpty || !flag (e.getD 0 0) 63 || s.qpBad e || !fromEnd e m then .next s
    else
      match m.op with
      | 0 =>
        match s.engWrite 0 (qpCtx e) m.va.toNat m.data with
        | (s, none) => .next (s.rdmaSend m.qp e true 0 m.va 0 m.data.length [])
        | (s, some _) => .next (s.rdmaSend m.qp e true 0 m.va 0 0 [])
      | 1 =>
        match s.engRead 0 (qpCtx e) m.va.toNat m.data.length with
        | (s, .inr bs) => .next (s.rdmaSend m.qp e true 1 m.va 0 bs.length bs)
        | (s, .inl _) => .next (s.rdmaSend m.qp e true 1 m.va 0 0 [])
      | 2 =>
        let (s, room) := s.qpRoom e (s.qp m.qp)
        if !room then .next s
        else
          let id := ndw (leNat ((List.range 8).map (fun i => Config.remoteByte s.free i)))
          let w : List Dw := [ndw (2 * 2 ^ 60 + 2 ^ 59), 0, 0, 0, 0, id]
          .next ((({ s with free := s.free + 1 }).qpDone m.qp e w 0 m.data.length).rdmaSend m.qp e true 2 0 0 m.data.length [])
      | _ => .next s

end Sys2Proof.Machine
end

