-- ==== Sys2Proof/Machine/Reliability.lean ====
section
/-! DEFINITION. Reliability: scrubbing, scores, vacating a core, targeted tests (R480 to R491). -/

namespace Sys2Proof.Machine

/-! ### Scrubbing and scores (R480 to R482, R484, R485) -/

/-- A slot of a stream queue that a byte's name gives: group slot, queue, place from the head, doubleword (R482). -/
def queueWord (a : Nat) : Nat × Nat × Nat × Nat := (a % 2 ^ 80 / 2 ^ 40, a % 2 ^ 40 / 2 ^ 32, a % 2 ^ 32 / 2 ^ 8, a % 128 / 8)

/-- Homes that the scrubbers read: memory, the scratchpads with the lane slices, and the FULL slots of stream queues (R482). -/
def State.scrubbed (s : State) (a : Nat) : Bool :=
  if a < 2 ^ 80 then s.hasPa a
  else if a / 2 ^ 80 = 9 then
    let (g, q, i, _) := queueWord a
    match ((s.groupAt g).queue q).slots[i]? with
    | some (.full _ _) => (s.group g).isSome
    | _ => false
  else decide (a < 5 * 2 ^ 80)

/-- A doubleword of a byte is poisoned (R481). -/
def State.poisonAt (s : State) (a : Nat) : State :=
  if a / 2 ^ 80 = 9 then
    let (g, q, i, w) := queueWord a
    let x := (s.groupAt g).queue q
    s.putQueue g q { x with bad := (i, w) :: x.bad }
  else { s with rel := { s.rel with poison := if s.rel.poison.contains (a / 8) then s.rel.poison else a / 8 :: s.rel.poison } }

/-- An error that a scrub finds in a unit: a test in place of a bank group, which is its scrubbing, begins again (R490). -/
def State.scrubFound (s : State) (u : Nat × Nat) : State :=
  { s with rel := { s.rel with tests := s.rel.tests.map (fun (x : UnitTest) =>
      if x.ukind = 3 ∧ (x.ukind, x.unum) = u then { x with since := s.clk } else x) } }

/-- PATROL_SCRUB (R482): a corrected error is repaired and charged; an uncorrectable one poisons its doubleword. -/
def execPatrolScrub (addr : Nat) (bad : Bool) (s : State) : Out :=
  if !s.scrubbed addr then .next s
  else
    let u := s.memUnit addr
    if bad then .next (((s.scrubFound u).poisonAt addr).uncorrectable (addr / 8 * 8) 0)
    else
      let (s, l2) := s.choose
      if addr < 2 ^ 80 ∧ l2 = false then .next s else .next ((s.scrubFound u).addPips u.1 u.2 1)

/-- A corrected error found in use: pips for the unit that Table 17-1 names (R480). -/
def State.correctedErr (s : State) (k n : Nat) : State := if k ≤ 4 then s.addPips k n 1 else s

/-- A parity error in a line of a core's L1: it goes, and counts as corrected (R480). -/
def State.l1Parity (s : State) (core line : Nat) : State :=
  if (s.core core).l1.any (fun (x : Nat × Line) => x.1 == line) then
    (s.modCore core (fun c => { c with l1 := c.l1.filter (fun (x : Nat × Line) => x.1 != line) })).addPips 0 core 1
  else s

/-- An uncorrectable error in a firmware store is consumed: a Bar or Deck record gives a kill report of class team-lost, an entry of
the translation caches is dropped, a word of the trace store reads as PAD (R480) (DEDUCED, notes/assumptions/97.md). -/
def State.storeError (s : State) (unum : Nat) (e : StoreErr) : State :=
  let s := s.addPips 3 unum 64
  let f := mkF .teamLost .none 0 0
  match e with
  | .record id =>
    match s.recs.find? (fun (r : Rec) => r.id == id) with
    | some r => (if r.st = .report then s else s.killWork r).toReport r f
    | none => s
  | .task id =>
    match (s.task id).filter (fun t => t.st != .running) with
    | some t => (s.dropTask id).taskReport t f
    | none => s
  | .walk die c lvl va =>
    { s with tcache := s.tcache.filter (fun (x : Nat × Nat × Nat × Nat × Dw) =>
        !(x.1 == die && x.2.1 == c && x.2.2.1 == lvl && x.2.2.2.1 == va >>> lvlShift lvl)) }
  | .trace die off => { s with mem := Mem.writeN s.mem (homeT (die % 2) (off % 2 ^ 25 / 8 * 8)) (leBytes 8 0xF800000000000000) }

/-! ### Vacating a core (R487, R488) -/

/-- Groups resident on a core. -/
def State.groupsOn (s : State) (core : Nat) : List Group := s.groups.filter (fun (g : Group) => g.core == core)

/-- A team can move: it has ended, is parked or swapped out, or stands at a pre-emption point (R37) with nothing of its
loads or requests on the core. -/
def State.movable (s : State) (t : Team) : Bool :=
  match t.st with
  | .ended _ => true
  | .parked _ => true
  | .swapped => true
  | .parking _ => false
  | .running => t.preemptible && !s.acc.any (fun (a : Access) => a.team == t.key && (a.load || a.reqs != []))
  | .wait _ =>
    t.clause.isNone && t.woff == 0 && !t.pdis && t.nopre == 0
      && !s.acc.any (fun (a : Access) => a.team == t.key && (a.load || a.reqs != []))

/-- Chunks that the teams of a group hold. -/
def State.groupChunks (s : State) (slot : Nat) : Nat :=
  (s.teams.filter (fun (t : Team) => t.gslot == slot)).foldl (fun a (t : Team) => a + s.held t) 0

/-- A core of the same kind and cluster that admits a group (R487). -/
def State.admits (s : State) (g : Group) (core : Nat) : Bool :=
  let p := s.part (s.ctx g.ctx).part
  let v := (s.coreUse core).add g.use
  let c := core < 192
  (s.coresOf p).contains core && core != g.core && decide ((g.core < 192) = c) && clusterOf core == clusterOf g.core
    && decide (v.places ≤ Config.placesOf core) && (g.tiles.isEmpty || decide (v.tiles ≤ 8))
    && decide (v.slices ≤ (if c then 2 ^ 21 else 2 ^ 19))
    && decide (lentBytes p core + v.slices + v.cmem + v.queues ≤ (if c then 2 ^ 22 else 2 ^ 20))
    && decide (s.groupChunks g.slot ≤ s.freeChunks core)

/-- The group can leave its core now. -/
def State.canLeave (s : State) (g : Group) : Bool :=
  (s.teams.filter (fun (t : Team) => t.gslot == g.slot)).all s.movable
    && !s.tops.any (fun (o : TileOp) => o.group == g.slot && o.parked.isNone)

/-- The image of a swapped-out team goes to the save area of its new place. -/
def State.moveImage (s : State) (t : Team) : State :=
  if t.st ≠ .swapped then s else
  let g := s.groupOf t
  match s.saveVa g.ctx g.core t.place with
  | none => s
  | some va => (s.vaWrite g.core g.ctx va (t.image s.clk)).1

/-- A group moves to a core: its teams take free places there; homes of its memory go with it (R487, R112). -/
def State.migrate (s : State) (g : Group) (core : Nat) : State :=
  let ts := s.teams.filter (fun (t : Team) => t.gslot == g.slot)
  let s := ts.foldl (fun (s : State) (t : Team) => s.traceBind t 7 0) s
  let ps := s.placesFree core
  let s := s.modGroup g.slot (fun g => { g with core := core })
  let s := (enum ts).foldl (fun (s : State) (q : Nat × Team) =>
    s.modTeam q.2.key (fun t => { t with place := ps.getD q.1 0 })) s
  let s := { s with tops := s.tops.map (fun (o : TileOp) => if o.group = g.slot then { o with core := core } else o) }
  let s := s.invL1 core
  (s.teams.filter (fun (t : Team) => t.gslot == g.slot)).foldl
    (fun (s : State) (t : Team) => (s.moveImage t).traceBind t 3 0) s

/-- CORE_VACATE_MIGRATE (R487): a resident group of a core being vacated moves to a sibling. -/
def execCoreVacateMigrate (group core : Nat) (s : State) : Out :=
  match s.group group with
  | none => .next s
  | some g =>
    if s.vacating g.core && s.canLeave g && s.admits g core then .next (s.migrate g core) else .next s

/-- What a core being vacated gives up at once: its hand tasks and the reservations on it; a port under test leaves the
rotation (R487, R490). -/
def State.sweep (s : State) : State :=
  s.rel.tests.foldl (fun (s : State) (u : UnitTest) =>
    if u.stage = 1 then s
    else if u.ukind = 5 then { s with modl := { s.modl with planes := s.modl.planes.filter (fun n => n != u.unum) } }
    else
      match s.testCore u with
      | none => s
      | some k => ((s.core k).hand.foldl State.recall s).clearResv k) s

/-! ### Tests (R488 to R490) -/

/-- A core holds no group and no hand task. -/
def State.vacated (s : State) (core : Nat) : Bool := (s.groupsOn core).isEmpty && (s.core core).hand.isEmpty

/-- The score of a unit whose test was deferred is not halved until the test runs, on the vacated core (R485, R488). -/
def State.exempt (s : State) (k n : Nat) : Bool :=
  s.rel.tests.any (fun (u : UnitTest) => u.ukind == k && u.unum == n
    && (u.stage == 1 || (u.stage == 2 && (s.testCore u).any (fun c => !s.vacated c))))

/-- SCORE_HALVING (R485): at every clk count that is a multiple of 2^32. -/
def execScoreHalving (s : State) : Out :=
  if s.clk / 2 ^ 32 ≤ s.rel.halved then .next s
  else
    .next { s with rel := { s.rel with
      halved := s.rel.halved + 1
      pips := s.rel.pips.map (fun (p : Nat × Nat × Nat) =>
        if s.exempt p.1 p.2.1 then p else (p.1, p.2.1, p.2.2 / 2)) } }

/-- A test is done or put off. -/
def State.putTest (s : State) (id : Nat) (u : Option UnitTest) : State :=
  { s with rel := { s.rel with tests := s.rel.tests.filterMap (fun (x : UnitTest) => if x.id = id then u else some x) } }

/-- TEST_VACATE_TIMEOUT (R488): a core not vacated within 10 ms of scheduling returns to placement. -/
def execTestVacateTimeout (test : Nat) (s : State) : Out :=
  match s.rel.tests.find? (fun (u : UnitTest) => u.id == test) with
  | none => .next s
  | some u =>
    match s.testCore u with
    | none => .next s
    | some k =>
      if u.stage = 1 || s.vacated k || decide (s.clk - u.since < 10 * clkPerMs) then .next s
      else
        let s := s.putTest u.id (some { u with stage := 1, since := s.clk })
        .next (s.relRecord (unitDie u.ukind u.unum) 4 u.ukind u.unum (s.pips u.ukind u.unum) 0 0 0)

/-- TEST_RETRY (R488): after 2^27 clk. -/
def execTestRetry (test : Nat) (s : State) : Out :=
  match s.rel.tests.find? (fun (u : UnitTest) => u.id == test) with
  | none => .next s
  | some u =>
    if u.stage ≠ 1 ∨ s.clk - u.since < 2 ^ 27 then .next s
    else .next (s.putTest u.id (some { u with stage := 2, since := s.clk }))

/-- The score of a unit becomes 0. -/
def State.clearPips (s : State) (k n : Nat) : State :=
  { s with rel := { s.rel with pips := s.rel.pips.filter (fun (p : Nat × Nat × Nat) => !(p.1 == k && p.2.1 == n)) } }

/-- A bank group tested in place lies in an allocation: one of the cluster's window, or a range of H (R490); the spec gives no mapping
of the other bank groups (notes/assumptions/76.md). -/
def State.allocated (s : State) (n : Nat) : Bool :=
  let k := Config.granuleCore n
  if k < 216 then !(s.kUsed (clusterOf k)).isEmpty
  else s.ctxs.any (fun (c : Ctx) => c.hr.toList.any (fun v => flag v 63))

/-- The number under which a fence entry names a unit: of an L2 slice with the way that failed (the model's own). -/
def UnitTest.entry (u : UnitTest) : Nat × Nat := (u.ukind, if u.ukind = 4 then u.unum + 4096 * u.way else u.unum)

/-- A unit that failed is fenced, and with a pipe, an engine or a bank group of its scratchpad its core; of an L2 slice the way is
withdrawn, and a bank group in an allocation waits for the next bring-up; a fence entry joins the configuration record (R489, R490). -/
def State.fence (s : State) (u : UnitTest) (core : Option Nat) : State :=
  let more := match core with
    | some k => if u.ukind = 0 then [] else [(0, k)]
    | none => []
  let now := if u.ukind = 3 && core.isNone && s.allocated u.unum then [] else (u.ukind, u.unum) :: more
  let s := { s with rel := { s.rel with fenced := s.rel.fenced ++ now
                                        ways := if u.ukind = 4 then s.rel.ways ++ [(u.unum, u.way)] else s.rel.ways }
                    modl := { s.modl with flash := s.modl.flash ++ [u.entry] } }
  match core with
  | some k => s.clearResv k
  | none =>
    if u.ukind = 5 then { s with modl := { s.modl with planes := s.modl.planes.filter (fun n => n != u.unum) } } else s

/-- A test in place of a bank group passes when 2^32 clk of scrubbing have brought no error (R490). -/
def State.scrubbing (s : State) (u : UnitTest) : Bool :=
  u.ukind == 3 && (s.testCore u).isNone && decide (s.clk - u.since < 2 ^ 32)

/-- TARGETED_TEST_END (R489, R490): the test of a unit, whose core is vacated if it must be, passes or fails; an L2 slice is tested
one way at a time, and passes with the last of its 16. -/
def execTargetedTestEnd (test : Nat) (pass : Bool) (s : State) : Out :=
  match s.rel.tests.find? (fun (u : UnitTest) => u.id == test) with
  | none => .next s
  | some u =>
    let core := s.testCore u
    if u.stage = 1 || core.any (fun k => !s.vacated k) || (pass && s.scrubbing u) then .next s
    else
      let die := unitDie u.ukind u.unum
      if pass && u.ukind == 4 && decide (u.way < 15) then .next (s.putTest u.id (some { u with way := u.way + 1 }))
      else
      let s := s.putTest u.id none
      if pass then
        let s := s.clearPips u.ukind u.unum
        let s := if u.ukind = 5 && !s.modl.planes.contains u.unum then
            { s with modl := { s.modl with planes := insAsc u.unum s.modl.planes } } else s
        .next (s.relRecord die 2 u.ukind u.unum 0 0 0 0)
      else .next ((s.fence u core).relRecord die 3 u.ukind u.unum (s.pips u.ukind u.unum) 0 0 0)

end Sys2Proof.Machine
end

