-- ==== Sys2Proof/Machine/BringUp.lean ====
section
/-! DEFINITION. Bring-up, the power limit, and the closing of trace blocks by time (R502, R503, R523, R524). -/

namespace Sys2Proof.Machine

/-- The module halted in a stage of bring-up: only configuration space lives (Table 18-3). -/
def bootHalt (stage err : Nat) : State :=
  { State.reset with
    ctxs := []
    modl := { State.reset.modl with stage := stage, err := err, cores := [], packages := [], planes := [], modules := [] } }

/-- The core that goes with a fenced vector pipe, matrix engine or scratchpad bank group (R489). -/
def fencedCore (u : Nat × Nat) : Option Nat :=
  match u.1 with
  | 1 => some (u.2 / 2)
  | 2 => some u.2
  | 3 => some (Config.granuleCore u.2)
  | _ => none

/-- The copy of the configuration record that counts: of those with a valid signature, the one with the highest SEQ. -/
def bootRecord (c : BootConfig) : Option BootRecord :=
  (c.records.filter (fun (r : BootRecord) => r.sigOk)).foldl (fun (b : Option BootRecord) (r : BootRecord) =>
    if b.any (fun (x : BootRecord) => decide (r.seq ≤ x.seq)) then b else some r) none

/-- The fence entries that bring-up takes: those of the record up to the first with an invalid signature, and after them, if all are
valid, those that firmware has appended since. -/
def bootFences (r : BootRecord) (flash : List (Nat × Nat)) : List (Nat × Nat) :=
  let ok := r.fences.takeWhile (fun (e : Nat × Nat × Bool) => e.2.2)
  ok.map (fun (e : Nat × Nat × Bool) => (e.1, e.2.1)) ++ (if ok.length = r.fences.length then flash else [])

/-- Packages that the record enables and no fence entry names: an entry of kind 6 names a package (the model's own number). -/
def bootPackages (r : BootRecord) (fences : List (Nat × Nat)) : List Nat :=
  (List.range 24).filter (fun n => r.packages.contains n && !fences.contains (6, n))

/-- The module after bring-up, with what its configuration record and training gave (Table 18-3). -/
def bootDone (c : BootConfig) (r : BootRecord) (flash : List (Nat × Nat)) : State :=
  let all := bootFences r flash
  let fenced := all.filter (fun u => 1 ≤ u.1 && u.1 ≤ 5)
  let shut := all.map (fun u => if u.1 = 0 then some u.2 else fencedCore u)
  let pk := bootPackages r all
  { State.reset with
    rel := { State.reset.rel with
      fenced := fenced
      ways := (fenced.filter (fun u => u.1 == 4)).map (fun u => (u.2 % 4096, u.2 / 4096)) }
    modl := { State.reset.modl with
      fenced := fenced.dedup
      flash := flash ++ (pk.filter (fun n => !c.packages.contains n)).map (fun n => (6, n))
      modNo := r.modNo, domNo := r.domNo
      cores := (List.range 216).filter (fun k => r.cores.contains k && !shut.contains (some k))
      packages := pk.filter c.packages.contains
      planes := (List.range 72).filter (fun n => c.planes.contains n && !fenced.contains (5, n))
      soPorts := (List.range 4).filter c.soPorts.contains
      modules := (List.range 512).filter (fun m => r.modules.contains m || m == r.modNo) } }

/-- POWER_ON (R523). What drives the machine from outside, the numbers of free values, and the fence entries that firmware has
appended to the configuration record go on. -/
def execPowerOn (cfg : BootConfig) (s : State) : Out :=
  let n := if !cfg.copyA && !cfg.copyB then bootHalt 1 1
    else
      match bootRecord cfg with
      | none => bootHalt 2 2
      | some r => if !r.certOk then bootHalt 3 3 else bootDone cfg r s.modl.flash
  let flash := if n.modl.stage = 8 then n.modl.flash else s.modl.flash
  .next { n with modl := { n.modl with flash := flash }, free := s.free, agenda := s.agenda }

/-- MODULE_POWER_LIMIT (R524): cores begin or stop skipping issue clk; only elapsed time changes. -/
def execModulePowerLimit (high : Bool) (s : State) : Out := .next { s with modl := { s.modl with pwr := high } }

/-- The partition that owns a core's cluster. -/
def State.ownerOf (s : State) (core : Nat) : Nat :=
  ((List.range 8).find? (fun p => (s.part p).en && (s.part p).clu.testBit (clusterOf core))).getD 0

/-- TRACE_BLOCK_CLOSE (R503): a block closes 4,096 clk after its first record (DEDUCED, notes/assumptions/56.md). -/
def execTraceBlockClose (core : Nat) (s : State) : Out :=
  let u := (s.core core).trace
  if u.recs = [] ∨ s.clk - u.time < 4096 then .next s else .next (s.closeBlock core (s.ownerOf core))

end Sys2Proof.Machine
end

