-- ==== Sys2Proof/Machine/CrossLane.lean ====
section
/-! DEFINITION. Major 52: shuffles, broadcast, votes, reductions and scans (R293 to R299). -/

namespace Sys2Proof.Machine

/-! ### Shuffles (R294, R295) -/

/-- The result of a shuffle: source lane of each lane, none for the lane itself; the lanes that read a dead lane. -/
def Team.shuffle (t : Team) (act : Mask) (x : VVal) (src : Nat → Option Nat) : VVal × Mask :=
  let rd (l : Nat) : Option Nat := (src l).filter (fun j => j < t.width)
  let hit := maskOf t.width (fun l => act.getLsbD l && (rd l).any (fun j => t.regs.dead.getLsbD j))
  let f (l : Nat) : Wd :=
    match rd l with
    | none => x.lane l
    | some j => if t.regs.dead.getLsbD j then 0 else x.lane j
  match x with
  | .u v => (if hit = 0 then .u v else .g ((List.range t.width).map f), hit)
  | _ => (.g ((List.range t.width).map f), hit)

/-- DEADSRC bits set. -/
def Team.setDeadsrc (t : Team) (m : Mask) : Team := { t with regs := { t.regs with deadsrc := t.regs.deadsrc ||| m } }

/-- The effect of a shuffle. -/
def Team.shufOut (t : Team) (d a : VReg) (m : Option Msk) (src : Nat → Option Nat) : Team :=
  let r := t.shuffle (t.active m) (t.v a) src
  (t.writeMsk d m r.1).setDeadsrc r.2

/-- SHFL (R294): the source lane comes from v(B)[9:0]. -/
def execShfl (d a b : VReg) (m : Option Msk) (s : State) : Out :=
  issue (vInfo [d] [a, b] m)
    (fun t s => s.retire (t.shufOut d a m (fun l => some (((t.v b).lane l).toNat % 1024 % t.width)))) s

/-- A shuffle by a scalar n. -/
def shufS (d a : VReg) (b : SReg) (m : Option Msk) (f : Nat → Nat → Option Nat) (s : State) : Out :=
  issue { vInfo [d] [a] m with sr := [b] } (fun t s => s.retire (t.shufOut d a m (fun l => f l (t.s b).toNat))) s

/-- SHFL.UP (R294). -/
def execShflUp (d a : VReg) (b : SReg) (m : Option Msk) (s : State) : Out :=
  shufS d a b m (fun l n => if n ≤ l then some (l - n) else none) s
/-- SHFL.DN (R294). -/
def execShflDn (d a : VReg) (b : SReg) (m : Option Msk) (s : State) : Out := shufS d a b m (fun l n => some (l + n)) s
/-- SHFL.XOR (R294). -/
def execShflXor (d a : VReg) (b : SReg) (m : Option Msk) (s : State) : Out := shufS d a b m (fun l n => some (l ^^^ n)) s

/-- The effect of BCAST (R295): rule shape U; a dead source gives 0 and sets DEADSRC of every active lane. -/
def Team.bcast (t : Team) (d a : VReg) (m : Option Msk) (n : Nat) : Team :=
  let j := n % t.width
  if t.regs.dead.getLsbD j then (t.writeMsk d m (.u 0)).setDeadsrc (t.active m)
  else t.writeMsk d m (.u ((t.v a).lane j))

/-- BCAST (R295). -/
def execBcast (d a : VReg) (b : SReg) (m : Option Msk) (s : State) : Out :=
  issue { vInfo [d] [a] m with sr := [b] } (fun t s => s.retire (t.bcast d a m (t.s b).toNat)) s

/-! ### Votes (R296) -/

/-- What issue checks of an instruction of major 52 with a scalar destination: Z must be clear (R293). -/
def xInfo (d : SReg) (src : List VReg) (p : List PReg) (m : Option Msk) : Info :=
  { vInfo [] src m with bad := if mskNoZ m then none else some .none, sw := [d], pr := p ++ mskP m }

/-- VOTE.ANY (R296). -/
def execVoteAny (d : SReg) (p : PReg) (m : Option Msk) (s : State) : Out :=
  issue (xInfo d [] [p] m) (fun t s => s.retire (t.setS d (if t.active m &&& t.p p ≠ 0 then 1 else 0))) s

/-- VOTE.ALL (R296). -/
def execVoteAll (d : SReg) (p : PReg) (m : Option Msk) (s : State) : Out :=
  issue (xInfo d [] [p] m) (fun t s => s.retire (t.setS d (if t.active m &&& ~~~(t.p p) = 0 then 1 else 0))) s

/-- BALLOT (R296): lanes 64k to 64k + 63. -/
def execBallot (d : SReg) (p : PReg) (k : BitVec 4) (m : Option Msk) (s : State) : Out :=
  issue (xInfo d [] [p] m) (fun t s => s.retire (t.setS d (((t.active m &&& t.p p) >>> (64 * k.toNat)).setWidth 64))) s

/-! ### Integer reductions and scans (R297) -/

/-- A combining operation: its identity, the function, whether the reduction is sign-extended, whether a scan of a U
value is U. -/
structure IOp where
  idn : Wd
  f : Wd → Wd → Wd
  sx : Bool
  uni : Bool

/-- Sum modulo 2^32 (R297). -/
def ioAdd : IOp := { idn := 0, f := fun x y => x + y, sx := true, uni := false }
/-- Smaller, signed (R297). -/
def ioMin : IOp := { idn := 0x7FFFFFFF, f := fun x y => if y.slt x then y else x, sx := true, uni := true }
/-- Larger, signed (R297). -/
def ioMax : IOp := { idn := 0x80000000, f := fun x y => if x.slt y then y else x, sx := true, uni := true }
/-- Smaller, unsigned (R297). -/
def ioMinu : IOp := { idn := 0xFFFFFFFF, f := fun x y => if y.ult x then y else x, sx := false, uni := true }
/-- Larger, unsigned (R297). -/
def ioMaxu : IOp := { idn := 0, f := fun x y => if x.ult y then y else x, sx := false, uni := true }
/-- AND (R297). -/
def ioAnd : IOp := { idn := 0xFFFFFFFF, f := fun x y => x &&& y, sx := false, uni := true }
/-- OR (R297). -/
def ioOr : IOp := { idn := 0, f := fun x y => x ||| y, sx := false, uni := true }
/-- Exclusive OR (R297). -/
def ioXor : IOp := { idn := 0, f := fun x y => x ^^^ y, sx := false, uni := false }

/-- The running combination of the active lanes in ascending order: lane and value after it. -/
def scanI (op : IOp) (x : VVal) : List Nat → Wd → List (Nat × Wd)
  | [], _ => []
  | l :: r, acc => (l, op.f acc (x.lane l)) :: scanI op x r (op.f acc (x.lane l))

/-- The last value of a scan, or the start. -/
def lastOr (xs : List (Nat × Wd)) (z : Wd) : Wd := (xs.getLast?.map (·.2)).getD z

/-- VRED on integers. -/
def vredI (op : IOp) (d : SReg) (a : VReg) (m : Option Msk) (s : State) : Out :=
  issue (xInfo d [a] [] m)
    (fun t s =>
      let r := lastOr (scanI op (t.v a) (t.lanesOf (t.active m)) op.idn) op.idn
      s.retire (t.setS d (if op.sx then r.signExtend 64 else r.setWidth 64))) s

/-- The lanes of a scan as a vector value. -/
def scanVal (w : Nat) (xs : List (Nat × Wd)) : VVal :=
  .g ((List.range w).map (fun l => ((xs.find? (fun p => p.1 == l)).map (·.2)).getD 0))

/-- The result of VSCAN on integers: U when v(A) is U, the operation keeps one value, and the mask is full. -/
def Team.scanRes (t : Team) (op : IOp) (a : VReg) (m : Option Msk) : VVal :=
  match t.v a with
  | .u x =>
    if op.uni && t.full (t.active m) then .u x
    else scanVal t.width (scanI op (.u x) (t.lanesOf (t.active m)) op.idn)
  | v => scanVal t.width (scanI op v (t.lanesOf (t.active m)) op.idn)

/-- VSCAN on integers. -/
def vscanI (op : IOp) (d a : VReg) (m : Option Msk) (s : State) : Out :=
  issue (vInfo [d] [a] m) (fun t s => s.retire (t.writeMsk d m (t.scanRes op a m))) s

/-- VRED, sum modulo 2^32 (R297). -/
def execVredAdd (d : SReg) (a : VReg) (m : Option Msk) (s : State) : Out := vredI ioAdd d a m s
/-- VRED, smaller, signed (R297). -/
def execVredMin (d : SReg) (a : VReg) (m : Option Msk) (s : State) : Out := vredI ioMin d a m s
/-- VRED, larger, signed (R297). -/
def execVredMax (d : SReg) (a : VReg) (m : Option Msk) (s : State) : Out := vredI ioMax d a m s
/-- VRED, smaller, unsigned (R297). -/
def execVredMinu (d : SReg) (a : VReg) (m : Option Msk) (s : State) : Out := vredI ioMinu d a m s
/-- VRED, larger, unsigned (R297). -/
def execVredMaxu (d : SReg) (a : VReg) (m : Option Msk) (s : State) : Out := vredI ioMaxu d a m s
/-- VRED, AND (R297). -/
def execVredAnd (d : SReg) (a : VReg) (m : Option Msk) (s : State) : Out := vredI ioAnd d a m s
/-- VRED, OR (R297). -/
def execVredOr (d : SReg) (a : VReg) (m : Option Msk) (s : State) : Out := vredI ioOr d a m s
/-- VRED, exclusive OR (R297). -/
def execVredXor (d : SReg) (a : VReg) (m : Option Msk) (s : State) : Out := vredI ioXor d a m s
/-- VSCAN, sum modulo 2^32 (R297). -/
def execVscanAdd (d a : VReg) (m : Option Msk) (s : State) : Out := vscanI ioAdd d a m s
/-- VSCAN, smaller, signed (R297). -/
def execVscanMin (d a : VReg) (m : Option Msk) (s : State) : Out := vscanI ioMin d a m s
/-- VSCAN, larger, signed (R297). -/
def execVscanMax (d a : VReg) (m : Option Msk) (s : State) : Out := vscanI ioMax d a m s
/-- VSCAN, smaller, unsigned (R297). -/
def execVscanMinu (d a : VReg) (m : Option Msk) (s : State) : Out := vscanI ioMinu d a m s
/-- VSCAN, larger, unsigned (R297). -/
def execVscanMaxu (d a : VReg) (m : Option Msk) (s : State) : Out := vscanI ioMaxu d a m s
/-- VSCAN, AND (R297). -/
def execVscanAnd (d a : VReg) (m : Option Msk) (s : State) : Out := vscanI ioAnd d a m s
/-- VSCAN, OR (R297). -/
def execVscanOr (d a : VReg) (m : Option Msk) (s : State) : Out := vscanI ioOr d a m s
/-- VSCAN, exclusive OR (R297). -/
def execVscanXor (d a : VReg) (m : Option Msk) (s : State) : Out := vscanI ioXor d a m s

/-! ### Float reductions and scans (R298) -/

/-- The running float combination: lane, value after it, flags of that step. For min and max the first lane stands
alone (R279). -/
def scanF (f : Nat → Nat → Nat × Nat) (first : Bool) (x : VVal) : List Nat → Nat → List (Nat × Wd × Nat)
  | [], _ => []
  | l :: r, acc =>
    let y := (x.lane l).toNat
    let c := f (if first then y else acc) y
    (l, BitVec.ofNat 32 c.1, c.2) :: scanF f false x r c.1

/-- A float combining operation: 0 add, 1 min, 2 max. -/
def fComb (k md : Nat) (a b : Nat) : Nat × Nat :=
  match k with
  | 0 => fAdd fF32 md a b
  | 1 => fMinMax fF32 false a b
  | _ => fMinMax fF32 true a b

/-- The result over no lane (R298). -/
def fEmpty (k : Nat) : Wd :=
  match k with
  | 0 => 0x80000000
  | 1 => 0x7F800000
  | _ => 0xFF800000

/-- The steps of a float reduction or scan over the active lanes. -/
def Team.fSteps (t : Team) (k : Nat) (a : VReg) (m : Option Msk) : List (Nat × Wd × Nat) :=
  scanF (fComb k (t.modeN none)) (k != 0) (t.v a) (t.lanesOf (t.active m)) (fEmpty k).toNat

/-- What a step tells the flags, the traps and, for an addition, the shadow. -/
def stepLanes (k : Nat) (xs : List (Nat × Wd × Nat)) : List FLane :=
  xs.map (fun p => { lane := p.1, res := p.2.1, fl := [p.2.2], vals := if k = 0 then [fF32.decode p.2.1.toNat] else [] })

/-- VRED on F32; each addition is shadow-checked. -/
def vredF (k : Nat) (d : SReg) (a : VReg) (m : Option Msk) (s : State) : Out :=
  issue (xInfo d [a] [] m).float
    (fun t s =>
      let xs := t.fSteps k a m
      s.fpDone t (stepLanes k xs)
        (fun t => t.setS d ((lastOr (xs.map (fun p => (p.1, p.2.1))) (fEmpty k)).setWidth 64))) s

/-- VSCAN on F32. The rule gives no shape; the result is G (DESIGN CHOICE, notes/assumptions/86.md). -/
def vscanF (k : Nat) (d a : VReg) (m : Option Msk) (s : State) : Out :=
  issue (vInfo [d] [a] m).float
    (fun t s =>
      let xs := t.fSteps k a m
      s.fpDone t (stepLanes k xs)
        (fun t => t.writeMsk d m (scanVal t.width (xs.map (fun p => (p.1, p.2.1)))))) s

/-- VRED.ADD.F32 (R298). -/
def execVredAddF32 (d : SReg) (a : VReg) (m : Option Msk) (s : State) : Out := vredF 0 d a m s
/-- VSCAN.ADD.F32 (R298). -/
def execVscanAddF32 (d a : VReg) (m : Option Msk) (s : State) : Out := vscanF 0 d a m s
/-- VRED.MIN.F32 (R298). -/
def execVredMinF32 (d : SReg) (a : VReg) (m : Option Msk) (s : State) : Out := vredF 1 d a m s
/-- VSCAN.MIN.F32 (R298). -/
def execVscanMinF32 (d a : VReg) (m : Option Msk) (s : State) : Out := vscanF 1 d a m s
/-- VRED.MAX.F32 (R298). -/
def execVredMaxF32 (d : SReg) (a : VReg) (m : Option Msk) (s : State) : Out := vredF 2 d a m s
/-- VSCAN.MAX.F32 (R298). -/
def execVscanMaxF32 (d a : VReg) (m : Option Msk) (s : State) : Out := vscanF 2 d a m s

end Sys2Proof.Machine
end

