-- ==== Sys2Proof/Machine/VecInt.lean ====
section
/-! DEFINITION. Majors 44 to 47: vector integer instructions, VMOV and VSEL (R267 to R275). -/

namespace Sys2Proof.Machine

/-! ### Element operations of Table 8-3: `w` bits wide, operands below 2^w -/

/-- The signed value of an element. -/
def sEl (w x : Nat) : Int := if 2 ^ (w - 1) ≤ x then (x : Int) - 2 ^ w else x

/-- An integer reduced to w bits. -/
def wrapEl (w : Nat) (x : Int) : Nat := (x % 2 ^ w).toNat

/-- An integer clamped to the signed range of w bits, as an element. -/
def clampS (w : Nat) (x : Int) : Nat := wrapEl w (max (-(2 ^ (w - 1))) (min x (2 ^ (w - 1) - 1)))

/-- The shift count of an element: the low log2(W) bits of b. -/
def shCnt (w b : Nat) : Nat := b % w

/-- Add. -/
def eAdd (w a b : Nat) : Nat := (a + b) % 2 ^ w
/-- Subtract. -/
def eSub (w a b : Nat) : Nat := (a + 2 ^ w - b) % 2 ^ w
/-- Multiply, low half. -/
def eMul (w a b : Nat) : Nat := a * b % 2 ^ w
/-- Multiply signed, high half. -/
def eMulhs (w a b : Nat) : Nat := wrapEl w (sEl w a * sEl w b / 2 ^ w)
/-- Multiply unsigned, high half. -/
def eMulhu (w a b : Nat) : Nat := a * b / 2 ^ w
/-- Multiply and add. -/
def eMad (w a b c : Nat) : Nat := (a * b + c) % 2 ^ w
/-- Smaller, signed. -/
def eMin (w a b : Nat) : Nat := if sEl w a < sEl w b then a else b
/-- Larger, signed. -/
def eMax (w a b : Nat) : Nat := if sEl w a < sEl w b then b else a
/-- Smaller, unsigned. -/
def eMinu (_ a b : Nat) : Nat := min a b
/-- Larger, unsigned. -/
def eMaxu (_ a b : Nat) : Nat := max a b
/-- AND. -/
def eAnd (_ a b : Nat) : Nat := a &&& b
/-- OR. -/
def eOr (_ a b : Nat) : Nat := a ||| b
/-- Exclusive OR. -/
def eXor (_ a b : Nat) : Nat := a ^^^ b
/-- AND NOT. -/
def eAndn (_ a b : Nat) : Nat := a - (a &&& b)
/-- Shift left. -/
def eShl (w a b : Nat) : Nat := (a <<< shCnt w b) % 2 ^ w
/-- Shift right. -/
def eShr (w a b : Nat) : Nat := a >>> shCnt w b
/-- Shift right with the sign. -/
def eSar (w a b : Nat) : Nat := wrapEl w (sEl w a / 2 ^ shCnt w b)
/-- Absolute value; the most negative number gives itself. -/
def eAbs (w a : Nat) : Nat := wrapEl w (sEl w a).natAbs
/-- Negation. -/
def eNeg (w a : Nat) : Nat := (2 ^ w - a) % 2 ^ w
/-- Add signed, saturating. -/
def eAdds (w a b : Nat) : Nat := clampS w (sEl w a + sEl w b)
/-- Subtract signed, saturating. -/
def eSubs (w a b : Nat) : Nat := clampS w (sEl w a - sEl w b)
/-- Add unsigned, saturating. -/
def eAddus (w a b : Nat) : Nat := min (a + b) (2 ^ w - 1)
/-- Subtract unsigned, saturating. -/
def eSubus (_ a b : Nat) : Nat := a - b
/-- Leading zero bits. -/
def eClz (w a : Nat) : Nat := if a = 0 then w else w - 1 - Nat.log2 a
/-- One bits. -/
def ePopc (w a : Nat) : Nat := popNat w a

/-! ### Lanes and shapes (R78, R273) -/

/-- An operation of one element on the lanes of a word. -/
def laneOp1 (w : Nat) (f : Nat → Nat → Nat) (x : Wd) : Wd := packElems w ((elems w x).map (f w))

/-- An operation of two elements on the lanes of a word. -/
def laneOp2 (w : Nat) (f : Nat → Nat → Nat → Nat) (x y : Wd) : Wd :=
  packElems w (List.zipWith (f w) (elems w x) (elems w y))

/-- The affine rows of Table 2-4 for a wrapping add. -/
def affAdd : VVal → VVal → Option VVal
  | .a b d, .u x => some (.a (b + x) d)
  | .u x, .a b d => some (.a (x + b) d)
  | .a b d, .a c e => some (.a (b + c) (d + e))
  | _, _ => none

/-- The affine rows for a wrapping subtract. -/
def affSub : VVal → VVal → Option VVal
  | .a b d, .u x => some (.a (b - x) d)
  | .u x, .a b d => some (.a (x - b) (0 - d))
  | .a b d, .a c e => some (.a (b - c) (d - e))
  | _, _ => none

/-- The affine rows for a wrapping multiply, low half. -/
def affMul : VVal → VVal → Option VVal
  | .a b d, .u x => some (.a (b * x) (d * x))
  | .u x, .a b d => some (.a (x * b) (x * d))
  | _, _ => none

/-- The affine row for a shift left. -/
def affShl : VVal → VVal → Option VVal
  | .a b d, .u x => some (.a (b <<< (x.toNat % 32)) (d <<< (x.toNat % 32)))
  | _, _ => none

/-- No affine row. -/
def affNone : VVal → VVal → Option VVal := fun _ _ => none

/-- The result of two sources: the affine rows hold for 32-bit elements only (R273). -/
def vint2 (width : Nat) (w : EW) (f : Nat → Nat → Nat → Nat) (aff : VVal → VVal → Option VVal) (x y : VVal) : VVal :=
  match (if w = .w32 then aff x y else none) with
  | some r => r
  | none => lift2 width (laneOp2 (ewBits w) f) x y

/-- A vector integer instruction of two vector sources. -/
def vBin (w : EW) (f : Nat → Nat → Nat → Nat) (aff : VVal → VVal → Option VVal) (d a b : VReg) (m : Option Msk)
    (s : State) : Out :=
  issue (vInfo [d] [a, b] m) (fun t s => s.retire (t.writeMsk d m (vint2 t.width w f aff (t.v a) (t.v b)))) s

/-- A vector integer instruction whose second source is a scalar or immediate (R268). -/
def vBinS (f : Nat → Nat → Nat → Nat) (aff : VVal → VVal → Option VVal) (d a : VReg) (b : SOrI) (m : Option Msk)
    (s : State) : Out :=
  issue { vInfo [d] [a] m with sr := sOrIReg b }
    (fun t s => s.retire (t.writeMsk d m (vint2 t.width .w32 f aff (t.v a) (.u (t.sOrI b))))) s

/-- A vector integer instruction of one source. -/
def vUn (w : EW) (f : Nat → Nat → Nat) (d a : VReg) (m : Option Msk) (s : State) : Out :=
  issue (vInfo [d] [a] m) (fun t s => s.retire (t.writeMsk d m (lift1 t.width (laneOp1 (ewBits w) f) (t.v a)))) s

/-- a x b + c on the elements of a word. -/
def laneMad (w : Nat) (x y z : Wd) : Wd :=
  packElems w (List.zipWith (fun g c => g c) (List.zipWith (eMad w) (elems w x) (elems w y)) (elems w z))

/-! ### The instructions -/

/-- VADD (R273). -/
def execVadd (w : EW) (d a b : VReg) (m : Option Msk) (s : State) : Out := vBin w eAdd affAdd d a b m s
/-- VSUB (R273). -/
def execVsub (w : EW) (d a b : VReg) (m : Option Msk) (s : State) : Out := vBin w eSub affSub d a b m s
/-- VMUL (R273). -/
def execVmul (w : EW) (d a b : VReg) (m : Option Msk) (s : State) : Out := vBin w eMul affMul d a b m s
/-- VMULHS (R273). -/
def execVmulhs (w : EW) (d a b : VReg) (m : Option Msk) (s : State) : Out := vBin w eMulhs affNone d a b m s
/-- VMULHU (R273). -/
def execVmulhu (w : EW) (d a b : VReg) (m : Option Msk) (s : State) : Out := vBin w eMulhu affNone d a b m s
/-- VMIN (R273). -/
def execVmin (w : EW) (d a b : VReg) (m : Option Msk) (s : State) : Out := vBin w eMin affNone d a b m s
/-- VMAX (R273). -/
def execVmax (w : EW) (d a b : VReg) (m : Option Msk) (s : State) : Out := vBin w eMax affNone d a b m s
/-- VMINU (R273). -/
def execVminu (w : EW) (d a b : VReg) (m : Option Msk) (s : State) : Out := vBin w eMinu affNone d a b m s
/-- VMAXU (R273). -/
def execVmaxu (w : EW) (d a b : VReg) (m : Option Msk) (s : State) : Out := vBin w eMaxu affNone d a b m s
/-- VAND (R273). -/
def execVand (w : EW) (d a b : VReg) (m : Option Msk) (s : State) : Out := vBin w eAnd affNone d a b m s
/-- VOR (R273). -/
def execVor (w : EW) (d a b : VReg) (m : Option Msk) (s : State) : Out := vBin w eOr affNone d a b m s
/-- VXOR (R273). -/
def execVxor (w : EW) (d a b : VReg) (m : Option Msk) (s : State) : Out := vBin w eXor affNone d a b m s
/-- VANDN (R273). -/
def execVandn (w : EW) (d a b : VReg) (m : Option Msk) (s : State) : Out := vBin w eAndn affNone d a b m s
/-- VSHL (R273). -/
def execVshl (w : EW) (d a b : VReg) (m : Option Msk) (s : State) : Out := vBin w eShl affShl d a b m s
/-- VSHR (R273). -/
def execVshr (w : EW) (d a b : VReg) (m : Option Msk) (s : State) : Out := vBin w eShr affNone d a b m s
/-- VSAR (R273). -/
def execVsar (w : EW) (d a b : VReg) (m : Option Msk) (s : State) : Out := vBin w eSar affNone d a b m s
/-- VADDS (R273). -/
def execVadds (w : EW) (d a b : VReg) (m : Option Msk) (s : State) : Out := vBin w eAdds affNone d a b m s
/-- VSUBS (R273). -/
def execVsubs (w : EW) (d a b : VReg) (m : Option Msk) (s : State) : Out := vBin w eSubs affNone d a b m s
/-- VADDUS (R273). -/
def execVaddus (w : EW) (d a b : VReg) (m : Option Msk) (s : State) : Out := vBin w eAddus affNone d a b m s
/-- VSUBUS (R273). -/
def execVsubus (w : EW) (d a b : VReg) (m : Option Msk) (s : State) : Out := vBin w eSubus affNone d a b m s
/-- VABS (R273). -/
def execVabs (w : EW) (d a : VReg) (m : Option Msk) (s : State) : Out := vUn w eAbs d a m s
/-- VNEG (R273). -/
def execVneg (w : EW) (d a : VReg) (m : Option Msk) (s : State) : Out := vUn w eNeg d a m s
/-- VCLZ (R273). -/
def execVclz (w : EW) (d a : VReg) (m : Option Msk) (s : State) : Out := vUn w eClz d a m s
/-- VPOPC (R273). -/
def execVpopc (w : EW) (d a : VReg) (m : Option Msk) (s : State) : Out := vUn w ePopc d a m s
/-- VMAD (R273): the third source is E, or D (R222). -/
def execVmad (w : EW) (d a b : VReg) (e : Option VReg) (m : Option Msk) (s : State) : Out :=
  issue (vInfo [d] [a, b, e.getD d] m)
    (fun t s => s.retire (t.writeMsk d m
      (lift3 t.width (laneMad (ewBits w)) (t.v a) (t.v b) (t.v (e.getD d))))) s
/-- VMOV, major 44 (R274): the shape of the source. -/
def execVmov (d a : VReg) (m : Option Msk) (s : State) : Out :=
  issue (vInfo [d] [a] m) (fun t s => s.retire (t.writeMsk d m (t.v a))) s

/-- VADD, major 47 (R268, R273). -/
def execVaddScalar (d a : VReg) (b : SOrI) (m : Option Msk) (s : State) : Out := vBinS eAdd affAdd d a b m s
/-- VSUB, major 47 (R268, R273). -/
def execVsubScalar (d a : VReg) (b : SOrI) (m : Option Msk) (s : State) : Out := vBinS eSub affSub d a b m s
/-- VMUL, major 47 (R268, R273). -/
def execVmulScalar (d a : VReg) (b : SOrI) (m : Option Msk) (s : State) : Out := vBinS eMul affMul d a b m s
/-- VMULHS, major 47 (R268, R273). -/
def execVmulhsScalar (d a : VReg) (b : SOrI) (m : Option Msk) (s : State) : Out := vBinS eMulhs affNone d a b m s
/-- VMULHU, major 47 (R268, R273). -/
def execVmulhuScalar (d a : VReg) (b : SOrI) (m : Option Msk) (s : State) : Out := vBinS eMulhu affNone d a b m s
/-- VMIN, major 47 (R268, R273). -/
def execVminScalar (d a : VReg) (b : SOrI) (m : Option Msk) (s : State) : Out := vBinS eMin affNone d a b m s
/-- VMAX, major 47 (R268, R273). -/
def execVmaxScalar (d a : VReg) (b : SOrI) (m : Option Msk) (s : State) : Out := vBinS eMax affNone d a b m s
/-- VMINU, major 47 (R268, R273). -/
def execVminuScalar (d a : VReg) (b : SOrI) (m : Option Msk) (s : State) : Out := vBinS eMinu affNone d a b m s
/-- VMAXU, major 47 (R268, R273). -/
def execVmaxuScalar (d a : VReg) (b : SOrI) (m : Option Msk) (s : State) : Out := vBinS eMaxu affNone d a b m s
/-- VAND, major 47 (R268, R273). -/
def execVandScalar (d a : VReg) (b : SOrI) (m : Option Msk) (s : State) : Out := vBinS eAnd affNone d a b m s
/-- VOR, major 47 (R268, R273). -/
def execVorScalar (d a : VReg) (b : SOrI) (m : Option Msk) (s : State) : Out := vBinS eOr affNone d a b m s
/-- VXOR, major 47 (R268, R273). -/
def execVxorScalar (d a : VReg) (b : SOrI) (m : Option Msk) (s : State) : Out := vBinS eXor affNone d a b m s
/-- VANDN, major 47 (R268, R273). -/
def execVandnScalar (d a : VReg) (b : SOrI) (m : Option Msk) (s : State) : Out := vBinS eAndn affNone d a b m s
/-- VSHL, major 47 (R268, R273). -/
def execVshlScalar (d a : VReg) (b : SOrI) (m : Option Msk) (s : State) : Out := vBinS eShl affShl d a b m s
/-- VSHR, major 47 (R268, R273). -/
def execVshrScalar (d a : VReg) (b : SOrI) (m : Option Msk) (s : State) : Out := vBinS eShr affNone d a b m s
/-- VSAR, major 47 (R268, R273). -/
def execVsarScalar (d a : VReg) (b : SOrI) (m : Option Msk) (s : State) : Out := vBinS eSar affNone d a b m s
/-- VADDS, major 47 (R268, R273). -/
def execVaddsScalar (d a : VReg) (b : SOrI) (m : Option Msk) (s : State) : Out := vBinS eAdds affNone d a b m s
/-- VSUBS, major 47 (R268, R273). -/
def execVsubsScalar (d a : VReg) (b : SOrI) (m : Option Msk) (s : State) : Out := vBinS eSubs affNone d a b m s
/-- VADDUS, major 47 (R268, R273). -/
def execVaddusScalar (d a : VReg) (b : SOrI) (m : Option Msk) (s : State) : Out := vBinS eAddus affNone d a b m s
/-- VSUBUS, major 47 (R268, R273). -/
def execVsubusScalar (d a : VReg) (b : SOrI) (m : Option Msk) (s : State) : Out := vBinS eSubus affNone d a b m s
/-- VABS, major 47 (R271, R273). -/
def execVabsScalar (d a : VReg) (m : Option Msk) (s : State) : Out := vUn .w32 eAbs d a m s
/-- VNEG, major 47 (R271, R273). -/
def execVnegScalar (d a : VReg) (m : Option Msk) (s : State) : Out := vUn .w32 eNeg d a m s
/-- VCLZ, major 47 (R271, R273). -/
def execVclzScalar (d a : VReg) (m : Option Msk) (s : State) : Out := vUn .w32 eClz d a m s
/-- VPOPC, major 47 (R271, R273). -/
def execVpopcScalar (d a : VReg) (m : Option Msk) (s : State) : Out := vUn .w32 ePopc d a m s
/-- VMAD, major 47 (R268, R273). -/
def execVmadScalar (d a : VReg) (b : SOrI) (e : Option VReg) (m : Option Msk) (s : State) : Out :=
  issue { vInfo [d] [a, e.getD d] m with sr := sOrIReg b }
    (fun t s => s.retire (t.writeMsk d m
      (lift3 t.width (laneMad 32) (t.v a) (.u (t.sOrI b)) (t.v (e.getD d))))) s
/-- VMOV, major 47 (R274): rule shape U. -/
def execVmovScalar (d : VReg) (b : SOrI) (m : Option Msk) (s : State) : Out :=
  issue { vInfo [d] [] m with sr := sOrIReg b } (fun t s => s.retire (t.writeMsk d m (.u (t.sOrI b)))) s

/-- The registers of a VSEL operand b. -/
def selRegs : SelB → List SReg × List VReg
  | .vec r => ([], [r])
  | .sca b => (sOrIReg b, [])

/-- The value of a VSEL operand b. -/
def Team.selVal (t : Team) : SelB → VVal
  | .vec r => t.v r
  | .sca b => .u (t.sOrI b)

/-- The result of VSEL: U when both sources are U with one value, else G (R275). -/
def Team.vsel (t : Team) (x y : VVal) (k : Msk) : VVal :=
  let sel := if k.n then ~~~(t.p k.p) else t.p k.p
  match x, y with
  | .u a, .u b => if a = b then .u a else .g (blend sel (x.lanes t.width) (y.lanes t.width))
  | _, _ => .g (blend sel (x.lanes t.width) (y.lanes t.width))

/-- VSEL (R275): MSK is the selector and does not narrow the lanes. -/
def execVsel (d a : VReg) (b : SelB) (m : Msk) (s : State) : Out :=
  issue { vInfo [d] (a :: (selRegs b).2) none with sr := (selRegs b).1, pr := mskP (some m) }
    (fun t s => s.retire (t.writeMsk d none (t.vsel (t.v a) (t.selVal b) m))) s

end Sys2Proof.Machine
end

