-- ==== Sys2Proof/Machine/Dispatch.lean ====
section
/-! DEFINITION. The dispatch of every row of the opcode table to its meaning. -/

namespace Sys2Proof.Machine

/-- The effect of an instruction or machine event on the state. -/
def exec (i : Instr) (s : State) : Host.Outcome State Fault Refusal :=
  match i with
  | .br o => Sys2Proof.Machine.execBr o s
  | .brcEq sv o => Sys2Proof.Machine.execBrcEq sv o s
  | .brcNe sv o => Sys2Proof.Machine.execBrcNe sv o s
  | .brcLt sv o => Sys2Proof.Machine.execBrcLt sv o s
  | .brcGe sv o => Sys2Proof.Machine.execBrcGe sv o s
  | .bany p o => Sys2Proof.Machine.execBany p o s
  | .bnone p o => Sys2Proof.Machine.execBnone p o s
  | .balw sv t o => Sys2Proof.Machine.execBalw sv t o s
  | .call o => Sys2Proof.Machine.execCall o s
  | .nop => Sys2Proof.Machine.execNop s
  | .exit => Sys2Proof.Machine.execExit s
  | .yld => Sys2Proof.Machine.execYld s
  | .ret a => Sys2Proof.Machine.execRet a s
  | .callr a => Sys2Proof.Machine.execCallr a s
  | .brr a => Sys2Proof.Machine.execBrr a s
  | .trap n => Sys2Proof.Machine.execTrap n s
  | .pdis => Sys2Proof.Machine.execPdis s
  | .pen => Sys2Proof.Machine.execPen s
  | .icinv c a b => Sys2Proof.Machine.execIcinv c a b s
  | .add d a b => Sys2Proof.Machine.execAdd d a b s
  | .sub d a b => Sys2Proof.Machine.execSub d a b s
  | .mul d a b => Sys2Proof.Machine.execMul d a b s
  | .mulhs d a b => Sys2Proof.Machine.execMulhs d a b s
  | .mulhu d a b => Sys2Proof.Machine.execMulhu d a b s
  | .div d a b => Sys2Proof.Machine.execDiv d a b s
  | .divu d a b => Sys2Proof.Machine.execDivu d a b s
  | .rem d a b => Sys2Proof.Machine.execRem d a b s
  | .remu d a b => Sys2Proof.Machine.execRemu d a b s
  | .and d a b => Sys2Proof.Machine.execAnd d a b s
  | .or d a b => Sys2Proof.Machine.execOr d a b s
  | .xor d a b => Sys2Proof.Machine.execXor d a b s
  | .andn d a b => Sys2Proof.Machine.execAndn d a b s
  | .shl d a b => Sys2Proof.Machine.execShl d a b s
  | .shr d a b => Sys2Proof.Machine.execShr d a b s
  | .sar d a b => Sys2Proof.Machine.execSar d a b s
  | .rol d a b => Sys2Proof.Machine.execRol d a b s
  | .min d a b => Sys2Proof.Machine.execMin d a b s
  | .max d a b => Sys2Proof.Machine.execMax d a b s
  | .minu d a b => Sys2Proof.Machine.execMinu d a b s
  | .maxu d a b => Sys2Proof.Machine.execMaxu d a b s
  | .slt d a b => Sys2Proof.Machine.execSlt d a b s
  | .sltu d a b => Sys2Proof.Machine.execSltu d a b s
  | .seq d a b => Sys2Proof.Machine.execSeq d a b s
  | .clz d a => Sys2Proof.Machine.execClz d a s
  | .popc d a => Sys2Proof.Machine.execPopc d a s
  | .addi d a iv => Sys2Proof.Machine.execAddi d a iv s
  | .muli d a iv => Sys2Proof.Machine.execMuli d a iv s
  | .andi d a iv => Sys2Proof.Machine.execAndi d a iv s
  | .ori d a iv => Sys2Proof.Machine.execOri d a iv s
  | .xori d a iv => Sys2Proof.Machine.execXori d a iv s
  | .shli d a iv => Sys2Proof.Machine.execShli d a iv s
  | .shri d a iv => Sys2Proof.Machine.execShri d a iv s
  | .sari d a iv => Sys2Proof.Machine.execSari d a iv s
  | .slti d a iv => Sys2Proof.Machine.execSlti d a iv s
  | .sltui d a iv => Sys2Proof.Machine.execSltui d a iv s
  | .seqi d a iv => Sys2Proof.Machine.execSeqi d a iv s
  | .li d iv => Sys2Proof.Machine.execLi d iv s
  | .lih d a iv => Sys2Proof.Machine.execLih d a iv s
  | .srrd d n => Sys2Proof.Machine.execSrrd d n s
  | .srwr n a => Sys2Proof.Machine.execSrwr n a s
  | .msave d => Sys2Proof.Machine.execMsave d s
  | .mrstr a => Sys2Proof.Machine.execMrstr a s
  | .mand a => Sys2Proof.Machine.execMand a s
  | .mandn a => Sys2Proof.Machine.execMandn a s
  | .mor a => Sys2Proof.Machine.execMor a s
  | .mnot a => Sys2Proof.Machine.execMnot a s
  | .mcnt d a => Sys2Proof.Machine.execMcnt d a s
  | .mfirst d a => Sys2Proof.Machine.execMfirst d a s
  | .pand d a b => Sys2Proof.Machine.execPand d a b s
  | .por d a b => Sys2Proof.Machine.execPor d a b s
  | .pxor d a b => Sys2Proof.Machine.execPxor d a b s
  | .pandn d a b => Sys2Proof.Machine.execPandn d a b s
  | .pnot d a => Sys2Proof.Machine.execPnot d a s
  | .ppack v f c => Sys2Proof.Machine.execPpack v f c s
  | .punpk f v c => Sys2Proof.Machine.execPunpk f v c s
  | .pcmp d a b cc ty m => Sys2Proof.Machine.execPcmp d a b cc ty m s
  | .ld y z d a m => Sys2Proof.Machine.execLd y z d a m s
  | .ldAcq z sc d a m => Sys2Proof.Machine.execLdAcq z sc d a m s
  | .pf a m => Sys2Proof.Machine.execPf a m s
  | .pfSpec a m => Sys2Proof.Machine.execPfSpec a m s
  | .st n z a d m => Sys2Proof.Machine.execSt n z a d m s
  | .stRel z sc a d m => Sys2Proof.Machine.execStRel z sc a d m s
  | .ldScalar z d a => Sys2Proof.Machine.execLdScalar z d a s
  | .ldScalarAcq z sc d a => Sys2Proof.Machine.execLdScalarAcq z sc d a s
  | .stScalar z a d => Sys2Proof.Machine.execStScalar z a d s
  | .stScalarRel z sc a d => Sys2Proof.Machine.execStScalarRel z sc a d s
  | .atomAdd x => Sys2Proof.Machine.execAtomAdd x s
  | .atomSub x => Sys2Proof.Machine.execAtomSub x s
  | .atomMin x => Sys2Proof.Machine.execAtomMin x s
  | .atomMax x => Sys2Proof.Machine.execAtomMax x s
  | .atomAnd x => Sys2Proof.Machine.execAtomAnd x s
  | .atomOr x => Sys2Proof.Machine.execAtomOr x s
  | .atomXor x => Sys2Proof.Machine.execAtomXor x s
  | .atomExch x => Sys2Proof.Machine.execAtomExch x s
  | .atomCas x => Sys2Proof.Machine.execAtomCas x s
  | .atomFaddt x => Sys2Proof.Machine.execAtomFaddt x s
  | .vadd w d a b m => Sys2Proof.Machine.execVadd w d a b m s
  | .vsub w d a b m => Sys2Proof.Machine.execVsub w d a b m s
  | .vmul w d a b m => Sys2Proof.Machine.execVmul w d a b m s
  | .vmulhs w d a b m => Sys2Proof.Machine.execVmulhs w d a b m s
  | .vmulhu w d a b m => Sys2Proof.Machine.execVmulhu w d a b m s
  | .vmad w d a b e m => Sys2Proof.Machine.execVmad w d a b e m s
  | .vmin w d a b m => Sys2Proof.Machine.execVmin w d a b m s
  | .vmax w d a b m => Sys2Proof.Machine.execVmax w d a b m s
  | .vminu w d a b m => Sys2Proof.Machine.execVminu w d a b m s
  | .vmaxu w d a b m => Sys2Proof.Machine.execVmaxu w d a b m s
  | .vand w d a b m => Sys2Proof.Machine.execVand w d a b m s
  | .vor w d a b m => Sys2Proof.Machine.execVor w d a b m s
  | .vxor w d a b m => Sys2Proof.Machine.execVxor w d a b m s
  | .vandn w d a b m => Sys2Proof.Machine.execVandn w d a b m s
  | .vshl w d a b m => Sys2Proof.Machine.execVshl w d a b m s
  | .vshr w d a b m => Sys2Proof.Machine.execVshr w d a b m s
  | .vsar w d a b m => Sys2Proof.Machine.execVsar w d a b m s
  | .vabs w d a m => Sys2Proof.Machine.execVabs w d a m s
  | .vneg w d a m => Sys2Proof.Machine.execVneg w d a m s
  | .vadds w d a b m => Sys2Proof.Machine.execVadds w d a b m s
  | .vsubs w d a b m => Sys2Proof.Machine.execVsubs w d a b m s
  | .vaddus w d a b m => Sys2Proof.Machine.execVaddus w d a b m s
  | .vsubus w d a b m => Sys2Proof.Machine.execVsubus w d a b m s
  | .vclz w d a m => Sys2Proof.Machine.execVclz w d a m s
  | .vpopc w d a m => Sys2Proof.Machine.execVpopc w d a m s
  | .vmov d a m => Sys2Proof.Machine.execVmov d a m s
  | .vaddScalar d a b m => Sys2Proof.Machine.execVaddScalar d a b m s
  | .vsubScalar d a b m => Sys2Proof.Machine.execVsubScalar d a b m s
  | .vmulScalar d a b m => Sys2Proof.Machine.execVmulScalar d a b m s
  | .vmulhsScalar d a b m => Sys2Proof.Machine.execVmulhsScalar d a b m s
  | .vmulhuScalar d a b m => Sys2Proof.Machine.execVmulhuScalar d a b m s
  | .vmadScalar d a b e m => Sys2Proof.Machine.execVmadScalar d a b e m s
  | .vminScalar d a b m => Sys2Proof.Machine.execVminScalar d a b m s
  | .vmaxScalar d a b m => Sys2Proof.Machine.execVmaxScalar d a b m s
  | .vminuScalar d a b m => Sys2Proof.Machine.execVminuScalar d a b m s
  | .vmaxuScalar d a b m => Sys2Proof.Machine.execVmaxuScalar d a b m s
  | .vandScalar d a b m => Sys2Proof.Machine.execVandScalar d a b m s
  | .vorScalar d a b m => Sys2Proof.Machine.execVorScalar d a b m s
  | .vxorScalar d a b m => Sys2Proof.Machine.execVxorScalar d a b m s
  | .vandnScalar d a b m => Sys2Proof.Machine.execVandnScalar d a b m s
  | .vshlScalar d a b m => Sys2Proof.Machine.execVshlScalar d a b m s
  | .vshrScalar d a b m => Sys2Proof.Machine.execVshrScalar d a b m s
  | .vsarScalar d a b m => Sys2Proof.Machine.execVsarScalar d a b m s
  | .vabsScalar d a m => Sys2Proof.Machine.execVabsScalar d a m s
  | .vnegScalar d a m => Sys2Proof.Machine.execVnegScalar d a m s
  | .vaddsScalar d a b m => Sys2Proof.Machine.execVaddsScalar d a b m s
  | .vsubsScalar d a b m => Sys2Proof.Machine.execVsubsScalar d a b m s
  | .vaddusScalar d a b m => Sys2Proof.Machine.execVaddusScalar d a b m s
  | .vsubusScalar d a b m => Sys2Proof.Machine.execVsubusScalar d a b m s
  | .vclzScalar d a m => Sys2Proof.Machine.execVclzScalar d a m s
  | .vpopcScalar d a m => Sys2Proof.Machine.execVpopcScalar d a m s
  | .vmovScalar d b m => Sys2Proof.Machine.execVmovScalar d b m s
  | .vsel d a b m => Sys2Proof.Machine.execVsel d a b m s
  | .vfaddF32 d a b m rm => Sys2Proof.Machine.execVfaddF32 d a b m rm s
  | .vfsubF32 d a b m rm => Sys2Proof.Machine.execVfsubF32 d a b m rm s
  | .vfmulF32 d a b m rm => Sys2Proof.Machine.execVfmulF32 d a b m rm s
  | .vfmaF32 d a b e m rm => Sys2Proof.Machine.execVfmaF32 d a b e m rm s
  | .vfmsF32 d a b e m rm => Sys2Proof.Machine.execVfmsF32 d a b e m rm s
  | .vfnmaF32 d a b e m rm => Sys2Proof.Machine.execVfnmaF32 d a b e m rm s
  | .vfminF32 d a b m rm => Sys2Proof.Machine.execVfminF32 d a b m rm s
  | .vfmaxF32 d a b m rm => Sys2Proof.Machine.execVfmaxF32 d a b m rm s
  | .vfdivF32 d a b m rm => Sys2Proof.Machine.execVfdivF32 d a b m rm s
  | .vfsqrtF32 d a m rm => Sys2Proof.Machine.execVfsqrtF32 d a m rm s
  | .vfrcpF32 d a m rm => Sys2Proof.Machine.execVfrcpF32 d a m rm s
  | .vfrsqF32 d a m rm => Sys2Proof.Machine.execVfrsqF32 d a m rm s
  | .vfabsF32 d a m rm => Sys2Proof.Machine.execVfabsF32 d a m rm s
  | .vfnegF32 d a m rm => Sys2Proof.Machine.execVfnegF32 d a m rm s
  | .vfexp2F32 d a m rm => Sys2Proof.Machine.execVfexp2F32 d a m rm s
  | .vflog2F32 d a m rm => Sys2Proof.Machine.execVflog2F32 d a m rm s
  | .vfaddPacked t d a b m rm => Sys2Proof.Machine.execVfaddPacked t d a b m rm s
  | .vfsubPacked t d a b m rm => Sys2Proof.Machine.execVfsubPacked t d a b m rm s
  | .vfmulPacked t d a b m rm => Sys2Proof.Machine.execVfmulPacked t d a b m rm s
  | .vfmaPacked t d a b e m rm => Sys2Proof.Machine.execVfmaPacked t d a b e m rm s
  | .vfmsPacked t d a b e m rm => Sys2Proof.Machine.execVfmsPacked t d a b e m rm s
  | .vfnmaPacked t d a b e m rm => Sys2Proof.Machine.execVfnmaPacked t d a b e m rm s
  | .vfminPacked t d a b m rm => Sys2Proof.Machine.execVfminPacked t d a b m rm s
  | .vfmaxPacked t d a b m rm => Sys2Proof.Machine.execVfmaxPacked t d a b m rm s
  | .vfdivPacked t d a b m rm => Sys2Proof.Machine.execVfdivPacked t d a b m rm s
  | .vfsqrtPacked t d a m rm => Sys2Proof.Machine.execVfsqrtPacked t d a m rm s
  | .vfrcpPacked t d a m rm => Sys2Proof.Machine.execVfrcpPacked t d a m rm s
  | .vfrsqPacked t d a m rm => Sys2Proof.Machine.execVfrsqPacked t d a m rm s
  | .vfabsPacked t d a m rm => Sys2Proof.Machine.execVfabsPacked t d a m rm s
  | .vfnegPacked t d a m rm => Sys2Proof.Machine.execVfnegPacked t d a m rm s
  | .vfexp2Packed t d a m rm => Sys2Proof.Machine.execVfexp2Packed t d a m rm s
  | .vflog2Packed t d a m rm => Sys2Proof.Machine.execVflog2Packed t d a m rm s
  | .vfaddScalar d a b m rm => Sys2Proof.Machine.execVfaddScalar d a b m rm s
  | .vfsubScalar d a b m rm => Sys2Proof.Machine.execVfsubScalar d a b m rm s
  | .vfmulScalar d a b m rm => Sys2Proof.Machine.execVfmulScalar d a b m rm s
  | .vfmaScalar d a b e m rm => Sys2Proof.Machine.execVfmaScalar d a b e m rm s
  | .vfmsScalar d a b e m rm => Sys2Proof.Machine.execVfmsScalar d a b e m rm s
  | .vfnmaScalar d a b e m rm => Sys2Proof.Machine.execVfnmaScalar d a b e m rm s
  | .vfminScalar d a b m rm => Sys2Proof.Machine.execVfminScalar d a b m rm s
  | .vfmaxScalar d a b m rm => Sys2Proof.Machine.execVfmaxScalar d a b m rm s
  | .vfdivScalar d a b m rm => Sys2Proof.Machine.execVfdivScalar d a b m rm s
  | .vfsqrtScalar d a m rm => Sys2Proof.Machine.execVfsqrtScalar d a m rm s
  | .vfrcpScalar d a m rm => Sys2Proof.Machine.execVfrcpScalar d a m rm s
  | .vfrsqScalar d a m rm => Sys2Proof.Machine.execVfrsqScalar d a m rm s
  | .vfabsScalar d a m rm => Sys2Proof.Machine.execVfabsScalar d a m rm s
  | .vfnegScalar d a m rm => Sys2Proof.Machine.execVfnegScalar d a m rm s
  | .vfexp2Scalar d a m rm => Sys2Proof.Machine.execVfexp2Scalar d a m rm s
  | .vflog2Scalar d a m rm => Sys2Proof.Machine.execVflog2Scalar d a m rm s
  | .vcvt d a sel src dst m rm => Sys2Proof.Machine.execVcvt d a sel src dst m rm s
  | .qcvt d a b src dst m rm => Sys2Proof.Machine.execQcvt d a b src dst m rm s
  | .shtag d a => Sys2Proof.Machine.execShtag d a s
  | .shpromote d => Sys2Proof.Machine.execShpromote d s
  | .shtry d p => Sys2Proof.Machine.execShtry d p s
  | .shfl d a b m => Sys2Proof.Machine.execShfl d a b m s
  | .shflUp d a b m => Sys2Proof.Machine.execShflUp d a b m s
  | .shflDn d a b m => Sys2Proof.Machine.execShflDn d a b m s
  | .shflXor d a b m => Sys2Proof.Machine.execShflXor d a b m s
  | .bcast d a b m => Sys2Proof.Machine.execBcast d a b m s
  | .voteAny d p m => Sys2Proof.Machine.execVoteAny d p m s
  | .voteAll d p m => Sys2Proof.Machine.execVoteAll d p m s
  | .ballot d p k m => Sys2Proof.Machine.execBallot d p k m s
  | .vredAdd d a m => Sys2Proof.Machine.execVredAdd d a m s
  | .vredMin d a m => Sys2Proof.Machine.execVredMin d a m s
  | .vredMax d a m => Sys2Proof.Machine.execVredMax d a m s
  | .vredMinu d a m => Sys2Proof.Machine.execVredMinu d a m s
  | .vredMaxu d a m => Sys2Proof.Machine.execVredMaxu d a m s
  | .vredAnd d a m => Sys2Proof.Machine.execVredAnd d a m s
  | .vredOr d a m => Sys2Proof.Machine.execVredOr d a m s
  | .vredXor d a m => Sys2Proof.Machine.execVredXor d a m s
  | .vredAddF32 d a m => Sys2Proof.Machine.execVredAddF32 d a m s
  | .vredMinF32 d a m => Sys2Proof.Machine.execVredMinF32 d a m s
  | .vredMaxF32 d a m => Sys2Proof.Machine.execVredMaxF32 d a m s
  | .vscanAdd d a m => Sys2Proof.Machine.execVscanAdd d a m s
  | .vscanMin d a m => Sys2Proof.Machine.execVscanMin d a m s
  | .vscanMax d a m => Sys2Proof.Machine.execVscanMax d a m s
  | .vscanMinu d a m => Sys2Proof.Machine.execVscanMinu d a m s
  | .vscanMaxu d a m => Sys2Proof.Machine.execVscanMaxu d a m s
  | .vscanAnd d a m => Sys2Proof.Machine.execVscanAnd d a m s
  | .vscanOr d a m => Sys2Proof.Machine.execVscanOr d a m s
  | .vscanXor d a m => Sys2Proof.Machine.execVscanXor d a m s
  | .vscanAddF32 d a m => Sys2Proof.Machine.execVscanAddF32 d a m s
  | .vscanMinF32 d a m => Sys2Proof.Machine.execVscanMinF32 d a m s
  | .vscanMaxF32 d a m => Sys2Proof.Machine.execVscanMaxF32 d a m s
  | .barG iv => Sys2Proof.Machine.execBarG iv s
  | .barC iv => Sys2Proof.Machine.execBarC iv s
  | .barL iv => Sys2Proof.Machine.execBarL iv s
  | .fence k sv => Sys2Proof.Machine.execFence k sv s
  | .wait l sv c t => Sys2Proof.Machine.execWait l sv c t s
  | .tlwait n k o c sv => Sys2Proof.Machine.execTlwait n k o c sv s
  | .waita a p => Sys2Proof.Machine.execWaita a p s
  | .rdenter => Sys2Proof.Machine.execRdenter s
  | .rdexit => Sys2Proof.Machine.execRdexit s
  | .wround sv => Sys2Proof.Machine.execWround sv s
  | .dfree a b c => Sys2Proof.Machine.execDfree a b c s
  | .alwrd d a => Sys2Proof.Machine.execAlwrd d a s
  | .cpy d p r n => Sys2Proof.Machine.execCpy d p r n s
  | .cpy2d d p r n => Sys2Proof.Machine.execCpy2d d p r n s
  | .cpyg d p r v => Sys2Proof.Machine.execCpyg d p r v s
  | .qputMemory sv r p q => Sys2Proof.Machine.execQputMemory sv r p q s
  | .qputRegister v q => Sys2Proof.Machine.execQputRegister v q s
  | .qgetVector d q => Sys2Proof.Machine.execQgetVector d q s
  | .qgetScalar d q => Sys2Proof.Machine.execQgetScalar d q s
  | .tlread d o c k => Sys2Proof.Machine.execTlread d o c k s
  | .tfetchC d => Sys2Proof.Machine.execTfetchC d s
  | .tfetchQ d p q => Sys2Proof.Machine.execTfetchQ d p q s
  | .coll d => Sys2Proof.Machine.execColl d s
  | .mma128x128 q t sv a b => Sys2Proof.Machine.execMma128x128 q t sv a b s
  | .mma128x64 q t sv a b p => Sys2Proof.Machine.execMma128x64 q t sv a b p s
  | .mma64x128 q t sv a b p => Sys2Proof.Machine.execMma64x128 q t sv a b p s
  | .mma64x64 q t sv a b p => Sys2Proof.Machine.execMma64x64 q t sv a b p s
  | .mma32x128 q t sv a b p => Sys2Proof.Machine.execMma32x128 q t sv a b p s
  | .mma128x32 q t sv a b p => Sys2Proof.Machine.execMma128x32 q t sv a b p s
  | .accz t => Sys2Proof.Machine.execAccz t s
  | .accld q t g => Sys2Proof.Machine.execAccld q t g s
  | .accst q t g => Sys2Proof.Machine.execAccst q t g s
  | .accmv t u => Sys2Proof.Machine.execAccmv t u s
  | .accovx q t c => Sys2Proof.Machine.execAccovx q t c s
  | .tspawn d a => Sys2Proof.Machine.execTspawn d a s
  | .tspawnRel d b => Sys2Proof.Machine.execTspawnRel d b s
  | .frd d a => Sys2Proof.Machine.execFrd d a s
  | .fwr a b => Sys2Proof.Machine.execFwr a b s
  | .fwrClr d a => Sys2Proof.Machine.execFwrClr d a s
  | .lpost d a q => Sys2Proof.Machine.execLpost d a q s
  | .give d k => Sys2Proof.Machine.execGive d k s
  | .claim d k => Sys2Proof.Machine.execClaim d k s
  | .sread d a => Sys2Proof.Machine.execSread d a s
  | .csrrd d a => Sys2Proof.Machine.execCsrrd d a s
  | .csrwr a b => Sys2Proof.Machine.execCsrwr a b s
  | .tlbinv sv a b => Sys2Proof.Machine.execTlbinv sv a b s
  | .caprd d a => Sys2Proof.Machine.execCaprd d a s
  | .hreg d a b => Sys2Proof.Machine.execHreg d a b s
  | .pkrd d a => Sys2Proof.Machine.execPkrd d a s
  | .pkwr d a b => Sys2Proof.Machine.execPkwr d a b s
  | .pkres d a => Sys2Proof.Machine.execPkres d a s
  | .pkretry d a => Sys2Proof.Machine.execPkretry d a s
  | .pkredir d a b => Sys2Proof.Machine.execPkredir d a b s
  | .pkkill d a => Sys2Proof.Machine.execPkkill d a s
  | .clauseIssue core => Sys2Proof.Machine.execClauseIssue core s
  | .preEmption team => Sys2Proof.Machine.execPreEmption team s
  | .swapIn team => Sys2Proof.Machine.execSwapIn team s
  | .faultTaskRaise record => Sys2Proof.Machine.execFaultTaskRaise record s
  | .pendingFaultTaskSend => Sys2Proof.Machine.execPendingFaultTaskSend s
  | .faultBankFullRefusal message => Sys2Proof.Machine.execFaultBankFullRefusal message s
  | .deckDispatch core => Sys2Proof.Machine.execDeckDispatch core s
  | .taskStart core => Sys2Proof.Machine.execTaskStart core s
  | .deckAging => Sys2Proof.Machine.execDeckAging s
  | .taskDeadlineExpiry task => Sys2Proof.Machine.execTaskDeadlineExpiry task s
  | .recordDeadlineExpiry record => Sys2Proof.Machine.execRecordDeadlineExpiry record s
  | .faultTaskDeadlineExpiry task => Sys2Proof.Machine.execFaultTaskDeadlineExpiry task s
  | .runBudgetExpiry group => Sys2Proof.Machine.execRunBudgetExpiry group s
  | .disableBudgetExpiry team => Sys2Proof.Machine.execDisableBudgetExpiry team s
  | .barrierWatchdogExpiry barrier => Sys2Proof.Machine.execBarrierWatchdogExpiry barrier s
  | .stalemate part => Sys2Proof.Machine.execStalemate part s
  | .contextReset ctx => Sys2Proof.Machine.execContextReset ctx s
  | .contextResetProgress ctx => Sys2Proof.Machine.execContextResetProgress ctx s
  | .contextEnable ctx => Sys2Proof.Machine.execContextEnable ctx s
  | .contextDisable ctx => Sys2Proof.Machine.execContextDisable ctx s
  | .partitionEnable part => Sys2Proof.Machine.execPartitionEnable part s
  | .partitionSeal part => Sys2Proof.Machine.execPartitionSeal part s
  | .partitionDisable part => Sys2Proof.Machine.execPartitionDisable part s
  | .hRangeGrant ctx k v => Sys2Proof.Machine.execHRangeGrant ctx k v s
  | .reclaimGroupDesignate ctx v => Sys2Proof.Machine.execReclaimGroupDesignate ctx v s
  | .groupOverflowWrite group v => Sys2Proof.Machine.execGroupOverflowWrite group v s
  | .fabannWrite bound => Sys2Proof.Machine.execFabannWrite bound s
  | .launchQueueEnable ctx q v => Sys2Proof.Machine.execLaunchQueueEnable ctx q v s
  | .launchQueueDisable ctx q => Sys2Proof.Machine.execLaunchQueueDisable ctx q s
  | .frontEndMonitorWake ctx q => Sys2Proof.Machine.execFrontEndMonitorWake ctx q s
  | .commandSeqReread ctx q => Sys2Proof.Machine.execCommandSeqReread ctx q s
  | .launch ctx q => Sys2Proof.Machine.execLaunch ctx q s
  | .ib ctx q => Sys2Proof.Machine.execIb ctx q s
  | .pred ctx q => Sys2Proof.Machine.execPred ctx q s
  | .loop ctx q => Sys2Proof.Machine.execLoop ctx q s
  | .wrmem ctx q => Sys2Proof.Machine.execWrmem ctx q s
  | .waitmem ctx q => Sys2Proof.Machine.execWaitmem ctx q s
  | .ffence ctx q => Sys2Proof.Machine.execFfence ctx q s
  | .tlsig ctx q => Sys2Proof.Machine.execTlsig ctx q s
  | .nopPacket ctx q => Sys2Proof.Machine.execNopPacket ctx q s
  | .link ctx q => Sys2Proof.Machine.execLink ctx q s
  | .postedLaunchHandover ctx q => Sys2Proof.Machine.execPostedLaunchHandover ctx q s
  | .placementStep part => Sys2Proof.Machine.execPlacementStep part s
  | .groupEnd group => Sys2Proof.Machine.execGroupEnd group s
  | .barrierComplete barrier => Sys2Proof.Machine.execBarrierComplete barrier s
  | .roundComplete round => Sys2Proof.Machine.execRoundComplete round s
  | .schedulerRoundStart ctx => Sys2Proof.Machine.execSchedulerRoundStart ctx s
  | .dfreeQueueingComplete entry => Sys2Proof.Machine.execDfreeQueueingComplete entry s
  | .reclaimQueueFill ctx => Sys2Proof.Machine.execReclaimQueueFill ctx s
  | .waitaWake team => Sys2Proof.Machine.execWaitaWake team s
  | .spuriousWake team => Sys2Proof.Machine.execSpuriousWake team s
  | .waitConditionMet team => Sys2Proof.Machine.execWaitConditionMet team s
  | .lineRequestReturn access data => Sys2Proof.Machine.execLineRequestReturn access data s
  | .fabricBatchSend batch => Sys2Proof.Machine.execFabricBatchSend batch s
  | .queueSlotFill op slot data => Sys2Proof.Machine.execQueueSlotFill op slot data s
  | .hardwarePrefetch core ctx va => Sys2Proof.Machine.execHardwarePrefetch core ctx va s
  | .copySegmentComplete op seg err => Sys2Proof.Machine.execCopySegmentComplete op seg err s
  | .tileOperationComplete op err => Sys2Proof.Machine.execTileOperationComplete op err s
  | .tilePinGrant core => Sys2Proof.Machine.execTilePinGrant core s
  | .matrixEngineReset core => Sys2Proof.Machine.execMatrixEngineReset core s
  | .collectiveComplete op data => Sys2Proof.Machine.execCollectiveComplete op data s
  | .atomicServicePerform cluster shadow => Sys2Proof.Machine.execAtomicServicePerform cluster shadow s
  | .readRequest p => Sys2Proof.Machine.execReadRequest p s
  | .readReply p => Sys2Proof.Machine.execReadReply p s
  | .write p => Sys2Proof.Machine.execWrite p s
  | .atomicRequest p => Sys2Proof.Machine.execAtomicRequest p s
  | .atomicReply p => Sys2Proof.Machine.execAtomicReply p s
  | .acknowledgement p => Sys2Proof.Machine.execAcknowledgement p s
  | .faultLaneMessage p msg => Sys2Proof.Machine.execFaultLaneMessage p msg s
  | .recoveryAnnouncement p => Sys2Proof.Machine.execRecoveryAnnouncement p s
  | .announcementBoundExpiry peer => Sys2Proof.Machine.execAnnouncementBoundExpiry peer s
  | .fabricAckTrigger peer lane => Sys2Proof.Machine.execFabricAckTrigger peer lane s
  | .fabricRetransmit peer lane psn => Sys2Proof.Machine.execFabricRetransmit peer lane psn s
  | .linkTimeout peer => Sys2Proof.Machine.execLinkTimeout peer s
  | .portRetrain plane => Sys2Proof.Machine.execPortRetrain plane s
  | .hostModuleReset => Sys2Proof.Machine.execHostModuleReset s
  | .hostBarAccess bar off wr len => Sys2Proof.Machine.execHostBarAccess bar off wr len s
  | .capOffsetWrite off => Sys2Proof.Machine.execCapOffsetWrite off s
  | .sendQueueWork qp => Sys2Proof.Machine.execSendQueueWork qp s
  | .rdmaCompletion qp n status data => Sys2Proof.Machine.execRdmaCompletion qp n status data s
  | .rdmaTimeout qp n => Sys2Proof.Machine.execRdmaTimeout qp n s
  | .rdmaInbound m => Sys2Proof.Machine.execRdmaInbound m s
  | .powerOn cfg => Sys2Proof.Machine.execPowerOn cfg s
  | .patrolScrub addr bad => Sys2Proof.Machine.execPatrolScrub addr bad s
  | .scoreHalving => Sys2Proof.Machine.execScoreHalving s
  | .coreVacateMigrate group core => Sys2Proof.Machine.execCoreVacateMigrate group core s
  | .testVacateTimeout test => Sys2Proof.Machine.execTestVacateTimeout test s
  | .testRetry test => Sys2Proof.Machine.execTestRetry test s
  | .targetedTestEnd test pass => Sys2Proof.Machine.execTargetedTestEnd test pass s
  | .traceBlockClose core => Sys2Proof.Machine.execTraceBlockClose core s
  | .portTrainingComplete plane => Sys2Proof.Machine.execPortTrainingComplete plane s
  | .modulePowerLimit high => Sys2Proof.Machine.execModulePowerLimit high s
  | .ideKmRequest stream key => Sys2Proof.Machine.execIdeKmRequest stream key s

end Sys2Proof.Machine
end

