-- ==== Sys2Proof/Machine/RunCode.lean ====
section
/-! DEFINITION. `exec` of a decoded instruction in a form that computes: `execCode` calls the same meanings, and the
runtime uses it for `runCode`. -/

namespace Sys2Proof.Machine

/-- The effect of a decoded instruction: `exec` of the instruction it stands for. -/
noncomputable def runCode (c : Code) (s : State) : Out := exec c.toInstr s

/-- The meanings of majors 1 to 47. -/
def execOpA (i : OpA) (s : State) : Out :=
  match i with
  | .br o => execBr o s
  | .brcEq sv o => execBrcEq sv o s
  | .brcNe sv o => execBrcNe sv o s
  | .brcLt sv o => execBrcLt sv o s
  | .brcGe sv o => execBrcGe sv o s
  | .bany p o => execBany p o s
  | .bnone p o => execBnone p o s
  | .balw sv t o => execBalw sv t o s
  | .call o => execCall o s
  | .nop => execNop s
  | .exit => execExit s
  | .yld => execYld s
  | .ret a => execRet a s
  | .callr a => execCallr a s
  | .brr a => execBrr a s
  | .trap n => execTrap n s
  | .pdis => execPdis s
  | .pen => execPen s
  | .icinv c a b => execIcinv c a b s
  | .add d a b => execAdd d a b s
  | .sub d a b => execSub d a b s
  | .mul d a b => execMul d a b s
  | .mulhs d a b => execMulhs d a b s
  | .mulhu d a b => execMulhu d a b s
  | .div d a b => execDiv d a b s
  | .divu d a b => execDivu d a b s
  | .rem d a b => execRem d a b s
  | .remu d a b => execRemu d a b s
  | .and d a b => execAnd d a b s
  | .or d a b => execOr d a b s
  | .xor d a b => execXor d a b s
  | .andn d a b => execAndn d a b s
  | .shl d a b => execShl d a b s
  | .shr d a b => execShr d a b s
  | .sar d a b => execSar d a b s
  | .rol d a b => execRol d a b s
  | .min d a b => execMin d a b s
  | .max d a b => execMax d a b s
  | .minu d a b => execMinu d a b s
  | .maxu d a b => execMaxu d a b s
  | .slt d a b => execSlt d a b s
  | .sltu d a b => execSltu d a b s
  | .seq d a b => execSeq d a b s
  | .clz d a => execClz d a s
  | .popc d a => execPopc d a s
  | .addi d a iv => execAddi d a iv s
  | .muli d a iv => execMuli d a iv s
  | .andi d a iv => execAndi d a iv s
  | .ori d a iv => execOri d a iv s
  | .xori d a iv => execXori d a iv s
  | .shli d a iv => execShli d a iv s
  | .shri d a iv => execShri d a iv s
  | .sari d a iv => execSari d a iv s
  | .slti d a iv => execSlti d a iv s
  | .sltui d a iv => execSltui d a iv s
  | .seqi d a iv => execSeqi d a iv s
  | .li d iv => execLi d iv s
  | .lih d a iv => execLih d a iv s
  | .srrd d n => execSrrd d n s
  | .srwr n a => execSrwr n a s
  | .msave d => execMsave d s
  | .mrstr a => execMrstr a s
  | .mand a => execMand a s
  | .mandn a => execMandn a s
  | .mor a => execMor a s
  | .mnot a => execMnot a s
  | .mcnt d a => execMcnt d a s
  | .mfirst d a => execMfirst d a s
  | .pand d a b => execPand d a b s
  | .por d a b => execPor d a b s
  | .pxor d a b => execPxor d a b s
  | .pandn d a b => execPandn d a b s
  | .pnot d a => execPnot d a s
  | .ppack v f c => execPpack v f c s
  | .punpk f v c => execPunpk f v c s
  | .pcmp d a b cc ty m => execPcmp d a b cc ty m s
  | .ld y z d a m => execLd y z d a m s
  | .ldAcq z sc d a m => execLdAcq z sc d a m s
  | .pf a m => execPf a m s
  | .pfSpec a m => execPfSpec a m s
  | .st n z a d m => execSt n z a d m s
  | .stRel z sc a d m => execStRel z sc a d m s
  | .ldScalar z d a => execLdScalar z d a s
  | .ldScalarAcq z sc d a => execLdScalarAcq z sc d a s
  | .stScalar z a d => execStScalar z a d s
  | .stScalarRel z sc a d => execStScalarRel z sc a d s
  | .atomAdd x => execAtomAdd x s
  | .atomSub x => execAtomSub x s
  | .atomMin x => execAtomMin x s
  | .atomMax x => execAtomMax x s
  | .atomAnd x => execAtomAnd x s
  | .atomOr x => execAtomOr x s
  | .atomXor x => execAtomXor x s
  | .atomExch x => execAtomExch x s
  | .atomCas x => execAtomCas x s
  | .atomFaddt x => execAtomFaddt x s
  | .vadd w d a b m => execVadd w d a b m s
  | .vsub w d a b m => execVsub w d a b m s
  | .vmul w d a b m => execVmul w d a b m s
  | .vmulhs w d a b m => execVmulhs w d a b m s
  | .vmulhu w d a b m => execVmulhu w d a b m s
  | .vmad w d a b e m => execVmad w d a b e m s
  | .vmin w d a b m => execVmin w d a b m s
  | .vmax w d a b m => execVmax w d a b m s
  | .vminu w d a b m => execVminu w d a b m s
  | .vmaxu w d a b m => execVmaxu w d a b m s
  | .vand w d a b m => execVand w d a b m s
  | .vor w d a b m => execVor w d a b m s
  | .vxor w d a b m => execVxor w d a b m s
  | .vandn w d a b m => execVandn w d a b m s
  | .vshl w d a b m => execVshl w d a b m s
  | .vshr w d a b m => execVshr w d a b m s
  | .vsar w d a b m => execVsar w d a b m s
  | .vabs w d a m => execVabs w d a m s
  | .vneg w d a m => execVneg w d a m s
  | .vadds w d a b m => execVadds w d a b m s
  | .vsubs w d a b m => execVsubs w d a b m s
  | .vaddus w d a b m => execVaddus w d a b m s
  | .vsubus w d a b m => execVsubus w d a b m s
  | .vclz w d a m => execVclz w d a m s
  | .vpopc w d a m => execVpopc w d a m s
  | .vmov d a m => execVmov d a m s
  | .vaddScalar d a b m => execVaddScalar d a b m s
  | .vsubScalar d a b m => execVsubScalar d a b m s
  | .vmulScalar d a b m => execVmulScalar d a b m s
  | .vmulhsScalar d a b m => execVmulhsScalar d a b m s
  | .vmulhuScalar d a b m => execVmulhuScalar d a b m s
  | .vmadScalar d a b e m => execVmadScalar d a b e m s
  | .vminScalar d a b m => execVminScalar d a b m s
  | .vmaxScalar d a b m => execVmaxScalar d a b m s
  | .vminuScalar d a b m => execVminuScalar d a b m s
  | .vmaxuScalar d a b m => execVmaxuScalar d a b m s
  | .vandScalar d a b m => execVandScalar d a b m s
  | .vorScalar d a b m => execVorScalar d a b m s
  | .vxorScalar d a b m => execVxorScalar d a b m s
  | .vandnScalar d a b m => execVandnScalar d a b m s
  | .vshlScalar d a b m => execVshlScalar d a b m s
  | .vshrScalar d a b m => execVshrScalar d a b m s
  | .vsarScalar d a b m => execVsarScalar d a b m s
  | .vabsScalar d a m => execVabsScalar d a m s
  | .vnegScalar d a m => execVnegScalar d a m s
  | .vaddsScalar d a b m => execVaddsScalar d a b m s
  | .vsubsScalar d a b m => execVsubsScalar d a b m s
  | .vaddusScalar d a b m => execVaddusScalar d a b m s
  | .vsubusScalar d a b m => execVsubusScalar d a b m s
  | .vclzScalar d a m => execVclzScalar d a m s
  | .vpopcScalar d a m => execVpopcScalar d a m s
  | .vmovScalar d b m => execVmovScalar d b m s
  | .vsel d a b m => execVsel d a b m s

/-- The meanings of majors 48 to 58. -/
def execOpB (i : OpB) (s : State) : Out :=
  match i with
  | .vfaddF32 d a b m rm => execVfaddF32 d a b m rm s
  | .vfsubF32 d a b m rm => execVfsubF32 d a b m rm s
  | .vfmulF32 d a b m rm => execVfmulF32 d a b m rm s
  | .vfmaF32 d a b e m rm => execVfmaF32 d a b e m rm s
  | .vfmsF32 d a b e m rm => execVfmsF32 d a b e m rm s
  | .vfnmaF32 d a b e m rm => execVfnmaF32 d a b e m rm s
  | .vfminF32 d a b m rm => execVfminF32 d a b m rm s
  | .vfmaxF32 d a b m rm => execVfmaxF32 d a b m rm s
  | .vfdivF32 d a b m rm => execVfdivF32 d a b m rm s
  | .vfsqrtF32 d a m rm => execVfsqrtF32 d a m rm s
  | .vfrcpF32 d a m rm => execVfrcpF32 d a m rm s
  | .vfrsqF32 d a m rm => execVfrsqF32 d a m rm s
  | .vfabsF32 d a m rm => execVfabsF32 d a m rm s
  | .vfnegF32 d a m rm => execVfnegF32 d a m rm s
  | .vfexp2F32 d a m rm => execVfexp2F32 d a m rm s
  | .vflog2F32 d a m rm => execVflog2F32 d a m rm s
  | .vfaddPacked t d a b m rm => execVfaddPacked t d a b m rm s
  | .vfsubPacked t d a b m rm => execVfsubPacked t d a b m rm s
  | .vfmulPacked t d a b m rm => execVfmulPacked t d a b m rm s
  | .vfmaPacked t d a b e m rm => execVfmaPacked t d a b e m rm s
  | .vfmsPacked t d a b e m rm => execVfmsPacked t d a b e m rm s
  | .vfnmaPacked t d a b e m rm => execVfnmaPacked t d a b e m rm s
  | .vfminPacked t d a b m rm => execVfminPacked t d a b m rm s
  | .vfmaxPacked t d a b m rm => execVfmaxPacked t d a b m rm s
  | .vfdivPacked t d a b m rm => execVfdivPacked t d a b m rm s
  | .vfsqrtPacked t d a m rm => execVfsqrtPacked t d a m rm s
  | .vfrcpPacked t d a m rm => execVfrcpPacked t d a m rm s
  | .vfrsqPacked t d a m rm => execVfrsqPacked t d a m rm s
  | .vfabsPacked t d a m rm => execVfabsPacked t d a m rm s
  | .vfnegPacked t d a m rm => execVfnegPacked t d a m rm s
  | .vfexp2Packed t d a m rm => execVfexp2Packed t d a m rm s
  | .vflog2Packed t d a m rm => execVflog2Packed t d a m rm s
  | .vfaddScalar d a b m rm => execVfaddScalar d a b m rm s
  | .vfsubScalar d a b m rm => execVfsubScalar d a b m rm s
  | .vfmulScalar d a b m rm => execVfmulScalar d a b m rm s
  | .vfmaScalar d a b e m rm => execVfmaScalar d a b e m rm s
  | .vfmsScalar d a b e m rm => execVfmsScalar d a b e m rm s
  | .vfnmaScalar d a b e m rm => execVfnmaScalar d a b e m rm s
  | .vfminScalar d a b m rm => execVfminScalar d a b m rm s
  | .vfmaxScalar d a b m rm => execVfmaxScalar d a b m rm s
  | .vfdivScalar d a b m rm => execVfdivScalar d a b m rm s
  | .vfsqrtScalar d a m rm => execVfsqrtScalar d a m rm s
  | .vfrcpScalar d a m rm => execVfrcpScalar d a m rm s
  | .vfrsqScalar d a m rm => execVfrsqScalar d a m rm s
  | .vfabsScalar d a m rm => execVfabsScalar d a m rm s
  | .vfnegScalar d a m rm => execVfnegScalar d a m rm s
  | .vfexp2Scalar d a m rm => execVfexp2Scalar d a m rm s
  | .vflog2Scalar d a m rm => execVflog2Scalar d a m rm s
  | .vcvt d a sel src dst m rm => execVcvt d a sel src dst m rm s
  | .qcvt d a b src dst m rm => execQcvt d a b src dst m rm s
  | .shtag d a => execShtag d a s
  | .shpromote d => execShpromote d s
  | .shtry d p => execShtry d p s
  | .shfl d a b m => execShfl d a b m s
  | .shflUp d a b m => execShflUp d a b m s
  | .shflDn d a b m => execShflDn d a b m s
  | .shflXor d a b m => execShflXor d a b m s
  | .bcast d a b m => execBcast d a b m s
  | .voteAny d p m => execVoteAny d p m s
  | .voteAll d p m => execVoteAll d p m s
  | .ballot d p k m => execBallot d p k m s
  | .vredAdd d a m => execVredAdd d a m s
  | .vredMin d a m => execVredMin d a m s
  | .vredMax d a m => execVredMax d a m s
  | .vredMinu d a m => execVredMinu d a m s
  | .vredMaxu d a m => execVredMaxu d a m s
  | .vredAnd d a m => execVredAnd d a m s
  | .vredOr d a m => execVredOr d a m s
  | .vredXor d a m => execVredXor d a m s
  | .vredAddF32 d a m => execVredAddF32 d a m s
  | .vredMinF32 d a m => execVredMinF32 d a m s
  | .vredMaxF32 d a m => execVredMaxF32 d a m s
  | .vscanAdd d a m => execVscanAdd d a m s
  | .vscanMin d a m => execVscanMin d a m s
  | .vscanMax d a m => execVscanMax d a m s
  | .vscanMinu d a m => execVscanMinu d a m s
  | .vscanMaxu d a m => execVscanMaxu d a m s
  | .vscanAnd d a m => execVscanAnd d a m s
  | .vscanOr d a m => execVscanOr d a m s
  | .vscanXor d a m => execVscanXor d a m s
  | .vscanAddF32 d a m => execVscanAddF32 d a m s
  | .vscanMinF32 d a m => execVscanMinF32 d a m s
  | .vscanMaxF32 d a m => execVscanMaxF32 d a m s
  | .barG iv => execBarG iv s
  | .barC iv => execBarC iv s
  | .barL iv => execBarL iv s
  | .fence k sv => execFence k sv s
  | .wait l sv c t => execWait l sv c t s
  | .tlwait n k o c sv => execTlwait n k o c sv s
  | .waita a p => execWaita a p s
  | .rdenter => execRdenter s
  | .rdexit => execRdexit s
  | .wround sv => execWround sv s
  | .dfree a b c => execDfree a b c s
  | .alwrd d a => execAlwrd d a s
  | .cpy d p r n => execCpy d p r n s
  | .cpy2d d p r n => execCpy2d d p r n s
  | .cpyg d p r v => execCpyg d p r v s
  | .qputMemory sv r p q => execQputMemory sv r p q s
  | .qputRegister v q => execQputRegister v q s
  | .qgetVector d q => execQgetVector d q s
  | .qgetScalar d q => execQgetScalar d q s
  | .tlread d o c k => execTlread d o c k s
  | .tfetchC d => execTfetchC d s
  | .tfetchQ d p q => execTfetchQ d p q s
  | .coll d => execColl d s
  | .mma128x128 q t sv a b => execMma128x128 q t sv a b s
  | .mma128x64 q t sv a b p => execMma128x64 q t sv a b p s
  | .mma64x128 q t sv a b p => execMma64x128 q t sv a b p s
  | .mma64x64 q t sv a b p => execMma64x64 q t sv a b p s
  | .mma32x128 q t sv a b p => execMma32x128 q t sv a b p s
  | .mma128x32 q t sv a b p => execMma128x32 q t sv a b p s
  | .accz t => execAccz t s
  | .accld q t g => execAccld q t g s
  | .accst q t g => execAccst q t g s
  | .accmv t u => execAccmv t u s
  | .accovx q t c => execAccovx q t c s
  | .tspawn d a => execTspawn d a s
  | .tspawnRel d b => execTspawnRel d b s
  | .frd d a => execFrd d a s
  | .fwr a b => execFwr a b s
  | .fwrClr d a => execFwrClr d a s
  | .lpost d a q => execLpost d a q s
  | .give d k => execGive d k s
  | .claim d k => execClaim d k s
  | .sread d a => execSread d a s
  | .csrrd d a => execCsrrd d a s
  | .csrwr a b => execCsrwr a b s
  | .tlbinv sv a b => execTlbinv sv a b s
  | .caprd d a => execCaprd d a s
  | .hreg d a b => execHreg d a b s
  | .pkrd d a => execPkrd d a s
  | .pkwr d a b => execPkwr d a b s
  | .pkres d a => execPkres d a s
  | .pkretry d a => execPkretry d a s
  | .pkredir d a b => execPkredir d a b s
  | .pkkill d a => execPkkill d a s

/-- The meanings of the events. -/
def execEv (i : Ev) (s : State) : Out :=
  match i with
  | .clauseIssue core => execClauseIssue core s
  | .preEmption team => execPreEmption team s
  | .swapIn team => execSwapIn team s
  | .faultTaskRaise record => execFaultTaskRaise record s
  | .pendingFaultTaskSend => execPendingFaultTaskSend s
  | .faultBankFullRefusal message => execFaultBankFullRefusal message s
  | .deckDispatch core => execDeckDispatch core s
  | .taskStart core => execTaskStart core s
  | .deckAging => execDeckAging s
  | .taskDeadlineExpiry task => execTaskDeadlineExpiry task s
  | .recordDeadlineExpiry record => execRecordDeadlineExpiry record s
  | .faultTaskDeadlineExpiry task => execFaultTaskDeadlineExpiry task s
  | .runBudgetExpiry group => execRunBudgetExpiry group s
  | .disableBudgetExpiry team => execDisableBudgetExpiry team s
  | .barrierWatchdogExpiry barrier => execBarrierWatchdogExpiry barrier s
  | .stalemate part => execStalemate part s
  | .contextReset ctx => execContextReset ctx s
  | .contextResetProgress ctx => execContextResetProgress ctx s
  | .contextEnable ctx => execContextEnable ctx s
  | .contextDisable ctx => execContextDisable ctx s
  | .partitionEnable part => execPartitionEnable part s
  | .partitionSeal part => execPartitionSeal part s
  | .partitionDisable part => execPartitionDisable part s
  | .hRangeGrant ctx k v => execHRangeGrant ctx k v s
  | .reclaimGroupDesignate ctx v => execReclaimGroupDesignate ctx v s
  | .groupOverflowWrite group v => execGroupOverflowWrite group v s
  | .fabannWrite bound => execFabannWrite bound s
  | .launchQueueEnable ctx q v => execLaunchQueueEnable ctx q v s
  | .launchQueueDisable ctx q => execLaunchQueueDisable ctx q s
  | .frontEndMonitorWake ctx q => execFrontEndMonitorWake ctx q s
  | .commandSeqReread ctx q => execCommandSeqReread ctx q s
  | .launch ctx q => execLaunch ctx q s
  | .ib ctx q => execIb ctx q s
  | .pred ctx q => execPred ctx q s
  | .loop ctx q => execLoop ctx q s
  | .wrmem ctx q => execWrmem ctx q s
  | .waitmem ctx q => execWaitmem ctx q s
  | .ffence ctx q => execFfence ctx q s
  | .tlsig ctx q => execTlsig ctx q s
  | .nopPacket ctx q => execNopPacket ctx q s
  | .link ctx q => execLink ctx q s
  | .postedLaunchHandover ctx q => execPostedLaunchHandover ctx q s
  | .placementStep part => execPlacementStep part s
  | .groupEnd group => execGroupEnd group s
  | .barrierComplete barrier => execBarrierComplete barrier s
  | .roundComplete round => execRoundComplete round s
  | .schedulerRoundStart ctx => execSchedulerRoundStart ctx s
  | .dfreeQueueingComplete entry => execDfreeQueueingComplete entry s
  | .reclaimQueueFill ctx => execReclaimQueueFill ctx s
  | .waitaWake team => execWaitaWake team s
  | .spuriousWake team => execSpuriousWake team s
  | .waitConditionMet team => execWaitConditionMet team s
  | .lineRequestReturn access data => execLineRequestReturn access data s
  | .fabricBatchSend batch => execFabricBatchSend batch s
  | .queueSlotFill op slot data => execQueueSlotFill op slot data s
  | .hardwarePrefetch core ctx va => execHardwarePrefetch core ctx va s
  | .copySegmentComplete op seg err => execCopySegmentComplete op seg err s
  | .tileOperationComplete op err => execTileOperationComplete op err s
  | .tilePinGrant core => execTilePinGrant core s
  | .matrixEngineReset core => execMatrixEngineReset core s
  | .collectiveComplete op data => execCollectiveComplete op data s
  | .atomicServicePerform cluster shadow => execAtomicServicePerform cluster shadow s
  | .readRequest p => execReadRequest p s
  | .readReply p => execReadReply p s
  | .write p => execWrite p s
  | .atomicRequest p => execAtomicRequest p s
  | .atomicReply p => execAtomicReply p s
  | .acknowledgement p => execAcknowledgement p s
  | .faultLaneMessage p msg => execFaultLaneMessage p msg s
  | .recoveryAnnouncement p => execRecoveryAnnouncement p s
  | .announcementBoundExpiry peer => execAnnouncementBoundExpiry peer s
  | .fabricAckTrigger peer lane => execFabricAckTrigger peer lane s
  | .fabricRetransmit peer lane psn => execFabricRetransmit peer lane psn s
  | .linkTimeout peer => execLinkTimeout peer s
  | .portRetrain plane => execPortRetrain plane s
  | .hostModuleReset => execHostModuleReset s
  | .hostBarAccess bar off wr len => execHostBarAccess bar off wr len s
  | .capOffsetWrite off => execCapOffsetWrite off s
  | .sendQueueWork qp => execSendQueueWork qp s
  | .rdmaCompletion qp n status data => execRdmaCompletion qp n status data s
  | .rdmaTimeout qp n => execRdmaTimeout qp n s
  | .rdmaInbound m => execRdmaInbound m s
  | .powerOn cfg => execPowerOn cfg s
  | .patrolScrub addr bad => execPatrolScrub addr bad s
  | .scoreHalving => execScoreHalving s
  | .coreVacateMigrate group core => execCoreVacateMigrate group core s
  | .testVacateTimeout test => execTestVacateTimeout test s
  | .testRetry test => execTestRetry test s
  | .targetedTestEnd test pass => execTargetedTestEnd test pass s
  | .traceBlockClose core => execTraceBlockClose core s
  | .portTrainingComplete plane => execPortTrainingComplete plane s
  | .modulePowerLimit high => execModulePowerLimit high s
  | .ideKmRequest stream key => execIdeKmRequest stream key s

/-- The meaning of a decoded instruction. -/
def execCode (c : Code) (s : State) : Out :=
  match c with
  | .a i => execOpA i s
  | .b i => execOpB i s
  | .ev e => execEv e s

/-- `runCode` is what `execCode` computes. -/
@[csimp] theorem runCode_eq_execCode : @runCode = @execCode := by
  funext c s
  cases c with
  | a i => cases i <;> rfl
  | b i => cases i <;> rfl
  | ev e => cases e <;> rfl

end Sys2Proof.Machine
end

