-- ==== Sys2Proof/Machine/Run.lean ====
section
/-! DEFINITION. How the machine goes on: inputs and turns of the agenda, the internal events that are due, the clause that
issues next, and what passing time does (R35, R36, R48, R120, R435, R439). -/

namespace Sys2Proof.Machine

/-! ### Time (R48, R120, R441) -/

/-- Time that passes counts against the run budgets of groups whose teams have a clause in issue (R48, R476), is counted
for teams in fabric wait and slot wait, the wait for pins among them (Table 10-12, R348), and does not count for a barrier timer
that is held (R440, R441). -/
def State.elapsed (s0 s : State) : State :=
  if s.clk = s0.clk then s
  else
    let n := s.clk - s0.clk
    let open_ (g : Group) : Nat := (s0.teams.filter (fun (t : Team) => t.gslot == g.slot && t.clause.isSome)).length
    let s := { s with
      groups := s.groups.map (fun (g : Group) => { g with budget := g.budget.map (· - n * open_ g) })
      bars := s.bars.map (fun (b : Barrier) =>
        if s0.bars.any (fun (x : Barrier) => x.key == b.key && x.start.isSome
            && (s0.barHeld x || (s0.barCtx x).any (fun c => (s0.ctx c).frozen.isSome))) then
          { b with start := b.start.map (· + n) } else b) }
    s0.teams.foldl (fun (s : State) (t : Team) =>
      match t.st with
      | .wait (.fabric _) => s.bump (s0.ctxOf t) 0x45 n
      | .wait (.slot _) => s.bump (s0.ctxOf t) 0x46 n
      | .wait (.pins _ _) => s.bump (s0.ctxOf t) 0x46 n
      | _ => s) s

/-- A budget of a team or of its group has run out (R40, R48). -/
def State.budgetEvent (s : State) (t : Team) : Option Ev :=
  if t.pdOut s.clk && t.holds then some (.disableBudgetExpiry t.key)
  else if (s.groupOf t).budget = some 0 && !(s.groupOf t).expired then some (.runBudgetExpiry t.gslot)
  else none

/-! ### Clauses that are not ready (R204, R211, R435) -/

/-- A team stands at the start of a clause, and nothing but the clause keeps it from issuing. -/
def Team.atStart (t : Team) : Bool :=
  t.st == .running && t.clause.isNone && t.woff == 0 && t.due.isEmpty && t.lost.isNone

/-- The registers that the first instruction of a team's next clause would wait for (R211). -/
def State.firstWaits (s : State) (t : Team) : Option Wait :=
  if s.pendDests t.key = [] then none else
  let s := s.openClause t
  match s.curTeam.filter (fun u => u.key == t.key) with
  | none => none
  | some u =>
    match s.fetchNext u with
    | (_, none) => none
    | (s, some c) =>
      match runCode c s with
      | .next s =>
        (s.team t.key).bind (fun v =>
          match v.st with
          | .wait (.dests ds) => some (.dests ds)
          | _ => none)
      | _ => none

/-- Why the next clause of a team is not ready: a threshold of its header, or a register of its first instruction (R435). -/
def State.unready (s : State) (t : Team) : Option Wait :=
  if (s.budgetEvent t).isSome then none else
  match (s.fetchWord (s.groupOf t).core (s.ctxOf t) t.pc.toNat none).2 with
  | .inl _ => none
  | .inr (h, _) =>
    let x := h.toNat
    if (headerFault h t.src.isSome).isSome then none
    else if t.cnt.meets (bits x 10 7) (bits x 14 11) (bits x 18 15) (bits x 22 19) then s.firstWaits t
    else some (.thr (bits x 10 7) (bits x 14 11) (bits x 18 15) (bits x 22 19))

/-- A team that came to the start of a clause in this step is descheduled until the clause is ready, which is when its age begins
(R204, R435, R436). -/
def State.look (s0 s : State) : State :=
  (s.teams.filter (fun t => t.atStart && !s0.teams.any (fun u => u.key == t.key && u.uid == t.uid && u.atStart && u.pc == t.pc
      && u.age == t.age))).foldl
    (fun s t =>
      match s.unready t with
      | some w => s.putTeam { t with st := .wait w }
      | none => s) s

/-- What follows every step: time counts, teams come to clauses that are not ready (R435), freezes go on (R439), launches that have
ended leave, and cores to be vacated give up what they can (R487). -/
def State.closeStep (s0 s : State) : State :=
  let s := ((s0.look (s0.elapsed s)).freezeSweep).closeLaunches
  if s.rel.tests = [] then s else s.sweep

/-- An outcome of a step closed (DEDUCED, notes/assumptions/65.md). -/
def finish (s0 : State) : Out → Out
  | .next s => .next (s0.closeStep s)
  | .fault f => .fault f
  | .refused r => .refused r

/-! ### Internal events that are due -/

/-- A line of free bytes. -/
def State.freeLine (s : State) : Line := lineNat ((List.range 128).map (Config.remoteByte s.free))

/-- Events of memory accesses, atomics and the engines. -/
def State.memEvents (s : State) : List Ev :=
  (s.acc.filter (fun (a : Access) => a.loc || a.reqs.any (fun q => q.2))).map (fun (a : Access) => Ev.lineRequestReturn a.id [])
    ++ (s.pfs.filter (fun (p : PfReq) => p.slot.isSome)).map (fun (p : PfReq) => Ev.lineRequestReturn p.id [])
    ++ (s.svc.map (fun (r : SvcReq) => Ev.atomicServicePerform r.cluster [])).take 1
    ++ s.asy.flatMap (fun (o : AsyncOp) =>
        if o.cls = 3 then
          (if membersOf (o.coll.drop 8) = [s.modl.modNo] then [Ev.collectiveComplete o.id []] else [])
        else
          (o.segs.map (fun (x : Seg) => Ev.copySegmentComplete o.id x.no none))
            ++ o.fills.map (fun i => Ev.queueSlotFill o.id i s.freeLine))
    ++ s.tops.map (fun (o : TileOp) => Ev.tileOperationComplete o.id none)
    ++ ((s.tops.map (fun (o : TileOp) => o.core)).dedup).map Ev.matrixEngineReset

/-- Events of teams that wait. -/
def State.waitEvents (s : State) : List Ev :=
  s.teams.flatMap (fun (t : Team) =>
    (if t.pdis then [Ev.disableBudgetExpiry t.key] else [])
      ++ (match t.st with
          | .wait .woken => [Ev.waitaWake t.key]
          | .wait (.pins _ _) => [Ev.tilePinGrant (s.groupOf t).core]
          | .wait .cond => if t.age = s.clk then [] else [Ev.waitConditionMet t.key]
          | .wait _ => [Ev.waitConditionMet t.key]
          | .swapped => [Ev.swapIn t.key]
          | _ => []))
    ++ (s.tops.filter (fun (o : TileOp) => o.pinWait)).map (fun (o : TileOp) => Ev.tilePinGrant o.core)
    ++ (s.bars.filter (fun (b : Barrier) => b.arrived ≠ [])).flatMap (fun (b : Barrier) =>
        [Ev.barrierComplete b.key, Ev.barrierWatchdogExpiry b.key])
    ++ s.rounds.map (fun (r : Round) => Ev.roundComplete r.id)
    ++ s.dfl.map (fun (e : DEntry) => Ev.dfreeQueueingComplete e.id)
    ++ ((s.dfl.map (fun (e : DEntry) => e.ctx)).dedup).flatMap (fun c => [Ev.schedulerRoundStart c, Ev.reclaimQueueFill c])

/-- Events of groups, records, tasks and launches. -/
def State.workEvents (s : State) : List Ev :=
  s.groups.flatMap (fun (g : Group) => [Ev.runBudgetExpiry g.slot, Ev.groupEnd g.slot])
    ++ s.recs.flatMap (fun (r : Rec) => [Ev.recordDeadlineExpiry r.id, Ev.faultTaskRaise r.id])
    ++ (if s.pend = [] ∧ s.inTasks = [] then [] else [Ev.pendingFaultTaskSend])
    ++ (List.range s.inTasks.length).map Ev.faultBankFullRefusal
    ++ (s.ctxs.filter (fun (c : Ctx) => c.rst ≠ 0)).map (fun (c : Ctx) => Ev.contextResetProgress c.id)
    ++ s.tasks.flatMap (fun (t : Task) => [Ev.taskDeadlineExpiry t.id, Ev.faultTaskDeadlineExpiry t.id])
    ++ (if s.tasks = [] then [] else [Ev.deckAging])
    ++ ((s.tasks.filter (fun (t : Task) => t.st == .ready)).filterMap s.preferred).dedup.map Ev.deckDispatch
    ++ (s.cores.filter (fun (c : Core) => c.hand ≠ [])).map (fun (c : Core) => Ev.taskStart c.id)
    ++ (if s.launches = [] then [] else (List.range 8).map Ev.placementStep)

/-- Events of a launch queue: its packet in execution, TLSIG writes, posted launches, re-reads and its monitor. -/
def LaunchQ.events (x : LaunchQ) : List Ev :=
  (match x.cur with
   | none => []
   | some (_, d) =>
     match pktType d with
     | 1 => [Ev.launch x.ctx x.q]
     | 2 => [Ev.ib x.ctx x.q]
     | 3 => [Ev.pred x.ctx x.q]
     | 4 => [Ev.loop x.ctx x.q]
     | 5 => [Ev.wrmem x.ctx x.q]
     | 6 => [Ev.waitmem x.ctx x.q]
     | 7 => [Ev.ffence x.ctx x.q]
     | 8 => [Ev.tlsig x.ctx x.q]
     | 9 => [Ev.nopPacket x.ctx x.q]
     | 10 => [Ev.link x.ctx x.q]
     | _ => [])
    ++ [Ev.tlsig x.ctx x.q, Ev.postedLaunchHandover x.ctx x.q, Ev.commandSeqReread x.ctx x.q,
        Ev.frontEndMonitorWake x.ctx x.q]

/-- Events of the launch queues, the fabric and scale-out. -/
def State.linkEvents (s : State) : List Ev :=
  s.lqs.flatMap LaunchQ.events
    ++ (s.batches.map (fun (b : Batch) => Ev.fabricBatchSend b.id)).take 1
    ++ s.peers.flatMap (fun (p : Peer) =>
        [Ev.fabricAckTrigger p.id false, Ev.fabricAckTrigger p.id true, Ev.announcementBoundExpiry p.id, Ev.linkTimeout p.id]
          ++ p.flight.map (fun (f : Flight) => Ev.fabricRetransmit p.id f.p.lane f.p.psn))
    ++ ((s.laneReqs.map (fun (r : LaneReq) => r.peer)) ++ s.pend.filterMap (fun (p : PendTask) => descPeer p.desc)).dedup.map
        Ev.linkTimeout
    ++ (List.range (fld s.modl.sotab 63 52)).map Ev.sendQueueWork
    ++ s.qps.flatMap (fun (q : QueuePair) => q.work.map (fun (w : Nat × Nat × List Dw) => Ev.rdmaTimeout q.id w.1))

/-- Events of monitors, reliability and trace. -/
def State.slowEvents (s : State) : List Ev :=
  (List.range 8).map Ev.stalemate
    ++ [Ev.scoreHalving]
    ++ s.rel.tests.flatMap (fun (u : UnitTest) =>
        [Ev.testVacateTimeout u.id, Ev.testRetry u.id]
          ++ (match s.testCore u with
              | none => []
              | some k => (s.groupsOn k).flatMap (fun (g : Group) => (siblings k).map (Ev.coreVacateMigrate g.slot))))
    ++ (s.cores.filter (fun (c : Core) => c.trace.recs ≠ [])).map (fun (c : Core) => Ev.traceBlockClose c.id)

/-- An event changes the state, free values apart. -/
def State.due (s : State) (e : Ev) : Bool :=
  match runCode (.ev e) s with
  | .next s' => decide ({ s' with free := s.free } ≠ s)
  | _ => false

/-- The internal event that happens next when the agenda names none (DESIGN CHOICE, notes/assumptions/4.md). -/
def State.nextEvent (s : State) : Option Ev :=
  (s.memEvents ++ s.waitEvents ++ s.workEvents ++ s.linkEvents ++ s.slowEvents).find? s.due

/-! ### Turns -/

/-- The next instruction of a team with a clause in issue. -/
def State.runTeam (s : State) (t : Team) : Out :=
  match s.budgetEvent t with
  | some e => runCode (.ev e) s
  | none =>
    match s.fetchNext t with
    | (s, some c) => runCode c s
    | (s, none) => .next s

/-- The machine goes on by itself: the clause in issue, else what is due, else the next clause, that of the oldest ready
team of the module, else time passes (DESIGN CHOICE, notes/assumptions/4.md). -/
def State.autoStep (s : State) : Out :=
  match s.curTeam.filter (fun t => t.clause.isSome && s.ready t) with
  | some t => s.runTeam t
  | none =>
    match s.nextEvent with
    | some e => runCode (.ev e) s
    | none =>
      match minBy (fun (t : Team) => 2 * t.age + b2n t.yields) (s.teams.filter s.ready) with
      | some t => runCode (.ev (.clauseIssue (s.groupOf t).core)) s
      | none => .next s.tick

/-- A turn of a team: its next instruction; at a clause boundary its next clause, if that is the one its core issues next
(R435, R436). -/
def State.turn (s : State) (k : Nat) : Out :=
  match (s.team k).filter s.ready with
  | none => .next s
  | some t =>
    if t.clause.isSome then { s with cur := some k }.runTeam t
    else if (s.choice (s.groupOf t).core).any (fun u => u.key == k) then .next (s.resume t)
    else .next s

/-- An input. -/
def State.input (s : State) : Input → Out
  | .event e => runCode (.ev e) s
  | .turn k => s.turn k
  | .elapse n => .next { s with clk := s.clk + n }
  | .upset k e => .next (s.modTeam k (fun t => { t with errs := t.errs ++ [e] }))
  | .evict l => .next (s.evict l)
  | .corrected k n => .next (s.correctedErr k n)
  | .parity k l => .next (s.l1Parity k l)
  | .storeErr n e => .next (s.storeError n e)
  | .peerSync m w l sc => .next (s.peerSync m w l sc)
  | .roundDone r m => .next { s with rounds := s.rounds.map (fun (x : Round) =>
      if x.id = r then { x with far := x.far.filter (fun n => n != m) } else x) }
  | .peerTlbinv j lo hi => .next (s.peerFlush j lo hi)
  | .drainDone k m => .next (s.drained k m)
  | .hostAtomic => .next { s with hostCpl := s.hostCpl ++ [.unsupportedRequest] }
  | .peerIcinv lo n => .next (s.dropCode (s.cores.map (fun (c : Core) => c.id)) lo n)
  | .misfire k l e x => .next { s with rel := { s.rel with shadow := s.rel.shadow ++ [(k, l, e, x)] } }

end Sys2Proof.Machine
end

