-- ==== Sys2Proof/Machine/Step.lean ====
section
/-! DEFINITION. One step of the machine, and the machine with a given instruction placed where its next step fetches. -/

namespace Sys2Proof.Machine

/-- One step: the next input of the agenda, or what the machine does by itself; then what every step closes with. -/
def step (s : State) : Host.Outcome State Fault Refusal :=
  finish s (match s.agenda with
    | x :: r => { s with agenda := r }.input x
    | [] => s.autoStep)

/-- The declarations of the group that `withFetchWord` starts: a launch of context 0 of one team of WIDTH 32 with 128
vector registers, 8 tiles, 4 KiB of C, 1 KiB of S a lane slice, 16 queues of depth 1, allowed to hold handler instructions
(notes/assumptions/15.md). -/
def placedSpec : GSpec :=
  { ctx := 0, entry := 0, arg := 0, teams := 1, width := 32, vcnt := 128, slice := 1024, stages := 1, map := 0, matrix := true,
    tiles := 8, cmem := 4096, kmem := 0, qdepth := List.replicate 16 1, barSub := List.replicate 16 0, fpctl := 0, slim := 0,
    seed := 0, pdBud := 0x100000, handler := true, depth := 0, served := none, budLog := 0 }

/-- The clause of one instruction: a header without thresholds and engine class, count 1, and the words that follow. -/
def placedClause (ws : List Wd) : Clause := { hdr := 0xA07FFF81, words := ws, left := 1 }

/-- A team stands at the first instruction of a clause that has been fetched. -/
def Team.at_ (t : Team) (c : Clause) : Team := { t with clause := some c, woff := 1 }

/-- The machine with an instruction placed: a group of one team is started on core 0, its first clause has been fetched and
holds the instruction, and the team has the issue slot (notes/assumptions/15.md). -/
def State.withFetchWord (s : State) (nbits w : Nat) : State :=
  let (s, slot) := s.startGroup placedSpec (.launch 0) 0 0 0 0 0 0 true
  { s with
    teams := s.teams.map (fun (t : Team) =>
      if t.key = slot * 16 then t.at_ (placedClause (wordsOfBytes (tableBytes nbits w))) else t)
    cur := some (slot * 16), agenda := [] }

end Sys2Proof.Machine
end

