-- ==== Sys2Proof/Safety.lean ====
section
/-! DEFINITION. The terms in which claims about the machine are stated: when an instruction of a team issues, what stays
when it retires, what a vector result holds by lanes, and the form of a state that every step keeps. -/

namespace Sys2Proof.Machine

/-- The clause in issue of a team is of class 0 or of an engine class; for class 0 of the argument any clause will do
(R205). -/
def Team.inClass (t : Team) (e : Nat) : Bool :=
  match t.clause with
  | none => false
  | some c => e = 0 || bits c.hdr.toNat 6 4 = 0 || bits c.hdr.toNat 6 4 = e

/-- The instruction in issue is the last of its clause (R213). -/
def Team.atLast (t : Team) : Bool :=
  match t.clause with
  | none => false
  | some c => c.left ≤ 1

/-- The engine class of an instruction of a team by Table 6-2, from its major opcode: 0 for the class "any"; none for the events of the
machine, which stand in no clause. -/
def engineOf (i : Instr) : Option Nat :=
  match i with
  | .nop | .add .. | .sub .. | .mul .. | .mulhs .. | .mulhu .. | .div .. | .divu .. | .rem .. | .remu .. | .and .. | .or ..
  | .xor .. | .andn .. | .shl .. | .shr .. | .sar .. | .rol .. | .min .. | .max .. | .minu .. | .maxu .. | .slt .. | .sltu ..
  | .seq .. | .clz .. | .popc .. | .addi .. | .muli .. | .andi .. | .ori .. | .xori .. | .shli .. | .shri .. | .sari ..
  | .slti .. | .sltui .. | .seqi .. | .li .. | .lih .. | .srrd .. | .srwr .. => some 0
  | .msave .. | .mrstr .. | .mand .. | .mandn .. | .mor .. | .mnot .. | .mcnt .. | .mfirst .. | .pand .. | .por .. | .pxor ..
  | .pandn .. | .pnot .. | .ppack .. | .punpk .. | .pcmp .. | .vadd .. | .vsub .. | .vmul .. | .vmulhs .. | .vmulhu ..
  | .vmad .. | .vmin .. | .vmax .. | .vminu .. | .vmaxu .. | .vand .. | .vor .. | .vxor .. | .vandn .. | .vshl .. | .vshr ..
  | .vsar .. | .vabs .. | .vneg .. | .vadds .. | .vsubs .. | .vaddus .. | .vsubus .. | .vclz .. | .vpopc .. | .vmov ..
  | .vaddScalar .. | .vsubScalar .. | .vmulScalar .. | .vmulhsScalar .. | .vmulhuScalar .. | .vmadScalar .. | .vminScalar ..
  | .vmaxScalar .. | .vminuScalar .. | .vmaxuScalar .. | .vandScalar .. | .vorScalar .. | .vxorScalar .. | .vandnScalar ..
  | .vshlScalar .. | .vshrScalar .. | .vsarScalar .. | .vabsScalar .. | .vnegScalar .. | .vaddsScalar .. | .vsubsScalar ..
  | .vaddusScalar .. | .vsubusScalar .. | .vclzScalar .. | .vpopcScalar .. | .vmovScalar .. | .vsel .. | .vfaddF32 ..
  | .vfsubF32 .. | .vfmulF32 .. | .vfmaF32 .. | .vfmsF32 .. | .vfnmaF32 .. | .vfminF32 .. | .vfmaxF32 .. | .vfdivF32 ..
  | .vfsqrtF32 .. | .vfrcpF32 .. | .vfrsqF32 .. | .vfabsF32 .. | .vfnegF32 .. | .vfexp2F32 .. | .vflog2F32 .. | .vfaddPacked ..
  | .vfsubPacked .. | .vfmulPacked .. | .vfmaPacked .. | .vfmsPacked .. | .vfnmaPacked .. | .vfminPacked .. | .vfmaxPacked ..
  | .vfdivPacked .. | .vfsqrtPacked .. | .vfrcpPacked .. | .vfrsqPacked .. | .vfabsPacked .. | .vfnegPacked ..
  | .vfexp2Packed .. | .vflog2Packed .. | .vfaddScalar .. | .vfsubScalar .. | .vfmulScalar .. | .vfmaScalar .. | .vfmsScalar ..
  | .vfnmaScalar .. | .vfminScalar .. | .vfmaxScalar .. | .vfdivScalar .. | .vfsqrtScalar .. | .vfrcpScalar ..
  | .vfrsqScalar .. | .vfabsScalar .. | .vfnegScalar .. | .vfexp2Scalar .. | .vflog2Scalar .. | .vcvt .. | .qcvt .. | .shtag ..
  | .shpromote .. | .shtry .. | .shfl .. | .shflUp .. | .shflDn .. | .shflXor .. | .bcast .. | .voteAny .. | .voteAll ..
  | .ballot .. | .vredAdd .. | .vredMin .. | .vredMax .. | .vredMinu .. | .vredMaxu .. | .vredAnd .. | .vredOr .. | .vredXor ..
  | .vredAddF32 .. | .vredMinF32 .. | .vredMaxF32 .. | .vscanAdd .. | .vscanMin .. | .vscanMax .. | .vscanMinu ..
  | .vscanMaxu .. | .vscanAnd .. | .vscanOr .. | .vscanXor .. | .vscanAddF32 .. | .vscanMinF32 .. | .vscanMaxF32 .. => some 1
  | .ld .. | .ldAcq .. | .pf .. | .pfSpec .. | .st .. | .stRel .. | .ldScalar .. | .ldScalarAcq .. | .stScalar ..
  | .stScalarRel .. | .atomAdd .. | .atomSub .. | .atomMin .. | .atomMax .. | .atomAnd .. | .atomOr .. | .atomXor ..
  | .atomExch .. | .atomCas .. | .atomFaddt .. => some 2
  | .mma128x128 .. | .mma128x64 .. | .mma64x128 .. | .mma64x64 .. | .mma32x128 .. | .mma128x32 .. | .accz .. | .accld ..
  | .accst .. | .accmv .. | .accovx .. => some 3
  | .cpy .. | .cpy2d .. | .cpyg .. | .qputMemory .. | .qputRegister .. | .qgetVector .. | .qgetScalar .. | .tlread ..
  | .tfetchC .. | .tfetchQ .. | .coll .. => some 4
  | .br .. | .brcEq .. | .brcNe .. | .brcLt .. | .brcGe .. | .bany .. | .bnone .. | .balw .. | .call .. | .exit | .yld
  | .ret .. | .callr .. | .brr .. | .trap .. | .pdis | .pen | .icinv .. | .barG .. | .barC .. | .barL .. | .fence .. | .wait ..
  | .tlwait .. | .waita .. | .rdenter | .rdexit | .wround .. | .dfree .. | .alwrd .. | .tspawn .. | .tspawnRel .. | .frd ..
  | .fwr .. | .fwrClr .. | .lpost .. | .give .. | .claim .. | .sread .. | .csrrd .. | .csrwr .. | .tlbinv .. | .caprd ..
  | .hreg .. | .pkrd .. | .pkwr .. | .pkres .. | .pkretry .. | .pkredir .. | .pkkill .. => some 5
  | _ => none

/-- The control-transfer instructions (R212). -/
def isTransfer (i : Instr) : Bool :=
  match i with
  | .br .. | .brcEq .. | .brcNe .. | .brcLt .. | .brcGe .. | .bany .. | .bnone .. | .balw .. | .call .. | .exit | .ret ..
  | .callr .. | .brr .. => true
  | _ => false

/-- A team holds the issue slot in a clause that may hold an instruction of a class, no earlier remote access of it was
abandoned (R464), its registers hold no error (R62), and no access of it still writes the registers listed (R211). -/
def Ready (s : State) (t : Team) (e : Nat) (ds : List Dest) : Prop :=
  s.curTeam = some t ∧ t.inClass e = true ∧ t.lost = none ∧ t.errs = [] ∧
    ∀ a ∈ s.acc, a.team = t.key → ∀ d ∈ ds, d ∉ a.dests

/-- Vector registers a team has (R84). -/
def Team.has (t : Team) (rs : List VReg) : Prop := ∀ r ∈ rs, r.toNat < t.vcnt

/-- A vector register value has one word a lane of the width when its shape is G (R77). -/
def VVal.fits (v : VVal) (w : Nat) : Prop :=
  match v with
  | .g xs => xs.length = w
  | _ => True

/-- The lanes of a vector instruction's result: the instruction completes by writing, under MSK and R79, a value whose
lane l is `f l`. -/
def WritesLanes (i : Instr) (s : State) (t : Team) (d : VReg) (m : Option Msk) (f : Nat → Wd) : Prop :=
  ∃ y : VVal, exec i s = .next (s.retire (t.writeMsk d m y)).tick ∧ ∀ l, l < t.width → y.lane l = f l

/-- Every predicate register of `u` reads zero at or above WIDTH, keeps its bit in a lane that does not act, and in a dead lane
where EXEC holds none; a register that is no destination keeps every bit (R70). -/
def PredKept (t u : Team) (act : Mask) (ds : List PReg) : Prop :=
  u.width = t.width ∧ ∀ (r : PReg) (l : Nat),
    (t.width ≤ l → (u.p r).getLsbD l = false) ∧
    (act.getLsbD l = false ∨ t.regs.exec &&& t.regs.dead = 0 ∧ t.regs.dead.getLsbD l = true ∨ r ∉ ds →
      (u.p r).getLsbD l = (t.p r).getLsbD l)

/-- An instruction completes and writes predicates in the lanes that act only (R70). -/
def KeepsLanes (i : Instr) (s : State) (t : Team) (act : Mask) (ds : List PReg) : Prop :=
  ∃ u : Team, exec i s = .next (s.retire u).tick ∧ PredKept t u act ds

/-- The element operations of Table 8-3 are exact arithmetic on the signed or unsigned values, narrowed at the end. -/
def ElementsExact (w : Nat) : Prop :=
  ∀ x y z : BitVec w,
    eAdd w x.toNat y.toNat = (BitVec.ofInt w (x.toInt + y.toInt)).toNat ∧
    eSub w x.toNat y.toNat = (BitVec.ofInt w (x.toInt - y.toInt)).toNat ∧
    eMul w x.toNat y.toNat = (BitVec.ofInt w (x.toInt * y.toInt)).toNat ∧
    eMulhs w x.toNat y.toNat = (BitVec.ofInt w (x.toInt * y.toInt / 2 ^ w)).toNat ∧
    eMulhu w x.toNat y.toNat = x.toNat * y.toNat / 2 ^ w ∧
    eMad w x.toNat y.toNat z.toNat = (BitVec.ofInt w (x.toInt * y.toInt + z.toInt)).toNat ∧
    eMin w x.toNat y.toNat = (BitVec.ofInt w (min x.toInt y.toInt)).toNat ∧
    eMax w x.toNat y.toNat = (BitVec.ofInt w (max x.toInt y.toInt)).toNat ∧
    eMinu w x.toNat y.toNat = min x.toNat y.toNat ∧ eMaxu w x.toNat y.toNat = max x.toNat y.toNat ∧
    eAnd w x.toNat y.toNat = (x &&& y).toNat ∧ eOr w x.toNat y.toNat = (x ||| y).toNat ∧
    eXor w x.toNat y.toNat = (x ^^^ y).toNat ∧ eAndn w x.toNat y.toNat = (x &&& ~~~y).toNat ∧
    eShl w x.toNat y.toNat = x.toNat * 2 ^ (y.toNat % w) % 2 ^ w ∧ eShr w x.toNat y.toNat = x.toNat / 2 ^ (y.toNat % w) ∧
    eSar w x.toNat y.toNat = (BitVec.ofInt w (x.toInt / 2 ^ (y.toNat % w))).toNat ∧
    eAbs w x.toNat = (BitVec.ofInt w (max x.toInt (-x.toInt))).toNat ∧ eNeg w x.toNat = (BitVec.ofInt w (-x.toInt)).toNat ∧
    eAdds w x.toNat y.toNat = (BitVec.ofInt w (max (-2 ^ (w - 1)) (min (2 ^ (w - 1) - 1) (x.toInt + y.toInt)))).toNat ∧
    eSubs w x.toNat y.toNat = (BitVec.ofInt w (max (-2 ^ (w - 1)) (min (2 ^ (w - 1) - 1) (x.toInt - y.toInt)))).toNat ∧
    eAddus w x.toNat y.toNat = min (x.toNat + y.toNat) (2 ^ w - 1) ∧
    (eSubus w x.toNat y.toNat : Int) = max 0 ((x.toNat : Int) - y.toNat) ∧
    (∀ k, eClz w x.toNat = k ↔ k ≤ w ∧ x.toNat < 2 ^ (w - k) ∧ (k < w → 2 ^ (w - k - 1) ≤ x.toNat)) ∧
    ePopc w x.toNat = ((List.range w).filter (fun k => x.getLsbD k)).length

/-- Element i of a lane comes from element i of the sources, for an operation whose results are of the element's width (R273). -/
def ElementsPlaced (w : Nat) : Prop :=
  ∀ (f : Nat → Nat → Nat → Nat) (g : Nat → Nat → Nat) (x y : Wd) (i : Nat), i < 32 / w →
    (∀ a b, a < 2 ^ w → b < 2 ^ w → f w a b < 2 ^ w) → (∀ a, a < 2 ^ w → g w a < 2 ^ w) →
    (laneOp2 w f x y).toNat / 2 ^ (w * i) % 2 ^ w = f w (x.toNat / 2 ^ (w * i) % 2 ^ w) (y.toNat / 2 ^ (w * i) % 2 ^ w) ∧
    (laneOp1 w g x).toNat / 2 ^ (w * i) % 2 ^ w = g w (x.toNat / 2 ^ (w * i) % 2 ^ w)

/-- No vector float condition traps (R195), and no shadow mismatch is to come (R200). -/
def Team.noTrap (t : Team) : Prop := bits t.regs.fpctl.toNat 12 8 = 0

/-- A float instruction completes: the active lanes receive `f`, FPCTL the flags of the active lanes (R194). -/
def WritesFloat (i : Instr) (s : State) (t : Team) (d : VReg) (m : Option Msk) (f : Nat → Wd × List Nat) : Prop :=
  ∃ (y : VVal) (fl : Nat),
    exec i s = .next (s.retire ((t.raise fl).writeMsk d m y)).tick ∧
    (∀ l, l < t.width → (t.active m).getLsbD l → y.lane l = (f l).1) ∧
    (∀ k, k < 5 → (fl.testBit k ↔
      ∃ l, l < t.width ∧ (t.active m).getLsbD l ∧ ∃ x ∈ (f l).2, x.testBit k))

/-- A float instruction traps (R195): the first of the conditions 0 to 4 that is enabled in FPCTL[12:8] and raised by an active
lane names the class, its lowest lane and that lane's first element the detail, and the record has the five maps of lanes. -/
def TrapsFloat (i : Instr) (s : State) (t : Team) (_ : VReg) (m : Option Msk) (f : Nat → Wd × List Nat) : Prop :=
  let hit (c l : Nat) : Prop := l < t.width ∧ (t.active m).getLsbD l = true ∧ ∃ x ∈ (f l).2, x.testBit c = true
  ∀ c l, c < 5 → t.regs.fpctl.getLsbD (8 + c) = true → hit c l → (∀ k, k < l → ¬ hit c k) →
    (∀ b, b < c → t.regs.fpctl.getLsbD (8 + b) = true → ∀ k, ¬ hit b k) →
    ∃ fi : FaultInfo, exec i s = .next (s.park t fi).tick ∧ fi.cls = fpClass c ∧ fi.lane = some l ∧
      fi.elem = (f l).2.findIdx (·.testBit c) ∧
      ∀ b k, b < 5 → ((fi.fp.getD b 0).getLsbD k = true ↔ hit b k)

/-- An F32 word is a NaN, of any kind or signalling (Table 5-1). -/
def nan32 (x : Wd) : Bool := bits x.toNat 30 23 == 255 && bits x.toNat 22 0 != 0
def sig32 (x : Wd) : Bool := nan32 x && !x.getLsbD 22

/-- The order of F32 words that are no NaN, both zeros equal (R265). -/
def key32 (x : Wd) : Int := if x.getLsbD 31 then -((x.toNat % 2 ^ 31 : Nat) : Int) else ((x.toNat % 2 ^ 31 : Nat) : Int)

/-- The bit PCMP writes in a lane (R265). -/
def cmpOf (ty : CmpTy) (cc : Cc) (x y : Wd) : Bool :=
  match ty with
  | .i32 => cmpInt cc (compare x.toInt y.toInt)
  | .u32 => cmpInt cc (compare x.toNat y.toNat)
  | .f32 => if nan32 x || nan32 y then cc == .ne || cc == .un else cmpInt cc (compare (key32 x) (key32 y))

/-- An active lane of PCMP raises NV (R265): a signalling NaN, or any NaN under an ordering condition. -/
def Team.cmpNV (t : Team) (a : VReg) (b : CmpB) (cc : Cc) (ty : CmpTy) (m : Option Msk) : Prop :=
  ty = .f32 ∧ ∃ l, l < t.width ∧ (t.active m).getLsbD l = true ∧
    (sig32 ((t.v a).lane l) = true ∨ sig32 ((t.cmpVal b).lane l) = true ∨
      ((nan32 ((t.v a).lane l) = true ∨ nan32 ((t.cmpVal b).lane l) = true) ∧
        (cc = .lt ∨ cc = .le ∨ cc = .gt ∨ cc = .ge)))

/-- A lane of VCVT: its word, and its flags by element (R285, R286). -/
def Team.cvtOf (t : Team) (cs cd : CFmt) (md sel : Nat) (a d : VReg) (l : Nat) : Wd × List Nat :=
  cvtLane cs cd md sel (fun e => if md = 5 then t.rnd l e else 0) ((t.v a).lane l) ((t.v d).lane l)

/-- The block of a lane of QCVT (R288 to R290). -/
def Team.qcvtOf (t : Team) (a : VReg) (ctl : Dw) (src dst md l : Nat) : QBlock :=
  let c := if src = 0 then 1 else 2
  qBlock dst md (if qE4 dst then (fF32.decode (fld ctl 63 32)).mag else (1, 0))
    (fun k => if md = 5 then t.rnd l k else 0)
    (qSource (qSrcFmt src) c (qLen ctl) ((vRange a (qLen ctl / c)).map (fun r => (t.v r).lane l)))

/-- A shuffle by a source lane for each lane (none, or one outside the width: the lane itself) (R294). -/
def Shuffles (i : Instr) (s : State) (t : Team) (d a : VReg) (m : Option Msk) (src : Nat → Option Nat) : Prop :=
  ∃ (y : VVal) (h : Mask), exec i s = .next (s.retire ((t.writeMsk d m y).setDeadsrc h)).tick ∧
    (∀ l, l < t.width → (t.active m).getLsbD l = true →
      match (src l).filter (fun j => j < t.width) with
      | none => y.lane l = (t.v a).lane l ∧ h.getLsbD l = false
      | some j => y.lane l = (if t.regs.dead.getLsbD j then 0 else (t.v a).lane j) ∧ h.getLsbD l = t.regs.dead.getLsbD j) ∧
    (∀ l, h.getLsbD l = true → l < t.width ∧ (t.active m).getLsbD l = true) ∧
    (∀ x, t.v a = .u x → h = 0 → y = .u x)

/-- What a float reduction or scan holds after its first `n` lanes (R298, R279). -/
def Team.fAcc (t : Team) (k : Nat) (a : VReg) (ls : List Nat) (n : Nat) : Nat :=
  (ls.take n).foldl (fun acc l => (fComb k (t.modeN none) acc ((t.v a).lane l).toNat).1)
    (if k = 0 then 0x80000000 else ((t.v a).lane (ls.headD 0)).toNat)

/-- The flags of every step of a float reduction or scan, and no others (R194, R298). -/
def Team.StepFlags (t : Team) (k : Nat) (a : VReg) (ls : List Nat) (fl : Nat) : Prop :=
  ∀ b, b < 5 → (fl.testBit b ↔ ∃ n, n < ls.length ∧
    (fComb k (t.modeN none) (t.fAcc k a ls n) ((t.v a).lane (ls.getD n 0)).toNat).2.testBit b)

/-- The words of some vector registers in a lane. -/
def Team.laneOf (t : Team) (rs : List VReg) (l : Nat) : List Wd := rs.map (fun r => (t.v r).lane l)

/-- The form every step keeps: memory is canonical (MEMORY: addresses rise strictly, no listed byte reads as an unlisted
one). -/
def State.Inv (s : State) : Prop := Mem.wf s.mem = true

/-! ### Accesses and operations begun -/

/-- A byte of a leaf entry through which a piece of an access was translated, in which A and D are set (R453). -/
def leafByte (us : List Unit1) (b : Nat) : Prop := ∃ u ∈ us, ∃ p ∈ u.ps, ∃ a, p.ea = some a ∧ b = homeG a + 4

/-- A byte of this module's memories that an access covers. -/
def pieceByte (us : List Unit1) (b : Nat) : Prop := ∃ u ∈ us, ∃ p ∈ u.ps, p.ap = 0 ∧ p.addr ≤ b ∧ b < p.addr + p.n

/-- A byte that no trace unit writes: it lies in no trace store (R500, R501). -/
def noTrace (b : Nat) : Prop := b / 2 ^ 80 ≠ 7

/-- Every byte of memory but those of the trace stores reads as before. -/
def SameMem (s s' : State) : Prop := ∀ b, noTrace b → Mem.read s'.mem b = Mem.read s.mem b

/-- Every byte of memory but leaf entries, those of the trace stores, and the bytes an access covers where it writes, reads as
before. -/
def SameBytes (s s' : State) (us : List Unit1) (wr : Bool) : Prop :=
  ∀ b, noTrace b → ¬ leafByte us b → (wr = true → ¬ pieceByte us b) → Mem.read s'.mem b = Mem.read s.mem b

/-- An access apart from whether its lines may still enter the L1. -/
def Access.bare (a : Access) : Access := { a with plain := false }

/-- An access has begun: it is the newest of the machine and the others stand, it counts in CNT.LD or CNT.ST, it will write the
registers listed, and no register of the team has changed (R307). -/
def Begun (s s' : State) (t : Team) (load : Bool) (ds : List Dest) : Prop :=
  ∃ (a : Access) (u : Team), s'.acc.map Access.bare = s.acc.map Access.bare ++ [a] ∧ a.team = t.key ∧ a.load = load ∧ a.dests = ds ∧
    s'.team t.key = some u ∧ u.regs = t.regs ∧ u.cnt = (t.countIn load).cnt

/-- The instruction of an atomic operation by its number (R316, R319). -/
def atomInstr (op : Nat) (x : Atom) : Instr :=
  match op with
  | 0 => .atomAdd x
  | 1 => .atomSub x
  | 2 => .atomMin x
  | 3 => .atomMax x
  | 4 => .atomAnd x
  | 5 => .atomOr x
  | 6 => .atomXor x
  | 7 => .atomExch x
  | 8 => .atomCas x
  | _ => .atomFaddt x

/-- The lane whose access brings a lane's element of a vector load: of a line of 32 lanes, the lowest active lane of its word
(R303). -/
def Team.loadLead (t : Team) (z : BitVec 3) (m : Option Msk) (l : Nat) : Nat :=
  if z = 6 then ((t.lanesOf (t.active m)).find? (fun k => k / 32 == l / 32)).getD l else l

/-- The home of an address of spaces L, C, K and H for a lane. -/
def State.spHome (s : State) (t : Team) (sp : Space) (l va : Nat) : Nat :=
  match sp with
  | .L => homeL t.key l (va % 2 ^ 32)
  | .C => homeC (s.groupOf t).slot va
  | .K => homeK (clusterOf (s.groupOf t).core) ((s.groupOf t).kBase + va)
  | .H => homeH va
  | .G => 0

/-- The bytes that stand at the address of a lane of a vector load outside space G: for a line, its word there. -/
def State.loadBytes (s : State) (t : Team) (z : BitVec 3) (a : VAddr) (m : Option Msk) (l : Nat) : List Byte :=
  let k := t.loadLead z m l
  let h := s.spHome t a.sp k (t.vAddr a k).toNat
  if z = 6 then Mem.readN s.mem (h + 4 * (l % 32)) 4 else Mem.readN s.mem h (ldSize z)

/-- What a vector load delivers to the team when it completes (R302, R303, R223): an active lane that has not died since receives
its element, extended by SZ, a pair in two registers; an excluded lane becomes zero under Z = 1; any other keeps its value. -/
def Delivers (x : Access) (t : Team) (z : BitVec 3) (d : VReg) (m : Option Msk) (f : Nat → List Byte) : Prop :=
  ∀ (v : Team) (l : Nat), v.width = t.width → t.width ≤ 1024 → l < t.width → v.has [d] → (∀ r, (v.v r).fits v.width) →
    let put (r : VReg) (y : Wd) : Prop := ((v.finish x).v r).lane l =
      if v.regs.dead.getLsbD l then (v.v r).lane l
      else if (t.active m).getLsbD l then y
      else if m.any (·.z) && t.regs.exec.getLsbD l then 0
      else (v.v r).lane l
    if z = 5 then
      v.has [d + 1] → put d (BitVec.ofNat 32 (leNat ((f l).take 4))) ∧ put (d + 1) (BitVec.ofNat 32 (leNat ((f l).drop 4)))
    else put d (extLoad z (f l))

/-- A handler that may act on a record of this module's Bar by its handle (R407, R408). -/
def AtBar (s : State) (t : Team) (h : Dw) (r : Rec) : Prop :=
  t.handler = true ∧ t.st = .running ∧ h.toNat / 2 ^ 55 = s.modl.modNo ∧ s.recOf h = some r ∧ s.owns t r = true ∧
    (s.sealedCtx r.ctx = true → (s.ctx (s.ctxOf t)).part = r.part)

/-- A record of a parked team whose image stands in the spill space: the team, the image, and the team restored from it. -/
def Spilled (s : State) (r : Rec) (p u : Team) (bs : List Byte) : Prop :=
  r.kind = .team ∧ r.rimg = false ∧ s.team r.team = some p ∧ some p.uid = r.tuid ∧ p.st = .parked r.id ∧
    bs = Mem.readN s.mem (homeB r.die r.imgva.toNat) r.spill ∧ p.restore bs s.clk = some u

/-- A disposal completes with status 0: the record is gone, and the handler goes on. -/
def Disposed (i : Instr) (s s' : State) (t : Team) (d : SReg) (r : Rec) : Prop :=
  exec i s = .next s' ∧ (∀ x ∈ s'.recs, x.id ≠ r.id) ∧ ∃ h, s'.team t.key = some h ∧ (d ≠ 0 → h.s d = 0)

/-- A parked team goes on with the registers of its image at a place, memory as before. -/
def Reentered (s s' : State) (r : Rec) (u : Team) (pc : Dw) (woff : Nat) : Prop :=
  SameMem s s' ∧ ∃ w, s'.team r.team = some w ∧ w.pc = pc ∧ w.woff = woff ∧ w.clause = none ∧ w.regs = u.regs ∧ w.cnt = u.cnt ∧
    w.tl = u.tl ∧ (w.st = .running ∨ ∃ k, w.st = .wait (.barrier k))

/-- A numbered operation of major 54 has been issued (R358): registers and memory stand, the timeline counts one more
operation issued, and the operation is in progress unless it has nothing to do. -/
def OpBegun (s s' : State) (t : Team) (p : AsyncPlan) : Prop :=
  ∃ u : Team, s'.team t.key = some u ∧ u.regs = t.regs ∧ (u.tl.get p.cls).issued = (t.tl.get p.cls).issued + 1 ∧
    SameMem s s' ∧
    if p.segs = [] ∧ p.fills = [] then s'.asy = s.asy ∧ u.cnt = t.cnt
    else u.cnt = { t.cnt with cp := t.cnt.cp + 1 } ∧ ∃ id, s'.asy = s.asy ++
      [{ id := id, team := t.key, group := t.gslot, cls := p.cls, num := (t.tl.get p.cls).issued + 1, minor := p.minor,
         segs := p.segs, fills := p.fills, queue := p.queue, coll := p.coll }]

/-- Fills of the tail slots of a queue have been issued (R363): slots reserved behind those there were, one a source (space,
address, bytes), in their order, each naming the operation. -/
def FillBegun (s s' : State) (t : Team) (q minor : Nat) (spec : Bool) (srcs : List (BitVec 3 × Nat × Nat)) : Prop :=
  OpBegun s s' t { cls := 2, minor := minor, fills := List.range srcs.length, queue := some q } ∧
  ∃ o ∈ s'.asy, o.team = t.key ∧ o.cls = 2 ∧ o.num = (t.tl.get 2).issued + 1 ∧
    ((s'.groupOf t).queue q).slots = ((s.groupOf t).queue q).slots ++ (enum srcs).map (fun (c : Nat × BitVec 3 × Nat × Nat) =>
      QSlot.pending { op := o.id, idx := c.1, sp := c.2.1, addr := BitVec.ofNat 64 c.2.2.1, len := c.2.2.2, spec := spec, late := false })

/-- A tile operation has been issued with its number (R337): it holds what the plan says, it counts in CNT.TI and its timeline,
and registers and memory stand. -/
def TileBegun (s s' : State) (t : Team) (p : TilePlan) : Prop :=
  ∃ (id : Nat) (w : Wd) (u : Team), s'.tops = s.tops ++
      [{ id := id, team := t.key, group := t.gslot, core := (s.groupOf t).core, tile := p.t.toNat, src := p.src, minor := p.minor,
         word := w, sat := p.sat, asrc := p.asrc, bsrc := p.bsrc, pos := p.pos, oprs := p.oprs, rows := p.rows,
         num := t.tl.tile.issued + 1, at_ := s.clk, parked := none, pins := p.pins, pinWait := false, acks := [] }] ∧
    s'.team t.key = some u ∧ u.regs = t.regs ∧ u.cnt = { t.cnt with ti := t.cnt.ti + 1 } ∧
    u.tl.tile.issued = t.tl.tile.issued + 1 ∧ s'.mem = s.mem

/-- What an MMA does at issue (R337, R346 to R348): a check that fails parks the team; with no active row it completes at once;
with its lines pinned it is handed to the engine, and until they can be its team waits. -/
def MmaIssues (i : Instr) (s : State) (t : Team) (minor : Nat) (q : SReg) (tl : TReg) (sat a b : Bool) (pos : Nat) :
    Prop :=
  let o := mOps ((sgroup q 5).map t.s) a b
  let sh := mShape minor pos
  let k := mK o.1.code o.2.code
  let rows := rowsOf (t.rowMask sh.1)
  let pins := mmaLines (s.groupOf t).ctx o.1 o.2 k rows sh.2.1
  (∀ d, fmtBad o.1 o.2 sat = some d → exec i s = .next (s.park t (mkF .illegalFormat d 0 0)).tick) ∧
  (fmtBad o.1 o.2 sat = none →
    (∀ f, (o.1.skew sh.1 k).or (o.2.skew sh.2.1 k) = some f → exec i s = .next (s.park t f).tick) ∧
    (o.1.skew sh.1 k = none → o.2.skew sh.2.1 k = none →
      (rows = [] → ∃ s' u, exec i s = .next s' ∧ s'.team t.key = some u ∧ u.regs = t.regs ∧ u.cnt = t.cnt ∧
        u.tl.tile.issued = t.tl.tile.issued + 1 ∧ s'.tops = s.tops ∧ SameMem s s') ∧
      (rows ≠ [] →
        (∀ f, (s.tileFault t tl.toNat).or
            (s.matBounds (s.groupOf t) (o.1.runs k rows ++ o.2.runs k (List.range sh.2.1))) = some f →
          exec i s = .next (s.park t f).tick) ∧
        (s.tileFault t tl.toNat = none →
          s.matBounds (s.groupOf t) (o.1.runs k rows ++ o.2.runs k (List.range sh.2.1)) = none →
          (t.pinHeld = [] → pins ≠ [] → (s.pinQueue (s.groupOf t).core = true ∨ s.pinFits (s.groupOf t).core pins = false) →
            exec i s = .next (s.deschedule t (.pins pins s.clk)).tick) ∧
          ((t.pinHeld ≠ [] ∨ pins = [] ∨ s.pinQueue (s.groupOf t).core = false ∧ s.pinFits (s.groupOf t).core pins = true) →
            ∃ s', exec i s = .next s' ∧ TileBegun s s' t
              { minor := minor, q := q, t := tl, src := tl.toNat, sat := sat, asrc := a, bsrc := b, pos := pos,
                oprs := (sgroup q 5).map t.s, rows := t.rowMask sh.1, pins := pins })))))

end Sys2Proof.Machine
end

