-- ==== Sys2Proof/Certificates/Slice0/Obligations.lean ====
section
/-! DEFINITION. What is claimed of the machine: the statements for the provers. -/

open Sys2Proof Sys2Proof.Machine

/-- Decoding the words of a well-formed instruction gives the instruction back (R208, R215, R219, 06_encoding_and_assembly.md). -/
def Obligations.DecodeOfEncode : Prop :=
  ∀ (i : Instr) (rest : List Wd), i.wf = true → decode (encode i ++ rest) = .ok (i, (encode i).length)

/-- A well-formed instruction takes one to three words: prefixes, then one base word (R208, R202, 06_encoding_and_assembly.md). -/
def Obligations.EncodedWords : Prop :=
  ∀ (i : Instr), i.wf = true →
    1 ≤ (encode i).length ∧ (encode i).length ≤ 3 ∧
    ∃ (ps : List Wd) (w : Wd), encode i = ps ++ [w] ∧ (∀ p ∈ ps, isPfx p = true) ∧ isPfx w = false ∧ isHeader w = false

/-- Header words, reserved spaces and reserved majors do not decode (R225, R95, R221). -/
def Obligations.ReservedWordsRefused : Prop :=
  ∀ (w : Wd) (r : List Wd),
    (40 ≤ (major w).toNat ∧ (major w).toNat ≤ 43 →
      decodeCode (w :: r) = .error (.illegalEncoding .headerInBody)) ∧
    (8 ≤ (major w).toNat ∧ (major w).toNat < 40 ∧ 5 ≤ (major w).toNat % 8 →
      decodeCode (w :: r) = .error (.illegalEncoding .reservedSpace)) ∧
    ((major w).toNat = 0 ∨ (major w).toNat = 59 →
      decodeCode (w :: r) = .error (.illegalEncoding .none))

/-- Words written out from the encoding tables decode to their instructions (R217, R215, R228). -/
def Obligations.KnownWordsDecode : Prop :=
  decode [0x08000000#32] = .ok (.nop, 1) ∧
    decode [0b000010#6 ++ 0#7 ++ 0#7 ++ 0#7 ++ 0b00001#5] = .ok (.exit, 1) ∧
    decode [0b000011#6 ++ 3#7 ++ 1#7 ++ 2#7 ++ 0#5] = .ok (.add 3 1 2, 1) ∧
    decode [0b000100#6 ++ 5#7 ++ 5#7 ++ 0#4 ++ 0xFF#8] = .ok (.addi 5 5 (.short 0xFF), 1) ∧
    decode [0b000001#6 ++ 0#4 ++ 0#7 ++ 0#8 ++ 4#7] = .ok (.br (.short 4), 1) ∧
    decode [0b000110#6 ++ 0#5 ++ 3#4 ++ 0#4 ++ 0#4 ++ 0#7 ++ 0#2] = .ok (.msave 3, 1) ∧
    decode [0b101100#6 ++ 4#7 ++ 5#7 ++ 6#7 ++ 0#5] = .ok (.vadd .w32 4 5 6 none, 1) ∧
    decode [0b110000#6 ++ 4#7 ++ 5#7 ++ 6#7 ++ 0#5] = .ok (.vfaddF32 4 5 6 none none, 1)

/-- A step runs the instruction that the words at the team decode to (R208, R210).
Which agent moves next, the agenda clauses, is the model's choice, notes/assumptions/4.md. -/
def Obligations.StepRunsDecodedInstruction : Prop :=
  (∀ (s : State) (t : Team) (c : Clause) (i : Instr) (n : Nat),
      s.agenda = [] → s.curTeam = some t → t.clause = some c → t.st = .running → s.budgetEvent t = none →
      decode (c.words.drop (t.woff - 1)) = .ok (i, n) →
      step s = finish s (exec i (s.putTeam { t with next := t.woff + n }))) ∧
    (∀ (s : State) (e : Ev) (r : List Input), s.agenda = .event e :: r →
      step s = finish s (exec (Code.ev e).toInstr { s with agenda := r }))

/-- Illegal words, an instruction of another engine class, a misplaced transfer and a matrix instruction on a keep core park the team (R10, R210, R221, R205, R206, R212, R541).
That a turn runs at an empty agenda is the model's choice, notes/assumptions/4.md. -/
def Obligations.IllegalWordParks : Prop :=
  ∀ (s : State) (t : Team) (c : Clause),
      s.agenda = [] → s.curTeam = some t → t.clause = some c → t.st = .running → s.budgetEvent t = none →
      (∀ d, decode (c.words.drop (t.woff - 1)) = .error (.illegalEncoding d) →
        step s = finish s (.next (s.park t (mkF .illegalEncoding d 0 0)).tick)) ∧
      (decode (c.words.drop (t.woff - 1)) = .error .illegalPrefix →
        step s = finish s (.next (s.park t (mkF .illegalPrefix .none 0 0)).tick)) ∧
      (∀ (i : Instr) (e : Nat), engineOf i = some e → e ≠ 0 → t.inClass e = false →
        ∃ f : FaultInfo, exec i s = .next (s.park t f).tick ∧
          (f.cls = .illegalEncoding ∨ f.cls = .illegalFormat ∨ f = mkF .illegalClause .engineClass 0 0)) ∧
      (∀ i : Instr, isTransfer i = true → t.inClass 5 = true → t.atLast = false →
        exec i s = .next (s.park t (mkF .illegalClause .transferNotLast 0 0)).tick) ∧
      (∀ i : Instr, engineOf i = some 3 → t.inClass 3 = true → 192 ≤ (s.groupOf t).core →
        ∃ f : FaultInfo, exec i s = .next (s.park t f).tick ∧
          (f.cls = .illegalEncoding ∨ f = mkF .illegalEngine .none 0 0))

/-- Every step keeps memory in its canonical form (R134, 03_memory_spaces.md). -/
def Obligations.StepKeepsMemoryCanonical : Prop :=
  ∀ (s s' : State), s.Inv → step s = .next s' → s'.Inv

/-- The state after reset: memory canonical, bring-up at step 8, context 0 at MODULE, no work (R9, R523, R393).
The clause mem = [] (an unwritten byte reads 0) is the model's choice, notes/assumptions/3.md, and so are the present units, 2.md. -/
def Obligations.ResetState : Prop :=
  State.reset.Inv ∧ State.reset.mem = [] ∧ State.reset.modl.stage = 8 ∧
    State.reset.ctxs.map (fun (c : Ctx) => c.id) = [0] ∧ (State.reset.ctx 0).priv = 2 ∧ (State.reset.ctx 0).pdbud = 2 ^ 20 ∧
    (∀ p, p < 8 → (State.reset.part p).en = false) ∧
    State.reset.teams = [] ∧ State.reset.groups = [] ∧ State.reset.tasks = [] ∧ State.reset.launches = [] ∧
    State.reset.recs = []

/-- What an instruction that retires leaves unchanged (frame) (R212, R208, R442). -/
def Obligations.RetireChangesOnlyTheTeam : Prop :=
  ∀ (s : State) (t : Team), (s.team t.key).isSome →
    s.retire t = { s with teams := (s.retire t).teams, parts := (s.retire t).parts, cur := (s.retire t).cur } ∧
    (∀ k, k ≠ t.key → (s.retire t).team k = s.team k) ∧
    (∀ p, (s.retire t).part p = { s.part p with lastEvent := ((s.retire t).part p).lastEvent }) ∧
    ∃ u, (s.retire t).team t.key = some u ∧
      u = { t with woff := u.woff, clause := u.clause, pc := u.pc, src := u.src, nopre := u.nopre,
                   yieldNow := u.yieldNow, age := u.age, resv := u.resv }

/-- Within a clause a team goes to the next word; after the last instruction, to the next clause (R208, R212). -/
def Obligations.ClauseAdvance : Prop :=
  ∀ (s : State) (t : Team) (c : Clause), (s.team t.key).isSome → s.cur = some t.key → t.clause = some c →
    (1 < c.left → ∃ u, (s.retire t).team t.key = some u ∧ u.woff = t.next ∧ u.pc = t.pc ∧
      u.clause = some { c with left := c.left - 1 } ∧ (s.retire t).cur = some t.key) ∧
    (c.left ≤ 1 → ∃ u, (s.retire t).team t.key = some u ∧ u.woff = 0 ∧ u.pc = t.pc + BitVec.ofNat 64 (4 * t.next) ∧
      u.clause = none ∧ (s.retire t).cur = none)

/-- A byte written reads back, every other byte stands, and values are little-endian (R5, R134). -/
def Obligations.MemoryReadsAfterWrites : Prop :=
  (∀ (m : List Host.Cell) (a b : Nat) (v : Byte), Mem.wf m = true →
      Mem.wf (Mem.write m a v) = true ∧ Mem.read (Mem.write m a v) b = if b = a then v else Mem.read m b) ∧
    (∀ (m : List Host.Cell) (a b : Nat) (bs : List Byte), Mem.wf m = true →
      Mem.wf (Mem.writeN m a bs) = true ∧ Mem.readN (Mem.writeN m a bs) a bs.length = bs ∧
      ((b < a ∨ a + bs.length ≤ b) → Mem.read (Mem.writeN m a bs) b = Mem.read m b)) ∧
    (∀ (s : State) (a : Nat) (x : Dw), s.Inv →
      { s with mem := Mem.writeN s.mem a (leBytes 8 x.toNat) }.rd64 a = x)

/-- Scalar, predicate and EXEC writes: read-back, s0, p0, WIDTH and dead lanes (R69, R70, R17). -/
def Obligations.RegisterReadAfterWrite : Prop :=
  ∀ (t : Team),
    t.s 0 = 0 ∧ (∀ x, t.setS 0 x = t) ∧
    (∀ (r d : SReg) (x : Dw), d ≠ 0 → (t.setS d x).s r = if r = d then x else t.s r) ∧
    t.p 0 = widthMask t.width ∧ (∀ l x, t.setP 0 l x = t) ∧
    (∀ (r d : PReg) (ls x : Mask) (l : Nat), d ≠ 0 → l < 1024 →
      ((t.setP d ls x).p r).getLsbD l =
        if r = d then decide (l < t.width) && (if ls.getLsbD l then x.getLsbD l else (t.p d).getLsbD l)
        else (t.p r).getLsbD l) ∧
    (∀ (x : Mask) (l : Nat), l < 1024 → ((t.setExec x).regs.exec.getLsbD l = true ↔
      x.getLsbD l = true ∧ l < t.width ∧ t.regs.dead.getLsbD l = false))

/-- Predicate bits at or above WIDTH read zero, and a per-lane write changes only active lanes (R70). -/
def Obligations.PredicateLanes : Prop :=
  (∀ (t : Team) (r : PReg) (l : Nat), t.width ≤ l → (t.p r).getLsbD l = false) ∧
    (∀ (t : Team) (d : PReg) (x : Mask) (l : Nat), l < t.width → t.regs.exec.getLsbD l = false →
      ((t.setP d t.regs.exec x).p d).getLsbD l = (t.p d).getLsbD l) ∧
    (∀ (t : Team) (d : PReg) (x : Mask) (l : Nat), t.width ≤ l → ((t.setP d t.regs.exec x).p d).getLsbD l = false) ∧
    (∀ (s : State) (t : Team) (d a b : PReg), Ready s t 1 [] →
      KeepsLanes (.pand d a b) s t t.regs.exec [d] ∧ KeepsLanes (.por d a b) s t t.regs.exec [d] ∧
      KeepsLanes (.pxor d a b) s t t.regs.exec [d] ∧ KeepsLanes (.pandn d a b) s t t.regs.exec [d] ∧
      KeepsLanes (.pnot d a) s t t.regs.exec [d]) ∧
    (∀ (s : State) (t : Team) (f : PReg) (v : VReg) (c : BitVec 3), f.toNat + c.toNat + 1 ≤ 16 → t.has [v] →
      Ready s t 1 [.v v] →
      KeepsLanes (.punpk f v c) s t t.regs.exec ((List.range (c.toNat + 1)).map (fun i => BitVec.ofNat 4 (f.toNat + i)))) ∧
    (∀ (s : State) (t : Team) (d : PReg) (a : VReg) (b : CmpB) (cc : Cc) (ty : CmpTy) (m : Option Msk),
      ccOk cc ty = true → mskNoZ m = true → t.has (a :: (cmpRegs b).2) →
      Ready s t 1 ((cmpRegs b).1.map .s ++ .v a :: (cmpRegs b).2.map .v) →
      ¬ (t.regs.fpctl.getLsbD 8 = true ∧ t.cmpNV a b cc ty m) →
      KeepsLanes (.pcmp d a b cc ty m) s t (t.active m) [d])

/-- BR, BRC, BANY, BNONE, BALW, CALL, RET, CALLR, BRR: where they go, and what they write (R241, R243, R244, R246, R240). -/
def Obligations.BranchesTransfer : Prop :=
  ∀ (s : State) (t : Team) (a : SReg) (p : PReg) (o : Off15) (q : Off7) (thr : BitVec 8), t.atLast = true →
    (Ready s t 5 [] → canonical (t.target (off15 o)) = true →
      exec (.br o) s = .next (s.jump t (t.target (off15 o))).tick) ∧
    (Ready s t 5 [.s a] → (canonical (t.target (off15 o)) = true →
        (t.s a = 0 → exec (.brcEq a o) s = .next (s.jump t (t.target (off15 o))).tick) ∧
        (t.s a ≠ 0 → exec (.brcNe a o) s = .next (s.jump t (t.target (off15 o))).tick) ∧
        ((t.s a).toInt < 0 → exec (.brcLt a o) s = .next (s.jump t (t.target (off15 o))).tick) ∧
        (0 ≤ (t.s a).toInt → exec (.brcGe a o) s = .next (s.jump t (t.target (off15 o))).tick)) ∧
      (t.s a ≠ 0 → exec (.brcEq a o) s = .next (s.retire t).tick) ∧
      (t.s a = 0 → exec (.brcNe a o) s = .next (s.retire t).tick) ∧
      (0 ≤ (t.s a).toInt → exec (.brcLt a o) s = .next (s.retire t).tick) ∧
      ((t.s a).toInt < 0 → exec (.brcGe a o) s = .next (s.retire t).tick)) ∧
    (Ready s t 5 [] → (canonical (t.target (off15 o)) = true →
        (t.regs.exec &&& t.p p ≠ 0 → exec (.bany p o) s = .next (s.jump t (t.target (off15 o))).tick) ∧
        (t.regs.exec &&& t.p p = 0 → exec (.bnone p o) s = .next (s.jump t (t.target (off15 o))).tick)) ∧
      (t.regs.exec &&& t.p p = 0 → exec (.bany p o) s = .next (s.retire t).tick) ∧
      (t.regs.exec &&& t.p p ≠ 0 → exec (.bnone p o) s = .next (s.retire t).tick)) ∧
    (Ready s t 5 [.s a] → (canonical (t.target (off7 q)) = true → thr.toNat ≤ s.allowRead t (t.s a).toNat →
        exec (.balw a thr q) s = .next (s.jump t (t.target (off7 q))).tick) ∧
      (s.allowRead t (t.s a).toNat < thr.toNat → exec (.balw a thr q) s = .next (s.retire t).tick)) ∧
    (Ready s t 5 [.s 61] → canonical (t.target (off15 o)) = true →
      exec (.call o) s = .next (s.jump (t.setS 61 (t.pc + BitVec.ofNat 64 (4 * t.next))) (t.target (off15 o))).tick) ∧
    (canonical (t.s a) = true → (t.s a).toNat % 4 = 0 →
      (Ready s t 5 [.s a] → exec (.ret a) s = .next (s.jump t (t.s a)).tick ∧
        exec (.brr a) s = .next (s.jump t (t.s a)).tick) ∧
      (Ready s t 5 [.s a, .s 61] →
        exec (.callr a) s = .next (s.jump (t.setS 61 (t.pc + BitVec.ofNat 64 (4 * t.next))) (t.s a)).tick))

/-- Transfers to a non-canonical or unaligned target park the team with illegal-target (R240, R246, R213). -/
def Obligations.BadTargetsPark : Prop :=
  ∀ (s : State) (t : Team) (a : SReg) (o : Off15), t.atLast = true →
    (canonical (t.target (off15 o)) = false →
      (Ready s t 5 [] → exec (.br o) s = .next (s.park t (mkF .illegalTarget .nonCanonical 0 0)).tick) ∧
      (Ready s t 5 [.s 61] → exec (.call o) s = .next (s.park t (mkF .illegalTarget .nonCanonical 0 0)).tick)) ∧
    ((t.s a).toNat % 4 ≠ 0 →
      (Ready s t 5 [.s a] → exec (.ret a) s = .next (s.park t (mkF .illegalTarget .unaligned 0 0)).tick ∧
        exec (.brr a) s = .next (s.park t (mkF .illegalTarget .unaligned 0 0)).tick) ∧
      (Ready s t 5 [.s a, .s 61] → exec (.callr a) s = .next (s.park t (mkF .illegalTarget .unaligned 0 0)).tick)) ∧
    ((t.s a).toNat % 4 = 0 → canonical (t.s a) = false →
      (Ready s t 5 [.s a] → exec (.ret a) s = .next (s.park t (mkF .illegalTarget .nonCanonical 0 0)).tick ∧
        exec (.brr a) s = .next (s.park t (mkF .illegalTarget .nonCanonical 0 0)).tick) ∧
      (Ready s t 5 [.s a, .s 61] → exec (.callr a) s = .next (s.park t (mkF .illegalTarget .nonCanonical 0 0)).tick))

/-- NOP, YLD, PDIS, PEN, ICINV, EXIT and TRAP (R249, R250, R252, R251, R253, R247, R39).
That ICINV waits for earlier stores while the team is descheduled is the model's reading, notes/assumptions/45.md. -/
def Obligations.ControlInstructions : Prop :=
  ∀ (s : State) (t : Team),
    (Ready s t 0 [] → exec .nop s = .next (s.retire t).tick) ∧
    (Ready s t 5 [] →
      exec .yld s = .next (s.retire { t with yieldNow := true }).tick ∧
      (t.pdis = true → exec .pdis s = .next (s.retire t).tick) ∧
      (t.pdis = false → exec .pdis s =
        .next (s.retire { t with pdis := true, pdLeft := (s.groupOf t).pdBud, pdAt := s.clk }).tick) ∧
      exec .pen s = .next (s.retire { t with pdis := false, pdLeft := 0 }).tick ∧
      (∀ n : BitVec 7, exec (.trap n) s = .next (s.park t (mkF .illegalEncoding .trap n.toNat 0)).tick) ∧
      (t.atLast = true →
        exec .exit s = .next ((s.modPart (s.ctx (s.ctxOf t)).part (fun p => { p with lastEvent := s.clk })).endTeam t
          (.exited t.pc)).tick)) ∧
    (∀ (c : BitVec 3) (a b : SReg),
      (scopeOk c = false → s.curTeam = some t →
        exec (.icinv c a b) s = .next (s.park t (mkF .illegalEncoding .reservedScope 0 0)).tick) ∧
      (Ready s t 5 [.s a, .s b] → scopeOk c = true →
        (t.s b ≠ 0 → 2 ^ 52 < (t.s a).toNat + (t.s b).toNat → exec (.icinv c a b) s =
          .next (s.park t (mkF .spaceBounds .nonCanonical (max (t.s a).toNat (2 ^ 52)) 4)).tick) ∧
        (t.s b = 0 ∨ (t.s a).toNat + (t.s b).toNat ≤ 2 ^ 52 →
          (s.openWrites t.key ≠ [] → exec (.icinv c a b) s = .next (s.deschedule t .sys).tick) ∧
          (s.openWrites t.key = [] → ∃ s' : State, exec (.icinv c a b) s = .next (s'.retire t).tick ∧
            s' = { s with cores := s'.cores } ∧ s'.cores.map (fun k => { k with ic := [] }) = s.cores.map (fun k => { k with ic := [] }) ∧
            ∀ k ∈ s'.cores, (coresIn c.toNat (s.groupOf t).core).contains k.id → t.s b ≠ 0 → ∀ x ∈ k.ic,
              x.1 % 2 ^ 45 < (t.s a).toNat / 128 ∨ ((t.s a).toNat + (t.s b).toNat - 1) / 128 < x.1 % 2 ^ 45))))

/-- Scalar arithmetic of two registers: the result of each instruction (R255, 07_isa_control_scalar_mask.md). -/
def Obligations.ScalarThreeRegister : Prop :=
  ∀ (s : State) (t : Team) (d a b : SReg), Ready s t 0 [.s a, .s b, .s d] →
    exec (.add d a b) s = .next (s.retire (t.setS d (t.s a + t.s b))).tick ∧
    exec (.sub d a b) s = .next (s.retire (t.setS d (t.s a - t.s b))).tick ∧
    exec (.mul d a b) s = .next (s.retire (t.setS d (t.s a * t.s b))).tick ∧
    exec (.mulhs d a b) s = .next (s.retire (t.setS d (BitVec.ofInt 64 ((t.s a).toInt * (t.s b).toInt / 2 ^ 64)))).tick ∧
    exec (.mulhu d a b) s = .next (s.retire (t.setS d (BitVec.ofNat 64 ((t.s a).toNat * (t.s b).toNat / 2 ^ 64)))).tick ∧
    exec (.and d a b) s = .next (s.retire (t.setS d (t.s a &&& t.s b))).tick ∧
    exec (.or d a b) s = .next (s.retire (t.setS d (t.s a ||| t.s b))).tick ∧
    exec (.xor d a b) s = .next (s.retire (t.setS d (t.s a ^^^ t.s b))).tick ∧
    exec (.andn d a b) s = .next (s.retire (t.setS d (t.s a &&& ~~~(t.s b)))).tick ∧
    exec (.shl d a b) s = .next (s.retire (t.setS d (t.s a <<< ((t.s b).toNat % 64)))).tick ∧
    exec (.shr d a b) s = .next (s.retire (t.setS d (t.s a >>> ((t.s b).toNat % 64)))).tick ∧
    exec (.sar d a b) s = .next (s.retire (t.setS d ((t.s a).sshiftRight ((t.s b).toNat % 64)))).tick ∧
    exec (.rol d a b) s = .next (s.retire (t.setS d ((t.s a).rotateLeft ((t.s b).toNat % 64)))).tick ∧
    exec (.min d a b) s = .next (s.retire (t.setS d (if (t.s a).toInt < (t.s b).toInt then t.s a else t.s b))).tick ∧
    exec (.max d a b) s = .next (s.retire (t.setS d (if (t.s a).toInt < (t.s b).toInt then t.s b else t.s a))).tick ∧
    exec (.minu d a b) s = .next (s.retire (t.setS d (if (t.s a).toNat < (t.s b).toNat then t.s a else t.s b))).tick ∧
    exec (.maxu d a b) s = .next (s.retire (t.setS d (if (t.s a).toNat < (t.s b).toNat then t.s b else t.s a))).tick ∧
    exec (.slt d a b) s = .next (s.retire (t.setS d (if (t.s a).toInt < (t.s b).toInt then 1 else 0))).tick ∧
    exec (.sltu d a b) s = .next (s.retire (t.setS d (if (t.s a).toNat < (t.s b).toNat then 1 else 0))).tick ∧
    exec (.seq d a b) s = .next (s.retire (t.setS d (if t.s a = t.s b then 1 else 0))).tick

/-- DIV, DIVU, REM, REMU with their corners; CLZ and POPC: the result of each (R255, 07_isa_control_scalar_mask.md). -/
def Obligations.ScalarDivision : Prop :=
  ∀ (s : State) (t : Team) (d a b : SReg),
    (Ready s t 0 [.s a, .s b, .s d] →
      exec (.div d a b) s = .next (s.retire (t.setS d
        (if t.s b = 0 then BitVec.allOnes 64 else BitVec.ofInt 64 ((t.s a).toInt.tdiv (t.s b).toInt)))).tick ∧
      exec (.divu d a b) s = .next (s.retire (t.setS d
        (if t.s b = 0 then BitVec.allOnes 64 else BitVec.ofNat 64 ((t.s a).toNat / (t.s b).toNat)))).tick ∧
      exec (.rem d a b) s = .next (s.retire (t.setS d
        (if t.s b = 0 then t.s a else BitVec.ofInt 64 ((t.s a).toInt.tmod (t.s b).toInt)))).tick ∧
      exec (.remu d a b) s = .next (s.retire (t.setS d
        (if t.s b = 0 then t.s a else BitVec.ofNat 64 ((t.s a).toNat % (t.s b).toNat)))).tick ∧
      (t.s a = 0x8000000000000000 → t.s b = BitVec.allOnes 64 →
        exec (.div d a b) s = .next (s.retire (t.setS d 0x8000000000000000)).tick ∧
        exec (.rem d a b) s = .next (s.retire (t.setS d 0)).tick)) ∧
    (Ready s t 0 [.s a, .s d] →
      (∀ n : Nat, n ≤ 64 → (t.s a).toNat < 2 ^ (64 - n) → (n < 64 → 2 ^ (63 - n) ≤ (t.s a).toNat) →
        exec (.clz d a) s = .next (s.retire (t.setS d (BitVec.ofNat 64 n))).tick) ∧
      (∃ n : Nat, n ≤ 64 ∧ (t.s a).toNat < 2 ^ (64 - n) ∧ (n < 64 → 2 ^ (63 - n) ≤ (t.s a).toNat)) ∧
      exec (.popc d a) s = .next (s.retire (t.setS d
        (BitVec.ofNat 64 ((List.range 64).filter (fun i => (t.s a).getLsbD i)).length))).tick)

/-- Major 4: the result of each immediate form (R256, R218, 07_isa_control_scalar_mask.md). -/
def Obligations.ScalarImmediate : Prop :=
  ∀ (s : State) (t : Team) (d a : SReg) (i : Imm) (n : BitVec 6),
    (Ready s t 0 [.s a, .s d] →
    exec (.addi d a i) s = .next (s.retire (t.setS d (t.s a + immSext i))).tick ∧
    exec (.muli d a i) s = .next (s.retire (t.setS d (t.s a * immSext i))).tick ∧
    exec (.andi d a i) s = .next (s.retire (t.setS d (t.s a &&& immSext i))).tick ∧
    exec (.ori d a i) s = .next (s.retire (t.setS d (t.s a ||| immSext i))).tick ∧
    exec (.xori d a i) s = .next (s.retire (t.setS d (t.s a ^^^ immSext i))).tick ∧
    exec (.slti d a i) s = .next (s.retire (t.setS d (if (t.s a).toInt < (immSext i).toInt then 1 else 0))).tick ∧
    exec (.sltui d a i) s = .next (s.retire (t.setS d (if (t.s a).toNat < (immSext i).toNat then 1 else 0))).tick ∧
    exec (.seqi d a i) s = .next (s.retire (t.setS d (if t.s a = immSext i then 1 else 0))).tick ∧
    exec (.lih d a i) s = .next (s.retire (t.setS d (immWord i ++ (t.s a).setWidth 32))).tick ∧
    exec (.shli d a n) s = .next (s.retire (t.setS d (t.s a <<< n.toNat))).tick ∧
    exec (.shri d a n) s = .next (s.retire (t.setS d (t.s a >>> n.toNat))).tick ∧
    exec (.sari d a n) s = .next (s.retire (t.setS d ((t.s a).sshiftRight n.toNat))).tick) ∧
    (Ready s t 0 [.s d] → exec (.li d i) s = .next (s.retire (t.setS d (immSext i))).tick) ∧
    (∀ x : BitVec 8, (immSext (.short x)).toInt = x.toInt) ∧ (∀ x : BitVec 32, (immSext (.long x)).toInt = x.toInt)

/-- SRRD and SRWR: reads, read-only registers, FPCTL, SLIM, SEED, EXEC and DEADSRC (R72, R73, R74, R76, R257). -/
def Obligations.SpecialRegisterMoves : Prop :=
  ∀ (s : State) (t : Team) (d a : SReg) (n : BitVec 8),
    (Ready s t 0 [.s d] →
      (∀ p ∈ ([(0x01, BitVec.ofNat 64 t.width), (0x02, BitVec.ofNat 64 t.index), (0x03, BitVec.ofNat 64 t.role),
          (0x04, BitVec.ofNat 64 t.stages), (0x05, BitVec.ofNat 64 (s.groupOf t).gx), (0x06, BitVec.ofNat 64 (s.groupOf t).gy),
          (0x07, BitVec.ofNat 64 (s.groupOf t).gz), (0x08, t.regs.fpctl.setWidth 64), (0x09, t.regs.slim.setWidth 64),
          (0x0A, t.regs.seed), (0x0B, BitVec.ofNat 64 t.vcnt), (0x0C, BitVec.ofNat 64 t.rdDepth),
          (0x0D, if t.pdis then BitVec.ofNat 64 (2 ^ 31 + (t.pdLeft - (s.clk - t.pdAt)) % 2 ^ 21) else 0),
          (0x10, BitVec.ofNat 64 t.cnt.ld), (0x11, BitVec.ofNat 64 t.cnt.st), (0x12, BitVec.ofNat 64 t.cnt.cp),
          (0x13, BitVec.ofNat 64 t.cnt.ti), (0x14, BitVec.ofNat 64 t.tl.cpy.count), (0x15, BitVec.ofNat 64 t.tl.tile.count),
          (0x16, BitVec.ofNat 64 t.tl.gath.count), (0x17, BitVec.ofNat 64 t.tl.coll.count), (0x18, t.regs.srctr)]
            : List (BitVec 8 × Dw)),
        exec (.srrd d p.1) s = .next (s.retire (t.setS d p.2)).tick) ∧
      (∃ x : Dw, exec (.srrd d 0x00) s = .next (s.retire (t.setS d x)).tick ∧ ∀ w, w < 64 →
        (x.getLsbD w = true ↔ w < 32 ∧ ∃ b, b < 32 ∧ t.regs.exec.getLsbD (32 * w + b) = true)) ∧
      (∀ k : Nat, k < 16 → ∃ x y z : Dw,
        exec (.srrd d (BitVec.ofNat 8 (0x20 + k))) s = .next (s.retire (t.setS d x)).tick ∧
        exec (.srrd d (BitVec.ofNat 8 (0x30 + k))) s = .next (s.retire (t.setS d y)).tick ∧
        exec (.srrd d (BitVec.ofNat 8 (0x40 + k))) s = .next (s.retire (t.setS d z)).tick ∧ ∀ i, i < 64 →
          x.getLsbD i = (decide (64 * k < t.width) && t.regs.exec.getLsbD (64 * k + i)) ∧
          y.getLsbD i = (decide (64 * k < t.width) && t.regs.dead.getLsbD (64 * k + i)) ∧
          z.getLsbD i = (decide (64 * k < t.width) && t.regs.deadsrc.getLsbD (64 * k + i)))) ∧
    (s.curTeam = some t → srnOk n.toNat = false →
      exec (.srrd d n) s = .next (s.park t (mkF .illegalEncoding .reservedSrn 0 0)).tick ∧
      exec (.srwr n a) s = .next (s.park t (mkF .illegalEncoding .reservedSrn 0 0)).tick) ∧
    (Ready s t 0 [.s a] →
      (fld (t.s a) 18 16 ≤ 5 → exec (.srwr 0x08 a) s =
        .next (s.retire { t with regs := { t.regs with fpctl := (t.s a).setWidth 32 &&& 0x00071F1F } }).tick) ∧
      (6 ≤ fld (t.s a) 18 16 →
        exec (.srwr 0x08 a) s = .next (s.park t (mkF .illegalEncoding .reservedValue 0 0)).tick) ∧
      exec (.srwr 0x09 a) s =
        .next (s.retire { t with regs := { t.regs with slim := (t.s a).setWidth 32 &&& 0xFFFFFFF0 } }).tick ∧
      exec (.srwr 0x0A a) s = .next (s.retire { t with regs := { t.regs with seed := t.s a } }).tick ∧
      (∀ k : BitVec 8, (k.toNat ≤ 0x07 ∨ k.toNat = 0x0B ∨ k.toNat = 0x0C ∨ k.toNat = 0x0D ∨
          (0x10 ≤ k.toNat ∧ k.toNat ≤ 0x18) ∨ (0x30 ≤ k.toNat ∧ k.toNat < 0x40)) →
        exec (.srwr k a) s = .next (s.retire t).tick) ∧
      (∀ k : Nat, k < 16 → 64 * k < t.width →
        (∃ m : Mask, exec (.srwr (BitVec.ofNat 8 (0x20 + k)) a) s = .next (s.retire (t.setExec m)).tick ∧
          ∀ l, l < 1024 → m.getLsbD l = if 64 * k ≤ l ∧ l < 64 * k + 64 then (t.s a).getLsbD (l - 64 * k)
            else t.regs.exec.getLsbD l) ∧
        ∃ m : Mask, exec (.srwr (BitVec.ofNat 8 (0x40 + k)) a) s =
            .next (s.retire { t with regs := { t.regs with deadsrc := m } }).tick ∧
          ∀ l, l < t.width → m.getLsbD l = (t.regs.deadsrc.getLsbD l &&
            !(decide (64 * k ≤ l ∧ l < 64 * k + 64) && (t.s a).getLsbD (l - 64 * k)))) ∧
      (∀ k : Nat, k < 16 → t.width ≤ 64 * k →
        exec (.srwr (BitVec.ofNat 8 (0x20 + k)) a) s = .next (s.retire t).tick ∧
        exec (.srwr (BitVec.ofNat 8 (0x40 + k)) a) s = .next (s.retire t).tick))

/-- Whole-mask and predicate-logic instructions, MCNT and MFIRST (R260, R261, R17, 07_isa_control_scalar_mask.md). -/
def Obligations.MaskInstructions : Prop :=
  ∀ (s : State) (t : Team) (ds : SReg) (d a b : PReg), t.width ≤ 1024 →
    (Ready s t 1 [] →
      exec (.msave d) s = .next (s.retire (t.setP d (widthMask t.width &&& ~~~t.regs.dead) t.regs.exec)).tick ∧
      exec (.mrstr a) s = .next (s.retire (t.setExec (t.p a))).tick ∧
      exec (.mand a) s = .next (s.retire (t.setExec (t.regs.exec &&& t.p a))).tick ∧
      exec (.mandn a) s = .next (s.retire (t.setExec (t.regs.exec &&& ~~~(t.p a)))).tick ∧
      exec (.mor a) s = .next (s.retire (t.setExec (t.regs.exec ||| t.p a))).tick ∧
      exec (.mnot a) s = .next (s.retire (t.setExec (t.p a &&& ~~~t.regs.exec))).tick ∧
      (∃ x, exec (.pnot d a) s = .next (s.retire (t.setP d t.regs.exec x)).tick ∧
        ∀ l, l < t.width → x.getLsbD l = !(t.p a).getLsbD l) ∧
      (∃ z, exec (.pand d a b) s = .next (s.retire (t.setP d t.regs.exec z)).tick ∧
        ∀ l, l < t.width → z.getLsbD l = (fun x y : Bool => x && y) ((t.p a).getLsbD l) ((t.p b).getLsbD l)) ∧
      (∃ z, exec (.por d a b) s = .next (s.retire (t.setP d t.regs.exec z)).tick ∧
        ∀ l, l < t.width → z.getLsbD l = (fun x y : Bool => x || y) ((t.p a).getLsbD l) ((t.p b).getLsbD l)) ∧
      (∃ z, exec (.pxor d a b) s = .next (s.retire (t.setP d t.regs.exec z)).tick ∧
        ∀ l, l < t.width → z.getLsbD l = (fun x y : Bool => x ^^ y) ((t.p a).getLsbD l) ((t.p b).getLsbD l)) ∧
      (∃ z, exec (.pandn d a b) s = .next (s.retire (t.setP d t.regs.exec z)).tick ∧
        ∀ l, l < t.width → z.getLsbD l = (fun x y : Bool => x && !y) ((t.p a).getLsbD l) ((t.p b).getLsbD l))) ∧
    (Ready s t 1 [.s ds] → ∃ hits : List Nat,
      hits = (List.range t.width).filter (fun l => t.regs.exec.getLsbD l && (t.p a).getLsbD l) ∧
      exec (.mcnt ds a) s = .next (s.retire (t.setS ds (BitVec.ofNat 64 hits.length))).tick ∧
      exec (.mfirst ds a) s = .next (s.retire (t.setS ds (match hits with
        | l :: _ => BitVec.ofNat 64 l
        | [] => BitVec.allOnes 64))).tick)

/-- PPACK, PUNPK and PCMP by lanes, in every form; the reserved forms park (R87, R223, R263, R264, R265). -/
def Obligations.PredicatePackingAndCompare : Prop :=
  ∀ (s : State) (t : Team),
    (∀ (v : VReg) (f : PReg) (c : BitVec 3), f.toNat + c.toNat + 1 ≤ 16 → t.has [v] → Ready s t 1 [.v v] →
      (∃ y : VVal, exec (.ppack v f c) s = .next (s.retire (t.writeMsk v none y)).tick ∧ y.tag = 2 ∧
        ∀ l, l < t.width → ∀ i, i < 32 →
          (y.lane l).getLsbD i = (decide (i ≤ c.toNat) && (t.p (BitVec.ofNat 4 (f.toNat + i))).getLsbD l)) ∧
      (∃ u : Team, exec (.punpk f v c) s = .next (s.retire u).tick ∧
        (∀ i l, i ≤ c.toNat → 0 < f.toNat + i → l < t.width → (u.p (BitVec.ofNat 4 (f.toNat + i))).getLsbD l =
          if t.regs.exec.getLsbD l then ((t.v v).lane l).getLsbD i
          else (t.p (BitVec.ofNat 4 (f.toNat + i))).getLsbD l) ∧
        (∀ r : PReg, r.toNat < f.toNat ∨ f.toNat + c.toNat < r.toNat → u.p r = t.p r) ∧
        u = { t with regs := { t.regs with p := u.regs.p } })) ∧
    (∀ (v : VReg) (f : PReg) (c : BitVec 3), 16 < f.toNat + c.toNat + 1 → s.curTeam = some t →
      exec (.ppack v f c) s = .next (s.park t (mkF .illegalEncoding .none 0 0)).tick ∧
      exec (.punpk f v c) s = .next (s.park t (mkF .illegalEncoding .none 0 0)).tick) ∧
    (∀ (d : PReg) (a : VReg) (b : CmpB) (cc : Cc) (ty : CmpTy) (m : Option Msk),
      (ccOk cc ty = false → s.curTeam = some t →
        exec (.pcmp d a b cc ty m) s = .next (s.park t (mkF .illegalEncoding .none 0 0)).tick) ∧
      (ccOk cc ty = true → t.has (a :: (cmpRegs b).2) →
        Ready s t 1 ((cmpRegs b).1.map .s ++ .v a :: (cmpRegs b).2.map .v) →
        (¬ (t.regs.fpctl.getLsbD 8 = true ∧ t.cmpNV a b cc ty m) →
          ∃ (y : Mask) (fl : Nat), exec (.pcmp d a b cc ty m) s = .next (s.retire ((t.raise fl).writePMsk d m y)).tick ∧
            (∀ l, l < t.width → (t.active m).getLsbD l → y.getLsbD l = cmpOf ty cc ((t.v a).lane l) ((t.cmpVal b).lane l)) ∧
            (∀ k, fl.testBit k ↔ k = 0 ∧ t.cmpNV a b cc ty m)) ∧
        (t.regs.fpctl.getLsbD 8 = true → t.cmpNV a b cc ty m →
          ∃ f : FaultInfo, exec (.pcmp d a b cc ty m) s = .next (s.park t f).tick ∧ f.cls = .fpInvalid))) ∧
    (∀ (d : PReg) (m : Option Msk) (y : Mask) (l : Nat), d ≠ 0 → l < t.width → l < 1024 →
      ((t.writePMsk d m y).p d).getLsbD l =
        if (t.active m).getLsbD l then y.getLsbD l
        else if m.any (·.z) && decide (t.active m ≠ 0) && t.regs.exec.getLsbD l then false
        else (t.p d).getLsbD l)

/-- Vector integer instructions of majors 44 to 46 compute each lane, whatever the shapes (R77, R78, R270, R271, R273, R274, 08_isa_vector_crosslane.md). -/
def Obligations.VectorIntegerLanes : Prop :=
  ∀ (s : State) (t : Team) (w : EW) (d a b : VReg) (e : Option VReg) (m : Option Msk),
    t.has [d, a, b, e.getD d] → (∀ r, (t.v r).fits t.width) →
    (Ready s t 1 [.v a, .v b, .v d] →
      WritesLanes (.vadd w d a b m) s t d m (fun l => laneOp2 (ewBits w) eAdd ((t.v a).lane l) ((t.v b).lane l)) ∧
      WritesLanes (.vsub w d a b m) s t d m (fun l => laneOp2 (ewBits w) eSub ((t.v a).lane l) ((t.v b).lane l)) ∧
      WritesLanes (.vmul w d a b m) s t d m (fun l => laneOp2 (ewBits w) eMul ((t.v a).lane l) ((t.v b).lane l)) ∧
      WritesLanes (.vmulhs w d a b m) s t d m (fun l => laneOp2 (ewBits w) eMulhs ((t.v a).lane l) ((t.v b).lane l)) ∧
      WritesLanes (.vmulhu w d a b m) s t d m (fun l => laneOp2 (ewBits w) eMulhu ((t.v a).lane l) ((t.v b).lane l)) ∧
      WritesLanes (.vmin w d a b m) s t d m (fun l => laneOp2 (ewBits w) eMin ((t.v a).lane l) ((t.v b).lane l)) ∧
      WritesLanes (.vmax w d a b m) s t d m (fun l => laneOp2 (ewBits w) eMax ((t.v a).lane l) ((t.v b).lane l)) ∧
      WritesLanes (.vminu w d a b m) s t d m (fun l => laneOp2 (ewBits w) eMinu ((t.v a).lane l) ((t.v b).lane l)) ∧
      WritesLanes (.vmaxu w d a b m) s t d m (fun l => laneOp2 (ewBits w) eMaxu ((t.v a).lane l) ((t.v b).lane l)) ∧
      WritesLanes (.vand w d a b m) s t d m (fun l => laneOp2 (ewBits w) eAnd ((t.v a).lane l) ((t.v b).lane l)) ∧
      WritesLanes (.vor w d a b m) s t d m (fun l => laneOp2 (ewBits w) eOr ((t.v a).lane l) ((t.v b).lane l)) ∧
      WritesLanes (.vxor w d a b m) s t d m (fun l => laneOp2 (ewBits w) eXor ((t.v a).lane l) ((t.v b).lane l)) ∧
      WritesLanes (.vandn w d a b m) s t d m (fun l => laneOp2 (ewBits w) eAndn ((t.v a).lane l) ((t.v b).lane l)) ∧
      WritesLanes (.vshl w d a b m) s t d m (fun l => laneOp2 (ewBits w) eShl ((t.v a).lane l) ((t.v b).lane l)) ∧
      WritesLanes (.vshr w d a b m) s t d m (fun l => laneOp2 (ewBits w) eShr ((t.v a).lane l) ((t.v b).lane l)) ∧
      WritesLanes (.vsar w d a b m) s t d m (fun l => laneOp2 (ewBits w) eSar ((t.v a).lane l) ((t.v b).lane l)) ∧
      WritesLanes (.vadds w d a b m) s t d m (fun l => laneOp2 (ewBits w) eAdds ((t.v a).lane l) ((t.v b).lane l)) ∧
      WritesLanes (.vsubs w d a b m) s t d m (fun l => laneOp2 (ewBits w) eSubs ((t.v a).lane l) ((t.v b).lane l)) ∧
      WritesLanes (.vaddus w d a b m) s t d m (fun l => laneOp2 (ewBits w) eAddus ((t.v a).lane l) ((t.v b).lane l)) ∧
      WritesLanes (.vsubus w d a b m) s t d m (fun l => laneOp2 (ewBits w) eSubus ((t.v a).lane l) ((t.v b).lane l))) ∧
    (Ready s t 1 [.v a, .v d] →
      WritesLanes (.vabs w d a m) s t d m (fun l => laneOp1 (ewBits w) eAbs ((t.v a).lane l)) ∧
      WritesLanes (.vneg w d a m) s t d m (fun l => laneOp1 (ewBits w) eNeg ((t.v a).lane l)) ∧
      WritesLanes (.vclz w d a m) s t d m (fun l => laneOp1 (ewBits w) eClz ((t.v a).lane l)) ∧
      WritesLanes (.vpopc w d a m) s t d m (fun l => laneOp1 (ewBits w) ePopc ((t.v a).lane l)) ∧
      WritesLanes (.vmov d a m) s t d m (fun l => (t.v a).lane l)) ∧
    (Ready s t 1 [.v a, .v b, .v (e.getD d), .v d] →
      WritesLanes (.vmad w d a b e m) s t d m (fun l =>
        laneMad (ewBits w) ((t.v a).lane l) ((t.v b).lane l) ((t.v (e.getD d)).lane l))) ∧
    ElementsExact (ewBits w) ∧ ElementsPlaced (ewBits w)

/-- Vector integer instructions of major 47 take a scalar or immediate in every lane (R268, R271, R273, R274, R275). -/
def Obligations.VectorScalarLanes : Prop :=
  ∀ (s : State) (t : Team) (d a : VReg) (b : SOrI) (e : Option VReg) (m : Option Msk),
    t.has [d, a, e.getD d] → (∀ r, (t.v r).fits t.width) → t.width ≤ 1024 →
    (Ready s t 1 ((sOrIReg b).map .s ++ [.v a, .v d]) →
      WritesLanes (.vaddScalar d a b m) s t d m (fun l => laneOp2 32 eAdd ((t.v a).lane l) (t.sOrI b)) ∧
      WritesLanes (.vsubScalar d a b m) s t d m (fun l => laneOp2 32 eSub ((t.v a).lane l) (t.sOrI b)) ∧
      WritesLanes (.vmulScalar d a b m) s t d m (fun l => laneOp2 32 eMul ((t.v a).lane l) (t.sOrI b)) ∧
      WritesLanes (.vmulhsScalar d a b m) s t d m (fun l => laneOp2 32 eMulhs ((t.v a).lane l) (t.sOrI b)) ∧
      WritesLanes (.vmulhuScalar d a b m) s t d m (fun l => laneOp2 32 eMulhu ((t.v a).lane l) (t.sOrI b)) ∧
      WritesLanes (.vminScalar d a b m) s t d m (fun l => laneOp2 32 eMin ((t.v a).lane l) (t.sOrI b)) ∧
      WritesLanes (.vmaxScalar d a b m) s t d m (fun l => laneOp2 32 eMax ((t.v a).lane l) (t.sOrI b)) ∧
      WritesLanes (.vminuScalar d a b m) s t d m (fun l => laneOp2 32 eMinu ((t.v a).lane l) (t.sOrI b)) ∧
      WritesLanes (.vmaxuScalar d a b m) s t d m (fun l => laneOp2 32 eMaxu ((t.v a).lane l) (t.sOrI b)) ∧
      WritesLanes (.vandScalar d a b m) s t d m (fun l => laneOp2 32 eAnd ((t.v a).lane l) (t.sOrI b)) ∧
      WritesLanes (.vorScalar d a b m) s t d m (fun l => laneOp2 32 eOr ((t.v a).lane l) (t.sOrI b)) ∧
      WritesLanes (.vxorScalar d a b m) s t d m (fun l => laneOp2 32 eXor ((t.v a).lane l) (t.sOrI b)) ∧
      WritesLanes (.vandnScalar d a b m) s t d m (fun l => laneOp2 32 eAndn ((t.v a).lane l) (t.sOrI b)) ∧
      WritesLanes (.vshlScalar d a b m) s t d m (fun l => laneOp2 32 eShl ((t.v a).lane l) (t.sOrI b)) ∧
      WritesLanes (.vshrScalar d a b m) s t d m (fun l => laneOp2 32 eShr ((t.v a).lane l) (t.sOrI b)) ∧
      WritesLanes (.vsarScalar d a b m) s t d m (fun l => laneOp2 32 eSar ((t.v a).lane l) (t.sOrI b)) ∧
      WritesLanes (.vaddsScalar d a b m) s t d m (fun l => laneOp2 32 eAdds ((t.v a).lane l) (t.sOrI b)) ∧
      WritesLanes (.vsubsScalar d a b m) s t d m (fun l => laneOp2 32 eSubs ((t.v a).lane l) (t.sOrI b)) ∧
      WritesLanes (.vaddusScalar d a b m) s t d m (fun l => laneOp2 32 eAddus ((t.v a).lane l) (t.sOrI b)) ∧
      WritesLanes (.vsubusScalar d a b m) s t d m (fun l => laneOp2 32 eSubus ((t.v a).lane l) (t.sOrI b))) ∧
    (Ready s t 1 [.v a, .v d] →
      WritesLanes (.vabsScalar d a m) s t d m (fun l => laneOp1 32 eAbs ((t.v a).lane l)) ∧
      WritesLanes (.vnegScalar d a m) s t d m (fun l => laneOp1 32 eNeg ((t.v a).lane l)) ∧
      WritesLanes (.vclzScalar d a m) s t d m (fun l => laneOp1 32 eClz ((t.v a).lane l)) ∧
      WritesLanes (.vpopcScalar d a m) s t d m (fun l => laneOp1 32 ePopc ((t.v a).lane l))) ∧
    (Ready s t 1 ((sOrIReg b).map .s ++ [.v a, .v (e.getD d), .v d]) →
      WritesLanes (.vmadScalar d a b e m) s t d m (fun l =>
        laneMad 32 ((t.v a).lane l) (t.sOrI b) ((t.v (e.getD d)).lane l))) ∧
    (Ready s t 1 ((sOrIReg b).map .s ++ [.v d]) →
      WritesLanes (.vmovScalar d b m) s t d m (fun _ => t.sOrI b)) ∧
    (∀ k : Msk, Ready s t 1 ((sOrIReg b).map .s ++ [.v a, .v d]) →
      WritesLanes (.vsel d a (.sca b) k) s t d none (fun l =>
        if (t.p k.p).getLsbD l != k.n then (t.v a).lane l else t.sOrI b)) ∧
    (∀ (k : Msk) (c : VReg), t.has [c] → Ready s t 1 [.v a, .v c, .v d] →
      WritesLanes (.vsel d a (.vec c) k) s t d none (fun l =>
        if (t.p k.p).getLsbD l != k.n then (t.v a).lane l else (t.v c).lane l))

/-- A vector destination after a masked write, lane by lane (R79, R223, R11). -/
def Obligations.MaskedWriteLanes : Prop :=
  ∀ (t : Team) (d : VReg) (m : Option Msk) (y : VVal) (l : Nat), t.has [d] → l < t.width → t.width ≤ 1024 →
    y.fits t.width → (t.v d).fits t.width → t.regs.exec &&& t.regs.dead = 0 → t.regs.dead.getLsbD l = false →
    ((t.writeMsk d m y).v d).lane l =
      if t.active m = 0 then (t.v d).lane l
      else if (t.active m).getLsbD l then y.lane l
      else if (m.any (·.z)) && t.regs.exec.getLsbD l then 0
      else (t.v d).lane l

/-- Vector float instructions of majors 48 and 49, with no trap enabled: lanes and sticky flags (R276, R282, R194, R190, 08_isa_vector_crosslane.md). -/
def Obligations.FloatVectorLanes : Prop :=
  ∀ (s : State) (t : Team) (tb : Bool) (d a b : VReg) (e : Option VReg) (m : Option Msk) (rm : Option (BitVec 3)),
    t.has [d, a, b, e.getD d] → t.noTrap → s.rel.shadow = [] →
    (Ready s t 1 [.v a, .v b, .v d] →
      WritesFloat (.vfaddF32 d a b m rm) s t d m (fun l => fLane 32 (on2 (fAdd fF32 (t.modeN rm))) [(t.v a).lane l, ((t.v b).lane l)]) ∧
      WritesFloat (.vfsubF32 d a b m rm) s t d m (fun l => fLane 32 (on2 (fSub fF32 (t.modeN rm))) [(t.v a).lane l, ((t.v b).lane l)]) ∧
      WritesFloat (.vfmulF32 d a b m rm) s t d m (fun l => fLane 32 (on2 (fMul fF32 (t.modeN rm))) [(t.v a).lane l, ((t.v b).lane l)]) ∧
      WritesFloat (.vfminF32 d a b m rm) s t d m (fun l => fLane 32 (on2 (oMin fF32 (t.modeN rm))) [(t.v a).lane l, ((t.v b).lane l)]) ∧
      WritesFloat (.vfmaxF32 d a b m rm) s t d m (fun l => fLane 32 (on2 (oMax fF32 (t.modeN rm))) [(t.v a).lane l, ((t.v b).lane l)]) ∧
      WritesFloat (.vfdivF32 d a b m rm) s t d m (fun l => fLane 32 (on2 (fDiv fF32 (t.modeN rm))) [(t.v a).lane l, ((t.v b).lane l)])) ∧
    (Ready s t 1 [.v a, .v b, .v (e.getD d), .v d] →
      WritesFloat (.vfmaF32 d a b e m rm) s t d m (fun l => fLane 32 (on3 (oFma fF32 (t.modeN rm))) [(t.v a).lane l, ((t.v b).lane l), (t.v (e.getD d)).lane l]) ∧
      WritesFloat (.vfmsF32 d a b e m rm) s t d m (fun l => fLane 32 (on3 (oFms fF32 (t.modeN rm))) [(t.v a).lane l, ((t.v b).lane l), (t.v (e.getD d)).lane l]) ∧
      WritesFloat (.vfnmaF32 d a b e m rm) s t d m (fun l => fLane 32 (on3 (oFnma fF32 (t.modeN rm))) [(t.v a).lane l, ((t.v b).lane l), (t.v (e.getD d)).lane l])) ∧
    (Ready s t 1 [.v a, .v d] →
      WritesFloat (.vfsqrtF32 d a m rm) s t d m (fun l => fLane 32 (on1 (fSqrt fF32 (t.modeN rm))) [(t.v a).lane l]) ∧
      WritesFloat (.vfrcpF32 d a m rm) s t d m (fun l => fLane 32 (on1 (fRcp fF32 (t.modeN rm))) [(t.v a).lane l]) ∧
      WritesFloat (.vfrsqF32 d a m rm) s t d m (fun l => fLane 32 (on1 (fRsq fF32 (t.modeN rm))) [(t.v a).lane l]) ∧
      WritesFloat (.vfabsF32 d a m rm) s t d m (fun l => fLane 32 (on1 (oAbs fF32 (t.modeN rm))) [(t.v a).lane l]) ∧
      WritesFloat (.vfnegF32 d a m rm) s t d m (fun l => fLane 32 (on1 (oNeg fF32 (t.modeN rm))) [(t.v a).lane l]) ∧
      WritesFloat (.vfexp2F32 d a m rm) s t d m (fun l => fLane 32 (on1 (fExp2 fF32 (t.modeN rm))) [(t.v a).lane l]) ∧
      WritesFloat (.vflog2F32 d a m rm) s t d m (fun l => fLane 32 (on1 (fLog2 fF32 (t.modeN rm))) [(t.v a).lane l])) ∧
    (Ready s t 1 [.v a, .v b, .v d] →
      WritesFloat (.vfaddPacked tb d a b m rm) s t d m (fun l => fLane 16 (on2 (fAdd (packedFmt tb) (t.modeN rm))) [(t.v a).lane l, ((t.v b).lane l)]) ∧
      WritesFloat (.vfsubPacked tb d a b m rm) s t d m (fun l => fLane 16 (on2 (fSub (packedFmt tb) (t.modeN rm))) [(t.v a).lane l, ((t.v b).lane l)]) ∧
      WritesFloat (.vfmulPacked tb d a b m rm) s t d m (fun l => fLane 16 (on2 (fMul (packedFmt tb) (t.modeN rm))) [(t.v a).lane l, ((t.v b).lane l)]) ∧
      WritesFloat (.vfminPacked tb d a b m rm) s t d m (fun l => fLane 16 (on2 (oMin (packedFmt tb) (t.modeN rm))) [(t.v a).lane l, ((t.v b).lane l)]) ∧
      WritesFloat (.vfmaxPacked tb d a b m rm) s t d m (fun l => fLane 16 (on2 (oMax (packedFmt tb) (t.modeN rm))) [(t.v a).lane l, ((t.v b).lane l)]) ∧
      WritesFloat (.vfdivPacked tb d a b m rm) s t d m (fun l => fLane 16 (on2 (fDiv (packedFmt tb) (t.modeN rm))) [(t.v a).lane l, ((t.v b).lane l)])) ∧
    (Ready s t 1 [.v a, .v b, .v (e.getD d), .v d] →
      WritesFloat (.vfmaPacked tb d a b e m rm) s t d m (fun l => fLane 16 (on3 (oFma (packedFmt tb) (t.modeN rm))) [(t.v a).lane l, ((t.v b).lane l), (t.v (e.getD d)).lane l]) ∧
      WritesFloat (.vfmsPacked tb d a b e m rm) s t d m (fun l => fLane 16 (on3 (oFms (packedFmt tb) (t.modeN rm))) [(t.v a).lane l, ((t.v b).lane l), (t.v (e.getD d)).lane l]) ∧
      WritesFloat (.vfnmaPacked tb d a b e m rm) s t d m (fun l => fLane 16 (on3 (oFnma (packedFmt tb) (t.modeN rm))) [(t.v a).lane l, ((t.v b).lane l), (t.v (e.getD d)).lane l])) ∧
    (Ready s t 1 [.v a, .v d] →
      WritesFloat (.vfsqrtPacked tb d a m rm) s t d m (fun l => fLane 16 (on1 (fSqrt (packedFmt tb) (t.modeN rm))) [(t.v a).lane l]) ∧
      WritesFloat (.vfrcpPacked tb d a m rm) s t d m (fun l => fLane 16 (on1 (fRcp (packedFmt tb) (t.modeN rm))) [(t.v a).lane l]) ∧
      WritesFloat (.vfrsqPacked tb d a m rm) s t d m (fun l => fLane 16 (on1 (fRsq (packedFmt tb) (t.modeN rm))) [(t.v a).lane l]) ∧
      WritesFloat (.vfabsPacked tb d a m rm) s t d m (fun l => fLane 16 (on1 (oAbs (packedFmt tb) (t.modeN rm))) [(t.v a).lane l]) ∧
      WritesFloat (.vfnegPacked tb d a m rm) s t d m (fun l => fLane 16 (on1 (oNeg (packedFmt tb) (t.modeN rm))) [(t.v a).lane l]) ∧
      WritesFloat (.vfexp2Packed tb d a m rm) s t d m (fun l => fLane 16 (on1 (fExp2 (packedFmt tb) (t.modeN rm))) [(t.v a).lane l]) ∧
      WritesFloat (.vflog2Packed tb d a m rm) s t d m (fun l => fLane 16 (on1 (fLog2 (packedFmt tb) (t.modeN rm))) [(t.v a).lane l]))

/-- Vector float instructions of major 50 with a scalar or immediate: lanes and sticky flags (R268, R276, R282, R194). -/
def Obligations.FloatScalarLanes : Prop :=
  ∀ (s : State) (t : Team) (d a : VReg) (b : SOrI) (e : Option VReg) (m : Option Msk) (rm : Option (BitVec 3)),
    t.has [d, a, e.getD d] → t.noTrap → s.rel.shadow = [] →
    (Ready s t 1 ((sOrIReg b).map .s ++ [.v a, .v d]) →
      WritesFloat (.vfaddScalar d a b m rm) s t d m (fun l => fLane 32 (on2 (fAdd fF32 (t.modeN rm))) [(t.v a).lane l, (t.sOrI b)]) ∧
      WritesFloat (.vfsubScalar d a b m rm) s t d m (fun l => fLane 32 (on2 (fSub fF32 (t.modeN rm))) [(t.v a).lane l, (t.sOrI b)]) ∧
      WritesFloat (.vfmulScalar d a b m rm) s t d m (fun l => fLane 32 (on2 (fMul fF32 (t.modeN rm))) [(t.v a).lane l, (t.sOrI b)]) ∧
      WritesFloat (.vfminScalar d a b m rm) s t d m (fun l => fLane 32 (on2 (oMin fF32 (t.modeN rm))) [(t.v a).lane l, (t.sOrI b)]) ∧
      WritesFloat (.vfmaxScalar d a b m rm) s t d m (fun l => fLane 32 (on2 (oMax fF32 (t.modeN rm))) [(t.v a).lane l, (t.sOrI b)]) ∧
      WritesFloat (.vfdivScalar d a b m rm) s t d m (fun l => fLane 32 (on2 (fDiv fF32 (t.modeN rm))) [(t.v a).lane l, (t.sOrI b)])) ∧
    (Ready s t 1 ((sOrIReg b).map .s ++ [.v a, .v (e.getD d), .v d]) →
      WritesFloat (.vfmaScalar d a b e m rm) s t d m (fun l => fLane 32 (on3 (oFma fF32 (t.modeN rm))) [(t.v a).lane l, (t.sOrI b), (t.v (e.getD d)).lane l]) ∧
      WritesFloat (.vfmsScalar d a b e m rm) s t d m (fun l => fLane 32 (on3 (oFms fF32 (t.modeN rm))) [(t.v a).lane l, (t.sOrI b), (t.v (e.getD d)).lane l]) ∧
      WritesFloat (.vfnmaScalar d a b e m rm) s t d m (fun l => fLane 32 (on3 (oFnma fF32 (t.modeN rm))) [(t.v a).lane l, (t.sOrI b), (t.v (e.getD d)).lane l])) ∧
    (Ready s t 1 [.v a, .v d] →
      WritesFloat (.vfsqrtScalar d a m rm) s t d m (fun l => fLane 32 (on1 (fSqrt fF32 (t.modeN rm))) [(t.v a).lane l]) ∧
      WritesFloat (.vfrcpScalar d a m rm) s t d m (fun l => fLane 32 (on1 (fRcp fF32 (t.modeN rm))) [(t.v a).lane l]) ∧
      WritesFloat (.vfrsqScalar d a m rm) s t d m (fun l => fLane 32 (on1 (fRsq fF32 (t.modeN rm))) [(t.v a).lane l]) ∧
      WritesFloat (.vfabsScalar d a m rm) s t d m (fun l => fLane 32 (on1 (oAbs fF32 (t.modeN rm))) [(t.v a).lane l]) ∧
      WritesFloat (.vfnegScalar d a m rm) s t d m (fun l => fLane 32 (on1 (oNeg fF32 (t.modeN rm))) [(t.v a).lane l]) ∧
      WritesFloat (.vfexp2Scalar d a m rm) s t d m (fun l => fLane 32 (on1 (fExp2 fF32 (t.modeN rm))) [(t.v a).lane l]) ∧
      WritesFloat (.vflog2Scalar d a m rm) s t d m (fun l => fLane 32 (on1 (fLog2 fF32 (t.modeN rm))) [(t.v a).lane l]))

/-- An enabled float condition parks the team before anything is written (R195, R66, R468, R276, R282). -/
def Obligations.FloatTrapParks : Prop :=
  ∀ (s : State) (t : Team) (tb : Bool) (d a b : VReg) (c : SOrI) (e : Option VReg) (m : Option Msk) (rm : Option (BitVec 3)),
    t.has [d, a, e.getD d] → s.rel.shadow = [] →
    (t.has [b] →
      (Ready s t 1 [.v a, .v b, .v d] →
      TrapsFloat (.vfaddF32 d a b m rm) s t d m (fun l => fLane 32 (on2 (fAdd fF32 (t.modeN rm))) [(t.v a).lane l, ((t.v b).lane l)]) ∧
      TrapsFloat (.vfsubF32 d a b m rm) s t d m (fun l => fLane 32 (on2 (fSub fF32 (t.modeN rm))) [(t.v a).lane l, ((t.v b).lane l)]) ∧
      TrapsFloat (.vfmulF32 d a b m rm) s t d m (fun l => fLane 32 (on2 (fMul fF32 (t.modeN rm))) [(t.v a).lane l, ((t.v b).lane l)]) ∧
      TrapsFloat (.vfminF32 d a b m rm) s t d m (fun l => fLane 32 (on2 (oMin fF32 (t.modeN rm))) [(t.v a).lane l, ((t.v b).lane l)]) ∧
      TrapsFloat (.vfmaxF32 d a b m rm) s t d m (fun l => fLane 32 (on2 (oMax fF32 (t.modeN rm))) [(t.v a).lane l, ((t.v b).lane l)]) ∧
      TrapsFloat (.vfdivF32 d a b m rm) s t d m (fun l => fLane 32 (on2 (fDiv fF32 (t.modeN rm))) [(t.v a).lane l, ((t.v b).lane l)])) ∧
    (Ready s t 1 [.v a, .v b, .v (e.getD d), .v d] →
      TrapsFloat (.vfmaF32 d a b e m rm) s t d m (fun l => fLane 32 (on3 (oFma fF32 (t.modeN rm))) [(t.v a).lane l, ((t.v b).lane l), (t.v (e.getD d)).lane l]) ∧
      TrapsFloat (.vfmsF32 d a b e m rm) s t d m (fun l => fLane 32 (on3 (oFms fF32 (t.modeN rm))) [(t.v a).lane l, ((t.v b).lane l), (t.v (e.getD d)).lane l]) ∧
      TrapsFloat (.vfnmaF32 d a b e m rm) s t d m (fun l => fLane 32 (on3 (oFnma fF32 (t.modeN rm))) [(t.v a).lane l, ((t.v b).lane l), (t.v (e.getD d)).lane l])) ∧
    (Ready s t 1 [.v a, .v d] →
      TrapsFloat (.vfsqrtF32 d a m rm) s t d m (fun l => fLane 32 (on1 (fSqrt fF32 (t.modeN rm))) [(t.v a).lane l]) ∧
      TrapsFloat (.vfrcpF32 d a m rm) s t d m (fun l => fLane 32 (on1 (fRcp fF32 (t.modeN rm))) [(t.v a).lane l]) ∧
      TrapsFloat (.vfrsqF32 d a m rm) s t d m (fun l => fLane 32 (on1 (fRsq fF32 (t.modeN rm))) [(t.v a).lane l]) ∧
      TrapsFloat (.vfabsF32 d a m rm) s t d m (fun l => fLane 32 (on1 (oAbs fF32 (t.modeN rm))) [(t.v a).lane l]) ∧
      TrapsFloat (.vfnegF32 d a m rm) s t d m (fun l => fLane 32 (on1 (oNeg fF32 (t.modeN rm))) [(t.v a).lane l]) ∧
      TrapsFloat (.vfexp2F32 d a m rm) s t d m (fun l => fLane 32 (on1 (fExp2 fF32 (t.modeN rm))) [(t.v a).lane l]) ∧
      TrapsFloat (.vflog2F32 d a m rm) s t d m (fun l => fLane 32 (on1 (fLog2 fF32 (t.modeN rm))) [(t.v a).lane l]))) ∧
    (t.has [b] →
      (Ready s t 1 [.v a, .v b, .v d] →
      TrapsFloat (.vfaddPacked tb d a b m rm) s t d m (fun l => fLane 16 (on2 (fAdd (packedFmt tb) (t.modeN rm))) [(t.v a).lane l, ((t.v b).lane l)]) ∧
      TrapsFloat (.vfsubPacked tb d a b m rm) s t d m (fun l => fLane 16 (on2 (fSub (packedFmt tb) (t.modeN rm))) [(t.v a).lane l, ((t.v b).lane l)]) ∧
      TrapsFloat (.vfmulPacked tb d a b m rm) s t d m (fun l => fLane 16 (on2 (fMul (packedFmt tb) (t.modeN rm))) [(t.v a).lane l, ((t.v b).lane l)]) ∧
      TrapsFloat (.vfminPacked tb d a b m rm) s t d m (fun l => fLane 16 (on2 (oMin (packedFmt tb) (t.modeN rm))) [(t.v a).lane l, ((t.v b).lane l)]) ∧
      TrapsFloat (.vfmaxPacked tb d a b m rm) s t d m (fun l => fLane 16 (on2 (oMax (packedFmt tb) (t.modeN rm))) [(t.v a).lane l, ((t.v b).lane l)]) ∧
      TrapsFloat (.vfdivPacked tb d a b m rm) s t d m (fun l => fLane 16 (on2 (fDiv (packedFmt tb) (t.modeN rm))) [(t.v a).lane l, ((t.v b).lane l)])) ∧
    (Ready s t 1 [.v a, .v b, .v (e.getD d), .v d] →
      TrapsFloat (.vfmaPacked tb d a b e m rm) s t d m (fun l => fLane 16 (on3 (oFma (packedFmt tb) (t.modeN rm))) [(t.v a).lane l, ((t.v b).lane l), (t.v (e.getD d)).lane l]) ∧
      TrapsFloat (.vfmsPacked tb d a b e m rm) s t d m (fun l => fLane 16 (on3 (oFms (packedFmt tb) (t.modeN rm))) [(t.v a).lane l, ((t.v b).lane l), (t.v (e.getD d)).lane l]) ∧
      TrapsFloat (.vfnmaPacked tb d a b e m rm) s t d m (fun l => fLane 16 (on3 (oFnma (packedFmt tb) (t.modeN rm))) [(t.v a).lane l, ((t.v b).lane l), (t.v (e.getD d)).lane l])) ∧
    (Ready s t 1 [.v a, .v d] →
      TrapsFloat (.vfsqrtPacked tb d a m rm) s t d m (fun l => fLane 16 (on1 (fSqrt (packedFmt tb) (t.modeN rm))) [(t.v a).lane l]) ∧
      TrapsFloat (.vfrcpPacked tb d a m rm) s t d m (fun l => fLane 16 (on1 (fRcp (packedFmt tb) (t.modeN rm))) [(t.v a).lane l]) ∧
      TrapsFloat (.vfrsqPacked tb d a m rm) s t d m (fun l => fLane 16 (on1 (fRsq (packedFmt tb) (t.modeN rm))) [(t.v a).lane l]) ∧
      TrapsFloat (.vfabsPacked tb d a m rm) s t d m (fun l => fLane 16 (on1 (oAbs (packedFmt tb) (t.modeN rm))) [(t.v a).lane l]) ∧
      TrapsFloat (.vfnegPacked tb d a m rm) s t d m (fun l => fLane 16 (on1 (oNeg (packedFmt tb) (t.modeN rm))) [(t.v a).lane l]) ∧
      TrapsFloat (.vfexp2Packed tb d a m rm) s t d m (fun l => fLane 16 (on1 (fExp2 (packedFmt tb) (t.modeN rm))) [(t.v a).lane l]) ∧
      TrapsFloat (.vflog2Packed tb d a m rm) s t d m (fun l => fLane 16 (on1 (fLog2 (packedFmt tb) (t.modeN rm))) [(t.v a).lane l]))) ∧
    (Ready s t 1 ((sOrIReg c).map .s ++ [.v a, .v d]) →
      TrapsFloat (.vfaddScalar d a c m rm) s t d m (fun l => fLane 32 (on2 (fAdd fF32 (t.modeN rm))) [(t.v a).lane l, (t.sOrI c)]) ∧
      TrapsFloat (.vfsubScalar d a c m rm) s t d m (fun l => fLane 32 (on2 (fSub fF32 (t.modeN rm))) [(t.v a).lane l, (t.sOrI c)]) ∧
      TrapsFloat (.vfmulScalar d a c m rm) s t d m (fun l => fLane 32 (on2 (fMul fF32 (t.modeN rm))) [(t.v a).lane l, (t.sOrI c)]) ∧
      TrapsFloat (.vfminScalar d a c m rm) s t d m (fun l => fLane 32 (on2 (oMin fF32 (t.modeN rm))) [(t.v a).lane l, (t.sOrI c)]) ∧
      TrapsFloat (.vfmaxScalar d a c m rm) s t d m (fun l => fLane 32 (on2 (oMax fF32 (t.modeN rm))) [(t.v a).lane l, (t.sOrI c)]) ∧
      TrapsFloat (.vfdivScalar d a c m rm) s t d m (fun l => fLane 32 (on2 (fDiv fF32 (t.modeN rm))) [(t.v a).lane l, (t.sOrI c)])) ∧
    (Ready s t 1 ((sOrIReg c).map .s ++ [.v a, .v (e.getD d), .v d]) →
      TrapsFloat (.vfmaScalar d a c e m rm) s t d m (fun l => fLane 32 (on3 (oFma fF32 (t.modeN rm))) [(t.v a).lane l, (t.sOrI c), (t.v (e.getD d)).lane l]) ∧
      TrapsFloat (.vfmsScalar d a c e m rm) s t d m (fun l => fLane 32 (on3 (oFms fF32 (t.modeN rm))) [(t.v a).lane l, (t.sOrI c), (t.v (e.getD d)).lane l]) ∧
      TrapsFloat (.vfnmaScalar d a c e m rm) s t d m (fun l => fLane 32 (on3 (oFnma fF32 (t.modeN rm))) [(t.v a).lane l, (t.sOrI c), (t.v (e.getD d)).lane l])) ∧
    (Ready s t 1 [.v a, .v d] →
      TrapsFloat (.vfsqrtScalar d a m rm) s t d m (fun l => fLane 32 (on1 (fSqrt fF32 (t.modeN rm))) [(t.v a).lane l]) ∧
      TrapsFloat (.vfrcpScalar d a m rm) s t d m (fun l => fLane 32 (on1 (fRcp fF32 (t.modeN rm))) [(t.v a).lane l]) ∧
      TrapsFloat (.vfrsqScalar d a m rm) s t d m (fun l => fLane 32 (on1 (fRsq fF32 (t.modeN rm))) [(t.v a).lane l]) ∧
      TrapsFloat (.vfabsScalar d a m rm) s t d m (fun l => fLane 32 (on1 (oAbs fF32 (t.modeN rm))) [(t.v a).lane l]) ∧
      TrapsFloat (.vfnegScalar d a m rm) s t d m (fun l => fLane 32 (on1 (oNeg fF32 (t.modeN rm))) [(t.v a).lane l]) ∧
      TrapsFloat (.vfexp2Scalar d a m rm) s t d m (fun l => fLane 32 (on1 (fExp2 fF32 (t.modeN rm))) [(t.v a).lane l]) ∧
      TrapsFloat (.vflog2Scalar d a m rm) s t d m (fun l => fLane 32 (on1 (fLog2 fF32 (t.modeN rm))) [(t.v a).lane l]))

/-- VCVT, QCVT, SHTAG, SHPROMOTE and SHTRY: what each writes, and the forms that park (R81, R283, R285, R286, R287, R288, R289, R291, R292). -/
def Obligations.ConversionsAndShapes : Prop :=
  ∀ (s : State) (t : Team) (d a : VReg) (r : SReg) (p : PReg) (m : Option Msk) (rm : Option (BitVec 3)),
    t.has [d, a] →
    (∀ (sel : BitVec 4) (src dst : BitVec 5),
      (∀ (cs cd : CFmt), vcvtOk src dst = true → selOk src dst sel = true →
        cfmt src.toNat = some cs → cfmt dst.toNat = some cd → t.noTrap → s.rel.shadow = [] →
        Ready s t 1 ((if cvtElems src < cvtElems dst then [Dest.v a, .v d] else [.v a]) ++ [.v d]) →
        ∃ (y : VVal) (fl : Nat),
          exec (.vcvt d a sel src dst m rm) s =
            .next (s.retire (((t.raise fl).writeMsk d m y).srStep (t.mode rm) (t.active m))).tick ∧
          (∀ l, l < t.width → (t.active m).getLsbD l → y.lane l = (t.cvtOf cs cd (t.mode rm) sel.toNat a d l).1) ∧
          (∀ k, k < 5 → (fl.testBit k ↔ ∃ l, l < t.width ∧ (t.active m).getLsbD l ∧
            ∃ x ∈ (t.cvtOf cs cd (t.mode rm) sel.toNat a d l).2, x.testBit k))) ∧
      (s.curTeam = some t → cvtFmtOk src = true → cvtFmtOk dst = true → selOk src dst sel = false →
        exec (.vcvt d a sel src dst m rm) s = .next (s.park t (mkF .illegalEncoding .selector 0 0)).tick) ∧
      (s.curTeam = some t → vcvtOk src dst = false → (cvtFmtOk src && cvtFmtOk dst && !selOk src dst sel) = false →
        exec (.vcvt d a sel src dst m rm) s = .next (s.park t (mkF .illegalFormat .none 0 0)).tick)) ∧
    (∀ (src dst : BitVec 5),
      (qcvtOk src dst = false → s.curTeam = some t →
        exec (.qcvt d a r src dst m rm) s = .next (s.park t (mkF .illegalFormat .none 0 0)).tick) ∧
      (qcvtOk src dst = true → Ready s t 1 [.s r] →
        (t.active m = 0 → exec (.qcvt d a r src dst m rm) s = .next (s.retire t).tick) ∧
        (t.active m ≠ 0 → qCtlBad (t.s r) dst.toNat = true →
          exec (.qcvt d a r src dst m rm) s = .next (s.park t (mkF .illegalFormat .control 0 0)).tick) ∧
        (∀ n ns nd : Nat, n = qLen (t.s r) → ns = (if src = 0 then n else n / 2) →
          nd = (if qIs4 dst.toNat then n / 8 else n / 4) → t.active m ≠ 0 → qCtlBad (t.s r) dst.toNat = false →
          (t.vcnt < a.toNat + ns ∨ t.vcnt ≤ d.toNat + nd →
            exec (.qcvt d a r src dst m rm) s = .next (s.park t (mkF .illegalEncoding .registerBeyondCount 0 0)).tick) ∧
          (a.toNat + ns ≤ t.vcnt → d.toNat + nd < t.vcnt → t.noTrap → s.rel.shadow = [] →
            Ready s t 1 (.s r :: ((vRange a ns ++ vRange d (nd + 1)).map .v)) →
            ∃ (ys : List VVal) (fl : Nat), ys.length = nd + 1 ∧
              exec (.qcvt d a r src dst m rm) s = .next (s.retire
                (((enum ys).foldl (fun (u : Team) x => u.writeMsk (BitVec.ofNat 7 (d.toNat + x.1)) m x.2)
                  (t.raise fl)).srStep (t.mode rm) (t.active m))).tick ∧
              (∀ i l, i ≤ nd → l < t.width → (t.active m).getLsbD l →
                (ys.getD i (.u 0)).lane l = (qWords dst.toNat (t.qcvtOf a (t.s r) src.toNat dst.toNat (t.mode rm) l)).getD i 0) ∧
              (∀ k, k < 5 → (fl.testBit k ↔ ∃ l, l < t.width ∧ (t.active m).getLsbD l ∧
                ∃ x ∈ (t.qcvtOf a (t.s r) src.toNat dst.toNat (t.mode rm) l).fl, x.testBit k)))))) ∧
    (Ready s t 1 [.s r, .v a] →
      exec (.shtag r a) s = .next (s.retire (t.setS r (match t.v a with
        | .u _ => 0
        | .a _ _ => 1
        | .g _ => 2))).tick) ∧
    (Ready s t 1 [.v d, .v d] →
      (∃ xs : List Wd, exec (.shpromote d) s = .next (s.retire (t.putV d (.g xs))).tick ∧
        ∀ l, l < t.width → (VVal.g xs).lane l = (t.v d).lane l) ∧
      ((t.v d).tag ≠ 2 → exec (.shtry d p) s = .next (s.retire (t.setP p t.live t.live)).tick) ∧
      ((t.v d).tag = 2 →
        (∀ x : Wd, (∃ l, l < t.width ∧ t.live.getLsbD l = true) →
          (∀ l, l < t.width → t.live.getLsbD l = true → (t.v d).lane l = x) →
          exec (.shtry d p) s = .next (s.retire ((t.putV d (.u x)).setP p t.live t.live)).tick) ∧
        (¬ (∃ x : Wd, ∀ l, l < t.width → t.live.getLsbD l = true → (t.v d).lane l = x) →
          (t.live.getLsbD 0 = true → t.live.getLsbD 1 = true →
            (∀ l, l < t.width → t.live.getLsbD l = true → (t.v d).lane l =
              (t.v d).lane 0 + BitVec.ofNat 32 l * ((t.v d).lane 1 - (t.v d).lane 0)) →
            exec (.shtry d p) s = .next (s.retire
              ((t.putV d (.a ((t.v d).lane 0) ((t.v d).lane 1 - (t.v d).lane 0))).setP p t.live t.live)).tick) ∧
          (¬ (t.live.getLsbD 0 = true ∧ t.live.getLsbD 1 = true ∧
              ∀ l, l < t.width → t.live.getLsbD l = true → (t.v d).lane l =
                (t.v d).lane 0 + BitVec.ofNat 32 l * ((t.v d).lane 1 - (t.v d).lane 0)) →
            exec (.shtry d p) s = .next (s.retire (t.setP p t.live 0)).tick))))

/-- Shuffles, BCAST, votes and integer reductions over the active lanes (R293, R294, R295, R296, R297). -/
def Obligations.ShufflesVotesReductions : Prop :=
  ∀ (s : State) (t : Team) (d a b : VReg) (ds n : SReg) (p : PReg) (m : Option Msk),
    t.has [d, a, b] →
    (Ready s t 1 [.v a, .v b, .v d] →
      Shuffles (.shfl d a b m) s t d a m (fun l => some (((t.v b).lane l).toNat % 1024 % t.width))) ∧
    (Ready s t 1 [.s n, .v a, .v d] →
      Shuffles (.shflUp d a n m) s t d a m (fun l => if (t.s n).toNat ≤ l then some (l - (t.s n).toNat) else none) ∧
      Shuffles (.shflDn d a n m) s t d a m (fun l => some (l + (t.s n).toNat)) ∧
      Shuffles (.shflXor d a n m) s t d a m (fun l => some (l ^^^ (t.s n).toNat)) ∧
      (t.regs.dead.getLsbD ((t.s n).toNat % t.width) = false →
        exec (.bcast d a n m) s = .next (s.retire (t.writeMsk d m (.u ((t.v a).lane ((t.s n).toNat % t.width))))).tick) ∧
      (t.regs.dead.getLsbD ((t.s n).toNat % t.width) = true →
        exec (.bcast d a n m) s = .next (s.retire ((t.writeMsk d m (.u 0)).setDeadsrc (t.active m))).tick)) ∧
    (mskNoZ m = false → s.curTeam = some t →
      ∀ i ∈ ([.voteAny ds p m, .voteAll ds p m, .ballot ds p 0 m, .vredAdd ds a m, .vredMin ds a m, .vredMax ds a m,
          .vredMinu ds a m, .vredMaxu ds a m, .vredAnd ds a m, .vredOr ds a m, .vredXor ds a m, .vredAddF32 ds a m,
          .vredMinF32 ds a m, .vredMaxF32 ds a m] : List Instr),
        exec i s = .next (s.park t (mkF .illegalEncoding .none 0 0)).tick) ∧
    (mskNoZ m = true →
      (Ready s t 1 [.s ds] →
        exec (.voteAny ds p m) s = .next (s.retire (t.setS ds (if t.active m &&& t.p p ≠ 0 then 1 else 0))).tick ∧
        exec (.voteAll ds p m) s = .next (s.retire (t.setS ds (if t.active m &&& ~~~(t.p p) = 0 then 1 else 0))).tick ∧
        (∀ k : BitVec 4, ∃ x : Dw, exec (.ballot ds p k m) s = .next (s.retire (t.setS ds x)).tick ∧
          ∀ i, i < 64 → x.getLsbD i = ((t.active m).getLsbD (64 * k.toNat + i) && (t.p p).getLsbD (64 * k.toNat + i)))) ∧
      (Ready s t 1 [.s ds, .v a] →
        exec (.vredAdd ds a m) s = .next (s.retire (t.setS ds
          ((((t.lanesOf (t.active m)).foldl (fun (x : Wd) l => (fun x y : Wd => x + y) x ((t.v a).lane l)) 0) : Wd).signExtend 64))).tick ∧
        exec (.vredMin ds a m) s = .next (s.retire (t.setS ds
          ((((t.lanesOf (t.active m)).foldl (fun (x : Wd) l => (fun x y : Wd => if y.toInt < x.toInt then y else x) x ((t.v a).lane l)) 0x7FFFFFFF) : Wd).signExtend 64))).tick ∧
        exec (.vredMax ds a m) s = .next (s.retire (t.setS ds
          ((((t.lanesOf (t.active m)).foldl (fun (x : Wd) l => (fun x y : Wd => if x.toInt < y.toInt then y else x) x ((t.v a).lane l)) 0x80000000) : Wd).signExtend 64))).tick ∧
        exec (.vredMinu ds a m) s = .next (s.retire (t.setS ds
          ((((t.lanesOf (t.active m)).foldl (fun (x : Wd) l => (fun x y : Wd => if y.toNat < x.toNat then y else x) x ((t.v a).lane l)) 0xFFFFFFFF) : Wd).setWidth 64))).tick ∧
        exec (.vredMaxu ds a m) s = .next (s.retire (t.setS ds
          ((((t.lanesOf (t.active m)).foldl (fun (x : Wd) l => (fun x y : Wd => if x.toNat < y.toNat then y else x) x ((t.v a).lane l)) 0) : Wd).setWidth 64))).tick ∧
        exec (.vredAnd ds a m) s = .next (s.retire (t.setS ds
          ((((t.lanesOf (t.active m)).foldl (fun (x : Wd) l => (fun x y : Wd => x &&& y) x ((t.v a).lane l)) 0xFFFFFFFF) : Wd).setWidth 64))).tick ∧
        exec (.vredOr ds a m) s = .next (s.retire (t.setS ds
          ((((t.lanesOf (t.active m)).foldl (fun (x : Wd) l => (fun x y : Wd => x ||| y) x ((t.v a).lane l)) 0) : Wd).setWidth 64))).tick ∧
        exec (.vredXor ds a m) s = .next (s.retire (t.setS ds
          ((((t.lanesOf (t.active m)).foldl (fun (x : Wd) l => (fun x y : Wd => x ^^^ y) x ((t.v a).lane l)) 0) : Wd).setWidth 64))).tick))

/-- VSCAN on integers, and VRED and VSCAN on F32 with no trap enabled (R194, R297, R298, R299). -/
def Obligations.ScansAndFloatReductions : Prop :=
  ∀ (s : State) (t : Team) (d a : VReg) (ds : SReg) (m : Option Msk), t.has [d, a] →
    (Ready s t 1 [.v a, .v d] →
      (∃ y : VVal, exec (.vscanAdd d a m) s = .next (s.retire (t.writeMsk d m y)).tick ∧
        ∀ l, l < t.width → (t.active m).getLsbD l → y.lane l =
          ((t.lanesOf (t.active m)).filter (· ≤ l)).foldl (fun (x : Wd) k => (fun x y : Wd => x + y) x ((t.v a).lane k)) 0) ∧
      (∃ y : VVal, exec (.vscanMin d a m) s = .next (s.retire (t.writeMsk d m y)).tick ∧
        ∀ l, l < t.width → (t.active m).getLsbD l → y.lane l =
          ((t.lanesOf (t.active m)).filter (· ≤ l)).foldl (fun (x : Wd) k => (fun x y : Wd => if y.toInt < x.toInt then y else x) x ((t.v a).lane k)) 0x7FFFFFFF) ∧
      (∃ y : VVal, exec (.vscanMax d a m) s = .next (s.retire (t.writeMsk d m y)).tick ∧
        ∀ l, l < t.width → (t.active m).getLsbD l → y.lane l =
          ((t.lanesOf (t.active m)).filter (· ≤ l)).foldl (fun (x : Wd) k => (fun x y : Wd => if x.toInt < y.toInt then y else x) x ((t.v a).lane k)) 0x80000000) ∧
      (∃ y : VVal, exec (.vscanMinu d a m) s = .next (s.retire (t.writeMsk d m y)).tick ∧
        ∀ l, l < t.width → (t.active m).getLsbD l → y.lane l =
          ((t.lanesOf (t.active m)).filter (· ≤ l)).foldl (fun (x : Wd) k => (fun x y : Wd => if y.toNat < x.toNat then y else x) x ((t.v a).lane k)) 0xFFFFFFFF) ∧
      (∃ y : VVal, exec (.vscanMaxu d a m) s = .next (s.retire (t.writeMsk d m y)).tick ∧
        ∀ l, l < t.width → (t.active m).getLsbD l → y.lane l =
          ((t.lanesOf (t.active m)).filter (· ≤ l)).foldl (fun (x : Wd) k => (fun x y : Wd => if x.toNat < y.toNat then y else x) x ((t.v a).lane k)) 0) ∧
      (∃ y : VVal, exec (.vscanAnd d a m) s = .next (s.retire (t.writeMsk d m y)).tick ∧
        ∀ l, l < t.width → (t.active m).getLsbD l → y.lane l =
          ((t.lanesOf (t.active m)).filter (· ≤ l)).foldl (fun (x : Wd) k => (fun x y : Wd => x &&& y) x ((t.v a).lane k)) 0xFFFFFFFF) ∧
      (∃ y : VVal, exec (.vscanOr d a m) s = .next (s.retire (t.writeMsk d m y)).tick ∧
        ∀ l, l < t.width → (t.active m).getLsbD l → y.lane l =
          ((t.lanesOf (t.active m)).filter (· ≤ l)).foldl (fun (x : Wd) k => (fun x y : Wd => x ||| y) x ((t.v a).lane k)) 0) ∧
      (∃ y : VVal, exec (.vscanXor d a m) s = .next (s.retire (t.writeMsk d m y)).tick ∧
        ∀ l, l < t.width → (t.active m).getLsbD l → y.lane l =
          ((t.lanesOf (t.active m)).filter (· ≤ l)).foldl (fun (x : Wd) k => (fun x y : Wd => x ^^^ y) x ((t.v a).lane k)) 0)) ∧
    (t.noTrap → s.rel.shadow = [] → ∀ ls : List Nat, ls = t.lanesOf (t.active m) →
      (mskNoZ m = true → Ready s t 1 [.s ds, .v a] →
        (∃ fl : Nat, t.StepFlags 0 a ls fl ∧
          exec (.vredAddF32 ds a m) s = .next (s.retire ((t.raise fl).setS ds
            ((if ls = [] then 0x80000000 else (BitVec.ofNat 32 (t.fAcc 0 a ls ls.length)) : Wd).setWidth 64))).tick) ∧
        (∃ fl : Nat, t.StepFlags 1 a ls fl ∧
          exec (.vredMinF32 ds a m) s = .next (s.retire ((t.raise fl).setS ds
            ((if ls = [] then 0x7F800000 else (BitVec.ofNat 32 (t.fAcc 1 a ls ls.length)) : Wd).setWidth 64))).tick) ∧
        (∃ fl : Nat, t.StepFlags 2 a ls fl ∧
          exec (.vredMaxF32 ds a m) s = .next (s.retire ((t.raise fl).setS ds
            ((if ls = [] then 0xFF800000 else (BitVec.ofNat 32 (t.fAcc 2 a ls ls.length)) : Wd).setWidth 64))).tick)) ∧
      (Ready s t 1 [.v a, .v d] →
        (∃ (y : VVal) (fl : Nat), t.StepFlags 0 a ls fl ∧
          exec (.vscanAddF32 d a m) s = .next (s.retire ((t.raise fl).writeMsk d m y)).tick ∧
          ∀ n, n < ls.length → y.lane (ls.getD n 0) = BitVec.ofNat 32 (t.fAcc 0 a ls (n + 1))) ∧
        (∃ (y : VVal) (fl : Nat), t.StepFlags 1 a ls fl ∧
          exec (.vscanMinF32 d a m) s = .next (s.retire ((t.raise fl).writeMsk d m y)).tick ∧
          ∀ n, n < ls.length → y.lane (ls.getD n 0) = BitVec.ofNat 32 (t.fAcc 1 a ls (n + 1))) ∧
        (∃ (y : VVal) (fl : Nat), t.StepFlags 2 a ls fl ∧
          exec (.vscanMaxF32 d a m) s = .next (s.retire ((t.raise fl).writeMsk d m y)).tick ∧
          ∀ n, n < ls.length → y.lane (ls.getD n 0) = BitVec.ofNat 32 (t.fAcc 2 a ls (n + 1)))))

/-- Where a lane access goes in spaces L, C, K and H, and what resolving addresses leaves alone (R97, R99, R100, R107, R108, R492, 03_memory_spaces.md). -/
def Obligations.AddressesAndTranslation : Prop :=
  ∀ (s : State) (t : Team) (base : SReg) (o : AccOpt) (l : Nat) (va : Dw) (off : Nat), off = va.toNat % 2 ^ 32 →
    (∀ sp : Space, (o.badSize = true ∨ (o.align = true ∨ sp ≠ .G) ∧ va.toNat % o.size ≠ 0) →
      s.resolve t sp base o l va = (s, .inl (mkF .alignment .none (if sp = .L then off else va.toNat) o.size))) ∧
    (o.badSize = false → va.toNat % o.size = 0 →
      s.resolve t .C base o l va = (if va.toNat + o.size ≤ (s.groupOf t).cSize
        then (s, .inr [localPiece (homeC (s.groupOf t).slot va.toNat) o.size])
        else (s, .inl (mkF .spaceBounds .none va.toNat 1))) ∧
      s.resolve t .K base o l va = (if va.toNat + o.size ≤ (s.groupOf t).kSize
        then (s, .inr [localPiece (homeK (clusterOf (s.groupOf t).core) ((s.groupOf t).kBase + va.toNat)) o.size])
        else (s, .inl (mkF .spaceBounds .none va.toNat 2))) ∧
      s.resolve t .H base o l va = (if va.toNat + o.size ≤ 2 ^ 29 ∧ s.inH (s.groupOf t).ctx va.toNat = true ∧
          s.inH (s.groupOf t).ctx (va.toNat + o.size - 1) = true
        then (s, .inr [localPiece (homeH va.toNat) o.size]) else (s, .inl (mkF .spaceBounds .none va.toNat 3))) ∧
      (∀ D : Nat → Nat, D = (fun y => ((s.groupOf t).sSize + 2 ^ 32 - y % 2 ^ 32) % 2 ^ 32) →
        ((base = 60 ∨ base = 62) → D t.regs.slim.toNat < D off →
          s.resolve t .L base o l va = (s, .inl (mkF .stackLimit .none off t.regs.slim.toNat))) ∧
        ((base ≠ 60 ∧ base ≠ 62 ∨ D off ≤ D t.regs.slim.toNat) →
          (t.ovLen ≠ 0 → 2 ^ 32 - t.ovLen ≤ off → s.resolve t .L base o l va =
            s.xlateAcc t o true (t.ovBase + (t.index * t.width + l) * t.ovLen + (off - (2 ^ 32 - t.ovLen)))) ∧
          ((t.ovLen = 0 ∨ off < 2 ^ 32 - t.ovLen) → s.resolve t .L base o l va =
            (if off + o.size ≤ (s.groupOf t).sSize then (s, .inr [localPiece (homeL t.key l off) o.size])
             else (s, .inl (mkF .spaceBounds .none off 0))))))) ∧
    (o.badSize = false → (o.align = false ∨ va.toNat % o.size = 0) →
      s.resolve t .G base o l va = s.xlateAcc t o false va.toNat) ∧
    (∀ (sp : Space) (ls : List (Nat × Dw)) (s1 : State) (r : FaultInfo ⊕ List Unit1),
      s.resolveAll t sp base o ls = (s1, r) →
      s1.mem = s.mem ∧ s1.teams = s.teams ∧ s1.groups = s.groups ∧ s1.acc = s.acc ∧ s1.svc = s.svc ∧ s1.pfs = s.pfs)

/-- LD and LD.ACQ on vectors issue, and change no byte of memory but A bits of leaf entries (R302, R303, R307, R132, R223).
That bytes are read when the load issues is the model's reading, notes/assumptions/7.md. -/
def Obligations.VectorLoads : Prop :=
  ∀ (s s1 : State) (t : Team) (y : Bool) (z sc : BitVec 3) (d : VReg) (a : VAddr) (m : Option Msk) (us : List Unit1),
    s.Inv → z.toNat ≤ 6 → (z = 5 → evenV d = true ∧ t.has [d + 1]) → scopeOk sc = true → t.has [d, a.x] →
    Ready s t 2 ([Dest.s a.base, .v a.x] ++ ldDests z d) →
    (t.lanesOf (t.active m) = [] →
      exec (.ld y z d a m) s = .next (s.retire t).tick ∧ exec (.ldAcq z sc d a m) s = .next (s.retire t).tick) ∧
    (t.lanesOf (t.active m) ≠ [] → t.countFull true = false → s.earlier t.key false us = [] →
      (∀ ls : List Nat, ls.Sublist (reqLines us) → (s.askSlots (s.groupOf t).core ls).isSome = true) →
      (s.resolveAll t a.sp a.base (ldOpt z none) ((t.ldWho z a m).map (fun l => (l, t.vAddr a l))) = (s1, .inr us) →
        ∃ (s' : State), exec (.ld y z d a m) s = .next s' ∧ Begun s s' t true (ldDests z d) ∧ SameBytes s s' us false ∧
          (a.sp ≠ .G → t.ovLen = 0 → ∃ x : Access, s'.acc.getLast? = some x ∧ Delivers x t z d m (s.loadBytes t z a m))) ∧
      (s.resolveAll t a.sp a.base (ldOpt z (some sc)) ((t.ldWho z a m).map (fun l => (l, t.vAddr a l))) = (s1, .inr us) →
        ∃ (s' : State), exec (.ldAcq z sc d a m) s = .next s' ∧ Begun s s' t true (ldDests z d) ∧ SameBytes s s' us false ∧
          (a.sp ≠ .G → t.ovLen = 0 → ∃ x : Access, s'.acc.getLast? = some x ∧ Delivers x t z d m (s.loadBytes t z a m)))) ∧
    (∀ b0 b1 b2 b3 : Byte, extLoad 0 [b0] = b0.setWidth 32 ∧ extLoad 1 [b0] = b0.signExtend 32 ∧
      extLoad 2 [b0, b1] = (b1 ++ b0).setWidth 32 ∧ extLoad 3 [b0, b1] = (b1 ++ b0).signExtend 32 ∧
      extLoad 4 [b0, b1, b2, b3] = b3 ++ b2 ++ b1 ++ b0 ∧ extLoad 6 [b0, b1, b2, b3] = b3 ++ b2 ++ b1 ++ b0)

/-- LD and LD.ACQ in scalar form issue; from space C the register will hold the bytes at the offset (R309, R307, R132).
That bytes are read when the load issues is the model's reading, notes/assumptions/7.md. -/
def Obligations.ScalarLoads : Prop :=
  ∀ (s s1 : State) (t : Team) (z sc : BitVec 3) (d : SReg) (a : SAddr) (us : List Unit1),
    s.Inv → z.toNat ≤ 6 → scopeOk sc = true → Ready s t 2 ((saRegs a ++ [d]).map Dest.s) → t.countFull true = false →
    s.earlier t.key false us = [] → (∀ ls : List Nat, ls.Sublist (reqLines us) → (s.askSlots (s.groupOf t).core ls).isSome = true) →
    (s.resolveAll t a.sp a.base (ldsOpt z none) [(0, t.sAddr a (ldSizeS z))] = (s1, .inr us) →
      ∃ (s' : State), exec (.ldScalar z d a) s = .next s' ∧ Begun s s' t true [.s d] ∧ SameBytes s s' us false ∧
        (a.sp = .C → ∃ x : Access, s'.acc.getLast? = some x ∧ (t.finish x).regs =
          (t.setS d (extScalar z (Mem.readN s.mem (homeC (s.groupOf t).slot (t.sAddr a (ldSizeS z)).toNat) (ldSizeS z)))).regs)) ∧
    (s.resolveAll t a.sp a.base (ldsOpt z (some sc)) [(0, t.sAddr a (ldSizeS z))] = (s1, .inr us) →
      ∃ (s' : State), exec (.ldScalarAcq z sc d a) s = .next s' ∧ Begun s s' t true [.s d] ∧ SameBytes s s' us false)

/-- ST and ST.REL on vectors store each lane's bytes at its address and change no other byte (R304, R303, R133, R164).
That bytes are stored when the store issues is the model's reading, notes/assumptions/7.md. -/
def Obligations.VectorStores : Prop :=
  ∀ (s s1 : State) (t : Team) (n : Bool) (z sc : BitVec 3) (d : VReg) (a : VAddr) (m : Option Msk) (us : List Unit1),
    s.Inv → z.toNat ≤ 4 → mskNoZ m = true → (z = 3 → evenV d = true ∧ t.has [d + 1]) → scopeOk sc = true → t.has [d, a.x] →
    Ready s t 2 ([Dest.s a.base, .v a.x, .v d] ++ (if z = 3 then [.v (d + 1)] else [])) →
    (t.lanesOf (t.active m) = [] → ∃ (s' : State), exec (.st n z a d m) s = .next s' ∧ exec (.stRel z sc a d m) s = .next s' ∧
      s'.mem = s.mem) ∧
    (t.lanesOf (t.active m) ≠ [] → t.countFull false = false →
      (s.askSlots (s.groupOf t).core (reqLines us)).isSome = true →
      (s.earlier t.key false us = [] → s.resolveAll t a.sp a.base (stOpt z none) ((t.stWho z m).map (fun l => (l, t.vAddr a l))) = (s1, .inr us) →
        ∃ (s' : State), exec (.st n z a d m) s = .next s' ∧ Begun s s' t false [] ∧ SameBytes s s' us true ∧
          (z ≠ 4 → ∀ u ∈ us, ∀ p, u.ps = [p] → p.ap = 0 →
            (∀ v ∈ us, v ≠ u → ∀ q ∈ v.ps, q.ap = 0 → q.addr + q.n ≤ p.addr ∨ p.addr + p.n ≤ q.addr) →
            Mem.readN s'.mem p.addr (stSize z) = t.storeBytes z d u.lane)) ∧
      (s.settled t.key = true →
        s.resolveAll t a.sp a.base (stOpt z (some sc)) ((t.stWho z m).map (fun l => (l, t.vAddr a l))) = (s1, .inr us) →
        ∃ (s' : State), exec (.stRel z sc a d m) s = .next s' ∧ Begun s s' t false [] ∧ SameBytes s s' us true ∧
          (z ≠ 4 → ∀ u ∈ us, ∀ p, u.ps = [p] → p.ap = 0 →
            (∀ v ∈ us, v ≠ u → ∀ q ∈ v.ps, q.ap = 0 → q.addr + q.n ≤ p.addr ∨ p.addr + p.n ≤ q.addr) →
            Mem.readN s'.mem p.addr (stSize z) = t.storeBytes z d u.lane)))

/-- ST and ST.REL in scalar form store the low bytes of s(D) at the address and change no other byte (R309, R134, R164).
That bytes are stored when the store issues is the model's reading, notes/assumptions/7.md. -/
def Obligations.ScalarStores : Prop :=
  ∀ (s s1 : State) (t : Team) (z sc : BitVec 3) (d : SReg) (a : SAddr) (u : Unit1) (p : Piece),
    s.Inv → z.toNat ≤ 3 → scopeOk sc = true → Ready s t 2 ((saRegs a ++ [d]).map Dest.s) → t.countFull false = false →
    (s.askSlots (s.groupOf t).core (reqLines [u])).isSome = true → u.ps = [p] → p.ap = 0 →
    (s.earlier t.key false [u] = [] → s.resolveAll t a.sp a.base (stsOpt z none) [(0, t.sAddr a (stSize z))] = (s1, .inr [u]) →
      (a.sp = .C → p.addr = homeC (s.groupOf t).slot (t.sAddr a (stSize z)).toNat) ∧
      ∃ (s' : State), exec (.stScalar z a d) s = .next s' ∧ Begun s s' t false [] ∧ SameBytes s s' [u] true ∧
        Mem.readN s'.mem p.addr (stSize z) = leBytes (stSize z) (t.s d).toNat) ∧
    (s.settled t.key = true →
      s.resolveAll t a.sp a.base (stsOpt z (some sc)) [(0, t.sAddr a (stSize z))] = (s1, .inr [u]) →
      ∃ (s' : State), exec (.stScalarRel z sc a d) s = .next s' ∧ Begun s s' t false [] ∧ SameBytes s s' [u] true ∧
        Mem.readN s'.mem p.addr (stSize z) = leBytes (stSize z) (t.s d).toNat)

/-- PF and PF.SPEC retire, and change no memory, team or access (R305, R117, R311). -/
def Obligations.Prefetches : Prop :=
  ∀ (s : State) (t : Team) (a : VAddr) (m : Option Msk), mskNoZ m = true → t.has [a.x] →
    Ready s t 2 [Dest.s a.base, .v a.x] →
    (a.sp ≠ .G → exec (.pf a m) s = .next (s.retire t).tick ∧ exec (.pfSpec a m) s = .next (s.retire t).tick) ∧
    (∃ (s1 : State), (exec (.pf a m) s = .next (s1.retire t).tick ∨
        ∃ p, exec (.pf a m) s = .next (s1.retireWait t (.fabric p)).tick ∧ ∃ b ∈ s1.batches, b.team = some t.key) ∧
      SameMem s s1 ∧ s1.teams = s.teams ∧ s1.acc = s.acc) ∧
    (∃ (s1 : State), (exec (.pfSpec a m) s = .next (s1.retire t).tick ∨
        ∃ p, exec (.pfSpec a m) s = .next (s1.retireWait t (.fabric p)).tick ∧ ∃ b ∈ s1.batches, b.team = some t.key) ∧
      SameMem s s1 ∧ s1.teams = s.teams ∧ s1.acc = s.acc)

/-- The ten atomics issue; what the read-modify-write leaves at its location; determinism mode buffers (R313, R315, R316, R318, R319, R320).
When an atomic translates and is performed is the model's reading, notes/assumptions/7.md and 92.md. -/
def Obligations.Atomics : Prop :=
  ∀ (s s1 : State) (t : Team) (op : Nat) (x : Atom) (us : List Unit1), s.Inv →
    (∀ (h e c : Nat) (ty : BitVec 3),
      (s.atomAt h op ty e c).2 = leNat (Mem.readN s.mem h (atomSize ty)) ∧
      Mem.readN (s.atomAt h op ty e c).1.mem h (atomSize ty) = leBytes (atomSize ty)
        ((atomNew op ty (leNat (Mem.readN s.mem h (atomSize ty))) e c).getD (leNat (Mem.readN s.mem h (atomSize ty)))) ∧
      ∀ b, (b < h ∨ h + atomSize ty ≤ b) → Mem.read (s.atomAt h op ty e c).1.mem b = Mem.read s.mem b) ∧
    (op < 10 → (atomInfo op x).bad = none → t.has ((atomInfo op x).vr ++ (atomInfo op x).vw) →
      Ready s t 2 (atomInfo op x).dests →
      (t.atomWho x = [] → exec (atomInstr op x) s = .next ((s.effect t).retire t).tick) ∧
      (t.atomWho x ≠ [] → s.detBad t op x = true →
        exec (atomInstr op x) s = .next (s.park t (mkF .illegalEncoding .returnInDeterminism 0 0)).tick) ∧
      (t.atomWho x ≠ [] → s.resolveAll t (atomSp x) (atomBase x) (atomOpt op x) (t.atomWho x) = (s1, .inr us) →
        (x.ann.toNat < 2 ∨ s.settled t.key = true) → t.countFull x.ret = false → s.earlier t.key true us = [] →
        ((s.ctx (s.ctxOf t)).detm = false ∨ (atomFmt x.ty).isSome = false ∨ 2 ≤ op →
          (s.askSlots (s.groupOf t).core (reqLines us)).isSome = true →
          ∃ (s' : State), exec (atomInstr op x) s = .next s' ∧ Begun s s' t x.ret (atomDests x) ∧ SameBytes s s' us true ∧
            (∀ d a e, x.o = .sca d a e → a.sp = .C → ∀ h, h = homeC (s.groupOf t).slot (t.sAddr a (atomSize x.ty)).toNat →
              s.poisoned h (atomSize x.ty) = false →
              Mem.readN s'.mem h (atomSize x.ty) = leBytes (atomSize x.ty)
                ((atomNew op x.ty (leNat (Mem.readN s.mem h (atomSize x.ty))) (t.atomRegS x.ty e)
                  (if x.ret then t.atomRegS x.ty d else 0)).getD (leNat (Mem.readN s.mem h (atomSize x.ty)))))) ∧
        ((s.ctx (s.ctxOf t)).detm = true → (atomFmt x.ty).isSome = true → op < 2 → x.ret = false →
          us.length ≤ s.detRoom (s.ctxOf t) →
          ∃ (s' : State) (u : Team), exec (atomInstr op x) s = .next s' ∧ Begun s s' t false [] ∧ SameBytes s s' us false ∧
            s'.det.length = s.det.length + us.length ∧
            s'.team t.key = some u ∧ u.detSeq = t.detSeq + us.length)))

/-- BAR.G, BAR.C and BAR.L count the team as arrived and wait for the phase (R328, R329, R438).
That members' later accesses are held back, not the arrival, is the model's reading, notes/assumptions/45.md. -/
def Obligations.Barriers : Prop :=
  ∀ (s : State) (t : Team) (i : BitVec 4) (j : BitVec 3) (k : BitVec 2), Ready s t 5 [] →
    (((s.groupOf t).member i.toNat t.role = true →
        exec (.barG i) s = .next (s.arrive t (.group t.gslot i.toNat)).tick) ∧
      ((s.groupOf t).member i.toNat t.role = false →
        exec (.barG i) s = .next (s.park t (mkF .illegalEncoding .notABarrierMember 0 0)).tick)) ∧
    exec (.barC j) s = .next (s.arrive t (.cluster (s.groupOf t).origin.num (clusterOf (s.groupOf t).core) j.toNat)).tick ∧
    exec (.barL k) s = .next (s.arrive t (.launch (s.groupOf t).origin.num k.toNat)).tick ∧
    (∀ key, (∃ v, (s.retire t).team t.key = some v ∧ (s.arrive t key).team t.key = some { v with st := .wait (.barrier key) }) ∧
      (s.arrive t key).mem = s.mem ∧ (s.arrive t key).cur = none ∧
      ((s.arrive t key).barrier key).arrived = (s.barrier key).arrived ++ [t.tid] ∧
      (∀ x ∈ s.acc, x.team = t.key → x.away = true → x.id ∈ ((s.arrive t key).barrier key).before) ∧
      ((s.arrive t key).barrier key).start =
        (if (s.barrier key).arrived = [] then some s.clk else (s.barrier key).start))

/-- FENCE, WAIT, TLWAIT and WAITA complete when their conditions hold, and deschedule until then (R322, R323, R324, R325, R326, R112, R151, R152).
What makes a host write visible, and so when TLWAIT at SYSTEM goes on, is the model's reading, notes/assumptions/98.md. -/
def Obligations.FencesAndWaits : Prop :=
  ∀ (s s1 : State) (t : Team) (n : SReg) (k : BitVec 2) (sc p : BitVec 3) (w : BitVec 4 × BitVec 4 × BitVec 4 × BitVec 4)
      (c : BitVec 2) (q : Piece) (r : List Piece),
    (Ready s t 5 [] → scopeOk sc = true →
      (k ≠ 0 → s.afterBar t ≠ [] → exec (.fence k sc) s = .next (s.deschedule t (.accs (s.afterBar t))).tick) ∧
      ((k = 0 ∨ s.afterBar t = []) → t.cnt.meets 0 (if k = 0 then 15 else 0) 15 15 = true → exec (.fence k sc) s =
        .next ((if k ≠ 1 ∧ 2 ≤ sc.toNat then s.invL1 (s.groupOf t).core else s).retire t).tick) ∧
      ((k = 0 ∨ s.afterBar t = []) → t.cnt.meets 0 (if k = 0 then 15 else 0) 15 15 = false → exec (.fence k sc) s =
        .next (s.deschedule t (.thr 0 (if k = 0 then 15 else 0) 15 15)).tick)) ∧
    (∀ core, ((s.invL1 core).core core).l1 = [] ∧ (s.invL1 core).mem = s.mem ∧ (s.invL1 core).teams = s.teams) ∧
    (Ready s t 5 [] →
      (t.cnt.meets w.1.toNat w.2.1.toNat w.2.2.1.toNat w.2.2.2.toNat = true →
        exec (.wait w.1 w.2.1 w.2.2.1 w.2.2.2) s = .next (s.retire t).tick) ∧
      (t.cnt.meets w.1.toNat w.2.1.toNat w.2.2.1.toNat w.2.2.2.toNat = false →
        exec (.wait w.1 w.2.1 w.2.2.1 w.2.2.2) s =
          .next (s.deschedule t (.thr w.1.toNat w.2.1.toNat w.2.2.1.toNat w.2.2.2.toNat)).tick)) ∧
    (Ready s t 5 [.s n] → scopeOk sc = true →
      ((t.s n).toNat ≤ (t.tl.get c.toNat).issued → (t.s n).toNat ≤ (t.tl.get c.toNat).count →
        ((sc = 5 → s.hostOut.length ≤ s.hostSeen) →
          exec (.tlwait n 0 false c sc) s = .next ((s.invL1 (s.groupOf t).core).retire t).tick) ∧
        (sc = 5 → s.hostSeen < s.hostOut.length →
          exec (.tlwait n 0 false c sc) s = .next (s.deschedule t (.flush s.hostOut.length)).tick)) ∧
      ((t.s n).toNat ≤ (t.tl.get c.toNat).issued → (t.tl.get c.toNat).count < (t.s n).toNat →
        exec (.tlwait n 0 false c sc) s = .next (s.deschedule t (.tl t.key c.toNat (t.s n).toNat)).tick) ∧
      ((t.tl.get c.toNat).issued < (t.s n).toNat →
        exec (.tlwait n 0 false c sc) s = .next (s.park t (mkF .illegalEncoding .timelineBeyondIssue 0 0)).tick) ∧
      (∀ x : BitVec 4,
        (x.toNat < (s.groupOf t).stageMap.length → (t.s n).toNat ≤ s.tlCount (t.gslot * 16 + x.toNat) c.toNat →
          (sc = 5 → s.hostOut.length ≤ s.hostSeen) →
          exec (.tlwait n x true c sc) s = .next ((s.invL1 (s.groupOf t).core).retire t).tick) ∧
        (x.toNat < (s.groupOf t).stageMap.length → s.tlCount (t.gslot * 16 + x.toNat) c.toNat < (t.s n).toNat →
          exec (.tlwait n x true c sc) s =
            .next (s.deschedule t (.tl (t.gslot * 16 + x.toNat) c.toNat (t.s n).toNat)).tick) ∧
        ((s.groupOf t).stageMap.length ≤ x.toNat →
          exec (.tlwait n x true c sc) s = .next (s.park t (mkF .illegalEncoding .teamBeyondGroup 0 0)).tick))) ∧
    (Ready s t 5 [.s n] → spaceBad p = none →
      (∀ f, s.resolve t (spaceOf p) n { k := .load, size := 8, align := true } 0 (t.s n) = (s1, .inl f) →
        exec (.waita n p) s = .next (s1.park t f).tick) ∧
      (s.resolve t (spaceOf p) n { k := .load, size := 8, align := true } 0 (t.s n) = (s1, .inr (q :: r)) →
        (t.monitor = some (q.word, true) → ∃ (s2 : State),
          exec (.waita n p) s = .next (s2.retire { t with monitor := none }).tick ∧
          s2.teams.map (fun u => (u.key, u.regs)) = s.teams.map (fun u => (u.key, u.regs)) ∧
          SameBytes s s2 [{ lane := 0, va := t.s n, ps := q :: r }] false) ∧
        (t.monitor ≠ some (q.word, true) → ∃ (s2 : State),
          exec (.waita n p) s = .next (s2.deschedule { t with monitor := none } q.wait).tick ∧
          s2.teams.map (fun u => (u.key, u.regs)) = s.teams.map (fun u => (u.key, u.regs)) ∧
          SameBytes s s2 [{ lane := 0, va := t.s n, ps := q :: r }] false)))

/-- RDENTER, RDEXIT, WROUND, DFREE and ALWRD: depth, turns, rounds, entries, allowance (R331, R332, R333, R335, R312). -/
def Obligations.ReadSectionsAndRounds : Prop :=
  ∀ (s : State) (t : Team) (d a b : SReg) (c : BitVec 4) (sc : BitVec 3),
    (Ready s t 5 [] →
      (t.rdDepth = 255 → exec .rdenter s = .next (s.park t (mkF .illegalEncoding .readDepth 0 0)).tick) ∧
      (t.rdDepth ≠ 255 → ∃ (s1 : State), exec .rdenter s = .next (s1.retire { t with rdDepth := t.rdDepth + 1 }).tick ∧
        s1.mem = s.mem ∧ s1.teams = s.teams ∧ (t.rdDepth = 0 → (s1.core (s.groupOf t).core).l1 = [])) ∧
      (t.rdDepth = 0 → exec .rdexit s = .next (s.park t (mkF .illegalEncoding .readDepth 0 0)).tick) ∧
      (1 < t.rdDepth → exec .rdexit s = .next (s.retire { t with rdDepth := t.rdDepth - 1 }).tick) ∧
      (t.rdDepth = 1 → s.readsOpen t.key = false → exec .rdexit s =
        .next (State.retire { s with rounds := s.rounds.map (fun (r : Round) => r.without t.key) } { t with rdDepth := 0 }).tick) ∧
      (t.rdDepth = 1 → s.readsOpen t.key = true → exec .rdexit s = .next (s.deschedule t .cond).tick)) ∧
    (Ready s t 5 [] → (sc = 3 ∨ sc = 4) →
      (t.rdDepth ≠ 0 → exec (.wround sc) s = .next (s.park t (mkF .illegalEncoding .roundInsideReadSection 0 0)).tick) ∧
      (t.rdDepth = 0 → s.settled t.key = false → exec (.wround sc) s = .next (s.deschedule t .stores).tick) ∧
      (t.rdDepth = 0 → s.settled t.key = true →
        ∃ (s1 : State), exec (.wround sc) s = .next (s1.deschedule t (.round s.uid)).tick ∧ s1.teams = s.teams ∧ s1.mem = s.mem ∧
          s1.rounds = s.rounds ++ [{ id := s.uid, ctx := s.ctxOf t, team := some t.key, scope := sc.toNat,
                                     set := s.readers (s.ctxOf t), at_ := s.clk,
                                     far := if sc = 4 then s.joinedModules (s.ctxOf t) else [] }] ∧
          ∀ e ∈ s1.dfl, e.ctx = s.ctxOf t → e.queued = true → e.released = false → e.round.isSome)) ∧
    (Ready s t 5 [.s a, .s b] →
      (canonical (t.s a) = false →
        exec (.dfree a b c) s = .next (s.park t (mkF .spaceBounds .nonCanonical (t.s a).toNat 4)).tick) ∧
      (canonical (t.s a) = true → 65536 ≤ s.dflCount (s.ctxOf t) → exec (.dfree a b c) s = .next (s.deschedule t .cond).tick) ∧
      (canonical (t.s a) = true → s.dflCount (s.ctxOf t) < 65536 →
        ∃ (s1 : State) (e : DEntry), exec (.dfree a b c) s = .next (s1.retire t).tick ∧ s1.teams = s.teams ∧ s1.mem = s.mem ∧
          s1.dfl = s.dfl ++ [e] ∧ e.addr = t.s a ∧ e.size = t.s b ∧ e.cls = c.toNat ∧ e.ctx = s.ctxOf t ∧
          e.waits = s.openWrites t.key ∧ e.queued = false ∧ e.round = none ∧ e.released = false)) ∧
    (Ready s t 5 [.s a, .s d] → exec (.alwrd d a) s =
      .next (s.retire (t.setS d (BitVec.ofNat 64 (s.allowRead t (t.s a).toNat)))).tick)

/-- CPY, CPY2D, CPYG, TFETCH.C and COLL issue numbered operations with the segments of their rows (R357, R358, R359, R360, R362, R367, R368).
When a collective checks its SRC and DST is the model's choice, notes/assumptions/57.md. -/
def Obligations.CopiesAndCollectives : Prop :=
  ∀ (s s1 s2 : State) (t : Team) (d : SReg) (p r : BitVec 3) (nt : Bool) (v : VReg), t.cnt.cp ≠ 0xFFFF →
    (Ready s t 4 ((sgroup d 3).map .s) → sgroupOk d 3 = true → spaceBad p = none → spaceBad r = none →
      (t.s (d + 2)).toNat ≤ 2 ^ 36 →
      s.runsFault (s.groupOf t) [(none, r, (t.s (d + 1)).toNat, (t.s (d + 2)).toNat),
        (none, p, (t.s d).toNat, (t.s (d + 2)).toNat)] = none →
      ∀ rs : List (Nat × Nat × Nat),
      rs = (if (t.s (d + 2)).toNat = 0 then [] else [((t.s (d + 1)).toNat, (t.s d).toNat, (t.s (d + 2)).toNat)]) →
      ∃ (s' : State), exec (.cpy d p r nt) s = .next s' ∧ OpBegun s s' t { cls := 0, minor := 0, segs := mkSegs r p rs }) ∧
    (Ready s t 4 ((sgroup d 4).map .s) → sgroupOk d 4 = true → spaceBad p = none → spaceBad r = none →
      ∀ (rows rb : Nat) (rs : List (Nat × Nat × Nat)), rows = fld (t.s (d + 2)) 63 32 → rb = fld (t.s (d + 2)) 31 0 →
      rows * rb ≤ 2 ^ 36 →
      rs = (List.range (if rb = 0 then 0 else rows)).map (fun i => (((t.s (d + 1)).toNat + i * fld (t.s (d + 3)) 63 32) % 2 ^ 64,
        ((t.s d).toNat + i * fld (t.s (d + 3)) 31 0) % 2 ^ 64, rb)) →
      s.runsFault (s.groupOf t) (rs.flatMap (fun x => [(none, r, x.1, x.2.2), (none, p, x.2.1, x.2.2)])) = none →
      ∃ (s' : State), exec (.cpy2d d p r nt) s = .next s' ∧ OpBegun s s' t { cls := 0, minor := 1, segs := mkSegs r p rs }) ∧
    (Ready s t 4 ((sgroup d 3).map .s ++ [.v v]) → sgroupOk d 3 = true → spaceBad p = none → spaceBad r = none → t.has [v] →
      ∀ (z : Nat) (src dst : Nat → Nat), z = (t.s (d + 2)).toNat → (t.lanesOf t.regs.exec = [] ∨ z ∈ [4, 8, 16, 32, 64, 128]) →
      src = (fun l => (t.s (d + 1) + ((t.v v).lane l).setWidth 64).toNat) →
      dst = (fun l => (t.s d + BitVec.ofNat 64 (l * z)).toNat) →
      (∀ l ∈ t.lanesOf t.regs.exec, src l % z = 0 ∧ dst l % z = 0) →
      s.runsFault (s.groupOf t) ((t.lanesOf t.regs.exec).flatMap (fun l => [(some l, r, src l, z), (some l, p, dst l, z)])) = none →
      ∀ rs : List (Nat × Nat × Nat), rs = (t.lanesOf t.regs.exec).map (fun l => (src l, dst l, z)) →
      ∃ (s' : State), exec (.cpyg d p r v) s = .next s' ∧ OpBegun s s' t { cls := 2, minor := 2, segs := mkSegs r p rs }) ∧
    (Ready s t 4 ((sgroup d 4).map .s) → sgroupOk d 4 = true →
      ∀ rs : List (Nat × Nat), tfetchRows (t.s (d + 1)) (t.s (d + 2)) (t.s (d + 3)) = .inr rs →
      s.runsFault (s.groupOf t) (((enum rs).map (fun x => (x.2.1, ((t.s d).toNat + x.1 * fld (t.s (d + 3)) 31 0) % 2 ^ 64,
        x.2.2))).flatMap (fun x => [(none, 4, x.1, x.2.2), (none, 1, x.2.1, x.2.2)])) = none →
      ∃ (s' : State), exec (.tfetchC d) s = .next s' ∧ OpBegun s s' t { cls := 2, minor := 6, segs := (enum rs).map (fun (x : Nat × Nat × Nat) =>
        ({ no := x.1, ssp := 4, src := BitVec.ofNat 64 x.2.1, dsp := 1,
           dst := BitVec.ofNat 64 (((t.s d).toNat + x.1 * fld (t.s (d + 3)) 31 0) % 2 ^ 64), len := x.2.2, b := 0, acks := [],
           parked := none } : Seg)) }) ∧
    (Ready s t 4 ((sgroup d 1).map .s) → (t.s d).toNat % 64 = 0 → ∀ (bs mb : List Byte) (ms : List Nat),
      s.vaRead (s.groupOf t).core (s.groupOf t).ctx (t.s d).toNat 64 = (s1, .inr bs) →
      s1.vaRead (s.groupOf t).core (s.groupOf t).ctx ((leDws 8 bs).getD 4 0).toNat 64 = (s2, .inr mb) →
      ms = membersOf (leDws 8 mb) → collBad s.modl.modNo ms (leDws 8 bs) = false →
      s.runsFault (s.groupOf t) [(none, 4, ((leDws 8 bs).getD 1 0).toNat, (collLens (leDws 8 bs) ms.length).1),
        (none, 4, ((leDws 8 bs).getD 2 0).toNat, (collLens (leDws 8 bs) ms.length).2)] = none →
      ∃ (s' : State), exec (.coll d) s = .next s' ∧
        OpBegun s2 s' t (AsyncPlan.mk 3 7 [Seg.mk 0 4 ((leDws 8 bs).getD 1 0) 4 ((leDws 8 bs).getD 2 0)
          (collLens (leDws 8 bs) ms.length).2 0 [] none false none]
          [] none (leDws 8 bs ++ leDws 8 mb) false))

/-- QPUT and TFETCH.Q reserve slots in order, QGET takes the head slots, TLREAD reads a counter (R114, R116, R363, R365, R366, R367). -/
def Obligations.StreamQueues : Prop :=
  ∀ (s : State) (t : Team) (d : SReg) (v : VReg) (r : BitVec 3) (sp o : Bool) (q k : BitVec 4) (c : BitVec 2),
    (t.cnt.cp ≠ 0xFFFF → Ready s t 4 ((sgroup d 2).map .s) → sgroupOk d 2 = true → spaceBad r = none →
      ∀ n, n = (t.s (d + 1)).toNat → 0 < n → n ≤ 64 → (t.s d).toNat % 128 = 0 →
      n ≤ ((s.groupOf t).queue q.toNat).empty → (sp = true ∨ s.runFault (s.groupOf t) r (t.s d).toNat (128 * n) = none) →
      ∃ (s' : State), exec (.qputMemory d r sp q) s = .next s' ∧
        FillBegun s s' t q.toNat 3 sp ((List.range n).map (fun i => (r, (t.s d).toNat + 128 * i, 128)))) ∧
    (t.cnt.cp ≠ 0xFFFF → Ready s t 4 [.v v] → t.has [v] → ((s.groupOf t).queue q.toNat).depth ≠ 0 →
      t.words.length ≤ ((s.groupOf t).queue q.toNat).empty →
      ∃ (s' : State), exec (.qputRegister v q) s = .next s' ∧ OpBegun s s' t { cls := 2, minor := 3 } ∧
        ((s'.groupOf t).queue q.toNat).slots =
          ((s.groupOf t).queue q.toNat).slots ++ t.words.map (fun w => QSlot.full (t.slotLine v w) 0)) ∧
    (∀ w b i, b < 32 → i < 32 → ((t.slotLine v w).getLsbD (32 * b + i) =
      (t.regs.exec.getLsbD (32 * w + b) && ((t.v v).lane (32 * w + b)).getLsbD i))) ∧
    (t.cnt.cp ≠ 0xFFFF → Ready s t 4 ((sgroup d 4).map .s) → sgroupOk d 4 = true → t.s d = 0 → ∀ rs : List (Nat × Nat),
      tfetchRows (t.s (d + 1)) (t.s (d + 2)) (t.s (d + 3)) = .inr rs →
      rs.length ≤ ((s.groupOf t).queue q.toNat).empty →
      (sp = true ∨ s.runsFault (s.groupOf t) (rs.map (fun x => (none, 4, x.1, x.2))) = none) →
      ∃ (s' : State), exec (.tfetchQ d sp q) s = .next s' ∧ FillBegun s s' t q.toNat 6 sp (rs.map (fun x => (4, x.1, x.2)))) ∧
    (Ready s t 4 ((sgroup d 16).map .s) → sgroupOk d 16 = true → ∀ (x : Line) (pf : Nat) (r : List QSlot),
      ((s.groupOf t).queue q.toNat).depth ≠ 0 → ((s.groupOf t).queue q.toNat).slots = .full x pf :: r →
      (∀ b ∈ ((s.groupOf t).queue q.toNat).bad, b.1 ≠ 0) →
      ∃ (s1 : State) (u : Team), exec (.qgetScalar d q) s = .next (s1.retire u).tick ∧ s1.teams = s.teams ∧ s1.mem = s.mem ∧
        ((s1.groupOf t).queue q.toNat).slots = r ∧ u = { t with regs := { t.regs with s := u.regs.s } } ∧
        (∀ i, i < 16 → d + BitVec.ofNat 6 i ≠ 0 → u.s (d + BitVec.ofNat 6 i) = (x >>> (64 * i)).setWidth 64) ∧
        (∀ e, e ∉ sgroup d 16 → u.s e = t.s e)) ∧
    (Ready s t 4 [.v v] → t.has [v] →
      (t.words = [] → exec (.qgetVector v q) s = .next ((s.effect t).retire t).tick) ∧
      (t.allDead = false → ∀ (fs : List (Line × Nat)) (r : List QSlot),
        t.words ≠ [] → fs.length = t.words.length → fs.length ≤ ((s.groupOf t).queue q.toNat).depth →
        ((s.groupOf t).queue q.toNat).slots = fs.map (fun f => QSlot.full f.1 f.2) ++ r →
        (∀ b ∈ ((s.groupOf t).queue q.toNat).bad, fs.length ≤ b.1) →
        ∃ (s1 : State) (y : VVal), exec (.qgetVector v q) s = .next (s1.retire (t.writeV v t.regs.exec y)).tick ∧
          s1.teams = s.teams ∧ s1.mem = s.mem ∧ ((s1.groupOf t).queue q.toNat).slots = r ∧
          ∀ l, l < t.width → t.regs.exec.getLsbD l = true → y.lane l =
            ((fs.getD ((t.words.findIdx? (fun w => w == l / 32)).getD 0) (0, 0)).1 >>> (32 * (l % 32))).setWidth 32)) ∧
    (Ready s t 4 [.s d] →
      exec (.tlread d false c 0) s =
        .next ((s.effect t).retire (t.setS d (BitVec.ofNat 64 (t.tl.get c.toNat).count))).tick ∧
      (k.toNat < (s.groupOf t).stageMap.length → exec (.tlread d true c k) s =
        .next ((s.effect t).retire (t.setS d (BitVec.ofNat 64 (s.tlCount (t.gslot * 16 + k.toNat) c.toNat)))).tick) ∧
      ((s.groupOf t).stageMap.length ≤ k.toNat → exec (.tlread d true c k) s =
        .next (s.park t (mkF .illegalEncoding .teamBeyondGroup 0 0)).tick))

/-- The MMAs, ACCZ, ACCLD, ACCST, ACCMV and ACCOVX at issue: what they hand to the engine, park on and wait for (R337, R339, R340, R346, R347, R348, R353).
For which rows the bounds of an MMA are checked is the model's reading, notes/assumptions/59.md. -/
def Obligations.MatrixInstructions : Prop :=
  ∀ (s : State) (t : Team) (q : SReg) (tl u : TReg) (st a b : Bool) (p1 : BitVec 1) (p2 : BitVec 2),
    (s.groupOf t).core < 192 → tl.toNat < (s.groupOf t).tiles.length →
    (Ready s t 3 ((sgroup q 5).map .s) → sgroupOk q 5 = true → t.cnt.ti ≠ 0xFFFF →
      MmaIssues (.mma128x128 q tl st a b) s t 0 q tl st a b 0 ∧
      MmaIssues (.mma128x64 q tl st a b p1) s t 1 q tl st a b p1.toNat ∧
      MmaIssues (.mma64x128 q tl st a b p1) s t 2 q tl st a b p1.toNat ∧
      MmaIssues (.mma64x64 q tl st a b p2) s t 3 q tl st a b p2.toNat ∧
      MmaIssues (.mma32x128 q tl st a b p2) s t 4 q tl st a b p2.toNat ∧
      MmaIssues (.mma128x32 q tl st a b p2) s t 5 q tl st a b p2.toNat) ∧
    (Ready s t 3 [] →
      (t.cnt.ti = 0xFFFF → exec (.accz tl) s = .next (s.deschedule t (.slot 0)).tick) ∧
      (t.cnt.ti ≠ 0xFFFF → ∃ (s' : State), exec (.accz tl) s = .next s' ∧
        TileBegun s s' t { minor := 8, q := 0, t := tl, src := tl.toNat } ∧ ((s'.groupOf t).tile tl.toNat).valid = true)) ∧
    (Ready s t 3 ((sgroup q 2).map .s) → sgroupOk q 2 = true →
      (∀ f, s.accFault t q a = some f → exec (.accld q tl a) s = .next (s.park t f).tick) ∧
      (s.accFault t q a = none →
        (t.cnt.ti = 0xFFFF → exec (.accld q tl a) s = .next (s.deschedule t (.slot 0)).tick) ∧
        (t.cnt.ti ≠ 0xFFFF → ∃ (s' : State), exec (.accld q tl a) s = .next s' ∧
          TileBegun s s' t { minor := 9, q := q, t := tl, src := tl.toNat, asrc := a, oprs := (sgroup q 2).map t.s } ∧
          ((s'.groupOf t).tile tl.toNat).valid = true) ∧
        (∀ f, s.tileFault t tl.toNat = some f → exec (.accst q tl a) s = .next (s.park t f).tick) ∧
        (s.tileFault t tl.toNat = none → t.cnt.ti ≠ 0xFFFF → ∃ (s' : State), exec (.accst q tl a) s = .next s' ∧
          TileBegun s s' t { minor := 10, q := q, t := tl, src := tl.toNat, asrc := a, oprs := (sgroup q 2).map t.s }))) ∧
    (Ready s t 3 [] → u.toNat < (s.groupOf t).tiles.length →
      (s.tileFault t u.toNat = none → t.cnt.ti ≠ 0xFFFF → ∃ (s' : State), exec (.accmv tl u) s = .next s' ∧
        TileBegun s s' t { minor := 11, q := 0, t := tl, src := u.toNat } ∧ ((s'.groupOf t).tile tl.toNat).valid = true) ∧
      (∀ f, s.tileFault t u.toNat = some f → exec (.accmv tl u) s = .next (s.park t f).tick)) ∧
    (Ready s t 3 [.s q] →
      (s.tops.any (fun o => o.names t.gslot tl.toNat && o.id < t.ovx.getD s.uid) = true →
        exec (.accovx q tl b) s = .next (s.deschedule { t with ovx := some (t.ovx.getD s.uid) } (.tile tl.toNat)).tick) ∧
      (s.tops.any (fun o => o.names t.gslot tl.toNat && o.id < t.ovx.getD s.uid) = false →
        ∃ (s1 : State), exec (.accovx q tl b) s = .next (s1.retire { t.setS q (BitVec.ofNat 64
            (b2n (!((s.groupOf t).tile tl.toNat).valid) * 2 + b2n ((s.groupOf t).tile tl.toNat).ovx)) with ovx := none }).tick ∧
          s1.teams = s.teams ∧ s1.mem = s.mem ∧
          ((s1.groupOf t).tile tl.toNat).ovx = (!b && ((s.groupOf t).tile tl.toNat).ovx)))

/-- TSPAWN puts a record into the Deck, TSPAWN.REL lowers a counter, LPOST posts a launch (R371, R50, R373, R426).
The order of the LPOST answers, and that answer 3 reads no packet, are the model's choice, notes/assumptions/63.md; so is where the extension of ENTRY 0 is read, 96.md. -/
def Obligations.TaskSubmission : Prop :=
  ∀ (s s1 s2 : State) (t : Team) (d a : SReg) (q : BitVec 2), Ready s t 5 [.s a, .s d] →
    (a ≠ 0 → (t.s a).toNat % 64 ≠ 0 → exec (.tspawn d a) s = .next (s.park t (mkF .alignment .none (t.s a).toNat 64)).tick) ∧
    ((t.s a).toNat % 64 ≠ 0 → exec (.lpost d a q) s = .next (s.park t (mkF .alignment .none (t.s a).toNat 64)).tick) ∧
    (s.settled t.key = false →
      (a ≠ 0 → (t.s a).toNat % 64 = 0 → exec (.tspawn d a) s = .next (s.deschedule t .sys).tick) ∧
      (a ≠ 0 → exec (.tspawnRel d a) s = .next (s.deschedule t .sys).tick) ∧
      ((t.s a).toNat % 64 = 0 → exec (.lpost d a q) s = .next (s.deschedule t .sys).tick)) ∧
    (s.settled t.key = true →
    (a ≠ 0 → (t.s a).toNat % 64 = 0 → ∀ bs : List Byte,
      (∀ f, s.vaRead (s.groupOf t).core (s.ctxOf t) (t.s a).toNat 64 = (s1, .inl f) →
        exec (.tspawn d a) s = .next (s1.park t f).tick) ∧
      (s.vaRead (s.groupOf t).core (s.ctxOf t) (t.s a).toNat 64 = (s1, .inr bs) →
        (taskBad (s.ctxOf t) (leDws 8 bs) = true → exec (.tspawn d a) s = .next ((s1.effect t).refuseTask t d 1).tick) ∧
        (taskBad (s.ctxOf t) (leDws 8 bs) = false → taskXd (leDws 8 bs) = false → (s.ctx (s.ctxOf t)).en = true →
          (s.ctx (s.ctxOf t)).rst = 0 → s.deckPlace (dieOf (s.groupOf t).core) (s.ctxOf t) = none →
          exec (.tspawn d a) s = .next ((s1.effect t).refuseTask t d 2).tick))) ∧
    (a ≠ 0 → (t.s a).toNat % 64 = 0 → (s.ctx (s.ctxOf t)).en = true → (s.ctx (s.ctxOf t)).rst = 0 →
      (s.deckPlace (dieOf (s.groupOf t).core) (s.ctxOf t)).isSome = true → ∀ bs : List Byte,
      s.vaRead (s.groupOf t).core (s.ctxOf t) (t.s a).toNat 64 = (s1, .inr bs) → taskBad (s.ctxOf t) (leDws 8 bs) = false →
      (taskXd (leDws 8 bs) = false → ∃ (s' : State) (k : Task) (u : Team), exec (.tspawn d a) s = .next s' ∧ s'.tasks = s.tasks ++ [k] ∧
        k.dws = leDws 8 bs ∧ k.ext = none ∧ s'.team t.key = some u ∧ (d ≠ 0 → u.s d = BitVec.ofNat 64 k.handle)) ∧
      (taskXd (leDws 8 bs) = true → ∀ es : List Byte,
        s1.vaRead (s.groupOf t).core (s.ctxOf t) ((taskEntry (leDws 8 bs) + 2 ^ 52 - 64) % 2 ^ 52) 64 = (s2, .inr es) →
        extBad (fld ((leDws 8 bs).getD 1 0) 54 52 + 1) (leDws 8 es) = false →
        ∃ (s' : State) (k : Task) (u : Team), exec (.tspawn d a) s = .next s' ∧ s'.tasks = s.tasks ++ [k] ∧ k.dws = leDws 8 bs ∧
          k.ext = some (leDws 8 es) ∧ s'.team t.key = some u ∧ (d ≠ 0 → u.s d = BitVec.ofNat 64 k.handle))) ∧
    (a ≠ 0 →
      (s.nodeOf (s.ctxOf t) (t.s a) = none → exec (.tspawnRel d a) s =
        .next (((s.effect t).bump (s.ctxOf t) 0x40 1).refuseTask t d 3).tick) ∧
      (∀ k, s.nodeOf (s.ctxOf t) (t.s a) = some k →
        exec (.tspawnRel d a) s = .next (((s.effect t).lower k).retire (t.setS d 0)).tick)) ∧
    ((t.s a).toNat % 64 = 0 →
      (flag ((s.ctx (s.ctxOf t)).lq.toList.getD q.toNat 0) 63 = false →
        exec (.lpost d a q) s = .next (((s.effect t).bump (s.ctxOf t) 0x44 1).retire (t.setS d 3)).tick) ∧
      (flag ((s.ctx (s.ctxOf t)).lq.toList.getD q.toNat 0) 63 = true → ∀ (hs bs : List Byte) (x : LaunchQ),
        s.vaRead (s.groupOf t).core (s.ctxOf t) (t.s a).toNat 8 = (s1, .inr hs) →
        postHeaderOk (BitVec.ofNat 64 (leNat hs)) = true → postHeaderOk ((leDws 13 bs).getD 0 0) = true →
        s1.vaRead (s.groupOf t).core (s.ctxOf t) (t.s a).toNat 104 = (s2, .inr bs) →
        s.lq (s.ctxOf t) q.toNat = some x → s.launchError (s.ctxOf t) (leDws 13 bs) = none → x.posted.length < 64 →
        ∃ (s' : State) (x' : LaunchQ) (u : Team) (p : List Dw × Origin × List Nat), exec (.lpost d a q) s = .next s' ∧ s'.lq (s.ctxOf t) q.toNat = some x' ∧ x'.posted = x.posted ++ [p] ∧
          p.1 = leDws 13 bs ∧ p.2.1 = (s.groupOf t).origin ∧ s'.team t.key = some u ∧ (d ≠ 0 → u.s d = 0)) ∧
      (flag ((s.ctx (s.ctxOf t)).lq.toList.getD q.toNat 0) 63 = true → ∀ (hs bs : List Byte) (x : LaunchQ),
        s.vaRead (s.groupOf t).core (s.ctxOf t) (t.s a).toNat 8 = (s1, .inr hs) →
        postHeaderOk (BitVec.ofNat 64 (leNat hs)) = true → postHeaderOk ((leDws 13 bs).getD 0 0) = true →
        s1.vaRead (s.groupOf t).core (s.ctxOf t) (t.s a).toNat 104 = (s2, .inr bs) → s.lq (s.ctxOf t) q.toNat = some x →
        (∀ e, s.launchError (s.ctxOf t) (leDws 13 bs) = some e →
          exec (.lpost d a q) s = .next (((s2.effect t).bump (s.ctxOf t) 0x44 1).retire (t.setS d 1)).tick) ∧
        (s.launchError (s.ctxOf t) (leDws 13 bs) = none → 64 ≤ x.posted.length →
          exec (.lpost d a q) s = .next (((s2.effect t).bump (s.ctxOf t) 0x44 1).retire (t.setS d 2)).tick))))

/-- FRD, FWR and FWR.CLR on futures: value, FULL, EMPTY, squash, and their faults (R372, R54, R55, R56, R57, R58). -/
def Obligations.Futures : Prop :=
  ∀ (s : State) (t : Team) (d a b : SReg) (off : Nat), s.Inv → off = (t.s a).toNat →
    (∀ f, s.futFault t (t.s a) = some f →
      (Ready s t 5 [.s a, .s b] → exec (.fwr a b) s = .next (s.park t f).tick) ∧
      (Ready s t 5 [.s a, .s d] → exec (.fwrClr d a) s = .next (s.park t f).tick ∧
        exec (.frd d a) s = .next (s.park t f).tick)) ∧
    (s.futFault t (t.s a) = none →
    (Ready s t 5 [.s a, .s b] →
      (s.isFull off = false → s.settled t.key = true →
        ∃ (s' : State), exec (.fwr a b) s = .next s' ∧ s'.isFull off = true ∧
          Mem.readN s'.mem (homeH off) 8 = leBytes 8 (t.s b).toNat ∧
          ∀ x, (x < homeH off ∨ homeH off + 8 ≤ x) → Mem.read s'.mem x = Mem.read s.mem x) ∧
      (s.isFull off = false → s.settled t.key = false → exec (.fwr a b) s = .next (s.deschedule t .sys).tick) ∧
      (s.isFull off = true → exec (.fwr a b) s = .next (s.park t (mkF .futureOrder .refill off 0)).tick)) ∧
    (Ready s t 5 [.s a, .s d] → s.poisoned (homeH off) 8 = true → s.isFull off = true →
      exec (.fwrClr d a) s = .next (s.loseTeam t .none).tick ∧
      (∀ n, (s.groupOf t).origin = .task n → (s.groupOf t).effect = false →
        exec (.frd d a) s = .next (s.loseTeam t .none).tick)) ∧
    (Ready s t 5 [.s a, .s d] → s.poisoned (homeH off) 8 = false →
      (s.isFull off = true → ∃ (s1 : State), exec (.fwrClr d a) s = .next (s1.retire (t.setS d (s.rd64 (homeH off)))).tick ∧
        s1.isFull off = false ∧ s1.mem = s.mem ∧ s1.teams = s.teams) ∧
      (s.isFull off = false → exec (.fwrClr d a) s = .next (s.park t (mkF .futureOrder .clearEmpty off 0)).tick) ∧
      (∀ n, (s.groupOf t).origin = .launch n →
        exec (.frd d a) s = .next (s.park t (mkF .futureOrder .notATask off 0)).tick) ∧
      (∀ n, (s.groupOf t).origin = .task n →
        ((s.groupOf t).effect = true → exec (.frd d a) s = .next (s.park t (mkF .futureOrder .lateRead off 0)).tick) ∧
        ((s.groupOf t).effect = false → s.isFull off = true →
          exec (.frd d a) s = .next ((s.invL1 (s.groupOf t).core).retire (t.setS d (s.rd64 (homeH off)))).tick) ∧
        ((s.groupOf t).effect = false → s.isFull off = false → exec (.frd d a) s = .next (s.squash t n off).tick))))

/-- GIVE and CLAIM move registers in blocks of 8, and the sum of pool and VCNT stands; SREAD (R85, R86, R374, R375). -/
def Obligations.RegisterPool : Prop :=
  ∀ (s : State) (t : Team) (d a : SReg) (k : BitVec 4), (s.group t.gslot).isSome = true →
    (k ≠ 0 → Ready s t 5 [.s d] →
      (∃ (s' : State) (u : Team), exec (.give d k) s = .next s' ∧ s'.team t.key = some u ∧
        (s'.groupOf t).pool + u.vcnt = (s.groupOf t).pool + t.vcnt ∧
        u.vcnt = (if 8 * k.toNat + 8 ≤ t.vcnt then t.vcnt - 8 * k.toNat else t.vcnt) ∧
        (d ≠ 0 → u.s d = if 8 * k.toNat + 8 ≤ t.vcnt then 1 else 0)) ∧
      (∃ (s' : State) (u : Team), exec (.claim d k) s = .next s' ∧ s'.team t.key = some u ∧
        (s'.groupOf t).pool + u.vcnt = (s.groupOf t).pool + t.vcnt ∧
        u.vcnt = (if 8 * k.toNat ≤ (s.groupOf t).pool ∧ t.vcnt + 8 * k.toNat ≤ 128 then t.vcnt + 8 * k.toNat else t.vcnt) ∧
        (d ≠ 0 → u.s d = if 8 * k.toNat ≤ (s.groupOf t).pool ∧ t.vcnt + 8 * k.toNat ≤ 128 then 1 else 0))) ∧
    (Ready s t 5 [.s a, .s d] →
      exec (.sread d a) s = .next (s.retire (t.setS d ((s.ctx (s.ctxOf t)).counter (t.s a).toNat))).tick)

/-- CSRRD, CSRWR, TLBINV, CAPRD and HREG at SUPERVISOR or above (R396, R397, R398, R400, R401, R402, R403, R404).
The order of the HREG checks is the model's choice, notes/assumptions/29.md. -/
def Obligations.PrivilegedInstructions : Prop :=
  ∀ (s s1 : State) (t : Team) (d a b : SReg) (sc : BitVec 3) (r : Csr), (s.ctx (s.ctxOf t)).priv ≠ 0 →
    (Ready s t 5 [.s a, .s d] →
      (s.csrCheck t (t.s a) none = .inr r → exec (.csrrd d a) s = .next (s.retire (t.setS d (s.csrRead r))).tick) ∧
      (∀ f, s.csrCheck t (t.s a) none = .inl f → exec (.csrrd d a) s = .next (s.park t f).tick) ∧
      ((t.s a).toNat % 8 = 0 → exec (.caprd d a) s = .next (s.retire (t.setS d (s.capRead (t.s a).toNat))).tick) ∧
      ((t.s a).toNat % 8 ≠ 0 → exec (.caprd d a) s = .next (s.park t (mkF .alignment .none (t.s a).toNat 8)).tick)) ∧
    (Ready s t 5 [.s a, .s b] →
      (∀ f, s.csrCheck t (t.s a) (some (t.s b)) = .inl f → exec (.csrwr a b) s = .next (s.park t f).tick) ∧
      (s.csrCheck t (t.s a) (some (t.s b)) = .inr r →
        (s.settled t.key = false → exec (.csrwr a b) s = .next (s.deschedule t .sys).tick) ∧
        (s.settled t.key = true →
          (s.csrSet ((s.ctx (s.ctxOf t)).priv == 1) r (t.s b) = .ok s1 →
            exec (.csrwr a b) s = .next (s1.retire ((s1.team t.key).getD t)).tick) ∧
          (∀ x, s.csrSet ((s.ctx (s.ctxOf t)).priv == 1) r (t.s b) = .error x →
            exec (.csrwr a b) s = .next (s.park t (mkF .protection x (t.s a).toNat 0)).tick))) ∧
      ((sc = 3 ∨ sc = 4) → ∀ (c n va lo hi : Nat), c = fld (t.s b) 63 52 → n = fld (t.s b) 31 0 →
        va = (t.s a).toNat / 65536 * 65536 → (lo, hi) = (if n = 0 then (0, 2 ^ 36) else (va / 65536, va / 65536 + n)) →
        (fld (t.s b) 51 32 ≠ 0 →
          exec (.tlbinv sc a b) s = .next (s.park t (mkF .illegalEncoding .reservedValue 0 0)).tick) ∧
        (fld (t.s b) 51 32 = 0 → (s.ctx (s.ctxOf t)).priv = 1 → (s.ctx c).part ≠ (s.ctx (s.ctxOf t)).part →
          exec (.tlbinv sc a b) s = .next (s.park t (mkF .protection .csrPartition va 0)).tick) ∧
        (fld (t.s b) 51 32 = 0 → ((s.ctx (s.ctxOf t)).priv = 1 → (s.ctx c).part = (s.ctx (s.ctxOf t)).part) →
          (n ≠ 0 → 2 ^ 52 < va + n * 65536 →
            exec (.tlbinv sc a b) s = .next (s.park t (mkF .spaceBounds .nonCanonical (max va (2 ^ 52)) 4)).tick) ∧
          (n = 0 ∨ va + n * 65536 ≤ 2 ^ 52 →
            (s.settled t.key = false → exec (.tlbinv sc a b) s = .next (s.deschedule t .sys).tick) ∧
            (s.settled t.key = true → ∃ (s2 : State),
              exec (.tlbinv sc a b) s = .next (if s.ctxIds (s.flushCtxs sc c) = [] ∧ s.engineRids (s.flushCtxs sc c) = [] ∧
                  (sc = 4 → s.joinedModules c = [])
                then (s2.retire t).tick else (s2.retireWait t (.drain (s.ctxIds (s.flushCtxs sc c))
                  (s.engineRids (s.flushCtxs sc c)) (if sc = 4 then s.joinedModules c else []))).tick) ∧
              s2.mem = s.mem ∧ s2.teams = s.teams ∧ ∀ e ∈ s.flushCtxs sc c,
                (∀ x ∈ s2.tcache, x.2.1 = e →
                  lvlMeets x.2.2.1 (x.2.2.2.1 <<< (lvlShift x.2.2.1 - 16)) lo hi = false) ∧
                (∀ k ∈ s2.cores, ∀ x ∈ k.tlb, x.1 = e → lvlMeets x.2.2.1 x.2.1 lo hi = false)))))) ∧
    (Ready s t 5 [.s a, .s b, .s d] →
      ((t.s b).toNat % 32 ≠ 0 → exec (.hreg d a b) s = .next (s.park t (mkF .alignment .none (t.s b).toNat 32)).tick) ∧
      ((t.s b).toNat % 32 = 0 → s.settled t.key = false → exec (.hreg d a b) s = .next (s.deschedule t .sys).tick) ∧
      ((t.s b).toNat % 32 = 0 → s.settled t.key = true → ∀ c k : Nat, c = fld (t.s a) 27 16 → k = fld (t.s a) 7 0 →
        (fld (t.s a) 63 28 ≠ 0 ∨ fld (t.s a) 15 8 ≠ 0 → exec (.hreg d a b) s = .next (s.retire (t.setS d 1)).tick) ∧
        (fld (t.s a) 63 28 = 0 → fld (t.s a) 15 8 = 0 →
          ((s.ctx (s.ctxOf t)).priv = 1 → (s.ctx c).part ≠ (s.ctx (s.ctxOf t)).part →
            exec (.hreg d a b) s = .next (s.retire (t.setS d 2)).tick) ∧
          ((s.ctx (s.ctxOf t)).priv ≠ 1 → s.sealedCtx c = true → (s.ctx c).part ≠ (s.ctx (s.ctxOf t)).part →
            exec (.hreg d a b) s = .next (s.park t (mkF .enclaveViolation .none (t.s a).toNat (s.ctx c).kid)).tick) ∧
          ((s.ctx c).part = (s.ctx (s.ctxOf t)).part ∨ (s.ctx (s.ctxOf t)).priv ≠ 1 ∧ s.sealedCtx c = false →
            (FaultClass.all.any (fun e => e.code == k) = false →
              exec (.hreg d a b) s = .next (s.retire (t.setS d 3)).tick) ∧
            (FaultClass.all.any (fun e => e.code == k) = true →
              (t.s b = 0 → exec (.hreg d a b) s = .next ((s.setEntry c k none).retire (t.setS d 0)).tick) ∧
              (t.s b ≠ 0 → ∀ bs : List Byte,
                s.vaRead (s.groupOf t).core (s.ctxOf t) (t.s b).toNat 32 = (s1, .inr bs) →
                (descBad (leDws 4 bs) = true → exec (.hreg d a b) s = .next (s1.retire (t.setS d 1)).tick) ∧
                (descBad (leDws 4 bs) = false →
                  (∀ h, s.localHctx (leDws 4 bs) = some h → (s.ctx h).part = (s.ctx c).part ∨
                    (s.ctx (s.ctxOf t)).priv ≠ 1 ∧ s.sealedCtx c = false) →
                  exec (.hreg d a b) s =
                    .next ((s1.setEntry c k (some (leDws 4 bs))).retire (t.setS d 0)).tick)))))))

/-- Majors 57 and 58 outside their privilege park with protection (R230, R389, R396, R405). -/
def Obligations.PrivilegeFaults : Prop :=
  ∀ (s : State) (t : Team) (d a b : SReg) (sc : BitVec 3), s.curTeam = some t → t.inClass 5 = true →
    ((s.ctx (s.ctxOf t)).priv = 0 →
      exec (.csrrd d a) s = .next (s.park t (mkF .protection .privileged 0 0)).tick ∧
      exec (.csrwr a b) s = .next (s.park t (mkF .protection .privileged 0 0)).tick ∧
      ((sc = 3 ∨ sc = 4) → exec (.tlbinv sc a b) s = .next (s.park t (mkF .protection .privileged 0 0)).tick) ∧
      exec (.caprd d a) s = .next (s.park t (mkF .protection .privileged 0 0)).tick ∧
      exec (.hreg d a b) s = .next (s.park t (mkF .protection .privileged 0 0)).tick) ∧
    (t.handler = false →
      (sgroupOk d 2 = true → sgroupOk a 2 = true →
        exec (.pkrd d a) s = .next (s.park t (mkF .protection .notAHandler 0 0)).tick) ∧
      (sgroupOk a 2 = true → exec (.pkwr d a b) s = .next (s.park t (mkF .protection .notAHandler 0 0)).tick) ∧
      exec (.pkres d a) s = .next (s.park t (mkF .protection .notAHandler 0 0)).tick ∧
      exec (.pkretry d a) s = .next (s.park t (mkF .protection .notAHandler 0 0)).tick ∧
      exec (.pkredir d a b) s = .next (s.park t (mkF .protection .notAHandler 0 0)).tick ∧
      exec (.pkkill d a) s = .next (s.park t (mkF .protection .notAHandler 0 0)).tick)

/-- PKRD, PKWR, PKRES, PKRETRY, PKREDIR and PKKILL on the records of this module's Bar and of another's (R405, R406, R407, R408, R410, R411, R412).
What a handler of another module owns, and in which order that is checked, is the model's reading, notes/assumptions/74.md and 93.md. -/
def Obligations.HandlerInstructions : Prop :=
  ∀ (s : State) (t : Team) (d a b : SReg), t.handler = true →
    (s.settled t.key = false →
      (Ready s t 5 [.s a, .s d] → exec (.pkres d a) s = .next (s.deschedule t .sys).tick) ∧
      (Ready s t 5 [.s a, .s d] → exec (.pkretry d a) s = .next (s.deschedule t .sys).tick) ∧
      (Ready s t 5 [.s a, .s b, .s d] → exec (.pkredir d a b) s = .next (s.deschedule t .sys).tick) ∧
      (Ready s t 5 [.s a, .s d] → exec (.pkkill d a) s = .next (s.deschedule t .sys).tick)) ∧
    ((t.s a).toNat / 2 ^ 55 ≠ s.modl.modNo → s.settled t.key = true →
      (sgroupOk d 2 = true → sgroupOk a 2 = true → Ready s t 5 [.s a, .s (a + 1), .s d, .s (d + 1)] → exec (.pkrd d a) s = .next (s.pkFar t 0 d true (t.s a) (t.s (a + 1)) 0).tick) ∧
      (sgroupOk a 2 = true → Ready s t 5 [.s a, .s (a + 1), .s b, .s d] → exec (.pkwr d a b) s = .next (s.pkFar t 1 d false (t.s a) (t.s (a + 1)) (t.s b)).tick) ∧
      (Ready s t 5 [.s a, .s d] → exec (.pkres d a) s = .next (s.pkFar t 2 d false (t.s a) 0 0).tick) ∧
      (Ready s t 5 [.s a, .s d] → exec (.pkretry d a) s = .next (s.pkFar t 3 d false (t.s a) 0 0).tick) ∧
      (Ready s t 5 [.s a, .s b, .s d] → exec (.pkredir d a b) s = .next (s.pkFar t 4 d false (t.s a) 0 (t.s b)).tick) ∧
      (Ready s t 5 [.s a, .s d] → exec (.pkkill d a) s = .next (s.pkFar t 5 d false (t.s a) 0 0).tick)) ∧
    ((t.s a).toNat / 2 ^ 55 = s.modl.modNo → s.settled t.key = true →
    (∀ r, s.recOf (t.s a) = some r → (s.sealedCtx r.ctx = true → (s.ctx (s.ctxOf t)).part = r.part) → s.owns t r = true →
      (sgroupOk d 2 = true → sgroupOk a 2 = true → Ready s t 5 [.s a, .s (a + 1), .s d, .s (d + 1)] → exec (.pkrd d a) s = .next ((s.pkServe 0 r (t.s (a + 1)) 0).1.pkAnswer t.key d true
        (s.pkServe 0 r (t.s (a + 1)) 0).2.1 (s.pkServe 0 r (t.s (a + 1)) 0).2.2).tick) ∧
      (sgroupOk a 2 = true → Ready s t 5 [.s a, .s (a + 1), .s b, .s d] → exec (.pkwr d a b) s = .next ((s.pkServe 1 r (t.s (a + 1)) (t.s b)).1.pkAnswer t.key d false
        (s.pkServe 1 r (t.s (a + 1)) (t.s b)).2.1 (s.pkServe 1 r (t.s (a + 1)) (t.s b)).2.2).tick) ∧
      (Ready s t 5 [.s a, .s d] → exec (.pkres d a) s = .next ((s.pkServe 2 r 0 0).1.pkAnswer t.key d false
        (s.pkServe 2 r 0 0).2.1 (s.pkServe 2 r 0 0).2.2).tick) ∧
      (Ready s t 5 [.s a, .s d] → exec (.pkretry d a) s = .next ((s.pkServe 3 r 0 0).1.pkAnswer t.key d false
        (s.pkServe 3 r 0 0).2.1 (s.pkServe 3 r 0 0).2.2).tick) ∧
      (Ready s t 5 [.s a, .s b, .s d] → exec (.pkredir d a b) s = .next ((s.pkServe 4 r 0 (t.s b)).1.pkAnswer t.key d false
        (s.pkServe 4 r 0 (t.s b)).2.1 (s.pkServe 4 r 0 (t.s b)).2.2).tick) ∧
      (Ready s t 5 [.s a, .s d] → exec (.pkkill d a) s = .next ((s.pkServe 5 r 0 0).1.pkAnswer t.key d false
        (s.pkServe 5 r 0 0).2.1 (s.pkServe 5 r 0 0).2.2).tick)) ∧
    (s.recOf (t.s a) = none →
      (sgroupOk d 2 = true → sgroupOk a 2 = true → Ready s t 5 [.s a, .s (a + 1), .s d, .s (d + 1)] → exec (.pkrd d a) s = .next (s.pkAnswer t.key d true 1 0).tick) ∧
      (sgroupOk a 2 = true → Ready s t 5 [.s a, .s (a + 1), .s b, .s d] → exec (.pkwr d a b) s = .next (s.pkAnswer t.key d false 1 0).tick) ∧
      (Ready s t 5 [.s a, .s d] → exec (.pkres d a) s = .next (s.pkAnswer t.key d false 1 0).tick) ∧
      (Ready s t 5 [.s a, .s d] → exec (.pkretry d a) s = .next (s.pkAnswer t.key d false 1 0).tick) ∧
      (Ready s t 5 [.s a, .s b, .s d] → exec (.pkredir d a b) s = .next (s.pkAnswer t.key d false 1 0).tick) ∧
      (Ready s t 5 [.s a, .s d] → exec (.pkkill d a) s = .next (s.pkAnswer t.key d false 1 0).tick)) ∧
    (∀ r, s.recOf (t.s a) = some r → (s.sealedCtx r.ctx = true → (s.ctx (s.ctxOf t)).part = r.part) → s.owns t r = false →
      (sgroupOk d 2 = true → sgroupOk a 2 = true → Ready s t 5 [.s a, .s (a + 1), .s d, .s (d + 1)] → exec (.pkrd d a) s = .next (s.pkAnswer t.key d true 2 0).tick) ∧
      (sgroupOk a 2 = true → Ready s t 5 [.s a, .s (a + 1), .s b, .s d] → exec (.pkwr d a b) s = .next (s.pkAnswer t.key d false 2 0).tick) ∧
      (Ready s t 5 [.s a, .s d] → exec (.pkres d a) s = .next (s.pkAnswer t.key d false 2 0).tick) ∧
      (Ready s t 5 [.s a, .s d] → exec (.pkretry d a) s = .next (s.pkAnswer t.key d false 2 0).tick) ∧
      (Ready s t 5 [.s a, .s b, .s d] → exec (.pkredir d a b) s = .next (s.pkAnswer t.key d false 2 0).tick) ∧
      (Ready s t 5 [.s a, .s d] → exec (.pkkill d a) s = .next (s.pkAnswer t.key d false 2 0).tick)) ∧
    (∀ r, s.recOf (t.s a) = some r → s.sealedCtx r.ctx = true → (s.ctx (s.ctxOf t)).part ≠ r.part →
      (sgroupOk d 2 = true → sgroupOk a 2 = true → Ready s t 5 [.s a, .s (a + 1), .s d, .s (d + 1)] → exec (.pkrd d a) s = .next (s.park t (mkF .enclaveViolation .none (t.s a).toNat (s.ctx r.ctx).kid)).tick) ∧
      (sgroupOk a 2 = true → Ready s t 5 [.s a, .s (a + 1), .s b, .s d] → exec (.pkwr d a b) s = .next (s.park t (mkF .enclaveViolation .none (t.s a).toNat (s.ctx r.ctx).kid)).tick) ∧
      (Ready s t 5 [.s a, .s d] → exec (.pkres d a) s = .next (s.park t (mkF .enclaveViolation .none (t.s a).toNat (s.ctx r.ctx).kid)).tick) ∧
      (Ready s t 5 [.s a, .s d] → exec (.pkretry d a) s = .next (s.park t (mkF .enclaveViolation .none (t.s a).toNat (s.ctx r.ctx).kid)).tick) ∧
      (Ready s t 5 [.s a, .s b, .s d] → exec (.pkredir d a b) s = .next (s.park t (mkF .enclaveViolation .none (t.s a).toNat (s.ctx r.ctx).kid)).tick)) ∧
    (∀ r, s.recOf (t.s a) = some r → s.owns t r = true → r.st = .report →
      t.st = .running → Ready s t 5 [.s a, .s d] → d ≠ 0 →
      ∃ (s' : State) (u : Team), exec (.pkkill d a) s = .next s' ∧ (∀ x ∈ s'.recs, x.id ≠ r.id) ∧ s'.team t.key = some u ∧ u.s d = 0) ∧
    (∀ r, AtBar s t (t.s a) r →
      (Ready s t 5 [.s a, .s (a + 1), .s d, .s (d + 1)] → sgroupOk d 2 = true → sgroupOk a 2 = true →
        (∀ p ∈ ([(9, 0, ndw r.ctx), (9, 1, ndw r.gslot), (9, 2, ndw r.tid), (9, 3, ndw r.fault.cls.code), (9, 4, ndw r.depth),
            (0, 2, ndw (r.parkt % 2 ^ 44)), (0, 3, ndw (r.deadline % 2 ^ 44)), (0, 5, r.origin), (0, 6, r.fault.det0)] : List (Nat × Nat × Dw)),
          t.s (a + 1) = BitVec.ofNat 64 (p.1 * 2 ^ 60 + p.2.1 * 2 ^ 32) →
          exec (.pkrd d a) s = .next (s.retire ((t.setS d p.2.2).setS (d + 1) 0)).tick) ∧
        (∀ (p u : Team) (bs : List Byte), Spilled s r p u bs → ∀ n, n < 64 → t.s (a + 1) = BitVec.ofNat 64 (2 ^ 60 + n * 2 ^ 32) →
          exec (.pkrd d a) s = .next (s.retire ((t.setS d (u.s (BitVec.ofNat 6 n))).setS (d + 1) 0)).tick)) ∧
      (Ready s t 5 [.s a, .s (a + 1), .s b, .s d] → sgroupOk a 2 = true →
        (t.s (a + 1) = 0x300000000 → (fld (t.s b) 43 0 = 0 ∨ s.usec < fld (t.s b) 43 0) →
          exec (.pkwr d a b) s = .next ((s.putRec { r with deadline := fld (t.s b) 43 0 }).retire (t.setS d 0)).tick) ∧
        (∀ (p u : Team) (bs : List Byte), Spilled s r p u bs → ∀ n, n < 64 → t.s (a + 1) = BitVec.ofNat 64 (2 ^ 60 + n * 2 ^ 32) →
          exec (.pkwr d a b) s = .next (State.retire { s with
            mem := (Mem.writeN s.mem (homeB r.die r.imgva.toNat) ((u.setS (BitVec.ofNat 6 n) (t.s b)).reimage s.clk bs)) }
            (t.setS d 0)).tick)) ∧
      (s.settled t.key = true → r.st ≠ .report → s.membersOfRec r = [] →
        (∀ (p u : Team) (bs : List Byte), Spilled s r p u bs → u.owed = [] → u.owedAll = false →
          max u.gChunks u.resv ≤ s.freeChunks (s.groupOf p).core + s.held p →
          (Ready s t 5 [.s a, .s d] → ∃ s', Disposed (.pkres d a) s s' t d r ∧ Reentered s s' r u r.pc r.woff) ∧
          (Ready s t 5 [.s a, .s b, .s d] → fld (t.s b) 1 0 = 0 → fld (t.s b) 63 52 = 0 →
            ∃ s', Disposed (.pkredir d a b) s s' t d r ∧ Reentered s s' r u (t.s b) 0)) ∧
        (∀ o x, r.kind = .tile o → s.tileOp o.id = some x → x.parked = some r.id → s.retryOk x = true → Ready s t 5 [.s a, .s d] →
          ∃ s' y, Disposed (.pkretry d a) s s' t d r ∧ s'.tileOp o.id = some y ∧ y.parked = none ∧ y.oprs = x.oprs ∧ y.rows = x.rows) ∧
        (∀ o x y, r.kind = .seg o x → s.asyOp o.id = some y →
          (Ready s t 5 [.s a, .s d] → ∃ s', Disposed (.pkretry d a) s s' t d r ∧ s'.asyOp o.id = some { y with
            segs := (y.segs.map (fun z => if z.parked = some r.id then { z with parked := none } else z)) }) ∧
          (Ready s t 5 [.s a, .s b, .s d] → fld (t.s b) 1 0 = 0 → fld (t.s b) 63 52 = 0 →
            ∃ s', Disposed (.pkredir d a b) s s' t d r ∧ s'.asyOp o.id = some { y with
              segs := (y.segs.map (fun z => if z.parked = some r.id then
                (if z.wside then { z with parked := none, dst := t.s b } else { z with parked := none, src := t.s b }) else z)) })) ∧
        (Ready s t 5 [.s a, .s d] → ∃ s', Disposed (.pkkill d a) s s' t d r ∧
          (∀ p, r.kind = .team → s.team r.team = some p → p.st = .parked r.id →
            ∃ w, s'.team r.team = some w ∧ w.isEnded = true) ∧
          (∀ o, r.kind = .tile o → ∀ x ∈ s'.tops, x.id ≠ o.id) ∧
          (∀ o x y, r.kind = .seg o x → s'.asyOp o.id = some y → ∀ z ∈ y.segs, z.no ≠ x.no)))))

/-- The chosen team goes on in its open clause, or its next clause is fetched, checked and put into issue (R435, R203, R204, R208, R209, R40, R43, R108, R463).
That a clause held at its thresholds is fetched again is the model's choice, notes/assumptions/87.md. -/
def Obligations.ClauseIssue : Prop :=
  ∀ (core : Nat) (s : State) (t u : Team), s.choice core = some t →
    (t.clause.isSome → exec (.clauseIssue core) s = .next { s with cur := some t.key }) ∧
    (t.clause = none → t.woff = 0 → ∀ (s1 : State) (t1 t2 : Team) (f : FaultInfo), s.expireBudgets t = (s1, t1) →
      (t1.applyWindow (s1.groupOf t1).ovReg).boundary = some (f, t2) → exec (.clauseIssue core) s = .next (s1.park t2 f)) ∧
    (t.clause = none →
      (t.woff = 0 → t.pdOut s.clk = false ∧ ((s.groupOf t).budget ≠ some 0 ∨ (s.groupOf t).expired = true) ∧ t.due = [] ∧ t.lost = none) →
      u = (if t.woff = 0 then t.applyWindow (s.groupOf t).ovReg else t) →
      (t.pc.toNat % 4 ≠ 0 → exec (.clauseIssue core) s = .next (s.park u { mkF .illegalTarget .none 0 0 with xfer := t.src })) ∧
      (t.pc.toNat % 4 = 0 →
        (∀ (s1 : State) (f : FaultInfo), s.fetchWord (s.groupOf t).core (s.ctxOf t) t.pc.toNat none = (s1, .inl f) →
          exec (.clauseIssue core) s = .next (s1.park u f)) ∧
        ∀ (s1 : State) (h : Wd) (pg : Option (Nat × Page)),
        s.fetchWord (s.groupOf t).core (s.ctxOf t) t.pc.toNat none = (s1, .inr (h, pg)) →
        (∀ f, headerFault h t.src.isSome = some f → exec (.clauseIssue core) s =
          .next (s1.park { u with woff := 0 } { f with xfer := t.src })) ∧
        (headerFault h t.src.isSome = none →
          (∀ (s2 : State) (f : FaultInfo),
            s1.fetchBody (s.groupOf t).core (s.ctxOf t) 45 (t.pc.toNat + 4) pg (bits h.toNat 3 0) = (s2, .inl f) →
            exec (.clauseIssue core) s = .next (s2.park u f)) ∧
          ∀ (s2 : State) (ws : List Wd) (k need : Nat),
          s1.fetchBody (s.groupOf t).core (s.ctxOf t) 45 (t.pc.toNat + 4) pg (bits h.toNat 3 0) = (s2, .inr ws) →
          (if t.woff = 0 then some 0 else startsAt ws t.woff 1 true) = some k → k < bits h.toNat 3 0 →
          need = s2.clauseNeed u ws →
          (t.woff = 0 → t.cnt.meets (bits h.toNat 10 7) (bits h.toNat 14 11) (bits h.toNat 18 15) (bits h.toNat 22 19) = false →
            exec (.clauseIssue core) s = .next (s2.deschedule u
              (.thr (bits h.toNat 10 7) (bits h.toNat 14 11) (bits h.toNat 18 15) (bits h.toNat 22 19)))) ∧
          ((t.woff = 0 → t.cnt.meets (bits h.toNat 10 7) (bits h.toNat 14 11) (bits h.toNat 18 15) (bits h.toNat 22 19) = true) →
            (s2.freeChunks (s.groupOf t).core + s2.held u < need → exec (.clauseIssue core) s = .next (s2.swapOut u need)) ∧
            (need ≤ s2.freeChunks (s.groupOf t).core + s2.held u →
              ∃ (s' : State) (v : Team), exec (.clauseIssue core) s = .next s' ∧ s'.cur = some t.key ∧
                s'.team t.key = some v ∧ v.clause = some { hdr := h, words := ws, left := bits h.toNat 3 0 - k } ∧
                v.woff = (if t.woff = 0 then 1 else t.woff) ∧ v.resv = need ∧ v.st = .running ∧ v.regs = t.regs ∧ v.pc = t.pc)))))

/-- Pre-emption, swap-in, the ends of waits, barriers, rounds, deferred free, the end of a group (R38, R90, R327, R204, R329, R333, R335, R336, R248, R311, R43, R382).
When a team is swapped out and what its image must hold is the model's reading, notes/assumptions/49.md, and the VCNT byte of an image its choice, 84.md; when a barrier counts as complete, 45.md. -/
def Obligations.SchedulingEvents : Prop :=
  ∀ (s : State) (k n : Nat) (t : Team),
    (s.team k = some t →
      (t.preemptible = false ∨ s.openLoads k = true → exec (.preEmption k) s = .next s) ∧
      (t.preemptible = true → s.openLoads t.key = false →
        (s.saveVa (s.ctxOf t) (s.groupOf t).core t.place = none →
          exec (.preEmption k) s = .next (s.park t (mkF .unserviceable .none 0 1))) ∧
        (∀ (va : Nat) (s1 : State), s.saveVa (s.ctxOf t) (s.groupOf t).core t.place = some va →
          (∀ f, s.vaWrite (s.groupOf t).core (s.ctxOf t) va (t.image s.clk) = (s1, some f) →
            exec (.preEmption k) s = .next (s1.park t { mkF .unserviceable .none 0 1 with det0 := f.det0 })) ∧
          (s.vaWrite (s.groupOf t).core (s.ctxOf t) va (t.image s.clk) = (s1, none) →
            ∃ (s' : State) (u : Team), exec (.preEmption k) s = .next s' ∧ s'.team k = some u ∧ u.st = .swapped ∧
              u.regs = t.regs ∧ u.pc = t.pc ∧ u.need = t.chunks ∧ u.resv = 0 ∧ s'.cur ≠ some k)))) ∧
    (s.team k = some t →
      (t.st ≠ .swapped ∨ s.freeChunks (s.groupOf t).core < t.need → exec (.swapIn k) s = .next s) ∧
      (t.st = .swapped → t.need ≤ s.freeChunks (s.groupOf t).core → ∀ (s1 : State) (bs : List Byte),
        (∀ f, s.readImage t = (s1, .inl f) →
          exec (.swapIn k) s = .next (s1.formRec t { mkF .unserviceable .none 0 1 with det0 := f.det0 })) ∧
        (s.readImage t = (s1, .inr (bs, true)) →
          exec (.swapIn k) s = .next (s1.loseTeam { t with st := .running } .saveAreaError)) ∧
        (s.readImage t = (s1, .inr (bs, false)) →
          (t.restore bs s1.clk = none →
            exec (.swapIn k) s = .next (s1.loseTeam { t with st := .running } .saveAreaMalformed)) ∧
          (∀ t' : Team, t.restore bs s1.clk = some t' →
            (s1.freeChunks (s.groupOf t).core < t'.gChunks →
              exec (.swapIn k) s = .next (s1.putTeam { t with need := t'.gChunks })) ∧
            (t'.gChunks ≤ s1.freeChunks (s.groupOf t).core → t'.owed = [] → t'.owedAll = false →
              ∃ (s' : State) (u : Team), exec (.swapIn k) s = .next s' ∧ s'.team k = some u ∧ u.st = s1.backSt t' ∧
                u.regs = t'.regs ∧ u.pc = BitVec.ofNat 64 (numAt bs 0xBE0 8)))))) ∧
    (s.team k = some t → t.st = .wait .woken →
      exec (.waitaWake k) s = .next (s.retire { t with st := .running, age := s.clk })) ∧
    (∀ a, s.team k = some t → t.st = .wait (.waita a) →
      (inG a = false → exec (.waitaWake k) s = .next s) ∧
      (inG a = true → exec (.waitaWake k) s = .next ((s.evict (a / 128)).retire { t with st := .running, age := s.clk }))) ∧
    (∀ p a, s.team k = some t → t.st = .wait (.waitaPeer p a) →
      exec (.waitaWake k) s = .next (s.retire { t with st := .running, age := s.clk })) ∧
    (s.team k = some t → ((∃ a, t.st = .wait (.waita a)) ∨ ∃ p a, t.st = .wait (.waitaPeer p a)) →
      (t.spur.all (fun c => decide (c + 65536 ≤ s.clk)) = true →
        exec (.spuriousWake k) s = .next (s.retire { t with spur := some s.clk, st := .running, age := s.clk })) ∧
      (t.spur.all (fun c => decide (c + 65536 ≤ s.clk)) = false → exec (.spuriousWake k) s = .next s)) ∧
    (∀ w, s.team k = some t → t.st = .wait w →
      (s.met t w = false → exec (.waitConditionMet k) s = .next s) ∧
      (s.met t w = true → (∀ p, w ≠ .fabric p) → (∀ i, w ≠ .flush i) →
        exec (.waitConditionMet k) s = .next (s.putTeam { t with st := .running, age := s.clk })) ∧
      (∀ i, w = .flush i → s.met t w = true → exec (.waitConditionMet k) s =
        .next (({ s with hostSeen := max s.hostSeen i }).putTeam { t with st := .running, age := s.clk })) ∧
      (∀ p, w = .fabric p → s.met t w = true → ∃ (s' : State), s'.teams = s.teams ∧ s'.acc = s.acc ∧ SameMem s s' ∧
        exec (.waitConditionMet k) s = .next (s'.putTeam (if s.acquiring t.key = [] then { t with st := .running, age := s.clk }
          else { t with st := .wait (.accs (s.acquiring t.key)) })))) ∧
    (∀ (b : Barrier), s.bars.find? (fun (x : Barrier) => x.key == b.key) = some b →
      (s.barrierDone b = false → exec (.barrierComplete b.key) s = .next s) ∧
      (s.barrierDone b = true → (s.applyFor b).barrierDone b = false →
        exec (.barrierComplete b.key) s = .next (s.applyFor b)) ∧
      (s.barrierDone b = true → (s.applyFor b).barrierDone b = true →
        ∃ (s' : State), exec (.barrierComplete b.key) s = .next s' ∧
          s'.bars.find? (fun (x : Barrier) => x.key == b.key) =
            some { b with arrived := [], start := none, phase := b.phase + 1, before := [] } ∧
          ∀ x ∈ (s.applyFor b).teams, (s.applyFor b).ofBarrier b.key x = true → x.st = .wait (.barrier b.key) →
            ∀ u, s'.team x.key = some u → u.st = .running)) ∧
    (∀ (r : Round), s.rounds.find? (fun (x : Round) => x.id == n) = some r →
      (r.set ≠ [] ∨ r.far ≠ [] ∨ s.clk ≤ r.at_ → exec (.roundComplete n) s = .next s) ∧
      (r.set = [] → r.far = [] → r.at_ < s.clk →
        (∃ (s' : State), exec (.roundComplete n) s = .next s' ∧ (∀ x ∈ s'.rounds, x.id ≠ n) ∧
          (∀ e ∈ s'.dfl, e.round = some n → e.released = true)) ∧
        (r.team = some k → s.team k = some t → t.st = .wait (.round n) →
          ∃ (s' : State) (u : Team), exec (.roundComplete n) s = .next s' ∧ s'.team k = some u ∧ u.st = .running ∧ u.regs = t.regs))) ∧
    ((s.dfl.any (fun (e : DEntry) => e.ctx == k && e.queued && e.round.isNone && !e.released && decide (e.qclk < s.clk)) = false ∨
        s.rounds.any (fun (r : Round) => r.ctx == k) = true → exec (.schedulerRoundStart k) s = .next s) ∧
      (s.dfl.any (fun (e : DEntry) => e.ctx == k && e.queued && e.round.isNone && !e.released && decide (e.qclk < s.clk)) = true →
      s.rounds.any (fun (r : Round) => r.ctx == k) = false →
      ∃ (s' : State), exec (.schedulerRoundStart k) s = .next s' ∧
        s'.rounds = s.rounds ++ [{ id := s.uid, ctx := k, team := none, scope := 3, set := s.readers k, at_ := s.clk, far := [] }] ∧
        ∀ e ∈ s'.dfl, e.ctx = k → e.queued = true → e.released = false → e.round.isSome)) ∧
    (∀ (e : DEntry), s.dfl.find? (fun (x : DEntry) => x.id == n) = some e →
      (e.queued = true ∨ e.waits ≠ [] → exec (.dfreeQueueingComplete n) s = .next s) ∧
      (e.queued = false → e.waits = [] → exec (.dfreeQueueingComplete n) s =
        .next { s with dfl := s.dfl.filter (fun (x : DEntry) => x.id != n) ++ [{ e with
          queued := true, qclk := s.clk
          round := (s.rounds.find? (fun (r : Round) => r.ctx == e.ctx && r.at_ == s.clk)).map (·.id) }] })) ∧
    ((s.reclaimGroup k = none → exec (.reclaimQueueFill k) s = .next s) ∧ ∀ (g : Group), s.reclaimGroup k = some g →
      ((s.dfl.filter (fun (e : DEntry) => e.ctx == k && e.released)).take 8 = [] ∨ (g.queue 15).empty = 0 →
        exec (.reclaimQueueFill k) s = .next s) ∧
      ((g.queue 15).empty ≠ 0 → (s.dfl.filter (fun (e : DEntry) => e.ctx == k && e.released)).take 8 ≠ [] →
      exec (.reclaimQueueFill k) s =
        .next { s.putQueue g.slot 15 { g.queue 15 with slots := (g.queue 15).slots ++
            [.full (reclaimLine ((s.dfl.filter (fun (e : DEntry) => e.ctx == k && e.released)).take 8)) 0] } with
          dfl := s.dfl.filter (fun (e : DEntry) =>
            !((s.dfl.filter (fun (e : DEntry) => e.ctx == k && e.released)).take 8).contains e) })) ∧
    (∀ (g : Group), s.group n = some g →
      (s.groupDone g = false → exec (.groupEnd n) s = .next s) ∧
      (s.groupDone g = true →
        ∃ (s' : State), exec (.groupEnd n) s = .next s' ∧ s'.group n = none ∧ (∀ x ∈ s'.teams, x.gslot ≠ n) ∧
          (∀ o ∈ s'.asy, o.group ≠ n))) ∧
    ((s.batches.any (fun (b : Batch) => b.id == n) = false → exec (.fabricBatchSend n) s = .next s) ∧
      ∀ (b : Batch), s.batches = [b] → b.pkts.length ≤ max 1 (s.peer b.peer).cap →
      (s.batchHeld [] b = true → exec (.fabricBatchSend b.id) s = .next s) ∧
      (s.batchHeld [] b = false →
        exec (.fabricBatchSend b.id) s = .next (({ s with batches := [] }).sendPkts b.peer b.pkts)))

/-- Returns of line requests, fills, segments, tile operations, pins, resets, collectives, service atomics (R124, R307, R364, R119, R361, R360, R346, R353, R437, R478, R369, R317).
That sources are read in the completing step is the model's reading, notes/assumptions/42.md, and that all lines of another module are asked for first, 82.md; the windows of a copy engine are its choice, 99.md, and so is the form of a collective, 57.md. -/
def Obligations.EngineEvents : Prop :=
  ∀ (s : State) (n i : Nat) (data : List Line) (d : Line),
    (∀ (a : Access) (t : Team), s.acc.find? (fun (x : Access) => x.id == n) = some a → (∀ q ∈ a.reqs, q.2 = true) → a.rem = [] →
      a.svc = 0 → a.bad = [] → s.team a.team = some t → t.holds = true → t.allDead = false → (∀ f, t.st ≠ .parking f) →
      ∃ (s' : State) (u : Team), exec (.lineRequestReturn n data) s = .next s' ∧ (∀ x ∈ s'.acc, x.id ≠ n) ∧
        s'.team a.team = some u ∧ u.regs = (t.finish a).regs ∧ u.cnt = (t.countOut a.load).cnt ∧ s'.mem = s.mem) ∧
    (∀ (p : PfReq), s.acc.find? (fun (x : Access) => x.id == n) = none →
      s.pfs.find? (fun (x : PfReq) => x.id == n && x.slot.isSome) = some p →
      ∃ (s' : State), exec (.lineRequestReturn n data) s = .next s' ∧ (∀ x ∈ s'.pfs, x.id ≠ n) ∧ s'.mem = s.mem ∧ s'.teams = s.teams) ∧
    (∀ (o : AsyncOp) (f : Fill) (s1 : State), s.asyOp n = some o →
      ((s.groupAt o.group).queue (o.queue.getD 0)).pendingFill n i = some f →
      (s.fillOut (s.groupAt o.group) o.team f (some d) = (s1, none) → exec (.queueSlotFill n i d) s = .next s1) ∧
      (∀ out : DropCause ⊕ Line, s.fillOut (s.groupAt o.group) o.team f (some d) = (s1, some out) →
        ∃ (s' : State), exec (.queueSlotFill n i d) s = .next s' ∧
          ((s'.groupAt o.group).queue (o.queue.getD 0)).slots =
            ((s.groupAt o.group).queue (o.queue.getD 0)).slots.map (settleSlot n i out) ∧
          (∀ p, s'.asyOp n = some p → i ∉ p.fills))) ∧
    (∀ (c : Nat) (va : Dw), ∃ (s' : State), exec (.hardwarePrefetch n c va) s = .next s' ∧ s'.mem = s.mem ∧ s'.teams = s.teams ∧
      s'.recs = s.recs) ∧
    (∀ (o : AsyncOp) (sg : Seg), s.Inv → s.asyOp n = some o → o.cls ≠ 3 →
      o.segs.find? (fun x => x.no == i && x.open o.cls) = some sg → sg.ssp ≠ 4 → sg.dsp ≠ 4 →
      s.farOf n i = [] → ∀ a b : Nat,
      a = (s.groupAt o.group).home sg.ssp sg.src.toNat → b = (s.groupAt o.group).home sg.dsp sg.dst.toNat →
      (s.behind o.team n [localPiece a sg.len] = true → exec (.copySegmentComplete n i none) s = .next s) ∧
      (s.behind o.team n [localPiece a sg.len] = false →
        (∀ j, j < sg.len → s.poisoned (a + j) 1 = false) → (a + sg.len ≤ b ∨ b + sg.len ≤ a) →
        ∃ (s' : State) (m : Nat), exec (.copySegmentComplete n i none) s = .next s' ∧ 0 < m ∧ m ≤ sg.len ∧
          (∀ j, j < m → noTrace (b + j) → Mem.read s'.mem (b + j) = Mem.read s.mem (a + j)) ∧
          (∀ x, noTrace x → x < b ∨ b + m ≤ x → Mem.read s'.mem x = Mem.read s.mem x) ∧
          (m < sg.len → ∀ p, s'.asyOp n = some p → ∀ y ∈ p.segs, y.no = i → y = { sg.from m with acks := sg.acks }) ∧
          (m = sg.len → sg.acks = [] → ∀ p, s'.asyOp n = some p → ∀ y ∈ p.segs, y.no ≠ i))) ∧
    (∀ (o : TileOp), s.tileOp n = some o →
      (o.parked ≠ none ∨ o.pinWait = true ∨ o.acks ≠ [] ∨ s.tileBlocked o = true ∨ s.farWaits n = true →
        ∀ e, exec (.tileOperationComplete n e) s = .next s) ∧
      (o.parked = none → o.pinWait = false → o.acks = [] → s.tileBlocked o = false → s.farWaits n = false →
        (∀ e, exec (.tileOperationComplete n (some e)) s =
          .next (if o.canFail e then (s.failTile o e).dropFar n 0 else s)) ∧
        (s.farOf n 0 ≠ [] → exec (.tileOperationComplete n none) s = .next ((s.runTile o).dropFar n 0)) ∧
        (s.farOf n 0 = [] → ∀ (s1 : State) (ls : List (Nat × Nat × Nat × Nat × Bool × Bool)) (ps : List Piece),
          s.tileFar (s.groupAt o.group) o.gRuns = (s1, ls, ps) →
          exec (.tileOperationComplete n none) s = .next (if s.behind o.team n ps then s else if ls = [] then s.runTile o
            else s1.askFar (s.groupAt o.group).ctx n 0 ls)) ∧
        (∀ g, s.Inv → s.farOf n 0 = [] → o.minor = 8 → s.group o.group = some g → o.tile < g.tiles.length →
          ∃ (s' : State), exec (.tileOperationComplete n none) s = .next s' ∧ (∀ x ∈ s'.tops, x.id ≠ n) ∧
            ((s'.groupAt o.group).tile o.tile).valid = true ∧ ((s'.groupAt o.group).tile o.tile).bad = false ∧
            (∀ j, j < 65536 → noTrace (homeA o.group o.tile j) → Mem.read s'.mem (homeA o.group o.tile j) = 0) ∧
            (∀ x, noTrace x → x < homeA o.group o.tile 0 ∨ homeA o.group o.tile 65536 ≤ x → Mem.read s'.mem x = Mem.read s.mem x)))) ∧
    (∀ (at_ kind id : Nat) (m : List Nat), s.nextPin n = some (at_, m, kind, id) →
      (256 < (s.pinned n ++ m).dedup.length → exec (.tilePinGrant n) s = .next s) ∧
      ((s.pinned n ++ m).dedup.length ≤ 256 →
        (kind = 0 → exec (.tilePinGrant n) s = .next { s with tops := s.tops.map (fun (o : TileOp) =>
          if o.id = id then { o with pinWait := false, at_ := s.clk } else o) }) ∧
        (kind ≠ 0 → ∀ t : Team, s.team id = some t → ∃ (s' : State), exec (.tilePinGrant n) s = .next s' ∧
          s'.team id = some { t with st := .running, pinHeld := m, age := s.clk }))) ∧
    (((∀ o ∈ s.tops, o.core = n → o.parked = none → s.occupies o = true → s.clk - o.at_ < 2 ^ 20) →
        exec (.matrixEngineReset n) s = .next s) ∧
      ∀ (o : TileOp), o ∈ s.tops → o.core = n → o.parked = none → s.occupies o = true → 2 ^ 20 ≤ s.clk - o.at_ →
        ∃ (s' : State), exec (.matrixEngineReset n) s = .next s' ∧ (∀ x ∈ s'.tops, x.core = n → x.parked ≠ none) ∧
          ∀ x ∈ s.tops, x.core = n → x.parked = none → ((s'.groupAt x.group).tile x.tile).valid = false) ∧
    (∀ (o : AsyncOp) (sg : Seg) (bs : List Byte) (s1 s2 : State) (ps pd : List Page), s.asyOp n = some o → o.cls = 3 →
      o.segs = [sg] → o.fills = [] → sg.parked = none → sg.fail = none → sg.acks = [] → sg.len ≠ 0 → ∀ (k m : Nat) (g : Group),
      m = (collLens (o.coll.take 8) (membersOf (o.coll.drop 8)).length).2 →
      k = (if fld (o.coll.getD 0 0) 63 60 = 0 ∧ fld (o.coll.getD 0 0) 48 40 ≠ s.modl.modNo then 0
        else (collLens (o.coll.take 8) (membersOf (o.coll.drop 8)).length).1) → g = s.groupAt o.group →
      (o.own = none →
        (∀ f, s.xlateRun g.core g.ctx .load {} sg.src.toNat (pagesOf sg.src.toNat k) = (s1, .inl f) →
          exec (.collectiveComplete n bs) s = .next (s1.parkSeg n sg.no sg f) ∧
          exec (.copySegmentComplete n sg.no none) s = .next (s1.parkSeg n sg.no sg f)) ∧
        (s.xlateRun g.core g.ctx .load {} sg.src.toNat (pagesOf sg.src.toNat k) = (s1, .inr ps) →
          (s1.behind o.team n (piecesOf ps sg.src.toNat k) = true → exec (.collectiveComplete n bs) s = .next s1) ∧
          (s1.behind o.team n (piecesOf ps sg.src.toNat k) = false →
            (s1.badRun ps sg.src.toNat k ≠ [] → exec (.collectiveComplete n bs) s =
              .next (s1.parkSeg n sg.no sg (mkF .copySegment .dataError sg.src.toNat 0))) ∧
            (s1.badRun ps sg.src.toNat k = [] → ∃ (s' : State) (p : AsyncOp),
              exec (.copySegmentComplete n sg.no none) s = .next s' ∧ s'.asyOp n = some p ∧ p.own.isSome ∧ p.segs = [sg])))) ∧
      (o.own.isSome →
        (∀ f, s.xlateRun g.core g.ctx .store {} sg.dst.toNat (pagesOf sg.dst.toNat m) = (s2, .inl f) →
          exec (.collectiveComplete n bs) s = .next (s2.parkSeg n sg.no sg f)) ∧
        (s.xlateRun g.core g.ctx .store {} sg.dst.toNat (pagesOf sg.dst.toNat m) = (s2, .inr pd) → (∀ p ∈ pd, p.ap = 0) →
          ∃ (s' : State), exec (.collectiveComplete n bs) s = .next s' ∧ ∀ x ∈ s'.asy, x.id ≠ n))) ∧
    ((s.svcQueue n = [] → ∀ v, exec (.atomicServicePerform n v) s = .next s) ∧
      ∀ (r : SvcReq) (q : List SvcReq) (a : Access), s.Inv → s.svcQueue n = r :: q → svcGroup r (r :: q) = [r] →
      r.pkt = none → r.access = some i → s.acc.find? (fun (x : Access) => x.id == i) = some a → 1 < a.svc →
      (s.poisoned r.addr (atomSize r.ty) = true →
        ∃ (s' : State) (b : Access), exec (.atomicServicePerform n []) s = .next s' ∧ (∀ x ∈ s'.svc, x.id ≠ r.id) ∧
          s'.acc.find? (fun (x : Access) => x.id == i) = some b ∧ b.svc = a.svc - 1 ∧ b.bad = a.bad ++ [r.lane] ∧ s'.mem = s.mem) ∧
      (s.poisoned r.addr (atomSize r.ty) = false → ∀ old : Nat, old = leNat (Mem.readN s.mem r.addr (atomSize r.ty)) →
        ∃ (s' : State) (b : Access), exec (.atomicServicePerform n []) s = .next s' ∧ (∀ x ∈ s'.svc, x.id ≠ r.id) ∧
          s'.acc.find? (fun (x : Access) => x.id == i) = some b ∧ b.svc = a.svc - 1 ∧
          b.buf = a.buf ++ (enum (leBytes (atomSize r.ty) old)).map (fun x => (r.lane, x.1, x.2)) ∧
          (∀ v, atomNew r.op r.ty old r.data.toNat r.cmp.toNat = some v →
            Mem.readN s'.mem r.addr (atomSize r.ty) = leBytes (atomSize r.ty) v) ∧
          (atomNew r.op r.ty old r.data.toNat r.cmp.toNat = none → s'.mem = s.mem)))

/-- A fault parks its team: record, saved PC and word offset, image, state; loads open, no place, no save area (R66, R462, R463, R466, R468, R394, R469, R473).
How an image fits the spill space is the model's reading, notes/assumptions/34.md. -/
def Obligations.TakingAFault : Prop :=
  ∀ (s : State) (t : Team) (f : FaultInfo), s.team t.key = some t →
    (s.openLoads t.key = true → ∃ u : Team, (s.park t f).team t.key = some u ∧ u.st = .parking f ∧ u.regs = t.regs ∧
      (s.park t f).recs = s.recs ∧ (s.park t f).mem = s.mem ∧ (s.park t f).cur ≠ some t.key) ∧
    (s.openLoads t.key = false → t.depth = 3 → s.park t f = s.escalate t) ∧
    (s.openLoads t.key = false → t.depth ≠ 3 →
      s.barPlace (dieOf (s.groupOf t).core) (s.ctx (s.ctxOf t)).part t.depth (if f.cls.isFp then 4 else 1) = none →
      (t.depth ≠ 0 → s.park t f = s.escalate t) ∧
      (t.depth = 0 → ∀ d i : Nat,
        (s.killTeam t).barPlace (dieOf (s.groupOf t).core) (s.ctx (s.ctxOf t)).part 1 1 = some (d, i) →
        ∃ r ∈ (s.park t f).recs, r.die = d ∧ r.idx = i ∧ r.st = .report ∧ r.fault = mkF .unserviceable .barFull 0 2 ∧
          r.tid = t.tid ∧ r.ctx = s.ctxOf t)) ∧
    (s.openLoads t.key = false → t.depth ≠ 3 →
      ∀ (d i : Nat),
        s.barPlace (dieOf (s.groupOf t).core) (s.ctx (s.ctxOf t)).part t.depth (if f.cls.isFp then 4 else 1) = some (d, i) →
        (∀ (va : Nat) (s1 : State), t.st ≠ .swapped → s.saveVa (s.ctxOf t) (s.groupOf t).core t.place = some va →
          s.vaWrite (s.groupOf t).core (s.ctxOf t) va (t.image s.clk) = (s1, none) →
          ∃ (r : Rec) (u : Team), r ∈ (s.park t f).recs ∧ r.die = d ∧ r.idx = i ∧
            r.st = (if (s.openSet (s.ctxOf t) f.page f.cls).isSome then .member else .parked) ∧
            r.kind = .team ∧ r.fault = f ∧
            r.pc = t.pc ∧ r.woff = t.woff ∧ r.depth = t.depth ∧ r.ctx = s.ctxOf t ∧ r.rimg = true ∧
            r.imgva = BitVec.ofNat 64 va ∧ r.waits = s.openStores t.key ∧ (s.park t f).team t.key = some u ∧
            u.st = .parked r.id ∧ u.regs = t.regs ∧ u.clause = none ∧ (s.park t f).cur ≠ some t.key) ∧
        (t.st = .swapped → ∃ (r : Rec) (u : Team), r ∈ (s.park t f).recs ∧ r.die = d ∧ r.idx = i ∧ r.fault = f ∧ r.pc = t.pc ∧
          r.woff = t.woff ∧ r.rimg = true ∧
          r.imgva = BitVec.ofNat 64 ((s.saveVa (s.ctxOf t) (s.groupOf t).core t.place).getD 0) ∧
          (s.park t f).team t.key = some u ∧ u.st = .parked r.id ∧ u.regs = t.regs) ∧
        (∀ off : Nat, t.st ≠ .swapped → s.saveVa (s.ctxOf t) (s.groupOf t).core t.place = none →
          firstFree ((s.recs.filter (fun r => r.spill ≠ 0 && r.die == d)).map (fun r => (r.imgva.toNat, r.spill))) 0 (2 ^ 24)
            (imageMax t.width t.vcnt) = some off →
          ∃ (r : Rec) (u : Team), r ∈ (s.park t f).recs ∧ r.die = d ∧ r.idx = i ∧ r.fault = mkF .unserviceable .none 0 1 ∧
            r.pc = t.pc ∧ r.woff = t.woff ∧ r.rimg = false ∧ r.imgva = BitVec.ofNat 64 off ∧
            r.spill = imageMax t.width t.vcnt ∧
            (∀ b, noTrace b → Mem.read (s.park t f).mem b = Mem.read (Mem.writeN s.mem (homeB d off) (t.image s.clk)) b) ∧
            (s.park t f).team t.key = some u ∧ u.st = .parked r.id ∧ u.regs = t.regs))

/-- Fault tasks, the Deck, deadlines, budgets, the watchdog, the stalemate monitor, context reset (R470, R471, R472, R433, R52, R434, R49, R474, R48, R439, R443, R444).
Which registers a context reset leaves is the model's reading, notes/assumptions/9.md, and so are how a freeze goes on, 47.md, which teams count as resident, 48.md, and what a record without entry follows, 79.md; a task's queueing time is its choice, 64.md. -/
def Obligations.FaultAndDeckEvents : Prop :=
  ∀ (s : State) (n : Nat),
    (∀ (r : Rec), s.recs.find? (fun (x : Rec) => x.id == n) = some r →
      (r.raised = true ∨ r.waits ≠ [] ∨ r.st = .member → exec (.faultTaskRaise n) s = .next s) ∧
      (r.raised = false → r.waits = [] → r.st ≠ .member → ∀ s1 : State, s1 = s.putRec { r with raised := true } →
        (∀ d p, r.entry = some d →
          p = ({ bar := r.id, cls := r.frz.getD r.fault.cls, desc := d, parkt := r.parkt, escalated := false, sent := none } : PendTask) →
          exec (.faultTaskRaise n) s = .next ({ s1 with pend := s1.pend ++ [p] }.sendNext (s1.pendDest p))) ∧
        (r.entry = none →
          (r.fault.cls = .watchdog ∨ r.fault.cls = .stalemate → exec (.faultTaskRaise n) s = .next (s1.askReset r.ctx)) ∧
          (r.fault.cls = .deadlineExpired → exec (.faultTaskRaise n) s = .next (s1.freeRec r)) ∧
          (r.fault.cls ≠ .watchdog → r.fault.cls ≠ .stalemate → r.fault.cls ≠ .deadlineExpired →
            exec (.faultTaskRaise n) s = .next (s1.escalateRec r r.fault.cls))))) ∧
    (∀ (p : PendTask) (r : Rec), s.pend = [p] → p.sent = none → s.inTasks = [] →
      s.recs.find? (fun (x : Rec) => x.id == p.bar) = some r →
      (∀ m, p.cls ≠ .unserviceable → descPeer p.desc = some m → m ≠ s.modl.modNo → m ∈ s.modl.modules →
        ∃ (s' : State), exec .pendingFaultTaskSend s = .next s' ∧ s'.pend = [{ p with sent := some s.clk, rid := BitVec.ofNat 32 s.uid }] ∧ s'.tasks = s.tasks) ∧
      (p.cls = .unserviceable ∨ descPeer p.desc = none →
        (s.bankFree r.die 16 = none → exec .pendingFaultTaskSend s = .next s) ∧
        (∀ die bank i, s.bankFree r.die 16 = some (die, bank, i) →
          (s.ctx (taskCtx (s.faultDws r p.cls p.desc))).rst = 0 → taskXd (s.faultDws r p.cls p.desc) = false →
          ∃ (s' : State) (t : Task), exec .pendingFaultTaskSend s = .next s' ∧ s'.tasks = s.tasks ++ [t] ∧ t.bank = 16 ∧ t.idx = i ∧
            t.die = r.die ∧ t.dws = s.faultDws r p.cls p.desc ∧ s'.pend = []))) ∧
    (∀ (x : Packet × LaneMsg × Nat) (q : List (Packet × LaneMsg × Nat)), s.pend = [] → s.inTasks = x :: q →
      exec .pendingFaultTaskSend s = .next (s.takeIn x.1 x.2.1 x.2.2)) ∧
    (∀ (p : Packet) (dws : List Dw) (sl : Bool) (rm since : Nat), s.inTasks[n]? = some (p, .faultTask dws sl rm, since) →
      (s.clk - since ≤ 20 * Config.clkPerUs ∨ (s.bankFree 0 16).isSome = true ∨ (s.bankFree 1 16).isSome = true →
        exec (.faultBankFullRefusal n) s = .next s) ∧
      (20 * Config.clkPerUs < s.clk - since → s.bankFree 0 16 = none → s.bankFree 1 16 = none →
        exec (.faultBankFullRefusal n) s =
          .next (({ s with inTasks := s.inTasks.eraseIdx n }).answerTask p dws false))) ∧
    ((s.dispatchFor n = none → exec (.deckDispatch n) s = .next s) ∧ ∀ (t : Task), s.dispatchFor n = some t →
      ((s.core n).hand.length < 2 →
        ∃ (s' : State), exec (.deckDispatch n) s = .next s' ∧ (s'.core n).hand = (s.core n).hand ++ [t.id] ∧
          (∀ x ∈ s'.tasks, x.id = t.id → x.st = .hand n) ∧
          ∀ k u, s.team k = some u → ∃ v, s'.team k = some v ∧ v.regs = u.regs ∧ v.pc = u.pc) ∧
      (∀ (i : Nat) (y : Task), 2 ≤ (s.core n).hand.length → s.recallOf t n = some i → s.task i = some y → i ≠ t.id →
        ∃ (s' : State), exec (.deckDispatch n) s = .next s' ∧
          (s'.core n).hand = (s.core n).hand.filter (fun j => j != i) ++ [t.id] ∧
          (∀ x ∈ s'.tasks, x.id = t.id → x.st = .hand n) ∧ ∀ x ∈ s'.tasks, x.id = i → x.st = .ready)) ∧
    ((s.startable n = none → exec (.taskStart n) s = .next s) ∧ ∀ (t : Task), s.startable n = some t →
      ∃ (s' : State) (g : Group), exec (.taskStart n) s = .next s' ∧ g ∈ s'.groups ∧
        g.origin = .task t.id ∧ g.core = n ∧ g.ctx = (s.tspec t).ctx ∧ (∀ x ∈ s'.tasks, x.id = t.id → x.st = .running) ∧
        t.id ∉ (s'.core n).hand) ∧
    (∃ (s' : State), exec .deckAging s = .next s' ∧ s'.tasks.length = s.tasks.length ∧ ∀ i (h : i < s.tasks.length), s'.tasks[i]? =
      some (if s.aged s.tasks[i] then { s.tasks[i] with level := s.tasks[i].level - 1, promoted := true } else s.tasks[i])) ∧
    (∀ (t : Task), s.task n = some t →
      (t.bank = 16 ∨ s.taskLate t = false → exec (.taskDeadlineExpiry n) s = .next s) ∧
      (t.bank ≠ 16 → s.taskLate t = true →
        ∃ (s' : State), exec (.taskDeadlineExpiry n) s = .next s' ∧ (∀ x ∈ s'.tasks, x.id ≠ n) ∧
          ∀ d i, s.barPlace t.die (s.ctx (taskCtx t.dws)).part 0 1 = some (d, i) →
            ∃ r ∈ s'.recs, r.die = d ∧ r.idx = i ∧ r.st = .report ∧ r.fault.cls = .deadlineExpired ∧ r.ctx = taskCtx t.dws)) ∧
    (∀ (r : Rec), s.recs.find? (fun (x : Rec) => x.id == n) = some r →
      (r.deadline = 0 ∨ s.usec < r.deadline → exec (.recordDeadlineExpiry n) s = .next s) ∧
      (r.deadline ≠ 0 → r.deadline ≤ s.usec →
        (r.st = .report → exec (.recordDeadlineExpiry n) s = .next (s.freeRec r)) ∧
        (r.st ≠ .report → ∃ (s' : State) (q : Rec), exec (.recordDeadlineExpiry n) s = .next s' ∧ q ∈ s'.recs ∧ q.die = r.die ∧
          q.idx = r.idx ∧ q.st = .report ∧ q.fault.cls = .deadlineExpired))) ∧
    (∀ (t : Task), s.task n = some t →
      (t.bank ≠ 16 ∨ s.taskLate t = false → exec (.faultTaskDeadlineExpiry n) s = .next s) ∧
      (t.bank = 16 → s.taskLate t = true → exec (.faultTaskDeadlineExpiry n) s = .next (s.dropTask t.id))) ∧
    (∀ (g : Group), s.group n = some g →
      (g.budget ≠ some 0 ∨ g.expired = true → exec (.runBudgetExpiry n) s = .next s) ∧
      (g.budget = some 0 → g.expired = false →
        ∃ (s' : State), exec (.runBudgetExpiry n) s = .next s' ∧ (s'.group n).map (fun (x : Group) => x.expired) = some true ∧
          ∀ k t, s.team k = some t → t.gslot = n → t.isEnded = false →
            s'.team k = some { t with due := t.due ++ [budgetF (2 ^ g.budLog) s.uid] })) ∧
    (∀ (t : Team), s.team n = some t →
      (t.pdOut s.clk = false ∨ t.holds = false → exec (.disableBudgetExpiry n) s = .next s) ∧
      (t.pdOut s.clk = true → t.holds = true → exec (.disableBudgetExpiry n) s =
        .next ((s.fresh.1).putTeam { t with pdis := false, pdLeft := 0, due := t.due ++ [budgetF (s.groupOf t).pdBud s.uid] }))) ∧
    (∀ (b : Barrier) (c : Nat), s.bars.find? (fun (x : Barrier) => x.key == b.key) = some b → s.barCtx b = some c →
      (s.barLate b = false → exec (.barrierWatchdogExpiry b.key) s = .next s) ∧
      (s.barLate b = true → (s.ctx c).freeze = none → (s.ctx c).rst = 0 →
        ∃ (s' : State) (z : Freeze), exec (.barrierWatchdogExpiry b.key) s = .next s' ∧ (s'.ctx c).frozen = some .watchdog ∧
          (s'.ctx c).freeze = some z ∧ z.bar = some b.key ∧ z.f.cls = .watchdog ∧ s'.teams = s.teams ∧
          ∀ x ∈ s'.bars, s.barCtx x = some c → x.start = none)) ∧
    ((s.stale n = false → exec (.stalemate n) s = .next s) ∧
      (s.stale n = true → ∀ (c : Nat), (s.ctxsOf n).filter s.resident = [c] → (s.ctx c).freeze = none → (s.ctx c).rst = 0 →
        ∃ (s' : State) (z : Freeze), exec (.stalemate n) s = .next s' ∧ (s'.ctx c).frozen = some .stalemate ∧
          (s'.ctx c).freeze = some z ∧ z.f.cls = .stalemate ∧ s'.teams = s.teams) ∧
      (s.stale n = true → (s.ctxsOf n).filter s.resident = [] → ∀ (c : Nat), (s.ctxsOf n).filter s.queuedWork = [c] →
        (s.ctx c).rst = 0 → ∃ (s' : State), exec (.stalemate n) s = .next s' ∧ (s'.ctx c).rst = 1)) ∧
    (∃ (s' : State), exec (.contextReset n) s = .next s' ∧
      (s'.ctx n).rst = (if (s.ctx n).rst = 0 then 1 else (s.ctx n).rst) ∧ s'.mem = s.mem ∧ s'.teams = s.teams) ∧
    ((s.ctx n).rst = 0 → exec (.contextResetProgress n) s = .next s) ∧
    ((s.ctx n).rst = 1 → ∃ (s' : State), exec (.contextResetProgress n) s = .next s' ∧ (s'.ctx n).rst = 2 ∧
      (s'.ctx n).frozen = none ∧ (s'.ctx n).freeze = none) ∧
    ((s.ctx n).rst = 2 → ∃ (s' : State), exec (.contextResetProgress n) s = .next s' ∧ (s'.ctx n).rst = 3 ∧
      ∀ k u, s'.team k = some u → s'.ctxOf u = n → u.isEnded = true) ∧
    ((s.ctx n).rst = 3 →
      ((s.rstSettle n).rstSettled n = false → exec (.contextResetProgress n) s = .next (s.rstSettle n)) ∧
      ((s.rstSettle n).rstSettled n = true → exec (.contextResetProgress n) s =
        .next ((s.rstSettle n).modCtx n (fun x => { x with rst := 4 })))) ∧
    ((s.ctx n).rst = 4 → ∃ (s' : State), exec (.contextResetProgress n) s = .next s' ∧ (s'.ctx n).rst = 0 ∧
      (s'.ctx n).en = (s.ctx n).en ∧ (∀ r ∈ s'.recs, r.ctx ≠ n) ∧ (∀ t ∈ s'.tasks, taskCtx t.dws ≠ n) ∧
      (∀ l ∈ s'.launches, l.ctx ≠ n) ∧ (∀ e ∈ s'.dfl, e.ctx ≠ n))

/-- Enabling and disabling contexts, partitions and launch queues; grants, windows, announcements (R497, R392, R494, R495, R393, R336, R108, R516, R414, R493).
The checks of a sealing and of KIDs are the model's reading, notes/assumptions/27.md and 28.md, and so is what goes when a queue stops, 33.md. -/
def Obligations.ControlRegisterEvents : Prop :=
  ∀ (s : State) (c k : Nat) (v : Dw),
    ((∀ e, s.setCtl false c (setFld (s.ctx c).ctl 63 63 1) = .error e → exec (.contextEnable c) s = .next s) ∧
      (∀ e, s.setCtl false c (setFld (s.ctx c).ctl 63 63 0) = .error e → exec (.contextDisable c) s = .next s) ∧
      (∀ e, s.setPart c 0 (setFld (s.part c).ctl 63 63 1) = .error e →
        exec (.partitionEnable c) s = .next s ∧ exec (.partitionSeal c) s = .next s) ∧
      (∀ e, s.setPart c 0 (setFld (s.part c).ctl 63 63 0) = .error e → exec (.partitionDisable c) s = .next s)) ∧
    ((s.ctx c).en = false → fld (setFld (s.ctx c).ctl 63 63 1) 61 60 ≠ 3 → fld (setFld (s.ctx c).ctl 63 63 1) 20 0 ≤ 2 ^ 20 →
      s.kidBad (setFld (s.ctx c).ctl 63 63 1) = false →
      ∃ (s' : State), exec (.contextEnable c) s = .next s' ∧ (s'.ctx c).en = true ∧ (s'.ctx c).run = (s.ctx c).detm ∧
        s'.mem = s.mem ∧ ∀ j, j ≠ c → s'.ctx j = s.ctx j) ∧
    ((s.ctx c).en = true → (s.ctx c).priv ≠ 3 → (s.ctx c).pdbud ≤ 2 ^ 20 → s.kidBad (setFld (s.ctx c).ctl 63 63 0) = false →
      ∃ (s' : State), exec (.contextDisable c) s = .next s' ∧ (s'.ctx c).en = false ∧ (s'.ctx c).run = false ∧
        ∀ l ∈ s'.launches, l.ctx = c → s'.begun l = true) ∧
    ((s.part c).en = false → (s.part c).sealBit = false → c < s.parts.length → (s.part c).lend ≠ 3 →
      s.partClash c { s.part c with ctl := setFld (s.part c).ctl 63 63 1 &&& 0xF000000000FFFFFF } = false →
      ∃ (s' : State), exec (.partitionEnable c) s = .next s' ∧ (s'.part c).en = true ∧ s'.mem = s.mem) ∧
    ((s.part c).en = false → (s.part c).sealBit = true → c < s.parts.length → (s.part c).lend ≠ 3 →
      s.partClash c { s.part c with ctl := setFld (s.part c).ctl 63 63 1 &&& 0xF000000000FFFFFF } = false → s.kidsOk c = true →
      ∀ s1, s.sealPart c { s.part c with ctl := setFld (s.part c).ctl 63 63 1 &&& 0xF000000000FFFFFF } = .ok s1 →
        exec (.partitionSeal c) s = .next s1 ∧ (s1.part c).isSealed = true) ∧
    ((s.part c).en = true → (s.part c).lend ≠ 3 → (s.part c).ctl &&& 0xF000000000FFFFFF = (s.part c).ctl →
      ∃ (s' : State), exec (.partitionDisable c) s = .next s' ∧ (s'.part c).en = false) ∧
    (k < 8 → (∀ e, s.setRange c k v = .error e → exec (.hRangeGrant c k v) s = .next s) ∧
      (∀ s1, s.setRange c k v = .ok s1 → exec (.hRangeGrant c k v) s = .next s1 ∧
        (s1.ctx c).hr.toList.getD k 0 = v &&& 0x80003FFF1FFF0000 ∧ s1.mem = s.mem)) ∧
    (∃ (s' : State), exec (.reclaimGroupDesignate c v) s = .next s' ∧ (s'.ctx c).rq = v &&& 0x8000000000001FFF ∧ s'.mem = s.mem) ∧
    (((s.group c).isSome → fld v 62 52 ≤ 1024 → exec (.groupOverflowWrite c v) s =
      .next (s.modGroup c (fun (x : Group) => { x with ovReg := v &&& 0x7FFFFFFFFFFF0000 }))) ∧
      (s.group c = none ∨ 1024 < fld v 62 52 → exec (.groupOverflowWrite c v) s = .next s)) ∧
    ((fld v 8 0 ≤ 500 → ∃ (s' : State), exec (.fabannWrite v) s = .next s' ∧ s'.modl.fabann = v &&& 0x1FF ∧ s'.mem = s.mem) ∧
      (500 < fld v 8 0 → exec (.fabannWrite v) s = .next s)) ∧
    (flag ((s.ctx c).lq.toList.getD k 0) 63 = false → (s.ctx c).rst = 0 → k < 4 →
      ∃ (s' : State) (x : LaunchQ), exec (.launchQueueEnable c k v) s = .next s' ∧ s'.lq c k = some x ∧
        x.page = fld v 51 12 * 4096 ∧ x.posted = [] ∧ x.sigcnt = 0) ∧
    (∀ (x : LaunchQ), k < 4 → flag ((s.ctx c).lq.toList.getD k 0) 63 = true → s.lq c k = some x →
      (x.acks ≠ [] → ∃ (s' : State), exec (.launchQueueDisable c k) s = .next s' ∧
          s'.lq c k = some { x with posted := [], closing := true }) ∧
      (x.acks = [] → (2 ≤ x.state ∨ x.cur = none) →
        ∃ (s' : State) (y : LaunchQ), exec (.launchQueueDisable c k) s = .next s' ∧ s'.lq c k = some y ∧ y.state = 3 ∧
          y.posted = [] ∧ y.frames = [] ∧ y.cur = none ∧ y.closing = false) ∧
      (∀ va d, x.state < 2 → x.acks = [] → x.cur = some (va, d) →
        (s.pktReady x d = false → ∃ (s' : State), exec (.launchQueueDisable c k) s = .next s' ∧
          s'.lq c k = some { x with posted := [], closing := true }) ∧
        (s.pktReady x d = true → pktType d = 9 → x.sigs = [] → x.sigDue = false →
          ∃ (s' : State) (y : LaunchQ), exec (.launchQueueDisable c k) s = .next s' ∧ s'.lq c k = some y ∧ y.state = 3 ∧
            y.posted = [] ∧ y.frames = [] ∧ y.cur = none ∧ y.closing = false)))

/-- What each packet of a command chain does, and how a queue goes on (R422, R417, R419, R421, R425, R426, R428, R427, R536).
Which packet errors are code 3, what is fetched ahead and what the distributor takes first are the model's reading, notes/assumptions/23.md, 24.md and 25.md; LOOP over the end of a buffer and a skip count left over are its choice, 106.md. -/
def Obligations.FrontEndEvents : Prop :=
  ∀ (s s0 : State) (c q va : Nat) (d : List Dw) (x y : LaunchQ),
    (s.lq c q = some y → y.cur = some (va, d) →
      (2 ≤ y.state ∨ pktType d ≠ 1 → exec (.launch c q) s = .next s) ∧
    (2 ≤ y.state ∨ pktType d ≠ 2 → exec (.ib c q) s = .next s) ∧
    (2 ≤ y.state ∨ pktType d ≠ 3 → exec (.pred c q) s = .next s) ∧
    (2 ≤ y.state ∨ pktType d ≠ 4 → exec (.loop c q) s = .next s) ∧
    (2 ≤ y.state ∨ pktType d ≠ 5 → exec (.wrmem c q) s = .next s) ∧
    (2 ≤ y.state ∨ pktType d ≠ 6 → exec (.waitmem c q) s = .next s) ∧
    (2 ≤ y.state ∨ pktType d ≠ 7 → exec (.ffence c q) s = .next s) ∧
    (2 ≤ y.state ∨ pktType d ≠ 9 → exec (.nopPacket c q) s = .next s) ∧
    (2 ≤ y.state ∨ pktType d ≠ 10 → exec (.link c q) s = .next s)) ∧
    (s.lq c q = some y → y.cur = some (va, d) → y.state < 2 → s0 = s.handPosted c q → s0.lq c q = some x → s0.pktReady x d = false →
      (pktType d = 1 → exec (.launch c q) s = .next s0) ∧
    (pktType d = 2 → exec (.ib c q) s = .next s0) ∧
    (pktType d = 3 → exec (.pred c q) s = .next s0) ∧
    (pktType d = 4 → exec (.loop c q) s = .next s0) ∧
    (pktType d = 5 → exec (.wrmem c q) s = .next s0) ∧
    (pktType d = 6 → exec (.waitmem c q) s = .next s0) ∧
    (pktType d = 7 → exec (.ffence c q) s = .next s0) ∧
    (pktType d = 9 → exec (.nopPacket c q) s = .next s0) ∧
    (pktType d = 10 → exec (.link c q) s = .next s0)) ∧
    (y.closing = false → y.state < 2 → s.lq c q = some y → y.cur = some (va, d) → s0 = s.handPosted c q → s0.lq c q = some x → x.closing = false → x.cur = some (va, d) →
      s0.pktReady x d = true → pktType d = 1 →
      (s0.launchError x.ctx d = none → ∃ (s' : State) (l : Launch), exec (.launch c q) s = .next s' ∧ l ∈ s'.launches ∧
        l.dws = d ∧ l.ctx = c ∧ l.arrival = s.clk) ∧
      (∀ e, s0.launchError x.ctx d = some e → ∃ (s' : State) (y : LaunchQ), exec (.launch c q) s = .next s' ∧
        s'.lq c q = some y ∧ y.lerr = e ∧ y.lseq = pktSeq d)) ∧
    (y.closing = false → y.state < 2 → s.lq c q = some y → y.cur = some (va, d) → s0 = s.handPosted c q → s0.lq c q = some x → x.closing = false → x.cur = some (va, d) →
      s0.pktReady x d = true → pktType d = 2 → (x.frames.length < 3 → exec (.ib c q) s = .next (s0.feDone { x with frames := Frame.init (some (d.getD 1 0).toNat) va va ((d.getD 2 0).setWidth 32) (some (fld (d.getD 2 0) 63 32))
        :: x.frames })) ∧ (3 ≤ x.frames.length → exec (.ib c q) s = .next (s0.pktFault x 4))) ∧
    (y.closing = false → y.state < 2 → s.lq c q = some y → y.cur = some (va, d) → s0 = s.handPosted c q → s0.lq c q = some x → x.closing = false → x.cur = some (va, d) →
      s0.pktReady x d = true → pktType d = 3 → ∀ (s1 : State),
      (∀ (m : Dw), s0.feRead x.ctx (d.getD 1 0).toNat = (s1, some m) →
        exec (.pred c q) s = .next (s1.feDone (if pktCmp d m then x.skip (pktN d) else x))) ∧
      (s0.feRead x.ctx (d.getD 1 0).toNat = (s1, none) → exec (.pred c q) s = .next (s1.pktFault x 7))) ∧
    (y.closing = false → y.state < 2 → s.lq c q = some y → y.cur = some (va, d) → s0 = s.handPosted c q → s0.lq c q = some x → x.closing = false → x.cur = some (va, d) →
      s0.pktReady x d = true → pktType d = 4 → ∀ (f g : Frame) (r : List Frame) (s1 : State), x.frames = f :: r →
      (f.body ≠ [] → exec (.loop c q) s = .next (s0.pktFault x 6)) ∧
      (f.body = [] → s0.feAhead x.ctx f 8 = (s1, g) → (g.ahead.take (pktN d)).length = pktN d →
        (g.ahead.take (pktN d)).any (fun p => pktType p.2 == 4 || pktType p.2 == 10) = false →
        exec (.loop c q) s = .next (s1.feDone { x with
          reread := 0
          frames := { g with
            ahead := g.ahead.drop (pktN d)
            body := if fld (d.getD 1 0) 7 0 = 0 then [] else g.ahead.take (pktN d)
            at_ := 0
            passes := fld (d.getD 1 0) 7 0 } :: r }))) ∧
    (y.closing = false → y.state < 2 → s.lq c q = some y → y.cur = some (va, d) → s0 = s.handPosted c q → s0.lq c q = some x → x.closing = false → x.cur = some (va, d) →
      s0.pktReady x d = true → pktType d = 5 → ∀ (s1 : State),
      (∀ (acks : List Wd), s0.feWrite x.ctx (d.getD 1 0).toNat (d.getD 2 0) = (s1, some acks) →
        exec (.wrmem c q) s = .next (s1.feDone { x with acks := x.acks ++ acks })) ∧
      (s0.feWrite x.ctx (d.getD 1 0).toNat (d.getD 2 0) = (s1, none) → exec (.wrmem c q) s = .next (s1.pktFault x 7))) ∧
    (y.closing = false → y.state < 2 → s.lq c q = some y → y.cur = some (va, d) → s0 = s.handPosted c q → s0.lq c q = some x → x.closing = false → x.cur = some (va, d) →
      s0.pktReady x d = true → pktType d = 6 → ∀ (s1 : State) (m : Dw), s0.feRead x.ctx (d.getD 1 0).toNat = (s1, some m) →
      (pktCmp d m = true → exec (.waitmem c q) s = .next (s1.feDone x)) ∧
      (pktCmp d m = false → exec (.waitmem c q) s = .next (if x.state = 0 then s1.feState x else s1.putLq x))) ∧
    (y.closing = false → y.state < 2 → s.lq c q = some y → y.cur = some (va, d) → s0 = s.handPosted c q → s0.lq c q = some x → x.closing = false → x.cur = some (va, d) →
      s0.pktReady x d = true → pktType d = 7 → exec (.ffence c q) s = .next (s0.feDone { x with frames := x.frames.map Frame.fence })) ∧
    (y.closing = false → y.state < 2 → s.lq c q = some y → y.cur = some (va, d) → s0 = s.handPosted c q → s0.lq c q = some x → x.closing = false → x.cur = some (va, d) →
      s0.pktReady x d = true → pktType d = 8 → exec (.tlsig c q) s =
        .next ((s0.feDone { x with sigs := x.sigs ++ [(va, (d.getD 1 0).toNat, x.launched)] }).feSig c q)) ∧
    (y.closing = false → y.state < 2 → s.lq c q = some y → y.cur = some (va, d) → s0 = s.handPosted c q → s0.lq c q = some x → x.closing = false → x.cur = some (va, d) →
      s0.pktReady x d = true → pktType d = 9 → exec (.nopPacket c q) s = .next (s0.feDone x)) ∧
    (y.closing = false → y.state < 2 → s.lq c q = some y → y.cur = some (va, d) → s0 = s.handPosted c q → s0.lq c q = some x → x.closing = false → x.cur = some (va, d) →
      s0.pktReady x d = true → pktType d = 10 → exec (.link c q) s = .next (s0.feDone x)) ∧
    (s.lq c q = some x →
      (2 ≤ x.state ∧ x.closing = false ∨ x.reread ≠ 0 → exec (.frontEndMonitorWake c q) s = .next s) ∧
      (x.state < 2 ∨ x.closing = true → x.reread = 0 →
        (x.cur = none → x.acks ≠ [] → exec (.frontEndMonitorWake c q) s = .next s) ∧
        (x.cur = none → x.acks = [] →
          exec (.frontEndMonitorWake c q) s = .next (if x.closing then s.lqEnd x else s.feRest c q)) ∧
        (x.cur = some (va, d) → pktType d = 6 → exec (.frontEndMonitorWake c q) s = exec (.waitmem c q) s) ∧
        (x.cur = some (va, d) → pktType d = 4 → x.state = 0 → exec (.frontEndMonitorWake c q) s = exec (.loop c q) s))) ∧
    (s.lq c q = some x →
      (s.rereadDue x = false ∨ x.acks ≠ [] → exec (.commandSeqReread c q) s = .next s) ∧
      (s.rereadDue x = true → x.acks = [] →
        (x.cur = none → exec (.commandSeqReread c q) s = .next ((s.feGo x feFuel).feMissed c q x.reread x.firstRead)) ∧
        (x.cur = some (va, d) → pktType d = 4 →
          exec (.commandSeqReread c q) s = .next ((s.pktRun c q 4).feMissed c q x.reread x.firstRead)))) ∧
    (s.lq c q = some x → (s.ctx c).en = true → (s.ctx c).rst = 0 →
      ∃ (s' : State), exec (.postedLaunchHandover c q) s = .next s' ∧ ∀ p ∈ x.posted, s.over p.2.1 = true →
        ∃ l ∈ s'.launches, l.dws = p.1 ∧ l.parents = p.2.2 ∧ l.ctx = c) ∧
    ((s.headLaunch c = none → exec (.placementStep c) s = .next s) ∧
      ∀ (l : Launch), s.headLaunch c = some l → exec (.placementStep c) s = .next ((s.placeUpTo l.id 16).startGangs l.id))

/-- What a received packet does, and the acknowledgements, retransmissions, timeouts and ports of the fabric (R506, R509, R510, R511, R512, R513, R514, R515, R472, R408, R508, R507).
The payload of fault-lane messages and the form of a refusal are PRESUMED, notes/assumptions/32.md and 35.md; a PSN above the window and what counts as an arrival are the model's reading, 69.md and 70.md; the messages about records are its choice, 93.md. -/
def Obligations.FabricEvents : Prop :=
  ∀ (s : State) (p : Packet) (m : Nat),
    (s.modl.stage < 8 →
      (exec (.readRequest p) s = .next s) ∧
    (exec (.write p) s = .next s) ∧
    (exec (.atomicRequest p) s = .next s) ∧
    (exec (.readReply p) s = .next s) ∧
    (exec (.atomicReply p) s = .next s) ∧
    (exec (.recoveryAnnouncement p) s = .next s) ∧
    (exec (.acknowledgement p) s = .next s) ∧
    (∀ msg, exec (.faultLaneMessage p msg) s = .next s)) ∧
    (8 ≤ s.modl.stage → 
      (s.fit p 0 = false → exec (.readRequest p) s = .next s.dropPkt) ∧
    (s.fit p 2 = false → exec (.write p) s = .next s.dropPkt) ∧
    (s.fit p 3 = false → exec (.atomicRequest p) s = .next s.dropPkt) ∧
    (s.fit p 1 = false → exec (.readReply p) s = .next s.dropPkt) ∧
    (s.fit p 4 = false → exec (.atomicReply p) s = .next s.dropPkt) ∧
    (s.fit p 7 = false → exec (.recoveryAnnouncement p) s = .next s.dropPkt) ∧
    (s.fit p 5 = false → exec (.acknowledgement p) s = .next s.dropPkt) ∧
    (∀ msg, s.fit p 6 = false → exec (.faultLaneMessage p msg) s = .next s.dropPkt)) ∧
    (8 ≤ s.modl.stage → (psnBelow p.psn ((s.peer p.src).rx p.lane).base || ((s.peer p.src).rx p.lane).got.contains p.psn.toNat || s.standing p) = true →
      (s.fit p 0 = true → exec (.readRequest p) s = .next (s.modPeer p.src (fun x => x.modRx p.lane (fun y => y.count p.cm s.clk)))) ∧
    (s.fit p 2 = true → exec (.write p) s = .next (s.modPeer p.src (fun x => x.modRx p.lane (fun y => y.count p.cm s.clk)))) ∧
    (s.fit p 3 = true → exec (.atomicRequest p) s = .next (s.modPeer p.src (fun x => x.modRx p.lane (fun y => y.count p.cm s.clk)))) ∧
    (s.fit p 1 = true → exec (.readReply p) s = .next (s.modPeer p.src (fun x => x.modRx p.lane (fun y => y.count p.cm s.clk)))) ∧
    (s.fit p 4 = true → exec (.atomicReply p) s = .next (s.modPeer p.src (fun x => x.modRx p.lane (fun y => y.count p.cm s.clk)))) ∧
    (s.fit p 7 = true → exec (.recoveryAnnouncement p) s = .next (s.modPeer p.src (fun x => x.modRx p.lane (fun y => y.count p.cm s.clk)))) ∧
    (∀ msg, s.fit p 6 = true → exec (.faultLaneMessage p msg) s =
      .next (s.modPeer p.src (fun x => x.modRx p.lane (fun y => y.count p.cm s.clk))))) ∧
    (((p.psn - ((s.peer p.src).rx p.lane).base).toNat ≤ 255) → 8 ≤ s.modl.stage → (psnBelow p.psn ((s.peer p.src).rx p.lane).base || ((s.peer p.src).rx p.lane).got.contains p.psn.toNat || s.standing p) = false →
      ((s.peer p.src).rx p.lane).held = [] → s.refuses p = false → p.so = true →
      p.psn ≠ ((s.peer p.src).rx p.lane).base →
      (s.fit p 0 = true → ∃ (s' : State), exec (.readRequest p) s = .next s' ∧ p ∈ ((s'.peer p.src).rx p.lane).held ∧ s'.mem = s.mem ∧ s'.svc = s.svc) ∧
    (s.fit p 2 = true → ∃ (s' : State), exec (.write p) s = .next s' ∧ p ∈ ((s'.peer p.src).rx p.lane).held ∧ s'.mem = s.mem ∧ s'.svc = s.svc) ∧
    (s.fit p 3 = true → ∃ (s' : State), exec (.atomicRequest p) s = .next s' ∧ p ∈ ((s'.peer p.src).rx p.lane).held ∧ s'.mem = s.mem ∧ s'.svc = s.svc)) ∧
    (8 ≤ s.modl.stage → (psnBelow p.psn ((s.peer p.src).rx p.lane).base || ((s.peer p.src).rx p.lane).got.contains p.psn.toNat || s.standing p) = false →
      ((s.peer p.src).rx p.lane).held = [] → s.refuses p = true →
      (s.fit p 0 = true → ∃ (s' : State) (q : Packet), exec (.readRequest p) s = .next s' ∧ s'.mem = s.mem ∧ s'.svc = s.svc ∧
        ((q ∈ (s'.peer p.src).que) ∨ ∃ f ∈ (s'.peer p.src).flight, f.p = q) ∧ q.typ = 1 ∧ q.refused = true ∧ q.rid = p.rid ∧ q.dst = p.src) ∧
    (s.fit p 2 = true → ∃ (s' : State) (q : Packet), exec (.write p) s = .next s' ∧ s'.mem = s.mem ∧ s'.svc = s.svc ∧
        ((q ∈ (s'.peer p.src).que) ∨ ∃ f ∈ (s'.peer p.src).flight, f.p = q) ∧ q.typ = 4 ∧ q.refused = true ∧ q.rid = p.rid ∧ q.dst = p.src) ∧
    (s.fit p 3 = true → ∃ (s' : State) (q : Packet), exec (.atomicRequest p) s = .next s' ∧ s'.mem = s.mem ∧ s'.svc = s.svc ∧
        ((q ∈ (s'.peer p.src).que) ∨ ∃ f ∈ (s'.peer p.src).flight, f.p = q) ∧ q.typ = 4 ∧ q.refused = true ∧ q.rid = p.rid ∧ q.dst = p.src)) ∧
    (s.fit p 2 = true → 8 ≤ s.modl.stage → (psnBelow p.psn ((s.peer p.src).rx p.lane).base || ((s.peer p.src).rx p.lane).got.contains p.psn.toNat || s.standing p) = false →
      ((s.peer p.src).rx p.lane).held = [] → s.refuses p = false → p.so = false → s.hasPa p.pa = true →
      p.coll = false → s.Inv → ∃ (s' : State), exec (.write p) s = .next s' ∧
        (∀ i, i < 128 → p.mask.getLsbD i = true → Mem.read s'.mem (homeG (p.pa + i)) = Line.byte p.data i) ∧
        (∀ x, (∀ i, i < 128 → p.mask.getLsbD i = true → x ≠ homeG (p.pa + i)) → Mem.read s'.mem x = Mem.read s.mem x)) ∧
    (s.fit p 0 = true → 8 ≤ s.modl.stage → (psnBelow p.psn ((s.peer p.src).rx p.lane).base || ((s.peer p.src).rx p.lane).got.contains p.psn.toNat || s.standing p) = false →
      ((s.peer p.src).rx p.lane).held = [] → s.refuses p = false → p.so = false →
      ∃ (s' : State) (q : Packet), exec (.readRequest p) s = .next s' ∧ s'.mem = s.mem ∧ ((q ∈ (s'.peer p.src).que) ∨ ∃ f ∈ (s'.peer p.src).flight, f.p = q) ∧
        q.typ = 1 ∧ q.rid = p.rid ∧ q.dst = p.src ∧
        (s.hasPa p.pa = true → q.data = lineNat (Mem.readN s.mem (homeG p.pa) 128) ∧ q.bad = s.badWords (homeG p.pa))) ∧
    (s.fit p 3 = true → 8 ≤ s.modl.stage → (psnBelow p.psn ((s.peer p.src).rx p.lane).base || ((s.peer p.src).rx p.lane).got.contains p.psn.toNat || s.standing p) = false →
      ((s.peer p.src).rx p.lane).held = [] → s.refuses p = false → p.so = false → s.hasPa p.pa = true →
      ∃ (s' : State) (r : SvcReq), exec (.atomicRequest p) s = .next s' ∧ r ∈ s'.svc ∧ r.pkt = some p ∧ r.addr = homeG p.pa ∧
        r.op = p.aop.toNat ∧ s'.mem = s.mem) ∧
    (∀ (a : Access), 8 ≤ s.modl.stage → (psnBelow p.psn ((s.peer p.src).rx p.lane).base || ((s.peer p.src).rx p.lane).got.contains p.psn.toNat || s.standing p) = false →
      ((s.peer p.src).rx p.lane).held = [] → p.refused = false → p.silent = false → s.accOf p.rid = some a →
      s.acc.find? (fun (x : Access) => x.id == a.id) = some a →
      ∃ (s1 : State), s1.acc = s.acc ∧ s1.teams = s.teams ∧
        (s.fit p 1 = true → s1.mem = s.mem ∧ exec (.readReply p) s = .next (s1.settle { a with
          rem := a.rem.filter (fun (r : RemLine) => r.rid != p.rid)
          bad := (a.bad ++ (((a.rem.filter (fun (r : RemLine) => r.rid == p.rid)).flatMap (fun r => r.lanes)).filter
            (fun x => p.bad.getLsbD (x.2.2 / 8))).map (·.1)).dedup
          buf := a.buf ++ (a.rem.filter (fun (r : RemLine) => r.rid == p.rid)).flatMap (fun r => remBytes r p.data) })) ∧
        (s.fit p 4 = true → a.load = true → exec (.atomicReply p) s = .next (s1.settle { a with
          rem := a.rem.filter (fun (r : RemLine) => r.rid != p.rid)
          bad := (a.bad ++ (((a.rem.filter (fun (r : RemLine) => r.rid == p.rid)).flatMap (fun r => r.lanes)).filter
            (fun _ => p.bad != 0)).map (·.1)).dedup
          buf := a.buf ++ (a.rem.filter (fun (r : RemLine) => r.rid == p.rid)).flatMap (fun r => remBytes r p.data) }))) ∧
    (∀ (pf : PfReq), 8 ≤ s.modl.stage → (psnBelow p.psn ((s.peer p.src).rx p.lane).base || ((s.peer p.src).rx p.lane).got.contains p.psn.toNat || s.standing p) = false →
      ((s.peer p.src).rx p.lane).held = [] → p.refused = false → s.fit p 1 = true → s.accOf p.rid = none →
      s.pfs.find? (fun (x : PfReq) => x.slot.isNone && x.rid == p.rid) = some pf →
      ∃ (s1 s' : State), s1.pfs = s.pfs ∧ s1.cores = s.cores ∧ s1.mem = s.mem ∧ s' = s1.pfCame pf p.data (p.bad != 0) ∧
        exec (.readReply p) s = .next s' ∧ s'.pfs = s.pfs.filter (fun (x : PfReq) => x.id != pf.id)) ∧
    (8 ≤ s.modl.stage → (psnBelow p.psn ((s.peer p.src).rx p.lane).base || ((s.peer p.src).rx p.lane).got.contains p.psn.toNat || s.standing p) = false →
      ((s.peer p.src).rx p.lane).held = [] → p.refused = false → s.fit p 1 = true → s.accOf p.rid = none →
      s.pfs.find? (fun (x : PfReq) => x.slot.isNone && x.rid == p.rid) = none →
      ∃ (s' : State), exec (.readReply p) s = .next s' ∧ s'.mem = s.mem ∧
        ∀ x ∈ s'.far, x.rid = p.rid → x.got = some p.data ∧ x.bad = p.bad) ∧
    (8 ≤ s.modl.stage → s.fit p 5 = true → (s.peer p.src).que = [] → s.batches = [] →
      (∀ f ∈ (s.peer p.src).flight, acked p f.p = true → f.p.typ = 1) →
      ∃ (s' : State), exec (.acknowledgement p) s = .next s' ∧
        (s'.peer p.src).flight = (s.peer p.src).flight.filter (fun (f : Flight) => !acked p f.p) ∧
        (s'.peer p.src).cap = (if bits p.rid.toNat 9 8 = 0 then capAfter (s.peer p.src).cap (bits p.rid.toNat 7 0)
          else (s.peer p.src).cap)) ∧
    (∀ (f : Flight) (a : Access), 8 ≤ s.modl.stage → s.fit p 5 = true → (s.peer p.src).flight = [f] → acked p f.p = true →
      (f.p.typ = 2 ∨ f.p.typ = 3 ∧ f.p.aret = false) → s.accOf f.p.rid = some a → a.load = false →
      ∃ (s1 : State), s1.acc = s.acc ∧ s1.teams = s.teams ∧ s1.mem = s.mem ∧ exec (.acknowledgement p) s =
        .next (((s1.settle { a with rem := a.rem.filter (fun (r : RemLine) => r.rid != f.p.rid) }).pump p.src
          ((s1.settle { a with rem := a.rem.filter (fun (r : RemLine) => r.rid != f.p.rid) }).peer p.src).que.length).sendBatches)) ∧
    (s.fit p 6 = true → 8 ≤ s.modl.stage → (psnBelow p.psn ((s.peer p.src).rx p.lane).base || ((s.peer p.src).rx p.lane).got.contains p.psn.toNat || s.standing p) = false →
      ((s.peer p.src).rx p.lane).held = [] →
      (∀ minor h sel v hc served, s.recOf h = none → ∃ (s' : State) (q : Packet),
        exec (.faultLaneMessage p (.request minor h sel v hc served)) s = .next s' ∧ ((q ∈ (s'.peer p.src).que) ∨ ∃ f ∈ (s'.peer p.src).flight, f.p = q) ∧
        q.lane = true ∧ q.rid = p.rid ∧ q.data = msgLine (.reply p.rid 1 0)) ∧
      (∀ minor h sel v hc served r, s.recOf h = some r → minor ≠ 5 → s.outside p r = true → ∃ (s' : State) (q : Packet),
        exec (.faultLaneMessage p (.request minor h sel v hc served)) s = .next s' ∧ ((q ∈ (s'.peer p.src).que) ∨ ∃ f ∈ (s'.peer p.src).flight, f.p = q) ∧ s'.recs = s.recs ∧
        q.data = msgLine (.reply p.rid enclaveStatus (ndw (s.ctx r.ctx).kid))) ∧
      (∀ minor h sel v hc served r, s.recOf h = some r → s.outside p r = false → served ≠ h → ∃ (s' : State) (q : Packet),
        exec (.faultLaneMessage p (.request minor h sel v hc served)) s = .next s' ∧ ((q ∈ (s'.peer p.src).que) ∨ ∃ f ∈ (s'.peer p.src).flight, f.p = q) ∧ s'.recs = s.recs ∧
        q.data = msgLine (.reply p.rid 2 0)) ∧
      (∀ dws sl rm die b i, (s.ctx (taskCtx dws)).en = true → (s.ctx (taskCtx dws)).rst = 0 →
        (sl = true → s.sealedCtx (taskCtx dws) = true) → s.bankFree 0 16 = some (die, b, i) → taskXd dws = false →
        ∃ (s' : State) (t : Task), exec (.faultLaneMessage p (.faultTask dws sl rm)) s = .next s' ∧ t ∈ s'.tasks ∧
          t.bank = 16 ∧ t.idx = i ∧ t.dws.getD 4 0 = dws.getD 4 0) ∧
      (∀ dws sl rm, (sl = true ∧ s.sealedCtx (taskCtx dws) = false) ∨ (s.ctx (taskCtx dws)).en = false ∨
          (s.ctx (taskCtx dws)).rst ≠ 0 →
        ∃ (s' : State) (q : Packet), exec (.faultLaneMessage p (.faultTask dws sl rm)) s = .next s' ∧ s'.tasks = s.tasks ∧
          ((q ∈ (s'.peer p.src).que) ∨ ∃ f ∈ (s'.peer p.src).flight, f.p = q) ∧ q.data = msgLine (.taskReply (dws.getD 4 0) false)) ∧
      (∀ dws sl rm, (s.ctx (taskCtx dws)).en = true → (s.ctx (taskCtx dws)).rst = 0 →
        (sl = true → s.sealedCtx (taskCtx dws) = true) → s.bankFree 0 16 = none → s.bankFree 1 16 = none →
        ∃ (s' : State), exec (.faultLaneMessage p (.faultTask dws sl rm)) s = .next s' ∧ s'.tasks = s.tasks ∧
          s'.inTasks = s.inTasks ++ [(p, .faultTask dws sl rm, s.clk)]) ∧
      (∀ h r x, s.recOf h = some r →
        s.pend.find? (fun (y : PendTask) => y.bar == r.id && y.sent.isSome && descPeer y.desc == some p.src) = some x →
        ∃ (s' : State), exec (.faultLaneMessage p (.taskReply h true)) s = .next s' ∧ s'.recs = s.recs ∧
          s'.pend = s.pend.filter (fun (y : PendTask) => y != x)) ∧
      (∀ rid st v (lr : LaneReq) (t : Team) d two, s.laneReqs.find? (fun (y : LaneReq) =>
          y.peer == p.src && BitVec.ofNat 32 y.rid == rid) = some lr → s.team lr.team = some t → t.isEnded = false →
        t.st = .wait (.lane lr.rid d two) → st ≠ enclaveStatus →
        ∃ (s1 : State), s1.teams = s.teams ∧ exec (.faultLaneMessage p (.reply rid st v)) s =
          .next (s1.pkAnswer lr.team d two st v)) ∧
      (∀ h r, s.recOf h = some r → ∃ (s0 s1 s2 : State),
        exec (.faultLaneMessage p (.record h 0)) s = .next s0 ∧ exec (.faultLaneMessage p (.record h 1)) s = .next s1 ∧
        exec (.faultLaneMessage p (.record h 2)) s = .next s2 ∧ s2.recs = s.recs ∧
        s0.recs = (if r.st = .parked then s.recs.map (fun x => if x.id = r.id then { r with st := .served } else x) else s.recs) ∧
        s1.recs = (if r.st = .served then s.recs.map (fun x => if x.id = r.id then { r with st := .parked } else x) else s.recs)) ∧
      (∀ h, ∃ (s' : State), exec (.faultLaneMessage p (.record h 3)) s = .next s' ∧ s'.recs = s.recs ∧
        ∀ t ∈ s'.tasks, t.bank = 16 → t.dws.getD 4 0 = h → t.st = .running)) ∧
    (s.fit p 7 = true → 8 ≤ s.modl.stage → (psnBelow p.psn ((s.peer p.src).rx p.lane).base || ((s.peer p.src).rx p.lane).got.contains p.psn.toNat || s.standing p) = false →
      ((s.peer p.src).rx p.lane).held = [] →
      ∃ (s' : State), exec (.recoveryAnnouncement p) s = .next s' ∧
        (bits p.rid.toNat 8 0 = 0 → (s'.peer p.src).annUntil = 0 ∧ (s'.peer p.src).annFirst = 0) ∧
        (bits p.rid.toNat 8 0 ≠ 0 ∨ (s.peer p.src).annUntil = 0 → (s'.peer p.src).flight = (s.peer p.src).flight) ∧
        (bits p.rid.toNat 8 0 = 0 → (s.peer p.src).annUntil ≠ 0 → (s'.peer p.src).flight = (s.peer p.src).flight.map (fun (f : Flight) =>
          { f with first := f.first + (s.clk - max (s.peer p.src).holdFrom f.first) })) ∧
        (bits p.rid.toNat 8 0 ≠ 0 → (s.peer p.src).annFirst = 0 →
          (s'.peer p.src).annUntil = s.clk + min (bits p.rid.toNat 8 0) 500 * clkPerMs ∧ (s'.peer p.src).annFirst = s.clk + 1) ∧
        (bits p.rid.toNat 8 0 ≠ 0 → (s.peer p.src).annFirst ≠ 0 → (s'.peer p.src).annFirst = (s.peer p.src).annFirst ∧
          (s'.peer p.src).annUntil =
            if min (s.clk + bits p.rid.toNat 8 0 * clkPerMs) ((s.peer p.src).annFirst - 1 + 500 * clkPerMs) ≤ s.clk
            then (s.peer p.src).annUntil
            else min (s.clk + bits p.rid.toNat 8 0 * clkPerMs) ((s.peer p.src).annFirst - 1 + 500 * clkPerMs))) ∧
    (((s.peer m).annUntil = 0 ∨ s.clk < (s.peer m).annUntil → exec (.announcementBoundExpiry m) s = .next s) ∧
      ((s.peer m).annUntil ≠ 0 → (s.peer m).annUntil ≤ s.clk → s.batches = [] →
        ∃ (s' : State), exec (.announcementBoundExpiry m) s = .next s' ∧ (s'.peer m).annUntil = 0 ∧
          (s'.peer m).flight = (s.peer m).flight.map (fun (f : Flight) => { f with first := s.clk }) ∧
          (∀ x ∈ s'.pend, descPeer x.desc = some m → x.sent = none ∨ x.sent = some s.clk) ∧
          (∀ x ∈ s'.laneReqs, x.peer = m → x.since = s.clk))) ∧
    (∀ (lane : Bool), ((((s.peer m).rx lane).arrivals < 16 ∧ (((s.peer m).rx lane).arrivals = 0 ∨
          s.clk - ((s.peer m).rx lane).firstArr < Config.clkPerUs)) → exec (.fabricAckTrigger m lane) s = .next s) ∧
      (s.modl.planes = [] → exec (.fabricAckTrigger m lane) s = .next s) ∧
      (s.modl.planes ≠ [] → (16 ≤ ((s.peer m).rx lane).arrivals ∨ (((s.peer m).rx lane).arrivals ≠ 0 ∧
          Config.clkPerUs ≤ s.clk - ((s.peer m).rx lane).firstArr)) →
      ∃ (s' : State) (q : Packet), exec (.fabricAckTrigger m lane) s = .next s' ∧ ((s'.peer m).rx lane).arrivals = 0 ∧
        ((s'.peer m).rx lane).parts = [] ∧ (∀ k ∈ ((s.peer m).rx lane).parts, k < s.parts.length → (s'.part k).lastEvent = s.clk) ∧
        (∃ k ∈ s.modl.planes, (q, k) ∈ s'.fabOut) ∧ q.typ = 5 ∧ q.dst = m ∧ q.lane = lane ∧ q.psn = ((s.peer m).rx lane).ackBase)) ∧
    (∀ (lane : Bool) (psn : Wd), (s.clk < (s.peer m).annUntil ∨ s.modl.planes = [] ∨
        (∀ f ∈ (s.peer m).flight, f.p.lane = lane → f.p.psn = psn → s.clk - f.sent < 20 * Config.clkPerUs)) →
      exec (.fabricRetransmit m lane psn) s = .next s) ∧
    (∀ (lane : Bool) (psn : Wd) (f : Flight), s.modl.planes ≠ [] → (s.peer m).annUntil ≤ s.clk → f ∈ (s.peer m).flight → f.p.lane = lane →
      f.p.psn = psn → 20 * Config.clkPerUs ≤ s.clk - f.sent →
      ∃ (s' : State) (g : Flight), exec (.fabricRetransmit m lane psn) s = .next s' ∧ g ∈ (s'.peer m).flight ∧ g.p = f.p ∧
        g.sent = s.clk ∧ g.first = f.first ∧ g.iv = ((s.peer m).seal f.p).2 ∧ s'.mem = s.mem) ∧
    (s.laneReqs = [] → s.pend = [] → s.batches = [] → s.silent m = true →
      (∀ f ∈ (s.peer m).flight, f.p.typ = 1) → (∀ q ∈ (s.peer m).que, q.typ = 1) →
      exec (.linkTimeout m) s = .next (s.modPeer m (fun (x : Peer) => { x with flight := [], que := [] }))) ∧
    (s.laneReqs = [] → s.pend = [] → s.silent m = false → exec (.linkTimeout m) s = .next s) ∧
    (∀ (f : Flight) (a : Access), s.laneReqs = [] → s.pend = [] → s.silent m = true → (s.peer m).flight = [f] →
      (s.peer m).que = [] → (f.p.typ = 0 ∨ f.p.typ = 2 ∨ f.p.typ = 3) → s.accOf f.p.rid = some a →
      ∃ (s1 : State), s1.acc = s.acc ∧ s1.teams = s.teams ∧ s1.mem = s.mem ∧ exec (.linkTimeout m) s =
        .next ((s1.abandon a { mkF .linkTimeout .none (a.lostAt f.p.rid true).2 m with
          lane := some (a.lostAt f.p.rid true).1 }).sendBatches)) ∧
    (∀ (x : PendTask) (r : Rec) (t : Nat), s.laneReqs = [] → s.pend = [x] → descPeer x.desc = some m → x.sent = some t →
      s.silent m = false → s.recs.find? (fun (y : Rec) => y.id == x.bar) = some r →
      (s.outOfTime m t = true → exec (.linkTimeout m) s =
        .next ((({ s with pend := [] }).putRec { r with far := none }).escalateRec r x.cls)) ∧
      (s.outOfTime m t = false → exec (.linkTimeout m) s = .next s)) ∧
    (∃ (s' : State), exec (.portRetrain m) s = .next s' ∧ m ∉ s'.modl.planes ∧ s'.mem = s.mem) ∧
    (m < 72 → s.rel.fenced.contains (5, m) = false → ∃ (s' : State), exec (.portTrainingComplete m) s = .next s' ∧
      m ∈ s'.modl.planes ∧ s'.mem = s.mem) ∧
    (72 ≤ m ∨ s.rel.fenced.contains (5, m) = true ∨ m ∈ s.modl.planes → exec (.portTrainingComplete m) s = .next s)

/-- Host accesses, scale-out operations, bring-up, scrubbing, scores, migration, tests, trace, power, keys (R515, R518, R400, R521, R523, R482, R485, R487, R488, R489, R503, R517).
What an unwritten byte of BAR4 reads is the model's choice, notes/assumptions/3.md, and which bank groups a test finds in use, 76.md; HOST_MODULE_RESET without the bring-up, RDMA addresses that fail and the form of RDMA messages are its reading, 38.md, 39.md and 75.md. -/
def Obligations.HostAndReliabilityEvents : Prop :=
  ∀ (s : State) (n k : Nat),
    (exec .hostModuleReset s = .next (s.announce 500) ∧ (s.announce 500).mem = s.mem ∧ (s.announce 500).modl = s.modl) ∧
    ((∀ bar off len, s.modl.stage < 8 → exec (.hostBarAccess bar off none len) s = .next (s.hostGets (List.replicate len 0xFF))) ∧
      (∀ bar off len bs, s.modl.stage < 8 → exec (.hostBarAccess bar off (some bs) len) s = .next s) ∧
      (∀ bar off len wr, 8 ≤ s.modl.stage → bar ≠ 2 → bar ≠ 4 → exec (.hostBarAccess bar off wr len) s = .next s) ∧
      (∀ off len bs, 8 ≤ s.modl.stage → exec (.hostBarAccess 2 off (some bs) len) s = .next (s.bar2Write off bs)) ∧
      (∀ off len bs, 8 ≤ s.modl.stage → (∀ i, i < bs.length → s.hostReach (off + i) = false) →
        ∃ (s' : State), exec (.hostBarAccess 4 off (some bs) len) s = .next s' ∧ s'.mem = s.mem) ∧
      (∀ off len, 8 ≤ s.modl.stage → (∀ i, i < len → s.hostShut (off + i) = false) → exec (.hostBarAccess 4 off none len) s =
        .next (s.hostGets ((List.range len).map (fun i => s.bar4Read (off + i))))) ∧
      (∀ off len, 8 ≤ s.modl.stage → (∃ i, i < len ∧ s.hostShut (off + i) = true) → ∃ (s' : State),
        exec (.hostBarAccess 4 off none len) s = .next s' ∧ s'.hostCpl = s.hostCpl ++ [.completerAbort] ∧
          s'.hostRd = s.hostRd ++ [(List.range len).map (fun i => s.bar4Read (off + i))]) ∧
      (∀ off len (bs : List Byte), 8 ≤ s.modl.stage → (∃ i, i < bs.length ∧ s.hostShut (off + i) = true) → ∃ (s' : State),
        exec (.hostBarAccess 4 off (some bs) len) s = .next s' ∧ s'.hostCpl = s.hostCpl ++ [.completerAbort]) ∧
      (∀ off len, 8 ≤ s.modl.stage → exec (.hostBarAccess 2 off none len) s =
        .next (s.hostGets ((List.range len).map (fun i => s.bar2Read (off + i))))) ∧
      (∀ off len (bs : List Byte), 8 ≤ s.modl.stage → s.Inv → (∀ i, i < bs.length → s.hostReach (off + i) = true) →
        ∃ (s' : State), exec (.hostBarAccess 4 off (some bs) len) s = .next s' ∧ Mem.readN s'.mem (homeG off) bs.length = bs ∧
          ∀ x, x < off ∨ off + bs.length ≤ x → Mem.read s'.mem x = Mem.read s.mem x)) ∧
    (∀ (off : Wd), exec (.capOffsetWrite off) s = .next { s with modl := { s.modl with capOff := off.toNat } }) ∧
    (∀ (e : List Dw) (s1 : State), s.qpEntry n = some e → s.qpPosted n = (s1, true) →
      exec (.sendQueueWork n) s = .next (s1.qpTake n e)) ∧
    ((s.qpEntry n = none → exec (.sendQueueWork n) s = .next s ∧ (∀ i st d, exec (.rdmaCompletion n i st d) s = .next s) ∧
        ∀ i, exec (.rdmaTimeout n i) s = .next s) ∧
      (∀ (s1 : State), s.qpPosted n = (s1, false) → exec (.sendQueueWork n) s = .next s1)) ∧
    (∀ (e w : List Dw) (at_ : Nat) (r : List (Nat × Nat × List Dw)) (s1 : State) (bs : List Byte), s.qpEntry n = some e →
      (s.qp n).work = (k, at_, w) :: r → s.qpRoom e (s.qp n) = (s1, true) →
      exec (.rdmaCompletion n k 1 bs) s =
        .next ((s1.qpDrop n k).qpDone n e w 1 (min (fld (w.getD 0 0) 31 0) bs.length)) ∧
      (fld (w.getD 0 0) 63 60 ≠ 1 →
        exec (.rdmaCompletion n k 0 bs) s = .next ((s1.qpDrop n k).qpDone n e w 0 (fld (w.getD 0 0) 31 0))) ∧
      (∀ s2, fld (w.getD 0 0) 63 60 = 1 → bs.length = fld (w.getD 0 0) 31 0 →
        ({ s1.qpDrop n k with free := (s1.qpDrop n k).free + 1 }).engWrite 0 (qpCtx e) (w.getD 1 0).toNat bs = (s2, none) →
        exec (.rdmaCompletion n k 0 bs) s = .next (s2.qpDone n e w 0 (fld (w.getD 0 0) 31 0))) ∧
      (∀ s2 x, fld (w.getD 0 0) 63 60 = 1 → bs.length = fld (w.getD 0 0) 31 0 →
        ({ s1.qpDrop n k with free := (s1.qpDrop n k).free + 1 }).engWrite 0 (qpCtx e) (w.getD 1 0).toNat bs = (s2, some x) →
        exec (.rdmaCompletion n k 0 bs) s = .next (s2.qpDone n e w 3 0))) ∧
    (∀ (e w : List Dw) (s1 s2 : State) (bs : List Byte), s.qpEntry n = some e → s.qpPosted n = (s1, true) →
      s1.engRead 0 (qpCtx e) (qpSq e + 0x40 + 64 * ((s1.qp n).head % 63)) 64 = (s2, .inr bs) → w = leDws 8 bs →
      s2.qpBad e = false → workBad e w = false → fld (w.getD 0 0) 63 60 = 1 → s2.modl.soPorts ≠ [] →
      ∃ (s' : State), exec (.sendQueueWork n) s = .next s' ∧ ∃ m ∈ s'.rdmaOut, m.qp = n ∧ m.reply = false ∧ m.op = 1 ∧
        m.rqp = fld (e.getD 2 0) 11 0 ∧ m.va = w.getD 3 0 ∧ m.key = w.getD 4 0 ∧ m.len = fld (w.getD 0 0) 31 0 ∧ m.data = []) ∧
    (∀ (e w : List Dw) (at_ : Nat) (r : List (Nat × Nat × List Dw)) (s1 : State) (bs : List Byte), s.qpEntry n = some e →
      (s.qp n).work = (k, at_, w) :: r → s.qpRoom e (s.qp n) = (s1, false) → flag (w.getD 0 0) 59 = false → fld (w.getD 0 0) 63 60 ≠ 1 →
      exec (.rdmaCompletion n k 0 bs) s = .next (s1.qpDrop n k)) ∧
    (∀ (e : List Dw) (x : Nat × Nat × List Dw) (r : List (Nat × Nat × List Dw)) (s1 : State) (b : Bool) (st i : Nat) (d : List Byte),
      s.qpEntry n = some e → (s.qp n).work = x :: r → s.qpRoom e (s.qp n) = (s1, b) →
      (x.1 ≠ i ∨ 1 < st ∨ b = false ∧ (flag (x.2.2.getD 0 0) 59 = true ∨ st = 1)) →
      exec (.rdmaCompletion n i st d) s = .next s1) ∧
    ((∀ st i (d : List Byte), (s.qp n).work = [] → exec (.rdmaCompletion n i st d) s = .next s ∧
        exec (.rdmaTimeout n i) s = .next s)) ∧
    (∀ (e w : List Dw) (at_ : Nat) (s1 : State) (b : Bool), s.qpEntry n = some e →
      (s.qp n).work.find? (fun (x : Nat × Nat × List Dw) => x.1 == k) = some (k, at_, w) → s.qpRoom e (s.qp n) = (s1, b) →
      (s1.clk - at_ < 100 * clkPerMs ∨ b = false) → exec (.rdmaTimeout n k) s = .next s1) ∧
    (∀ (e w : List Dw) (at_ : Nat) (s1 : State), s.qpEntry n = some e →
      (s.qp n).work.find? (fun (x : Nat × Nat × List Dw) => x.1 == k) = some (k, at_, w) → s.qpRoom e (s.qp n) = (s1, true) →
      100 * clkPerMs ≤ s1.clk - at_ → ∃ len, len ≤ fld (w.getD 0 0) 31 0 ∧
        exec (.rdmaTimeout n k) s = .next ((({ s1 with free := s1.free + 1 }).qpDrop n k).qpDone n e w 2 len)) ∧
    (∀ (m : RdmaMsg) (e : List Dw), s.qpEntry m.qp = some e → flag (e.getD 0 0) 63 = true → s.qpBad e = false →
      s.modl.soPorts ≠ [] → fromEnd e m = true →
      (∀ s1 x, m.op = 0 → s.engWrite 0 (qpCtx e) m.va.toNat m.data = (s1, x) → exec (.rdmaInbound m) s =
        .next (s1.rdmaSend m.qp e true 0 m.va 0 (if x = none then m.data.length else 0) [])) ∧
      (∀ s1 bs, m.op = 1 → s.engRead 0 (qpCtx e) m.va.toNat m.data.length = (s1, .inr bs) → exec (.rdmaInbound m) s =
        .next (s1.rdmaSend m.qp e true 1 m.va 0 bs.length bs)) ∧
      (∀ s1 x, m.op = 1 → s.engRead 0 (qpCtx e) m.va.toNat m.data.length = (s1, .inl x) → exec (.rdmaInbound m) s =
        .next (s1.rdmaSend m.qp e true 1 m.va 0 0 [])) ∧
      (∀ s1, m.op = 2 → s.qpRoom e (s.qp m.qp) = (s1, false) → exec (.rdmaInbound m) s = .next s1) ∧
      (∀ s1, m.op = 2 → s.qpRoom e (s.qp m.qp) = (s1, true) → ∃ (w : List Dw), w.take 5 = [ndw (2 * 2 ^ 60 + 2 ^ 59), 0, 0, 0, 0] ∧
        exec (.rdmaInbound m) s =
          .next ((({ s1 with free := s1.free + 1 }).qpDone m.qp e w 0 m.data.length).rdmaSend m.qp e true 2 0 0 m.data.length []))) ∧
    (∀ (m : RdmaMsg), (s.qpEntry m.qp = none ∨ ∃ e, s.qpEntry m.qp = some e ∧ (flag (e.getD 0 0) 63 = false ∨ s.qpBad e = true ∨ s.modl.soPorts = [] ∨ fromEnd e m = false)) →
      exec (.rdmaInbound m) s = .next s) ∧
    (∀ (c : BootConfig), ∃ (s' : State), exec (.powerOn c) s = .next s' ∧ s'.Inv ∧ s'.mem = [] ∧ s'.teams = [] ∧
      ((c.copyA || c.copyB) = false → s'.modl.stage = 1 ∧ s'.modl.err = 1) ∧
      ((c.copyA || c.copyB) = true → (∀ r ∈ c.records, r.sigOk = false) → s'.modl.stage = 2 ∧ s'.modl.err = 2) ∧
      (∀ r : BootRecord, (c.copyA || c.copyB) = true → r ∈ c.records → r.sigOk = true →
        (∀ x ∈ c.records, x.sigOk = true → x ≠ r → x.seq < r.seq) →
        (r.certOk = false → s'.modl.stage = 3 ∧ s'.modl.err = 3) ∧
        (r.certOk = true → s'.modl.stage = 8 ∧ s'.modl.modNo = r.modNo ∧ (s'.ctx 0).priv = 2 ∧
          (∀ k ∈ s'.modl.cores, k < 216 ∧ k ∈ r.cores) ∧ (∀ k ∈ s'.modl.packages, k ∈ r.packages) ∧
          ((∀ x ∈ r.fences, x.2.2 = true) → ∀ u ∈ s.modl.flash, 1 ≤ u.1 → u.1 ≤ 5 → u ∈ s'.rel.fenced)))) ∧
    ((s.scrubbed n = false → ∀ b, exec (.patrolScrub n b) s = .next s) ∧
      (s.scrubbed n = true → (n / 2 ^ 80 ≠ 9 → ∃ (s' : State), exec (.patrolScrub n true) s = .next s' ∧ n / 8 ∈ s'.rel.poison) ∧
        (n / 2 ^ 80 = 9 → ∃ (s' : State), exec (.patrolScrub n true) s = .next s' ∧ s'.rel.poison = s.rel.poison ∧
          ((queueWord n).2.2.1, (queueWord n).2.2.2) ∈ ((s'.groupAt (queueWord n).1).queue (queueWord n).2.1).bad) ∧
        ∃ (s' : State), exec (.patrolScrub n false) s = .next s' ∧ s'.rel.poison = s.rel.poison ∧
          ∀ x, x < 5 * 2 ^ 80 → Mem.read s'.mem x = Mem.read s.mem x)) ∧
    (s.rel.halved < s.clk / 2 ^ 32 → ∃ (s' : State), exec .scoreHalving s = .next s' ∧ s'.rel.pips = s.rel.pips.map
      (fun (p : Nat × Nat × Nat) => if s.exempt p.1 p.2.1 then p else (p.1, p.2.1, p.2.2 / 2)) ∧ s'.mem = s.mem) ∧
    (s.clk / 2 ^ 32 ≤ s.rel.halved → exec .scoreHalving s = .next s) ∧
    (∀ (g : Group), s.group n = some g → s.vacating g.core = true → s.canLeave g = true → s.admits g k = true →
      ∃ (s' : State), exec (.coreVacateMigrate n k) s = .next s' ∧ s'.group n = some { g with core := k }) ∧
    ((s.group n = none → exec (.coreVacateMigrate n k) s = .next s) ∧
      (∀ (g : Group), s.group n = some g → (s.vacating g.core && s.canLeave g && s.admits g k) = false →
        exec (.coreVacateMigrate n k) s = .next s)) ∧
    (s.rel.tests.find? (fun (x : UnitTest) => x.id == n) = none → exec (.testVacateTimeout n) s = .next s ∧
      exec (.testRetry n) s = .next s ∧ ∀ b, exec (.targetedTestEnd n b) s = .next s) ∧
    (∀ (u : UnitTest), s.rel.tests.find? (fun (x : UnitTest) => x.id == n) = some u →
      (u.stage = 1 ∨ s.testCore u = none ∨ (∃ c, s.testCore u = some c ∧ s.vacated c = true) ∨ s.clk - u.since < 10 * clkPerMs →
        exec (.testVacateTimeout n) s = .next s) ∧
      (u.stage ≠ 1 ∨ s.clk - u.since < 2 ^ 27 → exec (.testRetry n) s = .next s) ∧
      (u.stage = 1 ∨ (∃ c, s.testCore u = some c ∧ s.vacated c = false) → ∀ b, exec (.targetedTestEnd n b) s = .next s) ∧
      (u.ukind = 3 → s.clk - u.since < 2 ^ 32 → exec (.targetedTestEnd n true) s = .next s ∨ ∃ c, s.testCore u = some c)) ∧
    (∀ (u : UnitTest) (c : Nat), s.rel.tests.find? (fun (x : UnitTest) => x.id == n) = some u → s.testCore u = some c → u.stage ≠ 1 →
      s.vacated c = false → 10 * clkPerMs ≤ s.clk - u.since →
      ∃ (s' : State), exec (.testVacateTimeout n) s = .next s' ∧ ∀ x ∈ s'.rel.tests, x.id = n → x.stage = 1) ∧
    (∀ (u : UnitTest), s.rel.tests.find? (fun (x : UnitTest) => x.id == n) = some u → u.stage = 1 → 2 ^ 27 ≤ s.clk - u.since →
      exec (.testRetry n) s = .next (s.putTest u.id (some { u with stage := 2, since := s.clk }))) ∧
    (∀ (u : UnitTest), s.rel.tests.find? (fun (x : UnitTest) => x.id == n) = some u → u.stage ≠ 1 →
      (∀ c, s.testCore u = some c → s.vacated c = true) →
      (u.ukind = 4 → u.way < 15 →
        exec (.targetedTestEnd n true) s = .next (s.putTest u.id (some { u with way := u.way + 1 }))) ∧
      (s.scrubbing u = false → (u.ukind ≠ 4 ∨ 15 ≤ u.way) → ∃ (s' : State), exec (.targetedTestEnd n true) s = .next s' ∧
        s'.pips u.ukind u.unum = 0 ∧ ∀ x ∈ s'.rel.tests, x.id ≠ n) ∧
      (∃ (s' : State), exec (.targetedTestEnd n false) s = .next s' ∧ u.entry ∈ s'.modl.flash ∧
        (¬ (u.ukind = 3 ∧ s.testCore u = none ∧ s.allocated u.unum = true) → (u.ukind, u.unum) ∈ s'.rel.fenced) ∧
        ∀ x ∈ s'.rel.tests, x.id ≠ n)) ∧
    ((s.core n).trace.recs ≠ [] → 4096 ≤ s.clk - (s.core n).trace.time →
      ∃ (s' : State), exec (.traceBlockClose n) s = .next s' ∧ (s'.core n).trace.recs = [] ∧ s'.teams = s.teams) ∧
    ((s.core n).trace.recs = [] ∨ s.clk - (s.core n).trace.time < 4096 → exec (.traceBlockClose n) s = .next s) ∧
    (∀ (h : Bool), exec (.modulePowerLimit h) s = .next { s with modl := { s.modl with pwr := h } }) ∧
    (n ≤ 8 → ∃ (s' : State), exec (.ideKmRequest n k) s = .next s' ∧ (n, k) ∈ s'.modl.ide ∧ s'.mem = s.mem) ∧
    (8 < n → exec (.ideKmRequest n k) s = .next s)

/-- SUMMARY[w] is 1 exactly when EXEC word w is not zero; it ignores writes; bits beyond the width are zero (R18). -/
def Obligations.SummaryBits : Prop :=
  ∀ (s : State) (t : Team) (a : SReg) (x : Mask), t.width ≤ 1024 →
    (t.setExec x).regs.exec &&& widthMask t.width = (t.setExec x).regs.exec ∧
    (t.regs.exec &&& widthMask t.width = t.regs.exec →
      ∃ y : Dw, s.srRead t 0x00 = some y ∧
        (∀ w, w < 32 → (y.getLsbD w = true ↔ ∃ l, l < 32 ∧ t.regs.exec.getLsbD (32 * w + l) = true)) ∧
        (∀ w, t.width ≤ 32 * w → y.getLsbD w = false)) ∧
    (Ready s t 0 [.s a] → exec (.srwr 0x00 a) s = .next (s.retire t).tick)
end

