-- ==== Sys2Proof/Laws/State.lean ====
section
/-! SUPPORT. Reading back what an update of the state wrote: for each named update, the fields it leaves, and what a look
up answers after it. -/

namespace Sys2Proof.Machine

/-! ### tick writes clk -/

@[simp] theorem State.tick_mem (s : State) : s.tick.mem = s.mem := rfl
@[simp] theorem State.tick_teams (s : State) : s.tick.teams = s.teams := rfl
@[simp] theorem State.tick_groups (s : State) : s.tick.groups = s.groups := rfl
@[simp] theorem State.tick_ctxs (s : State) : s.tick.ctxs = s.ctxs := rfl
@[simp] theorem State.tick_parts (s : State) : s.tick.parts = s.parts := rfl
@[simp] theorem State.tick_modl (s : State) : s.tick.modl = s.modl := rfl
@[simp] theorem State.tick_cores (s : State) : s.tick.cores = s.cores := rfl
@[simp] theorem State.tick_acc (s : State) : s.tick.acc = s.acc := rfl
@[simp] theorem State.tick_pfs (s : State) : s.tick.pfs = s.pfs := rfl
@[simp] theorem State.tick_asy (s : State) : s.tick.asy = s.asy := rfl
@[simp] theorem State.tick_tops (s : State) : s.tick.tops = s.tops := rfl
@[simp] theorem State.tick_far (s : State) : s.tick.far = s.far := rfl
@[simp] theorem State.tick_svc (s : State) : s.tick.svc = s.svc := rfl
@[simp] theorem State.tick_bars (s : State) : s.tick.bars = s.bars := rfl
@[simp] theorem State.tick_scopes (s : State) : s.tick.scopes = s.scopes := rfl
@[simp] theorem State.tick_tcache (s : State) : s.tick.tcache = s.tcache := rfl
@[simp] theorem State.tick_rounds (s : State) : s.tick.rounds = s.rounds := rfl
@[simp] theorem State.tick_dfl (s : State) : s.tick.dfl = s.dfl := rfl
@[simp] theorem State.tick_det (s : State) : s.tick.det = s.det := rfl
@[simp] theorem State.tick_futFull (s : State) : s.tick.futFull = s.futFull := rfl
@[simp] theorem State.tick_futWait (s : State) : s.tick.futWait = s.futWait := rfl
@[simp] theorem State.tick_tasks (s : State) : s.tick.tasks = s.tasks := rfl
@[simp] theorem State.tick_recs (s : State) : s.tick.recs = s.recs := rfl
@[simp] theorem State.tick_pend (s : State) : s.tick.pend = s.pend := rfl
@[simp] theorem State.tick_gens (s : State) : s.tick.gens = s.gens := rfl
@[simp] theorem State.tick_launches (s : State) : s.tick.launches = s.launches := rfl
@[simp] theorem State.tick_lqs (s : State) : s.tick.lqs = s.lqs := rfl
@[simp] theorem State.tick_peers (s : State) : s.tick.peers = s.peers := rfl
@[simp] theorem State.tick_batches (s : State) : s.tick.batches = s.batches := rfl
@[simp] theorem State.tick_laneReqs (s : State) : s.tick.laneReqs = s.laneReqs := rfl
@[simp] theorem State.tick_inTasks (s : State) : s.tick.inTasks = s.inTasks := rfl
@[simp] theorem State.tick_rel (s : State) : s.tick.rel = s.rel := rfl
@[simp] theorem State.tick_trc (s : State) : s.tick.trc = s.trc := rfl
@[simp] theorem State.tick_qps (s : State) : s.tick.qps = s.qps := rfl
@[simp] theorem State.tick_hostOut (s : State) : s.tick.hostOut = s.hostOut := rfl
@[simp] theorem State.tick_hostSeen (s : State) : s.tick.hostSeen = s.hostSeen := rfl
@[simp] theorem State.tick_hostRd (s : State) : s.tick.hostRd = s.hostRd := rfl
@[simp] theorem State.tick_hostCpl (s : State) : s.tick.hostCpl = s.hostCpl := rfl
@[simp] theorem State.tick_rdmaOut (s : State) : s.tick.rdmaOut = s.rdmaOut := rfl
@[simp] theorem State.tick_fabOut (s : State) : s.tick.fabOut = s.fabOut := rfl
@[simp] theorem State.tick_uid (s : State) : s.tick.uid = s.uid := rfl
@[simp] theorem State.tick_cur (s : State) : s.tick.cur = s.cur := rfl
@[simp] theorem State.tick_free (s : State) : s.tick.free = s.free := rfl
@[simp] theorem State.tick_agenda (s : State) : s.tick.agenda = s.agenda := rfl

/-! ### putTeam writes teams -/

@[simp] theorem State.putTeam_mem (s : State) (t : Team) : (s.putTeam t).mem = s.mem := rfl
@[simp] theorem State.putTeam_groups (s : State) (t : Team) : (s.putTeam t).groups = s.groups := rfl
@[simp] theorem State.putTeam_ctxs (s : State) (t : Team) : (s.putTeam t).ctxs = s.ctxs := rfl
@[simp] theorem State.putTeam_parts (s : State) (t : Team) : (s.putTeam t).parts = s.parts := rfl
@[simp] theorem State.putTeam_modl (s : State) (t : Team) : (s.putTeam t).modl = s.modl := rfl
@[simp] theorem State.putTeam_cores (s : State) (t : Team) : (s.putTeam t).cores = s.cores := rfl
@[simp] theorem State.putTeam_acc (s : State) (t : Team) : (s.putTeam t).acc = s.acc := rfl
@[simp] theorem State.putTeam_pfs (s : State) (t : Team) : (s.putTeam t).pfs = s.pfs := rfl
@[simp] theorem State.putTeam_asy (s : State) (t : Team) : (s.putTeam t).asy = s.asy := rfl
@[simp] theorem State.putTeam_tops (s : State) (t : Team) : (s.putTeam t).tops = s.tops := rfl
@[simp] theorem State.putTeam_far (s : State) (t : Team) : (s.putTeam t).far = s.far := rfl
@[simp] theorem State.putTeam_svc (s : State) (t : Team) : (s.putTeam t).svc = s.svc := rfl
@[simp] theorem State.putTeam_bars (s : State) (t : Team) : (s.putTeam t).bars = s.bars := rfl
@[simp] theorem State.putTeam_scopes (s : State) (t : Team) : (s.putTeam t).scopes = s.scopes := rfl
@[simp] theorem State.putTeam_tcache (s : State) (t : Team) : (s.putTeam t).tcache = s.tcache := rfl
@[simp] theorem State.putTeam_rounds (s : State) (t : Team) : (s.putTeam t).rounds = s.rounds := rfl
@[simp] theorem State.putTeam_dfl (s : State) (t : Team) : (s.putTeam t).dfl = s.dfl := rfl
@[simp] theorem State.putTeam_det (s : State) (t : Team) : (s.putTeam t).det = s.det := rfl
@[simp] theorem State.putTeam_futFull (s : State) (t : Team) : (s.putTeam t).futFull = s.futFull := rfl
@[simp] theorem State.putTeam_futWait (s : State) (t : Team) : (s.putTeam t).futWait = s.futWait := rfl
@[simp] theorem State.putTeam_tasks (s : State) (t : Team) : (s.putTeam t).tasks = s.tasks := rfl
@[simp] theorem State.putTeam_recs (s : State) (t : Team) : (s.putTeam t).recs = s.recs := rfl
@[simp] theorem State.putTeam_pend (s : State) (t : Team) : (s.putTeam t).pend = s.pend := rfl
@[simp] theorem State.putTeam_gens (s : State) (t : Team) : (s.putTeam t).gens = s.gens := rfl
@[simp] theorem State.putTeam_launches (s : State) (t : Team) : (s.putTeam t).launches = s.launches := rfl
@[simp] theorem State.putTeam_lqs (s : State) (t : Team) : (s.putTeam t).lqs = s.lqs := rfl
@[simp] theorem State.putTeam_peers (s : State) (t : Team) : (s.putTeam t).peers = s.peers := rfl
@[simp] theorem State.putTeam_batches (s : State) (t : Team) : (s.putTeam t).batches = s.batches := rfl
@[simp] theorem State.putTeam_laneReqs (s : State) (t : Team) : (s.putTeam t).laneReqs = s.laneReqs := rfl
@[simp] theorem State.putTeam_inTasks (s : State) (t : Team) : (s.putTeam t).inTasks = s.inTasks := rfl
@[simp] theorem State.putTeam_rel (s : State) (t : Team) : (s.putTeam t).rel = s.rel := rfl
@[simp] theorem State.putTeam_trc (s : State) (t : Team) : (s.putTeam t).trc = s.trc := rfl
@[simp] theorem State.putTeam_qps (s : State) (t : Team) : (s.putTeam t).qps = s.qps := rfl
@[simp] theorem State.putTeam_hostOut (s : State) (t : Team) : (s.putTeam t).hostOut = s.hostOut := rfl
@[simp] theorem State.putTeam_hostSeen (s : State) (t : Team) : (s.putTeam t).hostSeen = s.hostSeen := rfl
@[simp] theorem State.putTeam_hostRd (s : State) (t : Team) : (s.putTeam t).hostRd = s.hostRd := rfl
@[simp] theorem State.putTeam_hostCpl (s : State) (t : Team) : (s.putTeam t).hostCpl = s.hostCpl := rfl
@[simp] theorem State.putTeam_rdmaOut (s : State) (t : Team) : (s.putTeam t).rdmaOut = s.rdmaOut := rfl
@[simp] theorem State.putTeam_fabOut (s : State) (t : Team) : (s.putTeam t).fabOut = s.fabOut := rfl
@[simp] theorem State.putTeam_uid (s : State) (t : Team) : (s.putTeam t).uid = s.uid := rfl
@[simp] theorem State.putTeam_clk (s : State) (t : Team) : (s.putTeam t).clk = s.clk := rfl
@[simp] theorem State.putTeam_cur (s : State) (t : Team) : (s.putTeam t).cur = s.cur := rfl
@[simp] theorem State.putTeam_free (s : State) (t : Team) : (s.putTeam t).free = s.free := rfl
@[simp] theorem State.putTeam_agenda (s : State) (t : Team) : (s.putTeam t).agenda = s.agenda := rfl

/-! ### modTeam writes teams -/

@[simp] theorem State.modTeam_mem (s : State) (k : Nat) (f : Team → Team) : (s.modTeam k f).mem = s.mem := rfl
@[simp] theorem State.modTeam_groups (s : State) (k : Nat) (f : Team → Team) : (s.modTeam k f).groups = s.groups := rfl
@[simp] theorem State.modTeam_ctxs (s : State) (k : Nat) (f : Team → Team) : (s.modTeam k f).ctxs = s.ctxs := rfl
@[simp] theorem State.modTeam_parts (s : State) (k : Nat) (f : Team → Team) : (s.modTeam k f).parts = s.parts := rfl
@[simp] theorem State.modTeam_modl (s : State) (k : Nat) (f : Team → Team) : (s.modTeam k f).modl = s.modl := rfl
@[simp] theorem State.modTeam_cores (s : State) (k : Nat) (f : Team → Team) : (s.modTeam k f).cores = s.cores := rfl
@[simp] theorem State.modTeam_acc (s : State) (k : Nat) (f : Team → Team) : (s.modTeam k f).acc = s.acc := rfl
@[simp] theorem State.modTeam_pfs (s : State) (k : Nat) (f : Team → Team) : (s.modTeam k f).pfs = s.pfs := rfl
@[simp] theorem State.modTeam_asy (s : State) (k : Nat) (f : Team → Team) : (s.modTeam k f).asy = s.asy := rfl
@[simp] theorem State.modTeam_tops (s : State) (k : Nat) (f : Team → Team) : (s.modTeam k f).tops = s.tops := rfl
@[simp] theorem State.modTeam_far (s : State) (k : Nat) (f : Team → Team) : (s.modTeam k f).far = s.far := rfl
@[simp] theorem State.modTeam_svc (s : State) (k : Nat) (f : Team → Team) : (s.modTeam k f).svc = s.svc := rfl
@[simp] theorem State.modTeam_bars (s : State) (k : Nat) (f : Team → Team) : (s.modTeam k f).bars = s.bars := rfl
@[simp] theorem State.modTeam_scopes (s : State) (k : Nat) (f : Team → Team) : (s.modTeam k f).scopes = s.scopes := rfl
@[simp] theorem State.modTeam_tcache (s : State) (k : Nat) (f : Team → Team) : (s.modTeam k f).tcache = s.tcache := rfl
@[simp] theorem State.modTeam_rounds (s : State) (k : Nat) (f : Team → Team) : (s.modTeam k f).rounds = s.rounds := rfl
@[simp] theorem State.modTeam_dfl (s : State) (k : Nat) (f : Team → Team) : (s.modTeam k f).dfl = s.dfl := rfl
@[simp] theorem State.modTeam_det (s : State) (k : Nat) (f : Team → Team) : (s.modTeam k f).det = s.det := rfl
@[simp] theorem State.modTeam_futFull (s : State) (k : Nat) (f : Team → Team) : (s.modTeam k f).futFull = s.futFull := rfl
@[simp] theorem State.modTeam_futWait (s : State) (k : Nat) (f : Team → Team) : (s.modTeam k f).futWait = s.futWait := rfl
@[simp] theorem State.modTeam_tasks (s : State) (k : Nat) (f : Team → Team) : (s.modTeam k f).tasks = s.tasks := rfl
@[simp] theorem State.modTeam_recs (s : State) (k : Nat) (f : Team → Team) : (s.modTeam k f).recs = s.recs := rfl
@[simp] theorem State.modTeam_pend (s : State) (k : Nat) (f : Team → Team) : (s.modTeam k f).pend = s.pend := rfl
@[simp] theorem State.modTeam_gens (s : State) (k : Nat) (f : Team → Team) : (s.modTeam k f).gens = s.gens := rfl
@[simp] theorem State.modTeam_launches (s : State) (k : Nat) (f : Team → Team) : (s.modTeam k f).launches = s.launches := rfl
@[simp] theorem State.modTeam_lqs (s : State) (k : Nat) (f : Team → Team) : (s.modTeam k f).lqs = s.lqs := rfl
@[simp] theorem State.modTeam_peers (s : State) (k : Nat) (f : Team → Team) : (s.modTeam k f).peers = s.peers := rfl
@[simp] theorem State.modTeam_batches (s : State) (k : Nat) (f : Team → Team) : (s.modTeam k f).batches = s.batches := rfl
@[simp] theorem State.modTeam_laneReqs (s : State) (k : Nat) (f : Team → Team) : (s.modTeam k f).laneReqs = s.laneReqs := rfl
@[simp] theorem State.modTeam_inTasks (s : State) (k : Nat) (f : Team → Team) : (s.modTeam k f).inTasks = s.inTasks := rfl
@[simp] theorem State.modTeam_rel (s : State) (k : Nat) (f : Team → Team) : (s.modTeam k f).rel = s.rel := rfl
@[simp] theorem State.modTeam_trc (s : State) (k : Nat) (f : Team → Team) : (s.modTeam k f).trc = s.trc := rfl
@[simp] theorem State.modTeam_qps (s : State) (k : Nat) (f : Team → Team) : (s.modTeam k f).qps = s.qps := rfl
@[simp] theorem State.modTeam_hostOut (s : State) (k : Nat) (f : Team → Team) : (s.modTeam k f).hostOut = s.hostOut := rfl
@[simp] theorem State.modTeam_hostSeen (s : State) (k : Nat) (f : Team → Team) : (s.modTeam k f).hostSeen = s.hostSeen := rfl
@[simp] theorem State.modTeam_hostRd (s : State) (k : Nat) (f : Team → Team) : (s.modTeam k f).hostRd = s.hostRd := rfl
@[simp] theorem State.modTeam_hostCpl (s : State) (k : Nat) (f : Team → Team) : (s.modTeam k f).hostCpl = s.hostCpl := rfl
@[simp] theorem State.modTeam_rdmaOut (s : State) (k : Nat) (f : Team → Team) : (s.modTeam k f).rdmaOut = s.rdmaOut := rfl
@[simp] theorem State.modTeam_fabOut (s : State) (k : Nat) (f : Team → Team) : (s.modTeam k f).fabOut = s.fabOut := rfl
@[simp] theorem State.modTeam_uid (s : State) (k : Nat) (f : Team → Team) : (s.modTeam k f).uid = s.uid := rfl
@[simp] theorem State.modTeam_clk (s : State) (k : Nat) (f : Team → Team) : (s.modTeam k f).clk = s.clk := rfl
@[simp] theorem State.modTeam_cur (s : State) (k : Nat) (f : Team → Team) : (s.modTeam k f).cur = s.cur := rfl
@[simp] theorem State.modTeam_free (s : State) (k : Nat) (f : Team → Team) : (s.modTeam k f).free = s.free := rfl
@[simp] theorem State.modTeam_agenda (s : State) (k : Nat) (f : Team → Team) : (s.modTeam k f).agenda = s.agenda := rfl

/-! ### putGroup writes groups -/

@[simp] theorem State.putGroup_mem (s : State) (g : Group) : (s.putGroup g).mem = s.mem := rfl
@[simp] theorem State.putGroup_teams (s : State) (g : Group) : (s.putGroup g).teams = s.teams := rfl
@[simp] theorem State.putGroup_ctxs (s : State) (g : Group) : (s.putGroup g).ctxs = s.ctxs := rfl
@[simp] theorem State.putGroup_parts (s : State) (g : Group) : (s.putGroup g).parts = s.parts := rfl
@[simp] theorem State.putGroup_modl (s : State) (g : Group) : (s.putGroup g).modl = s.modl := rfl
@[simp] theorem State.putGroup_cores (s : State) (g : Group) : (s.putGroup g).cores = s.cores := rfl
@[simp] theorem State.putGroup_acc (s : State) (g : Group) : (s.putGroup g).acc = s.acc := rfl
@[simp] theorem State.putGroup_pfs (s : State) (g : Group) : (s.putGroup g).pfs = s.pfs := rfl
@[simp] theorem State.putGroup_asy (s : State) (g : Group) : (s.putGroup g).asy = s.asy := rfl
@[simp] theorem State.putGroup_tops (s : State) (g : Group) : (s.putGroup g).tops = s.tops := rfl
@[simp] theorem State.putGroup_far (s : State) (g : Group) : (s.putGroup g).far = s.far := rfl
@[simp] theorem State.putGroup_svc (s : State) (g : Group) : (s.putGroup g).svc = s.svc := rfl
@[simp] theorem State.putGroup_bars (s : State) (g : Group) : (s.putGroup g).bars = s.bars := rfl
@[simp] theorem State.putGroup_scopes (s : State) (g : Group) : (s.putGroup g).scopes = s.scopes := rfl
@[simp] theorem State.putGroup_tcache (s : State) (g : Group) : (s.putGroup g).tcache = s.tcache := rfl
@[simp] theorem State.putGroup_rounds (s : State) (g : Group) : (s.putGroup g).rounds = s.rounds := rfl
@[simp] theorem State.putGroup_dfl (s : State) (g : Group) : (s.putGroup g).dfl = s.dfl := rfl
@[simp] theorem State.putGroup_det (s : State) (g : Group) : (s.putGroup g).det = s.det := rfl
@[simp] theorem State.putGroup_futFull (s : State) (g : Group) : (s.putGroup g).futFull = s.futFull := rfl
@[simp] theorem State.putGroup_futWait (s : State) (g : Group) : (s.putGroup g).futWait = s.futWait := rfl
@[simp] theorem State.putGroup_tasks (s : State) (g : Group) : (s.putGroup g).tasks = s.tasks := rfl
@[simp] theorem State.putGroup_recs (s : State) (g : Group) : (s.putGroup g).recs = s.recs := rfl
@[simp] theorem State.putGroup_pend (s : State) (g : Group) : (s.putGroup g).pend = s.pend := rfl
@[simp] theorem State.putGroup_gens (s : State) (g : Group) : (s.putGroup g).gens = s.gens := rfl
@[simp] theorem State.putGroup_launches (s : State) (g : Group) : (s.putGroup g).launches = s.launches := rfl
@[simp] theorem State.putGroup_lqs (s : State) (g : Group) : (s.putGroup g).lqs = s.lqs := rfl
@[simp] theorem State.putGroup_peers (s : State) (g : Group) : (s.putGroup g).peers = s.peers := rfl
@[simp] theorem State.putGroup_batches (s : State) (g : Group) : (s.putGroup g).batches = s.batches := rfl
@[simp] theorem State.putGroup_laneReqs (s : State) (g : Group) : (s.putGroup g).laneReqs = s.laneReqs := rfl
@[simp] theorem State.putGroup_inTasks (s : State) (g : Group) : (s.putGroup g).inTasks = s.inTasks := rfl
@[simp] theorem State.putGroup_rel (s : State) (g : Group) : (s.putGroup g).rel = s.rel := rfl
@[simp] theorem State.putGroup_trc (s : State) (g : Group) : (s.putGroup g).trc = s.trc := rfl
@[simp] theorem State.putGroup_qps (s : State) (g : Group) : (s.putGroup g).qps = s.qps := rfl
@[simp] theorem State.putGroup_hostOut (s : State) (g : Group) : (s.putGroup g).hostOut = s.hostOut := rfl
@[simp] theorem State.putGroup_hostSeen (s : State) (g : Group) : (s.putGroup g).hostSeen = s.hostSeen := rfl
@[simp] theorem State.putGroup_hostRd (s : State) (g : Group) : (s.putGroup g).hostRd = s.hostRd := rfl
@[simp] theorem State.putGroup_hostCpl (s : State) (g : Group) : (s.putGroup g).hostCpl = s.hostCpl := rfl
@[simp] theorem State.putGroup_rdmaOut (s : State) (g : Group) : (s.putGroup g).rdmaOut = s.rdmaOut := rfl
@[simp] theorem State.putGroup_fabOut (s : State) (g : Group) : (s.putGroup g).fabOut = s.fabOut := rfl
@[simp] theorem State.putGroup_uid (s : State) (g : Group) : (s.putGroup g).uid = s.uid := rfl
@[simp] theorem State.putGroup_clk (s : State) (g : Group) : (s.putGroup g).clk = s.clk := rfl
@[simp] theorem State.putGroup_cur (s : State) (g : Group) : (s.putGroup g).cur = s.cur := rfl
@[simp] theorem State.putGroup_free (s : State) (g : Group) : (s.putGroup g).free = s.free := rfl
@[simp] theorem State.putGroup_agenda (s : State) (g : Group) : (s.putGroup g).agenda = s.agenda := rfl

/-! ### modGroup writes groups -/

@[simp] theorem State.modGroup_mem (s : State) (k : Nat) (f : Group → Group) : (s.modGroup k f).mem = s.mem := rfl
@[simp] theorem State.modGroup_teams (s : State) (k : Nat) (f : Group → Group) : (s.modGroup k f).teams = s.teams := rfl
@[simp] theorem State.modGroup_ctxs (s : State) (k : Nat) (f : Group → Group) : (s.modGroup k f).ctxs = s.ctxs := rfl
@[simp] theorem State.modGroup_parts (s : State) (k : Nat) (f : Group → Group) : (s.modGroup k f).parts = s.parts := rfl
@[simp] theorem State.modGroup_modl (s : State) (k : Nat) (f : Group → Group) : (s.modGroup k f).modl = s.modl := rfl
@[simp] theorem State.modGroup_cores (s : State) (k : Nat) (f : Group → Group) : (s.modGroup k f).cores = s.cores := rfl
@[simp] theorem State.modGroup_acc (s : State) (k : Nat) (f : Group → Group) : (s.modGroup k f).acc = s.acc := rfl
@[simp] theorem State.modGroup_pfs (s : State) (k : Nat) (f : Group → Group) : (s.modGroup k f).pfs = s.pfs := rfl
@[simp] theorem State.modGroup_asy (s : State) (k : Nat) (f : Group → Group) : (s.modGroup k f).asy = s.asy := rfl
@[simp] theorem State.modGroup_tops (s : State) (k : Nat) (f : Group → Group) : (s.modGroup k f).tops = s.tops := rfl
@[simp] theorem State.modGroup_far (s : State) (k : Nat) (f : Group → Group) : (s.modGroup k f).far = s.far := rfl
@[simp] theorem State.modGroup_svc (s : State) (k : Nat) (f : Group → Group) : (s.modGroup k f).svc = s.svc := rfl
@[simp] theorem State.modGroup_bars (s : State) (k : Nat) (f : Group → Group) : (s.modGroup k f).bars = s.bars := rfl
@[simp] theorem State.modGroup_scopes (s : State) (k : Nat) (f : Group → Group) : (s.modGroup k f).scopes = s.scopes := rfl
@[simp] theorem State.modGroup_tcache (s : State) (k : Nat) (f : Group → Group) : (s.modGroup k f).tcache = s.tcache := rfl
@[simp] theorem State.modGroup_rounds (s : State) (k : Nat) (f : Group → Group) : (s.modGroup k f).rounds = s.rounds := rfl
@[simp] theorem State.modGroup_dfl (s : State) (k : Nat) (f : Group → Group) : (s.modGroup k f).dfl = s.dfl := rfl
@[simp] theorem State.modGroup_det (s : State) (k : Nat) (f : Group → Group) : (s.modGroup k f).det = s.det := rfl
@[simp] theorem State.modGroup_futFull (s : State) (k : Nat) (f : Group → Group) : (s.modGroup k f).futFull = s.futFull := rfl
@[simp] theorem State.modGroup_futWait (s : State) (k : Nat) (f : Group → Group) : (s.modGroup k f).futWait = s.futWait := rfl
@[simp] theorem State.modGroup_tasks (s : State) (k : Nat) (f : Group → Group) : (s.modGroup k f).tasks = s.tasks := rfl
@[simp] theorem State.modGroup_recs (s : State) (k : Nat) (f : Group → Group) : (s.modGroup k f).recs = s.recs := rfl
@[simp] theorem State.modGroup_pend (s : State) (k : Nat) (f : Group → Group) : (s.modGroup k f).pend = s.pend := rfl
@[simp] theorem State.modGroup_gens (s : State) (k : Nat) (f : Group → Group) : (s.modGroup k f).gens = s.gens := rfl
@[simp] theorem State.modGroup_launches (s : State) (k : Nat) (f : Group → Group) : (s.modGroup k f).launches = s.launches := rfl
@[simp] theorem State.modGroup_lqs (s : State) (k : Nat) (f : Group → Group) : (s.modGroup k f).lqs = s.lqs := rfl
@[simp] theorem State.modGroup_peers (s : State) (k : Nat) (f : Group → Group) : (s.modGroup k f).peers = s.peers := rfl
@[simp] theorem State.modGroup_batches (s : State) (k : Nat) (f : Group → Group) : (s.modGroup k f).batches = s.batches := rfl
@[simp] theorem State.modGroup_laneReqs (s : State) (k : Nat) (f : Group → Group) : (s.modGroup k f).laneReqs = s.laneReqs := rfl
@[simp] theorem State.modGroup_inTasks (s : State) (k : Nat) (f : Group → Group) : (s.modGroup k f).inTasks = s.inTasks := rfl
@[simp] theorem State.modGroup_rel (s : State) (k : Nat) (f : Group → Group) : (s.modGroup k f).rel = s.rel := rfl
@[simp] theorem State.modGroup_trc (s : State) (k : Nat) (f : Group → Group) : (s.modGroup k f).trc = s.trc := rfl
@[simp] theorem State.modGroup_qps (s : State) (k : Nat) (f : Group → Group) : (s.modGroup k f).qps = s.qps := rfl
@[simp] theorem State.modGroup_hostOut (s : State) (k : Nat) (f : Group → Group) : (s.modGroup k f).hostOut = s.hostOut := rfl
@[simp] theorem State.modGroup_hostSeen (s : State) (k : Nat) (f : Group → Group) : (s.modGroup k f).hostSeen = s.hostSeen := rfl
@[simp] theorem State.modGroup_hostRd (s : State) (k : Nat) (f : Group → Group) : (s.modGroup k f).hostRd = s.hostRd := rfl
@[simp] theorem State.modGroup_hostCpl (s : State) (k : Nat) (f : Group → Group) : (s.modGroup k f).hostCpl = s.hostCpl := rfl
@[simp] theorem State.modGroup_rdmaOut (s : State) (k : Nat) (f : Group → Group) : (s.modGroup k f).rdmaOut = s.rdmaOut := rfl
@[simp] theorem State.modGroup_fabOut (s : State) (k : Nat) (f : Group → Group) : (s.modGroup k f).fabOut = s.fabOut := rfl
@[simp] theorem State.modGroup_uid (s : State) (k : Nat) (f : Group → Group) : (s.modGroup k f).uid = s.uid := rfl
@[simp] theorem State.modGroup_clk (s : State) (k : Nat) (f : Group → Group) : (s.modGroup k f).clk = s.clk := rfl
@[simp] theorem State.modGroup_cur (s : State) (k : Nat) (f : Group → Group) : (s.modGroup k f).cur = s.cur := rfl
@[simp] theorem State.modGroup_free (s : State) (k : Nat) (f : Group → Group) : (s.modGroup k f).free = s.free := rfl
@[simp] theorem State.modGroup_agenda (s : State) (k : Nat) (f : Group → Group) : (s.modGroup k f).agenda = s.agenda := rfl

/-! ### putCtx writes ctxs -/

@[simp] theorem State.putCtx_mem (s : State) (c : Ctx) : (s.putCtx c).mem = s.mem := rfl
@[simp] theorem State.putCtx_teams (s : State) (c : Ctx) : (s.putCtx c).teams = s.teams := rfl
@[simp] theorem State.putCtx_groups (s : State) (c : Ctx) : (s.putCtx c).groups = s.groups := rfl
@[simp] theorem State.putCtx_parts (s : State) (c : Ctx) : (s.putCtx c).parts = s.parts := rfl
@[simp] theorem State.putCtx_modl (s : State) (c : Ctx) : (s.putCtx c).modl = s.modl := rfl
@[simp] theorem State.putCtx_cores (s : State) (c : Ctx) : (s.putCtx c).cores = s.cores := rfl
@[simp] theorem State.putCtx_acc (s : State) (c : Ctx) : (s.putCtx c).acc = s.acc := rfl
@[simp] theorem State.putCtx_pfs (s : State) (c : Ctx) : (s.putCtx c).pfs = s.pfs := rfl
@[simp] theorem State.putCtx_asy (s : State) (c : Ctx) : (s.putCtx c).asy = s.asy := rfl
@[simp] theorem State.putCtx_tops (s : State) (c : Ctx) : (s.putCtx c).tops = s.tops := rfl
@[simp] theorem State.putCtx_far (s : State) (c : Ctx) : (s.putCtx c).far = s.far := rfl
@[simp] theorem State.putCtx_svc (s : State) (c : Ctx) : (s.putCtx c).svc = s.svc := rfl
@[simp] theorem State.putCtx_bars (s : State) (c : Ctx) : (s.putCtx c).bars = s.bars := rfl
@[simp] theorem State.putCtx_scopes (s : State) (c : Ctx) : (s.putCtx c).scopes = s.scopes := rfl
@[simp] theorem State.putCtx_tcache (s : State) (c : Ctx) : (s.putCtx c).tcache = s.tcache := rfl
@[simp] theorem State.putCtx_rounds (s : State) (c : Ctx) : (s.putCtx c).rounds = s.rounds := rfl
@[simp] theorem State.putCtx_dfl (s : State) (c : Ctx) : (s.putCtx c).dfl = s.dfl := rfl
@[simp] theorem State.putCtx_det (s : State) (c : Ctx) : (s.putCtx c).det = s.det := rfl
@[simp] theorem State.putCtx_futFull (s : State) (c : Ctx) : (s.putCtx c).futFull = s.futFull := rfl
@[simp] theorem State.putCtx_futWait (s : State) (c : Ctx) : (s.putCtx c).futWait = s.futWait := rfl
@[simp] theorem State.putCtx_tasks (s : State) (c : Ctx) : (s.putCtx c).tasks = s.tasks := rfl
@[simp] theorem State.putCtx_recs (s : State) (c : Ctx) : (s.putCtx c).recs = s.recs := rfl
@[simp] theorem State.putCtx_pend (s : State) (c : Ctx) : (s.putCtx c).pend = s.pend := rfl
@[simp] theorem State.putCtx_gens (s : State) (c : Ctx) : (s.putCtx c).gens = s.gens := rfl
@[simp] theorem State.putCtx_launches (s : State) (c : Ctx) : (s.putCtx c).launches = s.launches := rfl
@[simp] theorem State.putCtx_lqs (s : State) (c : Ctx) : (s.putCtx c).lqs = s.lqs := rfl
@[simp] theorem State.putCtx_peers (s : State) (c : Ctx) : (s.putCtx c).peers = s.peers := rfl
@[simp] theorem State.putCtx_batches (s : State) (c : Ctx) : (s.putCtx c).batches = s.batches := rfl
@[simp] theorem State.putCtx_laneReqs (s : State) (c : Ctx) : (s.putCtx c).laneReqs = s.laneReqs := rfl
@[simp] theorem State.putCtx_inTasks (s : State) (c : Ctx) : (s.putCtx c).inTasks = s.inTasks := rfl
@[simp] theorem State.putCtx_rel (s : State) (c : Ctx) : (s.putCtx c).rel = s.rel := rfl
@[simp] theorem State.putCtx_trc (s : State) (c : Ctx) : (s.putCtx c).trc = s.trc := rfl
@[simp] theorem State.putCtx_qps (s : State) (c : Ctx) : (s.putCtx c).qps = s.qps := rfl
@[simp] theorem State.putCtx_hostOut (s : State) (c : Ctx) : (s.putCtx c).hostOut = s.hostOut := rfl
@[simp] theorem State.putCtx_hostSeen (s : State) (c : Ctx) : (s.putCtx c).hostSeen = s.hostSeen := rfl
@[simp] theorem State.putCtx_hostRd (s : State) (c : Ctx) : (s.putCtx c).hostRd = s.hostRd := rfl
@[simp] theorem State.putCtx_hostCpl (s : State) (c : Ctx) : (s.putCtx c).hostCpl = s.hostCpl := rfl
@[simp] theorem State.putCtx_rdmaOut (s : State) (c : Ctx) : (s.putCtx c).rdmaOut = s.rdmaOut := rfl
@[simp] theorem State.putCtx_fabOut (s : State) (c : Ctx) : (s.putCtx c).fabOut = s.fabOut := rfl
@[simp] theorem State.putCtx_uid (s : State) (c : Ctx) : (s.putCtx c).uid = s.uid := rfl
@[simp] theorem State.putCtx_clk (s : State) (c : Ctx) : (s.putCtx c).clk = s.clk := rfl
@[simp] theorem State.putCtx_cur (s : State) (c : Ctx) : (s.putCtx c).cur = s.cur := rfl
@[simp] theorem State.putCtx_free (s : State) (c : Ctx) : (s.putCtx c).free = s.free := rfl
@[simp] theorem State.putCtx_agenda (s : State) (c : Ctx) : (s.putCtx c).agenda = s.agenda := rfl

/-! ### modCtx writes ctxs -/

@[simp] theorem State.modCtx_mem (s : State) (c : Nat) (f : Ctx → Ctx) : (s.modCtx c f).mem = s.mem := rfl
@[simp] theorem State.modCtx_teams (s : State) (c : Nat) (f : Ctx → Ctx) : (s.modCtx c f).teams = s.teams := rfl
@[simp] theorem State.modCtx_groups (s : State) (c : Nat) (f : Ctx → Ctx) : (s.modCtx c f).groups = s.groups := rfl
@[simp] theorem State.modCtx_parts (s : State) (c : Nat) (f : Ctx → Ctx) : (s.modCtx c f).parts = s.parts := rfl
@[simp] theorem State.modCtx_modl (s : State) (c : Nat) (f : Ctx → Ctx) : (s.modCtx c f).modl = s.modl := rfl
@[simp] theorem State.modCtx_cores (s : State) (c : Nat) (f : Ctx → Ctx) : (s.modCtx c f).cores = s.cores := rfl
@[simp] theorem State.modCtx_acc (s : State) (c : Nat) (f : Ctx → Ctx) : (s.modCtx c f).acc = s.acc := rfl
@[simp] theorem State.modCtx_pfs (s : State) (c : Nat) (f : Ctx → Ctx) : (s.modCtx c f).pfs = s.pfs := rfl
@[simp] theorem State.modCtx_asy (s : State) (c : Nat) (f : Ctx → Ctx) : (s.modCtx c f).asy = s.asy := rfl
@[simp] theorem State.modCtx_tops (s : State) (c : Nat) (f : Ctx → Ctx) : (s.modCtx c f).tops = s.tops := rfl
@[simp] theorem State.modCtx_far (s : State) (c : Nat) (f : Ctx → Ctx) : (s.modCtx c f).far = s.far := rfl
@[simp] theorem State.modCtx_svc (s : State) (c : Nat) (f : Ctx → Ctx) : (s.modCtx c f).svc = s.svc := rfl
@[simp] theorem State.modCtx_bars (s : State) (c : Nat) (f : Ctx → Ctx) : (s.modCtx c f).bars = s.bars := rfl
@[simp] theorem State.modCtx_scopes (s : State) (c : Nat) (f : Ctx → Ctx) : (s.modCtx c f).scopes = s.scopes := rfl
@[simp] theorem State.modCtx_tcache (s : State) (c : Nat) (f : Ctx → Ctx) : (s.modCtx c f).tcache = s.tcache := rfl
@[simp] theorem State.modCtx_rounds (s : State) (c : Nat) (f : Ctx → Ctx) : (s.modCtx c f).rounds = s.rounds := rfl
@[simp] theorem State.modCtx_dfl (s : State) (c : Nat) (f : Ctx → Ctx) : (s.modCtx c f).dfl = s.dfl := rfl
@[simp] theorem State.modCtx_det (s : State) (c : Nat) (f : Ctx → Ctx) : (s.modCtx c f).det = s.det := rfl
@[simp] theorem State.modCtx_futFull (s : State) (c : Nat) (f : Ctx → Ctx) : (s.modCtx c f).futFull = s.futFull := rfl
@[simp] theorem State.modCtx_futWait (s : State) (c : Nat) (f : Ctx → Ctx) : (s.modCtx c f).futWait = s.futWait := rfl
@[simp] theorem State.modCtx_tasks (s : State) (c : Nat) (f : Ctx → Ctx) : (s.modCtx c f).tasks = s.tasks := rfl
@[simp] theorem State.modCtx_recs (s : State) (c : Nat) (f : Ctx → Ctx) : (s.modCtx c f).recs = s.recs := rfl
@[simp] theorem State.modCtx_pend (s : State) (c : Nat) (f : Ctx → Ctx) : (s.modCtx c f).pend = s.pend := rfl
@[simp] theorem State.modCtx_gens (s : State) (c : Nat) (f : Ctx → Ctx) : (s.modCtx c f).gens = s.gens := rfl
@[simp] theorem State.modCtx_launches (s : State) (c : Nat) (f : Ctx → Ctx) : (s.modCtx c f).launches = s.launches := rfl
@[simp] theorem State.modCtx_lqs (s : State) (c : Nat) (f : Ctx → Ctx) : (s.modCtx c f).lqs = s.lqs := rfl
@[simp] theorem State.modCtx_peers (s : State) (c : Nat) (f : Ctx → Ctx) : (s.modCtx c f).peers = s.peers := rfl
@[simp] theorem State.modCtx_batches (s : State) (c : Nat) (f : Ctx → Ctx) : (s.modCtx c f).batches = s.batches := rfl
@[simp] theorem State.modCtx_laneReqs (s : State) (c : Nat) (f : Ctx → Ctx) : (s.modCtx c f).laneReqs = s.laneReqs := rfl
@[simp] theorem State.modCtx_inTasks (s : State) (c : Nat) (f : Ctx → Ctx) : (s.modCtx c f).inTasks = s.inTasks := rfl
@[simp] theorem State.modCtx_rel (s : State) (c : Nat) (f : Ctx → Ctx) : (s.modCtx c f).rel = s.rel := rfl
@[simp] theorem State.modCtx_trc (s : State) (c : Nat) (f : Ctx → Ctx) : (s.modCtx c f).trc = s.trc := rfl
@[simp] theorem State.modCtx_qps (s : State) (c : Nat) (f : Ctx → Ctx) : (s.modCtx c f).qps = s.qps := rfl
@[simp] theorem State.modCtx_hostOut (s : State) (c : Nat) (f : Ctx → Ctx) : (s.modCtx c f).hostOut = s.hostOut := rfl
@[simp] theorem State.modCtx_hostSeen (s : State) (c : Nat) (f : Ctx → Ctx) : (s.modCtx c f).hostSeen = s.hostSeen := rfl
@[simp] theorem State.modCtx_hostRd (s : State) (c : Nat) (f : Ctx → Ctx) : (s.modCtx c f).hostRd = s.hostRd := rfl
@[simp] theorem State.modCtx_hostCpl (s : State) (c : Nat) (f : Ctx → Ctx) : (s.modCtx c f).hostCpl = s.hostCpl := rfl
@[simp] theorem State.modCtx_rdmaOut (s : State) (c : Nat) (f : Ctx → Ctx) : (s.modCtx c f).rdmaOut = s.rdmaOut := rfl
@[simp] theorem State.modCtx_fabOut (s : State) (c : Nat) (f : Ctx → Ctx) : (s.modCtx c f).fabOut = s.fabOut := rfl
@[simp] theorem State.modCtx_uid (s : State) (c : Nat) (f : Ctx → Ctx) : (s.modCtx c f).uid = s.uid := rfl
@[simp] theorem State.modCtx_clk (s : State) (c : Nat) (f : Ctx → Ctx) : (s.modCtx c f).clk = s.clk := rfl
@[simp] theorem State.modCtx_cur (s : State) (c : Nat) (f : Ctx → Ctx) : (s.modCtx c f).cur = s.cur := rfl
@[simp] theorem State.modCtx_free (s : State) (c : Nat) (f : Ctx → Ctx) : (s.modCtx c f).free = s.free := rfl
@[simp] theorem State.modCtx_agenda (s : State) (c : Nat) (f : Ctx → Ctx) : (s.modCtx c f).agenda = s.agenda := rfl

/-! ### modPart writes parts -/

@[simp] theorem State.modPart_mem (s : State) (p : Nat) (f : Part → Part) : (s.modPart p f).mem = s.mem := rfl
@[simp] theorem State.modPart_teams (s : State) (p : Nat) (f : Part → Part) : (s.modPart p f).teams = s.teams := rfl
@[simp] theorem State.modPart_groups (s : State) (p : Nat) (f : Part → Part) : (s.modPart p f).groups = s.groups := rfl
@[simp] theorem State.modPart_ctxs (s : State) (p : Nat) (f : Part → Part) : (s.modPart p f).ctxs = s.ctxs := rfl
@[simp] theorem State.modPart_modl (s : State) (p : Nat) (f : Part → Part) : (s.modPart p f).modl = s.modl := rfl
@[simp] theorem State.modPart_cores (s : State) (p : Nat) (f : Part → Part) : (s.modPart p f).cores = s.cores := rfl
@[simp] theorem State.modPart_acc (s : State) (p : Nat) (f : Part → Part) : (s.modPart p f).acc = s.acc := rfl
@[simp] theorem State.modPart_pfs (s : State) (p : Nat) (f : Part → Part) : (s.modPart p f).pfs = s.pfs := rfl
@[simp] theorem State.modPart_asy (s : State) (p : Nat) (f : Part → Part) : (s.modPart p f).asy = s.asy := rfl
@[simp] theorem State.modPart_tops (s : State) (p : Nat) (f : Part → Part) : (s.modPart p f).tops = s.tops := rfl
@[simp] theorem State.modPart_far (s : State) (p : Nat) (f : Part → Part) : (s.modPart p f).far = s.far := rfl
@[simp] theorem State.modPart_svc (s : State) (p : Nat) (f : Part → Part) : (s.modPart p f).svc = s.svc := rfl
@[simp] theorem State.modPart_bars (s : State) (p : Nat) (f : Part → Part) : (s.modPart p f).bars = s.bars := rfl
@[simp] theorem State.modPart_scopes (s : State) (p : Nat) (f : Part → Part) : (s.modPart p f).scopes = s.scopes := rfl
@[simp] theorem State.modPart_tcache (s : State) (p : Nat) (f : Part → Part) : (s.modPart p f).tcache = s.tcache := rfl
@[simp] theorem State.modPart_rounds (s : State) (p : Nat) (f : Part → Part) : (s.modPart p f).rounds = s.rounds := rfl
@[simp] theorem State.modPart_dfl (s : State) (p : Nat) (f : Part → Part) : (s.modPart p f).dfl = s.dfl := rfl
@[simp] theorem State.modPart_det (s : State) (p : Nat) (f : Part → Part) : (s.modPart p f).det = s.det := rfl
@[simp] theorem State.modPart_futFull (s : State) (p : Nat) (f : Part → Part) : (s.modPart p f).futFull = s.futFull := rfl
@[simp] theorem State.modPart_futWait (s : State) (p : Nat) (f : Part → Part) : (s.modPart p f).futWait = s.futWait := rfl
@[simp] theorem State.modPart_tasks (s : State) (p : Nat) (f : Part → Part) : (s.modPart p f).tasks = s.tasks := rfl
@[simp] theorem State.modPart_recs (s : State) (p : Nat) (f : Part → Part) : (s.modPart p f).recs = s.recs := rfl
@[simp] theorem State.modPart_pend (s : State) (p : Nat) (f : Part → Part) : (s.modPart p f).pend = s.pend := rfl
@[simp] theorem State.modPart_gens (s : State) (p : Nat) (f : Part → Part) : (s.modPart p f).gens = s.gens := rfl
@[simp] theorem State.modPart_launches (s : State) (p : Nat) (f : Part → Part) : (s.modPart p f).launches = s.launches := rfl
@[simp] theorem State.modPart_lqs (s : State) (p : Nat) (f : Part → Part) : (s.modPart p f).lqs = s.lqs := rfl
@[simp] theorem State.modPart_peers (s : State) (p : Nat) (f : Part → Part) : (s.modPart p f).peers = s.peers := rfl
@[simp] theorem State.modPart_batches (s : State) (p : Nat) (f : Part → Part) : (s.modPart p f).batches = s.batches := rfl
@[simp] theorem State.modPart_laneReqs (s : State) (p : Nat) (f : Part → Part) : (s.modPart p f).laneReqs = s.laneReqs := rfl
@[simp] theorem State.modPart_inTasks (s : State) (p : Nat) (f : Part → Part) : (s.modPart p f).inTasks = s.inTasks := rfl
@[simp] theorem State.modPart_rel (s : State) (p : Nat) (f : Part → Part) : (s.modPart p f).rel = s.rel := rfl
@[simp] theorem State.modPart_trc (s : State) (p : Nat) (f : Part → Part) : (s.modPart p f).trc = s.trc := rfl
@[simp] theorem State.modPart_qps (s : State) (p : Nat) (f : Part → Part) : (s.modPart p f).qps = s.qps := rfl
@[simp] theorem State.modPart_hostOut (s : State) (p : Nat) (f : Part → Part) : (s.modPart p f).hostOut = s.hostOut := rfl
@[simp] theorem State.modPart_hostSeen (s : State) (p : Nat) (f : Part → Part) : (s.modPart p f).hostSeen = s.hostSeen := rfl
@[simp] theorem State.modPart_hostRd (s : State) (p : Nat) (f : Part → Part) : (s.modPart p f).hostRd = s.hostRd := rfl
@[simp] theorem State.modPart_hostCpl (s : State) (p : Nat) (f : Part → Part) : (s.modPart p f).hostCpl = s.hostCpl := rfl
@[simp] theorem State.modPart_rdmaOut (s : State) (p : Nat) (f : Part → Part) : (s.modPart p f).rdmaOut = s.rdmaOut := rfl
@[simp] theorem State.modPart_fabOut (s : State) (p : Nat) (f : Part → Part) : (s.modPart p f).fabOut = s.fabOut := rfl
@[simp] theorem State.modPart_uid (s : State) (p : Nat) (f : Part → Part) : (s.modPart p f).uid = s.uid := rfl
@[simp] theorem State.modPart_clk (s : State) (p : Nat) (f : Part → Part) : (s.modPart p f).clk = s.clk := rfl
@[simp] theorem State.modPart_cur (s : State) (p : Nat) (f : Part → Part) : (s.modPart p f).cur = s.cur := rfl
@[simp] theorem State.modPart_free (s : State) (p : Nat) (f : Part → Part) : (s.modPart p f).free = s.free := rfl
@[simp] theorem State.modPart_agenda (s : State) (p : Nat) (f : Part → Part) : (s.modPart p f).agenda = s.agenda := rfl

/-! ### modCore writes cores -/

@[simp] theorem State.modCore_mem (s : State) (k : Nat) (f : Core → Core) : (s.modCore k f).mem = s.mem := rfl
@[simp] theorem State.modCore_teams (s : State) (k : Nat) (f : Core → Core) : (s.modCore k f).teams = s.teams := rfl
@[simp] theorem State.modCore_groups (s : State) (k : Nat) (f : Core → Core) : (s.modCore k f).groups = s.groups := rfl
@[simp] theorem State.modCore_ctxs (s : State) (k : Nat) (f : Core → Core) : (s.modCore k f).ctxs = s.ctxs := rfl
@[simp] theorem State.modCore_parts (s : State) (k : Nat) (f : Core → Core) : (s.modCore k f).parts = s.parts := rfl
@[simp] theorem State.modCore_modl (s : State) (k : Nat) (f : Core → Core) : (s.modCore k f).modl = s.modl := rfl
@[simp] theorem State.modCore_acc (s : State) (k : Nat) (f : Core → Core) : (s.modCore k f).acc = s.acc := rfl
@[simp] theorem State.modCore_pfs (s : State) (k : Nat) (f : Core → Core) : (s.modCore k f).pfs = s.pfs := rfl
@[simp] theorem State.modCore_asy (s : State) (k : Nat) (f : Core → Core) : (s.modCore k f).asy = s.asy := rfl
@[simp] theorem State.modCore_tops (s : State) (k : Nat) (f : Core → Core) : (s.modCore k f).tops = s.tops := rfl
@[simp] theorem State.modCore_far (s : State) (k : Nat) (f : Core → Core) : (s.modCore k f).far = s.far := rfl
@[simp] theorem State.modCore_svc (s : State) (k : Nat) (f : Core → Core) : (s.modCore k f).svc = s.svc := rfl
@[simp] theorem State.modCore_bars (s : State) (k : Nat) (f : Core → Core) : (s.modCore k f).bars = s.bars := rfl
@[simp] theorem State.modCore_scopes (s : State) (k : Nat) (f : Core → Core) : (s.modCore k f).scopes = s.scopes := rfl
@[simp] theorem State.modCore_tcache (s : State) (k : Nat) (f : Core → Core) : (s.modCore k f).tcache = s.tcache := rfl
@[simp] theorem State.modCore_rounds (s : State) (k : Nat) (f : Core → Core) : (s.modCore k f).rounds = s.rounds := rfl
@[simp] theorem State.modCore_dfl (s : State) (k : Nat) (f : Core → Core) : (s.modCore k f).dfl = s.dfl := rfl
@[simp] theorem State.modCore_det (s : State) (k : Nat) (f : Core → Core) : (s.modCore k f).det = s.det := rfl
@[simp] theorem State.modCore_futFull (s : State) (k : Nat) (f : Core → Core) : (s.modCore k f).futFull = s.futFull := rfl
@[simp] theorem State.modCore_futWait (s : State) (k : Nat) (f : Core → Core) : (s.modCore k f).futWait = s.futWait := rfl
@[simp] theorem State.modCore_tasks (s : State) (k : Nat) (f : Core → Core) : (s.modCore k f).tasks = s.tasks := rfl
@[simp] theorem State.modCore_recs (s : State) (k : Nat) (f : Core → Core) : (s.modCore k f).recs = s.recs := rfl
@[simp] theorem State.modCore_pend (s : State) (k : Nat) (f : Core → Core) : (s.modCore k f).pend = s.pend := rfl
@[simp] theorem State.modCore_gens (s : State) (k : Nat) (f : Core → Core) : (s.modCore k f).gens = s.gens := rfl
@[simp] theorem State.modCore_launches (s : State) (k : Nat) (f : Core → Core) : (s.modCore k f).launches = s.launches := rfl
@[simp] theorem State.modCore_lqs (s : State) (k : Nat) (f : Core → Core) : (s.modCore k f).lqs = s.lqs := rfl
@[simp] theorem State.modCore_peers (s : State) (k : Nat) (f : Core → Core) : (s.modCore k f).peers = s.peers := rfl
@[simp] theorem State.modCore_batches (s : State) (k : Nat) (f : Core → Core) : (s.modCore k f).batches = s.batches := rfl
@[simp] theorem State.modCore_laneReqs (s : State) (k : Nat) (f : Core → Core) : (s.modCore k f).laneReqs = s.laneReqs := rfl
@[simp] theorem State.modCore_inTasks (s : State) (k : Nat) (f : Core → Core) : (s.modCore k f).inTasks = s.inTasks := rfl
@[simp] theorem State.modCore_rel (s : State) (k : Nat) (f : Core → Core) : (s.modCore k f).rel = s.rel := rfl
@[simp] theorem State.modCore_trc (s : State) (k : Nat) (f : Core → Core) : (s.modCore k f).trc = s.trc := rfl
@[simp] theorem State.modCore_qps (s : State) (k : Nat) (f : Core → Core) : (s.modCore k f).qps = s.qps := rfl
@[simp] theorem State.modCore_hostOut (s : State) (k : Nat) (f : Core → Core) : (s.modCore k f).hostOut = s.hostOut := rfl
@[simp] theorem State.modCore_hostSeen (s : State) (k : Nat) (f : Core → Core) : (s.modCore k f).hostSeen = s.hostSeen := rfl
@[simp] theorem State.modCore_hostRd (s : State) (k : Nat) (f : Core → Core) : (s.modCore k f).hostRd = s.hostRd := rfl
@[simp] theorem State.modCore_hostCpl (s : State) (k : Nat) (f : Core → Core) : (s.modCore k f).hostCpl = s.hostCpl := rfl
@[simp] theorem State.modCore_rdmaOut (s : State) (k : Nat) (f : Core → Core) : (s.modCore k f).rdmaOut = s.rdmaOut := rfl
@[simp] theorem State.modCore_fabOut (s : State) (k : Nat) (f : Core → Core) : (s.modCore k f).fabOut = s.fabOut := rfl
@[simp] theorem State.modCore_uid (s : State) (k : Nat) (f : Core → Core) : (s.modCore k f).uid = s.uid := rfl
@[simp] theorem State.modCore_clk (s : State) (k : Nat) (f : Core → Core) : (s.modCore k f).clk = s.clk := rfl
@[simp] theorem State.modCore_cur (s : State) (k : Nat) (f : Core → Core) : (s.modCore k f).cur = s.cur := rfl
@[simp] theorem State.modCore_free (s : State) (k : Nat) (f : Core → Core) : (s.modCore k f).free = s.free := rfl
@[simp] theorem State.modCore_agenda (s : State) (k : Nat) (f : Core → Core) : (s.modCore k f).agenda = s.agenda := rfl

/-! ### modPeer writes peers -/

@[simp] theorem State.modPeer_mem (s : State) (m : Nat) (f : Peer → Peer) : (s.modPeer m f).mem = s.mem := rfl
@[simp] theorem State.modPeer_teams (s : State) (m : Nat) (f : Peer → Peer) : (s.modPeer m f).teams = s.teams := rfl
@[simp] theorem State.modPeer_groups (s : State) (m : Nat) (f : Peer → Peer) : (s.modPeer m f).groups = s.groups := rfl
@[simp] theorem State.modPeer_ctxs (s : State) (m : Nat) (f : Peer → Peer) : (s.modPeer m f).ctxs = s.ctxs := rfl
@[simp] theorem State.modPeer_parts (s : State) (m : Nat) (f : Peer → Peer) : (s.modPeer m f).parts = s.parts := rfl
@[simp] theorem State.modPeer_modl (s : State) (m : Nat) (f : Peer → Peer) : (s.modPeer m f).modl = s.modl := rfl
@[simp] theorem State.modPeer_cores (s : State) (m : Nat) (f : Peer → Peer) : (s.modPeer m f).cores = s.cores := rfl
@[simp] theorem State.modPeer_acc (s : State) (m : Nat) (f : Peer → Peer) : (s.modPeer m f).acc = s.acc := rfl
@[simp] theorem State.modPeer_pfs (s : State) (m : Nat) (f : Peer → Peer) : (s.modPeer m f).pfs = s.pfs := rfl
@[simp] theorem State.modPeer_asy (s : State) (m : Nat) (f : Peer → Peer) : (s.modPeer m f).asy = s.asy := rfl
@[simp] theorem State.modPeer_tops (s : State) (m : Nat) (f : Peer → Peer) : (s.modPeer m f).tops = s.tops := rfl
@[simp] theorem State.modPeer_far (s : State) (m : Nat) (f : Peer → Peer) : (s.modPeer m f).far = s.far := rfl
@[simp] theorem State.modPeer_svc (s : State) (m : Nat) (f : Peer → Peer) : (s.modPeer m f).svc = s.svc := rfl
@[simp] theorem State.modPeer_bars (s : State) (m : Nat) (f : Peer → Peer) : (s.modPeer m f).bars = s.bars := rfl
@[simp] theorem State.modPeer_scopes (s : State) (m : Nat) (f : Peer → Peer) : (s.modPeer m f).scopes = s.scopes := rfl
@[simp] theorem State.modPeer_tcache (s : State) (m : Nat) (f : Peer → Peer) : (s.modPeer m f).tcache = s.tcache := rfl
@[simp] theorem State.modPeer_rounds (s : State) (m : Nat) (f : Peer → Peer) : (s.modPeer m f).rounds = s.rounds := rfl
@[simp] theorem State.modPeer_dfl (s : State) (m : Nat) (f : Peer → Peer) : (s.modPeer m f).dfl = s.dfl := rfl
@[simp] theorem State.modPeer_det (s : State) (m : Nat) (f : Peer → Peer) : (s.modPeer m f).det = s.det := rfl
@[simp] theorem State.modPeer_futFull (s : State) (m : Nat) (f : Peer → Peer) : (s.modPeer m f).futFull = s.futFull := rfl
@[simp] theorem State.modPeer_futWait (s : State) (m : Nat) (f : Peer → Peer) : (s.modPeer m f).futWait = s.futWait := rfl
@[simp] theorem State.modPeer_tasks (s : State) (m : Nat) (f : Peer → Peer) : (s.modPeer m f).tasks = s.tasks := rfl
@[simp] theorem State.modPeer_recs (s : State) (m : Nat) (f : Peer → Peer) : (s.modPeer m f).recs = s.recs := rfl
@[simp] theorem State.modPeer_pend (s : State) (m : Nat) (f : Peer → Peer) : (s.modPeer m f).pend = s.pend := rfl
@[simp] theorem State.modPeer_gens (s : State) (m : Nat) (f : Peer → Peer) : (s.modPeer m f).gens = s.gens := rfl
@[simp] theorem State.modPeer_launches (s : State) (m : Nat) (f : Peer → Peer) : (s.modPeer m f).launches = s.launches := rfl
@[simp] theorem State.modPeer_lqs (s : State) (m : Nat) (f : Peer → Peer) : (s.modPeer m f).lqs = s.lqs := rfl
@[simp] theorem State.modPeer_batches (s : State) (m : Nat) (f : Peer → Peer) : (s.modPeer m f).batches = s.batches := rfl
@[simp] theorem State.modPeer_laneReqs (s : State) (m : Nat) (f : Peer → Peer) : (s.modPeer m f).laneReqs = s.laneReqs := rfl
@[simp] theorem State.modPeer_inTasks (s : State) (m : Nat) (f : Peer → Peer) : (s.modPeer m f).inTasks = s.inTasks := rfl
@[simp] theorem State.modPeer_rel (s : State) (m : Nat) (f : Peer → Peer) : (s.modPeer m f).rel = s.rel := rfl
@[simp] theorem State.modPeer_trc (s : State) (m : Nat) (f : Peer → Peer) : (s.modPeer m f).trc = s.trc := rfl
@[simp] theorem State.modPeer_qps (s : State) (m : Nat) (f : Peer → Peer) : (s.modPeer m f).qps = s.qps := rfl
@[simp] theorem State.modPeer_hostOut (s : State) (m : Nat) (f : Peer → Peer) : (s.modPeer m f).hostOut = s.hostOut := rfl
@[simp] theorem State.modPeer_hostSeen (s : State) (m : Nat) (f : Peer → Peer) : (s.modPeer m f).hostSeen = s.hostSeen := rfl
@[simp] theorem State.modPeer_hostRd (s : State) (m : Nat) (f : Peer → Peer) : (s.modPeer m f).hostRd = s.hostRd := rfl
@[simp] theorem State.modPeer_hostCpl (s : State) (m : Nat) (f : Peer → Peer) : (s.modPeer m f).hostCpl = s.hostCpl := rfl
@[simp] theorem State.modPeer_rdmaOut (s : State) (m : Nat) (f : Peer → Peer) : (s.modPeer m f).rdmaOut = s.rdmaOut := rfl
@[simp] theorem State.modPeer_fabOut (s : State) (m : Nat) (f : Peer → Peer) : (s.modPeer m f).fabOut = s.fabOut := rfl
@[simp] theorem State.modPeer_uid (s : State) (m : Nat) (f : Peer → Peer) : (s.modPeer m f).uid = s.uid := rfl
@[simp] theorem State.modPeer_clk (s : State) (m : Nat) (f : Peer → Peer) : (s.modPeer m f).clk = s.clk := rfl
@[simp] theorem State.modPeer_cur (s : State) (m : Nat) (f : Peer → Peer) : (s.modPeer m f).cur = s.cur := rfl
@[simp] theorem State.modPeer_free (s : State) (m : Nat) (f : Peer → Peer) : (s.modPeer m f).free = s.free := rfl
@[simp] theorem State.modPeer_agenda (s : State) (m : Nat) (f : Peer → Peer) : (s.modPeer m f).agenda = s.agenda := rfl

/-! ### putRec writes recs -/

@[simp] theorem State.putRec_mem (s : State) (r : Rec) : (s.putRec r).mem = s.mem := rfl
@[simp] theorem State.putRec_teams (s : State) (r : Rec) : (s.putRec r).teams = s.teams := rfl
@[simp] theorem State.putRec_groups (s : State) (r : Rec) : (s.putRec r).groups = s.groups := rfl
@[simp] theorem State.putRec_ctxs (s : State) (r : Rec) : (s.putRec r).ctxs = s.ctxs := rfl
@[simp] theorem State.putRec_parts (s : State) (r : Rec) : (s.putRec r).parts = s.parts := rfl
@[simp] theorem State.putRec_modl (s : State) (r : Rec) : (s.putRec r).modl = s.modl := rfl
@[simp] theorem State.putRec_cores (s : State) (r : Rec) : (s.putRec r).cores = s.cores := rfl
@[simp] theorem State.putRec_acc (s : State) (r : Rec) : (s.putRec r).acc = s.acc := rfl
@[simp] theorem State.putRec_pfs (s : State) (r : Rec) : (s.putRec r).pfs = s.pfs := rfl
@[simp] theorem State.putRec_asy (s : State) (r : Rec) : (s.putRec r).asy = s.asy := rfl
@[simp] theorem State.putRec_tops (s : State) (r : Rec) : (s.putRec r).tops = s.tops := rfl
@[simp] theorem State.putRec_far (s : State) (r : Rec) : (s.putRec r).far = s.far := rfl
@[simp] theorem State.putRec_svc (s : State) (r : Rec) : (s.putRec r).svc = s.svc := rfl
@[simp] theorem State.putRec_bars (s : State) (r : Rec) : (s.putRec r).bars = s.bars := rfl
@[simp] theorem State.putRec_scopes (s : State) (r : Rec) : (s.putRec r).scopes = s.scopes := rfl
@[simp] theorem State.putRec_tcache (s : State) (r : Rec) : (s.putRec r).tcache = s.tcache := rfl
@[simp] theorem State.putRec_rounds (s : State) (r : Rec) : (s.putRec r).rounds = s.rounds := rfl
@[simp] theorem State.putRec_dfl (s : State) (r : Rec) : (s.putRec r).dfl = s.dfl := rfl
@[simp] theorem State.putRec_det (s : State) (r : Rec) : (s.putRec r).det = s.det := rfl
@[simp] theorem State.putRec_futFull (s : State) (r : Rec) : (s.putRec r).futFull = s.futFull := rfl
@[simp] theorem State.putRec_futWait (s : State) (r : Rec) : (s.putRec r).futWait = s.futWait := rfl
@[simp] theorem State.putRec_tasks (s : State) (r : Rec) : (s.putRec r).tasks = s.tasks := rfl
@[simp] theorem State.putRec_pend (s : State) (r : Rec) : (s.putRec r).pend = s.pend := rfl
@[simp] theorem State.putRec_gens (s : State) (r : Rec) : (s.putRec r).gens = s.gens := rfl
@[simp] theorem State.putRec_launches (s : State) (r : Rec) : (s.putRec r).launches = s.launches := rfl
@[simp] theorem State.putRec_lqs (s : State) (r : Rec) : (s.putRec r).lqs = s.lqs := rfl
@[simp] theorem State.putRec_peers (s : State) (r : Rec) : (s.putRec r).peers = s.peers := rfl
@[simp] theorem State.putRec_batches (s : State) (r : Rec) : (s.putRec r).batches = s.batches := rfl
@[simp] theorem State.putRec_laneReqs (s : State) (r : Rec) : (s.putRec r).laneReqs = s.laneReqs := rfl
@[simp] theorem State.putRec_inTasks (s : State) (r : Rec) : (s.putRec r).inTasks = s.inTasks := rfl
@[simp] theorem State.putRec_rel (s : State) (r : Rec) : (s.putRec r).rel = s.rel := rfl
@[simp] theorem State.putRec_trc (s : State) (r : Rec) : (s.putRec r).trc = s.trc := rfl
@[simp] theorem State.putRec_qps (s : State) (r : Rec) : (s.putRec r).qps = s.qps := rfl
@[simp] theorem State.putRec_hostOut (s : State) (r : Rec) : (s.putRec r).hostOut = s.hostOut := rfl
@[simp] theorem State.putRec_hostSeen (s : State) (r : Rec) : (s.putRec r).hostSeen = s.hostSeen := rfl
@[simp] theorem State.putRec_hostRd (s : State) (r : Rec) : (s.putRec r).hostRd = s.hostRd := rfl
@[simp] theorem State.putRec_hostCpl (s : State) (r : Rec) : (s.putRec r).hostCpl = s.hostCpl := rfl
@[simp] theorem State.putRec_rdmaOut (s : State) (r : Rec) : (s.putRec r).rdmaOut = s.rdmaOut := rfl
@[simp] theorem State.putRec_fabOut (s : State) (r : Rec) : (s.putRec r).fabOut = s.fabOut := rfl
@[simp] theorem State.putRec_uid (s : State) (r : Rec) : (s.putRec r).uid = s.uid := rfl
@[simp] theorem State.putRec_clk (s : State) (r : Rec) : (s.putRec r).clk = s.clk := rfl
@[simp] theorem State.putRec_cur (s : State) (r : Rec) : (s.putRec r).cur = s.cur := rfl
@[simp] theorem State.putRec_free (s : State) (r : Rec) : (s.putRec r).free = s.free := rfl
@[simp] theorem State.putRec_agenda (s : State) (r : Rec) : (s.putRec r).agenda = s.agenda := rfl

/-! ### Look-ups after an update -/

/-- The list after `putTeam` answers the team for its key when it held one, and stands for every other key. -/
theorem find_putTeam (t : Team) (k : Nat) (l : List Team) :
    (putTeam t l).find? (fun u => u.key == k) =
      if k = t.key then (l.find? (fun u => u.key == k)).map (fun _ => t) else l.find? (fun u => u.key == k) := by
  induction l with
  | nil => simp [putTeam]
  | cons u r ih =>
    by_cases h : u.key = t.key <;> by_cases hk : k = t.key <;> simp_all [putTeam, List.find?_cons]
    · have : (t.key == k) = false := by simp; omega
      simp [this]

theorem State.team_putTeam (s : State) (t : Team) (k : Nat) :
    (s.putTeam t).team k = if k = t.key then (s.team k).map (fun _ => t) else s.team k :=
  find_putTeam t k s.teams

@[simp] theorem State.team_putTeam_other (s : State) (t : Team) (k : Nat) (h : k ≠ t.key) :
    (s.putTeam t).team k = s.team k := by simp [State.team_putTeam, h]

@[simp] theorem State.team_putTeam_self (s : State) (t : Team) (h : (s.team t.key).isSome = true) :
    (s.putTeam t).team t.key = some t := by
  obtain ⟨u, hu⟩ := Option.isSome_iff_exists.mp h
  simp [State.team_putTeam, hu]

/-- A team found under a key has that key. -/
theorem State.team_key (s : State) (k : Nat) (t : Team) (h : s.team k = some t) : t.key = k := by
  simpa using List.find?_some h

/-- The team in the issue slot is the team of its key. -/
theorem State.curTeam_team (s : State) (t : Team) (h : s.curTeam = some t) : s.team t.key = some t ∧ s.cur = some t.key := by
  unfold State.curTeam at h
  cases hc : s.cur with
  | none => simp [hc] at h
  | some k =>
    simp only [hc, Option.bind_some] at h
    have := s.team_key k t h
    subst this
    exact ⟨h, rfl⟩

/-- A change of one team that keeps its key, seen by key. -/
theorem State.team_modTeam (s : State) (k j : Nat) (f : Team → Team) (hf : ∀ t, (f t).key = t.key) :
    (s.modTeam k f).team j = if j = k then (s.team j).map f else s.team j := by
  unfold State.modTeam State.team
  simp only
  induction s.teams with
  | nil => simp
  | cons u r ih =>
    by_cases h : u.key = k <;> by_cases hj : u.key = j <;> simp_all [List.find?_cons]
    simp [Ne.symm hj]

/-- A change of one group that keeps its slot, seen by slot. -/
theorem State.group_modGroup (s : State) (k j : Nat) (f : Group → Group) (hf : ∀ g, (f g).slot = g.slot) :
    (s.modGroup k f).group j = if j = k then (s.group j).map f else s.group j := by
  unfold State.modGroup State.group
  simp only
  induction s.groups with
  | nil => simp
  | cons u r ih =>
    by_cases h : u.slot = k <;> by_cases hj : u.slot = j <;> simp_all [List.find?_cons]
    simp [Ne.symm hj]

/-- An element put in under a key, seen by key. -/
theorem find_upsert {α : Type} (key : α → Nat) (x : α) (k : Nat) (l : List α) :
    (upsert key x l).find? (fun y => key y == k) = if k = key x then some x else l.find? (fun y => key y == k) := by
  induction l with
  | nil => by_cases h : k = key x <;> simp [upsert, List.find?_cons, h, Ne.symm]
  | cons y r ih =>
    by_cases h : key y = key x <;> by_cases hk : k = key x <;> simp_all [upsert, List.find?_cons]
    all_goals (try (have : (key x == k) = false := by simp; omega); simp [this])

theorem State.ctx_putCtx (s : State) (c : Ctx) (k : Nat) : (s.putCtx c).ctx k = if k = c.id then c else s.ctx k := by
  unfold State.putCtx State.ctx
  simp only [find_upsert]
  split <;> simp

/-- A context found under a number has it, and so has one never written. -/
@[simp] theorem State.ctx_id (s : State) (k : Nat) : (s.ctx k).id = k := by
  unfold State.ctx
  cases h : s.ctxs.find? (fun x => x.id == k) with
  | none => simp [Ctx.init]
  | some c => simpa using List.find?_some h

theorem State.ctx_modCtx (s : State) (c k : Nat) (f : Ctx → Ctx) (hf : ∀ x, (f x).id = x.id) :
    (s.modCtx c f).ctx k = if k = c then f (s.ctx c) else s.ctx k := by
  simp [State.modCtx, State.ctx_putCtx, hf]

@[simp] theorem State.core_id (s : State) (k : Nat) : (s.core k).id = k := by
  unfold State.core
  cases h : s.cores.find? (fun x => x.id == k) with
  | none => simp [Core.init]
  | some c => simpa using List.find?_some h

theorem State.core_modCore (s : State) (c k : Nat) (f : Core → Core) (hf : ∀ x, (f x).id = x.id) :
    (s.modCore c f).core k = if k = c then f (s.core c) else s.core k := by
  have hk : (f (s.core c)).id = c := by simp [hf]
  unfold State.modCore
  unfold State.core at hk ⊢
  simp only [find_upsert, hk]
  split <;> simp

@[simp] theorem State.peer_id (s : State) (k : Nat) : (s.peer k).id = k := by
  unfold State.peer
  cases h : s.peers.find? (fun x => x.id == k) with
  | none => simp [Peer.init]
  | some c => simpa using List.find?_some h

theorem State.peer_modPeer (s : State) (c k : Nat) (f : Peer → Peer) (hf : ∀ x, (f x).id = x.id) :
    (s.modPeer c f).peer k = if k = c then f (s.peer c) else s.peer k := by
  have hk : (f (s.peer c)).id = c := by simp [hf]
  unfold State.modPeer
  unfold State.peer at hk ⊢
  simp only [find_upsert, hk]
  split <;> simp

theorem State.part_modPart (s : State) (p q : Nat) (f : Part → Part) (h : p < s.parts.length) :
    (s.modPart p f).part q = if q = p then f (s.part p) else s.part q := by
  by_cases hq : q = p
  · subst hq; simp [State.modPart, State.part, List.getD_eq_getElem?_getD, h]
  · simp [State.modPart, State.part, List.getD_eq_getElem?_getD, hq, List.getElem?_set_ne (Ne.symm hq)]

end Sys2Proof.Machine
end

