-- ==== Sys2Proof/Laws/Memory.lean ====
section
/-! SUPPORT. The memory: every operation on it keeps the canonical form, what a byte reads as after a write, and the
form of the memory at reset. -/

namespace Sys2Proof.Machine

theorem Mem.wfFrom_mono {m : List Host.Cell} {lo hi : Nat} (h : Mem.wfFrom hi m = true) (hle : lo ≤ hi) :
    Mem.wfFrom lo m = true := by
  cases m with
  | nil => rfl
  | cons c r => simp only [Mem.wfFrom, Bool.and_eq_true, decide_eq_true_eq] at h ⊢; exact ⟨⟨by omega, h.1.2⟩, h.2⟩

/-- Below the lowest listed address a canonical memory reads 0. -/
theorem Mem.read_below {m : List Host.Cell} {lo a : Nat} (h : Mem.wfFrom lo m = true) (ha : a < lo) :
    Mem.read m a = 0 := by
  cases m with
  | nil => rfl
  | cons c r =>
    simp only [Mem.wfFrom, Bool.and_eq_true, decide_eq_true_eq] at h
    have h1 : a ≠ c.1 := by omega
    have h2 : a < c.1 := by omega
    simp [Mem.read, h1, h2]

/-- A byte written at or above `lo` keeps the canonical form from `lo`. -/
theorem Mem.wfFrom_write (m : List Host.Cell) : ∀ (lo a : Nat) (v : Byte), Mem.wfFrom lo m = true → lo ≤ a →
    Mem.wfFrom lo (Mem.write m a v) = true := by
  induction m with
  | nil =>
    intro lo a v _ ha
    unfold Mem.write
    split
    · rfl
    · simp only [Mem.wfFrom, Bool.and_eq_true, decide_eq_true_eq]; exact ⟨⟨ha, ‹_›⟩, trivial⟩
  | cons c r ih =>
    obtain ⟨k, w⟩ := c
    intro lo a v h ha
    simp only [Mem.wfFrom, Bool.and_eq_true, decide_eq_true_eq] at h
    obtain ⟨⟨h1, h2⟩, h3⟩ := h
    unfold Mem.write
    split
    · split
      · simp only [Mem.wfFrom, Bool.and_eq_true, decide_eq_true_eq]; exact ⟨⟨h1, h2⟩, h3⟩
      · simp only [Mem.wfFrom, Bool.and_eq_true, decide_eq_true_eq]; exact ⟨⟨ha, ‹_›⟩, ⟨by omega, h2⟩, h3⟩
    · split
      · subst k; split
        · exact Mem.wfFrom_mono h3 (by omega)
        · simp only [Mem.wfFrom, Bool.and_eq_true, decide_eq_true_eq]; exact ⟨⟨ha, ‹_›⟩, h3⟩
      · simp only [Mem.wfFrom, Bool.and_eq_true, decide_eq_true_eq]; exact ⟨⟨h1, h2⟩, ih _ _ _ h3 (by omega)⟩

/-- A byte written keeps the canonical form. -/
theorem Mem.wf_write {m : List Host.Cell} (h : Mem.wf m = true) (a : Nat) (v : Byte) : Mem.wf (Mem.write m a v) = true :=
  Mem.wfFrom_write m 0 a v h (Nat.zero_le a)

/-- Bytes written keep the canonical form. -/
theorem Mem.wf_writeN {m : List Host.Cell} (h : Mem.wf m = true) (a : Nat) (bs : List Byte) :
    Mem.wf (Mem.writeN m a bs) = true := by
  induction bs generalizing m a with
  | nil => exact h
  | cons b r ih => exact ih (Mem.wf_write h a b) (a + 1)

theorem Mem.wfFrom_filter (p : Host.Cell → Bool) (m : List Host.Cell) (lo : Nat) (h : Mem.wfFrom lo m = true) :
    Mem.wfFrom lo (m.filter p) = true := by
  induction m generalizing lo with
  | nil => rfl
  | cons c r ih =>
    simp only [Mem.wfFrom, Bool.and_eq_true, decide_eq_true_eq] at h
    by_cases hp : p c = true
    · simp only [List.filter_cons, hp, if_true, Mem.wfFrom, Bool.and_eq_true, decide_eq_true_eq]; exact ⟨h.1, ih _ h.2⟩
    · simp only [List.filter_cons, hp]
      exact Mem.wfFrom_mono (ih _ h.2) (by omega)

/-- Bytes cleared keep the canonical form. -/
theorem Mem.wf_clear {m : List Host.Cell} (h : Mem.wf m = true) (lo hi : Nat) : Mem.wf (Mem.clear m lo hi) = true :=
  Mem.wfFrom_filter _ m 0 h

/-- A byte after a write, in a memory canonical from some address. -/
theorem Mem.read_write_from (m : List Host.Cell) : ∀ (lo a b : Nat) (v : Byte), Mem.wfFrom lo m = true →
    Mem.read (Mem.write m a v) b = if b = a then v else Mem.read m b := by
  induction m with
  | nil =>
    intro lo a b v _
    unfold Mem.write
    split
    · subst v; simp [Mem.read]
    · simp [Mem.read]
  | cons c r ih =>
    obtain ⟨k, w⟩ := c
    intro lo a b v h
    simp only [Mem.wfFrom, Bool.and_eq_true, decide_eq_true_eq] at h
    have hr := ih (k + 1) a b v h.2
    have hlow : ∀ x, x ≤ k → Mem.read r x = 0 := fun x hx => Mem.read_below h.2 (by omega)
    unfold Mem.write
    split
    · split
      · subst v; by_cases hb : b = a
        · subst hb; simp only [Mem.read]; rw [if_neg (by omega), if_pos (by omega), if_pos trivial]
        · rw [if_neg hb]
      · simp only [Mem.read]; split
        · rfl
        · split
          · rw [if_neg (by omega), if_pos (by omega)]
          · rfl
    · split
      · subst k; split
        · subst v; by_cases hb : b = a
          · subst hb; simp [hlow]
          · simp only [hb, if_false, Mem.read]; split
            · exact hlow b (by omega)
            · rfl
        · simp only [Mem.read]; split <;> rfl
      · simp only [Mem.read]; split
        · rw [if_neg (by omega)]
        · split
          · rw [if_neg (by omega)]
          · exact hr

/-- A byte after a write of one byte. -/
theorem Mem.read_write {m : List Host.Cell} (h : Mem.wf m = true) (a b : Nat) (v : Byte) :
    Mem.read (Mem.write m a v) b = if b = a then v else Mem.read m b :=
  Mem.read_write_from m 0 a b v h

/-- Memory at reset is canonical. -/
theorem State.reset_inv : State.reset.Inv := rfl

end Sys2Proof.Machine
end

