-- ==== Sys2Proof/Laws/Frames.lean ====
section
/-! SUPPORT. The frame of each shared operation: the parts of the state it leaves as they were. -/

namespace Sys2Proof.Machine

/-- A fresh number is taken from `uid` alone. -/
@[simp] theorem State.fresh_keeps (s : State) :
    (s.fresh).1.mem = s.mem ∧ (s.fresh).1.teams = s.teams ∧ (s.fresh).1.groups = s.groups ∧
      (s.fresh).1.ctxs = s.ctxs ∧ (s.fresh).1.parts = s.parts ∧ (s.fresh).1.cores = s.cores ∧
      (s.fresh).1.acc = s.acc ∧ (s.fresh).1.asy = s.asy ∧ (s.fresh).1.tops = s.tops ∧ (s.fresh).1.svc = s.svc ∧
      (s.fresh).1.recs = s.recs ∧ (s.fresh).1.tasks = s.tasks ∧ (s.fresh).1.rounds = s.rounds ∧
      (s.fresh).1.dfl = s.dfl ∧ (s.fresh).1.det = s.det ∧ (s.fresh).1.lqs = s.lqs ∧ (s.fresh).1.peers = s.peers ∧
      (s.fresh).1.batches = s.batches ∧ (s.fresh).1.rel = s.rel ∧ (s.fresh).1.clk = s.clk ∧ (s.fresh).1.cur = s.cur ∧
      (s.fresh).1.free = s.free := by
  simp [State.fresh]

/-- A choice takes a free value alone. -/
@[simp] theorem State.choose_keeps (s : State) :
    (s.choose).1.mem = s.mem ∧ (s.choose).1.teams = s.teams ∧ (s.choose).1.groups = s.groups ∧
      (s.choose).1.ctxs = s.ctxs ∧ (s.choose).1.parts = s.parts ∧ (s.choose).1.cores = s.cores ∧
      (s.choose).1.acc = s.acc ∧ (s.choose).1.asy = s.asy ∧ (s.choose).1.tops = s.tops ∧ (s.choose).1.svc = s.svc ∧
      (s.choose).1.recs = s.recs ∧ (s.choose).1.tasks = s.tasks ∧ (s.choose).1.rounds = s.rounds ∧
      (s.choose).1.dfl = s.dfl ∧ (s.choose).1.det = s.det ∧ (s.choose).1.lqs = s.lqs ∧ (s.choose).1.peers = s.peers ∧
      (s.choose).1.batches = s.batches ∧ (s.choose).1.rel = s.rel ∧ (s.choose).1.clk = s.clk ∧
      (s.choose).1.cur = s.cur ∧ (s.choose).1.uid = s.uid := by
  simp [State.choose]

/-- A notification changes the ring for the host and its registers. -/
@[simp] theorem State.notify_keeps (s : State) (a b c : Nat) :
    (s.notify a b c).mem = s.mem ∧ (s.notify a b c).teams = s.teams ∧ (s.notify a b c).groups = s.groups ∧
      (s.notify a b c).ctxs = s.ctxs ∧ (s.notify a b c).parts = s.parts ∧ (s.notify a b c).cores = s.cores ∧
      (s.notify a b c).acc = s.acc ∧ (s.notify a b c).asy = s.asy ∧ (s.notify a b c).tops = s.tops ∧
      (s.notify a b c).svc = s.svc ∧ (s.notify a b c).recs = s.recs ∧ (s.notify a b c).tasks = s.tasks ∧
      (s.notify a b c).rounds = s.rounds ∧ (s.notify a b c).dfl = s.dfl ∧ (s.notify a b c).det = s.det ∧
      (s.notify a b c).lqs = s.lqs ∧ (s.notify a b c).peers = s.peers ∧ (s.notify a b c).batches = s.batches ∧
      (s.notify a b c).rel = s.rel ∧ (s.notify a b c).clk = s.clk ∧ (s.notify a b c).cur = s.cur ∧
      (s.notify a b c).free = s.free ∧ (s.notify a b c).uid = s.uid := by
  unfold State.notify
  dsimp only
  split <;> simp

/-- A reliability record changes the ring in the trace store and its indexes. -/
@[simp] theorem State.relRec_keeps (s : State) (die typ k n p c d1 d2 : Nat) :
    (s.relRec die typ k n p c d1 d2).teams = s.teams ∧ (s.relRec die typ k n p c d1 d2).groups = s.groups ∧
      (s.relRec die typ k n p c d1 d2).ctxs = s.ctxs ∧ (s.relRec die typ k n p c d1 d2).parts = s.parts ∧
      (s.relRec die typ k n p c d1 d2).cores = s.cores ∧ (s.relRec die typ k n p c d1 d2).acc = s.acc ∧
      (s.relRec die typ k n p c d1 d2).asy = s.asy ∧ (s.relRec die typ k n p c d1 d2).tops = s.tops ∧
      (s.relRec die typ k n p c d1 d2).svc = s.svc ∧ (s.relRec die typ k n p c d1 d2).recs = s.recs ∧
      (s.relRec die typ k n p c d1 d2).tasks = s.tasks ∧ (s.relRec die typ k n p c d1 d2).rounds = s.rounds ∧
      (s.relRec die typ k n p c d1 d2).dfl = s.dfl ∧ (s.relRec die typ k n p c d1 d2).det = s.det ∧
      (s.relRec die typ k n p c d1 d2).lqs = s.lqs ∧ (s.relRec die typ k n p c d1 d2).peers = s.peers ∧
      (s.relRec die typ k n p c d1 d2).batches = s.batches ∧ (s.relRec die typ k n p c d1 d2).clk = s.clk ∧
      (s.relRec die typ k n p c d1 d2).cur = s.cur ∧ (s.relRec die typ k n p c d1 d2).free = s.free ∧
      (s.relRec die typ k n p c d1 d2).uid = s.uid := by
  unfold State.relRec
  dsimp only
  split <;> simp

/-- As `relRec`. -/
@[simp] theorem State.relRecord_keeps (s : State) (die typ k n p c d1 d2 : Nat) :
    (s.relRecord die typ k n p c d1 d2).teams = s.teams ∧ (s.relRecord die typ k n p c d1 d2).groups = s.groups ∧
      (s.relRecord die typ k n p c d1 d2).ctxs = s.ctxs ∧ (s.relRecord die typ k n p c d1 d2).parts = s.parts ∧
      (s.relRecord die typ k n p c d1 d2).cores = s.cores ∧ (s.relRecord die typ k n p c d1 d2).acc = s.acc ∧
      (s.relRecord die typ k n p c d1 d2).asy = s.asy ∧ (s.relRecord die typ k n p c d1 d2).tops = s.tops ∧
      (s.relRecord die typ k n p c d1 d2).svc = s.svc ∧ (s.relRecord die typ k n p c d1 d2).recs = s.recs ∧
      (s.relRecord die typ k n p c d1 d2).tasks = s.tasks ∧ (s.relRecord die typ k n p c d1 d2).rounds = s.rounds ∧
      (s.relRecord die typ k n p c d1 d2).dfl = s.dfl ∧ (s.relRecord die typ k n p c d1 d2).det = s.det ∧
      (s.relRecord die typ k n p c d1 d2).lqs = s.lqs ∧ (s.relRecord die typ k n p c d1 d2).peers = s.peers ∧
      (s.relRecord die typ k n p c d1 d2).batches = s.batches ∧ (s.relRecord die typ k n p c d1 d2).clk = s.clk ∧
      (s.relRecord die typ k n p c d1 d2).cur = s.cur ∧ (s.relRecord die typ k n p c d1 d2).free = s.free ∧
      (s.relRecord die typ k n p c d1 d2).uid = s.uid := by
  unfold State.relRecord
  dsimp only
  split <;> simp

/-- Pips change the scores and the tests, and may write a record. -/
@[simp] theorem State.addPips_keeps (s : State) (k n amt : Nat) :
    (s.addPips k n amt).teams = s.teams ∧ (s.addPips k n amt).groups = s.groups ∧ (s.addPips k n amt).ctxs = s.ctxs ∧
      (s.addPips k n amt).parts = s.parts ∧ (s.addPips k n amt).cores = s.cores ∧ (s.addPips k n amt).acc = s.acc ∧
      (s.addPips k n amt).asy = s.asy ∧ (s.addPips k n amt).tops = s.tops ∧ (s.addPips k n amt).svc = s.svc ∧
      (s.addPips k n amt).recs = s.recs ∧ (s.addPips k n amt).tasks = s.tasks ∧
      (s.addPips k n amt).rounds = s.rounds ∧ (s.addPips k n amt).dfl = s.dfl ∧ (s.addPips k n amt).det = s.det ∧
      (s.addPips k n amt).lqs = s.lqs ∧ (s.addPips k n amt).peers = s.peers ∧
      (s.addPips k n amt).batches = s.batches ∧ (s.addPips k n amt).clk = s.clk ∧ (s.addPips k n amt).cur = s.cur ∧
      (s.addPips k n amt).free = s.free := by
  unfold State.addPips
  dsimp only
  split <;> simp

/-- A voided run is counted in its context, with a record. -/
@[simp] theorem State.voidRun_keeps (s : State) (c die tid cause : Nat) :
    (s.voidRun c die tid cause).teams = s.teams ∧ (s.voidRun c die tid cause).groups = s.groups ∧
      (s.voidRun c die tid cause).parts = s.parts ∧ (s.voidRun c die tid cause).cores = s.cores ∧
      (s.voidRun c die tid cause).acc = s.acc ∧ (s.voidRun c die tid cause).asy = s.asy ∧
      (s.voidRun c die tid cause).tops = s.tops ∧ (s.voidRun c die tid cause).svc = s.svc ∧
      (s.voidRun c die tid cause).recs = s.recs ∧ (s.voidRun c die tid cause).tasks = s.tasks ∧
      (s.voidRun c die tid cause).rounds = s.rounds ∧ (s.voidRun c die tid cause).dfl = s.dfl ∧
      (s.voidRun c die tid cause).det = s.det ∧ (s.voidRun c die tid cause).lqs = s.lqs ∧
      (s.voidRun c die tid cause).peers = s.peers ∧ (s.voidRun c die tid cause).batches = s.batches ∧
      (s.voidRun c die tid cause).clk = s.clk ∧ (s.voidRun c die tid cause).cur = s.cur ∧
      (s.voidRun c die tid cause).free = s.free ∧ (s.voidRun c die tid cause).uid = s.uid := by
  unfold State.voidRun
  dsimp only
  split <;> simp

/-- The end of a run is marked in its context, with a record. -/
@[simp] theorem State.endRun_keeps (s : State) (c : Nat) :
    (s.endRun c).teams = s.teams ∧ (s.endRun c).groups = s.groups ∧ (s.endRun c).parts = s.parts ∧
      (s.endRun c).cores = s.cores ∧ (s.endRun c).acc = s.acc ∧ (s.endRun c).asy = s.asy ∧
      (s.endRun c).tops = s.tops ∧ (s.endRun c).svc = s.svc ∧ (s.endRun c).recs = s.recs ∧
      (s.endRun c).tasks = s.tasks ∧ (s.endRun c).rounds = s.rounds ∧ (s.endRun c).dfl = s.dfl ∧
      (s.endRun c).det = s.det ∧ (s.endRun c).lqs = s.lqs ∧ (s.endRun c).peers = s.peers ∧
      (s.endRun c).batches = s.batches ∧ (s.endRun c).clk = s.clk ∧ (s.endRun c).cur = s.cur ∧
      (s.endRun c).free = s.free ∧ (s.endRun c).uid = s.uid := by
  unfold State.endRun
  dsimp only
  split <;> simp

/-- A trace block is written to the trace store and the host; the block of its core is new. -/
@[simp] theorem State.closeBlock_keeps (s : State) (core part : Nat) :
    (s.closeBlock core part).teams = s.teams ∧ (s.closeBlock core part).groups = s.groups ∧
      (s.closeBlock core part).ctxs = s.ctxs ∧ (s.closeBlock core part).parts = s.parts ∧
      (s.closeBlock core part).acc = s.acc ∧ (s.closeBlock core part).asy = s.asy ∧
      (s.closeBlock core part).tops = s.tops ∧ (s.closeBlock core part).svc = s.svc ∧
      (s.closeBlock core part).recs = s.recs ∧ (s.closeBlock core part).tasks = s.tasks ∧
      (s.closeBlock core part).rounds = s.rounds ∧ (s.closeBlock core part).dfl = s.dfl ∧
      (s.closeBlock core part).det = s.det ∧ (s.closeBlock core part).lqs = s.lqs ∧
      (s.closeBlock core part).peers = s.peers ∧ (s.closeBlock core part).batches = s.batches ∧
      (s.closeBlock core part).rel = s.rel ∧ (s.closeBlock core part).clk = s.clk ∧
      (s.closeBlock core part).cur = s.cur ∧ (s.closeBlock core part).free = s.free ∧
      (s.closeBlock core part).uid = s.uid := by
  unfold State.closeBlock
  dsimp only
  (repeat' split) <;> simp

/-- As `closeBlock`. -/
@[simp] theorem State.trace_keeps (s : State) (core c slot typ p : Nat) :
    (s.trace core c slot typ p).teams = s.teams ∧ (s.trace core c slot typ p).groups = s.groups ∧
      (s.trace core c slot typ p).ctxs = s.ctxs ∧ (s.trace core c slot typ p).parts = s.parts ∧
      (s.trace core c slot typ p).acc = s.acc ∧ (s.trace core c slot typ p).asy = s.asy ∧
      (s.trace core c slot typ p).tops = s.tops ∧ (s.trace core c slot typ p).svc = s.svc ∧
      (s.trace core c slot typ p).recs = s.recs ∧ (s.trace core c slot typ p).tasks = s.tasks ∧
      (s.trace core c slot typ p).rounds = s.rounds ∧ (s.trace core c slot typ p).dfl = s.dfl ∧
      (s.trace core c slot typ p).det = s.det ∧ (s.trace core c slot typ p).lqs = s.lqs ∧
      (s.trace core c slot typ p).peers = s.peers ∧ (s.trace core c slot typ p).batches = s.batches ∧
      (s.trace core c slot typ p).rel = s.rel ∧ (s.trace core c slot typ p).clk = s.clk ∧
      (s.trace core c slot typ p).cur = s.cur ∧ (s.trace core c slot typ p).free = s.free ∧
      (s.trace core c slot typ p).uid = s.uid := by
  unfold State.trace
  dsimp only
  (repeat' split) <;> simp

/-- As `closeBlock`. -/
@[simp] theorem State.traceTeam_keeps (s : State) (t : Team) (typ p : Nat) :
    (s.traceTeam t typ p).teams = s.teams ∧ (s.traceTeam t typ p).groups = s.groups ∧
      (s.traceTeam t typ p).ctxs = s.ctxs ∧ (s.traceTeam t typ p).parts = s.parts ∧
      (s.traceTeam t typ p).acc = s.acc ∧ (s.traceTeam t typ p).asy = s.asy ∧ (s.traceTeam t typ p).tops = s.tops ∧
      (s.traceTeam t typ p).svc = s.svc ∧ (s.traceTeam t typ p).recs = s.recs ∧
      (s.traceTeam t typ p).tasks = s.tasks ∧ (s.traceTeam t typ p).rounds = s.rounds ∧
      (s.traceTeam t typ p).dfl = s.dfl ∧ (s.traceTeam t typ p).det = s.det ∧ (s.traceTeam t typ p).lqs = s.lqs ∧
      (s.traceTeam t typ p).peers = s.peers ∧ (s.traceTeam t typ p).batches = s.batches ∧
      (s.traceTeam t typ p).rel = s.rel ∧ (s.traceTeam t typ p).clk = s.clk ∧ (s.traceTeam t typ p).cur = s.cur ∧
      (s.traceTeam t typ p).free = s.free ∧ (s.traceTeam t typ p).uid = s.uid := by
  simp [State.traceTeam]

/-- As `closeBlock`. -/
@[simp] theorem State.traceBind_keeps (s : State) (t : Team) (how cls : Nat) :
    (s.traceBind t how cls).teams = s.teams ∧ (s.traceBind t how cls).groups = s.groups ∧
      (s.traceBind t how cls).ctxs = s.ctxs ∧ (s.traceBind t how cls).parts = s.parts ∧
      (s.traceBind t how cls).acc = s.acc ∧ (s.traceBind t how cls).asy = s.asy ∧
      (s.traceBind t how cls).tops = s.tops ∧ (s.traceBind t how cls).svc = s.svc ∧
      (s.traceBind t how cls).recs = s.recs ∧ (s.traceBind t how cls).tasks = s.tasks ∧
      (s.traceBind t how cls).rounds = s.rounds ∧ (s.traceBind t how cls).dfl = s.dfl ∧
      (s.traceBind t how cls).det = s.det ∧ (s.traceBind t how cls).lqs = s.lqs ∧
      (s.traceBind t how cls).peers = s.peers ∧ (s.traceBind t how cls).batches = s.batches ∧
      (s.traceBind t how cls).rel = s.rel ∧ (s.traceBind t how cls).clk = s.clk ∧
      (s.traceBind t how cls).cur = s.cur ∧ (s.traceBind t how cls).free = s.free ∧
      (s.traceBind t how cls).uid = s.uid := by
  simp [State.traceBind]

/-- As `closeBlock`. -/
@[simp] theorem State.tracePc_keeps (s : State) (t : Team) (typ pc : Nat) :
    (s.tracePc t typ pc).teams = s.teams ∧ (s.tracePc t typ pc).groups = s.groups ∧
      (s.tracePc t typ pc).ctxs = s.ctxs ∧ (s.tracePc t typ pc).parts = s.parts ∧ (s.tracePc t typ pc).acc = s.acc ∧
      (s.tracePc t typ pc).asy = s.asy ∧ (s.tracePc t typ pc).tops = s.tops ∧ (s.tracePc t typ pc).svc = s.svc ∧
      (s.tracePc t typ pc).recs = s.recs ∧ (s.tracePc t typ pc).tasks = s.tasks ∧
      (s.tracePc t typ pc).rounds = s.rounds ∧ (s.tracePc t typ pc).dfl = s.dfl ∧ (s.tracePc t typ pc).det = s.det ∧
      (s.tracePc t typ pc).lqs = s.lqs ∧ (s.tracePc t typ pc).peers = s.peers ∧
      (s.tracePc t typ pc).batches = s.batches ∧ (s.tracePc t typ pc).rel = s.rel ∧
      (s.tracePc t typ pc).clk = s.clk ∧ (s.tracePc t typ pc).cur = s.cur ∧ (s.tracePc t typ pc).free = s.free ∧
      (s.tracePc t typ pc).uid = s.uid := by
  unfold State.tracePc
  dsimp only
  (repeat' split) <;> simp

/-- A packet moves within its peer. -/
@[simp] theorem State.pump1_keeps (s : State) (m : Nat) :
    (s.pump1 m).mem = s.mem ∧ (s.pump1 m).teams = s.teams ∧ (s.pump1 m).groups = s.groups ∧
      (s.pump1 m).ctxs = s.ctxs ∧ (s.pump1 m).parts = s.parts ∧ (s.pump1 m).cores = s.cores ∧
      (s.pump1 m).acc = s.acc ∧ (s.pump1 m).asy = s.asy ∧ (s.pump1 m).tops = s.tops ∧ (s.pump1 m).svc = s.svc ∧
      (s.pump1 m).recs = s.recs ∧ (s.pump1 m).tasks = s.tasks ∧ (s.pump1 m).rounds = s.rounds ∧
      (s.pump1 m).dfl = s.dfl ∧ (s.pump1 m).det = s.det ∧ (s.pump1 m).lqs = s.lqs ∧ (s.pump1 m).batches = s.batches ∧
      (s.pump1 m).rel = s.rel ∧ (s.pump1 m).clk = s.clk ∧ (s.pump1 m).cur = s.cur ∧ (s.pump1 m).free = s.free ∧
      (s.pump1 m).uid = s.uid := by
  unfold State.pump1
  dsimp only
  split <;> simp

/-- Packets move within their peer. -/
@[simp] theorem State.pump_keeps (s : State) (m n : Nat) :
    (s.pump m n).mem = s.mem ∧ (s.pump m n).teams = s.teams ∧ (s.pump m n).groups = s.groups ∧
      (s.pump m n).ctxs = s.ctxs ∧ (s.pump m n).parts = s.parts ∧ (s.pump m n).cores = s.cores ∧
      (s.pump m n).acc = s.acc ∧ (s.pump m n).asy = s.asy ∧ (s.pump m n).tops = s.tops ∧ (s.pump m n).svc = s.svc ∧
      (s.pump m n).recs = s.recs ∧ (s.pump m n).tasks = s.tasks ∧ (s.pump m n).rounds = s.rounds ∧
      (s.pump m n).dfl = s.dfl ∧ (s.pump m n).det = s.det ∧ (s.pump m n).lqs = s.lqs ∧
      (s.pump m n).batches = s.batches ∧ (s.pump m n).rel = s.rel ∧ (s.pump m n).clk = s.clk ∧
      (s.pump m n).cur = s.cur ∧ (s.pump m n).free = s.free ∧ (s.pump m n).uid = s.uid := by
  induction n generalizing s with
  | zero => simp [State.pump]
  | succ n ih => simp [State.pump, ih]

/-- Packets sent change their peer alone. -/
@[simp] theorem State.sendPkts_keeps (s : State) (m : Nat) (ps : List Packet) :
    (s.sendPkts m ps).mem = s.mem ∧ (s.sendPkts m ps).teams = s.teams ∧ (s.sendPkts m ps).groups = s.groups ∧
      (s.sendPkts m ps).ctxs = s.ctxs ∧ (s.sendPkts m ps).parts = s.parts ∧ (s.sendPkts m ps).cores = s.cores ∧
      (s.sendPkts m ps).acc = s.acc ∧ (s.sendPkts m ps).asy = s.asy ∧ (s.sendPkts m ps).tops = s.tops ∧
      (s.sendPkts m ps).svc = s.svc ∧ (s.sendPkts m ps).recs = s.recs ∧ (s.sendPkts m ps).tasks = s.tasks ∧
      (s.sendPkts m ps).rounds = s.rounds ∧ (s.sendPkts m ps).dfl = s.dfl ∧ (s.sendPkts m ps).det = s.det ∧
      (s.sendPkts m ps).lqs = s.lqs ∧ (s.sendPkts m ps).batches = s.batches ∧ (s.sendPkts m ps).rel = s.rel ∧
      (s.sendPkts m ps).clk = s.clk ∧ (s.sendPkts m ps).cur = s.cur ∧ (s.sendPkts m ps).free = s.free ∧
      (s.sendPkts m ps).uid = s.uid := by
  simp [State.sendPkts]

/-- The issue slot is given up. -/
@[simp] theorem State.yieldCur_keeps (s : State) (k : Nat) :
    (s.yieldCur k).mem = s.mem ∧ (s.yieldCur k).teams = s.teams ∧ (s.yieldCur k).groups = s.groups ∧
      (s.yieldCur k).ctxs = s.ctxs ∧ (s.yieldCur k).parts = s.parts ∧ (s.yieldCur k).cores = s.cores ∧
      (s.yieldCur k).acc = s.acc ∧ (s.yieldCur k).asy = s.asy ∧ (s.yieldCur k).tops = s.tops ∧
      (s.yieldCur k).svc = s.svc ∧ (s.yieldCur k).recs = s.recs ∧ (s.yieldCur k).tasks = s.tasks ∧
      (s.yieldCur k).rounds = s.rounds ∧ (s.yieldCur k).dfl = s.dfl ∧ (s.yieldCur k).det = s.det ∧
      (s.yieldCur k).lqs = s.lqs ∧ (s.yieldCur k).peers = s.peers ∧ (s.yieldCur k).batches = s.batches ∧
      (s.yieldCur k).rel = s.rel ∧ (s.yieldCur k).clk = s.clk ∧ (s.yieldCur k).free = s.free ∧
      (s.yieldCur k).uid = s.uid := by
  unfold State.yieldCur
  split <;> simp

/-- A message on the fault lane changes its peer alone. -/
@[simp] theorem State.sendLane_keeps (s : State) (c m : Nat) (rid : Wd) (x : LaneMsg) (o : Option Nat) :
    (s.sendLane c m rid x o).mem = s.mem ∧ (s.sendLane c m rid x o).teams = s.teams ∧
      (s.sendLane c m rid x o).groups = s.groups ∧ (s.sendLane c m rid x o).ctxs = s.ctxs ∧
      (s.sendLane c m rid x o).parts = s.parts ∧ (s.sendLane c m rid x o).cores = s.cores ∧
      (s.sendLane c m rid x o).acc = s.acc ∧ (s.sendLane c m rid x o).asy = s.asy ∧
      (s.sendLane c m rid x o).tops = s.tops ∧ (s.sendLane c m rid x o).svc = s.svc ∧
      (s.sendLane c m rid x o).recs = s.recs ∧ (s.sendLane c m rid x o).tasks = s.tasks ∧
      (s.sendLane c m rid x o).rounds = s.rounds ∧ (s.sendLane c m rid x o).dfl = s.dfl ∧
      (s.sendLane c m rid x o).det = s.det ∧ (s.sendLane c m rid x o).lqs = s.lqs ∧
      (s.sendLane c m rid x o).batches = s.batches ∧ (s.sendLane c m rid x o).rel = s.rel ∧
      (s.sendLane c m rid x o).clk = s.clk ∧ (s.sendLane c m rid x o).cur = s.cur ∧
      (s.sendLane c m rid x o).free = s.free ∧ (s.sendLane c m rid x o).uid = s.uid := by
  simp [State.sendLane]

/-- A record served becomes PARKED, here or at its module. -/
@[simp] theorem State.unserve_keeps (s : State) (t : Team) :
    (s.unserve t).mem = s.mem ∧ (s.unserve t).teams = s.teams ∧ (s.unserve t).groups = s.groups ∧
      (s.unserve t).ctxs = s.ctxs ∧ (s.unserve t).parts = s.parts ∧ (s.unserve t).cores = s.cores ∧
      (s.unserve t).acc = s.acc ∧ (s.unserve t).asy = s.asy ∧ (s.unserve t).tops = s.tops ∧
      (s.unserve t).svc = s.svc ∧ (s.unserve t).tasks = s.tasks ∧ (s.unserve t).rounds = s.rounds ∧
      (s.unserve t).dfl = s.dfl ∧ (s.unserve t).det = s.det ∧ (s.unserve t).lqs = s.lqs ∧
      (s.unserve t).batches = s.batches ∧ (s.unserve t).rel = s.rel ∧ (s.unserve t).clk = s.clk ∧
      (s.unserve t).cur = s.cur ∧ (s.unserve t).free = s.free ∧ (s.unserve t).uid = s.uid := by
  unfold State.unserve
  (repeat' split) <;> simp

/-- A context reset is marked in the context. -/
@[simp] theorem State.askReset_keeps (s : State) (c : Nat) :
    (s.askReset c).mem = s.mem ∧ (s.askReset c).teams = s.teams ∧ (s.askReset c).groups = s.groups ∧
      (s.askReset c).parts = s.parts ∧ (s.askReset c).cores = s.cores ∧ (s.askReset c).acc = s.acc ∧
      (s.askReset c).asy = s.asy ∧ (s.askReset c).tops = s.tops ∧ (s.askReset c).svc = s.svc ∧
      (s.askReset c).recs = s.recs ∧ (s.askReset c).tasks = s.tasks ∧ (s.askReset c).rounds = s.rounds ∧
      (s.askReset c).dfl = s.dfl ∧ (s.askReset c).det = s.det ∧ (s.askReset c).lqs = s.lqs ∧
      (s.askReset c).peers = s.peers ∧ (s.askReset c).batches = s.batches ∧ (s.askReset c).rel = s.rel ∧
      (s.askReset c).clk = s.clk ∧ (s.askReset c).cur = s.cur ∧ (s.askReset c).free = s.free ∧
      (s.askReset c).uid = s.uid := by
  simp [State.askReset]

/-- The L1 of a core. -/
@[simp] theorem State.invL1_keeps (s : State) (core : Nat) :
    (s.invL1 core).mem = s.mem ∧ (s.invL1 core).teams = s.teams ∧ (s.invL1 core).groups = s.groups ∧
      (s.invL1 core).ctxs = s.ctxs ∧ (s.invL1 core).parts = s.parts ∧ (s.invL1 core).asy = s.asy ∧
      (s.invL1 core).tops = s.tops ∧ (s.invL1 core).svc = s.svc ∧ (s.invL1 core).recs = s.recs ∧
      (s.invL1 core).tasks = s.tasks ∧ (s.invL1 core).rounds = s.rounds ∧ (s.invL1 core).dfl = s.dfl ∧
      (s.invL1 core).det = s.det ∧ (s.invL1 core).lqs = s.lqs ∧ (s.invL1 core).peers = s.peers ∧
      (s.invL1 core).batches = s.batches ∧ (s.invL1 core).rel = s.rel ∧ (s.invL1 core).clk = s.clk ∧
      (s.invL1 core).cur = s.cur ∧ (s.invL1 core).free = s.free ∧ (s.invL1 core).uid = s.uid := by
  simp [State.invL1]

/-- The effect mark of a group. -/
@[simp] theorem State.effect_keeps (s : State) (t : Team) :
    (s.effect t).mem = s.mem ∧ (s.effect t).teams = s.teams ∧ (s.effect t).ctxs = s.ctxs ∧
      (s.effect t).parts = s.parts ∧ (s.effect t).cores = s.cores ∧ (s.effect t).acc = s.acc ∧
      (s.effect t).asy = s.asy ∧ (s.effect t).tops = s.tops ∧ (s.effect t).svc = s.svc ∧ (s.effect t).recs = s.recs ∧
      (s.effect t).tasks = s.tasks ∧ (s.effect t).rounds = s.rounds ∧ (s.effect t).dfl = s.dfl ∧
      (s.effect t).det = s.det ∧ (s.effect t).lqs = s.lqs ∧ (s.effect t).peers = s.peers ∧
      (s.effect t).batches = s.batches ∧ (s.effect t).rel = s.rel ∧ (s.effect t).clk = s.clk ∧
      (s.effect t).cur = s.cur ∧ (s.effect t).free = s.free ∧ (s.effect t).uid = s.uid := by
  simp [State.effect]

/-- The end of a team. -/
@[simp] theorem State.endTeam_keeps (s : State) (t : Team) (how : EndHow) :
    (s.endTeam t how).ctxs = s.ctxs ∧ (s.endTeam t how).parts = s.parts ∧ (s.endTeam t how).acc = s.acc ∧
      (s.endTeam t how).asy = s.asy ∧ (s.endTeam t how).tops = s.tops ∧ (s.endTeam t how).svc = s.svc ∧
      (s.endTeam t how).tasks = s.tasks ∧ (s.endTeam t how).dfl = s.dfl ∧ (s.endTeam t how).det = s.det ∧
      (s.endTeam t how).lqs = s.lqs ∧ (s.endTeam t how).batches = s.batches ∧ (s.endTeam t how).rel = s.rel ∧
      (s.endTeam t how).clk = s.clk ∧ (s.endTeam t how).free = s.free ∧ (s.endTeam t how).uid = s.uid := by
  simp [State.endTeam]

/-- The death of a team. -/
@[simp] theorem State.killTeam_keeps (s : State) (t : Team) :
    (s.killTeam t).parts = s.parts ∧ (s.killTeam t).acc = s.acc ∧ (s.killTeam t).asy = s.asy ∧
      (s.killTeam t).tops = s.tops ∧ (s.killTeam t).svc = s.svc ∧ (s.killTeam t).tasks = s.tasks ∧
      (s.killTeam t).dfl = s.dfl ∧ (s.killTeam t).det = s.det ∧ (s.killTeam t).lqs = s.lqs ∧
      (s.killTeam t).batches = s.batches ∧ (s.killTeam t).clk = s.clk ∧ (s.killTeam t).free = s.free ∧
      (s.killTeam t).uid = s.uid := by
  simp [State.killTeam]

/-- A fault escalates: a task, or a context reset. -/
@[simp] theorem State.escalateRec_keeps (s : State) (r : Rec) (k : FaultClass) :
    (s.escalateRec r k).mem = s.mem ∧ (s.escalateRec r k).teams = s.teams ∧ (s.escalateRec r k).groups = s.groups ∧
      (s.escalateRec r k).parts = s.parts ∧ (s.escalateRec r k).cores = s.cores ∧ (s.escalateRec r k).acc = s.acc ∧
      (s.escalateRec r k).asy = s.asy ∧ (s.escalateRec r k).tops = s.tops ∧ (s.escalateRec r k).svc = s.svc ∧
      (s.escalateRec r k).recs = s.recs ∧ (s.escalateRec r k).tasks = s.tasks ∧
      (s.escalateRec r k).rounds = s.rounds ∧ (s.escalateRec r k).dfl = s.dfl ∧ (s.escalateRec r k).det = s.det ∧
      (s.escalateRec r k).lqs = s.lqs ∧ (s.escalateRec r k).peers = s.peers ∧
      (s.escalateRec r k).batches = s.batches ∧ (s.escalateRec r k).rel = s.rel ∧ (s.escalateRec r k).clk = s.clk ∧
      (s.escalateRec r k).cur = s.cur ∧ (s.escalateRec r k).free = s.free ∧ (s.escalateRec r k).uid = s.uid := by
  unfold State.escalateRec
  (repeat' split) <;> simp

/-- The chain of a handler escalates, here or at the module of its record. -/
@[simp] theorem State.escalateServed_keeps (s : State) (c : Nat) (h : Dw) (u : Bool) :
    (s.escalateServed c h u).mem = s.mem ∧ (s.escalateServed c h u).teams = s.teams ∧
      (s.escalateServed c h u).groups = s.groups ∧ (s.escalateServed c h u).parts = s.parts ∧
      (s.escalateServed c h u).cores = s.cores ∧ (s.escalateServed c h u).acc = s.acc ∧
      (s.escalateServed c h u).asy = s.asy ∧ (s.escalateServed c h u).tops = s.tops ∧
      (s.escalateServed c h u).svc = s.svc ∧ (s.escalateServed c h u).recs = s.recs ∧
      (s.escalateServed c h u).tasks = s.tasks ∧ (s.escalateServed c h u).rounds = s.rounds ∧
      (s.escalateServed c h u).dfl = s.dfl ∧ (s.escalateServed c h u).det = s.det ∧
      (s.escalateServed c h u).lqs = s.lqs ∧ (s.escalateServed c h u).batches = s.batches ∧
      (s.escalateServed c h u).rel = s.rel ∧ (s.escalateServed c h u).clk = s.clk ∧
      (s.escalateServed c h u).cur = s.cur ∧ (s.escalateServed c h u).free = s.free ∧
      (s.escalateServed c h u).uid = s.uid := by
  unfold State.escalateServed
  (repeat' split) <;> simp

/-- Escalation kills the team, and asks for a task or a context reset. -/
@[simp] theorem State.escalate_keeps (s : State) (t : Team) :
    (s.escalate t).parts = s.parts ∧ (s.escalate t).acc = s.acc ∧ (s.escalate t).asy = s.asy ∧
      (s.escalate t).tops = s.tops ∧ (s.escalate t).svc = s.svc ∧ (s.escalate t).tasks = s.tasks ∧
      (s.escalate t).dfl = s.dfl ∧ (s.escalate t).det = s.det ∧ (s.escalate t).lqs = s.lqs ∧
      (s.escalate t).batches = s.batches ∧ (s.escalate t).clk = s.clk ∧ (s.escalate t).free = s.free ∧
      (s.escalate t).uid = s.uid := by
  unfold State.escalate
  (repeat' split) <;> simp

/-- Generations are kept apart from the rest. -/
@[simp] theorem State.nextGen_keeps (s : State) (die idx : Nat) :
    (s.nextGen die idx).1.mem = s.mem ∧ (s.nextGen die idx).1.teams = s.teams ∧
      (s.nextGen die idx).1.groups = s.groups ∧ (s.nextGen die idx).1.ctxs = s.ctxs ∧
      (s.nextGen die idx).1.parts = s.parts ∧ (s.nextGen die idx).1.cores = s.cores ∧
      (s.nextGen die idx).1.acc = s.acc ∧ (s.nextGen die idx).1.asy = s.asy ∧ (s.nextGen die idx).1.tops = s.tops ∧
      (s.nextGen die idx).1.svc = s.svc ∧ (s.nextGen die idx).1.recs = s.recs ∧
      (s.nextGen die idx).1.tasks = s.tasks ∧ (s.nextGen die idx).1.rounds = s.rounds ∧
      (s.nextGen die idx).1.dfl = s.dfl ∧ (s.nextGen die idx).1.det = s.det ∧ (s.nextGen die idx).1.lqs = s.lqs ∧
      (s.nextGen die idx).1.peers = s.peers ∧ (s.nextGen die idx).1.batches = s.batches ∧
      (s.nextGen die idx).1.rel = s.rel ∧ (s.nextGen die idx).1.clk = s.clk ∧ (s.nextGen die idx).1.cur = s.cur ∧
      (s.nextGen die idx).1.free = s.free ∧ (s.nextGen die idx).1.uid = s.uid := by
  simp [State.nextGen]

/-- A record placed. -/
@[simp] theorem State.placeRec_keeps (s : State) (r : Rec) (die idx : Nat) :
    (s.placeRec r die idx).1.mem = s.mem ∧ (s.placeRec r die idx).1.teams = s.teams ∧
      (s.placeRec r die idx).1.groups = s.groups ∧ (s.placeRec r die idx).1.ctxs = s.ctxs ∧
      (s.placeRec r die idx).1.parts = s.parts ∧ (s.placeRec r die idx).1.cores = s.cores ∧
      (s.placeRec r die idx).1.acc = s.acc ∧ (s.placeRec r die idx).1.asy = s.asy ∧
      (s.placeRec r die idx).1.tops = s.tops ∧ (s.placeRec r die idx).1.svc = s.svc ∧
      (s.placeRec r die idx).1.tasks = s.tasks ∧ (s.placeRec r die idx).1.rounds = s.rounds ∧
      (s.placeRec r die idx).1.dfl = s.dfl ∧ (s.placeRec r die idx).1.det = s.det ∧
      (s.placeRec r die idx).1.lqs = s.lqs ∧ (s.placeRec r die idx).1.peers = s.peers ∧
      (s.placeRec r die idx).1.batches = s.batches ∧ (s.placeRec r die idx).1.rel = s.rel ∧
      (s.placeRec r die idx).1.clk = s.clk ∧ (s.placeRec r die idx).1.cur = s.cur ∧
      (s.placeRec r die idx).1.free = s.free := by
  simp [State.placeRec]

/-- A kill report, or a context reset. -/
@[simp] theorem State.report_keeps (s : State) (r : Rec) (die : Nat) :
    (s.report r die).mem = s.mem ∧ (s.report r die).teams = s.teams ∧ (s.report r die).groups = s.groups ∧
      (s.report r die).parts = s.parts ∧ (s.report r die).cores = s.cores ∧ (s.report r die).acc = s.acc ∧
      (s.report r die).asy = s.asy ∧ (s.report r die).tops = s.tops ∧ (s.report r die).svc = s.svc ∧
      (s.report r die).tasks = s.tasks ∧ (s.report r die).rounds = s.rounds ∧ (s.report r die).dfl = s.dfl ∧
      (s.report r die).det = s.det ∧ (s.report r die).lqs = s.lqs ∧ (s.report r die).batches = s.batches ∧
      (s.report r die).rel = s.rel ∧ (s.report r die).clk = s.clk ∧ (s.report r die).cur = s.cur ∧
      (s.report r die).free = s.free := by
  unfold State.report
  dsimp only
  (repeat' split) <;> simp

/-- A team lost. -/
@[simp] theorem State.loseTeam_keeps (s : State) (t : Team) (d : Detail) :
    (s.loseTeam t d).parts = s.parts ∧ (s.loseTeam t d).acc = s.acc ∧ (s.loseTeam t d).asy = s.asy ∧
      (s.loseTeam t d).tops = s.tops ∧ (s.loseTeam t d).svc = s.svc ∧ (s.loseTeam t d).tasks = s.tasks ∧
      (s.loseTeam t d).dfl = s.dfl ∧ (s.loseTeam t d).det = s.det ∧ (s.loseTeam t d).lqs = s.lqs ∧
      (s.loseTeam t d).batches = s.batches ∧ (s.loseTeam t d).clk = s.clk ∧ (s.loseTeam t d).free = s.free := by
  unfold State.loseTeam
  dsimp only
  split <;> simp

/-- A lane death changes the team, with its records. -/
@[simp] theorem State.killLane_keeps (s : State) (t : Team) (l : Nat) :
    (s.killLane t l).1.teams = s.teams ∧ (s.killLane t l).1.groups = s.groups ∧ (s.killLane t l).1.parts = s.parts ∧
      (s.killLane t l).1.cores = s.cores ∧ (s.killLane t l).1.acc = s.acc ∧ (s.killLane t l).1.asy = s.asy ∧
      (s.killLane t l).1.tops = s.tops ∧ (s.killLane t l).1.svc = s.svc ∧ (s.killLane t l).1.recs = s.recs ∧
      (s.killLane t l).1.tasks = s.tasks ∧ (s.killLane t l).1.rounds = s.rounds ∧ (s.killLane t l).1.dfl = s.dfl ∧
      (s.killLane t l).1.det = s.det ∧ (s.killLane t l).1.lqs = s.lqs ∧ (s.killLane t l).1.peers = s.peers ∧
      (s.killLane t l).1.batches = s.batches ∧ (s.killLane t l).1.clk = s.clk ∧ (s.killLane t l).1.cur = s.cur ∧
      (s.killLane t l).1.free = s.free ∧ (s.killLane t l).1.uid = s.uid := by
  simp [State.killLane]

/-- As `killLane`. -/
@[simp] theorem State.killLanes_keeps (s : State) (t : Team) (ls : List Nat) :
    (s.killLanes t ls).1.teams = s.teams ∧ (s.killLanes t ls).1.groups = s.groups ∧
      (s.killLanes t ls).1.parts = s.parts ∧ (s.killLanes t ls).1.cores = s.cores ∧
      (s.killLanes t ls).1.acc = s.acc ∧ (s.killLanes t ls).1.asy = s.asy ∧ (s.killLanes t ls).1.tops = s.tops ∧
      (s.killLanes t ls).1.svc = s.svc ∧ (s.killLanes t ls).1.recs = s.recs ∧ (s.killLanes t ls).1.tasks = s.tasks ∧
      (s.killLanes t ls).1.rounds = s.rounds ∧ (s.killLanes t ls).1.dfl = s.dfl ∧ (s.killLanes t ls).1.det = s.det ∧
      (s.killLanes t ls).1.lqs = s.lqs ∧ (s.killLanes t ls).1.peers = s.peers ∧
      (s.killLanes t ls).1.batches = s.batches ∧ (s.killLanes t ls).1.clk = s.clk ∧
      (s.killLanes t ls).1.cur = s.cur ∧ (s.killLanes t ls).1.free = s.free ∧ (s.killLanes t ls).1.uid = s.uid := by
  induction ls generalizing s t with
  | nil => simp [State.killLanes]
  | cons l r ih => unfold State.killLanes; by_cases h : t.regs.dead.getLsbD l = true <;> simp [h, ih]

/-- Reading an entry may take a choice. -/
@[simp] theorem State.pte_keeps (s : State) (c die lvl base va : Nat) (wr : Bool) :
    (s.pte c die lvl base va wr).1.mem = s.mem ∧ (s.pte c die lvl base va wr).1.teams = s.teams ∧
      (s.pte c die lvl base va wr).1.groups = s.groups ∧ (s.pte c die lvl base va wr).1.ctxs = s.ctxs ∧
      (s.pte c die lvl base va wr).1.parts = s.parts ∧ (s.pte c die lvl base va wr).1.cores = s.cores ∧
      (s.pte c die lvl base va wr).1.acc = s.acc ∧ (s.pte c die lvl base va wr).1.asy = s.asy ∧
      (s.pte c die lvl base va wr).1.tops = s.tops ∧ (s.pte c die lvl base va wr).1.svc = s.svc ∧
      (s.pte c die lvl base va wr).1.recs = s.recs ∧ (s.pte c die lvl base va wr).1.tasks = s.tasks ∧
      (s.pte c die lvl base va wr).1.rounds = s.rounds ∧ (s.pte c die lvl base va wr).1.dfl = s.dfl ∧
      (s.pte c die lvl base va wr).1.det = s.det ∧ (s.pte c die lvl base va wr).1.lqs = s.lqs ∧
      (s.pte c die lvl base va wr).1.peers = s.peers ∧ (s.pte c die lvl base va wr).1.batches = s.batches ∧
      (s.pte c die lvl base va wr).1.rel = s.rel ∧ (s.pte c die lvl base va wr).1.clk = s.clk ∧
      (s.pte c die lvl base va wr).1.cur = s.cur ∧ (s.pte c die lvl base va wr).1.uid = s.uid := by
  unfold State.pte
  dsimp only
  (repeat' split) <;> simp

/-- Entries are cached apart from the rest. -/
@[simp] theorem State.cachePte_keeps (s : State) (c die lvl va : Nat) (e : Dw) :
    (s.cachePte c die lvl va e).mem = s.mem ∧ (s.cachePte c die lvl va e).teams = s.teams ∧
      (s.cachePte c die lvl va e).groups = s.groups ∧ (s.cachePte c die lvl va e).ctxs = s.ctxs ∧
      (s.cachePte c die lvl va e).parts = s.parts ∧ (s.cachePte c die lvl va e).cores = s.cores ∧
      (s.cachePte c die lvl va e).acc = s.acc ∧ (s.cachePte c die lvl va e).asy = s.asy ∧
      (s.cachePte c die lvl va e).tops = s.tops ∧ (s.cachePte c die lvl va e).svc = s.svc ∧
      (s.cachePte c die lvl va e).recs = s.recs ∧ (s.cachePte c die lvl va e).tasks = s.tasks ∧
      (s.cachePte c die lvl va e).rounds = s.rounds ∧ (s.cachePte c die lvl va e).dfl = s.dfl ∧
      (s.cachePte c die lvl va e).det = s.det ∧ (s.cachePte c die lvl va e).lqs = s.lqs ∧
      (s.cachePte c die lvl va e).peers = s.peers ∧ (s.cachePte c die lvl va e).batches = s.batches ∧
      (s.cachePte c die lvl va e).rel = s.rel ∧ (s.cachePte c die lvl va e).clk = s.clk ∧
      (s.cachePte c die lvl va e).cur = s.cur ∧ (s.cachePte c die lvl va e).free = s.free ∧
      (s.cachePte c die lvl va e).uid = s.uid := by
  unfold State.cachePte
  split <;> simp

/-- As `pte`. -/
@[simp] theorem State.walkLevel_keeps (s : State) (c die lvl base va : Nat) (wr : Bool) :
    (s.walkLevel c die lvl base va wr).1.mem = s.mem ∧ (s.walkLevel c die lvl base va wr).1.teams = s.teams ∧
      (s.walkLevel c die lvl base va wr).1.groups = s.groups ∧ (s.walkLevel c die lvl base va wr).1.ctxs = s.ctxs ∧
      (s.walkLevel c die lvl base va wr).1.parts = s.parts ∧ (s.walkLevel c die lvl base va wr).1.cores = s.cores ∧
      (s.walkLevel c die lvl base va wr).1.acc = s.acc ∧ (s.walkLevel c die lvl base va wr).1.asy = s.asy ∧
      (s.walkLevel c die lvl base va wr).1.tops = s.tops ∧ (s.walkLevel c die lvl base va wr).1.svc = s.svc ∧
      (s.walkLevel c die lvl base va wr).1.recs = s.recs ∧ (s.walkLevel c die lvl base va wr).1.tasks = s.tasks ∧
      (s.walkLevel c die lvl base va wr).1.rounds = s.rounds ∧ (s.walkLevel c die lvl base va wr).1.dfl = s.dfl ∧
      (s.walkLevel c die lvl base va wr).1.det = s.det ∧ (s.walkLevel c die lvl base va wr).1.lqs = s.lqs ∧
      (s.walkLevel c die lvl base va wr).1.peers = s.peers ∧
      (s.walkLevel c die lvl base va wr).1.batches = s.batches ∧ (s.walkLevel c die lvl base va wr).1.rel = s.rel ∧
      (s.walkLevel c die lvl base va wr).1.clk = s.clk ∧ (s.walkLevel c die lvl base va wr).1.cur = s.cur ∧
      (s.walkLevel c die lvl base va wr).1.uid = s.uid := by
  unfold State.walkLevel
  dsimp only
  (repeat' split) <;> simp

/-- A walk takes choices and caches entries. -/
@[simp] theorem State.walk_keeps (s : State) (c die va : Nat) (wr : Bool) :
    (s.walk c die va wr).1.mem = s.mem ∧ (s.walk c die va wr).1.teams = s.teams ∧
      (s.walk c die va wr).1.groups = s.groups ∧ (s.walk c die va wr).1.ctxs = s.ctxs ∧
      (s.walk c die va wr).1.parts = s.parts ∧ (s.walk c die va wr).1.cores = s.cores ∧
      (s.walk c die va wr).1.acc = s.acc ∧ (s.walk c die va wr).1.asy = s.asy ∧
      (s.walk c die va wr).1.tops = s.tops ∧ (s.walk c die va wr).1.svc = s.svc ∧
      (s.walk c die va wr).1.recs = s.recs ∧ (s.walk c die va wr).1.tasks = s.tasks ∧
      (s.walk c die va wr).1.rounds = s.rounds ∧ (s.walk c die va wr).1.dfl = s.dfl ∧
      (s.walk c die va wr).1.det = s.det ∧ (s.walk c die va wr).1.lqs = s.lqs ∧
      (s.walk c die va wr).1.peers = s.peers ∧ (s.walk c die va wr).1.batches = s.batches ∧
      (s.walk c die va wr).1.rel = s.rel ∧ (s.walk c die va wr).1.clk = s.clk ∧ (s.walk c die va wr).1.cur = s.cur ∧
      (s.walk c die va wr).1.uid = s.uid := by
  have h1 := s.walkLevel_keeps c die 1 (fld (s.ctx c).pt 51 13 * 8192) va wr
  unfold State.walk
  dsimp only
  generalize s.walkLevel c die 1 (fld (s.ctx c).pt 51 13 * 8192) va wr = q at h1 ⊢
  rcases q with ⟨s1, (w1 | ⟨e1, b2⟩)⟩
  · cases w1 <;> simp_all
  have h2 := s1.walkLevel_keeps c die 2 b2 va wr
  dsimp only
  generalize s1.walkLevel c die 2 b2 va wr = q at h2 ⊢
  rcases q with ⟨s2, (w2 | ⟨e2, b3⟩)⟩
  · cases w2 <;> simp_all
  have h3 := s2.walkLevel_keeps c die 3 b3 va wr
  dsimp only
  generalize s2.walkLevel c die 3 b3 va wr = q at h3 ⊢
  rcases q with ⟨s3, (w3 | x)⟩
  · cases w3 <;> simp_all
  · simp_all

/-- A translation takes choices and fills the TLB of the core. -/
@[simp] theorem State.xlate_keeps (s : State) (core c va : Nat) (k : AccK) (o : XOpt) :
    (s.xlate core c va k o).1.mem = s.mem ∧ (s.xlate core c va k o).1.teams = s.teams ∧
      (s.xlate core c va k o).1.groups = s.groups ∧ (s.xlate core c va k o).1.ctxs = s.ctxs ∧
      (s.xlate core c va k o).1.parts = s.parts ∧ (s.xlate core c va k o).1.acc = s.acc ∧
      (s.xlate core c va k o).1.asy = s.asy ∧ (s.xlate core c va k o).1.tops = s.tops ∧
      (s.xlate core c va k o).1.svc = s.svc ∧ (s.xlate core c va k o).1.recs = s.recs ∧
      (s.xlate core c va k o).1.tasks = s.tasks ∧ (s.xlate core c va k o).1.rounds = s.rounds ∧
      (s.xlate core c va k o).1.dfl = s.dfl ∧ (s.xlate core c va k o).1.det = s.det ∧
      (s.xlate core c va k o).1.lqs = s.lqs ∧ (s.xlate core c va k o).1.peers = s.peers ∧
      (s.xlate core c va k o).1.batches = s.batches ∧ (s.xlate core c va k o).1.rel = s.rel ∧
      (s.xlate core c va k o).1.clk = s.clk ∧ (s.xlate core c va k o).1.cur = s.cur ∧
      (s.xlate core c va k o).1.uid = s.uid := by
  have h1 := s.walk_keeps c (dieOf core) va k.writes
  unfold State.xlate
  generalize s.walk c (dieOf core) va k.writes = q at h1 ⊢
  rcases q with ⟨s1, w⟩
  dsimp only at h1 ⊢
  (repeat' split) <;> simp_all

/-- As `xlate`. -/
@[simp] theorem State.xlateRun_keeps (s : State) (core c : Nat) (k : AccK) (o : XOpt) (va n : Nat) :
    (s.xlateRun core c k o va n).1.mem = s.mem ∧ (s.xlateRun core c k o va n).1.teams = s.teams ∧
      (s.xlateRun core c k o va n).1.groups = s.groups ∧ (s.xlateRun core c k o va n).1.ctxs = s.ctxs ∧
      (s.xlateRun core c k o va n).1.parts = s.parts ∧ (s.xlateRun core c k o va n).1.acc = s.acc ∧
      (s.xlateRun core c k o va n).1.asy = s.asy ∧ (s.xlateRun core c k o va n).1.tops = s.tops ∧
      (s.xlateRun core c k o va n).1.svc = s.svc ∧ (s.xlateRun core c k o va n).1.recs = s.recs ∧
      (s.xlateRun core c k o va n).1.tasks = s.tasks ∧ (s.xlateRun core c k o va n).1.rounds = s.rounds ∧
      (s.xlateRun core c k o va n).1.dfl = s.dfl ∧ (s.xlateRun core c k o va n).1.det = s.det ∧
      (s.xlateRun core c k o va n).1.lqs = s.lqs ∧ (s.xlateRun core c k o va n).1.peers = s.peers ∧
      (s.xlateRun core c k o va n).1.batches = s.batches ∧ (s.xlateRun core c k o va n).1.rel = s.rel ∧
      (s.xlateRun core c k o va n).1.clk = s.clk ∧ (s.xlateRun core c k o va n).1.cur = s.cur ∧
      (s.xlateRun core c k o va n).1.uid = s.uid := by
  induction n generalizing s va with
  | zero => simp [State.xlateRun]
  | succ n ih =>
    unfold State.xlateRun
    split
    · simp
    have h1 := s.xlate_keeps core c va k o
    generalize s.xlate core c va k o = q at h1 ⊢
    rcases q with ⟨s1, (f | p)⟩
    · simpa using h1
    have h2 := ih s1 ((va / 65536 + 1) * 65536)
    dsimp only
    generalize s1.xlateRun core c k o ((va / 65536 + 1) * 65536) n = q at h2 ⊢
    rcases q with ⟨s2, (f | p)⟩ <;> simp_all

/-- As `xlate`. -/
@[simp] theorem State.canMap_keeps (s : State) (core c va n : Nat) (k : AccK) :
    (s.canMap core c va n k).1.mem = s.mem ∧ (s.canMap core c va n k).1.teams = s.teams ∧
      (s.canMap core c va n k).1.groups = s.groups ∧ (s.canMap core c va n k).1.ctxs = s.ctxs ∧
      (s.canMap core c va n k).1.parts = s.parts ∧ (s.canMap core c va n k).1.acc = s.acc ∧
      (s.canMap core c va n k).1.asy = s.asy ∧ (s.canMap core c va n k).1.tops = s.tops ∧
      (s.canMap core c va n k).1.svc = s.svc ∧ (s.canMap core c va n k).1.recs = s.recs ∧
      (s.canMap core c va n k).1.tasks = s.tasks ∧ (s.canMap core c va n k).1.rounds = s.rounds ∧
      (s.canMap core c va n k).1.dfl = s.dfl ∧ (s.canMap core c va n k).1.det = s.det ∧
      (s.canMap core c va n k).1.lqs = s.lqs ∧ (s.canMap core c va n k).1.peers = s.peers ∧
      (s.canMap core c va n k).1.batches = s.batches ∧ (s.canMap core c va n k).1.rel = s.rel ∧
      (s.canMap core c va n k).1.clk = s.clk ∧ (s.canMap core c va n k).1.cur = s.cur ∧
      (s.canMap core c va n k).1.uid = s.uid := by
  have h1 := s.xlateRun_keeps core c k {} va (pagesOf va n)
  unfold State.canMap
  generalize s.xlateRun core c k {} va (pagesOf va n) = q at h1 ⊢
  rcases q with ⟨s1, (f | p)⟩ <;> simp_all

/-- Waiters and monitors are of teams. -/
@[simp] theorem State.wake_keeps (s : State) (a n : Nat) :
    (s.wake a n).mem = s.mem ∧ (s.wake a n).groups = s.groups ∧ (s.wake a n).ctxs = s.ctxs ∧
      (s.wake a n).parts = s.parts ∧ (s.wake a n).cores = s.cores ∧ (s.wake a n).acc = s.acc ∧
      (s.wake a n).asy = s.asy ∧ (s.wake a n).tops = s.tops ∧ (s.wake a n).svc = s.svc ∧ (s.wake a n).recs = s.recs ∧
      (s.wake a n).tasks = s.tasks ∧ (s.wake a n).rounds = s.rounds ∧ (s.wake a n).dfl = s.dfl ∧
      (s.wake a n).det = s.det ∧ (s.wake a n).lqs = s.lqs ∧ (s.wake a n).peers = s.peers ∧
      (s.wake a n).batches = s.batches ∧ (s.wake a n).rel = s.rel ∧ (s.wake a n).clk = s.clk ∧
      (s.wake a n).cur = s.cur ∧ (s.wake a n).free = s.free ∧ (s.wake a n).uid = s.uid := by
  simp [State.wake]

/-- A and D are bits of memory, written as an atomic is. -/
@[simp] theorem State.markAD_keeps (s : State) (ea : Option Nat) (wr : Bool) :
    (s.markAD ea wr).groups = s.groups ∧ (s.markAD ea wr).ctxs = s.ctxs ∧ (s.markAD ea wr).parts = s.parts ∧
      (s.markAD ea wr).cores = s.cores ∧ (s.markAD ea wr).acc = s.acc ∧ (s.markAD ea wr).asy = s.asy ∧
      (s.markAD ea wr).tops = s.tops ∧ (s.markAD ea wr).svc = s.svc ∧ (s.markAD ea wr).recs = s.recs ∧
      (s.markAD ea wr).tasks = s.tasks ∧ (s.markAD ea wr).rounds = s.rounds ∧ (s.markAD ea wr).dfl = s.dfl ∧
      (s.markAD ea wr).det = s.det ∧ (s.markAD ea wr).lqs = s.lqs ∧ (s.markAD ea wr).peers = s.peers ∧
      (s.markAD ea wr).batches = s.batches ∧ (s.markAD ea wr).rel = s.rel ∧ (s.markAD ea wr).clk = s.clk ∧
      (s.markAD ea wr).cur = s.cur ∧ (s.markAD ea wr).free = s.free ∧ (s.markAD ea wr).uid = s.uid := by
  unfold State.markAD
  dsimp only
  (repeat' split) <;> simp

/-- A run read changes A bits, wakes those that wait on an entry's word, and takes a free value where it is outside the module. -/
@[simp] theorem State.readRun_keeps (s : State) (ps : List Page) (va n : Nat) :
    (s.readRun ps va n).1.groups = s.groups ∧ (s.readRun ps va n).1.ctxs = s.ctxs ∧
      (s.readRun ps va n).1.parts = s.parts ∧ (s.readRun ps va n).1.cores = s.cores ∧
      (s.readRun ps va n).1.acc = s.acc ∧ (s.readRun ps va n).1.asy = s.asy ∧ (s.readRun ps va n).1.tops = s.tops ∧
      (s.readRun ps va n).1.svc = s.svc ∧ (s.readRun ps va n).1.recs = s.recs ∧
      (s.readRun ps va n).1.tasks = s.tasks ∧ (s.readRun ps va n).1.rounds = s.rounds ∧
      (s.readRun ps va n).1.dfl = s.dfl ∧ (s.readRun ps va n).1.det = s.det ∧ (s.readRun ps va n).1.lqs = s.lqs ∧
      (s.readRun ps va n).1.peers = s.peers ∧ (s.readRun ps va n).1.batches = s.batches ∧
      (s.readRun ps va n).1.rel = s.rel ∧ (s.readRun ps va n).1.clk = s.clk ∧ (s.readRun ps va n).1.cur = s.cur ∧
      (s.readRun ps va n).1.uid = s.uid := by
  have hm : ∀ (s : State) (ea : Option Nat), s.markAD ea false =
      { s with mem := (s.markAD ea false).mem, teams := (s.markAD ea false).teams } := by
    intro s ea
    unfold State.markAD
    dsimp only
    (repeat' split) <;> simp [State.wake]
  have : ∀ (ps : List Page) (s : State), (ps.foldl (fun s p => s.markAD p.ea false) s) =
      { s with mem := (ps.foldl (fun s p => s.markAD p.ea false) s).mem
               teams := (ps.foldl (fun s p => s.markAD p.ea false) s).teams } := by
    intro ps
    induction ps with
    | nil => intro s; rfl
    | cons p r ih =>
      intro s
      rw [List.foldl_cons, ih, hm]
  unfold State.readRun
  rw [this]
  simp

/-- As `readRun`. -/
@[simp] theorem State.vaRead_keeps (s : State) (core c va n : Nat) :
    (s.vaRead core c va n).1.groups = s.groups ∧ (s.vaRead core c va n).1.ctxs = s.ctxs ∧
      (s.vaRead core c va n).1.parts = s.parts ∧ (s.vaRead core c va n).1.acc = s.acc ∧
      (s.vaRead core c va n).1.asy = s.asy ∧ (s.vaRead core c va n).1.tops = s.tops ∧
      (s.vaRead core c va n).1.svc = s.svc ∧ (s.vaRead core c va n).1.recs = s.recs ∧
      (s.vaRead core c va n).1.tasks = s.tasks ∧ (s.vaRead core c va n).1.rounds = s.rounds ∧
      (s.vaRead core c va n).1.dfl = s.dfl ∧ (s.vaRead core c va n).1.det = s.det ∧
      (s.vaRead core c va n).1.lqs = s.lqs ∧ (s.vaRead core c va n).1.peers = s.peers ∧
      (s.vaRead core c va n).1.batches = s.batches ∧ (s.vaRead core c va n).1.rel = s.rel ∧
      (s.vaRead core c va n).1.clk = s.clk ∧ (s.vaRead core c va n).1.cur = s.cur ∧
      (s.vaRead core c va n).1.uid = s.uid := by
  have h1 := s.xlateRun_keeps core c .load {} va (pagesOf va n)
  unfold State.vaRead
  generalize s.xlateRun core c .load {} va (pagesOf va n) = q at h1 ⊢
  rcases q with ⟨s1, (f | p)⟩ <;> simp_all

/-- Bytes performed: memory, poison, waiters. -/
@[simp] theorem State.perform_keeps (s : State) (a : Nat) (bs : List Byte) :
    (s.perform a bs).groups = s.groups ∧ (s.perform a bs).ctxs = s.ctxs ∧ (s.perform a bs).parts = s.parts ∧
      (s.perform a bs).cores = s.cores ∧ (s.perform a bs).acc = s.acc ∧ (s.perform a bs).asy = s.asy ∧
      (s.perform a bs).tops = s.tops ∧ (s.perform a bs).svc = s.svc ∧ (s.perform a bs).recs = s.recs ∧
      (s.perform a bs).tasks = s.tasks ∧ (s.perform a bs).rounds = s.rounds ∧ (s.perform a bs).dfl = s.dfl ∧
      (s.perform a bs).det = s.det ∧ (s.perform a bs).lqs = s.lqs ∧ (s.perform a bs).peers = s.peers ∧
      (s.perform a bs).batches = s.batches ∧ (s.perform a bs).clk = s.clk ∧ (s.perform a bs).cur = s.cur ∧
      (s.perform a bs).free = s.free ∧ (s.perform a bs).uid = s.uid := by
  simp [State.perform]

/-- Bytes of a run: memory, poison, waiters, packets, the host. -/
@[simp] theorem State.writeRun_keeps (s : State) (c : Nat) (ps : List Page) (va : Nat) (bs : List Byte) :
    (s.writeRun c ps va bs).groups = s.groups ∧ (s.writeRun c ps va bs).ctxs = s.ctxs ∧
      (s.writeRun c ps va bs).parts = s.parts ∧ (s.writeRun c ps va bs).cores = s.cores ∧
      (s.writeRun c ps va bs).acc = s.acc ∧ (s.writeRun c ps va bs).asy = s.asy ∧
      (s.writeRun c ps va bs).tops = s.tops ∧ (s.writeRun c ps va bs).svc = s.svc ∧
      (s.writeRun c ps va bs).recs = s.recs ∧ (s.writeRun c ps va bs).tasks = s.tasks ∧
      (s.writeRun c ps va bs).rounds = s.rounds ∧ (s.writeRun c ps va bs).dfl = s.dfl ∧
      (s.writeRun c ps va bs).det = s.det ∧ (s.writeRun c ps va bs).lqs = s.lqs ∧
      (s.writeRun c ps va bs).batches = s.batches ∧ (s.writeRun c ps va bs).clk = s.clk ∧
      (s.writeRun c ps va bs).cur = s.cur ∧ (s.writeRun c ps va bs).free = s.free ∧
      (s.writeRun c ps va bs).uid = s.uid := by
  unfold State.writeRun
  generalize splitPages ps va bs = qs
  induction qs generalizing s with
  | nil => simp
  | cons q r ih =>
    rw [List.foldl_cons]
    obtain ⟨p, a, bs⟩ := q
    simp only [ih]
    (repeat' split) <;> simp

/-- As `writeRun`. -/
@[simp] theorem State.vaWrite_keeps (s : State) (core c va : Nat) (bs : List Byte) :
    (s.vaWrite core c va bs).1.groups = s.groups ∧ (s.vaWrite core c va bs).1.ctxs = s.ctxs ∧
      (s.vaWrite core c va bs).1.parts = s.parts ∧ (s.vaWrite core c va bs).1.acc = s.acc ∧
      (s.vaWrite core c va bs).1.asy = s.asy ∧ (s.vaWrite core c va bs).1.tops = s.tops ∧
      (s.vaWrite core c va bs).1.svc = s.svc ∧ (s.vaWrite core c va bs).1.recs = s.recs ∧
      (s.vaWrite core c va bs).1.tasks = s.tasks ∧ (s.vaWrite core c va bs).1.rounds = s.rounds ∧
      (s.vaWrite core c va bs).1.dfl = s.dfl ∧ (s.vaWrite core c va bs).1.det = s.det ∧
      (s.vaWrite core c va bs).1.lqs = s.lqs ∧ (s.vaWrite core c va bs).1.batches = s.batches ∧
      (s.vaWrite core c va bs).1.clk = s.clk ∧ (s.vaWrite core c va bs).1.cur = s.cur ∧
      (s.vaWrite core c va bs).1.uid = s.uid := by
  have h1 := s.xlateRun_keeps core c .store {} va (pagesOf va bs.length)
  unfold State.vaWrite
  generalize s.xlateRun core c .store {} va (pagesOf va bs.length) = q at h1 ⊢
  rcases q with ⟨s1, (f | p)⟩ <;> simp_all

/-- An image goes to the save area, or to the spill space. -/
theorem State.saveImage_cases (s : State) (die : Nat) (t : Team) (f : FaultInfo) : ∃ (s1 : State) (m : List Host.Cell),
    (s1 = s ∨ ∃ va, s1 = (s.vaWrite (s.groupOf t).core (s.groupOf t).ctx va (t.image s.clk)).1) ∧
      (s.saveImage die t f).1 = { s1 with mem := m } := by
  unfold State.saveImage
  extract_lets g img save
  split
  · exact ⟨s, s.mem, .inl rfl, rfl⟩
  cases save with
  | none =>
    dsimp only
    (repeat' split) <;> exact ⟨s, _, .inl rfl, rfl⟩
  | some va =>
    dsimp only
    obtain ⟨q, hq⟩ : ∃ q, q = s.vaWrite g.core g.ctx va img := ⟨_, rfl⟩
    have e : q.1 = (s.vaWrite g.core g.ctx va img).1 := by rw [hq]
    rw [← hq]
    clear hq
    obtain ⟨s1, (_ | x)⟩ := q
    · exact ⟨s1, s1.mem, .inr ⟨va, e⟩, rfl⟩
    · dsimp only
      (repeat' split) <;> exact ⟨s1, _, .inr ⟨va, e⟩, rfl⟩
/-- As `vaWrite`. -/
@[simp] theorem State.saveImage_keeps (s : State) (die : Nat) (t : Team) (f : FaultInfo) :
    (s.saveImage die t f).1.groups = s.groups ∧ (s.saveImage die t f).1.ctxs = s.ctxs ∧
      (s.saveImage die t f).1.parts = s.parts ∧ (s.saveImage die t f).1.acc = s.acc ∧
      (s.saveImage die t f).1.asy = s.asy ∧ (s.saveImage die t f).1.tops = s.tops ∧
      (s.saveImage die t f).1.svc = s.svc ∧ (s.saveImage die t f).1.recs = s.recs ∧
      (s.saveImage die t f).1.tasks = s.tasks ∧ (s.saveImage die t f).1.rounds = s.rounds ∧
      (s.saveImage die t f).1.dfl = s.dfl ∧ (s.saveImage die t f).1.det = s.det ∧
      (s.saveImage die t f).1.lqs = s.lqs ∧ (s.saveImage die t f).1.batches = s.batches ∧
      (s.saveImage die t f).1.clk = s.clk ∧ (s.saveImage die t f).1.cur = s.cur ∧ (s.saveImage die t f).1.uid = s.uid := by
  obtain ⟨s1, m, (h1 | ⟨va, h1⟩), h⟩ := s.saveImage_cases die t f
  · rw [h, h1]; and_intros <;> rfl
  · have k := s.vaWrite_keeps (s.groupOf t).core (s.groupOf t).ctx va (t.image s.clk)
    rw [← h1] at k
    rw [h]; exact k

/-- The record of a team that parks. -/
@[simp] theorem State.formRec_keeps (s : State) (t : Team) (f : FaultInfo) :
    (s.formRec t f).parts = s.parts ∧ (s.formRec t f).acc = s.acc ∧ (s.formRec t f).asy = s.asy ∧
      (s.formRec t f).tops = s.tops ∧ (s.formRec t f).svc = s.svc ∧ (s.formRec t f).tasks = s.tasks ∧
      (s.formRec t f).dfl = s.dfl ∧ (s.formRec t f).det = s.det ∧ (s.formRec t f).lqs = s.lqs ∧
      (s.formRec t f).batches = s.batches ∧ (s.formRec t f).clk = s.clk := by
  unfold State.formRec
  dsimp only
  split
  · simp
  split
  · split
    · simp
    · split <;> simp
  rename_i d i _
  have h1 := s.saveImage_keeps d t f
  generalize s.saveImage d t f = q at h1 ⊢
  obtain ⟨s1, (_ | ⟨a, b, c, d⟩)⟩ := q
  · simp_all
  · simp only at h1
    simp [h1, apply_ite State.parts, apply_ite State.acc, apply_ite State.asy, apply_ite State.tops, apply_ite State.svc,
      apply_ite State.tasks, apply_ite State.dfl, apply_ite State.det, apply_ite State.lqs, apply_ite State.batches,
      apply_ite State.clk]

/-- A fault taken. -/
@[simp] theorem State.park_keeps (s : State) (t : Team) (f : FaultInfo) :
    (s.park t f).parts = s.parts ∧ (s.park t f).acc = s.acc ∧ (s.park t f).asy = s.asy ∧ (s.park t f).tops = s.tops ∧
      (s.park t f).svc = s.svc ∧ (s.park t f).tasks = s.tasks ∧ (s.park t f).dfl = s.dfl ∧ (s.park t f).det = s.det ∧
      (s.park t f).lqs = s.lqs ∧ (s.park t f).batches = s.batches ∧ (s.park t f).clk = s.clk := by
  unfold State.park
  split <;> simp

/-- The end of a clause. -/
@[simp] theorem State.endClause_keeps (s : State) (t : Team) (c : Clause) (pc : Dw) (src : Option (Dw × Nat)) :
    (s.endClause t c pc src).mem = s.mem ∧ (s.endClause t c pc src).groups = s.groups ∧
      (s.endClause t c pc src).ctxs = s.ctxs ∧ (s.endClause t c pc src).cores = s.cores ∧
      (s.endClause t c pc src).acc = s.acc ∧ (s.endClause t c pc src).asy = s.asy ∧
      (s.endClause t c pc src).tops = s.tops ∧ (s.endClause t c pc src).svc = s.svc ∧
      (s.endClause t c pc src).recs = s.recs ∧ (s.endClause t c pc src).tasks = s.tasks ∧
      (s.endClause t c pc src).rounds = s.rounds ∧ (s.endClause t c pc src).dfl = s.dfl ∧
      (s.endClause t c pc src).det = s.det ∧ (s.endClause t c pc src).lqs = s.lqs ∧
      (s.endClause t c pc src).peers = s.peers ∧ (s.endClause t c pc src).batches = s.batches ∧
      (s.endClause t c pc src).rel = s.rel ∧ (s.endClause t c pc src).clk = s.clk ∧
      (s.endClause t c pc src).free = s.free ∧ (s.endClause t c pc src).uid = s.uid := by
  simp [State.endClause]

/-- An instruction is done. -/
@[simp] theorem State.retire_keeps (s : State) (t : Team) :
    (s.retire t).mem = s.mem ∧ (s.retire t).groups = s.groups ∧ (s.retire t).ctxs = s.ctxs ∧
      (s.retire t).cores = s.cores ∧ (s.retire t).acc = s.acc ∧ (s.retire t).asy = s.asy ∧
      (s.retire t).tops = s.tops ∧ (s.retire t).svc = s.svc ∧ (s.retire t).recs = s.recs ∧
      (s.retire t).tasks = s.tasks ∧ (s.retire t).rounds = s.rounds ∧ (s.retire t).dfl = s.dfl ∧
      (s.retire t).det = s.det ∧ (s.retire t).lqs = s.lqs ∧ (s.retire t).peers = s.peers ∧
      (s.retire t).batches = s.batches ∧ (s.retire t).rel = s.rel ∧ (s.retire t).clk = s.clk ∧
      (s.retire t).free = s.free ∧ (s.retire t).uid = s.uid := by
  unfold State.retire
  (repeat' split) <;> simp

/-- A taken transfer. -/
@[simp] theorem State.jump_keeps (s : State) (t : Team) (a : Dw) :
    (s.jump t a).groups = s.groups ∧ (s.jump t a).ctxs = s.ctxs ∧ (s.jump t a).acc = s.acc ∧
      (s.jump t a).asy = s.asy ∧ (s.jump t a).tops = s.tops ∧ (s.jump t a).svc = s.svc ∧ (s.jump t a).recs = s.recs ∧
      (s.jump t a).tasks = s.tasks ∧ (s.jump t a).rounds = s.rounds ∧ (s.jump t a).dfl = s.dfl ∧
      (s.jump t a).det = s.det ∧ (s.jump t a).lqs = s.lqs ∧ (s.jump t a).peers = s.peers ∧
      (s.jump t a).batches = s.batches ∧ (s.jump t a).rel = s.rel ∧ (s.jump t a).clk = s.clk ∧
      (s.jump t a).free = s.free ∧ (s.jump t a).uid = s.uid := by
  unfold State.jump
  split <;> simp

/-- A team waits at its instruction. -/
@[simp] theorem State.deschedule_keeps (s : State) (t : Team) (w : Wait) :
    (s.deschedule t w).mem = s.mem ∧ (s.deschedule t w).groups = s.groups ∧ (s.deschedule t w).ctxs = s.ctxs ∧
      (s.deschedule t w).parts = s.parts ∧ (s.deschedule t w).cores = s.cores ∧ (s.deschedule t w).acc = s.acc ∧
      (s.deschedule t w).asy = s.asy ∧ (s.deschedule t w).tops = s.tops ∧ (s.deschedule t w).svc = s.svc ∧
      (s.deschedule t w).recs = s.recs ∧ (s.deschedule t w).tasks = s.tasks ∧ (s.deschedule t w).rounds = s.rounds ∧
      (s.deschedule t w).dfl = s.dfl ∧ (s.deschedule t w).det = s.det ∧ (s.deschedule t w).lqs = s.lqs ∧
      (s.deschedule t w).peers = s.peers ∧ (s.deschedule t w).batches = s.batches ∧ (s.deschedule t w).rel = s.rel ∧
      (s.deschedule t w).clk = s.clk ∧ (s.deschedule t w).free = s.free ∧ (s.deschedule t w).uid = s.uid := by
  simp [State.deschedule]

/-- A team waits after its instruction. -/
@[simp] theorem State.retireWait_keeps (s : State) (t : Team) (w : Wait) :
    (s.retireWait t w).mem = s.mem ∧ (s.retireWait t w).groups = s.groups ∧ (s.retireWait t w).ctxs = s.ctxs ∧
      (s.retireWait t w).cores = s.cores ∧ (s.retireWait t w).acc = s.acc ∧ (s.retireWait t w).asy = s.asy ∧
      (s.retireWait t w).tops = s.tops ∧ (s.retireWait t w).svc = s.svc ∧ (s.retireWait t w).recs = s.recs ∧
      (s.retireWait t w).tasks = s.tasks ∧ (s.retireWait t w).rounds = s.rounds ∧ (s.retireWait t w).dfl = s.dfl ∧
      (s.retireWait t w).det = s.det ∧ (s.retireWait t w).lqs = s.lqs ∧ (s.retireWait t w).peers = s.peers ∧
      (s.retireWait t w).batches = s.batches ∧ (s.retireWait t w).rel = s.rel ∧ (s.retireWait t w).clk = s.clk ∧
      (s.retireWait t w).free = s.free ∧ (s.retireWait t w).uid = s.uid := by
  simp [State.retireWait]


end Sys2Proof.Machine
end

