-- ==== Sys2Proof/Laws/Issue.lean ====
section
/-! SUPPORT. What the issue of an instruction does, said once: with no team in the issue slot it stops; a fault of R541
parks the team; a team that is ready goes on with the instruction's effect. -/

namespace Sys2Proof.Machine

/-- The issue of an instruction by the team in the issue slot. -/
theorem issue_of_team {s : State} {t : Team} (h : s.curTeam = some t) (i : Info) (k : Team → State → State) :
    issue i k s = .next (s.issueTeam i t k).tick := by
  simp [issue, h]

/-- The issue of an instruction answers a next state exactly when a team holds the issue slot. -/
theorem issue_next {i : Info} {k : Team → State → State} {s s' : State} (h : issue i k s = .next s') :
    ∃ t, s.curTeam = some t ∧ s' = (s.issueTeam i t k).tick := by
  unfold issue at h
  split at h
  · cases h
  · next t ht => exact ⟨t, ht, by injection h with h; exact h.symm⟩

/-- An instruction that breaks a rule of R541 parks its team. -/
theorem State.issueTeam_fault {s : State} {i : Info} {t : Team} {f : FaultInfo} (h : s.issueFault i t = some f)
    (k : Team → State → State) : s.issueTeam i t k = s.park t f := by
  simp [State.issueTeam, h]

/-- No access of the team still writes a register that the instruction names (R211). -/
theorem State.blocked_nil {s : State} {i : Info} {t : Team}
    (h : ∀ a ∈ s.acc, a.team = t.key → ∀ d ∈ i.dests, d ∉ a.dests) : s.blocked i t = [] := by
  unfold State.blocked
  rw [List.filter_eq_nil_iff]
  intro d hd hc
  simp only [List.any_eq_true, Bool.and_eq_true, beq_iff_eq] at hc
  obtain ⟨a, ha, hk, hm⟩ := hc
  exact h a ha hk d hd (by simpa using hm)

/-- A team whose registers hold no error, with no register awaited and no access abandoned, goes on with the effect. -/
theorem State.issueTeam_effect {s : State} {i : Info} {t : Team} (hf : s.issueFault i t = none) (hl : t.lost = none)
    (hb : s.blocked i t = []) (he : t.errs = []) (k : Team → State → State) : s.issueTeam i t k = k t s := by
  simp [State.issueTeam, hf, hl, hb, he]

/-- No check of R541 fails: the field values, pairs, register and tile numbers, formats, class, place in the clause,
engine and privilege are as the rules ask. -/
theorem State.issueFault_none {s : State} {i : Info} {t : Team} (hc : t.inClass i.eng = true) (hbad : i.bad = none)
    (hp : ∀ r ∈ i.pairs, r.toNat + 1 < t.vcnt) (hr : ∀ r ∈ i.named ++ i.vr ++ i.vw, r.toNat < t.vcnt)
    (ht : ∀ r ∈ i.ts, r.toNat < (s.groupOf t).tiles.length) (hfmt : i.fmt = false)
    (hx : i.xfer = true → t.atLast = true) (he : i.eng = 3 → (s.groupOf t).core < 192)
    (h1 : i.lvl = 1 → (s.ctx (s.groupOf t).ctx).priv ≠ 0) (h2 : i.lvl = 2 → t.handler = true) :
    s.issueFault i t = none := by
  unfold State.issueFault
  simp only [hbad, hfmt]
  rw [if_neg, if_neg, if_neg, if_neg (by simp)]
  · unfold Team.inClass at hc
    unfold Team.atLast at hx
    cases hk : t.clause with
    | none => rfl
    | some c =>
      simp only [hk] at hc hx ⊢
      rw [if_neg, if_neg, if_neg, if_neg, if_neg]
      · rintro ⟨h, h'⟩; simp [h2 h] at h'
      · rintro ⟨h, h'⟩; exact h1 h h'
      · rintro ⟨h, h'⟩; have := he h; omega
      · rintro ⟨h, h'⟩; have := hx h; simp at this; omega
      · simp at hc; omega
  · simpa using ht
  · simpa only [List.any_eq_true, decide_eq_true_eq, not_exists, not_and, not_le] using hr
  · simpa only [List.any_eq_true, decide_eq_true_eq, not_exists, not_and, not_le] using hp

/-- A ready team runs the instruction's effect, and one period of the clock passes. -/
theorem issue_ready {s : State} {t : Team} {i : Info} (h : Ready s t i.eng i.dests) (hbad : i.bad = none)
    (hp : ∀ r ∈ i.pairs, r.toNat + 1 < t.vcnt) (hr : ∀ r ∈ i.named ++ i.vr ++ i.vw, r.toNat < t.vcnt)
    (ht : ∀ r ∈ i.ts, r.toNat < (s.groupOf t).tiles.length) (hfmt : i.fmt = false)
    (hx : i.xfer = true → t.atLast = true) (he : i.eng = 3 → (s.groupOf t).core < 192)
    (h1 : i.lvl = 1 → (s.ctx (s.groupOf t).ctx).priv ≠ 0) (h2 : i.lvl = 2 → t.handler = true)
    (k : Team → State → State) : issue i k s = .next (k t s).tick := by
  obtain ⟨hc, hi, hl, hn, hb⟩ := h
  rw [issue_of_team hc, State.issueTeam_effect (State.issueFault_none hi hbad hp hr ht hfmt hx he h1 h2) hl
    (State.blocked_nil hb) hn]

/-- A ready team asks for fewer registers than it is ready for. -/
theorem Ready.mono {s : State} {t : Team} {e : Nat} {ds ds' : List Dest} (h : Ready s t e ds) (hs : ∀ d ∈ ds', d ∈ ds) :
    Ready s t e ds' :=
  ⟨h.1, h.2.1, h.2.2.1, h.2.2.2.1, fun a ha hk d hd => h.2.2.2.2 a ha hk d (hs d hd)⟩

end Sys2Proof.Machine
end

