-- ==== Sys2Proof/Tests/Slice0.lean ====
section
/-! SUPPORT. The model's own tests: words written out from the encoding tables decode to their instructions; each
obligation with hypotheses has a state and operands that meet them; small steps give what the rules say; ill-formed
terms are refused. Theorems are elaborated one after another: hundreds of kernel evaluations at once take too many threads. -/

section
set_option Elab.async false
namespace Sys2Proof.Tests
open Sys2Proof Sys2Proof.Machine

/-! ### Words written out in the formats of Table 6-3 and Table 6-4 -/

def rr (op : BitVec 6) (d a b : BitVec 7) (m : BitVec 5) : Wd := op ++ d ++ a ++ b ++ m
def ri (op : BitVec 6) (d a : BitVec 7) (m : BitVec 4) (i : BitVec 8) : Wd := op ++ d ++ a ++ m ++ i
def fb (op : BitVec 6) (m : BitVec 4) (s : BitVec 7) (o : BitVec 15) : Wd := op ++ m ++ s ++ o
def mk (op : BitVec 6) (m : BitVec 5) (pd pa pb : BitVec 4) (r : BitVec 7) : Wd := op ++ m ++ pd ++ pa ++ pb ++ r ++ 0#2
def pc (op : BitVec 6) (pd : BitVec 4) (a b : BitVec 7) (cc ty : BitVec 4) : Wd := op ++ pd ++ a ++ b ++ cc ++ ty
def ff (m : BitVec 5) (f : BitVec 21) : Wd := 53#6 ++ m ++ f
def as (m : BitVec 5) (sd : BitVec 7) (ds ss : BitVec 3) (f : BitVec 8) : Wd := 54#6 ++ m ++ sd ++ ds ++ ss ++ f
def mx (m : BitVec 5) (q : BitVec 7) (t : BitVec 3) (sat a b : BitVec 1) (t2 : BitVec 3) : Wd :=
  55#6 ++ m ++ q ++ t ++ sat ++ a ++ b ++ t2 ++ 0#5
def imm (v : BitVec 26) : Wd := 60#6 ++ v
def opx (e : BitVec 7) (xf : BitVec 19) : Wd := 61#6 ++ e ++ xf
def msk (p : BitVec 4) (z n : BitVec 1) : Wd := 62#6 ++ p ++ z ++ n ++ 0#20
def fmt (rv : BitVec 1) (rm : BitVec 3) (fv : BitVec 1) (s d : BitVec 5) : Wd := 63#6 ++ rv ++ rm ++ fv ++ s ++ d ++ 0#11

/-- The words decode to the instruction, and to no more than them. -/
def Dec (ws : List Wd) (i : Instr) : Prop := decode ws = .ok (i, ws.length)
/-- Major 1: format B, MIN of Table 6-8. -/
theorem test_decode_branches :
    Dec [fb 1 0 0 4] (.br (.short 4)) ∧
    Dec [fb 1 1 7 3] (.brcEq 7 (.short 3)) ∧
    Dec [fb 1 2 7 0] (.brcNe 7 (.short 0)) ∧
    Dec [fb 1 3 9 0x7FFF] (.brcLt 9 (.short 0x7FFF)) ∧
    Dec [fb 1 4 9 1] (.brcGe 9 (.short 1)) ∧
    Dec [fb 1 5 12 6] (.bany 12 (.short 6)) ∧
    Dec [fb 1 6 12 6] (.bnone 12 (.short 6)) ∧
    Dec [fb 1 7 5 (0x21#8 ++ 0x7E#7)] (.balw 5 0x21 (.short 0x7E)) ∧
    Dec [fb 1 8 0 2] (.call (.short 2)) := by
  and_intros <;> rfl

/-- Major 2: format RR. -/
theorem test_decode_control :
    Dec [rr 2 0 0 0 0] (.nop) ∧
    Dec [rr 2 0 0 0 1] (.exit) ∧
    Dec [rr 2 0 0 0 2] (.yld) ∧
    Dec [rr 2 0 61 0 3] (.ret 61) ∧
    Dec [rr 2 0 4 0 4] (.callr 4) ∧
    Dec [rr 2 0 4 0 5] (.brr 4) ∧
    Dec [rr 2 0 0 9 6] (.trap 9) ∧
    Dec [rr 2 0 0 0 7] (.pdis) ∧
    Dec [rr 2 0 0 0 8] (.pen) ∧
    Dec [rr 2 2 4 5 9] (.icinv 2 4 5) := by
  and_intros <;> rfl

/-- Major 3: format RR. -/
theorem test_decode_scalar_register :
    Dec [rr 3 3 1 2 0] (.add 3 1 2) ∧
    Dec [rr 3 3 1 2 1] (.sub 3 1 2) ∧
    Dec [rr 3 3 1 2 2] (.mul 3 1 2) ∧
    Dec [rr 3 3 1 2 3] (.mulhs 3 1 2) ∧
    Dec [rr 3 3 1 2 4] (.mulhu 3 1 2) ∧
    Dec [rr 3 3 1 2 5] (.div 3 1 2) ∧
    Dec [rr 3 3 1 2 6] (.divu 3 1 2) ∧
    Dec [rr 3 3 1 2 7] (.rem 3 1 2) ∧
    Dec [rr 3 3 1 2 8] (.remu 3 1 2) ∧
    Dec [rr 3 3 1 2 9] (.and 3 1 2) ∧
    Dec [rr 3 3 1 2 10] (.or 3 1 2) ∧
    Dec [rr 3 3 1 2 11] (.xor 3 1 2) ∧
    Dec [rr 3 3 1 2 12] (.andn 3 1 2) ∧
    Dec [rr 3 3 1 2 13] (.shl 3 1 2) ∧
    Dec [rr 3 3 1 2 14] (.shr 3 1 2) ∧
    Dec [rr 3 3 1 2 15] (.sar 3 1 2) ∧
    Dec [rr 3 3 1 2 16] (.rol 3 1 2) ∧
    Dec [rr 3 3 1 2 17] (.min 3 1 2) ∧
    Dec [rr 3 3 1 2 18] (.max 3 1 2) ∧
    Dec [rr 3 3 1 2 19] (.minu 3 1 2) ∧
    Dec [rr 3 3 1 2 20] (.maxu 3 1 2) ∧
    Dec [rr 3 3 1 2 21] (.slt 3 1 2) ∧
    Dec [rr 3 3 1 2 22] (.sltu 3 1 2) ∧
    Dec [rr 3 3 1 2 23] (.seq 3 1 2) ∧
    Dec [rr 3 3 1 0 24] (.clz 3 1) ∧
    Dec [rr 3 3 1 0 25] (.popc 3 1) := by
  and_intros <;> rfl

/-- Major 4: format RI; the shift counts have 6 bits. -/
theorem test_decode_scalar_immediate :
    Dec [ri 4 3 1 0 0xFE] (.addi 3 1 (.short 0xFE)) ∧
    Dec [ri 4 3 1 1 0xFE] (.muli 3 1 (.short 0xFE)) ∧
    Dec [ri 4 3 1 2 0xFE] (.andi 3 1 (.short 0xFE)) ∧
    Dec [ri 4 3 1 3 0xFE] (.ori 3 1 (.short 0xFE)) ∧
    Dec [ri 4 3 1 4 0xFE] (.xori 3 1 (.short 0xFE)) ∧
    Dec [ri 4 3 1 5 0x3F] (.shli 3 1 0x3F) ∧
    Dec [ri 4 3 1 6 0x3F] (.shri 3 1 0x3F) ∧
    Dec [ri 4 3 1 7 0x3F] (.sari 3 1 0x3F) ∧
    Dec [ri 4 3 1 8 0xFE] (.slti 3 1 (.short 0xFE)) ∧
    Dec [ri 4 3 1 9 0xFE] (.sltui 3 1 (.short 0xFE)) ∧
    Dec [ri 4 3 1 10 0xFE] (.seqi 3 1 (.short 0xFE)) ∧
    Dec [ri 4 3 0 11 0x80] (.li 3 (.short 0x80)) ∧
    Dec [ri 4 3 1 12 7] (.lih 3 1 (.short 7)) := by
  and_intros <;> rfl

/-- Major 5: format RI, SRN in IMM8. -/
theorem test_decode_special_moves :
    Dec [ri 5 3 0 0 0x0B] (.srrd 3 0x0B) ∧
    Dec [ri 5 0 4 1 0x08] (.srwr 0x08 4) := by
  and_intros <;> rfl

/-- Major 6: format MK. -/
theorem test_decode_masks :
    Dec [mk 6 0 3 0 0 0] (.msave 3) ∧
    Dec [mk 6 1 0 4 0 0] (.mrstr 4) ∧
    Dec [mk 6 2 0 4 0 0] (.mand 4) ∧
    Dec [mk 6 3 0 4 0 0] (.mandn 4) ∧
    Dec [mk 6 4 0 4 0 0] (.mor 4) ∧
    Dec [mk 6 5 0 4 0 0] (.mnot 4) ∧
    Dec [mk 6 6 0 4 0 9] (.mcnt 9 4) ∧
    Dec [mk 6 7 0 4 0 9] (.mfirst 9 4) ∧
    Dec [mk 6 8 3 4 5 0] (.pand 3 4 5) ∧
    Dec [mk 6 9 3 4 5 0] (.por 3 4 5) ∧
    Dec [mk 6 10 3 4 5 0] (.pxor 3 4 5) ∧
    Dec [mk 6 11 3 4 5 0] (.pandn 3 4 5) ∧
    Dec [mk 6 12 3 4 0 0] (.pnot 3 4) ∧
    Dec [mk 6 13 0 4 6 40] (.ppack 40 4 6) ∧
    Dec [mk 6 14 0 4 6 40] (.punpk 4 40 6) := by
  and_intros <;> rfl

/-- Major 7: format PC; TY 3 to 5 take a scalar or immediate. -/
theorem test_decode_compares :
    Dec [pc 7 3 40 41 0 0] (.pcmp 3 40 (.vec 41) .eq .i32 none) ∧
    Dec [pc 7 3 40 41 3 1] (.pcmp 3 40 (.vec 41) .le .u32 none) ∧
    Dec [pc 7 3 40 41 6 2] (.pcmp 3 40 (.vec 41) .un .f32 none) ∧
    Dec [pc 7 3 40 9 5 3] (.pcmp 3 40 (.sca (.reg 9)) .ge .i32 none) := by
  and_intros <;> rfl

/-- Majors 8 to 20: format M, MIN of Table 6-7; major bits [28:26] are the space (Table 3-1). -/
theorem test_decode_vector_memory :
    Dec [rr 12 3 4 2 (4#3 ++ 1#2)] (.ld true 4 3 { sp := .G, base := 4, x := 2, disp := none } none) ∧
    Dec [rr 8 3 4 2 (0#3 ++ 0#2)] (.ld false 0 3 { sp := .L, base := 4, x := 2, disp := none } none) ∧
    Dec [opx 0 (0#3 ++ 0#2 ++ 2#3 ++ 0#1 ++ 0#10), rr 11 3 4 2 (4#3 ++ 2#2)] (.ldAcq 4 2 3 { sp := .H, base := 4, x := 2, disp := none } none) ∧
    Dec [rr 9 0 4 2 (7#3 ++ 0#2)] (.pf { sp := .C, base := 4, x := 2, disp := none } none) ∧
    Dec [rr 12 0 4 2 (7#3 ++ 3#2)] (.pfSpec { sp := .G, base := 4, x := 2, disp := none } none) ∧
    Dec [rr 20 3 4 2 (2#3 ++ 0#2)] (.st false 2 { sp := .G, base := 4, x := 2, disp := none } 3 none) ∧
    Dec [rr 18 6 4 2 (3#3 ++ 2#2)] (.st true 3 { sp := .K, base := 4, x := 2, disp := none } 6 none) ∧
    Dec [opx 0 (0#3 ++ 0#2 ++ 3#3 ++ 0#1 ++ 0#10), rr 20 3 4 2 (2#3 ++ 1#2)] (.stRel 2 3 { sp := .G, base := 4, x := 2, disp := none } 3 none) ∧
    Dec [imm 0x3FFFFF0, rr 12 3 4 2 (4#3 ++ 0#2)] (.ld false 4 3 { sp := .G, base := 4, x := 2, disp := some 0x3FFFFF0 } none) ∧
    Dec [msk 5 0 1, rr 20 3 4 2 (2#3 ++ 0#2)] (.st false 2 { sp := .G, base := 4, x := 2, disp := none } 3 (some { p := 5, z := false, n := true })) := by
  and_intros <;> rfl

/-- Majors 24 to 28: format M, scalar form. -/
theorem test_decode_scalar_memory :
    Dec [rr 28 3 4 2 (0#1 ++ 6#3 ++ 0#1)] (.ldScalar 6 3 { sp := .G, base := 4, x := .reg 2, disp := none }) ∧
    Dec [rr 25 3 4 0x42 (0#1 ++ 4#3 ++ 0#1)] (.ldScalar 4 3 { sp := .C, base := 4, x := .off 2, disp := none }) ∧
    Dec [opx 0 (0#3 ++ 0#2 ++ 4#3 ++ 0#1 ++ 0#10), rr 28 3 4 2 (0#1 ++ 6#3 ++ 1#1)] (.ldScalarAcq 6 4 3 { sp := .G, base := 4, x := .reg 2, disp := none }) ∧
    Dec [rr 27 3 4 2 (1#1 ++ 3#3 ++ 0#1)] (.stScalar 3 { sp := .H, base := 4, x := .reg 2, disp := none } 3) ∧
    Dec [opx 0 (0#3 ++ 0#2 ++ 4#3 ++ 0#1 ++ 0#10), rr 28 3 4 2 (1#1 ++ 2#3 ++ 1#1)] (.stScalarRel 2 4 { sp := .G, base := 4, x := .reg 2, disp := none } 3) := by
  and_intros <;> rfl

/-- Majors 32 to 36: MIN[4] FORM, MIN[3:0] operation; OPX gives E, TYPE, ANN, SCOPE, RET (R227). -/
theorem test_decode_atomics :
    Dec [opx 7 (1#3 ++ 2#2 ++ 3#3 ++ 1#1 ++ 0#10), rr 36 3 4 2 (0#1 ++ 0#4)] (.atomAdd { o := .vec 3 { sp := .G, base := 4, x := 2, disp := none } 7, ty := 1, ann := 2, scope := 3, ret := true, m := none }) ∧
    Dec [opx 7 (1#3 ++ 2#2 ++ 3#3 ++ 1#1 ++ 0#10), rr 36 3 4 2 (0#1 ++ 1#4)] (.atomSub { o := .vec 3 { sp := .G, base := 4, x := 2, disp := none } 7, ty := 1, ann := 2, scope := 3, ret := true, m := none }) ∧
    Dec [opx 7 (1#3 ++ 2#2 ++ 3#3 ++ 1#1 ++ 0#10), rr 36 3 4 2 (0#1 ++ 2#4)] (.atomMin { o := .vec 3 { sp := .G, base := 4, x := 2, disp := none } 7, ty := 1, ann := 2, scope := 3, ret := true, m := none }) ∧
    Dec [opx 7 (1#3 ++ 2#2 ++ 3#3 ++ 1#1 ++ 0#10), rr 36 3 4 2 (0#1 ++ 3#4)] (.atomMax { o := .vec 3 { sp := .G, base := 4, x := 2, disp := none } 7, ty := 1, ann := 2, scope := 3, ret := true, m := none }) ∧
    Dec [opx 7 (1#3 ++ 2#2 ++ 3#3 ++ 1#1 ++ 0#10), rr 36 3 4 2 (0#1 ++ 4#4)] (.atomAnd { o := .vec 3 { sp := .G, base := 4, x := 2, disp := none } 7, ty := 1, ann := 2, scope := 3, ret := true, m := none }) ∧
    Dec [opx 7 (1#3 ++ 2#2 ++ 3#3 ++ 1#1 ++ 0#10), rr 36 3 4 2 (0#1 ++ 5#4)] (.atomOr { o := .vec 3 { sp := .G, base := 4, x := 2, disp := none } 7, ty := 1, ann := 2, scope := 3, ret := true, m := none }) ∧
    Dec [opx 7 (1#3 ++ 2#2 ++ 3#3 ++ 1#1 ++ 0#10), rr 36 3 4 2 (0#1 ++ 6#4)] (.atomXor { o := .vec 3 { sp := .G, base := 4, x := 2, disp := none } 7, ty := 1, ann := 2, scope := 3, ret := true, m := none }) ∧
    Dec [opx 7 (1#3 ++ 2#2 ++ 3#3 ++ 1#1 ++ 0#10), rr 36 3 4 2 (0#1 ++ 7#4)] (.atomExch { o := .vec 3 { sp := .G, base := 4, x := 2, disp := none } 7, ty := 1, ann := 2, scope := 3, ret := true, m := none }) ∧
    Dec [opx 7 (1#3 ++ 2#2 ++ 3#3 ++ 1#1 ++ 0#10), rr 36 3 4 2 (0#1 ++ 8#4)] (.atomCas { o := .vec 3 { sp := .G, base := 4, x := 2, disp := none } 7, ty := 1, ann := 2, scope := 3, ret := true, m := none }) ∧
    Dec [opx 7 (1#3 ++ 2#2 ++ 3#3 ++ 1#1 ++ 0#10), rr 36 3 4 2 (0#1 ++ 9#4)] (.atomFaddt { o := .vec 3 { sp := .G, base := 4, x := 2, disp := none } 7, ty := 1, ann := 2, scope := 3, ret := true, m := none }) ∧
    Dec [opx 7 (2#3 ++ 0#2 ++ 3#3 ++ 0#1 ++ 0#10), rr 35 0 4 0x41 (1#1 ++ 0#4)] (.atomAdd { o := .sca 0 { sp := .H, base := 4, x := .off 1, disp := none } 7, ty := 2, ann := 0, scope := 3, ret := false, m := none }) := by
  and_intros <;> rfl

/-- Major 44: format RR. -/
theorem test_decode_vector_integer_w32 :
    Dec [rr 44 3 1 2 0] (.vadd .w32 3 1 2 none) ∧
    Dec [rr 44 3 1 2 1] (.vsub .w32 3 1 2 none) ∧
    Dec [rr 44 3 1 2 2] (.vmul .w32 3 1 2 none) ∧
    Dec [rr 44 3 1 2 3] (.vmulhs .w32 3 1 2 none) ∧
    Dec [rr 44 3 1 2 4] (.vmulhu .w32 3 1 2 none) ∧
    Dec [rr 44 3 1 2 5] (.vmad .w32 3 1 2 none none) ∧
    Dec [opx 9 0, rr 44 3 1 2 5] (.vmad .w32 3 1 2 (some 9) none) ∧
    Dec [rr 44 3 1 2 6] (.vmin .w32 3 1 2 none) ∧
    Dec [rr 44 3 1 2 7] (.vmax .w32 3 1 2 none) ∧
    Dec [rr 44 3 1 2 8] (.vminu .w32 3 1 2 none) ∧
    Dec [rr 44 3 1 2 9] (.vmaxu .w32 3 1 2 none) ∧
    Dec [rr 44 3 1 2 10] (.vand .w32 3 1 2 none) ∧
    Dec [rr 44 3 1 2 11] (.vor .w32 3 1 2 none) ∧
    Dec [rr 44 3 1 2 12] (.vxor .w32 3 1 2 none) ∧
    Dec [rr 44 3 1 2 13] (.vandn .w32 3 1 2 none) ∧
    Dec [rr 44 3 1 2 14] (.vshl .w32 3 1 2 none) ∧
    Dec [rr 44 3 1 2 15] (.vshr .w32 3 1 2 none) ∧
    Dec [rr 44 3 1 2 16] (.vsar .w32 3 1 2 none) ∧
    Dec [rr 44 3 1 0 17] (.vabs .w32 3 1 none) ∧
    Dec [rr 44 3 1 0 18] (.vneg .w32 3 1 none) ∧
    Dec [rr 44 3 1 2 19] (.vadds .w32 3 1 2 none) ∧
    Dec [rr 44 3 1 2 20] (.vsubs .w32 3 1 2 none) ∧
    Dec [rr 44 3 1 2 21] (.vaddus .w32 3 1 2 none) ∧
    Dec [rr 44 3 1 2 22] (.vsubus .w32 3 1 2 none) ∧
    Dec [rr 44 3 1 0 23] (.vclz .w32 3 1 none) ∧
    Dec [rr 44 3 1 0 24] (.vpopc .w32 3 1 none) ∧
    Dec [rr 44 3 1 0 25] (.vmov 3 1 none) ∧
    Dec [msk 5 0 0, rr 44 3 1 2 26] (.vsel 3 1 (.vec 2) { p := 5, z := false, n := false }) ∧
    Dec [msk 5 1 0, rr 44 3 1 2 0] (.vadd .w32 3 1 2 (some { p := 5, z := true, n := false })) := by
  and_intros <;> rfl

/-- Major 45: format RR. -/
theorem test_decode_vector_integer_w16 :
    Dec [rr 45 3 1 2 0] (.vadd .w16 3 1 2 none) ∧
    Dec [rr 45 3 1 2 1] (.vsub .w16 3 1 2 none) ∧
    Dec [rr 45 3 1 2 2] (.vmul .w16 3 1 2 none) ∧
    Dec [rr 45 3 1 2 3] (.vmulhs .w16 3 1 2 none) ∧
    Dec [rr 45 3 1 2 4] (.vmulhu .w16 3 1 2 none) ∧
    Dec [rr 45 3 1 2 5] (.vmad .w16 3 1 2 none none) ∧
    Dec [opx 9 0, rr 45 3 1 2 5] (.vmad .w16 3 1 2 (some 9) none) ∧
    Dec [rr 45 3 1 2 6] (.vmin .w16 3 1 2 none) ∧
    Dec [rr 45 3 1 2 7] (.vmax .w16 3 1 2 none) ∧
    Dec [rr 45 3 1 2 8] (.vminu .w16 3 1 2 none) ∧
    Dec [rr 45 3 1 2 9] (.vmaxu .w16 3 1 2 none) ∧
    Dec [rr 45 3 1 2 10] (.vand .w16 3 1 2 none) ∧
    Dec [rr 45 3 1 2 11] (.vor .w16 3 1 2 none) ∧
    Dec [rr 45 3 1 2 12] (.vxor .w16 3 1 2 none) ∧
    Dec [rr 45 3 1 2 13] (.vandn .w16 3 1 2 none) ∧
    Dec [rr 45 3 1 2 14] (.vshl .w16 3 1 2 none) ∧
    Dec [rr 45 3 1 2 15] (.vshr .w16 3 1 2 none) ∧
    Dec [rr 45 3 1 2 16] (.vsar .w16 3 1 2 none) ∧
    Dec [rr 45 3 1 0 17] (.vabs .w16 3 1 none) ∧
    Dec [rr 45 3 1 0 18] (.vneg .w16 3 1 none) ∧
    Dec [rr 45 3 1 2 19] (.vadds .w16 3 1 2 none) ∧
    Dec [rr 45 3 1 2 20] (.vsubs .w16 3 1 2 none) ∧
    Dec [rr 45 3 1 2 21] (.vaddus .w16 3 1 2 none) ∧
    Dec [rr 45 3 1 2 22] (.vsubus .w16 3 1 2 none) ∧
    Dec [rr 45 3 1 0 23] (.vclz .w16 3 1 none) ∧
    Dec [rr 45 3 1 0 24] (.vpopc .w16 3 1 none) := by
  and_intros <;> rfl

/-- Major 46: format RR. -/
theorem test_decode_vector_integer_w8 :
    Dec [rr 46 3 1 2 0] (.vadd .w8 3 1 2 none) ∧
    Dec [rr 46 3 1 2 1] (.vsub .w8 3 1 2 none) ∧
    Dec [rr 46 3 1 2 2] (.vmul .w8 3 1 2 none) ∧
    Dec [rr 46 3 1 2 3] (.vmulhs .w8 3 1 2 none) ∧
    Dec [rr 46 3 1 2 4] (.vmulhu .w8 3 1 2 none) ∧
    Dec [rr 46 3 1 2 5] (.vmad .w8 3 1 2 none none) ∧
    Dec [opx 9 0, rr 46 3 1 2 5] (.vmad .w8 3 1 2 (some 9) none) ∧
    Dec [rr 46 3 1 2 6] (.vmin .w8 3 1 2 none) ∧
    Dec [rr 46 3 1 2 7] (.vmax .w8 3 1 2 none) ∧
    Dec [rr 46 3 1 2 8] (.vminu .w8 3 1 2 none) ∧
    Dec [rr 46 3 1 2 9] (.vmaxu .w8 3 1 2 none) ∧
    Dec [rr 46 3 1 2 10] (.vand .w8 3 1 2 none) ∧
    Dec [rr 46 3 1 2 11] (.vor .w8 3 1 2 none) ∧
    Dec [rr 46 3 1 2 12] (.vxor .w8 3 1 2 none) ∧
    Dec [rr 46 3 1 2 13] (.vandn .w8 3 1 2 none) ∧
    Dec [rr 46 3 1 2 14] (.vshl .w8 3 1 2 none) ∧
    Dec [rr 46 3 1 2 15] (.vshr .w8 3 1 2 none) ∧
    Dec [rr 46 3 1 2 16] (.vsar .w8 3 1 2 none) ∧
    Dec [rr 46 3 1 0 17] (.vabs .w8 3 1 none) ∧
    Dec [rr 46 3 1 0 18] (.vneg .w8 3 1 none) ∧
    Dec [rr 46 3 1 2 19] (.vadds .w8 3 1 2 none) ∧
    Dec [rr 46 3 1 2 20] (.vsubs .w8 3 1 2 none) ∧
    Dec [rr 46 3 1 2 21] (.vaddus .w8 3 1 2 none) ∧
    Dec [rr 46 3 1 2 22] (.vsubus .w8 3 1 2 none) ∧
    Dec [rr 46 3 1 0 23] (.vclz .w8 3 1 none) ∧
    Dec [rr 46 3 1 0 24] (.vpopc .w8 3 1 none) := by
  and_intros <;> rfl

/-- Major 47: format RR, B a scalar register or an immediate {VAL, B[5:0]} (R218). -/
theorem test_decode_vector_integer_scalar :
    Dec [rr 47 3 1 2 0] (.vaddScalar 3 1 (.reg 2) none) ∧
    Dec [rr 47 3 1 2 1] (.vsubScalar 3 1 (.reg 2) none) ∧
    Dec [rr 47 3 1 2 2] (.vmulScalar 3 1 (.reg 2) none) ∧
    Dec [rr 47 3 1 2 3] (.vmulhsScalar 3 1 (.reg 2) none) ∧
    Dec [rr 47 3 1 2 4] (.vmulhuScalar 3 1 (.reg 2) none) ∧
    Dec [opx 9 0, rr 47 3 1 2 5] (.vmadScalar 3 1 (.reg 2) (some 9) none) ∧
    Dec [rr 47 3 1 2 6] (.vminScalar 3 1 (.reg 2) none) ∧
    Dec [rr 47 3 1 2 7] (.vmaxScalar 3 1 (.reg 2) none) ∧
    Dec [rr 47 3 1 2 8] (.vminuScalar 3 1 (.reg 2) none) ∧
    Dec [rr 47 3 1 2 9] (.vmaxuScalar 3 1 (.reg 2) none) ∧
    Dec [rr 47 3 1 2 10] (.vandScalar 3 1 (.reg 2) none) ∧
    Dec [rr 47 3 1 2 11] (.vorScalar 3 1 (.reg 2) none) ∧
    Dec [rr 47 3 1 2 12] (.vxorScalar 3 1 (.reg 2) none) ∧
    Dec [rr 47 3 1 2 13] (.vandnScalar 3 1 (.reg 2) none) ∧
    Dec [rr 47 3 1 2 14] (.vshlScalar 3 1 (.reg 2) none) ∧
    Dec [rr 47 3 1 2 15] (.vshrScalar 3 1 (.reg 2) none) ∧
    Dec [rr 47 3 1 2 16] (.vsarScalar 3 1 (.reg 2) none) ∧
    Dec [rr 47 3 1 0 17] (.vabsScalar 3 1 none) ∧
    Dec [rr 47 3 1 0 18] (.vnegScalar 3 1 none) ∧
    Dec [rr 47 3 1 2 19] (.vaddsScalar 3 1 (.reg 2) none) ∧
    Dec [rr 47 3 1 2 20] (.vsubsScalar 3 1 (.reg 2) none) ∧
    Dec [rr 47 3 1 2 21] (.vaddusScalar 3 1 (.reg 2) none) ∧
    Dec [rr 47 3 1 2 22] (.vsubusScalar 3 1 (.reg 2) none) ∧
    Dec [rr 47 3 1 0 23] (.vclzScalar 3 1 none) ∧
    Dec [rr 47 3 1 0 24] (.vpopcScalar 3 1 none) ∧
    Dec [rr 47 3 0 2 25] (.vmovScalar 3 (.reg 2) none) ∧
    Dec [imm 0x2AAAAAA, rr 47 3 1 0x15 0] (.vaddScalar 3 1 (.imm 0xAAAAAA95) none) ∧
    Dec [msk 5 0 1, rr 47 3 1 2 26] (.vsel 3 1 (.sca (.reg 2)) { p := 5, z := false, n := true }) := by
  and_intros <;> rfl

/-- Major 48: format RR. -/
theorem test_decode_vector_float_f32 :
    Dec [rr 48 3 1 2 0] (.vfaddF32 3 1 2 none none) ∧
    Dec [rr 48 3 1 2 1] (.vfsubF32 3 1 2 none none) ∧
    Dec [rr 48 3 1 2 2] (.vfmulF32 3 1 2 none none) ∧
    Dec [opx 9 0, rr 48 3 1 2 3] (.vfmaF32 3 1 2 (some 9) none none) ∧
    Dec [opx 9 0, rr 48 3 1 2 4] (.vfmsF32 3 1 2 (some 9) none none) ∧
    Dec [opx 9 0, rr 48 3 1 2 5] (.vfnmaF32 3 1 2 (some 9) none none) ∧
    Dec [rr 48 3 1 2 6] (.vfminF32 3 1 2 none none) ∧
    Dec [rr 48 3 1 2 7] (.vfmaxF32 3 1 2 none none) ∧
    Dec [rr 48 3 1 2 8] (.vfdivF32 3 1 2 none none) ∧
    Dec [rr 48 3 1 0 9] (.vfsqrtF32 3 1 none none) ∧
    Dec [rr 48 3 1 0 10] (.vfrcpF32 3 1 none none) ∧
    Dec [rr 48 3 1 0 11] (.vfrsqF32 3 1 none none) ∧
    Dec [rr 48 3 1 0 12] (.vfabsF32 3 1 none none) ∧
    Dec [rr 48 3 1 0 13] (.vfnegF32 3 1 none none) ∧
    Dec [rr 48 3 1 0 14] (.vfexp2F32 3 1 none none) ∧
    Dec [rr 48 3 1 0 15] (.vflog2F32 3 1 none none) ∧
    Dec [fmt 1 3 0 0 0, rr 48 3 1 2 0] (.vfaddF32 3 1 2 none (some 3)) := by
  and_intros <;> rfl

/-- Major 49: format RR. -/
theorem test_decode_vector_float_packed_f16 :
    Dec [rr 49 3 1 2 0] (.vfaddPacked false 3 1 2 none none) ∧
    Dec [rr 49 3 1 2 1] (.vfsubPacked false 3 1 2 none none) ∧
    Dec [rr 49 3 1 2 2] (.vfmulPacked false 3 1 2 none none) ∧
    Dec [opx 9 0, rr 49 3 1 2 3] (.vfmaPacked false 3 1 2 (some 9) none none) ∧
    Dec [opx 9 0, rr 49 3 1 2 4] (.vfmsPacked false 3 1 2 (some 9) none none) ∧
    Dec [opx 9 0, rr 49 3 1 2 5] (.vfnmaPacked false 3 1 2 (some 9) none none) ∧
    Dec [rr 49 3 1 2 6] (.vfminPacked false 3 1 2 none none) ∧
    Dec [rr 49 3 1 2 7] (.vfmaxPacked false 3 1 2 none none) ∧
    Dec [rr 49 3 1 2 8] (.vfdivPacked false 3 1 2 none none) ∧
    Dec [rr 49 3 1 0 9] (.vfsqrtPacked false 3 1 none none) ∧
    Dec [rr 49 3 1 0 10] (.vfrcpPacked false 3 1 none none) ∧
    Dec [rr 49 3 1 0 11] (.vfrsqPacked false 3 1 none none) ∧
    Dec [rr 49 3 1 0 12] (.vfabsPacked false 3 1 none none) ∧
    Dec [rr 49 3 1 0 13] (.vfnegPacked false 3 1 none none) ∧
    Dec [rr 49 3 1 0 14] (.vfexp2Packed false 3 1 none none) ∧
    Dec [rr 49 3 1 0 15] (.vflog2Packed false 3 1 none none) := by
  and_intros <;> rfl

/-- Major 49: format RR. -/
theorem test_decode_vector_float_packed_bf16 :
    Dec [rr 49 3 1 2 16] (.vfaddPacked true 3 1 2 none none) ∧
    Dec [rr 49 3 1 2 17] (.vfsubPacked true 3 1 2 none none) ∧
    Dec [rr 49 3 1 2 18] (.vfmulPacked true 3 1 2 none none) ∧
    Dec [opx 9 0, rr 49 3 1 2 19] (.vfmaPacked true 3 1 2 (some 9) none none) ∧
    Dec [opx 9 0, rr 49 3 1 2 20] (.vfmsPacked true 3 1 2 (some 9) none none) ∧
    Dec [opx 9 0, rr 49 3 1 2 21] (.vfnmaPacked true 3 1 2 (some 9) none none) ∧
    Dec [rr 49 3 1 2 22] (.vfminPacked true 3 1 2 none none) ∧
    Dec [rr 49 3 1 2 23] (.vfmaxPacked true 3 1 2 none none) ∧
    Dec [rr 49 3 1 2 24] (.vfdivPacked true 3 1 2 none none) ∧
    Dec [rr 49 3 1 0 25] (.vfsqrtPacked true 3 1 none none) ∧
    Dec [rr 49 3 1 0 26] (.vfrcpPacked true 3 1 none none) ∧
    Dec [rr 49 3 1 0 27] (.vfrsqPacked true 3 1 none none) ∧
    Dec [rr 49 3 1 0 28] (.vfabsPacked true 3 1 none none) ∧
    Dec [rr 49 3 1 0 29] (.vfnegPacked true 3 1 none none) ∧
    Dec [rr 49 3 1 0 30] (.vfexp2Packed true 3 1 none none) ∧
    Dec [rr 49 3 1 0 31] (.vflog2Packed true 3 1 none none) := by
  and_intros <;> rfl

/-- Major 50: format RR. -/
theorem test_decode_vector_float_scalar :
    Dec [rr 50 3 1 2 0] (.vfaddScalar 3 1 (.reg 2) none none) ∧
    Dec [rr 50 3 1 2 1] (.vfsubScalar 3 1 (.reg 2) none none) ∧
    Dec [rr 50 3 1 2 2] (.vfmulScalar 3 1 (.reg 2) none none) ∧
    Dec [opx 9 0, rr 50 3 1 2 3] (.vfmaScalar 3 1 (.reg 2) (some 9) none none) ∧
    Dec [opx 9 0, rr 50 3 1 2 4] (.vfmsScalar 3 1 (.reg 2) (some 9) none none) ∧
    Dec [opx 9 0, rr 50 3 1 2 5] (.vfnmaScalar 3 1 (.reg 2) (some 9) none none) ∧
    Dec [rr 50 3 1 2 6] (.vfminScalar 3 1 (.reg 2) none none) ∧
    Dec [rr 50 3 1 2 7] (.vfmaxScalar 3 1 (.reg 2) none none) ∧
    Dec [rr 50 3 1 2 8] (.vfdivScalar 3 1 (.reg 2) none none) ∧
    Dec [rr 50 3 1 0 9] (.vfsqrtScalar 3 1 none none) ∧
    Dec [rr 50 3 1 0 10] (.vfrcpScalar 3 1 none none) ∧
    Dec [rr 50 3 1 0 11] (.vfrsqScalar 3 1 none none) ∧
    Dec [rr 50 3 1 0 12] (.vfabsScalar 3 1 none none) ∧
    Dec [rr 50 3 1 0 13] (.vfnegScalar 3 1 none none) ∧
    Dec [rr 50 3 1 0 14] (.vfexp2Scalar 3 1 none none) ∧
    Dec [rr 50 3 1 0 15] (.vflog2Scalar 3 1 none none) := by
  and_intros <;> rfl

/-- Major 51: the formats come from FMT (R224). -/
theorem test_decode_conversion :
    Dec [fmt 0 0 1 0 2, rr 51 3 1 1 0] (.vcvt 3 1 1 0 2 none none) ∧
    Dec [fmt 1 1 1 2 0x18, rr 51 3 1 4 1] (.qcvt 3 1 4 2 0x18 none (some 1)) ∧
    Dec [rr 51 4 1 0 2] (.shtag 4 1) ∧
    Dec [rr 51 3 0 0 3] (.shpromote 3) ∧
    Dec [rr 51 3 0 5 4] (.shtry 3 5) := by
  and_intros <;> rfl

/-- Major 52: format RR. -/
theorem test_decode_cross_lane :
    Dec [rr 52 3 1 2 0] (.shfl 3 1 2 none) ∧
    Dec [rr 52 3 1 2 1] (.shflUp 3 1 2 none) ∧
    Dec [rr 52 3 1 2 2] (.shflDn 3 1 2 none) ∧
    Dec [rr 52 3 1 2 3] (.shflXor 3 1 2 none) ∧
    Dec [rr 52 3 1 2 4] (.bcast 3 1 2 none) ∧
    Dec [rr 52 4 5 0 5] (.voteAny 4 5 none) ∧
    Dec [rr 52 4 5 0 6] (.voteAll 4 5 none) ∧
    Dec [rr 52 4 5 3 7] (.ballot 4 5 3 none) ∧
    Dec [rr 52 4 1 0 8] (.vredAdd 4 1 none) ∧
    Dec [rr 52 4 1 0 9] (.vredMin 4 1 none) ∧
    Dec [rr 52 4 1 0 10] (.vredMax 4 1 none) ∧
    Dec [rr 52 4 1 0 11] (.vredMinu 4 1 none) ∧
    Dec [rr 52 4 1 0 12] (.vredMaxu 4 1 none) ∧
    Dec [rr 52 4 1 0 13] (.vredAnd 4 1 none) ∧
    Dec [rr 52 4 1 0 14] (.vredOr 4 1 none) ∧
    Dec [rr 52 4 1 0 15] (.vredXor 4 1 none) ∧
    Dec [rr 52 4 1 0 16] (.vredAddF32 4 1 none) ∧
    Dec [rr 52 4 1 0 17] (.vredMinF32 4 1 none) ∧
    Dec [rr 52 4 1 0 18] (.vredMaxF32 4 1 none) ∧
    Dec [rr 52 3 1 0 20] (.vscanAdd 3 1 none) ∧
    Dec [rr 52 3 1 0 21] (.vscanMin 3 1 none) ∧
    Dec [rr 52 3 1 0 22] (.vscanMax 3 1 none) ∧
    Dec [rr 52 3 1 0 23] (.vscanMinu 3 1 none) ∧
    Dec [rr 52 3 1 0 24] (.vscanMaxu 3 1 none) ∧
    Dec [rr 52 3 1 0 25] (.vscanAnd 3 1 none) ∧
    Dec [rr 52 3 1 0 26] (.vscanOr 3 1 none) ∧
    Dec [rr 52 3 1 0 27] (.vscanXor 3 1 none) ∧
    Dec [rr 52 3 1 0 28] (.vscanAddF32 3 1 none) ∧
    Dec [rr 52 3 1 0 29] (.vscanMinF32 3 1 none) ∧
    Dec [rr 52 3 1 0 30] (.vscanMaxF32 3 1 none) := by
  and_intros <;> rfl

/-- Major 53: format F, Table 6-9. -/
theorem test_decode_synchronisation :
    Dec [ff 0 9] (.barG 9) ∧
    Dec [ff 1 5] (.barC 5) ∧
    Dec [ff 2 2] (.barL 2) ∧
    Dec [ff 3 (0#16 ++ 2#2 ++ 3#3)] (.fence 2 3) ∧
    Dec [ff 4 (0#5 ++ 1#4 ++ 2#4 ++ 3#4 ++ 15#4)] (.wait 1 2 3 15) ∧
    Dec [ff 5 (7#7 ++ 4#4 ++ 1#1 ++ 2#2 ++ 0#4 ++ 3#3)] (.tlwait 7 4 true 2 3) ∧
    Dec [ff 6 (7#7 ++ 4#3 ++ 0#11)] (.waita 7 4) ∧
    Dec [ff 7 0] (.rdenter) ∧
    Dec [ff 8 0] (.rdexit) ∧
    Dec [ff 9 4] (.wround 4) ∧
    Dec [ff 10 (7#7 ++ 8#7 ++ 0#3 ++ 6#4)] (.dfree 7 8 6) ∧
    Dec [ff 11 (7#7 ++ 8#7 ++ 0#7)] (.alwrd 7 8) := by
  and_intros <;> rfl

/-- Major 54: format AS. -/
theorem test_decode_engines :
    Dec [as 0 7 4 1 1] (.cpy 7 4 1 true) ∧
    Dec [as 1 7 1 4 0] (.cpy2d 7 1 4 false) ∧
    Dec [as 2 7 4 1 9] (.cpyg 7 4 1 9) ∧
    Dec [as 3 7 0 4 0xC5] (.qputMemory 7 4 true 5) ∧
    Dec [as 3 9 0 0 5] (.qputRegister 9 5) ∧
    Dec [as 4 9 0 0 5] (.qgetVector 9 5) ∧
    Dec [as 4 8 0 0 0x45] (.qgetScalar 8 5) ∧
    Dec [as 5 8 0 0 0xA3] (.tlread 8 true 2 3) ∧
    Dec [as 6 8 1 4 0] (.tfetchC 8) ∧
    Dec [as 6 8 0 4 0xC5] (.tfetchQ 8 true 5) ∧
    Dec [as 7 8 0 0 0] (.coll 8) := by
  and_intros <;> rfl

/-- Major 55: format MX; the position is in T2. -/
theorem test_decode_matrix :
    Dec [mx 0 8 3 1 0 1 0] (.mma128x128 8 3 true false true) ∧
    Dec [mx 1 8 3 0 1 0 1] (.mma128x64 8 3 false true false 1) ∧
    Dec [mx 2 8 3 0 1 0 1] (.mma64x128 8 3 false true false 1) ∧
    Dec [mx 3 8 3 0 0 1 2] (.mma64x64 8 3 false false true 2) ∧
    Dec [mx 4 8 3 0 0 1 3] (.mma32x128 8 3 false false true 3) ∧
    Dec [mx 5 8 3 0 0 1 3] (.mma128x32 8 3 false false true 3) ∧
    Dec [mx 8 0 3 0 0 0 0] (.accz 3) ∧
    Dec [mx 9 8 3 0 1 0 0] (.accld 8 3 true) ∧
    Dec [mx 10 8 3 0 1 0 0] (.accst 8 3 true) ∧
    Dec [mx 11 0 3 0 0 0 5] (.accmv 3 5) ∧
    Dec [mx 12 8 3 1 0 0 0] (.accovx 8 3 true) := by
  and_intros <;> rfl

/-- Major 56: format RR. -/
theorem test_decode_tasks :
    Dec [rr 56 3 1 0 0] (.tspawn 3 1) ∧
    Dec [rr 56 3 0 2 0] (.tspawnRel 3 2) ∧
    Dec [rr 56 3 1 0 1] (.frd 3 1) ∧
    Dec [rr 56 0 1 2 2] (.fwr 1 2) ∧
    Dec [rr 56 3 1 0 3] (.fwrClr 3 1) ∧
    Dec [rr 56 3 1 2 4] (.lpost 3 1 2) ∧
    Dec [rr 56 3 0 4 5] (.give 3 4) ∧
    Dec [rr 56 3 0 4 6] (.claim 3 4) ∧
    Dec [rr 56 3 1 0 7] (.sread 3 1) := by
  and_intros <;> rfl

/-- Majors 57 and 58: format RR. -/
theorem test_decode_privileged :
    Dec [rr 57 3 1 0 0] (.csrrd 3 1) ∧
    Dec [rr 57 0 1 2 1] (.csrwr 1 2) ∧
    Dec [rr 57 4 1 2 2] (.tlbinv 4 1 2) ∧
    Dec [rr 57 3 1 0 3] (.caprd 3 1) ∧
    Dec [rr 57 3 1 2 4] (.hreg 3 1 2) ∧
    Dec [rr 58 4 6 0 0] (.pkrd 4 6) ∧
    Dec [rr 58 3 6 2 1] (.pkwr 3 6 2) ∧
    Dec [rr 58 3 1 0 2] (.pkres 3 1) ∧
    Dec [rr 58 3 1 0 3] (.pkretry 3 1) ∧
    Dec [rr 58 3 1 2 4] (.pkredir 3 1 2) ∧
    Dec [rr 58 3 1 0 5] (.pkkill 3 1) := by
  and_intros <;> rfl


/-! ### A small machine: one team of 32 lanes in group slot 0 on core 0, in context 0 at MODULE -/

/-- Registers: s(1) to s(4) are the arguments, the other scalars 0; 32 vector registers; every lane active. -/
def r0 (a b c d : Dw) : Regs :=
  { s := ((((Vector.replicate 64 0).set 1 a).set 2 b).set 3 c).set 4 d, v := List.replicate 32 (.u 0),
    p := Vector.replicate 16 (widthMask 32), exec := widthMask 32, dead := 0, deadsrc := 0, fpctl := 0, slim := 0,
    seed := 0, srctr := 0 }

/-- The team: its clause is of class 0 with one instruction, the one in issue. -/
def t0 (a b c d : Dw) : Team :=
  { key := 0, uid := 1, width := 32, role := 0, stages := 1, tid := 0, place := 0, st := .running, pc := 0x10000,
    woff := 1, next := 2, clause := some { hdr := 0xA07FFF81, words := [0x08000000], left := 1 }, src := none, nopre := 0,
    yieldNow := false, age := 0, regs := r0 a b c d, cnt := { ld := 0, st := 0, cp := 0, ti := 0 },
    tl := { cpy := { issued := 0, opn := [] }, tile := { issued := 0, opn := [] }, gath := { issued := 0, opn := [] },
            coll := { issued := 0, opn := [] } },
    rdDepth := 0, pdis := false, pdLeft := 0, pdAt := 0, ovBase := 0, ovLen := 0, monitor := none, handler := false,
    depth := 0, serving := none, unserv := false, due := [], need := 0, lost := none, errs := [], detSeq := 0,
    spur := none, pinHeld := [] }

/-- The group: spaces C, L and K of 64 KiB, queue 0 of depth 8, tile 0. -/
def g0 : Group :=
  { slot := 0, uid := 1, ctx := 0, core := 0, origin := .launch 0, lin := 0, gx := 0, gy := 0, gz := 0, width := 32,
    stageMap := [0], pool := 16, cSize := 65536, sSize := 65536, kBase := 0, kSize := 65536, ovReg := 0,
    queues := [{ depth := 8, slots := [] }], barSub := [], tiles := [{ valid := true, bad := false, ovx := false }],
    pdBud := 1048576, effect := false, budget := none, budLog := 0, expired := false }

/-- The machine with a team in the issue slot. -/
def st (t : Team) (g : Group) : State := { State.reset with teams := [t], groups := [g], cur := some 0 }

/-- Two arguments in registers. -/
def s2 (a b : Dw) : State := st (t0 a b 0 0) g0

/-- The answer is no fault, and `p` holds of it. -/
def gives {α β : Type} (r : State × (α ⊕ β)) (p : β → Bool) : Bool :=
  match r.2 with
  | .inr x => p x
  | .inl _ => false

/-! ### Witnesses: for each obligation with hypotheses, states and operands that meet them -/

/-- The team in issue is ready whatever the instruction's class and registers. -/
theorem ready_st (t : Team) (g : Group) (e : Nat) (ds : List Dest) (hk : t.key = 0) (hc : t.inClass e = true)
    (hl : t.lost = none) (he : t.errs = []) : Ready (st t g) t e ds := by
  refine ⟨?_, hc, hl, he, fun a h => nomatch h⟩
  simp [State.curTeam, State.team, st, hk]

theorem ready0 (a b c d : Dw) (e : Nat) (ds : List Dest) : Ready (st (t0 a b c d) g0) (t0 a b c d) e ds :=
  ready_st _ _ _ _ rfl (by simp [Team.inClass, t0, bits]) rfl rfl

theorem fits0 (a b c d : Dw) : ∀ r, ((t0 a b c d).v r).fits 32 := by
  intro r
  simp only [Team.v, t0, r0, List.getD_eq_getElem?_getD, List.getElem?_replicate]
  split <;> trivial

theorem has0 (a b c d : Dw) (rs : List VReg) (h : ∀ r ∈ rs, r.toNat < 32) : (t0 a b c d).has rs := h

theorem noTrap0 (a b c d : Dw) : (t0 a b c d).noTrap := show bits (0 : Wd).toNat 12 8 = 0 by decide

theorem witness_DecodeOfEncode : (Instr.add 3 1 2).wf = true ∧ (Instr.vadd .w32 3 1 2 (some ⟨5, true, false⟩)).wf = true := by
  decide +kernel
theorem witness_EncodedWords : (Instr.ldAcq 4 3 1 { sp := .C, base := 1, x := 2, disp := none } (some ⟨1, false, false⟩)).wf = true := rfl
theorem witness_ReservedWordsRefused : (40 ≤ (major 0xA0000000).toNat ∧ (major 0xAC000000).toNat ≤ 43) ∧
    (major 0x34000000).toNat % 8 = 5 ∧ (major 0x9C000000).toNat % 8 = 7 ∧ (major 0).toNat = 0 ∧ (major 0xEC000000).toNat = 59 := by
  decide +kernel

theorem witness_StepRunsDecodedInstruction : (s2 0 0).agenda = [] ∧ (s2 0 0).curTeam = some (t0 0 0 0 0) ∧
    (s2 0 0).budgetEvent (t0 0 0 0 0) = none ∧ decode ([0x08000000#32].drop ((t0 0 0 0 0).woff - 1)) = .ok (.nop, 1) ∧
    { s2 0 0 with agenda := [.event .deckAging] }.agenda = .event .deckAging :: [] := by
  decide +kernel

/-- The team with words of its own in issue. -/
def tw (ws : List Wd) : Team := { t0 0 0 0 0 with clause := some { hdr := 0xA07FFF81, words := ws, left := 1 } }

theorem witness_IllegalWordParks : (st (tw [0]) g0).agenda = [] ∧ (st (tw [0]) g0).curTeam = some (tw [0]) ∧
    (st (tw [0]) g0).budgetEvent (tw [0]) = none ∧ decode ([0#32].drop ((tw [0]).woff - 1)) = .error (.illegalEncoding .none) ∧
    decode [0xF4000000#32, 0xF4000000#32, 0x08000000#32] = .error .illegalPrefix := by
  decide +kernel

theorem witness_StepKeepsMemoryCanonical : (s2 0 0).Inv ∧ ∃ s', step (s2 0 0) = .next s' := ⟨rfl, _, rfl⟩
theorem witness_RetireChangesOnlyTheTeam : ((s2 0 0).team (t0 0 0 0 0).key).isSome = true := rfl
theorem witness_ClauseAdvance : ((s2 0 0).team (t0 0 0 0 0).key).isSome = true ∧ (s2 0 0).cur = some (t0 0 0 0 0).key ∧
    (t0 0 0 0 0).clause = some { hdr := 0xA07FFF81, words := [0x08000000], left := 1 } := by
  decide +kernel
theorem witness_MemoryReadsAfterWrites : Mem.wf [(3, 5)] = true ∧ (2 < 3 ∨ 3 + 1 ≤ 2) ∧ (4 < 3 ∨ 3 + 1 ≤ 4) := by decide +kernel
theorem witness_RegisterReadAfterWrite : (1 : SReg) ≠ 0 ∧ (1 : PReg) ≠ 0 ∧ ((t0 0 0 0 0).setExec 1).regs.exec.getLsbD 0 = true := by
  decide +kernel
theorem witness_PredicateLanes : (t0 0 0 0 0).width ≤ 32 ∧ 31 < (t0 0 0 0 0).width ∧
    ({ t0 0 0 0 0 with regs := { r0 0 0 0 0 with exec := 1 } } : Team).regs.exec.getLsbD 31 = false := by decide +kernel

theorem witness_BranchesTransfer : (t0 0 0 0 0).atLast = true ∧ (∀ ds, Ready (s2 0 0) (t0 0 0 0 0) 5 ds) ∧
    canonical ((t0 0 0 0 0).target (off15 (.short 4))) = true ∧ canonical ((t0 0 0 0 0).target (off15 (.short 0x7FFF))) = true ∧
    (t0 0 0 0 0).s 1 = 0 ∧ (t0 1 0 0 0).s 1 ≠ 0 ∧ ((t0 (-1) 0 0 0).s 1).toInt < 0 ∧ 0 ≤ ((t0 0 0 0 0).s 1).toInt ∧
    (t0 0 0 0 0).regs.exec &&& (t0 0 0 0 0).p 0 ≠ 0 ∧
    ({ t0 0 0 0 0 with regs := { r0 0 0 0 0 with exec := 0 } } : Team).regs.exec &&& (t0 0 0 0 0).p 0 = 0 ∧
    (0 : BitVec 8).toNat ≤ (s2 0 0).allowRead (t0 0 0 0 0) 0 ∧ (t0 0x2000 0 0 0).s 1 = 0x2000 :=
  ⟨rfl, fun ds => ready0 0 0 0 0 5 ds, by decide +kernel, by decide +kernel, by decide +kernel, by decide +kernel, by decide +kernel, by decide +kernel, by decide +kernel, by decide +kernel,
    Nat.zero_le _, by decide +kernel⟩

theorem witness_BadTargetsPark : canonical ((t0 0 0 0 0).target (off15 (.long 0x80000000))) = false ∧
    ((t0 2 0 0 0).s 1).toNat % 4 ≠ 0 ∧ ((t0 (2 ^ 52) 0 0 0).s 1).toNat % 4 = 0 ∧ canonical ((t0 (2 ^ 52) 0 0 0).s 1) = false ∧
    ∀ ds, Ready (s2 (2 ^ 52) 0) (t0 (2 ^ 52) 0 0 0) 5 ds := ⟨by decide +kernel, by decide +kernel, by decide +kernel, by decide +kernel, fun ds => ready0 _ _ _ _ 5 ds⟩

theorem witness_ControlInstructions : (∀ e ds, Ready (s2 0x10000 128) (t0 0x10000 128 0 0) e ds) ∧ (t0 0 0 0 0).atLast = true ∧
    (t0 0 0 0 0).pdis = false ∧ ({ t0 0 0 0 0 with pdis := true } : Team).pdis = true ∧ scopeOk 5 = true ∧
    (s2 0x10000 128).openStores 0 = [] ∧ ((t0 0x10000 128 0 0).s 1).toNat + ((t0 0x10000 128 0 0).s 2).toNat ≤ 2 ^ 52 :=
  ⟨fun e ds => ready0 _ _ _ _ e ds, by decide +kernel⟩

theorem witness_ScalarThreeRegister : Ready (s2 5 7) (t0 5 7 0 0) 0 [.s 1, .s 2, .s 3] := ready0 _ _ _ _ _ _
theorem witness_ScalarDivision : Ready (s2 5 0) (t0 5 0 0 0) 0 [.s 1, .s 2, .s 3] ∧ (t0 5 0 0 0).s 2 = 0 ∧ (t0 5 7 0 0).s 2 ≠ 0 :=
  ⟨ready0 _ _ _ _ _ _, by decide +kernel⟩
theorem witness_ScalarImmediate : Ready (s2 5 0) (t0 5 0 0 0) 0 [.s 1, .s 3] := ready0 _ _ _ _ _ _
theorem witness_SpecialRegisterMoves : Ready (s2 5 0) (t0 5 0 0 0) 0 [.s 1] ∧ srnOk 0x08 = true ∧ srnOk 0x0E = false ∧
    fld ((t0 5 0 0 0).s 1) 18 16 ≤ 5 ∧ 6 ≤ fld ((t0 0x60000 0 0 0).s 1) 18 16 ∧ 64 * 0 < (t0 5 0 0 0).width :=
  ⟨ready0 _ _ _ _ _ _, by decide +kernel⟩
theorem witness_MaskInstructions : (t0 0 0 0 0).width ≤ 1024 ∧ ∀ ds, Ready (s2 0 0) (t0 0 0 0 0) 1 ds :=
  ⟨by decide +kernel, fun ds => ready0 _ _ _ _ _ ds⟩
theorem witness_PredicatePackingAndCompare : (8 : PReg).toNat + (7 : BitVec 3).toNat + 1 ≤ 16 ∧ (t0 0 0 0 0).has [31] ∧
    (∀ ds, Ready (s2 0 0) (t0 0 0 0 0) 1 ds) ∧ (s2 0 0).rel.shadow = [] ∧ (t0 0 0 0 0).noTrap ∧ ccOk .un .f32 = true :=
  ⟨by decide +kernel, has0 _ _ _ _ _ (by decide +kernel), fun ds => ready0 _ _ _ _ _ ds, by decide +kernel, noTrap0 0 0 0 0, by decide +kernel⟩
theorem witness_VectorIntegerLanes : (t0 0 0 0 0).has [3, 1, 2, 31] ∧ (∀ r, ((t0 0 0 0 0).v r).fits (t0 0 0 0 0).width) ∧
    ∀ ds, Ready (s2 0 0) (t0 0 0 0 0) 1 ds :=
  ⟨has0 _ _ _ _ _ (by decide +kernel), fits0 0 0 0 0, fun ds => ready0 _ _ _ _ _ ds⟩
theorem witness_VectorScalarLanes : (t0 0 0 0 0).has [3, 1, 31] ∧ (∀ r, ((t0 0 0 0 0).v r).fits (t0 0 0 0 0).width) ∧
    (t0 0 0 0 0).width ≤ 1024 ∧ ∀ ds, Ready (s2 0 0) (t0 0 0 0 0) 1 ds :=
  ⟨has0 _ _ _ _ _ (by decide +kernel), fits0 0 0 0 0, by decide +kernel, fun ds => ready0 _ _ _ _ _ ds⟩
theorem witness_MaskedWriteLanes : (t0 0 0 0 0).has [3] ∧ 31 < (t0 0 0 0 0).width ∧ (t0 0 0 0 0).width ≤ 1024 ∧
    (VVal.a 1 2).fits (t0 0 0 0 0).width ∧ ((t0 0 0 0 0).v 3).fits (t0 0 0 0 0).width ∧
    (t0 0 0 0 0).regs.exec &&& (t0 0 0 0 0).regs.dead = 0 ∧ (t0 0 0 0 0).regs.dead.getLsbD 31 = false :=
  ⟨has0 _ _ _ _ _ (by decide +kernel), by decide +kernel, by decide +kernel, trivial, fits0 0 0 0 0 3, by decide +kernel⟩
theorem witness_FloatVectorLanes : (t0 0 0 0 0).has [3, 1, 2, 31] ∧ (t0 0 0 0 0).noTrap ∧ (s2 0 0).rel.shadow = [] ∧
    ∀ ds, Ready (s2 0 0) (t0 0 0 0 0) 1 ds :=
  ⟨has0 _ _ _ _ _ (by decide +kernel), rfl, rfl, fun ds => ready0 _ _ _ _ _ ds⟩
theorem witness_FloatScalarLanes : (t0 0 0 0 0).has [3, 1, 31] ∧ (t0 0 0 0 0).noTrap ∧ (s2 0 0).rel.shadow = [] ∧
    ∀ ds, Ready (s2 0 0) (t0 0 0 0 0) 1 ds :=
  ⟨has0 _ _ _ _ _ (by decide +kernel), rfl, rfl, fun ds => ready0 _ _ _ _ _ ds⟩

/-- The team with the trap of NV enabled: 0 divided by 0 raises it. -/
def tnv : Team := { t0 0 0 0 0 with regs := { r0 0 0 0 0 with fpctl := 0x100 } }

theorem witness_FloatTrapParks : tnv.has [3, 1, 2] ∧ (st tnv g0).rel.shadow = [] ∧ Ready (st tnv g0) tnv 1 [.v 1, .v 2, .v 3] ∧
    0 < tnv.width ∧ (tnv.active none).getLsbD 0 = true ∧
    (fLane 32 (on2 (fDiv fF32 (tnv.modeN none))) [(tnv.v 1).lane 0, (tnv.v 2).lane 0]).2.any
      (fun x => x &&& bits tnv.regs.fpctl.toNat 12 8 ≠ 0) = true :=
  ⟨by unfold Team.has; decide +kernel, rfl, ready_st _ _ _ _ rfl (by decide +kernel) rfl rfl, by decide +kernel⟩

theorem witness_ConversionsAndShapes : (t0 0 0 0 0).has [3, 1] ∧ vcvtOk 0 2 = true ∧ selOk 0 2 1 = true ∧ (cfmt 0).isSome = true ∧
    (cfmt 2).isSome = true ∧ (t0 0 0 0 0).noTrap ∧ (s2 0 0).rel.shadow = [] ∧ (∀ ds, Ready (s2 0 0) (t0 0 0 0 0) 1 ds) ∧
    qcvtOk 0 15 = true ∧ (t0 0 0 0 0).active none ≠ 0 ∧
    ({ t0 0 0 0 0 with regs := { r0 0 0 0 0 with exec := 0 } } : Team).active none = 0 ∧
    qCtlBad ((t0 2 0 0 0).s 1) 15 = false ∧ qLen ((t0 2 0 0 0).s 1) = 32 ∧ (0 : VReg).toNat + 32 ≤ (t0 2 0 0 0).vcnt ∧
    (0 : VReg).toNat + 32 / 4 < (t0 2 0 0 0).vcnt ∧ ((t0 0 0 0 0).v 3).fits (t0 0 0 0 0).width := by
  refine ⟨has0 _ _ _ _ _ (by decide +kernel), by decide +kernel, by decide +kernel, by decide +kernel, by decide +kernel,
    noTrap0 0 0 0 0, rfl, fun ds => ready0 _ _ _ _ _ ds, by decide +kernel, by decide +kernel, by decide +kernel,
    by decide +kernel, by decide +kernel, by decide +kernel, by decide +kernel, fits0 0 0 0 0 3⟩

theorem witness_ShufflesVotesReductions : (t0 0 31 0 0).has [3, 1, 2] ∧ (∀ r, ((t0 0 31 0 0).v r).fits (t0 0 31 0 0).width) ∧
    (t0 0 31 0 0).regs.dead = 0 ∧ (∀ ds, Ready (s2 0 31) (t0 0 31 0 0) 1 ds) ∧ mskNoZ (some ⟨5, false, true⟩) = true ∧
    mskNoZ none = true :=
  ⟨has0 _ _ _ _ _ (by decide +kernel), fits0 0 31 0 0, rfl, fun ds => ready0 _ _ _ _ _ ds, by decide +kernel⟩

theorem witness_ScansAndFloatReductions : (t0 0 0 0 0).has [3, 1] ∧ (∀ ds, Ready (s2 0 0) (t0 0 0 0 0) 1 ds) ∧
    (t0 0 0 0 0).noTrap ∧ (s2 0 0).rel.shadow = [] ∧ (2 : Nat) < 3 ∧ mskNoZ none = true :=
  ⟨has0 _ _ _ _ _ (by decide +kernel), fun ds => ready0 _ _ _ _ _ ds, noTrap0 0 0 0 0, by decide +kernel⟩

/-- A load of a word: what its access needs. -/
def oLd : AccOpt := { k := .load, size := 4 }

theorem witness_AddressesAndTranslation : oLd.badSize = false ∧ 0 < oLd.size ∧ (2 : Dw).toNat % oLd.size ≠ 0 ∧
    (65532 : Dw).toNat % oLd.size = 0 ∧ (65532 : Dw).toNat + oLd.size ≤ ((s2 0 0).groupOf (t0 0 0 0 0)).cSize ∧
    ¬ (65536 : Dw).toNat + oLd.size ≤ ((s2 0 0).groupOf (t0 0 0 0 0)).cSize ∧
    ({ Ctx.init 0 with hr := (Vector.replicate 8 0).set 0 0x8000000100000000 } : Ctx).inH 65532 = true ∧
    (1 : SReg) ≠ 60 ∧ (1 : SReg) ≠ 62 ∧ (t0 0 0 0 0).ovLen = 0 ∧
    (65532 : Dw).toNat % 2 ^ 32 + oLd.size ≤ ((s2 0 0).groupOf (t0 0 0 0 0)).sSize ∧
    ((s2 0 0).resolveAll (t0 0 0 0 0) .C 1 oLd [(0, 65532)]).2.isRight = true := by decide +kernel

/-- Addresses in space C at s(1), lane offsets all 0. -/
def aC : VAddr := { sp := .C, base := 1, x := 2, disp := none }

theorem witness_VectorLoads : (s2 0 0).Inv ∧ (5 : BitVec 3).toNat ≤ 6 ∧ evenV 4 = true ∧ (t0 0 0 0 0).has [5] ∧ scopeOk 3 = true ∧
    (t0 0 0 0 0).has [4, aC.x] ∧ (∀ ds, Ready (s2 0 0) (t0 0 0 0 0) 2 ds) ∧
    ({ t0 0 0 0 0 with regs := { r0 0 0 0 0 with exec := 0 } } : Team).lanesOf 0 = [] ∧
    (t0 0 0 0 0).lanesOf ((t0 0 0 0 0).active none) ≠ [] ∧ (t0 0 0 0 0).countFull true = false ∧
    (∀ us, reqLines us = [] → ∀ ls : List Nat, ls.Sublist (reqLines us) →
      ((s2 0 0).askSlots ((s2 0 0).groupOf (t0 0 0 0 0)).core ls).isSome = true) ∧
    (∀ z : BitVec 3, z = 4 ∨ z = 5 → gives ((s2 0 0).resolveAll (t0 0 0 0 0) aC.sp aC.base (ldOpt z (some 3))
        (((t0 0 0 0 0).ldWho z aC none).map (fun l => (l, (t0 0 0 0 0).vAddr aC l))))
        (fun us => reqLines us == []) = true) := by
  refine ⟨rfl, by decide, rfl, has0 _ _ _ _ _ (by decide +kernel), rfl, has0 _ _ _ _ _ (by decide +kernel),
    fun ds => ready0 _ _ _ _ _ ds, by decide +kernel, by decide +kernel, rfl, ?_, ?_⟩
  · intro us h ls hl
    rw [h, List.sublist_nil] at hl
    subst hl
    decide +kernel
  · rintro z (rfl | rfl) <;> decide +kernel

/-- A scalar address in space C at s(1). -/
def aS : SAddr := { sp := .C, base := 1, x := .off 1, disp := none }

theorem witness_ScalarLoads : (s2 8 0).Inv ∧ (6 : BitVec 3).toNat ≤ 6 ∧ scopeOk 3 = true ∧ (∀ ds, Ready (s2 8 0) (t0 8 0 0 0) 2 ds) ∧
    (t0 8 0 0 0).countFull true = false ∧
    (∀ sc ∈ [none, some 3], gives ((s2 8 0).resolveAll (t0 8 0 0 0) aS.sp aS.base (ldsOpt 6 sc)
        [(0, (t0 8 0 0 0).sAddr aS (ldSizeS 6))]) (fun us => reqLines us == []) = true) ∧ ((s2 8 0).askSlots 0 []).isSome = true := by
  exact ⟨rfl, by decide, rfl, fun ds => ready0 _ _ _ _ _ ds, by decide +kernel⟩

theorem witness_VectorStores : (s2 0 0).Inv ∧ (3 : BitVec 3).toNat ≤ 4 ∧ mskNoZ none = true ∧ evenV 4 = true ∧
    (t0 0 0 0 0).has [5] ∧ scopeOk 3 = true ∧ (t0 0 0 0 0).has [4, aC.x] ∧ (∀ ds, Ready (s2 0 0) (t0 0 0 0 0) 2 ds) ∧
    (t0 0 0 0 0).lanesOf ((t0 0 0 0 0).active none) ≠ [] ∧ (t0 0 0 0 0).countFull false = false ∧ (s2 0 0).settled 0 = true ∧
    (∀ sc ∈ [none, some 3], gives ((s2 0 0).resolveAll (t0 0 0 0 0) aC.sp aC.base (stOpt 3 sc)
        (((t0 0 0 0 0).stWho 3 none).map (fun l => (l, (t0 0 0 0 0).vAddr aC l)))) (fun us =>
          ((s2 0 0).askSlots 0 (reqLines us)).isSome && us.length == 32 &&
            us.all (fun u => u.ps.length == 1 && u.ps.all (fun p => p.ap == 0))) = true) := by
  refine ⟨rfl, by decide, rfl, rfl, has0 _ _ _ _ _ (by decide +kernel), rfl, has0 _ _ _ _ _ (by decide +kernel),
    fun ds => ready0 _ _ _ _ _ ds, by decide +kernel⟩

theorem witness_ScalarStores : (s2 8 0).Inv ∧ (3 : BitVec 3).toNat ≤ 3 ∧ scopeOk 3 = true ∧ (∀ ds, Ready (s2 8 0) (t0 8 0 0 0) 2 ds) ∧
    (t0 8 0 0 0).countFull false = false ∧ (s2 8 0).settled 0 = true ∧
    gives ((s2 8 0).resolveAll (t0 8 0 0 0) aS.sp aS.base (stsOpt 3 (some 3)) [(0, (t0 8 0 0 0).sAddr aS (stSize 3))])
      (fun us => us.map (·.ps) == [[localPiece (homeC 0 16) 8]] && ((s2 8 0).askSlots 0 (reqLines us)).isSome) = true :=
  ⟨rfl, by decide, rfl, fun ds => ready0 _ _ _ _ _ ds, by decide +kernel⟩

theorem witness_Prefetches : mskNoZ none = true ∧ (t0 0 0 0 0).has [aC.x] ∧ (∀ ds, Ready (s2 0 0) (t0 0 0 0 0) 2 ds) ∧ aC.sp ≠ .G :=
  ⟨rfl, has0 _ _ _ _ _ (by decide +kernel), fun ds => ready0 _ _ _ _ _ ds, by decide⟩

/-- ATOM.ADD of I64 in scalar form at [s1] in space C, with and without result. -/
def xA (ret : Bool) : Atom :=
  { o := .sca (if ret then 3 else 0) { sp := .C, base := 1, x := .off 0, disp := none } 2, ty := 2, ann := 0, scope := 3, ret := ret, m := none }
/-- ATOM.ADD of F32 in vector form, without result. -/
def xF : Atom := { o := .vec 0 aC 4, ty := 4, ann := 0, scope := 3, ret := false, m := none }

/-- The machine with context 0 in determinism mode. -/
def sDet : State := { s2 8 5 with ctxs := [{ Ctx.init 0 with ctl := 0x0100000000000000, det := 0x0010000000000000 }] }

theorem witness_Atomics : (s2 8 5).Inv ∧ (atomInfo 0 (xA true)).bad = none ∧ (atomInfo 0 xF).bad = none ∧
    (t0 8 5 0 0).has ((atomInfo 0 xF).vr ++ (atomInfo 0 xF).vw) ∧ (∀ ds, Ready (s2 8 5) (t0 8 5 0 0) 2 ds) ∧
    (t0 8 5 0 0).atomWho (xA true) ≠ [] ∧ (xA true).ann.toNat < 2 ∧ (s2 8 5).settled 0 = true ∧
    (t0 8 5 0 0).countFull true = false ∧ (s2 8 5).svc = [] ∧
    gives ((s2 8 5).resolveAll (t0 8 5 0 0) .C 1 (atomOpt 0 (xA true)) ((t0 8 5 0 0).atomWho (xA true)))
      (fun us => ((s2 8 5).askSlots 0 (reqLines us)).isSome) = true ∧ (s2 8 5).poisoned (homeC 0 8) 8 = false ∧ ((s2 8 5).ctx 0).detm = false ∧
    (sDet.ctx 0).detm = true ∧
    (atomFmt xF.ty).isSome = true ∧
    gives (sDet.resolveAll (t0 8 5 0 0) (atomSp xF) (atomBase xF) (atomOpt 0 xF) ((t0 8 5 0 0).atomWho xF))
      (fun us => us.length == 32 && decide (us.length ≤ sDet.detRoom 0)) = true :=
  ⟨rfl, by decide +kernel, by decide +kernel, has0 _ _ _ _ _ (by decide +kernel), fun ds => ready0 _ _ _ _ _ ds, by decide +kernel⟩

theorem witness_Barriers : (∀ ds, Ready (s2 0 0) (t0 0 0 0 0) 5 ds) ∧
    ({ g0 with barSub := List.replicate 16 (1 : BitVec 8) } : Group).member 15 0 = true ∧
    ({ g0 with barSub := List.replicate 16 (2 : BitVec 8) } : Group).member 15 0 = false ∧ (s2 0 0).settled 0 = true ∧
    ({ s2 0 0 with acc := [{ id := 0, ctx := 0, team := 0, load := false, loc := true, reqs := [], rem := [], svc := 0, buf := [], bad := [], acq := false, fin := .none, dests := [], va := 0 }] } : State).settled 0 = false :=
  ⟨fun ds => ready0 _ _ _ _ _ ds, by decide +kernel⟩

/-- Memory with doublewords at physical addresses. -/
def poke (xs : List (Nat × Dw)) : List Host.Cell :=
  xs.foldl (fun m p => Mem.writeN m (homeG p.1) (leBytes 8 p.2.toNat)) []

/-- The machine with context 0 enabled at MODULE and H offsets 0 to FFFF, its page table one leaf that maps every address to
itself, partition 0 enabled with package 0 and cluster 0, and doublewords in memory. -/
def sv (t : Team) (xs : List (Nat × Dw)) : State :=
  { st t g0 with
    mem := poke ((0, 0xF000007000000000) :: xs)
    ctxs := [{ Ctx.init 0 with ctl := 0xA000000000100000, hr := (Vector.replicate 8 0).set 0 0x8000000100000000 }]
    parts := (List.replicate 8 Part.init).set 0 { Part.init with ctl := 0x8000000000000001, mem := 0x1000000, h := 0x10000000000 } }

theorem readyV (a b c d : Dw) (xs : List (Nat × Dw)) (e : Nat) (ds : List Dest) : Ready (sv (t0 a b c d) xs) (t0 a b c d) e ds := by
  refine ⟨?_, by simp [Team.inClass, t0, bits], rfl, rfl, fun a h => nomatch h⟩
  simp [State.curTeam, State.team, sv, st, t0]

theorem witness_FencesAndWaits : (∀ ds, Ready (s2 0 0) (t0 0 0 0 0) 5 ds) ∧ scopeOk 3 = true ∧
    (t0 0 0 0 0).cnt.meets 0 15 15 15 = true ∧ ({ ld := 0, st := 1, cp := 0, ti := 0 } : Cnts).meets 0 0 15 15 = false ∧
    ((t0 0 0 0 0).s 1).toNat ≤ ((t0 0 0 0 0).tl.get 0).count ∧ ((t0 0 0 0 0).s 1).toNat ≤ ((t0 0 0 0 0).tl.get 0).issued ∧
    ({ issued := 1, opn := [1] } : Timeline).count < 1 ∧ (0 : BitVec 4).toNat < ((s2 0 0).groupOf (t0 0 0 0 0)).stageMap.length ∧
    ((t0 0 0 0 0).s 1).toNat ≤ (s2 0 0).tlCount 0 0 ∧ spaceBad 1 = none ∧
    gives ((s2 8 0).resolve (t0 8 0 0 0) (spaceOf 1) 1 { k := .load, size := 8, align := true } 0 8)
      (fun ps => ps.map (·.word) == [homeC 0 8]) = true :=
  ⟨fun ds => ready0 _ _ _ _ _ ds, by decide +kernel⟩

theorem witness_ReadSectionsAndRounds : (∀ ds, Ready (s2 0 0) (t0 0 0 0 0) 5 ds) ∧ (t0 0 0 0 0).rdDepth = 0 ∧
    ({ t0 0 0 0 0 with rdDepth := 255 } : Team).rdDepth = 255 ∧ (s2 0 0).readsOpen 0 = false ∧ (s2 0 0).settled 0 = true ∧
    canonical ((t0 0x1000 64 0 0).s 1) = true ∧ (s2 0 0).dflCount 0 < 65536 :=
  ⟨fun ds => ready0 _ _ _ _ _ ds, by decide +kernel⟩

/-- A descriptor of an AllReduce of 8 words by this module alone: members at 1000, source 2000, destination 3000. -/
def collDesc : List (Nat × Dw) := [(0x800, 0x1000000000000000), (0x808, 0x2000), (0x810, 0x3000), (0x818, 8), (0x820, 0x1000), (0x1000, 1)]

theorem witness_CopiesAndCollectives : (t0 0 0 0 0).cnt.cp ≠ 0xFFFF ∧ (∀ ds, Ready (st (t0 0 64 16 0) g0) (t0 0 64 16 0) 4 ds) ∧
    sgroupOk 1 3 = true ∧ sgroupOk 1 4 = true ∧ spaceBad 1 = none ∧
    ((t0 0 64 16 0).s (1 + 2)).toNat ≤ 2 ^ 36 ∧
    (s2 0 64).runsFault g0 [(none, 1, 64, 16), (none, 1, 0, 16)] = none ∧
    fld ((t0 0 64 0x200000008 0).s (1 + 2)) 31 0 ≠ 0 ∧ (t0 0 0 4 0).has [0] ∧ ((t0 0 0 4 0).s (1 + 2)).toNat ∈ [4, 8, 16, 32, 64, 128] ∧
    (∀ l ∈ (t0 0 0 4 0).lanesOf (t0 0 0 4 0).regs.exec, ((t0 0 0 4 0).s (1 + 1) + (((t0 0 0 4 0).v 0).lane l).setWidth 64).toNat % 4 = 0 ∧
      ((t0 0 0 4 0).s 1 + BitVec.ofNat 64 (l * 4)).toNat % 4 = 0) ∧
    tfetchRows 0x2000 0x200000008 0x800000008 = .inr [(0x2000, 8), (0x2008, 8)] ∧
    (sv (t0 0 0x2000 0x200000008 0x800000008) []).runsFault g0 [(none, 4, 0x2000, 8), (none, 1, 0, 8), (none, 4, 0x2008, 8), (none, 1, 8, 8)] = none ∧
    gives ((sv (t0 0x800 0 0 0) collDesc).vaRead 0 0 0x800 64) (fun bs => leDws 8 bs == [0x1000000000000000, 0x2000, 0x3000, 8, 0x1000, 0, 0, 0]) = true ∧
    collBad 0 (membersOf [1, 0, 0, 0, 0, 0, 0, 0]) [0x1000000000000000, 0x2000, 0x3000, 8, 0x1000, 0, 0, 0] = false := by
  refine ⟨by decide +kernel, fun ds => ready0 _ _ _ _ _ ds, by decide +kernel, by decide +kernel, by decide +kernel, by decide +kernel, by decide +kernel, by decide +kernel,
   has0 _ _ _ _ _ (by decide +kernel), by decide +kernel⟩

/-- The group with its queue 0 holding two full slots, the first 7 in its words 0 and 16. -/
def gq : Group := { g0 with queues := [{ depth := 8, slots := [.full 7 0, .full 9 0] }], tiles := List.replicate 2 { valid := true, bad := false, ovx := false } }

theorem witness_StreamQueues : (t0 0 1 0 0).cnt.cp ≠ 0xFFFF ∧ (∀ a b c d e ds, Ready (s2 a b) (t0 a b 0 0) e ds ∧ Ready (sv (t0 a b c d) []) (t0 a b c d) e ds) ∧
    sgroupOk 1 2 = true ∧ sgroupOk 1 4 = true ∧ sgroupOk 1 16 = true ∧ spaceBad 1 = none ∧ 0 < ((t0 0 1 0 0).s (1 + 1)).toNat ∧
    ((t0 0 1 0 0).s (1 + 1)).toNat ≤ 64 ∧ ((t0 0 1 0 0).s 1).toNat % 128 = 0 ∧
    ((t0 0 1 0 0).s (1 + 1)).toNat ≤ (((s2 0 1).groupOf (t0 0 1 0 0)).queue 0).empty ∧
    (s2 0 1).runFault g0 1 0 128 = none ∧ (t0 0 1 0 0).has [31] ∧ (t0 0 1 0 0).words ≠ [] ∧ (t0 0 1 0 0).words.length ≤ (g0.queue 0).empty ∧
    tfetchRows 0x2000 0x200000008 0x800000008 = .inr [(0x2000, 8), (0x2008, 8)] ∧
    (sv (t0 0 0x2000 0x200000008 0x800000008) []).runsFault g0 [(none, 4, 0x2000, 8), (none, 4, 0x2008, 8)] = none ∧
    ((st (t0 0 0 0 0) gq).groupOf (t0 0 0 0 0)).queue 0 = { depth := 8, slots := [.full 7 0, .full 9 0] } ∧
    (t0 0 0 0 0).allDead = false ∧ (0 : BitVec 4).toNat < g0.stageMap.length := by
  refine ⟨by decide +kernel, fun a b c d e ds => ⟨ready0 _ _ _ _ _ ds, readyV _ _ _ _ _ _ ds⟩, rfl, rfl, rfl, rfl, by decide +kernel, by decide +kernel,
    by decide +kernel, by decide +kernel, by decide +kernel, has0 _ _ _ _ _ (by decide +kernel), by decide +kernel⟩

/-- Operands of an MMA of E4M3 by E4M3 from space C: A at 0, B at 8000, row strides 128. -/
def oprs : List Dw := [0, 0, 0, 0x8000, 0x8000000080]

theorem witness_MatrixInstructions : (t0 0 0 0 0).cnt.ti ≠ 0xFFFF ∧ ((st (t0 0 128 0 0) gq).groupOf (t0 0 128 0 0)).core < 192 ∧
    (1 : TReg).toNat < gq.tiles.length ∧ (∀ e ds, Ready (st (t0 0 128 0 0) gq) (t0 0 128 0 0) e ds) ∧ sgroupOk 1 5 = true ∧ sgroupOk 1 2 = true ∧
    (st (t0 0 0 0 0) gq).accFault (t0 0 0 0 0) 1 false = none ∧ (st (t0 0 0 0 0) gq).tileFault (t0 0 0 0 0) 1 = none ∧
    ((s2 0 0).tileFault (t0 0 0 0 0) 1).isSome = true ∧
    (st (t0 0 0 0 0) gq).tops.any (fun o => o.names 0 1) = false ∧
    fmtBad (mOps oprs false false).1 (mOps oprs false false).2 false = none ∧
    (mOps oprs false false).1.skew 128 (mK 0 0) = none ∧ (mOps oprs false false).2.skew 128 (mK 0 0) = none ∧
    rowsOf ((t0 0 0 0 0).rowMask 128) ≠ [] ∧
    (st (t0 0 0 0 0) gq).matBounds gq ((mOps oprs false false).1.runs (mK 0 0) (rowsOf ((t0 0 0 0 0).rowMask 128)) ++ (mOps oprs false false).2.runs (mK 0 0) (List.range 128)) = none ∧
    mmaLines 0 (mOps oprs false false).1 (mOps oprs false false).2 (mK 0 0) (rowsOf ((t0 0 0 0 0).rowMask 128)) 128 = [] ∧
    rowsOf (({ t0 0 0 0 0 with regs := { r0 0 0 0 0 with exec := 0 } } : Team).rowMask 128) = [] := by
  refine ⟨by decide +kernel, by decide +kernel, by decide +kernel, fun e ds => ready_st _ _ _ ds rfl (by simp [Team.inClass, t0, bits]) rfl rfl, by decide +kernel⟩

/-- Records of a task at 800 and, with an extension, at 840, and a posted launch at 900. -/
def spawnMem : List (Nat × Dw) := [(0x800, 0x400), (0x840, 0x0004000000000400), (0x900, 0x010D000000000000)]

/-- Launch queue 0 of context 0, running, with nothing to do. -/
def lq0 : LaunchQ :=
  { ctx := 0, q := 0, page := 0x4000, state := 1, code := 0, pva := 0, lerr := 0, lseq := 0, sigcnt := 0, frames := [],
    cur := none, reread := 0, firstRead := 0, posted := [], launched := [], sigs := [], acks := [] }

/-- A graph node of context 0 that waits for one edge. -/
def node1 : Task :=
  { id := 1, die := 0, bank := 0, idx := 0, gen := 1, dws := [0x4000000000000400, 0, 0, 0, 0, 0, 0, 0], ext := none, st := .waiting,
    waitCnt := 1, squashed := false, level := 0, promoted := false, qtime := 0 }

/-- The machine with its launch queue and its node. -/
def sq (a : Dw) (xs : List (Nat × Dw)) : State :=
  { sv (t0 a 0 0 0) xs with lqs := [lq0], tasks := [node1], ctxs := (sv (t0 a 0 0 0) xs).ctxs.map (fun c => { c with lq := c.lq.set 0 (1 <<< 63) }) }

theorem readyQ (a : Dw) (xs : List (Nat × Dw)) (ds : List Dest) : Ready (sq a xs) (t0 a 0 0 0) 5 ds := by
  refine ⟨?_, by simp [Team.inClass, t0, bits], rfl, rfl, fun a h => nomatch h⟩
  simp [State.curTeam, State.team, sq, sv, st, t0]

theorem witness_TaskSubmission : (sq 0x800 spawnMem).settled 0 = true ∧ (∀ a ds, Ready (sq a spawnMem) (t0 a 0 0 0) 5 ds) ∧ ((t0 0x800 0 0 0).s 1).toNat % 64 = 0 ∧
    ((sq 0x800 spawnMem).ctx 0).en = true ∧ ((sq 0x800 spawnMem).ctx 0).rst = 0 ∧ ((sq 0x800 spawnMem).deckPlace 0 0).isSome = true ∧
    gives ((sq 0x800 spawnMem).vaRead 0 0 0x800 64) (fun bs => !taskBad 0 (leDws 8 bs) && !taskXd (leDws 8 bs)) = true ∧
    gives ((sq 0x840 spawnMem).vaRead 0 0 0x840 64) (fun bs => !taskBad 0 (leDws 8 bs) && taskXd (leDws 8 bs) && taskEntry (leDws 8 bs) == 0x1000) = true ∧
    gives (((sq 0x840 spawnMem).vaRead 0 0 0x840 64).1.vaRead 0 0 0xFC0 64) (fun es => !extBad 1 (leDws 8 es)) = true ∧
    (sq 2 spawnMem).nodeOf 0 2 = none ∧ (sq 1 spawnMem).nodeOf 0 1 = some node1 ∧
    flag (((s2 0x900 0).ctx 0).lq.toList.getD 0 0) 63 = false ∧ flag (((sq 0x900 spawnMem).ctx 0).lq.toList.getD 0 0) 63 = true ∧
    gives ((sq 0x900 spawnMem).vaRead 0 0 0x900 8) (fun hs => postHeaderOk (BitVec.ofNat 64 (leNat hs))) = true ∧
    gives (((sq 0x900 spawnMem).vaRead 0 0 0x900 8).1.vaRead 0 0 0x900 104) (fun bs => postHeaderOk ((leDws 13 bs).getD 0 0) &&
      (sq 0x900 spawnMem).launchError 0 (leDws 13 bs) == none) = true ∧ (sq 0x900 spawnMem).lq 0 0 = some lq0 ∧ lq0.posted.length < 64 := by
  refine ⟨rfl, fun a ds => readyQ a _ ds, by decide +kernel⟩

/-- The machine with futures at H offsets 8 (FULL) and 16 (EMPTY), and its group started for a launch or a task. -/
def sf (a : Dw) (o : Origin) (e : Bool) : State :=
  { sv (t0 a 0 0 0) [] with futFull := [1], groups := [{ g0 with origin := o, effect := e }] }

theorem readyF (a : Dw) (o : Origin) (e : Bool) (ds : List Dest) : Ready (sf a o e) (t0 a 0 0 0) 5 ds := by
  refine ⟨?_, by simp [Team.inClass, t0, bits], rfl, rfl, fun a h => nomatch h⟩
  simp [State.curTeam, State.team, sf, sv, st, t0]

theorem witness_Futures : (sf 8 (.task 1) false).Inv ∧ (sf 8 (.task 1) false).futFault (t0 8 0 0 0) 8 = none ∧ (sf 16 (.task 1) false).futFault (t0 16 0 0 0) 16 = none ∧
    (∀ a o e, (sf a o e).poisoned (homeH a.toNat) 8 = false) ∧
    (∀ a o e ds, Ready (sf a o e) (t0 a 0 0 0) 5 ds) ∧ (sf 8 (.task 1) false).isFull 8 = true ∧ (sf 8 (.task 1) false).isFull 16 = false ∧
    (sf 8 (.task 1) false).settled 0 = true ∧ ((sf 8 (.task 1) true).groupOf (t0 8 0 0 0)).effect = true ∧
    ((sf 8 (.launch 0) false).groupOf (t0 8 0 0 0)).origin = .launch 0 := by
  refine ⟨show Mem.wf _ = true by decide +kernel, by decide +kernel, by decide +kernel, fun _ _ _ => rfl, fun a o e ds => readyF a o e ds, by decide +kernel⟩

theorem witness_RegisterPool : ((s2 0 0).group 0).isSome = true ∧ (1 : BitVec 4) ≠ 0 ∧ (∀ ds, Ready (s2 0 0) (t0 0 0 0 0) 5 ds) ∧
    8 * (3 : BitVec 4).toNat + 8 ≤ (t0 0 0 0 0).vcnt ∧ ¬ 8 * (4 : BitVec 4).toNat + 8 ≤ (t0 0 0 0 0).vcnt ∧
    8 * (2 : BitVec 4).toNat ≤ ((s2 0 0).groupOf (t0 0 0 0 0)).pool ∧ ¬ 8 * (3 : BitVec 4).toNat ≤ ((s2 0 0).groupOf (t0 0 0 0 0)).pool :=
  ⟨rfl, by decide, fun ds => ready0 _ _ _ _ _ ds, by decide +kernel⟩

theorem witness_PrivilegedInstructions : ((s2 0 0).ctx 0).priv ≠ 0 ∧ (∀ a b c d xs ds, Ready (sv (t0 a b c d) xs) (t0 a b c d) 5 ds) ∧
    (s2 0 0).csrCheck (t0 0 0 0 0) 0x20000008 none = .inr (.ctx 0 8) ∧ (s2 0 0).csrCheck (t0 0 0 0 0) 0x20000008 (some 0x1000) = .inr (.ctx 0 8) ∧
    gives ((s2 0 0), (s2 0 0).csrCheck (t0 0 0 0 0) 0x50000000 none) (fun _ => true) = false ∧
    (match (s2 0 0).csrSet false (.ctx 0 8) 0x10000 with
     | .ok s1 => (s1.ctx 0).pt == 0x10000
     | .error _ => false) = true ∧
    (match (s2 0 0).csrSet false (.modl 0x10) 501 with
     | .ok _ => false
     | .error _ => true) = true ∧
    (8 : Dw).toNat % 8 = 0 ∧ (4 : Dw).toNat % 8 ≠ 0 ∧ (s2 0 0).settled 0 = true ∧ fld (5 : Dw) 51 32 = 0 ∧ ((s2 0 0).ctx 0).priv = 2 ∧
    (0x10000 : Dw).toNat / 65536 * 65536 + fld (5 : Dw) 31 0 * 65536 ≤ 2 ^ 52 ∧ (0xA00 : Dw).toNat % 32 = 0 ∧ fld (1 : Dw) 63 28 = 0 ∧
    fld (1 : Dw) 15 8 = 0 ∧ (s2 0 0).sealedCtx 0 = false ∧ FaultClass.all.any (fun k => k.code == fld (1 : Dw) 7 0) = true ∧
    gives ((sv (t0 1 0xA00 0 0) []).vaRead 0 0 0xA00 32) (fun bs => !descBad (leDws 4 bs)) = true := by
  refine ⟨by decide +kernel, fun a b c d xs ds => readyV _ _ _ _ _ _ ds, by decide +kernel⟩

theorem witness_PrivilegeFaults : (s2 0 0).curTeam = some (t0 0 0 0 0) ∧ (t0 0 0 0 0).inClass 5 = true ∧
    (({ s2 0 0 with ctxs := [{ Ctx.init 0 with ctl := 0x8000000000100000 }] } : State).ctx 0).priv = 0 ∧ (t0 0 0 0 0).handler = false ∧
    sgroupOk 58 2 = true := by
  decide +kernel

/-- A team of a handler group. -/
def th : Team := { t0 1 0 0 0 with handler := true }
/-- A Bar record of a context in some state, at index 0 of die 0 with generation 1. -/
def rec0 (c : Nat) (x : RecSt) : Rec :=
  { (s2 0 0).newRec .team (mkF .alignment .none 4 8) c 0 0 0 0 with gen := 1, st := x }
/-- The machine with a handler team and a record. -/
def sh (c : Nat) (x : RecSt) : State :=
  { st th g0 with recs := [rec0 c x], ctxs := State.reset.ctxs ++ [{ Ctx.init 5 with ctl := 0x1000000000 }] }

theorem witness_HandlerInstructions : th.handler = true ∧ (sh 0 .parked).settled 0 = true ∧ (th.s 1).toNat / 2 ^ 55 = (sh 0 .parked).modl.modNo ∧
    (∀ c ∈ [0, 5], ∀ x ∈ [RecSt.parked, .served, .report], (sh c x).recOf (th.s 1) = some (rec0 c x) ∧ (sh c x).sealedCtx c = false ∧
      (sh c x).owns th (rec0 c x) = (c == 0)) ∧ (s2 0 0).recOf (th.s 1) = none ∧ sgroupOk 3 2 = true ∧
    (∀ c x ds, Ready (sh c x) th 5 ds) ∧ (sh 0 .report).recs = [rec0 0 .report] ∧ th.st = .running := by
  refine ⟨rfl, rfl, by decide +kernel, by decide +kernel, rfl, rfl, fun c x ds => ⟨?_, by decide +kernel, rfl, rfl, fun a h => nomatch h⟩, rfl, rfl⟩
  simp [State.curTeam, State.team, sh, st, th, t0]

/-- The team between clauses, at PC 10000. -/
def tb : Team := { t0 0 0 0 0 with clause := none, woff := 0 }
/-- A clause of one NOP at 10000, and a word that is no header at 10080. -/
def clauseMem : List (Nat × Dw) := [(0x10000, 0x08000000A07FFF81)]

theorem witness_ClauseIssue : (s2 0 0).choice 0 = some (t0 0 0 0 0) ∧ (t0 0 0 0 0).clause.isSome = true ∧ (sv tb clauseMem).choice 0 = some tb ∧
    tb.clause = none ∧ tb.woff = 0 ∧ tb.due = [] ∧ tb.lost = none ∧ tb.pc.toNat % 4 = 0 ∧
    gives ((sv tb clauseMem).fetchWord 0 0 0x10000 none) (fun x => x.1 == 0xA07FFF81) = true ∧ headerFault 0xA07FFF81 false = none ∧
    gives ((sv tb []).fetchWord 0 0 0x10000 none) (fun x => (headerFault x.1 false).isSome) = true ∧
    gives ((sv tb clauseMem).fetchBody 0 0 45 0x10004 none 1) (fun ws => ws == [0x08000000]) = true ∧
    ({ ld := 1, st := 0, cp := 0, ti := 0 } : Cnts).meets 0 15 15 15 = false ∧ tb.cnt.meets 15 15 15 15 = true ∧
    (sv tb clauseMem).clauseNeed tb [0x08000000] ≤ (sv tb clauseMem).freeChunks 0 + (sv tb clauseMem).held tb := by
  decide +kernel

/-- The team waiting. -/
def twait (w : Wait) : Team := { tb with st := .wait w }
/-- A machine with a save area of 64 KiB slots at 20000. -/
def ss (t : Team) (xs : List (Nat × Dw)) : State :=
  { sv t xs with ctxs := (sv t xs).ctxs.map (fun c => { c with save := 0x0010000000020000 }), cur := none }
/-- A barrier of the group at which its one team has arrived. -/
def bar0 : Barrier := { key := .group 0 0, arrived := [0], start := none, phase := 0 }
/-- A round of team 0 whose turns have been taken. -/
def round0 : Round := { id := 9, ctx := 0, team := some 0, scope := 3, set := [] }
/-- A deferred-free entry. -/
def dent (q : Bool) (r : Option Nat) (f : Bool) : DEntry := { id := 4, ctx := 0, addr := 0x1000, size := 64, cls := 0, waits := [], queued := q, round := r, released := f }
/-- The image of the team: version 1, WIDTH 32, no vector register, PC 10000. -/
def imgMem : List (Nat × Dw) := [(0x20000, 0x10000), (0x20BE0, 0x10000)]
/-- A packet of module 1 to this one. -/
def pk (typ : BitVec 5) : Packet :=
  { typ := typ, lane := false, src := 1, dst := 0, enc := false, cm := false, so := false, psn := 0, aop := 0,
    aty := if typ = 3 then 2 else 0, aret := false, pa := if typ.toNat < 5 then 0x40000 else 0, join := 0, rid := 0, mask := 255, data := 7, crcOk := true }
/-- A group on a compact core with a reclaim queue 15. -/
def gr : Group := { g0 with slot := 1, core := 192, queues := List.replicate 16 { depth := 4, slots := [] } }
/-- A packet waits to be sent to module 1. -/
def batch0 : Batch := { id := 3, peer := 1, team := none, pkts := [pk 0] }

theorem witness_SchedulingEvents : (ss tb []).team 0 = some tb ∧ tb.preemptible = true ∧ (ss tb []).openLoads 0 = false ∧
    (ss tb []).saveVa 0 0 0 = some 0x20000 ∧ ((ss tb []).vaWrite 0 0 0x20000 (tb.image 0)).2 = none ∧
    (let t : Team := { tb with st := .swapped, regs := { r0 0 0 0 0 with v := [] } }
     t.need ≤ (ss t imgMem).freeChunks 0 ∧
       gives ((ss t imgMem).readImage t) (fun x => !x.2 && (t.restore x.1 0).isSome) = true) ∧
    (ss (twait .woken) []).team 0 = some (twait .woken) ∧ (twait (.waita 8)).st = .wait (.waita 8) ∧
    (twait (.waita 8)).spur.all (fun c => decide (c + 65536 ≤ 0)) = true ∧
    (ss (twait (.thr 0 15 15 15)) []).met (twait (.thr 0 15 15 15)) (.thr 0 15 15 15) = true ∧
    (let s : State := { ss (twait (.barrier (.group 0 0))) [] with bars := [bar0], groups := [{ g0 with barSub := List.replicate 16 1 }] }
     s.bars.find? (fun (x : Barrier) => x.key == bar0.key) = some bar0 ∧ s.barrierDone bar0 = true) ∧
    (let s : State := { ss (twait (.round 9)) [] with rounds := [round0] }
     s.rounds.find? (fun (x : Round) => x.id == 9) = some round0 ∧ round0.set = [] ∧ round0.team = some 0) ∧
    [dent true none false].any (fun (e : DEntry) => e.ctx == 0 && e.queued && e.round.isNone && !e.released) = true ∧
    [dent false none false].find? (fun (x : DEntry) => x.id == 4) = some (dent false none false) ∧ (dent false none false).waits = [] ∧
    (let s : State := { ss tb [] with groups := [g0, gr], dfl := [dent true none true], ctxs := [{ Ctx.init 0 with rq := 0x8000000000000001 }] }
     s.reclaimGroup 0 = some gr ∧ (gr.queue 15).empty ≠ 0 ∧ (s.dfl.filter (fun (e : DEntry) => e.ctx == 0 && e.released)).take 8 ≠ []) ∧
    (let s := ss { tb with st := .ended (.exited 0) } []
     s.group 0 = some g0 ∧ s.groupDone g0 = true) ∧
    (let s : State := { ss tb [] with batches := [batch0] }
     batch0.pkts.length ≤ max 1 (s.peer 1).cap ∧ s.batchHeld [] batch0 = false) := by
  and_intros <;> decide +kernel

/-- A load of team 0 that waits for a line: all arrived. -/
def acc0 : Access :=
  { id := 7, ctx := 0, team := 0, load := true, loc := false, reqs := [(0x2000, true)], rem := [], svc := 0, buf := [], bad := [], acq := false,
    fin := .sca 3 5, dests := [.s 5], va := 0x2000 }
/-- A copy of 8 bytes in space C from 0 to 64. -/
def seg0 : Seg := { no := 0, ssp := 1, src := 0, dsp := 1, dst := 64, len := 8, b := 0, acks := [], parked := none }
def asy0 : AsyncOp := { id := 5, team := 0, group := 0, cls := 0, num := 1, minor := 0, segs := [seg0], fills := [], queue := none, coll := [] }
/-- A fill of a queue's slot from space C. -/
def fill0 : Fill := { op := 5, idx := 0, sp := 1, addr := 0, len := 128, spec := false, late := false }
/-- ACCZ of tile 1, and an MMA that waits for pins. -/
def tile0 (p : Bool) : TileOp :=
  { id := 6, team := 0, group := 0, core := 0, tile := 1, src := 0, minor := 8, word := 0, sat := false, asrc := false, bsrc := false, pos := 0, oprs := [],
    rows := 0, num := 1, at_ := 0, parked := none, pins := [3, 4], pinWait := p, acks := [] }
/-- An atomic of an access in the service queue of cluster 0. -/
def svc0 : SvcReq := { id := 8, cluster := 0, access := some 7, lane := 0, team := 0, pkt := none, addr := homeG 0x2000, op := 0, ty := 2, data := 1, cmp := 0, ret := true }

theorem witness_EngineEvents :
    (let s : State := { s2 0 0 with acc := [acc0] }
     s.acc.find? (fun (x : Access) => x.id == 7) = some acc0 ∧ (∀ q ∈ acc0.reqs, q.2 = true) ∧ acc0.rem = [] ∧ acc0.svc = 0 ∧ acc0.bad = [] ∧
       s.team acc0.team = some (t0 0 0 0 0) ∧ (t0 0 0 0 0).holds = true ∧ (t0 0 0 0 0).allDead = false) ∧
    (let o : AsyncOp := { asy0 with queue := some 0, fills := [0], segs := [] }
     let s : State := { s2 0 0 with asy := [o], groups := [{ g0 with queues := [{ depth := 8, slots := [.pending fill0] }] }] }
     s.asyOp 5 = some o ∧ ((s.groupAt 0).queue 0).pendingFill 5 0 = some fill0 ∧ (s.fillOut (s.groupAt 0) o.team fill0 (some 0)).2 = some (.inr 0)) ∧
    (let s : State := { s2 0 0 with asy := [asy0], mem := [(homeC 0 3, 9)] }
     Mem.wf s.mem = true ∧ s.asyOp 5 = some asy0 ∧ asy0.segs.find? (fun x => x.no == 0 && x.open 0) = some seg0 ∧
       (∀ j, j < 8 → s.poisoned (homeC 0 0 + j) 1 = false) ∧ homeC 0 0 + 8 ≤ homeC 0 64 ∧ (s.groupAt 0).home 1 64 = homeC 0 64 ∧ s.farOf 5 0 = []) ∧
    (let s : State := { s2 0 0 with tops := [tile0 false], groups := [gq] }
     s.tileOp 6 = some (tile0 false) ∧ s.tileBlocked (tile0 false) = false ∧ s.group 0 = some gq ∧ (tile0 false).tile < gq.tiles.length ∧
       s.farWaits 6 = false ∧ s.farOf 6 0 = [] ∧ (s.tileFar (s.groupAt 0) (tile0 false).gRuns).2.1 = []) ∧
    (let s : State := { s2 0 0 with tops := [tile0 true] }
     s.nextPin 0 = some (0, [3, 4], 0, 6) ∧ (s.pinned 0 ++ [3, 4]).dedup.length ≤ 256) ∧
    (let s := st (twait (.pins [3, 4] 0)) g0
     s.nextPin 0 = some (0, [3, 4], 1, 0) ∧ (s.pinned 0 ++ [3, 4]).dedup.length ≤ 256 ∧ s.team 0 = some (twait (.pins [3, 4] 0))) ∧
    (let s : State := { s2 0 0 with tops := [tile0 false], clk := 2 ^ 20 }
     tile0 false ∈ s.tops ∧ 2 ^ 20 ≤ s.clk - (tile0 false).at_ ∧ s.farWaits 6 = false) ∧
    (let s : State := { s2 0 0 with svc := [svc0], acc := [{ acc0 with svc := 2 }] }
     s.svc.find? (fun (x : SvcReq) => x.cluster == 0) = some svc0 ∧
       s.svc.filter (fun (x : SvcReq) => x.id == svc0.id || (x.access.isSome && x.access == svc0.access && x.addr == svc0.addr)) = [svc0] ∧
       s.acc.find? (fun (x : Access) => x.id == 7) = some { acc0 with svc := 2 } ∧ s.poisoned svc0.addr 4 = false) := by
  and_intros <;> decide +kernel

/-- The AllReduce of `collDesc`, in progress. -/
def coll0 : AsyncOp :=
  { asy0 with cls := 3, minor := 7, coll := [0x1000000000000000, 0x2000, 0x3000, 8, 0x1000, 0, 0, 0, 1, 0, 0, 0, 0, 0, 0, 0],
              segs := [{ seg0 with ssp := 4, dsp := 4, src := 0x2000, dst := 0x3000, len := 32 }] }
/-- The machine with it. -/
def sco : State := { sv (t0 0 0 0 0) [] with asy := [coll0] }

theorem witness_EngineEvents_collective : sco.asyOp 5 = some coll0 ∧
    collLens (coll0.coll.take 8) (membersOf (coll0.coll.drop 8)).length = (32, 32) ∧
    gives (sco.xlateRun 0 0 .load {} 0x2000 (pagesOf 0x2000 32)) (fun ps =>
      gives ((sco.xlateRun 0 0 .load {} 0x2000 (pagesOf 0x2000 32)).1.xlateRun 0 0 .store {} 0x3000 (pagesOf 0x3000 32)) (fun pd =>
        (((sco.xlateRun 0 0 .load {} 0x2000 (pagesOf 0x2000 32)).1.xlateRun 0 0 .store {} 0x3000 (pagesOf 0x3000 32)).1.badRun ps 0x2000 32).isEmpty &&
          pd.all (fun p => p.ap == 0))) = true := by
  decide +kernel

theorem witness_TakingAFault : (s2 0 0).team 0 = some (t0 0 0 0 0) ∧ ({ s2 0 0 with acc := [acc0] } : State).openLoads 0 = true ∧
    (ss (t0 0 0 0 0) []).openLoads 0 = false ∧ (t0 0 0 0 0).depth ≠ 3 ∧
    ((ss (t0 0 0 0 0) []).barPlace 0 0 0 1).isSome = true ∧ ((ss (t0 0 0 0 0) []).barPlace 0 0 0 4).isSome = true ∧
    (ss (t0 0 0 0 0) []).saveVa 0 0 0 = some 0x20000 ∧ ((ss (t0 0 0 0 0) []).vaWrite 0 0 0x20000 ((t0 0 0 0 0).image 0)).2 = none ∧
    (ss (t0 0 0 0 0) []).openSet 0 0 .alignment = none := by
  decide +kernel

/-- A task of context 0 that wants a compute core, with deadline 1 µs. -/
def task0 (b : Nat) (x : TaskSt) : Task :=
  { id := 1, die := 0, bank := b, idx := 0, gen := 1, dws := [0x0400000000000400, 0, 1, 0, 0, 0, 0, 0], ext := none, st := x, waitCnt := 0,
    squashed := false, level := 4, promoted := false, qtime := 0 }
/-- The machine with that task, cores 0 and 192 only, at a time. -/
def sk (b : Nat) (x : TaskSt) (clk : Nat) : State :=
  { sv tb [] with tasks := [task0 b x], modl := { State.reset.modl with cores := [0, 192] }, clk := clk, teams := [], groups := [] }
/-- The record of an alignment fault that a handler entry serves, and its fault task. -/
def desc0 : List Dw := [0, 0x1000, 0, 0]
def recE : Rec := { rec0 0 .parked with id := 2, entry := some desc0, deadline := 1 }
def pend0 : PendTask := { bar := 2, cls := .alignment, desc := desc0, parkt := 0, escalated := false, sent := none }
/-- The team at a barrier since clk 0, after its watchdog's time. -/
def sbar : State :=
  { ss (twait (.barrier (.group 0 0))) [] with
    bars := [{ bar0 with arrived := [], start := some 0 }], clk := 2 ^ 28, groups := [{ g0 with barSub := List.replicate 16 1 }] }

theorem witness_FaultAndDeckEvents :
    (let s : State := { sk 0 .ready 3800 with recs := [recE], pend := [{ pend0 with bar := 3 }] }
     s.recs.find? (fun (x : Rec) => x.id == 2) = some recE ∧ recE.raised = false ∧ recE.waits = [] ∧ recE.st ≠ .member ∧
       recE.entry = some desc0 ∧ recE.deadline ≠ 0 ∧ recE.deadline ≤ s.usec) ∧
    ((rec0 0 .parked).entry = none ∧ ({ rec0 0 .parked with fault := mkF .watchdog .none 0 0 } : Rec).fault.cls = .watchdog) ∧
    (let s : State := { sk 0 .ready 0 with recs := [recE], pend := [pend0] }
     s.pend = [pend0] ∧ pend0.sent = none ∧ s.inTasks = [] ∧ s.recs.find? (fun (x : Rec) => x.id == pend0.bar) = some recE ∧
       descPeer desc0 = none ∧ s.bankFree 0 16 = some (0, 16, 0) ∧ (s.ctx (taskCtx (s.faultDws recE .alignment desc0))).rst = 0 ∧
       taskXd (s.faultDws recE .alignment desc0) = false) ∧
    20 * Config.clkPerUs < 38001 - 0 ∧
    ((sk 0 .ready 0).dispatchFor 0 = some (task0 0 .ready) ∧ ((sk 0 .ready 0).core 0).hand.length < 2) ∧
    (let s : State := { sk 0 (.hand 0) 0 with cores := [{ Core.init 0 with hand := [1] }] }
     s.startable 0 = some (task0 0 (.hand 0))) ∧
    ((sk 0 .ready 1900).task 1 = some (task0 0 .ready) ∧ (task0 0 .ready).bank ≠ 16 ∧ (sk 0 .ready 1900).taskLate (task0 0 .ready) = true ∧
      ((sk 0 .ready 1900).barPlace 0 0 0 1).isSome = true) ∧
    ((sk 16 .ready 1900).task 1 = some (task0 16 .ready) ∧ (sk 16 .ready 1900).taskLate (task0 16 .ready) = true) ∧
    (let g : Group := { g0 with budget := some 0 }
     (st tb g).group 0 = some g ∧ g.expired = false ∧ (st tb g).team 0 = some tb ∧ tb.isEnded = false) ∧
    (let t : Team := { t0 0 0 0 0 with pdis := true }
     (st t g0).team 0 = some t ∧ t.holds = true ∧ t.pdOut (st t g0).clk = true) ∧
    (sbar.bars.find? (fun (x : Barrier) => x.key == .group 0 0) = some { bar0 with arrived := [], start := some 0 } ∧
      sbar.barCtx { bar0 with arrived := [], start := some 0 } = some 0 ∧ sbar.barLate { bar0 with arrived := [], start := some 0 } = true ∧ (sbar.ctx 0).freeze = none) ∧
    (((sbar.ctxsOf 0).filter sbar.resident = [0] ∧ sbar.stale 0 = true) ∧ (sbar.ctx 0).freeze = none ∧ (sbar.ctx 0).rst = 0) ∧
    (∀ n ∈ [1, 2, 3, 4], (({ sbar with ctxs := [{ Ctx.init 0 with rst := n }] } : State).ctx 0).rst = n) ∧
    (let s : State := { State.reset with ctxs := [{ Ctx.init 0 with rst := 3 }] }
     (s.rstSettle 0).rstSettled 0 = true) := by
  and_intros <;> decide +kernel

/-- Partition 0 with given registers, context 0 enabled with KID 1. -/
def sp (ctl : Dw) : State :=
  { sv (t0 0 0 0 0) [] with parts := State.reset.parts.set 0 { Part.init with ctl := ctl, mem := 0x1000000, h := 0x100000000 },
                            ctxs := [{ Ctx.init 0 with ctl := 0xA001000000100000 }] }
/-- The answer of a register write is a state that meets a test. -/
def okTo (r : Except Detail State) (f : State → Bool) : Bool :=
  match r with
  | .ok s => f s
  | .error _ => false

theorem witness_ControlRegisterEvents :
    ((s2 0 0).ctx 3).en = false ∧ fld (setFld ((s2 0 0).ctx 3).ctl 63 63 1) 61 60 ≠ 3 ∧ fld (setFld ((s2 0 0).ctx 3).ctl 63 63 1) 20 0 ≤ 2 ^ 20 ∧
    (s2 0 0).kidBad (setFld ((s2 0 0).ctx 3).ctl 63 63 1) = false ∧
    ((sq 0 []).ctx 0).en = true ∧ ((sq 0 []).ctx 0).priv ≠ 3 ∧ ((sq 0 []).ctx 0).pdbud ≤ 2 ^ 20 ∧
    ((sp 1).part 0).en = false ∧ ((sp 1).part 0).sealBit = false ∧ (sp 1).parts.length = 8 ∧ ((sp 1).part 0).lend ≠ 3 ∧
    (sp 1).partClash 0 { (sp 1).part 0 with ctl := setFld ((sp 1).part 0).ctl 63 63 1 &&& 0xF000000000FFFFFF } = false ∧
    ((sp 0x4000000000000001).part 0).sealBit = true ∧ ((sp 0x4000000000000001).part 0).lend ≠ 3 ∧ (sp 0x4000000000000001).kidsOk 0 = true ∧
    (sp 0x4000000000000001).partClash 0 { (sp 0x4000000000000001).part 0 with ctl := setFld ((sp 0x4000000000000001).part 0).ctl 63 63 1 &&& 0xF000000000FFFFFF } = false ∧
    okTo ((sp 0x4000000000000001).sealPart 0 { (sp 0x4000000000000001).part 0 with ctl := setFld ((sp 0x4000000000000001).part 0).ctl 63 63 1 &&& 0xF000000000FFFFFF })
      (fun _ => true) = true ∧
    ((sp 0x8000000000000001).part 0).en = true ∧ ((sp 0x8000000000000001).part 0).ctl &&& 0xF000000000FFFFFF = ((sp 0x8000000000000001).part 0).ctl ∧
    okTo ((sp 1).setRange 0 7 0x8000000100000000) (fun s => ((s.ctx 0).hr.toList.getD 7 0) == 0x8000000100000000) = true ∧
    okTo ((sp 1).setRange 0 7 0x8000000200000000) (fun _ => true) = false ∧
    ((s2 0 0).group 0).isSome = true ∧ fld (0x4000000000010000 : Dw) 62 52 ≤ 1024 ∧ fld (500 : Dw) 8 0 ≤ 500 ∧
    flag (((s2 0 0).ctx 0).lq.toList.getD 3 0) 63 = false ∧ ((s2 0 0).ctx 0).rst = 0 ∧
    flag (((sq 0 []).ctx 0).lq.toList.getD 0 0) 63 = true ∧ (sq 0 []).lq 0 0 = some lq0 := by
  decide +kernel

/-- A packet: TYPE, LEN, N, WAIT and CMP in its header, then its doublewords. -/
def pkw (typ len n : Nat) (ds : List Dw) : List Dw := BitVec.ofNat 64 (typ * 2 ^ 56 + len * 2 ^ 48 + n * 2 ^ 40) :: ds
/-- The launch queue with a packet in execution. -/
def lqp (d : List Dw) : LaunchQ := { lq0 with cur := some (0x800, d) }
/-- The machine with it, the value 5 at address 1000, and a packet NOP at 1100. -/
def sl (d : List Dw) : State := { sq 0 [(0x1000, 5), (0x1100, 0x0902000000000000)] with lqs := [lqp d], ctxs := [{ (sq 0 []).ctx 0 with hr := Vector.replicate 8 0 }] }
/-- A frame whose next packet is at 1100. -/
def fr0 : Frame := Frame.init (some 0x1100) 0 0 0 (some 1)

theorem witness_FrontEndEvents :
    (∀ p ∈ [pkw 1 13 0 (List.replicate 12 0), pkw 2 3 0 [0x1100, 0x100000000], pkw 3 3 1 [0x1000, 5], pkw 4 2 1 [0], pkw 4 2 1 [2], pkw 5 3 0 [0x1000, 1],
        pkw 6 3 0 [0x1000, 5], pkw 6 3 0 [0x1000, 6], pkw 7 2 0 [0], pkw 8 2 0 [0x1000], pkw 9 2 0 [0], pkw 10 3 0 [0x1100, 0]],
      (sl p).lq 0 0 = some (lqp p) ∧ (lqp p).state = 1 ∧ (sl p).pktReady (lqp p) p = true) ∧
    pktType (pkw 1 13 0 (List.replicate 12 0)) = 1 ∧ (sl (pkw 1 13 0 (List.replicate 12 0))).launchError 0 (pkw 1 13 0 (List.replicate 12 0)) = none ∧
    (sl (pkw 1 13 0 (List.replicate 12 1))).launchError 0 (pkw 1 13 0 (List.replicate 12 1)) = some 1 ∧
    (lqp []).frames.length < 3 ∧ ((sl []).feRead 0 0x1000).2 = some 5 ∧ pktCmp (pkw 3 3 1 [0x1000, 5]) 5 = true ∧ pktCmp (pkw 6 3 0 [0x1000, 6]) 5 = false ∧
    fld ((pkw 4 2 1 [2]).getD 1 0) 7 0 ≠ 0 ∧ fld ((pkw 4 2 1 [0]).getD 1 0) 7 0 = 0 ∧
    (let s : State := { sl (pkw 4 2 1 [2]) with lqs := [{ lqp (pkw 4 2 1 [2]) with frames := [fr0] }] }
     fr0.body = [] ∧ (((s.feAhead 0 fr0 8).2.ahead.take 1)).map (fun p => pktType p.2) = [9]) ∧
    ((sl []).feWrite 0 0x1000 1).2 = some [] ∧
    ((sl (pkw 8 2 0 [0x1000])).feDone { lqp (pkw 8 2 0 [0x1000]) with sigs := [(0x800, 0x1000, [])] }).lqs.length = 1 ∧
    lq0.cur = none ∧ lq0.reread = 0 ∧
    ({ sq 0 [] with clk := 1900 } : State).rereadDue { lq0 with reread := 8 } = true ∧ ((sq 0 []).ctx 0).en = true ∧ ((sq 0 []).ctx 0).rst = 0 ∧
    (let l : Launch := { id := 1, ctx := 0, dws := pkw 1 13 0 (List.replicate 12 0), parents := [], arrival := 0, resv := [], ended := [], kAlloc := [] }
     ({ sq 0 [] with launches := [l] } : State).headLaunch 0 = some l) := by
  and_intros <;> decide +kernel

/-- The machine when a packet arrives, with module 1's state. -/
def sf1 (p : Peer) : State := { s2 0 0 with peers := [p] }
/-- The packet has been received already. -/
def peerGot : Peer := { Peer.init 1 with rxO := { RxLane.init with got := [0] } }
/-- A packet to module 1 in flight. -/
def fl0 (typ : BitVec 5) : Flight := { p := { pk typ with src := 0, dst := 1 }, sent := 0, first := 0, plane := 0 }

theorem witness_FabricEvents :
    (∀ k ∈ [0, 1, 2, 3, 4, 5, 6, 7], (sf1 (Peer.init 1)).fit (pk (BitVec.ofNat 5 k)) k = true ∧
      (sf1 (Peer.init 1)).fit { pk (BitVec.ofNat 5 k) with crcOk := false } k = false) ∧
    (psnBelow (pk 0).psn ((sf1 peerGot).peer 1 |>.rx false).base || ((sf1 peerGot).peer 1 |>.rx false).got.contains (pk 0).psn.toNat) = true ∧
    (let s := sf1 (Peer.init 1)
     (psnBelow (pk 2).psn ((s.peer 1).rx false).base || ((s.peer 1).rx false).got.contains (pk 2).psn.toNat) = false ∧ s.standing (pk 2) = false ∧
       (s.peer 1).rxO.held = [] ∧ s.refuses (pk 2) = false ∧ (pk 2).so = false ∧ s.hasPa (pk 2).pa = true ∧ Mem.wf s.mem = true) ∧
    (let a : Access := { acc0 with reqs := [], rem := [{ rid := 0, peer := some 1, addr := 0, lanes := [(0, 0, 8)] }] }
     ({ sf1 (Peer.init 1) with acc := [a] } : State).accOf (pk 1).rid = some a ∧ (pk 1).refused = false) ∧
    ((sf1 { Peer.init 1 with flight := [fl0 1] }).peer 1).que = [] ∧ (∀ f ∈ [fl0 1], acked (pk 5) f.p = true → f.p.typ = 1) ∧
    (s2 0 0).recOf 1 = none ∧ (let s := sv tb []
      (s.ctx (taskCtx [0, 0, 0, 0, 9])).en = true ∧ (s.ctx 0).rst = 0 ∧ s.bankFree 0 16 = some (0, 16, 0) ∧ taskXd [0, 0, 0, 0, 9] = false) ∧
    bits (pk 7).rid.toNat 8 0 = 0 ∧ bits ({ pk 7 with rid := 500 } : Packet).rid.toNat 8 0 ≤ 500 ∧
    (let p : Peer := { Peer.init 1 with annUntil := 1 }
     let s : State := { sf1 p with clk := 1 }
     (s.peer 1).annUntil ≠ 0 ∧ (s.peer 1).annUntil ≤ s.clk ∧ s.batches = []) ∧
    16 ≤ (((sf1 { Peer.init 1 with rxO := { RxLane.init with arrivals := 16 } }).peer 1).rx false).arrivals ∧
    (let s : State := { sf1 { Peer.init 1 with flight := [fl0 0] } with clk := 38000 }
     (s.peer 1).annUntil ≤ s.clk ∧ fl0 0 ∈ (s.peer 1).flight ∧ 20 * Config.clkPerUs ≤ s.clk - (fl0 0).sent) ∧
    (let s : State := { sf1 { Peer.init 1 with flight := [fl0 1] } with clk := 9500000 }
     s.laneReqs = [] ∧ s.pend = [] ∧ s.silent 1 = true ∧ (∀ f ∈ (s.peer 1).flight, f.p.typ = 1) ∧ (s.peer 1).que = []) ∧
    (71 < 72 ∧ (s2 0 0).rel.fenced.contains (5, 71) = false) := by
  and_intros <;> decide +kernel

/-- The machine with queue pair 0 of the scale-out engine: one work entry posted. -/
def so (q : List QueuePair) (clk : Nat) : State :=
  { sv tb [(0x5000, 0x8000000000006000), (0x5008, 0x7000), (0x6000, 1)] with
    modl := { State.reset.modl with sotab := 0x0010000000005000 }, qps := q, clk := clk }
/-- Its work entry: RDMA write of 8 bytes from 2000. -/
def work0 : List Dw := [8, 0x2000, 0, 0, 0, 0, 0, 0]
def e0 : List Dw := [0x8000000000006000, 0x7000, 0, 0]
def qp0 : QueuePair := { id := 0, head := 1, wp := 0, work := [(4, 0, work0)] }
/-- A targeted test of core 3 in a stage. -/
def ut (st since : Nat) : UnitTest := { id := 2, ukind := 0, unum := 3, stage := st, since := since }
/-- The machine with it at a time. -/
def su (u : UnitTest) (clk : Nat) : State := { s2 0 0 with rel := { State.reset.rel with tests := [u] }, clk := clk }

theorem witness_HostAndReliabilityEvents :
    (({ s2 0 0 with modl := { State.reset.modl with stage := 2 } } : State).modl.stage < 8 ∧ 8 ≤ (s2 0 0).modl.stage) ∧ Mem.wf (s2 0 0).mem = true ∧
    (∀ i, i < 2 → (s2 0 0).hostReach (0x40000 + i) = true) ∧
    (so [] 0).qpEntry 0 = some e0 ∧ ((so [] 0).qpPosted 0).2 = true ∧
    (let s := so [qp0] 190000000
     (s.qp 0).work = [(4, 0, work0)] ∧ (s.qpRoom e0 (s.qp 0)).2 = true ∧ fld (work0.getD 0 0) 63 60 ≠ 1 ∧
       gives (((s.qpRoom e0 (s.qp 0)).1.qpDrop 0 4).engRead 0 0 0x2000 8) (fun x => x == [0, 0, 0, 0, 0, 0, 0, 0]) = true ∧
       100 * clkPerMs ≤ (s.qpRoom e0 (s.qp 0)).1.clk - 0) ∧
    flag (e0.getD 0 0) 63 = true ∧ (so [] 0).qpBad e0 = false ∧ (s2 0 0).scrubbed 0x40000 = true ∧
    ({ s2 0 0 with clk := 2 ^ 32 } : State).rel.halved < 2 ^ 32 / 2 ^ 32 ∧
    (let g : Group := { g0 with core := 3 }
     let s : State := { sv tb [] with groups := [g], rel := { State.reset.rel with tests := [ut 0 0] } }
     s.group 0 = some g ∧ s.vacating 3 = true ∧ s.canLeave g = true ∧ s.admits g 4 = true ∧ s.admits g 8 = false) ∧
    (let s : State := { su (ut 0 0) 19000000 with groups := [{ g0 with core := 3 }] }
     s.rel.tests.find? (fun (x : UnitTest) => x.id == 2) = some (ut 0 0) ∧ s.testCore (ut 0 0) = some 3 ∧ s.vacated 3 = false ∧ 10 * clkPerMs ≤ s.clk - 0) ∧
    (ut 1 0).stage = 1 ∧ 2 ^ 27 ≤ (su (ut 1 0) (2 ^ 27)).clk - (ut 1 0).since ∧
    ((ut 2 0).stage ≠ 1 ∧ (su (ut 2 0) 0).testCore (ut 2 0) = some 3 ∧ (su (ut 2 0) 0).vacated 3 = true ∧ (su (ut 2 0) 0).scrubbing (ut 2 0) = false) ∧
    (let k : Core := { Core.init 0 with trace := { time := 0, recs := [1], pchi := [], clauses := 0, lost := 0 } }
     let s : State := { s2 0 0 with cores := [k], clk := 4096 }
     (s.core 0).trace.recs ≠ [] ∧ 4096 ≤ s.clk - (s.core 0).trace.time) := by
  and_intros <;> decide +kernel

theorem witness_SummaryBits : (t0 0 0 0 0).width ≤ 1024 ∧ (t0 0 0 0 0).regs.exec &&& widthMask 32 = (t0 0 0 0 0).regs.exec ∧
    (∀ ds, Ready (s2 0 0) (t0 0 0 0 0) 0 ds) := ⟨by decide +kernel, by decide +kernel, fun ds => ready0 _ _ _ _ _ ds⟩

/-! ### Witnesses for the clauses the theorems above leave out -/

/-- A store of team 0 not performed. -/
def accS : Access := { acc0 with load := false, loc := true, fin := .none, dests := [] }
/-- The machine with accesses of its team open. -/
def sw (as : List Access) : State := { s2 0x40000000000000 5 with acc := as }
/-- The team with special and vector registers of its own. -/
def tr (fp : Wd) (dead : Mask) (vs : List VVal) : Team :=
  { t0 2 5 0 0 with regs := { r0 2 5 0 0 with fpctl := fp, dead := dead, exec := widthMask 32 &&& ~~~dead, v := vs ++ List.replicate (32 - vs.length) (.u 0) } }

theorem witness_ControlInstructions_more : scopeOk 6 = false ∧ (t0 0x10000000000000 5 0 0).s 2 ≠ 0 ∧
    2 ^ 52 < ((t0 0x10000000000000 5 0 0).s 1).toNat + ((t0 0x10000000000000 5 0 0).s 2).toNat ∧ (sw [accS]).openWrites 0 ≠ [] ∧
    (s2 0 0).openWrites 0 = [] := by
  decide +kernel

theorem witness_ScalarDivision_more : (t0 0x8000000000000000 (-1) 0 0).s 1 = 0x8000000000000000 ∧
    (t0 0x8000000000000000 (-1) 0 0).s 2 = BitVec.allOnes 64 ∧ ((t0 5 0 0 0).s 1).toNat < 2 ^ (64 - 61) ∧ 2 ^ (63 - 61) ≤ ((t0 5 0 0 0).s 1).toNat := by
  decide +kernel

theorem witness_PredicatePackingAndCompare_more : 16 < (15 : PReg).toNat + (1 : BitVec 3).toNat + 1 ∧ ccOk .un .i32 = false ∧
    (tr 0x100 0 [.u 0, .u 0x7F800001]).regs.fpctl.getLsbD 8 = true ∧ sig32 (((tr 0x100 0 [.u 0, .u 0x7F800001]).v 1).lane 0) = true ∧
    ((tr 0x100 0 [.u 0, .u 0x7F800001]).active none).getLsbD 0 = true ∧ (2 : PReg) ≠ 0 := by
  decide +kernel

theorem witness_ConversionsAndShapes_more : cvtFmtOk 0 = true ∧ cvtFmtOk 2 = true ∧ selOk 0 2 15 = false ∧ vcvtOk 31 0 = false ∧ cvtFmtOk 31 = false ∧
    qcvtOk 31 15 = false ∧ (t0 2 0 0 0).active none ≠ 0 ∧ qCtlBad ((t0 0xFF 0 0 0).s 1) 15 = true ∧ (t0 2 0 0 0).vcnt < (31 : VReg).toNat + 32 ∧
    ((tr 0 0 [.u 0, .g (List.replicate 32 5)]).v 1).tag = 2 ∧ (tr 0 0 []).live.getLsbD 0 = true ∧ (tr 0 0 []).live.getLsbD 1 = true ∧
    (∀ l, l < 32 → ((tr 0 0 [.u 0, .g (List.replicate 32 5)]).v 1).lane l = 5) ∧
    (∀ l, l < 32 → ((tr 0 0 [.u 0, .g ((List.range 32).map (fun l => BitVec.ofNat 32 (3 + 2 * l)))]).v 1).lane l = 3 + BitVec.ofNat 32 l * 2) ∧
    ((tr 0 0 [.u 0, .g ((List.range 32).map (fun l => BitVec.ofNat 32 (l * l)))]).v 1).lane 2 ≠ 0 + 2 * 1 ∧ ((tr 0 0 []).v 1).tag ≠ 2 := by
  decide +kernel

theorem witness_ShufflesVotesReductions_more : (tr 0 0x20 []).regs.dead.getLsbD (((tr 0 0x20 []).s 2).toNat % 32) = true ∧
    mskNoZ (some ⟨5, true, false⟩) = false := by
  decide +kernel

theorem witness_VectorLoads_more : (s2 0 0).earlier 0 false [] = [] ∧
    gives ((s2 0 0).resolveAll (t0 0 0 0 0) aC.sp aC.base (ldOpt 4 none) (((t0 0 0 0 0).ldWho 4 aC none).map (fun l => (l, (t0 0 0 0 0).vAddr aC l))))
      (fun us => (s2 0 0).earlier 0 false us == [] && (s2 0 0).earlier 0 true us == []) = true := by
  decide +kernel

/-- A team with numbers of timeline 0 issued and the first not complete, and a monitor. -/
def ttl (m : Option (Nat × Bool)) : Team :=
  { t0 8 0 0 0 with tl := { (t0 0 0 0 0).tl with cpy := { issued := 8, opn := [1] } }, monitor := m }

theorem witness_FencesAndWaits_more : ((ttl none).s 1).toNat ≤ ((ttl none).tl.get 0).issued ∧ ((ttl none).tl.get 0).count < ((ttl none).s 1).toNat ∧
    ((t0 8 0 0 0).tl.get 0).issued < ((t0 8 0 0 0).s 1).toNat ∧ (st (ttl none) g0).tlCount 0 0 < ((ttl none).s 1).toNat ∧
    ((s2 0 0).groupOf (t0 0 0 0 0)).stageMap.length ≤ (1 : BitVec 4).toNat ∧ (ttl (some (homeC 0 8, true))).monitor = some (homeC 0 8, true) ∧
    gives ((st (ttl (some (homeC 0 8, true))) g0).resolve (ttl (some (homeC 0 8, true))) (spaceOf 1) 1 { k := .load, size := 8, align := true } 0 8)
      (fun ps => ps.map (·.word) == [homeC 0 8]) = true ∧
    ((s2 4 0).resolve (t0 4 0 0 0) (spaceOf 1) 1 { k := .load, size := 8, align := true } 0 4).2.isLeft = true := by
  decide +kernel

theorem witness_ReadSectionsAndRounds_more : (sw [acc0]).readsOpen 0 = true ∧ (sw [accS]).settled 0 = false ∧ canonical ((t0 0x10000000000000 0 0 0).s 1) = false ∧
    ({ t0 0 0 0 0 with rdDepth := 2 } : Team).rdDepth = 2 := by
  decide +kernel

theorem dfl_count (n : Nat) : ({ s2 0 0 with dfl := List.replicate n (dent true none false) } : State).dflCount 0 = n := by
  simp [State.dflCount, dent]

theorem witness_ReadSectionsAndRounds_full :
    65536 ≤ ({ s2 0 0 with dfl := List.replicate 65536 (dent true none false) } : State).dflCount 0 :=
  Nat.le_of_eq (dfl_count 65536).symm

theorem witness_StreamQueues_more : ({ t0 0 0 0 0 with regs := { r0 0 0 0 0 with exec := 0 } } : Team).words = [] ∧ (gq.queue 0).bad = [] ∧
    (gq.queue 0).depth ≠ 0 ∧ (t0 0 0x2000 0x200000008 0x800000008).s 1 = 0 ∧ gq.stageMap.length ≤ (1 : BitVec 4).toNat := by
  decide +kernel

/-- Operands of an MMA whose A stands in space G, a line each row. -/
def oprsG : List Dw := [0, 0, 0x100000, 0x8000, 0x8000000080]

theorem witness_MatrixInstructions_more : ({ t0 0 0 0 0 with cnt := { ld := 0, st := 0, cp := 0, ti := 0xFFFF } } : Team).cnt.ti = 0xFFFF ∧
    ((st (t0 4 128 0 0) gq).accFault (t0 4 128 0 0) 1 false).isSome = true ∧
    (let s : State := { st (t0 0 0 0 0) gq with tops := [tile0 false] }
     s.tops.any (fun o => o.names 0 1) = true) ∧
    (fmtBad (mOps [0xF800000000000000, 0, 0, 0, 0] false false).1 (mOps [0xF800000000000000, 0, 0, 0, 0] false false).2 false).isSome = true ∧
    ((mOps [0, 0, 4, 0, 0] false false).1.skew 128 96).isSome = true ∧
    ((st (t0 0 0 0 0) gq).matBounds gq ((mOps [0, 0, 0x100000, 0, 0] false false).1.runs 96 [0])).isSome = true ∧
    [] ≠ mmaLines 0 (mOps oprsG true false).1 (mOps oprsG true false).2 96 [0, 1] 128 ∧
    (let s : State := { st (t0 0 0 0 0) gq with tops := [tile0 true] }
     s.pinQueue 0 = true) ∧ (t0 0 0 0 0).pinHeld = [] := by
  and_intros <;> decide +kernel

/-- Deck entries of every bank of both dies, `n` of each. -/
def deck (n : Nat) : List Task :=
  (List.range 34).flatMap (fun k => List.replicate n { node1 with die := k / 17, bank := k % 17 })

/-- A full Deck has no place in a bank. -/
theorem deck_full (s : State) (d b n : Nat) (hd : d < 2) (hb : b < 17) (hn : bankSize b ≤ n) (ht : s.tasks = deck n) :
    s.bankFree d b = none := by
  have hk : 17 * d + b ∈ List.range 34 := List.mem_range.2 (by omega)
  have h1 : (List.replicate n { node1 with die := (17 * d + b) / 17, bank := (17 * d + b) % 17 }).Sublist (deck n) := by
    unfold deck
    exact List.sublist_flatten_of_mem (List.mem_map_of_mem hk)
  have e1 : (17 * d + b) / 17 = d := by omega
  have e2 : (17 * d + b) % 17 = b := by omega
  rw [e1, e2] at h1
  have h2 := (h1.filter (fun (t : Task) => t.die == d && t.bank == b)).length_le
  rw [List.filter_replicate] at h2
  simp only [beq_self_eq_true, Bool.and_self, if_true, List.length_replicate] at h2
  unfold State.bankFree State.bankUsed
  rw [ht]
  simp only [List.length_map]
  rw [if_pos (Nat.le_trans hn h2)]

theorem witness_TaskSubmission_full : ({ sq 0x800 spawnMem with tasks := deck 16128 } : State).deckPlace 0 0 = none := by
  unfold State.deckPlace
  rw [List.findSome?_eq_none_iff]
  intro p hp
  simp only [List.mem_flatMap, List.mem_map, List.mem_range, List.mem_cons, List.not_mem_nil, or_false] at hp
  obtain ⟨d, hd, i, hi, rfl⟩ := hp
  refine deck_full _ d ((0 + i) % 16) 16128 (by omega) (by omega) ?_ rfl
  unfold bankSize
  rw [if_neg (by omega)]

theorem witness_TaskSubmission_more : ((t0 8 0 0 0).s 1).toNat % 64 ≠ 0 ∧ (sw [accS]).settled 0 = false ∧
    gives ((s2 0x10000000000000 0).vaRead 0 0 0x10000000000000 64) (fun _ => true) = false ∧
    gives ((sq 0x880 ((0x880, 0x60000000000000) :: spawnMem)).vaRead 0 0 0x880 64) (fun bs => taskBad 0 (leDws 8 bs)) = true ∧
    gives ((sq 0x900 ((0x908, 0xFFFF) :: spawnMem)).vaRead 0 0 0x900 104) (fun bs => postHeaderOk ((leDws 13 bs).getD 0 0) &&
      ((sq 0x900 ((0x908, 0xFFFF) :: spawnMem)).launchError 0 (leDws 13 bs)).isSome) = true ∧
    64 ≤ ({ lq0 with posted := List.replicate 64 ([], .task 0, []) } : LaunchQ).posted.length ∧ (1 : SReg) ≠ 0 := by
  decide +kernel

theorem witness_Futures_more : ((sf 4 (.task 1) false).futFault (t0 4 0 0 0) 4).isSome = true ∧
    (let s : State := { sf 8 (.task 1) false with rel := { State.reset.rel with poison := [homeH 8 / 8] } }
     s.poisoned (homeH 8) 8 = true ∧ s.isFull 8 = true ∧ s.futFault (t0 8 0 0 0) 8 = none) ∧
    ({ sf 16 (.task 1) false with acc := [accS] } : State).settled 0 = false := by
  and_intros <;> decide +kernel

/-- A machine whose team's context is of a privilege, with a second partition sealed and a context in it. -/
def spv (p : Nat) : State :=
  { sv (t0 3 0xA00 0 0) [(0xA00, 0), (0xA08, 0x10000), (0xA20, 0), (0xA28, 2)] with
    ctxs := [{ Ctx.init 0 with ctl := BitVec.ofNat 64 (0x8000000000100000 + p * 2 ^ 60) }, { Ctx.init 5 with ctl := 0x8200000000100000 },
             { Ctx.init 6 with ctl := 0x8400000000100000 }]
    parts := ((List.replicate 8 Part.init).set 0 { Part.init with ctl := 0x8000000000000001, mem := 0x1000000 }).set 1
      { Part.init with ctl := 0xC000000000000002, mem := 0x2000000 } }

theorem witness_PrivilegedInstructions_more : ((spv 1).ctx 0).priv = 1 ∧ ((spv 2).ctx 0).priv ≠ 1 ∧ ((spv 1).ctx 5).part ≠ ((spv 1).ctx 0).part ∧
    ((spv 2).ctx 5).part ≠ ((spv 2).ctx 0).part ∧ (spv 2).sealedCtx 5 = true ∧ (spv 2).sealedCtx 6 = false ∧ (sw [accS]).settled 0 = false ∧
    fld (0x100000000 : Dw) 51 32 ≠ 0 ∧ (1 : Nat) ≠ 0 ∧ 2 ^ 52 < 0xFFFFFFFFF0000 + 2 * 65536 ∧ (4 : Dw).toNat % 32 ≠ 0 ∧ fld (0x100 : Dw) 15 8 ≠ 0 ∧
    FaultClass.all.any (fun e => e.code == 63) = false ∧ (0xA00 : Dw) ≠ 0 ∧
    gives ((spv 2).vaRead 0 0 0xA00 32) (fun bs => !descBad (leDws 4 bs) && (match (spv 2).localHctx (leDws 4 bs) with
      | some h => (((spv 2).ctx h).part == ((spv 2).ctx 0).part)
      | none => true)) = true ∧
    gives ((spv 2).vaRead 0 0 0xA20 32) (fun bs => descBad (leDws 4 bs)) = true ∧ (spv 2).engineRids [0] = [] := by
  decide +kernel

/-- The handler team and a record of a sealed partition's context; a handle of module 2. -/
def shx (h : Dw) (c : Nat) : State :=
  { spv 2 with teams := [{ th with regs := r0 h 0 0 0 }], recs := [{ rec0 c .parked with part := 1 }] }

theorem witness_HandlerInstructions_more : (shx (2 ^ 56) 0).modl.modNo ≠ ((2 ^ 56 : Dw).toNat) / 2 ^ 55 ∧
    (shx 0x1 5).sealedCtx 5 = true ∧ ((shx 0x1 5).ctx 0).part ≠ ({ rec0 5 .parked with part := 1 } : Rec).part ∧
    (shx ((shx 0 5).handle (rec0 5 .parked)) 5).recOf ((shx 0 5).handle (rec0 5 .parked)) = some { rec0 5 .parked with part := 1 } ∧
    (sw [accS]).settled 0 = false := by
  decide +kernel

/-- Another team of core 0, with chunks reserved or held for ever. -/
def hog (n : Nat) : Team := { t0 0 0 0 0 with key := 1, tid := 1, resv := n }
/-- The team between clauses with a PC of its own. -/
def tpc (pc : Dw) : Team := { tb with pc := pc }

theorem witness_ClauseIssue_more :
    (let t : Team := { tb with pdis := true }
     t.pdOut 0 = true ∧ ((({ sv t [] with cur := none } : State).expireBudgets t).2.applyWindow 0).boundary.isSome = true) ∧
    ({ tb with due := [mkF .watchdog .none 0 0] } : Team).boundary.isSome = true ∧ (tpc 0x10002).pc.toNat % 4 ≠ 0 ∧ tb.pdOut 0 = false ∧ g0.budget ≠ some 0 ∧
    gives ((sv (tpc 0x1000000000) []).fetchWord 0 0 0x1000000000 none) (fun _ => true) = false ∧
    (let s := sv (tpc 0xFFFFFFFFC) [(0xFFFFFFFF8, 0xA07FFF8100000000)]
     gives (s.fetchWord 0 0 0xFFFFFFFFC none) (fun x => x.1 == 0xA07FFF81) = true ∧ gives (s.fetchBody 0 0 45 0x1000000000 none 1) (fun _ => true) = false) ∧
    (let ws : List Wd := (encode (.vadd .w32 3 1 2 none))
     let t : Team := { tb with regs := r0 0 0 0 0 }
     (let s : State := { sv t [] with teams := [t, hog (2 ^ 30)] }
      s.freeChunks 0 + s.held t < s.clauseNeed t ws)) ∧
    startsAt [0x08000000] 1 1 true = some 0 ∧ ({ tb with woff := 1 } : Team).woff ≠ 0 := by
  and_intros <;> decide +kernel

/-- The team waiting at a barrier, and another of its group that has not arrived. -/
def two : State := { ss (twait (.barrier (.group 0 0))) [] with teams := [twait (.barrier (.group 0 0)), { hog 0 with st := .running }], bars := [bar0],
                                                                groups := [{ g0 with barSub := List.replicate 16 1, stageMap := [0, 0] }] }

theorem witness_SchedulingEvents_more :
    (t0 0 0 0 0).preemptible = false ∧ ({ ss tb [] with acc := [acc0] } : State).openLoads 0 = true ∧ (sv tb []).saveVa 0 0 0 = none ∧
    (let s : State := { ss tb [] with ctxs := (sv tb []).ctxs.map (fun c => { c with save := 0x0010001000000000 }) }
     s.saveVa 0 0 0 = some 0x1000000000 ∧ (s.vaWrite 0 0 0x1000000000 (tb.image 0)).2.isSome = true) ∧ tb.st ≠ .swapped ∧
    (let t : Team := { tb with st := .swapped, need := 2 }
     ({ ss t imgMem with teams := [t, hog (2 ^ 30)] } : State).freeChunks 0 < t.need ∧ ((sv t []).readImage t).2.isLeft = true ∧
       gives ((ss { t with regs := { r0 0 0 0 0 with v := [] } } []).readImage { t with regs := { r0 0 0 0 0 with v := [] } })
         (fun x => !x.2 && (t.restore x.1 0).isNone) = true ∧
       gives (({ ss t imgMem with rel := { State.reset.rel with poison := [homeG 0x20000 / 8] } } : State).readImage t) (fun x => x.2) = true) ∧
    inG (homeC 0 8) = false ∧ inG (homeG 8) = true ∧
    ([some 0].all (fun (x : Option Nat) => x.all (fun c => decide (c + 65536 ≤ 5)))) = false ∧ (ss (twait (.thr 0 0 15 15)) []).met { twait (.thr 0 0 15 15) with cnt := { ld := 0, st := 1, cp := 0, ti := 0 } } (.thr 0 0 15 15) = false ∧
    (ss (twait (.fabric 1)) []).met (twait (.fabric 1)) (.fabric 1) = true ∧ two.bars.find? (fun (x : Barrier) => x.key == bar0.key) = some bar0 ∧
    two.barrierDone bar0 = false ∧
    (let s : State := { ss (twait (.round 9)) [] with rounds := [round0], clk := 1 }
     s.rounds.find? (fun (x : Round) => x.id == 9) = some round0 ∧ round0.set = [] ∧ round0.far = [] ∧ round0.at_ < s.clk ∧ ¬ s.clk ≤ round0.at_) ∧
    [dent true none false].any (fun (e : DEntry) => e.ctx == 0 && e.queued && e.round.isNone && !e.released && decide (e.qclk < 1)) = true ∧
    (ss tb []).reclaimGroup 0 = none ∧ (gr.queue 15).empty ≠ 0 ∧ ({ gr with queues := [] } : Group).queue 15 = { depth := 0, slots := [] } ∧
    (ss tb []).groupDone g0 = false ∧ (ss tb []).batches.any (fun (b : Batch) => b.id == 3) = false ∧
    (let p : Peer := { Peer.init 1 with cap := 0 }
     let s : State := { ss tb [] with batches := [batch0], peers := [p] }
     batch0.pkts.length ≤ max 1 (s.peer 1).cap ∧ s.batchHeld [] batch0 = true) := by
  and_intros <;> decide +kernel

theorem witness_SchedulingEvents_launch :
    (let b : Barrier := { key := .launch 0 0, arrived := [0], start := none, phase := 0 }
     let s : State := { ss (twait (.barrier (.launch 0 0))) [] with
       bars := [b]
       det := [{ ctx := 0, origin := .launch 0, tid := 0, seq := 0, addr := homeP 0 0 + 2 ^ 60 + 0x100, sub := false, ty := 4, data := 0 }] }
     s.bars.find? (fun (x : Barrier) => x.key == b.key) = some b ∧ s.barrierDone b = true ∧ (s.applyFor b).barrierDone b = false) := by
  decide +kernel

/-- A prefetch of core 0 whose line has not come. -/
def pf0 (slot : Option Nat) : PfReq := { id := 7, core := 0, ctx := 0, line := 0x100, slot := slot, rid := 0, l1 := true }
/-- An atomic of team 0 on bytes of space C, earlier than operation 5. -/
def accA : Access := { accS with id := 4, svc := 1, fin := .none }
/-- Its request. -/
def svcA : SvcReq := { svc0 with access := some 4, addr := homeC 0 0 }
/-- A line of module 1 that an operation waits for, or has. -/
def lineF (op : Nat) (g : Option Line) : FarLine := { op := op, no := 0, va := 0x2000, want := 0x2000, rid := 0, got := g, lost := none }

theorem witness_EngineEvents_more :
    (t0 0 0 0 0).st = .running ∧
    (let s : State := { s2 0 0 with pfs := [pf0 (some 0)] }
     s.acc.find? (fun (x : Access) => x.id == 7) = none ∧ s.pfs.find? (fun (x : PfReq) => x.id == 7 && x.slot.isSome) = some (pf0 (some 0))) ∧
    (let s : State := { s2 0 0 with asy := [{ asy0 with queue := some 0, fills := [0], segs := [] }], far := [lineF 5 none], groups := [{ g0 with queues := [{ depth := 8, slots := [.pending fill0] }] }] }
     (s.fillOut (s.groupAt 0) 0 { fill0 with sp := 4, addr := 0x2000 } (some 0)).2 = none) ∧
    (let s : State := { s2 0 0 with asy := [asy0], acc := [accA], svc := [svcA] }
     s.behind 0 5 [localPiece (homeC 0 0) 8] = true) ∧ ({ s2 0 0 with asy := [asy0] } : State).behind 0 5 [localPiece (homeC 0 0) 8] = false ∧
    (let s : State := { s2 0 0 with tops := [tile0 true], groups := [gq] }
     s.tileOp 6 = some (tile0 true) ∧ (tile0 true).pinWait = true) ∧
    (let s : State := { s2 0 0 with tops := [tile0 false], groups := [gq], far := [lineF 6 (some 0)] }
     s.farWaits 6 = false ∧ s.farOf 6 0 ≠ []) ∧
    (let s : State := { s2 0 0 with tops := [{ tile0 true with pins := List.range 300 }] }
     s.nextPin 0 = some (0, List.range 300, 0, 6) ∧ 256 < (s.pinned 0 ++ List.range 300).dedup.length) ∧
    (let s : State := { s2 0 0 with tops := [tile0 false], clk := 2 ^ 20 }
     s.occupies (tile0 false) = true ∧ (tile0 false).core = 0 ∧ (tile0 false).parked = none) ∧
    (∀ o ∈ [tile0 false], o.core = 0 → o.parked = none → ({ s2 0 0 with tops := [tile0 false] } : State).occupies o = true → 5 - o.at_ < 2 ^ 20) ∧
    ((s2 0 0).xlateRun 0 0 .load {} 0x10000000000000 (pagesOf 0x10000000000000 8)).2.isLeft = true ∧ (s2 0 0).svcQueue 0 = [] ∧
    (let s : State := { s2 0 0 with svc := [svc0], acc := [{ acc0 with svc := 2 }], rel := { State.reset.rel with poison := [homeG 0x2000 / 8] } }
     s.svcQueue 0 = [svc0] ∧ svcGroup svc0 [svc0] = [svc0] ∧ svc0.pkt = none ∧ svc0.access = some 7 ∧ 1 < ({ acc0 with svc := 2 } : Access).svc ∧
       s.poisoned svc0.addr (atomSize svc0.ty) = true ∧ ({ s with rel := State.reset.rel } : State).poisoned svc0.addr (atomSize svc0.ty) = false) := by
  and_intros <;> decide +kernel

/-- Records of every place of the pool of a handler depth. -/
def pool (part depth : Nat) : List Rec := (List.range 64).map (fun i => { rec0 0 .parked with id := i, idx := poolBase part depth + i })
/-- A Bar with `n` records on die 0. -/
def sfb (n : Nat) : State := { s2 0 0 with recs := (List.range n).map (fun i => { rec0 0 .parked with idx := i }) }

/-- No run of parts is free where each part is used. -/
theorem firstFree_none (used : List (Nat × Nat)) (lo hi n : Nat) (hn : 0 < n) (h : ∀ a, lo ≤ a → a < hi → (a, 1) ∈ used) :
    firstFree used lo hi n = none := by
  unfold firstFree fitsAt
  rw [List.min?_eq_none_iff, List.filter_eq_nil_iff]
  intro a _ hf
  simp only [Bool.and_eq_true, decide_eq_true_eq, List.all_eq_true, Bool.or_eq_true] at hf
  have hx := hf.2 (a, 1) (h a hf.1.1 (by omega))
  simp only at hx
  omega

/-- The records of `sfb` leave no place below `n`. -/
theorem sfb_full (n : Nat) : firstFree ((sfb n).usedParts 0) 0 n 1 = none :=
  firstFree_none _ _ _ _ Nat.one_pos (fun a _ h => List.mem_map.2 ⟨{ rec0 0 .parked with idx := a },
    List.mem_filter.2 ⟨List.mem_map.2 ⟨a, List.mem_range.2 h, rfl⟩, rfl⟩, rfl⟩)

theorem witness_TakingAFault_full : (sfb 64512).barPlace 0 0 0 1 = none := by
  unfold State.barPlace
  simp only [State.freePart, if_true, sfb_full 64512, Option.map_none]

theorem witness_TakingAFault_more :
    ({ t0 0 0 0 0 with depth := 3 } : Team).depth = 3 ∧ ({ s2 0 0 with recs := pool 0 1 } : State).barPlace 0 0 1 1 = none ∧
    (((s2 0 0).killTeam (t0 0 0 0 0)).barPlace 0 0 1 1).isSome = true ∧ ({ tb with st := .swapped } : Team).st = .swapped ∧
    (s2 0 0).saveVa 0 0 0 = none ∧
    firstFree (((s2 0 0).recs.filter (fun r => r.spill ≠ 0 && r.die == 0)).map (fun r => (r.imgva.toNat, r.spill))) 0 (2 ^ 24) (imageMax 32 32) = some 0 := by
  decide +kernel

/-- A peer's message that waits for a place in a fault bank. -/
def in0 (clk : Nat) : Packet × LaneMsg × Nat := (pk 6, .faultTask [0, 0, 0, 0, 9, 0, 0, 0] false 5, clk)

theorem witness_FaultAndDeckEvents_bank :
    ({ s2 0 0 with tasks := deck 4096 } : State).bankFree 0 16 = none ∧ ({ s2 0 0 with tasks := deck 4096 } : State).bankFree 1 16 = none :=
  ⟨deck_full _ 0 16 4096 (by decide) (by decide) (by decide) rfl, deck_full _ 1 16 4096 (by decide) (by decide) (by decide) rfl⟩

theorem witness_FaultAndDeckEvents_more :
    (let s : State := { s2 0 0 with pend := [{ pend0 with desc := [0x4001000000000000, 0x1000, 0, 0] }], recs := [recE], modl := { State.reset.modl with modules := [0, 1] } }
     s.recs.find? (fun (x : Rec) => x.id == 2) = some recE ∧ pend0.cls ≠ .unserviceable ∧ descPeer [0x4001000000000000, 0x1000, 0, 0] = some 1 ∧ 1 ≠ s.modl.modNo ∧
       1 ∈ s.modl.modules ∧ s.inTasks = []) ∧
    (let s : State := { s2 0 0 with inTasks := [in0 0], clk := 38001 }
     s.pend = [] ∧ s.inTasks[0]? = some (in0 0) ∧ 20 * Config.clkPerUs < s.clk - 0 ∧ ¬ (5 - 0 : Nat) > 20 * Config.clkPerUs ∧ (s.bankFree 0 16).isSome = true) ∧
    ((s2 0 0).dispatchFor 0 = none ∧ (s2 0 0).startable 0 = none) ∧
    (let y : Task := { task0 0 (.hand 0) with id := 2, level := 7, idx := 1 }
     let z : Task := { task0 0 (.hand 0) with id := 3, level := 6, idx := 2 }
     let s : State := { sk 0 .ready 0 with tasks := [task0 0 .ready, y, z], cores := [{ Core.init 0 with hand := [2, 3] }], modl := { State.reset.modl with cores := [0] } }
     s.dispatchFor 0 = some (task0 0 .ready) ∧ 2 ≤ (s.core 0).hand.length ∧ s.recallOf (task0 0 .ready) 0 = some 2 ∧ s.task 2 = some y) ∧
    ((sk 0 .ready 0).taskLate (task0 0 .ready) = false ∧ (sk 0 .ready 0).task 1 = some (task0 0 .ready)) ∧
    (let s : State := { s2 0 0 with recs := [{ recE with st := .report }], clk := 3800 }
     s.recs.find? (fun (x : Rec) => x.id == 2) = some { recE with st := .report } ∧ 1 ≤ s.usec) ∧ ¬ (0 : Nat) ≥ recE.deadline ∧
    tb.pdOut 0 = false ∧ ({ t0 0 0 0 0 with pdis := true } : Team).pdOut 0 = true ∧
    ({ sbar with clk := 0 } : State).barLate { bar0 with arrived := [], start := some 0 } = false ∧ (s2 0 0).stale 0 = false ∧
    (let s : State := { sk 0 .ready (2 ^ 40) with cur := none }
     s.stale 0 = true ∧ (s.ctxsOf 0).filter s.resident = [] ∧ (s.ctxsOf 0).filter s.queuedWork = [0] ∧ (s.ctx 0).rst = 0) ∧
    (let s : State := { s2 0 0 with acc := [accS], ctxs := [{ Ctx.init 0 with rst := 3 }] }
     (s.rstSettle 0).rstSettled 0 = false) := by
  and_intros <;> decide +kernel

theorem witness_ControlRegisterEvents_more :
    (let s : State := { s2 0 0 with ctxs := [{ Ctx.init 3 with ctl := 0x1FFFFF }] }
     okTo (s.setCtl false 3 (setFld (s.ctx 3).ctl 63 63 1)) (fun _ => true) = false ∧ okTo (s.setCtl false 3 (setFld (s.ctx 3).ctl 63 63 0)) (fun _ => true) = false) ∧
    (let s : State := { sp 1 with parts := (sp 1).parts.set 1 { Part.init with ctl := 0x8000000000000001 } }
     okTo (s.setPart 0 0 (setFld (s.part 0).ctl 63 63 1)) (fun _ => true) = false) ∧
    (let s : State := sp 0xB000000000000001
     okTo (s.setPart 0 0 (setFld (s.part 0).ctl 63 63 0)) (fun _ => true) = false) ∧
    (s2 0 0).group 5 = none ∧ 1024 < fld (0x7FF0000000000000 : Dw) 62 52 ∧ 500 < fld (501 : Dw) 8 0 ∧
    (let d : List Dw := [0x0902000000000000]
     let s : State := { sq 0 [] with lqs := [{ lq0 with cur := some (0x800, d), state := 1 }] }
     s.lq 0 0 = some { lq0 with cur := some (0x800, d), state := 1 } ∧ s.pktReady { lq0 with cur := some (0x800, d), state := 1 } d = true ∧ pktType d = 9 ∧ lq0.sigs = [] ∧ lq0.acks = []) ∧
    (let d : List Dw := [0x0902000100000000]
     let x : LaunchQ := { lq0 with cur := some (0x800, d), state := 1, launched := [1] }
     let l : Launch := { id := 1, ctx := 0, dws := pkw 1 13 0 (List.replicate 12 0), parents := [], arrival := 0, resv := [], ended := [], kAlloc := [] }
     let s : State := { sq 0 [] with lqs := [x], launches := [l] }
     s.pktReady x d = false) := by
  and_intros <;> decide +kernel

theorem witness_FrontEndEvents_more :
    2 ≤ ({ lq0 with state := 3 } : LaunchQ).state ∧ lq0.closing = false ∧ ({ lq0 with closing := true } : LaunchQ).closing = true ∧
    3 ≤ ({ lq0 with frames := [fr0, fr0, fr0] } : LaunchQ).frames.length ∧ ((sl []).feRead 0 0x10000000000000).2 = none ∧ ((sl []).feWrite 0 0x10000000000000 1).2 = none ∧
    ({ fr0 with body := [(0x1100, [])] } : Frame).body ≠ [] ∧ ({ lq0 with reread := 1 } : LaunchQ).reread ≠ 0 ∧ (sq 0 []).rereadDue lq0 = false ∧
    (sq 0 []).headLaunch 0 = none ∧ pktType (pkw 6 3 0 [0x1000, 5]) = 6 ∧ pktType (pkw 4 2 1 [2]) = 4 ∧ ({ lq0 with state := 0 } : LaunchQ).state = 0 ∧
    ({ lq0 with acks := [1] } : LaunchQ).acks.isEmpty = false := by
  decide +kernel

/-- An access of team 0 that asked for a line of module 1. -/
def accR (l : Bool) : Access := { acc0 with load := l, reqs := [], rem := [{ rid := 0, peer := some 1, addr := 0, lanes := [(0, 0, 8)] }] }

theorem witness_FabricEvents_more :
    (let s := sf1 (Peer.init 1)
     let q (k : BitVec 5) : Packet := { pk k with psn := 1, so := true }
     ((q 0).psn - ((s.peer 1).rx false).base).toNat ≤ 255 ∧ (q 0).psn ≠ ((s.peer 1).rx false).base ∧ s.fit (q 2) 2 = true ∧ s.refuses (q 3) = false ∧
       (psnBelow (q 0).psn ((s.peer 1).rx false).base || ((s.peer 1).rx false).got.contains 1) = false ∧ s.standing (q 2) = false) ∧
    (let s : State := { sf1 (Peer.init 1) with parts := (List.replicate 8 Part.init).set 1 { Part.init with ctl := 0xC000000000000002, mem := 0x1000000 } }
     s.refuses (pk 0) = true ∧ s.fit (pk 0) 0 = true) ∧
    (let s : State := { sf1 (Peer.init 1) with acc := [accR true] }
     s.accOf 0 = some (accR true) ∧ s.acc.find? (fun (x : Access) => x.id == (accR true).id) = some (accR true) ∧ (pk 1).silent = false ∧ (pk 4).refused = false ∧ (accR true).load = true) ∧
    (let s : State := { sf1 (Peer.init 1) with pfs := [pf0 none] }
     s.accOf 0 = none ∧ s.pfs.find? (fun (x : PfReq) => x.slot.isNone && x.rid == 0) = some (pf0 none)) ∧
    (sf1 (Peer.init 1)).pfs.find? (fun (x : PfReq) => x.slot.isNone && x.rid == 0) = none ∧
    (let s : State := { sf1 { Peer.init 1 with flight := [fl0 2] } with acc := [accR false] }
     s.fit (pk 5) 5 = true ∧ (s.peer 1).flight = [fl0 2] ∧ acked { pk 5 with psn := 1 } (fl0 2).p = true ∧ s.accOf (fl0 2).p.rid = some (accR false) ∧ (accR false).load = false) ∧
    (let s : State := { sf1 (Peer.init 1) with recs := [rec0 0 .parked, { rec0 5 .parked with idx := 1, part := 1 }], ctxs := (spv 2).ctxs, parts := (spv 2).parts }
     s.recOf (s.handle (rec0 0 .parked)) = some (rec0 0 .parked) ∧ s.outside (pk 6) (rec0 0 .parked) = false ∧ (0 : Dw) ≠ s.handle (rec0 0 .parked) ∧
       s.outside (pk 6) { rec0 5 .parked with idx := 1, part := 1 } = true ∧ s.sealedCtx (taskCtx [0, 0, 0, 0, 9]) = false ∧ (s.ctx (taskCtx [0, 0, 0, 0, 9])).en = true) ∧
    ((s2 0 0).ctx 7).en = false ∧ ((s2 0 0).ctx 7).rst = 0 ∧
    (let s : State := { s2 0 0 with recs := [recE], pend := [{ pend0 with desc := [0x4001000000000000, 0x1000, 0, 0], sent := some 0 }] }
     (s.recOf (s.handle recE)).isSome = true ∧ (s.pend.find? (fun (y : PendTask) => y.bar == recE.id && y.sent.isSome && descPeer y.desc == some 1)).isSome = true) ∧
    (let t : Team := { t0 0 0 0 0 with st := .wait (.lane 3 5 true) }
     let s : State := { st t g0 with laneReqs := [{ rid := 3, team := 0, peer := 1, since := 0, msg := .reply 0 0 0 }] }
     (s.laneReqs.find? (fun (y : LaneReq) => y.peer == 1 && BitVec.ofNat 32 y.rid == 3)).isSome = true ∧ s.team 0 = some t ∧ t.isEnded = false ∧ (0 : Nat) ≠ enclaveStatus) ∧
    bits ({ pk 7 with rid := 20 } : Packet).rid.toNat 8 0 ≠ 0 ∧ ({ Peer.init 1 with annFirst := 1 } : Peer).annFirst ≠ 0 ∧ (Peer.init 1).annFirst = 0 ∧
    ((sf1 (Peer.init 1)).peer 1).annUntil = 0 ∧ (((sf1 (Peer.init 1)).peer 1).rx false).arrivals = 0 ∧
    (let s : State := { sf1 { Peer.init 1 with rxO := { RxLane.init with arrivals := 1, parts := [0] } } with clk := 1900 }
     ((s.peer 1).rx false).arrivals ≠ 0 ∧ Config.clkPerUs ≤ s.clk - ((s.peer 1).rx false).firstArr ∧ 0 ∈ ((s.peer 1).rx false).parts ∧ 0 < s.parts.length) ∧
    (sf1 (Peer.init 1)).silent 1 = false ∧ (∀ f ∈ [fl0 0], 5 - f.sent < 20 * Config.clkPerUs) ∧
    (let s : State := { sf1 { Peer.init 1 with flight := [fl0 0] } with clk := 9500000, acc := [accR true] }
     s.laneReqs = [] ∧ s.pend = [] ∧ s.silent 1 = true ∧ (s.peer 1).flight = [fl0 0] ∧ (s.peer 1).que = [] ∧ s.accOf (fl0 0).p.rid = some (accR true)) ∧
    ({ s2 0 0 with rel := { State.reset.rel with fenced := [(5, 3)] } } : State).rel.fenced.contains (5, 3) = true := by
  and_intros <;> decide +kernel

/-- A work entry that reads 8 bytes to 2000. -/
def work1 : List Dw := [0x1000000000000008, 0x2000, 0, 0, 0, 0, 0, 0]

theorem witness_HostAndReliabilityEvents_more :
    ({ s2 0 0 with modl := { State.reset.modl with stage := 2 } } : State).modl.stage < 8 ∧ (s2 0 0).hostReach 0x1000000000000 = false ∧
    (s2 0 0).qpEntry 0 = none ∧ ((so [{ qp0 with work := [] }] 0).qpPosted 0).2 = false ∧ ((so [qp0] 0).qp 0).work = [(4, 0, work0)] ∧
    ((so [{ qp0 with wp := 127 }] 0).qpRoom e0 { qp0 with wp := 127 }).2 = false ∧ ((so [{ qp0 with work := [] }] 0).qp 0).work = [] ∧
    fld (work1.getD 0 0) 63 60 = 1 ∧ fld (work1.getD 0 0) 31 0 = 8 ∧
    (let s : State := so [{ qp0 with wp := 127 }] 0
     (s.qpRoom e0 (s.qp 0)).2 = false ∧ flag (work0.getD 0 0) 59 = false ∧ fld (work0.getD 0 0) 63 60 ≠ 1 ∧
       gives (((s.qpRoom e0 (s.qp 0)).1.qpDrop 0 4).engRead 0 0 0x2000 8) (fun x => x == [0, 0, 0, 0, 0, 0, 0, 0]) = true) ∧
    (((so [qp0] 0).qpDrop 0 4).engRead 0 0 0x1000000000 8).2.isLeft = true ∧
    (((so [qp0] 0).qpDrop 0 4).engWrite 0 0 0x2000 (List.replicate 8 1)).2 = none ∧ (((so [qp0] 0).qpDrop 0 4).engWrite 0 0 0x1000000000 (List.replicate 8 1)).2.isSome = true ∧
    ((so [qp0] 5).clk - 0 < 100 * clkPerMs) ∧ (so [] 0).qpBad [0xC000000000006000, 0x7000, 0, 0] = true ∧ (s2 0 0).scrubbed 0x1000000000000 = false ∧
    (let s : State := st (t0 0 0 0 0) gq
     s.scrubbed (homeQ 0 0 1 8) = true ∧ homeQ 0 0 1 8 / 2 ^ 80 = 9) ∧ ¬ homeC 0 0 / 2 ^ 80 = 9 ∧ (s2 0 0).clk / 2 ^ 32 ≤ (s2 0 0).rel.halved ∧
    ((s2 0 0).group 5 = none ∧ (s2 0 0).vacating 0 = false) ∧ (s2 0 0).rel.tests.find? (fun (x : UnitTest) => x.id == 2) = none ∧
    ((ut 1 0).stage = 1 ∧ (su (ut 0 0) 5).clk - 0 < 10 * clkPerMs ∧ ({ su (ut 0 0) 0 with groups := [{ g0 with core := 3 }] } : State).vacated 3 = false) ∧
    ((s2 0 0).core 0).trace.recs = [] := by
  and_intros <;> decide +kernel

theorem witness_HostAndReliabilityEvents_scrub :
    (let u : UnitTest := { id := 2, ukind := 3, unum := 7, stage := 0, since := 0 }
     (su u 5).rel.tests.find? (fun (x : UnitTest) => x.id == 2) = some u ∧ u.ukind = 3 ∧ (su u 5).clk - u.since < 2 ^ 32) := by
  decide +kernel

/-- The team in a clause of a header of its own, with some instructions left. -/
def tcl (h : Wd) (n : Nat) : Team := { t0 0 0 0 0 with clause := some { hdr := h, words := [0x08000000], left := n } }

theorem witness_IllegalWordParks_more : engineOf (.br (.short 4)) = some 5 ∧ (tcl 0xA07FFF91 1).inClass 5 = false ∧
    isTransfer (.br (.short 4)) = true ∧ (tcl 0xA07FFFD1 2).inClass 5 = true ∧ (tcl 0xA07FFFD1 2).atLast = false ∧
    engineOf (.accz 1) = some 3 ∧ (tcl 0xA07FFFB1 1).inClass 3 = true ∧ 192 ≤ ((st (tcl 0xA07FFFB1 1) { g0 with core := 192 }).groupOf (tcl 0xA07FFFB1 1)).core ∧
    (∀ t ∈ [tcl 0xA07FFF91 1, tcl 0xA07FFFD1 2, tcl 0xA07FFFB1 1], (st t g0).agenda = [] ∧ (st t g0).curTeam = some t ∧ (st t g0).budgetEvent t = none) := by
  decide +kernel

theorem witness_PredicateLanes_more : (∀ ds, Ready (s2 0 0) (t0 0 0 0 0) 1 ds) ∧ (8 : PReg).toNat + (7 : BitVec 3).toNat + 1 ≤ 16 ∧
    (t0 0 0 0 0).has [31] ∧ ccOk .lt .i32 = true ∧ ccOk .un .f32 = true ∧ mskNoZ none = true ∧
    (t0 0 0 0 0).has (1 :: (cmpRegs (.vec 2)).2) ∧ (t0 0 0 0 0).regs.fpctl.getLsbD 8 = false :=
  ⟨fun ds => ready0 _ _ _ _ _ ds, by decide +kernel, has0 _ _ _ _ _ (by decide +kernel), rfl, rfl, rfl, has0 _ _ _ _ _ (by decide +kernel), by decide +kernel⟩

theorem witness_SpecialRegisterMoves_more : 64 * 0 < (t0 5 0 0 0).width ∧ (t0 5 0 0 0).width ≤ 64 * 1 ∧ (1 : Nat) < 16 := by decide +kernel

theorem witness_FloatTrapParks_more : tnv.regs.fpctl.getLsbD (8 + 0) = true ∧ (∀ tb : Bool, tnv.has [3, 1, 2] ∧
    ((fLane 32 (on2 (fDiv fF32 (tnv.modeN none))) [(tnv.v 1).lane 0, (tnv.v 2).lane 0]).2.any (fun x => x.testBit 0) = true ∧
      (fLane 16 (on2 (fDiv (packedFmt tb) (tnv.modeN none))) [(tnv.v 1).lane 0, (tnv.v 2).lane 0]).2.any (fun x => x.testBit 0) = true) ∧
    (tnv.active none).getLsbD 0 = true) :=
  ⟨by decide +kernel, fun tb => ⟨by unfold Team.has; decide +kernel, by cases tb <;> decide +kernel, by decide +kernel⟩⟩

/-- The team with a stack limit, or an overflow window. -/
def tsl (x : Wd) (n : Nat) : Team := { t0 0 0 0 0 with regs := { r0 0 0 0 0 with slim := x }, ovLen := n, ovBase := 0x100000 }

theorem witness_AddressesAndTranslation_more :
    ({ oLd with size := 3 } : AccOpt).badSize = false ∧ ({ oLd with align := true } : AccOpt).align = true ∧ (2 : Dw).toNat % 4 ≠ 0 ∧
    (let t := tsl 0xC000 0
     ((st t g0).groupOf t).sSize + 2 ^ 32 - t.regs.slim.toNat % 2 ^ 32 < ((st t g0).groupOf t).sSize + 2 ^ 32 - (0x8000 : Nat) % 2 ^ 32) ∧
    (let t := tsl 0 65536
     t.ovLen ≠ 0 ∧ 2 ^ 32 - t.ovLen ≤ 2 ^ 32 - 4 ∧ (2 ^ 32 - 4 : Nat) % 4 = 0) ∧ (tsl 0 0).ovLen = 0 ∧
    (4 : Nat) + oLd.size ≤ ((s2 0 0).groupOf (t0 0 0 0 0)).sSize ∧ ¬ (65536 : Nat) + oLd.size ≤ ((s2 0 0).groupOf (t0 0 0 0 0)).sSize ∧
    (sv (t0 0 0 0 0) []).inH 0 65532 = true ∧ (s2 0 0).inH 0 65532 = false ∧ ¬ 2 ^ 29 + oLd.size ≤ 2 ^ 29 := by
  decide +kernel

theorem witness_VectorLoads_delivers : (t0 0 0 0 0).has [4] ∧ (t0 0 0 0 0).has [5] ∧ (31 : Nat) < (t0 0 0 0 0).width ∧ (t0 0 0 0 0).width ≤ 1024 ∧
    (∀ r, ((t0 0 0 0 0).v r).fits (t0 0 0 0 0).width) ∧ aC.sp ≠ .G ∧ (t0 0 0 0 0).ovLen = 0 :=
  ⟨has0 _ _ _ _ _ (by decide +kernel), has0 _ _ _ _ _ (by decide +kernel), by decide +kernel, by decide +kernel, fits0 0 0 0 0, by decide, rfl⟩

/-- A store of team 0 to the host, and one to module 1, that have not been performed. -/
def accH : Access := { accS with id := 3, rem := [{ rid := 1, peer := none, addr := 0x80, lanes := [(0, 0, 8)] }] }

theorem witness_FencesAndWaits_flush :
    (let s : State := { s2 0 0 with hostOut := [(0x80, [some 1])] }
     s.hostSeen < s.hostOut.length ∧ ({ s with hostSeen := 1 } : State).hostOut.length ≤ ({ s with hostSeen := 1 } : State).hostSeen) ∧
    (let t : Team := { t0 0 0 0 0 with after := [3] }
     ({ st t g0 with acc := [accH] } : State).afterBar t ≠ [] ∧ ({ st t g0 with acc := [] } : State).afterBar t = []) ∧ (1 : BitVec 2) ≠ 0 := by
  decide +kernel

theorem witness_MatrixInstructions_ovx :
    (let s : State := { st (t0 0 0 0 0) gq with tops := [tile0 false], uid := 9 }
     s.tops.any (fun o => o.names 0 1 && o.id < (t0 0 0 0 0).ovx.getD s.uid) = true ∧
       s.tops.any (fun o => o.names 0 1 && o.id < ({ t0 0 0 0 0 with ovx := some 6 } : Team).ovx.getD s.uid) = false) ∧
    (∀ pins : List Nat, pins = List.range 300 → (st (t0 0 0 0 0) gq).pinFits 0 pins = false) ∧ ({ t0 0 0 0 0 with pinHeld := [3] } : Team).pinHeld ≠ [] := by
  refine ⟨by decide +kernel, ?_, by decide⟩
  rintro _ rfl
  decide +kernel

/-- A team of another key, parked in a record whose image stands in the spill space, and that record. -/
def tpk : Team := { tb with key := 1, tid := 1, st := .parked 0, regs := { r0 0 0 0 0 with v := [] } }
def recS : Rec :=
  { rec0 0 .parked with id := 0, kind := .team, rimg := false, spill := imageMax 32 0, team := 1, tid := 1, tuid := some tpk.uid, imgva := 0 }
/-- The image: version 1, WIDTH 32, no vector register, PC 10000. -/
def imgB : List Host.Cell := Mem.writeN (Mem.writeN [] (homeB 0 0) (leBytes 8 0x10000)) (homeB 0 0xBE0) (leBytes 8 0x10000)
/-- The handler team with arguments. -/
def thx (b c : Dw) : Team := { th with regs := r0 1 b c 0 }
/-- The machine with the handler, a record, the parked team and its image. -/
def shs (t : Team) (r : Rec) : State :=
  { st t g0 with recs := [r], teams := [t, tpk], mem := imgB, tops := [{ tile0 false with parked := some 0 }], asy := [{ asy0 with segs := [{ seg0 with parked := some 0 }] }] }

theorem readyH (b c : Dw) (r : Rec) (ds : List Dest) : Ready (shs (thx b c) r) (thx b c) 5 ds := by
  refine ⟨?_, by simp [Team.inClass, thx, th, t0, bits], rfl, rfl, fun a h => nomatch h⟩
  simp [State.curTeam, State.team, shs, st, thx, th, t0]

theorem witness_HandlerInstructions_atBar : AtBar (shs (thx 0 0) recS) (thx 0 0) 1 recS ∧ (thx 0 0).s 1 = 1 ∧
    (∀ b c ds, Ready (shs (thx b c) recS) (thx b c) 5 ds) ∧ sgroupOk 3 2 = true ∧ sgroupOk 1 2 = true ∧
    (∀ p ∈ [(9, 0), (9, 4), (0, 2), (0, 6)], (thx (BitVec.ofNat 64 (p.1 * 2 ^ 60 + p.2 * 2 ^ 32)) 0).s (1 + 1) = BitVec.ofNat 64 (p.1 * 2 ^ 60 + p.2 * 2 ^ 32)) ∧
    (thx 0x300000000 0).s 2 = 0x300000000 ∧ fld ((thx 0 0).s 3) 43 0 = 0 ∧ (shs (thx 0 5000) recS).usec < fld ((thx 0 5000).s 3) 43 0 ∧
    (shs (thx 0 0) recS).settled 0 = true ∧ recS.st ≠ .report ∧ (shs (thx 0 0) recS).membersOfRec recS = [] ∧
    fld ((thx 0 0x20000).s 3) 1 0 = 0 ∧ fld ((thx 0 0x20000).s 3) 63 52 = 0 := by
  refine ⟨⟨rfl, rfl, by decide +kernel, by decide +kernel, by decide +kernel, by decide +kernel⟩, by decide +kernel, fun b c ds => readyH b c _ ds, by decide +kernel⟩

theorem witness_HandlerInstructions_spilled :
    let bs := Mem.readN imgB (homeB 0 0) (imageMax 32 0)
    (shs (thx 0 0) recS).team recS.team = some tpk ∧ some tpk.uid = recS.tuid ∧ tpk.st = .parked recS.id ∧
      (match tpk.restore bs 0 with
       | some u => u.owed == [] && !u.owedAll && decide (max u.gChunks u.resv ≤ (shs (thx 0 0) recS).freeChunks 0 + (shs (thx 0 0) recS).held tpk)
       | none => false) = true := by
  decide +kernel

/-- The handler with the handle of a record in s(1). -/
def thh (r : Rec) : Team := { th with regs := r0 ((s2 0 0).handle r) 0 0 0 }

theorem witness_HandlerInstructions_engines :
    (let x : TileOp := { tile0 false with parked := some 0 }
     let r : Rec := { recS with kind := .tile (tile0 false) }
     AtBar (shs (thh r) r) (thh r) ((thh r).s 1) r ∧ (shs (thh r) r).tileOp 6 = some x ∧ x.parked = some r.id ∧ (shs (thh r) r).retryOk x = true) ∧
    (let r : Rec := { recS with kind := .seg asy0 seg0 }
     AtBar (shs (thh r) r) (thh r) ((thh r).s 1) r ∧ (shs (thh r) r).asyOp 5 = some { asy0 with segs := [{ seg0 with parked := some 0 }] }) := by
  and_intros <;> decide +kernel

theorem witness_SchedulingEvents_flush :
    (let t := twait (.flush 1)
     let s : State := { ss t [] with hostOut := [(0x80, [some 1])], clk := 100000 }
     s.team 0 = some t ∧ t.st = .wait (.flush 1)) ∧
    (let s : State := { ss (twait (.fabric 1)) [] with acc := [{ accA with await := true }] }
     s.met (twait (.fabric 1)) (.fabric 1) = true ∧ s.acquiring 0 ≠ []) ∧
    (ss (twait (.fabric 1)) []).acquiring 0 = [] ∧ (twait (.waitaPeer 1 8)).st = .wait (.waitaPeer 1 8) := by
  decide +kernel

theorem witness_EngineEvents_windows :
    (let s : State := { sv (t0 0 0 0 0) [] with asy := [coll0], acc := [accA], svc := [{ svcA with addr := homeG 0x2000 }] }
     coll0.own = none ∧ gives (s.xlateRun 0 0 .load {} 0x2000 (pagesOf 0x2000 32)) (fun ps => s.behind 0 5 (piecesOf ps 0x2000 32)) = true) ∧
    gives (sco.xlateRun 0 0 .load {} 0x2000 (pagesOf 0x2000 32)) (fun ps => !sco.behind 0 5 (piecesOf ps 0x2000 32) && (sco.badRun ps 0x2000 32).isEmpty) = true ∧
    (let s : State := { sco with rel := { State.reset.rel with poison := [homeG 0x2000 / 8] } }
     gives (s.xlateRun 0 0 .load {} 0x2000 (pagesOf 0x2000 32)) (fun ps => !(s.badRun ps 0x2000 32).isEmpty) = true) ∧
    ({ coll0 with own := some [1] } : AsyncOp).own.isSome = true ∧
    gives (sco.xlateRun 0 0 .store {} 0x3000 (pagesOf 0x3000 32)) (fun pd => pd.all (fun p => p.ap == 0)) = true ∧
    (sco.xlateRun 0 0 .store {} 0x10000000000000 (pagesOf 0x10000000000000 8)).2.isLeft = true ∧
    (let c : List Dw := [0x1000030000000000, 0x2000, 0x3000, 8, 0x1000, 0, 0, 0]
     fld (c.getD 0 0) 48 40 ≠ 0 ∧ fld ((c.set 0 0x0000030000000000).getD 0 0) 63 60 = 0) ∧
    (∀ o ∈ [coll0], o.cls = 3 ∧ o.fills = [] ∧ ∀ sg ∈ o.segs, sg.parked = none ∧ sg.fail = none ∧ sg.acks = [] ∧ sg.len ≠ 0) := by
  decide +kernel

theorem witness_FaultAndDeckEvents_freeze :
    ((rec0 0 .parked).entry = none ∧ ({ rec0 0 .parked with fault := mkF .deadlineExpired .none 0 0 } : Rec).fault.cls = .deadlineExpired ∧
      (rec0 0 .parked).fault.cls ≠ .watchdog ∧ (rec0 0 .parked).fault.cls ≠ .stalemate ∧ (rec0 0 .parked).fault.cls ≠ .deadlineExpired) ∧
    (let s : State := { State.reset with ctxs := [{ Ctx.init 0 with rst := 1, frozen := some .watchdog }] }
     (s.ctx 0).rst = 1) ∧
    ({ rec0 0 .parked with st := .member } : Rec).st = .member ∧ descPeer desc0 = none ∧ ({ pend0 with cls := .unserviceable } : PendTask).cls = .unserviceable := by
  decide +kernel

theorem witness_ControlRegisterEvents_acks :
    (let x : LaunchQ := { lq0 with acks := [1] }
     ({ sq 0 [] with lqs := [x] } : State).lq 0 0 = some x ∧ x.acks ≠ []) ∧
    ((sq 0 []).ctx 0).priv ≠ 3 ∧ (sq 0 []).kidBad (setFld ((sq 0 []).ctx 0).ctl 63 63 0) = false ∧
    (2 ≤ ({ lq0 with state := 3 } : LaunchQ).state ∨ lq0.cur = none) := by
  decide +kernel

theorem witness_FrontEndEvents_posted :
    (let d := pkw 9 2 0 [0]
     let d1 := d.set 0 ((d.getD 0 0) ||| 0x100000000)
     let l : Launch := { id := 1, ctx := 0, dws := pkw 1 13 0 (List.replicate 12 0), parents := [], arrival := 0, resv := [], ended := [], kAlloc := [] }
     let x : LaunchQ := { lqp d1 with launched := [1] }
     let s : State := { sl d1 with lqs := [x], launches := [l] }
     s.lq 0 0 = some x ∧ x.cur = some (0x800, d1) ∧ x.state < 2 ∧ (s.handPosted 0 0).lq 0 0 = some x ∧ pktType d1 = 9 ∧ (s.handPosted 0 0).pktReady x d1 = false) ∧
    (let d := pkw 9 2 0 [0]
     ((sl d).handPosted 0 0).lq 0 0 = some (lqp d) ∧ (lqp d).closing = false ∧ (lqp d).cur = some (0x800, d) ∧ ((sl d).handPosted 0 0).pktReady (lqp d) d = true) ∧
    (2 ≤ ({ lqp [] with state := 3 } : LaunchQ).state) ∧ (∀ k ∈ [2, 3, 4, 5, 6, 7, 9, 10], pktType (pkw 1 13 0 []) ≠ k) := by
  decide +kernel

theorem witness_FabricEvents_stage :
    ({ sf1 (Peer.init 1) with modl := { State.reset.modl with stage := 7 } } : State).modl.stage < 8 ∧ 8 ≤ (sf1 (Peer.init 1)).modl.stage ∧
    (let s := sf1 { Peer.init 1 with rxO := { RxLane.init with held := [{ pk 2 with psn := 3, so := true }] } }
     s.standing { pk 2 with psn := 3, so := true } = true) ∧
    (let s : State := { sf1 (Peer.init 1) with modl := { State.reset.modl with planes := [] } }
     s.modl.planes = []) ∧ (sf1 (Peer.init 1)).modl.planes ≠ [] ∧
    (let x : PendTask := { pend0 with desc := [0x4001000000000000, 0x1000, 0, 0], sent := some 0 }
     let s : State := { sf1 (Peer.init 1) with recs := [recE], pend := [x], clk := 9500000 }
     descPeer x.desc = some 1 ∧ x.sent = some 0 ∧ s.outOfTime 1 0 = true ∧ ({ s with clk := 0 } : State).outOfTime 1 0 = false ∧
       s.silent 1 = false ∧ s.recs.find? (fun (y : Rec) => y.id == x.bar) = some recE) ∧
    (let p : Peer := { Peer.init 1 with annUntil := 5, annFirst := 1 }
     ((sf1 p).peer 1).annUntil ≠ 0 ∧ bits (pk 7).rid.toNat 8 0 = 0) ∧ (pk 2).coll = false := by
  decide +kernel

/-- A sealed partition whose package 1 the host must not reach. -/
def ssh : State := { sv (t0 0 0 0 0) [] with parts := (List.replicate 8 Part.init).set 1 { Part.init with ctl := 0xC000000000000002, mem := 0x2000000 } }
/-- A copy of the configuration record. -/
def br0 : BootRecord := { seq := 1, sigOk := true, certOk := true, modNo := 0, domNo := 0, cores := [0], packages := [0], modules := [0] }

theorem witness_HostAndReliabilityEvents_link :
    (let s := ssh
     s.hostShut 0x1000000000 = true ∧ s.hostShut 0 = false ∧ (s2 0 0).hostShut 0 = false) ∧
    (let m : RdmaMsg := { qp := 0, op := 1, va := 0x2000, data := [0] }
     fromEnd e0 m = true ∧ fromEnd e0 { m with rqp := 5 } = false ∧ (so [] 0).modl.soPorts ≠ [] ∧
       gives ((so [] 0).engRead 0 (qpCtx e0) 0x2000 1) (fun bs => bs.length == 1) = true ∧
       ((so [] 0).engRead 0 (qpCtx e0) 0x1000000000 1).2.isLeft = true ∧ ((so [] 0).qpRoom e0 ((so [] 0).qp 0)).2 = true) ∧
    ((ut 0 0).way < 15 ∧ ¬ 15 ≤ (ut 0 0).way ∧ ({ ut 2 0 with ukind := 4 } : UnitTest).ukind = 4 ∧
      (su { ut 2 0 with ukind := 4 } 0).testCore { ut 2 0 with ukind := 4 } = none) ∧
    (let c : BootConfig := { copyA := true, copyB := false, records := [br0], packages := [0], planes := [0] }
     (c.copyA || c.copyB) = true ∧ (∀ r ∈ c.records, r = br0) ∧ (∀ r ∈ [{ br0 with sigOk := false }], r.sigOk = false) ∧
       ({ br0 with certOk := false } : BootRecord).certOk = false ∧ (∀ x ∈ br0.fences, x.2.2 = true)) := by
  decide +kernel

/-! ### What instructions do: one step of the meaning on a small state; expected values from the rules named -/

/-- The answer is a next state that meets a test. -/
def after (o : Host.Outcome State Fault Refusal) (f : State → Bool) : Bool :=
  match o with
  | .next s => f s
  | _ => false
/-- A scalar register of the team. -/
def sr (n : SReg) (x : Dw) (s : State) : Bool := (s.team 0).any (fun t => t.s n == x)
/-- A test of the team. -/
def tm (f : Team → Bool) (s : State) : Bool := (s.team 0).any f
/-- The team has parked or is parking with a class. -/
def faults (c : FaultClass) (s : State) : Bool :=
  tm (fun t => match t.st with
    | .parked _ => s.recs.any (fun r => r.fault.cls == c)
    | .parking f => f.cls == c
    | _ => false) s
/-- The machine with a team in issue that has a save area. -/
def sx (t : Team) (g : Group) : State := { ss t [] with cur := some 0, groups := [g] }
/-- The machine with values of v1 and v2. -/
def s3 (x y : VVal) : State :=
  st { t0 8 0 0 0 with regs := { r0 8 0 0 0 with v := .u 0 :: x :: y :: List.replicate 29 (.u 0) } } g0
/-- The lane of a vector register. -/
def ln (d : VReg) (l : Nat) (x : Wd) (s : State) : Bool := tm (fun t => (t.v d).lane l == x) s

theorem test_add_wraps : after (exec (.add 3 1 2) (s2 (-1) 1)) (sr 3 0) = true := by decide +kernel -- R255
theorem test_add_to_s0 : after (exec (.add 0 1 2) (s2 5 1)) (sr 0 0) = true := by decide +kernel -- R69
theorem test_sub_same : after (exec (.sub 1 1 2) (s2 3 5)) (sr 1 (-2)) = true := by decide +kernel -- R255
theorem test_mulhs : after (exec (.mulhs 3 1 2) (s2 (-1) 2)) (sr 3 (-1)) = true := by decide +kernel
theorem test_mulhu : after (exec (.mulhu 3 1 2) (s2 (-1) 2)) (sr 3 1) = true := by decide +kernel
theorem test_div_zero : after (exec (.div 3 1 2) (s2 7 0)) (sr 3 (-1)) = true := by decide +kernel
theorem test_rem_sign : after (exec (.rem 3 1 2) (s2 (-7) 2)) (sr 3 (-1)) = true := by decide +kernel
theorem test_remu_zero : after (exec (.remu 3 1 2) (s2 7 0)) (sr 3 7) = true := by decide +kernel
theorem test_shl_mod64 : after (exec (.shl 3 1 2) (s2 1 65)) (sr 3 2) = true := by decide +kernel
theorem test_sar : after (exec (.sar 3 1 2) (s2 (-4) 1)) (sr 3 (-2)) = true := by decide +kernel
theorem test_rol : after (exec (.rol 3 1 2) (s2 0x8000000000000001 1)) (sr 3 3) = true := by decide +kernel
theorem test_min_signed : after (exec (.min 3 1 2) (s2 (-1) 1)) (sr 3 (-1)) = true := by decide +kernel
theorem test_minu : after (exec (.minu 3 1 2) (s2 (-1) 1)) (sr 3 1) = true := by decide +kernel
theorem test_slt : after (exec (.slt 3 1 2) (s2 (-1) 1)) (sr 3 1) = true := by decide +kernel
theorem test_sltu : after (exec (.sltu 3 1 2) (s2 (-1) 1)) (sr 3 0) = true := by decide +kernel
theorem test_clz_zero : after (exec (.clz 3 1) (s2 0 0)) (sr 3 64) = true := by decide +kernel
theorem test_popc : after (exec (.popc 3 1) (s2 0xFF00000000000001 0)) (sr 3 9) = true := by decide +kernel
theorem test_addi_sext : after (exec (.addi 3 1 (.short 0xFF)) (s2 5 0)) (sr 3 4) = true := by decide +kernel -- R256
theorem test_sari : after (exec (.sari 3 1 63) (s2 (-1) 0)) (sr 3 (-1)) = true := by decide +kernel
theorem test_li_long : after (exec (.li 3 (.long 0x80000000)) (s2 0 0)) (sr 3 0xFFFFFFFF80000000) = true := by decide +kernel
theorem test_lih : after (exec (.lih 3 1 (.long 0x12345678)) (s2 9 0)) (sr 3 0x1234567800000009) = true := by decide +kernel
theorem test_srrd_exec : after (exec (.srrd 3 0x20) (s2 9 0)) (sr 3 0xFFFFFFFF) = true := by decide +kernel -- R257, Table 2-2
theorem test_mnot : after (exec (.mnot 0) (s2 0 0)) (tm (fun t => t.regs.exec == 0)) = true := by decide +kernel -- R260
theorem test_mcnt : after (exec (.mcnt 3 0) (s2 0 0)) (sr 3 32) = true := by decide +kernel
theorem test_pcmp_signed : after (exec (.pcmp 1 1 (.vec 2) .lt .i32 none) (s3 (.u 0xFFFFFFFF) (.u 1))) (tm (fun t => t.p 1 == widthMask 32)) = true := by decide +kernel
theorem test_pcmp_unsigned : after (exec (.pcmp 1 1 (.vec 2) .lt .u32 none) (s3 (.u 0xFFFFFFFF) (.u 1))) (tm (fun t => t.p 1 == 0)) = true := by decide +kernel
theorem test_br : after (exec (.br (.short 4)) (s2 0 0)) (tm (fun t => t.pc == 0x10010)) = true := by decide +kernel -- R240
theorem test_br_back : after (exec (.br (.short 0x7FFF)) (s2 0 0)) (tm (fun t => t.pc == 0xFFFC)) = true := by decide +kernel
theorem test_call_link : after (exec (.call (.short 4)) (s2 0 0)) (sr 61 0x10008) = true := by decide +kernel -- R243
theorem test_ret_unaligned : after (exec (.ret 1) (sx (t0 2 0 0 0) g0)) (faults .illegalTarget) = true := by decide +kernel -- R246
theorem test_trap : after (exec (.trap 9) (sx (t0 0 0 0 0) g0)) (faults .illegalEncoding) = true := by decide +kernel -- R39
theorem test_exit : after (exec .exit (s2 0 0)) (tm (fun t => t.isEnded)) = true := by decide +kernel -- R247
theorem test_vadd_lanes : after (exec (.vadd .w32 3 1 2 none) (s3 (.a 10 2) (.u 1))) (ln 3 5 21) = true := by decide +kernel -- R77, R270
theorem test_vadd_h16 : after (exec (.vadd .w16 3 1 2 none) (s3 (.u 0x0001FFFF) (.u 0x00010001))) (ln 3 0 0x00020000) = true := by decide +kernel
theorem test_vadds : after (exec (.vadds .w32 3 1 2 none) (s3 (.u 0x7FFFFFFF) (.u 1))) (ln 3 0 0x7FFFFFFF) = true := by decide +kernel
theorem test_vsubus : after (exec (.vsubus .w8 3 1 2 none) (s3 (.u 0x00010203) (.u 0x01010101))) (ln 3 0 0x00000102) = true := by decide +kernel
theorem test_vmad : after (exec (.vmad .w32 3 1 2 (some 1) none) (s3 (.u 3) (.u 5))) (ln 3 0 18) = true := by decide +kernel
theorem test_vsub_scalar : after (exec (.vsubScalar 3 1 (.imm 1) none) (s3 (.u 3) (.u 0))) (ln 3 31 2) = true := by decide +kernel
theorem test_msk_keeps : after (exec (.vadd .w32 2 1 1 (some ⟨0, false, true⟩)) (s3 (.u 3) (.u 5))) (ln 2 4 5) = true := by decide +kernel -- R223
theorem test_msk_zeroes : after (exec (.vadd .w32 2 1 1 (some ⟨1, true, false⟩)) (st { t0 0 0 0 0 with regs := { r0 0 0 0 0 with v := List.replicate 32 (.u 3), p := (Vector.replicate 16 0).set 1 1 } } g0)) (fun s => ln 2 4 0 s && ln 2 0 6 s) = true := by decide +kernel
theorem test_vfadd : after (exec (.vfaddF32 3 1 2 none none) (s3 (.u 0x3F800000) (.u 0x40000000))) (ln 3 0 0x40400000) = true := by decide +kernel
theorem test_vfdiv_zero : after (exec (.vfdivF32 3 1 2 none none) (s3 (.u 0x3F800000) (.u 0))) (fun s => ln 3 0 0x7F800000 s &&
  tm (fun t => t.regs.fpctl != 0) s) = true := by decide +kernel -- R194
theorem test_vfsqrt_nan : after (exec (.vfsqrtF32 3 1 none none) (s3 (.u 0xBF800000) (.u 0))) (ln 3 0 0x7FC00000) = true := by decide +kernel
theorem test_vcvt_bf16 : after (exec (.vcvt 3 1 0 0 2 none none) (s3 (.u 0x3F800000) (.u 0))) (ln 3 0 0x3F80) = true := by decide +kernel
theorem test_shfl_dn : after (exec (.shflDn 3 1 2 none) (st { t0 0 1 0 0 with regs := { r0 0 1 0 0 with v := List.replicate 32 (.a 10 1) } } g0)) (ln 3 4 15) = true := by decide +kernel
theorem test_vote_all : after (exec (.voteAll 3 0 none) (s2 0 0)) (sr 3 1) = true := by decide +kernel
theorem test_ballot : after (exec (.ballot 3 0 0 none) (s2 0 0)) (sr 3 0xFFFFFFFF) = true := by decide +kernel
theorem test_vred_add : after (exec (.vredAdd 3 1 none) (s3 (.a 0 1) (.u 0))) (sr 3 496) = true := by decide +kernel -- R297
theorem test_vscan_add : after (exec (.vscanAdd 3 1 none) (s3 (.a 0 1) (.u 0))) (ln 3 4 10) = true := by decide +kernel
theorem test_shtag : after (exec (.shtag 3 1) (s3 (.a 0 1) (.u 0))) (sr 3 1) = true := by decide +kernel -- R291
theorem test_ld_alignment : after (exec (.ldScalar 6 3 { sp := .C, base := 1, x := .off 0, disp := none }) (sx (t0 4 0 0 0) g0)) (faults .alignment) = true := by decide +kernel -- R303
theorem test_ld_bounds : after (exec (.ldScalar 3 3 { sp := .C, base := 1, x := .off 0, disp := none }) (sx (t0 65536 0 0 0) g0)) (faults .spaceBounds) = true := by decide +kernel -- R100
theorem test_ld_pending : after (exec (.ldScalar 3 3 { sp := .C, base := 1, x := .off 0, disp := none }) (s2 8 0)) (fun s => s.acc.length == 1 &&
  tm (fun t => t.cnt.ld == 1) s) = true := by decide +kernel -- R307
theorem test_st_bytes : after (exec (.stScalar 2 { sp := .C, base := 1, x := .off 1, disp := none } 2) (s2 8 0x1122334455667788)) (fun s =>
  Mem.readN s.mem (homeC 0 12) 4 == [0x88, 0x77, 0x66, 0x55] && Mem.read s.mem (homeC 0 16) == 0) = true := by decide +kernel -- R134
theorem test_atom_add : after (exec (.atomAdd (xA true)) { s2 8 5 with mem := Mem.writeN [] (homeC 0 8) [7] }) (fun s => Mem.read s.mem (homeC 0 8) == 12) = true := by
  decide +kernel -- R316
theorem test_barrier_member : after (exec (.barG 0) (sx (t0 0 0 0 0) { g0 with barSub := List.replicate 16 2 })) (faults .illegalEncoding) = true := by decide +kernel -- R328
theorem test_wait_met : after (exec (.wait 0 0 0 0) (s2 0 0)) (tm (fun t => t.clause.isNone)) = true := by decide +kernel -- R323
theorem test_rdenter : after (exec .rdenter (s2 0 0)) (tm (fun t => t.rdDepth == 1)) = true := by decide +kernel -- R331
theorem test_rdexit_depth : after (exec .rdexit (sx (t0 0 0 0 0) g0)) (faults .illegalEncoding) = true := by decide +kernel -- R332
theorem test_cpy_issues : after (exec (.cpy 1 1 1 false) (st (t0 0 64 16 0) g0)) (fun s => s.asy.length == 1 && tm (fun t => t.cnt.cp == 1) s) = true := by decide +kernel -- R358
theorem test_qget : after (exec (.qgetScalar 16 0) (st (t0 0 0 0 0) gq)) (sr 16 7) = true := by decide +kernel -- R365
theorem test_tile_absent : after (exec (.accst 1 1 false) (sx (t0 0 0 0 0) g0)) (faults .illegalEncoding) = true := by decide +kernel -- R71, R353
theorem test_accovx : after (exec (.accovx 3 1 false) (st (t0 0 0 0 0) { gq with tiles := List.replicate 2 { valid := true, bad := false, ovx := true } })) (sr 3 1) = true := by decide +kernel
theorem test_give : after (exec (.give 3 1) (s2 0 0)) (tm (fun t => t.vcnt == 24 && t.s 3 == 1)) = true := by decide +kernel -- R85
theorem test_claim_none : after (exec (.claim 3 4) (s2 0 0)) (tm (fun t => t.vcnt == 32 && t.s 3 == 0)) = true := by decide +kernel -- R86
theorem test_fwr_refill : after (exec (.fwr 1 2) { sx (t0 8 0 0 0) { g0 with origin := .task 1 } with futFull := [1] }) (faults .futureOrder) = true := by decide +kernel -- R55
theorem test_pkkill_user : after (exec (.pkkill 3 1) (sx (t0 1 0 0 0) g0)) (faults .protection) = true := by decide +kernel -- R405
theorem test_csrwr_pt : after (exec (.csrwr 1 2) (s2 0x20000008 0x10000)) (fun s => (s.ctx 0).pt == 0x10000) = true := by decide +kernel -- R397
theorem test_caprd_alignment : after (exec (.caprd 3 1) (sx (t0 4 0 0 0) g0)) (faults .alignment) = true := by decide +kernel -- R400
theorem test_clause_issue : after (exec (.clauseIssue 0) (sv tb clauseMem)) (tm (fun t => t.woff == 1 && t.clause.isSome)) = true := by decide +kernel -- R435
theorem test_bad_header : after (exec (.clauseIssue 0) (ss tb [])) (faults .illegalClause) = true := by decide +kernel -- R209
theorem test_pre_emption : after (exec (.preEmption 0) (ss tb [])) (tm (fun t => t.st == .swapped)) = true := by decide +kernel -- R38
theorem test_context_reset : after (exec (.contextReset 0) (s2 0 0)) (fun s => (s.ctx 0).rst == 1) = true := by decide +kernel -- R444
theorem test_partition_enable : after (exec (.partitionEnable 0) (sp 1)) (fun s => (s.part 0).en) = true := by decide +kernel -- R393
theorem test_wrmem : after (exec (.wrmem 0 0) (sl (pkw 5 3 0 [0x1000, 9]))) (fun s => s.rd64 (homeG 0x1000) == 9) = true := by decide +kernel -- R422
theorem test_write_packet : after (exec (.write (pk 2)) (sf1 (Peer.init 1))) (fun s => Mem.read s.mem (homeG 0x40000) == 7) = true := by decide +kernel -- R507
theorem test_power_on : after (exec (.powerOn { copyA := false, copyB := false, records := [], packages := [], planes := [] }) (s2 0 0))
  (fun s => s.modl.stage == 1 && s.modl.err == 1 && s.teams.isEmpty) = true := by decide +kernel -- R523
theorem test_power_limit : after (exec (.modulePowerLimit true) (s2 0 0)) (fun s => s.modl.pwr) = true := by decide +kernel -- R517
theorem test_step_after_reset : after (step (State.reset.withFetchWord 32 0x102850FF)) (fun s => s.teams.any (fun t => t.s 5 == 0xFFFFFFFFFFFFFFFF)) = true := by decide +kernel

/-! ### Terms that are not well formed -/

theorem wf_scope : (Instr.icinv 6 1 2).wf = false ∧ (Instr.fence 0 7).wf = false ∧ (Instr.tlwait 1 0 false 0 6).wf = false ∧
    (Instr.ldAcq 4 6 1 aC none).wf = false ∧ (Instr.stRel 2 6 aC 1 none).wf = false ∧ (Instr.ldScalarAcq 3 7 1 aS).wf = false ∧
    (Instr.stScalarRel 3 7 aS 1).wf = false ∧ (Instr.atomAdd { xA true with scope := 6 }).wf = false ∧ (Instr.wround 2).wf = false ∧
    (Instr.tlbinv 5 1 2).wf = false := by decide +kernel
/-- Context 0 maps every page to module 1; a copy of 8 bytes from there to C. -/
def sp1 (xs : List FarLine) : State :=
  { sv (t0 0 0 0 0) [] with
    mem := poke [(0, 0xF100807000000000)], far := xs,
    asy := [{ asy0 with segs := [{ seg0 with ssp := 4, src := 0x20004 }] }] }
/-- The line of that copy. -/
def far0 : FarLine := { op := 5, no := 0, va := 0x20000, want := 0x20004, rid := 3, got := none, lost := none }
theorem test_copy_asks_peer : after (exec (.copySegmentComplete 5 0 none) (sp1 []))
    (fun s => (s.peer 1).flight.map (fun f => (f.p.typ.toNat, f.p.pa)) == [(0, 0x20000)] && s.far.length == 1 && s.asy.length == 1) = true := by decide +kernel -- R310, R360
theorem test_copy_takes_reply : after (exec (.copySegmentComplete 5 0 none) (sp1 [{ far0 with got := some (0x77 <<< 32) }]))
    (fun s => Mem.read s.mem (homeC 0 64) == 0x77 && s.far == [] && s.asy == []) = true := by decide +kernel -- R360
theorem test_copy_loses_source : after (exec (.copySegmentComplete 5 0 none) (sp1 [{ far0 with lost := some (mkF .linkTimeout .none 0x20004 1) }]))
    (fun s => s.recs.map (fun r => (r.fault.cls, r.fault.det0, r.fault.aux)) == [(.linkTimeout, 0x20004, 1)]) = true := by decide +kernel -- R361, R514
theorem wf_ranges : (Instr.ppack 1 10 6).wf = false ∧ (Instr.punpk 10 1 6).wf = false ∧ (Instr.pcmp 1 1 (.vec 2) .un .i32 none).wf = false ∧
    (Instr.pcmp 1 1 (.vec 2) .ord .u32 none).wf = false ∧ (Instr.tlwait 1 3 false 0 0).wf = false ∧ (Instr.tlread 1 false 0 3).wf = false ∧
    (Instr.give 1 0).wf = false ∧ (Instr.claim 1 0).wf = false ∧ (Instr.tspawn 1 0).wf = false ∧ (Instr.tspawnRel 1 0).wf = false := by decide +kernel
theorem wf_sizes : (Instr.ld false 7 2 aC none).wf = false ∧ (Instr.ld false 5 3 aC none).wf = false ∧ (Instr.st false 5 aC 2 none).wf = false ∧
    (Instr.st false 3 aC 3 none).wf = false ∧ (Instr.ldScalar 7 1 aS).wf = false ∧ (Instr.stScalar 4 aS 1).wf = false ∧
    (Instr.ldScalarAcq 7 3 1 aS).wf = false ∧ (Instr.stScalarRel 4 3 aS 1).wf = false ∧ (Instr.ldAcq 7 3 2 aC none).wf = false ∧
    (Instr.ldAcq 5 3 3 aC none).wf = false ∧ (Instr.stRel 5 3 aC 2 none).wf = false ∧ (Instr.stRel 3 3 aC 3 none).wf = false := by decide +kernel
theorem wf_zeroing : (∀ i ∈ ([Instr.pf aC (some ⟨1, true, false⟩), .pfSpec aC (some ⟨1, true, false⟩), .st false 2 aC 1 (some ⟨1, true, false⟩),
    .voteAny 1 1 (some ⟨1, true, false⟩), .voteAll 1 1 (some ⟨1, true, false⟩), .ballot 1 1 0 (some ⟨1, true, false⟩),
    .vredAdd 1 1 (some ⟨1, true, false⟩), .vredMinF32 1 1 (some ⟨1, true, false⟩), .vsel 1 1 (.vec 2) ⟨1, true, false⟩,
    .stRel 2 3 aC 1 (some ⟨1, true, false⟩), .atomAdd { xA true with m := some ⟨1, true, false⟩ }] : List Instr), i.wf = false) := by decide +kernel
theorem wf_prefixes : (Instr.ldAcq 4 3 1 { aC with disp := some 1 } (some ⟨1, false, false⟩)).wf = false ∧
    (Instr.vmadScalar 1 1 (.imm 1) (some 2) (some ⟨1, false, false⟩)).wf = false ∧
    (Instr.vfmaF32 1 1 1 (some 2) (some ⟨1, false, false⟩) (some 0)).wf = false ∧
    (Instr.vfmaPacked false 1 1 1 (some 2) (some ⟨1, false, false⟩) (some 0)).wf = false ∧
    (Instr.vfaddScalar 1 1 (.imm 1) (some ⟨1, false, false⟩) (some 0)).wf = false ∧
    (Instr.stRel 2 3 { aC with disp := some 1 } 1 (some ⟨1, false, false⟩)).wf = false ∧
    (Instr.atomAdd { xF with o := .vec 0 { aC with disp := some 1 } 4, m := some ⟨1, false, false⟩ }).wf = false := by decide +kernel
theorem wf_atomics : (∀ i ∈ ([.atomAdd { xA true with ty := 7 }, .atomAnd { xF with ty := 4 }, .atomFaddt { xF with ret := true }, .atomCas (xA false),
    .atomAdd { xF with o := .vec 1 aC 4 }, .atomAdd { xF with ty := 2, o := .vec 0 aC 5 }, .atomAdd { xA false with o := .sca 3 aS 2 }] : List Instr),
    i.wf = false) := by decide +kernel
theorem wf_formats : (∀ i ∈ ([.vfaddF32 1 1 1 none (some 6), .vfaddPacked false 1 1 1 none (some 7), .vfaddScalar 1 1 (.reg 1) none (some 6),
    .vfexp2Scalar 1 1 none (some 6), .vcvt 1 1 0 2 2 none none, .vcvt 1 1 0 0 15 none none, .vcvt 1 1 2 0 2 none none, .vcvt 1 1 0 0 2 none (some 6),
    .qcvt 1 1 1 1 15 none none, .qcvt 1 1 1 0 14 none none, .qcvt 1 1 1 0 30 none none] : List Instr), i.wf = false) := by decide +kernel
theorem wf_groups : (∀ i ∈ ([.cpy 58 1 1 false, .cpy2d 57 1 1 false, .cpyg 58 1 1 1, .qputMemory 59 1 false 0, .qgetScalar 45 0, .tfetchC 57, .tfetchQ 57 false 0,
    .mma128x128 56 0 false false false, .mma64x64 56 0 false false false 0, .accld 59 0 false, .accst 59 0 false, .pkrd 59 1, .pkrd 1 59, .pkwr 1 59 1] : List Instr),
    i.wf = false) := by decide +kernel
theorem wf_spaces : (∀ i ∈ ([.cpy 1 0 1 false, .cpy 1 1 5 false, .cpy2d 1 0 1 false, .cpyg 1 1 6 1, .qputMemory 1 0 false 0, .waita 1 0, .waita 1 5] : List Instr),
    i.wf = false) := by decide +kernel
theorem wf_events : (Instr.deckAging).wf = false ∧ (Instr.clauseIssue 0).wf = false := by decide +kernel

end Sys2Proof.Tests
end
end

section
/-! Words that do not decode, and instructions out of their place (O6): which instructions issue with which checks,
and the fault that R541 names for them. -/

namespace Sys2Proof.Machine

/-! ### The checks that an instruction issues with (R205, R212) -/

/-- The meaning of an instruction is to issue, with checks that `p` holds of. -/
def IssuesWith (i : Instr) (p : Info → Prop) : Prop :=
  ∃ (f : Info) (k : Team → State → State), (∀ s, exec i s = issue f k s) ∧ p f

/-- An atomic of either form is of the memory class (Table 6-2). -/
@[simp] theorem atomInfo_eng (op : Nat) (x : Atom) : (atomInfo op x).eng = 2 := by
  unfold atomInfo
  cases x.o <;> rfl

/-- An instruction of a team issues, with the engine class of its major (Table 6-2). -/
theorem exec_issues_engine (i : Instr) : ∀ e ∈ engineOf i, IssuesWith i (fun f => f.eng = e) := by
  cases i
  case atomAdd x | atomSub x | atomMin x | atomMax x | atomAnd x | atomOr x | atomXor x | atomExch x | atomCas x | atomFaddt x =>
    rintro _ ⟨⟩
    exact ⟨_, _, fun _ => rfl, atomInfo_eng _ x⟩
  all_goals rintro _ ⟨⟩ <;> exact ⟨_, _, fun _ => rfl, rfl⟩

/-- The checks of a control transfer: those of its place in a clause of the control class, and none of its words (R212). -/
structure Info.IsTransfer (f : Info) : Prop where
  bad : f.bad = none
  pairs : f.pairs = []
  regs : f.named ++ f.vr ++ f.vw = []
  tiles : f.ts = []
  fmt : f.fmt = false
  eng : f.eng = 5
  xfer : f.xfer = true

/-- A control transfer issues with the checks of its place alone (R212). -/
theorem exec_issues_transfer {i : Instr} (h : isTransfer i = true) : IssuesWith i Info.IsTransfer := by
  cases i <;> cases h <;> exact ⟨_, _, fun _ => rfl, ⟨rfl, rfl, rfl, rfl, rfl, rfl, rfl⟩⟩

/-- A matrix instruction issues for the matrix engine, and may stand anywhere in its clause; its effect checks the
operand formats (R337, R205). -/
theorem exec_issues_matrix {i : Instr} (h : engineOf i = some 3) :
    IssuesWith i (fun f => f.eng = 3 ∧ f.fmt = false ∧ f.xfer = false) := by
  cases i <;> cases h <;> exact ⟨_, _, fun _ => rfl, rfl, rfl, rfl⟩

/-! ### The faults of issue (R541) -/

/-- The fault of an instruction in a clause: steps 4 to 7 of R541. -/
def State.placeFault (s : State) (f : Info) (t : Team) (c : Clause) : Option FaultInfo :=
  let e := bits c.hdr.toNat 6 4
  if e ≠ 0 ∧ f.eng ≠ 0 ∧ e ≠ f.eng then some (mkF .illegalClause .engineClass 0 0)
  else if f.xfer ∧ 1 < c.left then some (mkF .illegalClause .transferNotLast 0 0)
  else if f.eng = 3 ∧ 192 ≤ (s.groupOf t).core then some (mkF .illegalEngine .none 0 0)
  else if f.lvl = 1 ∧ (s.ctx (s.groupOf t).ctx).priv = 0 then some (mkF .protection .privileged 0 0)
  else if f.lvl = 2 ∧ !t.handler then some (mkF .protection .notAHandler 0 0)
  else none

/-- The checks of the words come first: they fault with illegal-encoding or illegal-format, or leave the fault to the place. -/
theorem State.issueFault_word_or_place {s : State} {t : Team} {c : Clause} (h : t.clause = some c) (f : Info) :
    (∃ x, s.issueFault f t = some x ∧ (x.cls = .illegalEncoding ∨ (x.cls = .illegalFormat ∧ f.fmt = true))) ∨
      s.issueFault f t = s.placeFault f t c := by
  unfold State.issueFault
  cases f.bad with
  | some d => exact .inl ⟨_, rfl, .inl rfl⟩
  | none =>
    simp only [h]
    split
    · exact .inl ⟨_, rfl, .inl rfl⟩
    split
    · exact .inl ⟨_, rfl, .inl rfl⟩
    split
    · exact .inl ⟨_, rfl, .inl rfl⟩
    split
    · exact .inl ⟨_, rfl, .inr ⟨rfl, ‹_›⟩⟩
    · exact .inr rfl

/-- The words of a transfer hold nothing to check, so only its place can fault. -/
theorem State.issueFault_of_isTransfer {s : State} {t : Team} {c : Clause} (h : t.clause = some c) {f : Info}
    (hf : f.IsTransfer) : s.issueFault f t = s.placeFault f t c := by
  simp [State.issueFault, State.placeFault, h, hf.bad, hf.pairs, hf.regs, hf.tiles, hf.fmt]

/-- In a clause of another class the place of an instruction is at fault (R205). -/
theorem State.placeFault_engineClass {s : State} {t : Team} {c : Clause} (hc : t.clause = some c) {f : Info}
    (h : t.inClass f.eng = false) : s.placeFault f t c = some (mkF .illegalClause .engineClass 0 0) := by
  simp only [Team.inClass, hc, Bool.or_eq_false_iff, decide_eq_false_iff_not] at h
  obtain ⟨⟨hany, hcls⟩, hne⟩ := h
  exact if_pos ⟨hcls, hany, hne⟩

/-- In a clause of its own class, or of none, the class of an instruction is not at fault (R205). -/
theorem not_engineClass_of_inClass {t : Team} {c : Clause} (hc : t.clause = some c) {e : Nat} (h : t.inClass e = true) :
    ¬ (bits c.hdr.toNat 6 4 ≠ 0 ∧ e ≠ 0 ∧ bits c.hdr.toNat 6 4 ≠ e) := by
  simp only [Team.inClass, hc, Bool.or_eq_true, decide_eq_true_eq] at h
  tauto

/-- A transfer that is not the last of its clause is at fault for it (R212). -/
theorem State.placeFault_transferNotLast {s : State} {t : Team} {c : Clause} (hc : t.clause = some c) {f : Info}
    (hin : t.inClass f.eng = true) (hx : f.xfer = true) (hl : t.atLast = false) :
    s.placeFault f t c = some (mkF .illegalClause .transferNotLast 0 0) := by
  have hleft : 1 < c.left := by simpa [Team.atLast, hc] using hl
  simp [State.placeFault, not_engineClass_of_inClass hc hin, hx, hleft]

/-- On a keep core a matrix instruction has no engine (R205, R541). -/
theorem State.placeFault_illegalEngine {s : State} {t : Team} {c : Clause} (hc : t.clause = some c) {f : Info}
    (hin : t.inClass f.eng = true) (hx : f.xfer = false) (he : f.eng = 3) (hk : 192 ≤ (s.groupOf t).core) :
    s.placeFault f t c = some (mkF .illegalEngine .none 0 0) := by
  unfold State.placeFault
  rw [if_neg (not_engineClass_of_inClass hc hin), if_neg (by simp [hx]), if_pos ⟨he, hk⟩]

/-- An instruction whose checks fail parks its team (R541). -/
theorem IssuesWith.parks {i : Instr} {p : Info → Prop} (h : IssuesWith i p) {s : State} {t : Team}
    (ht : s.curTeam = some t) {q : FaultInfo → Prop} (hq : ∀ f, p f → ∃ x, s.issueFault f t = some x ∧ q x) :
    ∃ x, exec i s = .next (s.park t x).tick ∧ q x := by
  obtain ⟨f, k, hexec, hp⟩ := h
  obtain ⟨x, hx, hqx⟩ := hq f hp
  exact ⟨x, by rw [hexec, issue_of_team ht, State.issueTeam_fault hx], hqx⟩

/-! ### A turn of the team in the issue slot -/

/-- With nothing on the agenda a step is a turn of the team in the issue slot. -/
theorem step_eq_runTeam {s : State} {t : Team} {c : Clause} (ha : s.agenda = []) (ht : s.curTeam = some t)
    (hc : t.clause = some c) (hr : t.st = .running) : step s = finish s (s.runTeam t) := by
  have hready : s.curTeam.filter (fun t => t.clause.isSome && s.ready t) = some t := by
    simp [ht, hc, State.ready, hr]
  simp [step, ha, State.autoStep, hready]

/-- The fault that a decoding error names (R210, R221). -/
def decFault : DecErr → FaultInfo
  | .illegalPrefix => mkF .illegalPrefix .none 0 0
  | .illegalEncoding d => mkF .illegalEncoding d 0 0

theorem decodeCode_of_decode_error {ws : List Wd} {e : DecErr} (h : decode ws = .error e) : decodeCode ws = .error e := by
  unfold decode at h
  split at h
  · next e' he => injection h with h; rw [he, h]
  · cases h

/-- Words that do not decode park the team whose turn it is with the fault that decoding names (R210). -/
theorem State.runTeam_illegal {s : State} {t : Team} {c : Clause} (hc : t.clause = some c) (hb : s.budgetEvent t = none)
    {e : DecErr} (hd : decode (c.words.drop (t.woff - 1)) = .error e) :
    s.runTeam t = .next (s.park t (decFault e)).tick := by
  cases e <;> simp [State.runTeam, State.fetchNext, hb, hc, decodeCode_of_decode_error hd, decFault]

/-- Settles O6: decoding errors park by the turn of the team, the rest by the checks that the instruction issues with. -/
theorem illegalWordParks : Obligations.IllegalWordParks := by
  intro s t c ha ht hc hr hb
  have hstep := step_eq_runTeam ha ht hc hr
  refine ⟨fun d hd => ?_, fun hd => ?_, fun i e hi he hout => ?_, fun i hi hin hl => ?_, fun i hi hin hk => ?_⟩
  · rw [hstep, State.runTeam_illegal hc hb hd, decFault]
  · rw [hstep, State.runTeam_illegal hc hb hd, decFault]
  · refine (exec_issues_engine i e hi).parks ht ?_
    rintro f rfl
    obtain ⟨x, hx, hcls⟩ | hplace := s.issueFault_word_or_place hc f
    · exact ⟨x, hx, by tauto⟩
    · exact ⟨_, hplace.trans (State.placeFault_engineClass hc hout), .inr (.inr rfl)⟩
  · obtain ⟨x, hx, rfl⟩ := (exec_issues_transfer hi).parks ht (q := (· = mkF .illegalClause .transferNotLast 0 0))
      fun f hf => ⟨_, (State.issueFault_of_isTransfer hc hf).trans
        (State.placeFault_transferNotLast hc (hf.eng ▸ hin) hf.xfer hl), rfl⟩
    exact hx
  · refine (exec_issues_matrix hi).parks ht ?_
    rintro f ⟨heng, hfmt, hx⟩
    obtain ⟨x, hx, hcls⟩ | hplace := s.issueFault_word_or_place hc f
    · exact ⟨x, hx, .inl (by simpa [hfmt] using hcls)⟩
    · exact ⟨_, hplace.trans (State.placeFault_illegalEngine hc (heng ▸ hin) hx heng hk), .inr rfl⟩

end Sys2Proof.Machine
end

section
/-! The memory and its state after reset (O11, O8). -/

namespace Sys2Proof.Machine

/-! ### Runs of bytes (R134) -/

/-- A run of bytes written leaves every byte outside it (R134). -/
theorem Mem.read_writeN_outside {m : List Host.Cell} (h : Mem.wf m = true) (a b : Nat) (bs : List Byte)
    (hb : b < a ∨ a + bs.length ≤ b) : Mem.read (Mem.writeN m a bs) b = Mem.read m b := by
  induction bs generalizing m a with
  | nil => rfl
  | cons x r ih =>
    rw [List.length_cons] at hb
    calc Mem.read (Mem.writeN (Mem.write m a x) (a + 1) r) b
        = Mem.read (Mem.write m a x) b := ih (Mem.wf_write h a x) (a + 1) (by omega)
      _ = Mem.read m b := by rw [Mem.read_write h, if_neg (by omega)]

/-- A run of bytes written reads back (R134). -/
theorem Mem.readN_writeN {m : List Host.Cell} (h : Mem.wf m = true) (a : Nat) (bs : List Byte) :
    Mem.readN (Mem.writeN m a bs) a bs.length = bs := by
  induction bs generalizing m a with
  | nil => rfl
  | cons x r ih =>
    have hw := Mem.wf_write h a x
    have hhead : Mem.read (Mem.writeN (Mem.write m a x) (a + 1) r) a = x := by
      rw [Mem.read_writeN_outside hw _ _ _ (by omega), Mem.read_write h, if_pos rfl]
    exact congrArg₂ List.cons hhead (ih hw (a + 1))

/-! ### Little-endian values (R5) -/

@[simp] theorem leBytes_length (n x : Nat) : (leBytes n x).length = n := by
  induction n generalizing x with
  | zero => rfl
  | succ n ih => simp [leBytes, ih]

/-- The little-endian bytes of a number make the number again, as far as they reach (R5). -/
theorem leNat_leBytes (n x : Nat) : leNat (leBytes n x) = x % 256 ^ n := by
  induction n generalizing x with
  | zero => simp [leBytes, leNat, Nat.mod_one]
  | succ n ih => rw [pow_succ', Nat.mod_mul, leBytes, leNat, ih, BitVec.toNat_ofNat]

/-- A doubleword written little-endian reads back (R5). -/
theorem State.rd64_writeN {s : State} (h : s.Inv) (a : Nat) (x : Dw) :
    { s with mem := Mem.writeN s.mem a (leBytes 8 x.toNat) }.rd64 a = x := by
  have hread : Mem.readN (Mem.writeN s.mem a (leBytes 8 x.toNat)) a 8 = leBytes 8 x.toNat := by
    simpa using Mem.readN_writeN h a (leBytes 8 x.toNat)
  have hle : leNat (leBytes 8 x.toNat) = x.toNat := by
    rw [leNat_leBytes]
    exact Nat.mod_eq_of_lt x.isLt
  rw [State.rd64, hread, hle, BitVec.ofNat_toNat, BitVec.setWidth_eq]

/-- Settles O11: reads after one write, after a run of writes by induction on the run, and little-endian values. -/
theorem memoryReadsAfterWrites : Obligations.MemoryReadsAfterWrites :=
  ⟨fun _ a b v h => ⟨Mem.wf_write h a v, Mem.read_write h a b v⟩,
   fun _ a b bs h => ⟨Mem.wf_writeN h a bs, Mem.readN_writeN h a bs, Mem.read_writeN_outside h a b bs⟩,
   fun _ a x h => State.rd64_writeN h a x⟩

/-! ### The state after reset (R9, R393, R523) -/

/-- Every partition has the reset value of Table 13-4. -/
@[simp] theorem State.part_reset (p : Nat) : State.reset.part p = Part.init := by
  rw [State.part, List.getD_eq_getElem?_getD]
  exact List.getElem?_getD_replicate_default_eq Part.init 8 p

/-- Settles O8: memory is canonical by `State.reset_inv`, and each other piece is read off the reset state. -/
theorem resetState : Obligations.ResetState :=
  ⟨State.reset_inv, rfl, rfl, rfl, by decide, by decide, fun p _ => by rw [State.part_reset]; decide, rfl, rfl, rfl, rfl, rfl⟩

end Sys2Proof.Machine
end

section
/-! The summary of EXEC by words (O60). -/

namespace Sys2Proof.Machine

/-! ### Sums of distinct powers of two -/

/-- Powers of two added up for the places of a range where `p` holds. -/
def sumBits (p : Nat → Prop) [DecidablePred p] (n : Nat) : Nat :=
  (List.range n).foldl (fun a w => if p w then a + 2 ^ w else a) 0

theorem sumBits_succ (p : Nat → Prop) [DecidablePred p] (n : Nat) :
    sumBits p (n + 1) = if p n then 2 ^ n + sumBits p n else sumBits p n := by
  simp [sumBits, List.range_succ, Nat.add_comm]

theorem sumBits_lt (p : Nat → Prop) [DecidablePred p] (n : Nat) : sumBits p n < 2 ^ n := by
  induction n with
  | zero => simp [sumBits]
  | succ n ih =>
    rw [sumBits_succ, pow_succ]
    split <;> omega

/-- The sum has a bit exactly where the range has a place with `p`. -/
theorem testBit_sumBits (p : Nat → Prop) [DecidablePred p] (n w : Nat) :
    (sumBits p n).testBit w = true ↔ w < n ∧ p w := by
  induction n with
  | zero => simp [sumBits]
  | succ n ih =>
    rw [sumBits_succ, Nat.lt_succ_iff_lt_or_eq]
    split
    · next hp =>
      have hor : 2 ^ n + sumBits p n = 2 ^ n ||| sumBits p n := by
        simpa using Nat.two_pow_add_eq_or_of_lt (sumBits_lt p n) 1
      rw [hor, Nat.testBit_or, Bool.or_eq_true, ih, Nat.testBit_two_pow, decide_eq_true_eq]
      obtain rfl | hne := eq_or_ne n w
      · simp [hp]
      · simp [hne, hne.symm]
    · next hp =>
      rw [ih]
      obtain rfl | hne := eq_or_ne n w
      · simp [hp]
      · simp [hne.symm]

/-! ### Words of EXEC and SUMMARY (R18) -/

/-- A field is not zero exactly when it has a bit. -/
theorem bits_ne_zero_iff (x hi lo : Nat) : bits x hi lo ≠ 0 ↔ ∃ l, l < hi + 1 - lo ∧ x.testBit (lo + l) = true := by
  have hbit : ∀ l, (bits x hi lo).testBit l = (decide (l < hi + 1 - lo) && x.testBit (lo + l)) := fun l => by
    rw [bits, Nat.testBit_mod_two_pow, Nat.testBit_shiftRight]
  constructor
  · intro h
    obtain ⟨l, hl⟩ := Nat.exists_testBit_of_ne_zero h
    rw [hbit] at hl
    exact ⟨l, by simpa using hl⟩
  · rintro ⟨l, hl, hx⟩ h0
    have := hbit l
    simp [h0, hl, hx] at this

/-- SUMMARY has the bit of each word of EXEC that is not zero, and no bit from 32 up. -/
theorem testBit_summary (x : Mask) (w : Nat) :
    (summary x).testBit w = true ↔ w < 32 ∧ ∃ l, l < 32 ∧ x.getLsbD (32 * w + l) = true := by
  have hsum : summary x = sumBits (fun w => bits x.toNat (32 * w + 31) (32 * w) ≠ 0) 32 := rfl
  have hlen : 32 * w + 31 + 1 - 32 * w = 32 := by omega
  rw [hsum, testBit_sumBits, bits_ne_zero_iff, hlen]
  rfl

/-- No bit at or above the width stands in a mask that the width mask leaves as it is. -/
theorem getLsbD_of_and_widthMask {x : Mask} {n i : Nat} (h : x &&& widthMask n = x) (hi : n ≤ i) : x.getLsbD i = false := by
  have hm : (widthMask n).getLsbD i = false := by
    rw [widthMask, BitVec.getLsbD_ofNat, Nat.testBit_two_pow_sub_one]
    simp [hi]
  rw [← h, BitVec.getLsbD_and, hm, Bool.and_false]

/-- An EXEC that is written has no bit at or above WIDTH (R17). -/
theorem Team.setExec_inWidth (t : Team) (x : Mask) :
    (t.setExec x).regs.exec &&& widthMask t.width = (t.setExec x).regs.exec := by
  show x &&& widthMask t.width &&& ~~~t.regs.dead &&& widthMask t.width = x &&& widthMask t.width &&& ~~~t.regs.dead
  rw [BitVec.and_assoc, BitVec.and_comm (~~~t.regs.dead), ← BitVec.and_assoc, BitVec.and_assoc x, BitVec.and_self]

/-- SUMMARY is read only: its write completes and changes no register (Table 2-2). -/
theorem exec_srwr_summary {s : State} {t : Team} {a : SReg} (h : Ready s t 0 [.s a]) :
    exec (.srwr 0x00 a) s = .next (s.retire t).tick :=
  issue_ready (i := { sr := [a], xw := [0] }) h rfl (by simp) (by simp) (by simp) rfl (by simp) (by simp) (by simp) (by simp) _

/-- Settles O60: SUMMARY is a sum of powers of two, one for each word of EXEC that is not zero. -/
theorem summaryBits : Obligations.SummaryBits := by
  intro s t a x _
  refine ⟨t.setExec_inWidth x, fun hexec => ⟨BitVec.ofNat 64 (summary t.regs.exec), rfl, fun w hw => ?_, fun w hw => ?_⟩,
    exec_srwr_summary⟩
  · have h64 : w < 64 := by omega
    rw [BitVec.getLsbD_ofNat, decide_eq_true h64, Bool.true_and, testBit_summary]
    simp only [hw, true_and]
  · have hword : ∀ l, t.regs.exec.getLsbD (32 * w + l) = false := fun l => getLsbD_of_and_widthMask hexec (by omega)
    have hbit : (summary t.regs.exec).testBit w = false := by
      simpa [hword] using (testBit_summary t.regs.exec w).not
    rw [BitVec.getLsbD_ofNat, hbit, Bool.and_false]

end Sys2Proof.Machine
end

section
/-! Which teams there are after an operation: most change no team's key. -/

namespace Sys2Proof.Machine

/-- The keys of the teams. -/
def State.keys (s : State) : List Nat := s.teams.map (·.key)

theorem State.keys_congr {s s' : State} (h : s'.teams = s.teams) : s'.keys = s.keys := congrArg (List.map Team.key) h

theorem State.team_congr {s s' : State} (h : s'.teams = s.teams) (k : Nat) : s'.team k = s.team k :=
  congrArg (List.find? fun t : Team => t.key == k) h

/-- There is a team for the keys of the teams. -/
theorem State.team_isSome (s : State) (k : Nat) : (s.team k).isSome = true ↔ k ∈ s.keys := by
  simp [State.team, State.keys]

theorem State.team_isSome_congr {s s' : State} (h : s'.keys = s.keys) {k : Nat} (hk : (s.team k).isSome = true) :
    (s'.team k).isSome = true := by
  rwa [State.team_isSome, h, ← State.team_isSome]

/-- Teams changed one by one, their keys not, keep their keys. -/
theorem map_key_map {f : Team → Team} (hf : ∀ t, (f t).key = t.key) (l : List Team) :
    (l.map f).map (·.key) = l.map (·.key) := by
  simp [List.map_map, Function.comp_def, hf]

@[simp] theorem State.keys_putTeam (s : State) (t : Team) : (s.putTeam t).keys = s.keys := by
  show (Machine.putTeam t s.teams).map (·.key) = s.teams.map (·.key)
  induction s.teams with
  | nil => rfl
  | cons u r ih =>
    unfold Machine.putTeam
    split
    · next h => simp [h]
    · simp [ih]

@[simp] theorem State.keys_wake (s : State) (a n : Nat) : (s.wake a n).keys = s.keys :=
  map_key_map (fun t => by (repeat' split) <;> rfl) s.teams

@[simp] theorem State.keys_markAD (s : State) (ea : Option Nat) (wr : Bool) : (s.markAD ea wr).keys = s.keys := by
  cases ea with
  | none => rfl
  | some a =>
    unfold State.markAD
    generalize (if wr = true then (0x60 : Byte) else 0x40) = x
    dsimp only
    split
    · rfl
    · exact State.keys_wake _ _ _

@[simp] theorem State.keys_perform (s : State) (a : Nat) (bs : List Byte) : (s.perform a bs).keys = s.keys :=
  State.keys_wake _ _ _

@[simp] theorem State.keys_writeRun (s : State) (c : Nat) (ps : List Page) (va : Nat) (bs : List Byte) :
    (s.writeRun c ps va bs).keys = s.keys := by
  unfold State.writeRun
  generalize splitPages ps va bs = qs
  induction qs generalizing s with
  | nil => rfl
  | cons q r ih =>
    rw [List.foldl_cons, ih]
    refine Eq.trans ?_ (s.keys_markAD q.1.ea true)
    split
    · exact State.keys_perform _ _ _
    · exact State.keys_congr (by simp)
    · rfl

/-- A run of bytes written at a VA changes no key. -/
theorem State.keys_vaWrite (s : State) (core c va : Nat) (bs : List Byte) : (s.vaWrite core c va bs).1.keys = s.keys := by
  have hx : (s.xlateRun core c .store {} va (pagesOf va bs.length)).1.keys = s.keys := State.keys_congr (by simp)
  unfold State.vaWrite
  generalize s.xlateRun core c .store {} va (pagesOf va bs.length) = q at hx ⊢
  obtain ⟨s1, f | ps⟩ := q
  · exact hx
  · exact (s1.keys_writeRun c ps va bs).trans hx

/-- The image of a team that parks changes no key. -/
theorem State.keys_saveImage (s : State) (d : Nat) (t : Team) (f : FaultInfo) : (s.saveImage d t f).1.keys = s.keys := by
  obtain ⟨s1, m, h1, h⟩ := s.saveImage_cases d t f
  have hkeys : s1.keys = s.keys := by
    obtain h1 | ⟨va, h1⟩ := h1 <;> rw [h1]
    exact s.keys_vaWrite _ _ va _
  rw [h]
  exact hkeys

end Sys2Proof.Machine
end

section
/-! What tracing writes to memory (R501 to R503): blocks of the trace rings, outside every other home while the write
indexes lie in their rings. -/

namespace Sys2Proof.Machine

/-! ### Bytes of a run that was written (R134) -/

theorem Mem.getD_readN (m : List Host.Cell) (a n i : Nat) (hi : i < n) : (Mem.readN m a n).getD i 0 = Mem.read m (a + i) := by
  induction n generalizing a i with
  | zero => omega
  | succ n ih =>
    cases i with
    | zero => rfl
    | succ i =>
      rw [Mem.readN, List.getD_cons_succ, ih (a + 1) i (by omega), Nat.add_assoc, Nat.add_comm 1]

/-- A byte of a run that was written. -/
theorem Mem.read_writeN_inside {m : List Host.Cell} (h : Mem.wf m = true) (a : Nat) (bs : List Byte) {i : Nat}
    (hi : i < bs.length) : Mem.read (Mem.writeN m a bs) (a + i) = bs.getD i 0 := by
  rw [← Mem.getD_readN _ _ _ _ hi, Mem.readN_writeN h]

/-! ### The blocks of the trace rings -/

theorem SameMem.refl (s : State) : SameMem s s := fun _ _ => rfl

theorem SameMem.trans {s s' s'' : State} (h : SameMem s s') (h' : SameMem s' s'') : SameMem s s'' :=
  fun b hb => (h' b hb).trans (h b hb)

/-- The bytes of the open block of a core (R503). -/
def TraceUnit.block (u : TraceUnit) (core : Nat) : List Byte :=
  leBytes 8 (core * 2 ^ 51 + u.time % 2 ^ 51) ++ dwBytes u.recs ++
    dwBytes (List.replicate (7 - u.recs.length) 0xF800000000000000)

/-- The trace registers of a partition on the die of a core (Table 17-7). -/
def State.traceRegs (s : State) (core part : Nat) : TrRegs := s.trc.getD (part * 2 + dieOf core) TrRegs.init

/-- A ring that keeps what the host has not read is full (R502). -/
def TrRegs.full (r : TrRegs) : Bool := flag r.ctl 61 && (r.wp + 1) % 63488 == r.rp

/-- A block that closes is written at the write index of its ring, unless it is empty or the ring is full. -/
theorem State.closeBlock_mem (s : State) (core part : Nat) :
    (s.closeBlock core part).mem =
      if (s.core core).trace.recs = [] ∨ (s.traceRegs core part).full = true then s.mem
      else Mem.writeN s.mem (homeT (dieOf core) (0x100000 + part * 0x3E0000 + (s.traceRegs core part).wp * 64))
        ((s.core core).trace.block core) := by
  simp only [State.closeBlock, apply_ite State.mem, ite_self, State.modCore_mem, ite_or]
  rfl

/-- A core with an empty block, `n` records lost before it (R502). -/
def Core.newBlock (c : Core) (n : Nat) : Core := { c with trace := { c.trace with recs := [], time := 0, lost := n } }

/-- A core whose block closes, where it holds records, has an empty one; the other cores stand. -/
theorem State.closeBlock_core {s : State} {core : Nat} (hr : (s.core core).trace.recs ≠ []) (part : Nat) :
    ∃ n, ∀ k, (s.closeBlock core part).core k = if k = core then (s.core core).newBlock n else s.core k := by
  let n := if (s.traceRegs core part).full = true then (s.core core).trace.lost + (s.core core).trace.recs.length else 0
  have hcores : (s.closeBlock core part).cores = (s.modCore core (Core.newBlock · n)).cores := by
    simp only [State.closeBlock, apply_ite State.cores, ite_self, if_neg hr]
    rfl
  refine ⟨n, fun k => ?_⟩
  rw [State.core, hcores, ← State.core, State.core_modCore s core k (Core.newBlock · n) fun _ => rfl]

/-- The block of a core is empty once it has closed. -/
theorem State.closeBlock_recs (s : State) (core part : Nat) : ((s.closeBlock core part).core core).trace.recs = [] := by
  by_cases hr : (s.core core).trace.recs = []
  · simp [State.closeBlock, hr]
  · obtain ⟨n, hn⟩ := State.closeBlock_core hr part
    rw [hn, if_pos rfl, Core.newBlock]

/-- A block that closes leaves the other cores. -/
theorem State.closeBlock_core_other (s : State) {core k : Nat} (hk : k ≠ core) (part : Nat) :
    (s.closeBlock core part).core k = s.core k := by
  by_cases hr : (s.core core).trace.recs = []
  · simp [State.closeBlock, hr]
  · obtain ⟨n, hn⟩ := State.closeBlock_core hr part
    rw [hn, if_neg hk]

/-- The machine as a record of a core finds it: with a new block where the open one is too old (R503). -/
def State.freshBlock (s : State) (core part : Nat) : State :=
  if (s.core core).trace.recs ≠ [] ∧ 4096 ≤ s.clk - (s.core core).trace.time then s.closeBlock core part else s

/-- A record joins the open block of its core, as its first with one of type LOST at most; the seventh closes the block (R503). -/
theorem State.trace_of_traced {s : State} {core ctx : Nat} (ht : s.traced core ctx = true) (slot typ p : Nat) :
    ∃ (f : Core → Core) (n : Nat), (∀ c, (f c).id = c.id ∧ (f c).trace.recs.length = n + 1) ∧
      n ≤ max 1 ((s.freshBlock core (s.ctx ctx).part).core core).trace.recs.length ∧
      s.trace core ctx slot typ p =
        if n = 6 then ((s.freshBlock core (s.ctx ctx).part).modCore core f).closeBlock core (s.ctx ctx).part
        else (s.freshBlock core (s.ctx ctx).part).modCore core f := by
  have hfresh : (if ((s.core core).trace.recs ≠ [] && decide (4096 ≤ s.clk - (s.core core).trace.time)) = true then
      s.closeBlock core (s.ctx ctx).part else s) = s.freshBlock core (s.ctx ctx).part := by
    simp [State.freshBlock]
  unfold State.trace
  simp only [ht, Bool.not_true, Bool.false_eq_true, if_false]
  rw [hfresh]
  refine ⟨_, _, ?_, ?_, rfl⟩
  · exact fun c => ⟨rfl, List.length_append⟩
  · split
    · exact Nat.le_max_left 1 _
    · exact Nat.le_max_right 1 _

/-- A record that finds the open block of its core too old closes that block first. -/
theorem State.trace_mem_of_late {s : State} {core ctx : Nat} (ht : s.traced core ctx = true)
    (hr : (s.core core).trace.recs ≠ []) (hl : 4096 ≤ s.clk - (s.core core).trace.time) (slot typ p : Nat) :
    (s.trace core ctx slot typ p).mem = (s.closeBlock core (s.ctx ctx).part).mem := by
  obtain ⟨f, n, -, hn, htrace⟩ := State.trace_of_traced ht slot typ p
  have hfresh : s.freshBlock core (s.ctx ctx).part = s.closeBlock core (s.ctx ctx).part := if_pos ⟨hr, hl⟩
  rw [hfresh] at hn htrace
  rw [State.closeBlock_recs, List.length_nil] at hn
  rw [htrace, if_neg (by omega), State.modCore_mem]

/-! ### Tracing in bounds -/

/-- Tracing stays in the trace stores: memory is canonical, the write indexes lie in their rings (R501), and no open block holds
more than six records (R503). -/
structure State.TraceOk (s : State) : Prop where
  inv : s.Inv
  index : ∀ r ∈ s.trc, r.wp < 63488
  blocks : ∀ k, (s.core k).trace.recs.length ≤ 6

/-- A machine traces in bounds at reset. -/
theorem State.reset_traceOk : State.reset.TraceOk :=
  ⟨State.reset_inv, fun r hr => by rw [List.eq_of_mem_replicate hr]; decide, fun _ => Nat.zero_le 6⟩

theorem State.traceRegs_index {s : State} (h : ∀ r ∈ s.trc, r.wp < 63488) (core part : Nat) :
    (s.traceRegs core part).wp < 63488 := by
  rw [State.traceRegs, List.getD_eq_getElem?_getD]
  cases hr : s.trc[part * 2 + dieOf core]? with
  | none => exact Nat.zero_lt_succ _
  | some r => exact h r (List.mem_of_getElem? hr)

theorem dwBytes_length (ds : List Dw) : (dwBytes ds).length = 8 * ds.length := by
  induction ds with
  | nil => rfl
  | cons d r ih =>
    simp only [dwBytes, List.flatMap_cons, List.length_append, leBytes_length, List.length_cons] at ih ⊢
    omega

/-- A block of at most seven records takes 64 bytes (R503). -/
theorem TraceUnit.block_length {u : TraceUnit} (h : u.recs.length ≤ 7) (core : Nat) : (u.block core).length = 64 := by
  simp only [TraceUnit.block, List.length_append, leBytes_length, dwBytes_length, List.length_replicate]
  omega

/-- The registers of a ring after a block has closed, if they changed: the write index has moved on in the ring, or stands. -/
theorem State.closeBlock_trc (s : State) (core part : Nat) :
    (s.closeBlock core part).trc = s.trc ∨ ∃ r, (s.closeBlock core part).trc = s.trc.set (part * 2 + dieOf core) r ∧
      (r.wp = (s.traceRegs core part).wp ∨ r.wp = ((s.traceRegs core part).wp + 1) % 63488) := by
  unfold State.closeBlock
  dsimp only
  (repeat' split)
  · exact .inl rfl
  · exact .inr ⟨_, rfl, .inl rfl⟩
  all_goals exact .inr ⟨_, rfl, .inr rfl⟩

theorem Ctx.part_lt (c : Ctx) : c.part < 8 := Nat.mod_lt _ (by decide)

/-- A block of at most seven records that closes changes bytes of the trace stores alone. -/
theorem State.closeBlock_traceOk {s : State} {core part : Nat} (hinv : s.Inv) (hidx : ∀ r ∈ s.trc, r.wp < 63488)
    (hlen : (s.core core).trace.recs.length ≤ 7) (hother : ∀ k, k ≠ core → (s.core k).trace.recs.length ≤ 6)
    (hpart : part < 8) : SameMem s (s.closeBlock core part) ∧ (s.closeBlock core part).TraceOk := by
  have hwp := State.traceRegs_index hidx core part
  have hdie : dieOf core ≤ 1 := by unfold dieOf; split <;> decide
  have hmem : SameMem s (s.closeBlock core part) ∧ (s.closeBlock core part).Inv := by
    rw [SameMem, State.Inv, State.closeBlock_mem]
    split
    · exact ⟨fun _ _ => rfl, hinv⟩
    · refine ⟨fun b hb => Mem.read_writeN_outside hinv _ _ _ ?_, Mem.wf_writeN hinv _ _⟩
      rw [TraceUnit.block_length hlen, homeT]
      unfold noTrace at hb
      omega
  refine ⟨hmem.1, hmem.2, fun r hr => ?_, fun k => ?_⟩
  · obtain h | ⟨r', h, hr'⟩ := s.closeBlock_trc core part
    · exact hidx r (h ▸ hr)
    · rw [h] at hr
      obtain hold | rfl := List.mem_or_eq_of_mem_set hr
      · exact hidx r hold
      · omega
  · obtain rfl | hk := eq_or_ne k core
    · rw [State.closeBlock_recs]; exact Nat.zero_le 6
    · rw [State.closeBlock_core_other s hk]; exact hother k hk

theorem State.TraceOk.freshBlock {s : State} (h : s.TraceOk) (core : Nat) {part : Nat} (hpart : part < 8) :
    SameMem s (s.freshBlock core part) ∧ (s.freshBlock core part).TraceOk := by
  unfold State.freshBlock
  split
  · exact State.closeBlock_traceOk h.inv h.index ((h.blocks core).trans (by decide)) (fun k _ => h.blocks k) hpart
  · exact ⟨SameMem.refl s, h⟩

/-- A record of a core changes bytes of the trace stores alone (R501 to R503). -/
theorem State.TraceOk.trace {s : State} (h : s.TraceOk) (core ctx slot typ p : Nat) :
    SameMem s (s.trace core ctx slot typ p) ∧ (s.trace core ctx slot typ p).TraceOk := by
  cases ht : s.traced core ctx with
  | false =>
    have hs : s.trace core ctx slot typ p = s := by simp [State.trace, ht]
    exact hs.symm ▸ ⟨SameMem.refl s, h⟩
  | true =>
    obtain ⟨f, n, hf, hn, htrace⟩ := State.trace_of_traced ht slot typ p
    have hpart := (s.ctx ctx).part_lt
    obtain ⟨hsame, hok⟩ := h.freshBlock core hpart
    generalize s.freshBlock core (s.ctx ctx).part = s1 at hn htrace hsame hok
    have hcore : ∀ k, ((s1.modCore core f).core k).trace.recs.length = if k = core then n + 1 else (s1.core k).trace.recs.length :=
      fun k => by
        rw [State.core_modCore s1 core k f fun c => (hf c).1]
        split
        · exact (hf _).2
        · rfl
    have hn6 := hok.blocks core
    rw [htrace]
    split
    · next h6 =>
      have := State.closeBlock_traceOk (s := s1.modCore core f) (part := (s.ctx ctx).part) hok.inv hok.index
        (by rw [hcore, if_pos rfl]; omega) (fun k hk => by rw [hcore, if_neg hk]; exact hok.blocks k) hpart
      exact ⟨hsame.trans this.1, this.2⟩
    · next h6 =>
      refine ⟨hsame, hok.inv, hok.index, fun k => ?_⟩
      rw [hcore]
      split
      · omega
      · exact hok.blocks k

/-- A record of a team changes bytes of the trace stores alone. -/
theorem State.TraceOk.traceTeam {s : State} (h : s.TraceOk) (t : Team) (typ p : Nat) :
    SameMem s (s.traceTeam t typ p) ∧ (s.traceTeam t typ p).TraceOk :=
  h.trace _ _ _ _ _

/-- A BIND record changes bytes of the trace stores alone. -/
theorem State.TraceOk.traceBind {s : State} (h : s.TraceOk) (t : Team) (how cls : Nat) :
    SameMem s (s.traceBind t how cls) ∧ (s.traceBind t how cls).TraceOk :=
  h.traceTeam _ _ _

end Sys2Proof.Machine
end

section
/-! Taking a fault (R462 to R473): what parking a team comes to, case by case. -/

namespace Sys2Proof.Machine

/-! ### Shared operations -/

theorem State.yieldCur_cur_ne (s : State) (k : Nat) : (s.yieldCur k).cur ≠ some k := by
  unfold State.yieldCur
  split
  · simp
  · assumption

/-- A record that no handler serves stays as it is when a handler leaves its own (R477). -/
theorem State.mem_recs_unserve {s : State} {r : Rec} (h : r ∈ s.recs) (hr : r.st ≠ .served) (t : Team) :
    r ∈ (s.unserve t).recs := by
  unfold State.unserve
  split
  · exact h
  · split
    · simpa using h
    · exact List.mem_map.mpr ⟨r, h, if_neg fun hs => hr hs.2⟩

/-- The record that is placed is one of the records. -/
theorem State.placeRec_mem (s : State) (r : Rec) (d i : Nat) : (s.placeRec r d i).2 ∈ (s.placeRec r d i).1.recs :=
  List.mem_append_right _ (List.mem_singleton_self _)

/-! ### Where the image of a team goes (R468, R394) -/

/-- The image of a team that is swapped out stands in its save area. -/
theorem State.saveImage_swapped {s : State} {t : Team} (h : t.st = .swapped) (d : Nat) (f : FaultInfo) :
    s.saveImage d t f = (s, some (true, (s.saveVa (s.ctxOf t) (s.groupOf t).core t.place).getD 0, 0, f)) :=
  if_pos h

/-- A save area that can be written takes the image. -/
theorem State.saveImage_saved {s s1 : State} {t : Team} {va : Nat} (h : t.st ≠ .swapped)
    (hva : s.saveVa (s.ctxOf t) (s.groupOf t).core t.place = some va)
    (hw : s.vaWrite (s.groupOf t).core (s.ctxOf t) va (t.image s.clk) = (s1, none)) (d : Nat) (f : FaultInfo) :
    s.saveImage d t f = (s1, some (true, va, 0, f)) := by
  unfold State.ctxOf at hva hw
  simp only [State.saveImage, h, if_false, hva, hw, Option.getD_some]

/-- The records of a die that hold part of its spill space (R468). -/
def State.spillUsed (s : State) (d : Nat) : List (Nat × Nat) :=
  (s.recs.filter (fun r => r.spill ≠ 0 && r.die == d)).map (fun r => (r.imgva.toNat, r.spill))

/-- The machine with an image in the spill space of a die. -/
def State.spilled (s : State) (d off : Nat) (img : List Byte) : State :=
  { s with mem := Mem.writeN s.mem (homeB d off) img }

/-- With no save area the image goes to the spill space, and the record names unserviceable. -/
theorem State.saveImage_spilled {s : State} {t : Team} {d off : Nat} (h : t.st ≠ .swapped)
    (hva : s.saveVa (s.ctxOf t) (s.groupOf t).core t.place = none)
    (hoff : firstFree (s.spillUsed d) 0 (2 ^ 24) (imageMax t.width t.vcnt) = some off) (f : FaultInfo) :
    s.saveImage d t f = (s.spilled d off (t.image s.clk),
      some (false, off, imageMax t.width t.vcnt, mkF .unserviceable .none 0 1)) := by
  unfold State.ctxOf at hva
  unfold State.spillUsed at hoff
  simp only [State.saveImage, h, if_false, hva, hoff]
  rfl

/-! ### The record formed -/

/-- The number of parts of the record of a fault (R469). -/
def FaultInfo.parts (f : FaultInfo) : Nat := if f.cls.isFp then 4 else 1

/-- The place for the record of a team (R469, R473). -/
def State.placeFor (s : State) (t : Team) (f : FaultInfo) : Option (Nat × Nat) :=
  s.barPlace (dieOf (s.groupOf t).core) (s.ctx (s.ctxOf t)).part t.depth f.parts

/-- The record of a team that parks with a fault, not yet placed: it names the fault `f'` and where the image stands (R466). -/
def State.parkRec (s : State) (g : Group) (t : Team) (f f' : FaultInfo) (rimg : Bool) (va spill : Nat) : Rec :=
  let head := s.openSet g.ctx f.page f'.cls
  { (s.newRec .team f' g.ctx t.gslot t.depth (t.serving.getD 0) t.tid).ofTeam t g with
    rimg := rimg, imgva := BitVec.ofNat 64 va, spill := spill, page := if f'.cls = f.cls then f.page else 0
    waits := s.openStores t.key, head := head.map (·.id), st := if head.isSome then .member else .parked
    parts := f.parts, raised := f.freezes, frz := if f.freezes then some f.cls else none }

/-- A team as it stands parked in a record. -/
def Team.parkedIn (t : Team) (rid clk : Nat) : Team :=
  { t with st := .parked rid, clause := none, pinHeld := [], ovx := none, pdLeft := t.pdRest clk }

/-- A team leaves its core for the record with a number (R466, R477). -/
def State.leave (s : State) (c : Nat) (t : Team) (rid : Nat) (f : FaultInfo) : State :=
  let s := ((s.unserve t).putTeam (t.parkedIn rid s.clk)).traceBind t 5 f.cls.code
  (if s.sealedCtx c then s else s.traceTeam t 9 (f.det0.toNat % 2 ^ 40)).yieldCur t.key

/-- With a place and the image put away, the record is placed and the team leaves for it. -/
theorem State.formRec_placed {s s1 : State} {t : Team} {f f' : FaultInfo} {d i va spill : Nat} {rimg : Bool}
    (hd : t.depth ≠ 3) (hp : s.placeFor t f = some (d, i)) (hs : s.saveImage d t f = (s1, some (rimg, va, spill, f'))) :
    s.formRec t f =
      let p := s1.placeRec (s1.parkRec (s.groupOf t) t f f' rimg va spill) d i
      p.1.leave (s.ctxOf t) t p.2.id f' := by
  unfold State.placeFor FaultInfo.parts State.ctxOf at hp
  simp only [State.formRec, hd, if_false, hp, hs]
  rfl

/-- A team that leaves stands parked with its registers, and gives up the issue slot; a record that no handler serves stays. -/
theorem State.leave_parks {s : State} {t : Team} (ht : (s.team t.key).isSome = true) (c rid : Nat) (f : FaultInfo) :
    (s.leave c t rid f).team t.key = some (t.parkedIn rid s.clk) ∧ (s.leave c t rid f).cur ≠ some t.key ∧
      ∀ r ∈ s.recs, r.st ≠ .served → r ∈ (s.leave c t rid f).recs := by
  have hkeeps : (s.leave c t rid f).teams = ((s.unserve t).putTeam (t.parkedIn rid s.clk)).teams ∧
      (s.leave c t rid f).recs = (s.unserve t).recs := by
    unfold State.leave
    dsimp only
    split <;> simp
  obtain ⟨hteams, hrecs⟩ := hkeeps
  refine ⟨?_, State.yieldCur_cur_ne _ _, fun r hr hst => hrecs ▸ State.mem_recs_unserve hr hst t⟩
  have hun : ((s.unserve t).team (t.parkedIn rid s.clk).key).isSome = true := by
    rwa [State.team_congr (s := s) (by simp)]
  rw [State.team_congr hteams]
  exact State.team_putTeam_self _ _ hun

/-! ### Taking a fault -/

theorem State.park_of_openLoads {s : State} {t : Team} (h : s.openLoads t.key = true) (f : FaultInfo) :
    s.park t f = (s.putTeam { t with st := .parking f }).yieldCur t.key :=
  if_pos h

theorem State.park_eq_formRec {s : State} {t : Team} (h : s.openLoads t.key = false) (f : FaultInfo) :
    s.park t f = s.formRec t f :=
  if_neg (by simp [h])

theorem State.formRec_of_depth_three {s : State} {t : Team} (h : t.depth = 3) (f : FaultInfo) :
    s.formRec t f = s.escalate t :=
  if_pos h

theorem State.formRec_of_handler_no_place {s : State} {t : Team} {f : FaultInfo} (hd : t.depth ≠ 0)
    (hp : s.placeFor t f = none) : s.formRec t f = s.escalate t := by
  unfold State.placeFor FaultInfo.parts State.ctxOf at hp
  simp only [State.formRec, hp, hd, if_true, ite_self, ne_eq, not_false_eq_true]

/-- The kill report of a team that finds no place in its die's Bar (R469). -/
def State.fullReport (s : State) (t : Team) : Rec :=
  { ((s.killTeam t).newRec .team (mkF .unserviceable .barFull 0 2) (s.ctxOf t) t.gslot 0 0 t.tid).ofTeam t (s.groupOf t) with
    st := .report, pool := 1 }

theorem State.formRec_of_bar_full {s : State} {t : Team} {f : FaultInfo} {d i : Nat} (hd : t.depth = 0)
    (hp : s.placeFor t f = none)
    (hr : (s.killTeam t).barPlace (dieOf (s.groupOf t).core) (s.ctx (s.ctxOf t)).part 1 1 = some (d, i)) :
    s.formRec t f = ((s.killTeam t).placeRec (s.fullReport t) d i).1 := by
  unfold State.placeFor FaultInfo.parts State.ctxOf at hp
  unfold State.ctxOf at hr
  rw [hd] at hp
  simp only [State.formRec, hd, hp, hr]
  rfl

/-- A team that takes a fault, with a place and its image put away, stands parked in a record of its fault: its registers stand,
and the issue slot is free (R66, R462). -/
theorem State.park_parks {s s1 : State} {t : Team} {f f' : FaultInfo} {d i va spill : Nat} {rimg : Bool}
    (ht : (s.team t.key).isSome = true) (hl : s.openLoads t.key = false) (hd : t.depth ≠ 3) (hp : s.placeFor t f = some (d, i))
    (hs : s.saveImage d t f = (s1, some (rimg, va, spill, f'))) :
    let r := (s1.placeRec (s1.parkRec (s.groupOf t) t f f' rimg va spill) d i).2
    r ∈ (s.park t f).recs ∧ (s.park t f).team t.key = some (t.parkedIn r.id s1.clk) ∧ (s.park t f).cur ≠ some t.key := by
  rw [State.park_eq_formRec hl, State.formRec_placed hd hp hs]
  have hst : (s1.parkRec (s.groupOf t) t f f' rimg va spill).st ≠ .served := by
    unfold State.parkRec
    dsimp only
    split <;> decide
  have hs1 : (s1.team t.key).isSome = true := by
    have hkeys := s.keys_saveImage d t f
    rw [hs] at hkeys
    exact State.team_isSome_congr hkeys ht
  generalize s1.parkRec (s.groupOf t) t f f' rimg va spill = r at hst ⊢
  obtain ⟨hteam, hcur, hrecs⟩ := State.leave_parks (s := (s1.placeRec r d i).1) hs1 (s.ctxOf t) (s1.placeRec r d i).2.id f'
  exact ⟨hrecs _ (s1.placeRec_mem r d i) hst, hteam, hcur⟩

/-! ### Memory of a machine that parks a team -/

@[simp] theorem State.pump_trc (s : State) (m n : Nat) : (s.pump m n).trc = s.trc := by
  induction n generalizing s with
  | zero => rfl
  | succ n ih =>
    rw [State.pump, ih]
    unfold State.pump1
    dsimp only
    split <;> rfl

@[simp] theorem State.unserve_trc (s : State) (t : Team) : (s.unserve t).trc = s.trc := by
  unfold State.unserve
  split
  · rfl
  · split
    · exact State.pump_trc _ _ _
    · rfl

/-- What tracing has to keep in bounds is read off memory, trace registers and cores. -/
theorem State.TraceOk.congr {s s' : State} (h : s.TraceOk) (hinv : s'.Inv) (htrc : s'.trc = s.trc) (hcores : s'.cores = s.cores) :
    s'.TraceOk := by
  refine ⟨hinv, htrc ▸ h.index, fun k => ?_⟩
  have hcore : s'.core k = s.core k := by rw [State.core, hcores, State.core]
  exact hcore ▸ h.blocks k

/-- A team that leaves its core changes memory by its trace records alone. -/
theorem State.TraceOk.leave {s : State} (h : s.TraceOk) (c : Nat) (t : Team) (rid : Nat) (f : FaultInfo) :
    SameMem s (s.leave c t rid f) := by
  have hmem : ((s.unserve t).putTeam (t.parkedIn rid s.clk)).mem = s.mem := by simp
  have hok : ((s.unserve t).putTeam (t.parkedIn rid s.clk)).TraceOk :=
    h.congr (by rw [State.Inv, hmem]; exact h.inv) (s.unserve_trc t) (by simp)
  have hsame : SameMem s ((s.unserve t).putTeam (t.parkedIn rid s.clk)) := fun b _ => congrArg (Mem.read · b) hmem
  obtain ⟨hbind, hok'⟩ := hok.traceBind t 5 f.cls.code
  unfold State.leave
  dsimp only
  rw [SameMem, (State.yieldCur_keeps _ _).1]
  split
  · exact hsame.trans hbind
  · exact (hsame.trans hbind).trans (hok'.traceTeam t 9 _).1

theorem State.spilled_inv {s : State} (h : s.Inv) (d off : Nat) (img : List Byte) : (s.spilled d off img).Inv :=
  Mem.wf_writeN h (homeB d off) img

theorem State.TraceOk.spilled {s : State} (h : s.TraceOk) (d off : Nat) (img : List Byte) : (s.spilled d off img).TraceOk :=
  h.congr (State.spilled_inv h.inv d off img) rfl rfl

theorem State.placeRec_inv {s : State} (h : s.Inv) (r : Rec) (d i : Nat) : (s.placeRec r d i).1.Inv := h

theorem State.TraceOk.placeRec {s : State} (h : s.TraceOk) (r : Rec) (d i : Nat) :
    SameMem s (s.placeRec r d i).1 ∧ (s.placeRec r d i).1.TraceOk :=
  ⟨fun _ _ => rfl, h.congr (State.placeRec_inv h.inv r d i) rfl rfl⟩

/-- With its image in the spill space, a team that parks changes no other byte outside the trace stores. -/
theorem State.park_spilled_mem {s : State} {t : Team} {f : FaultInfo} {d i off : Nat} (hok : s.TraceOk)
    (hloads : s.openLoads t.key = false) (hd : t.depth ≠ 3) (hp : s.placeFor t f = some (d, i)) (hst : t.st ≠ .swapped)
    (hva : s.saveVa (s.ctxOf t) (s.groupOf t).core t.place = none)
    (hoff : firstFree (s.spillUsed d) 0 (2 ^ 24) (imageMax t.width t.vcnt) = some off) :
    SameMem (s.spilled d off (t.image s.clk)) (s.park t f) := by
  have hspilled := hok.spilled d off (t.image s.clk)
  rw [State.park_eq_formRec hloads, State.formRec_placed hd hp (State.saveImage_spilled hst hva hoff f)]
  dsimp only
  generalize (s.spilled d off (t.image s.clk)).parkRec _ t f _ _ _ _ = r
  obtain ⟨hplaced, hok'⟩ := hspilled.placeRec r d i
  exact hplaced.trans (hok'.leave _ _ _ _)

end Sys2Proof.Machine
end

section
/-! A machine in which tracing overwrites more than its store (O54, O52). -/

namespace Sys2Proof.Machine

/-! ### A trace ring whose write index lies outside it -/

/-- A team at the start of a launch that declares nothing, in some state. -/
def plainTeam (x : TeamSt) : Team := { (launchSpec 0 0 []).team 0 0 0 0 0 0 0 with st := x }

/-- A context that is traced (R500). -/
def tracedCtx : Ctx := { Ctx.init 0 with ctl := 2 ^ 55 }

/-- A core whose open block holds one record. -/
def openCore : Core := { Core.init 0 with trace := { (Core.init 0).trace with recs := [1] } }

/-- A trace ring in use, with a write index of 2^74, where every step leaves the index below 63,488 (R501). -/
def farRing : TrRegs := { TrRegs.init with ctl := 2 ^ 63, wp := 2 ^ 74 }

/-- A sealed partition (R494). -/
def sealedPart : Part := { Part.init with ctl := 0xC000000000000000 }

/-- A machine with one team on core 0, in a traced context of a sealed partition. The open block of the core is too old, and at the
write index of its ring another home than the trace store begins. -/
def overrun (x : TeamSt) : State :=
  { State.reset with
    teams := [plainTeam x], clk := 4096, ctxs := [tracedCtx], parts := [sealedPart]
    cores := [openCore], trc := [farRing] }

theorem overrun_inv (x : TeamSt) : (overrun x).Inv := rfl

/-- The byte of the first record in the block that `overrun` writes. -/
def overrunAt : Nat := homeT 0 (0x100000 + 2 ^ 74 * 64) + 8

theorem noTrace_overrunAt : noTrace overrunAt := show overrunAt / 2 ^ 80 ≠ 7 by decide

/-- A record of the team of `overrun`, whatever has changed beside its trace, writes a byte outside the trace stores. -/
theorem overrun_traceTeam {s : State} (hinv : s.Inv) (hgroups : s.groups = []) (hclk : s.clk = 4096)
    (hctxs : s.ctxs = [tracedCtx]) (hcores : s.cores = [openCore]) (htrc : s.trc = [farRing]) (x : TeamSt) (typ p : Nat) :
    Mem.read (s.traceTeam (plainTeam x) typ p).mem overrunAt = 1 := by
  have hgroup : s.groupOf (plainTeam x) = (overrun x).groupOf (plainTeam x) := by
    rw [State.groupOf, State.groupAt, State.group, hgroups]; rfl
  have hcore : s.core 0 = openCore := by rw [State.core, hcores]; rfl
  have hctx : s.ctx 0 = tracedCtx := by rw [State.ctx, hctxs]; rfl
  have hregs : s.traceRegs 0 0 = farRing := by rw [State.traceRegs, htrc]; rfl
  have htraced : s.traced 0 0 = true := by rw [State.traced, hctx, htrc]; decide
  have hmem : (s.traceTeam (plainTeam x) typ p).mem =
      Mem.writeN s.mem (homeT 0 (0x100000 + 2 ^ 74 * 64)) (openCore.trace.block 0) := by
    rw [State.traceTeam, hgroup]
    refine (State.trace_mem_of_late htraced ?_ ?_ _ _ _).trans ?_
    · rw [hcore]; decide
    · rw [hcore, hclk]; decide
    · rw [hctx, State.closeBlock_mem, hcore, show tracedCtx.part = 0 from rfl, hregs, if_neg (by decide)]
      rfl
  rw [hmem, overrunAt, Mem.read_writeN_inside hinv _ _ (by decide)]
  decide

/-- The team of `overrun` that leaves for a record writes a byte outside the trace stores. -/
theorem overrun_leave {s : State} (hinv : s.Inv) (hgroups : s.groups = []) (hclk : s.clk = 4096) (hctxs : s.ctxs = [tracedCtx])
    (hparts : s.parts = [sealedPart]) (hcores : s.cores = [openCore]) (htrc : s.trc = [farRing]) (rid : Nat)
    (f : FaultInfo) : Mem.read (s.leave 0 (plainTeam .running) rid f).mem overrunAt = 1 := by
  have hun : s.unserve (plainTeam .running) = s := rfl
  unfold State.leave
  rw [hun]
  dsimp only
  generalize (plainTeam .running).parkedIn rid s.clk = u
  have hsealed : ((s.putTeam u).traceBind (plainTeam .running) 5 f.cls.code).sealedCtx 0 = true := by
    simp only [State.sealedCtx, State.part, State.ctx, State.traceBind_keeps, State.putTeam_ctxs, State.putTeam_parts, hctxs,
      hparts]
    decide +kernel
  rw [if_pos hsealed, (State.yieldCur_keeps _ _).1, State.traceBind]
  exact overrun_traceTeam (s := s.putTeam u) hinv hgroups hclk hctxs hcores htrc .running _ _

/-- A fault that takes one part of the Bar. -/
def plainFault : FaultInfo := mkF .alignment .none 0 0

/-- An ordinary record takes a place in the Bar of its own die (R407). -/
theorem State.barPlace_die {s : State} {die part n d i : Nat} (h : s.barPlace die part 0 n = some (d, i)) : d = die := by
  rw [State.barPlace, if_pos rfl, Option.map_eq_some_iff] at h
  obtain ⟨j, -, hj⟩ := h
  exact (congrArg Prod.fst hj).symm

/-- The record of the team of `overrun` has a place, on die 0. -/
theorem overrun_place : ∃ i, (overrun .running).placeFor (plainTeam .running) plainFault = some (0, i) := by
  have hsome : ((overrun .running).placeFor (plainTeam .running) plainFault).isSome = true := by decide +kernel
  obtain ⟨⟨d, i⟩, h⟩ := Option.isSome_iff_exists.mp hsome
  exact ⟨i, by rw [h, State.barPlace_die h]; rfl⟩

/-- The team of `overrun` that takes a fault writes a byte outside the trace stores. -/
theorem overrun_park : Mem.read ((overrun .running).park (plainTeam .running) plainFault).mem overrunAt = 1 := by
  have hspill := State.saveImage_spilled (s := overrun .running) (t := plainTeam .running) (d := 0) (off := 0)
    (by decide) rfl (by decide) plainFault
  have hdepth : (plainTeam .running).depth ≠ 3 := by decide
  obtain ⟨i, hplace⟩ := overrun_place
  rw [State.park_eq_formRec rfl, State.formRec_placed hdepth hplace hspill]
  have hinv := State.spilled_inv (overrun_inv .running) 0 0 ((plainTeam .running).image (overrun .running).clk)
  dsimp only
  generalize State.parkRec _ _ _ _ _ _ _ _ = r
  exact overrun_leave (State.placeRec_inv hinv r 0 i) rfl rfl rfl rfl rfl rfl _ _

/-- Refutes O54: in `overrun` a fault puts the image of the team into the spill space, and the trace record of its leaving changes
a byte outside the trace stores. What fails is the memory of that clause alone, for want of a premise that tracing stays in bounds:
`State.park_spilled_mem` has the clause with it. -/
theorem not_takingAFault : ¬ Obligations.TakingAFault := by
  intro h
  obtain ⟨i, hplace⟩ := overrun_place
  obtain ⟨-, -, -, hplaced⟩ := h (overrun .running) (plainTeam .running) plainFault rfl
  obtain ⟨-, -, hspill⟩ := hplaced rfl (by decide) 0 i hplace
  obtain ⟨r, u, -, -, -, -, -, -, -, -, -, hmem, -⟩ := hspill 0 (by decide) rfl (by decide)
  have hout := hmem overrunAt noTrace_overrunAt
  rw [overrun_park, Mem.read_writeN_outside rfl] at hout
  · exact absurd hout (by decide)
  · exact .inr (by decide +kernel)

/-! ### The end of a wait for packets (R311) -/

/-- A team whose packets have gone: it goes on, or waits for what it acquires by (Table 4-2). -/
def State.packetsGone (s : State) (t : Team) : Team :=
  if s.acquiring t.key = [] then { t with st := .running, age := s.clk } else { t with st := .wait (.accs (s.acquiring t.key)) }

/-- The end of a wait for packets is recorded, and the team goes on from it. -/
theorem exec_waitConditionMet_fabric {s : State} {k p : Nat} {t : Team} (ht : s.team k = some t)
    (hst : t.st = .wait (.fabric p)) (hmet : s.met t (.fabric p) = true) : exec (.waitConditionMet k) s =
      .next ((s.traceTeam t 8 (p * 2 ^ 31 + 2 ^ 30)).putTeam (s.packetsGone t)) := by
  show execWaitConditionMet k s = _
  have hacc : (s.traceTeam t 8 (p * 2 ^ 31 + 2 ^ 30)).acquiring t.key = s.acquiring t.key := by simp [State.acquiring]
  simp only [execWaitConditionMet, ht, hst, hmet, if_true, hacc, State.packetsGone]
  cases s.acquiring t.key with
  | nil => simp [State.awake]
  | cons i ids => simp

/-- In a machine that traces in bounds, the end of a wait for packets changes nothing but its team and the trace. -/
theorem State.TraceOk.waitConditionMet_fabric {s : State} (h : s.TraceOk) {k p : Nat} {t : Team} (ht : s.team k = some t)
    (hst : t.st = .wait (.fabric p)) (hmet : s.met t (.fabric p) = true) :
    ∃ s' : State, s'.teams = s.teams ∧ s'.acc = s.acc ∧ SameMem s s' ∧
      exec (.waitConditionMet k) s = .next (s'.putTeam (s.packetsGone t)) := by
  obtain ⟨hsame, -⟩ := h.traceTeam t 8 (p * 2 ^ 31 + 2 ^ 30)
  exact ⟨_, by simp, by simp, hsame, exec_waitConditionMet_fabric ht hst hmet⟩

/-- Refutes O52: in `overrun` the record of the end of a wait for packets changes a byte outside the trace stores. The clause lacks
the premise that tracing stays in bounds: `State.TraceOk.waitConditionMet_fabric` has it. -/
theorem not_schedulingEvents : ¬ Obligations.SchedulingEvents := by
  intro h
  obtain ⟨-, -, -, -, -, -, hwait, -⟩ := h (overrun (.wait (.fabric 0))) 0 0 (plainTeam (.wait (.fabric 0)))
  obtain ⟨-, -, -, hfabric⟩ := hwait (.fabric 0) rfl rfl
  obtain ⟨s', -, -, hsame, hexec⟩ := hfabric 0 rfl rfl
  rw [exec_waitConditionMet_fabric rfl rfl rfl] at hexec
  have hmem := congrArg State.mem (Host.Outcome.next.inj hexec)
  rw [State.putTeam_mem, State.putTeam_mem] at hmem
  have hout := hsame overrunAt noTrace_overrunAt
  rw [← hmem, overrun_traceTeam (overrun_inv _) rfl rfl rfl rfl rfl] at hout
  exact absurd hout (by decide)

end Sys2Proof.Machine
end

section
/-! Registers of a team after a write: scalar registers, predicates and EXEC, and vector registers under a mask
(O12, O25). -/

namespace Sys2Proof.Machine

/-! ### Masks -/

/-- The lanes below a width are the bits of its mask. -/
theorem getLsbD_widthMask (w : Nat) {l : Nat} (hl : l < 1024) : (widthMask w).getLsbD l = decide (l < w) := by
  rw [widthMask, BitVec.getLsbD_ofNat, Nat.testBit_two_pow_sub_one, decide_eq_true hl, Bool.true_and]

@[simp] theorem getElem_widthMask (w l : Nat) (hl : l < 1024) : (widthMask w)[l] = decide (l < w) := getLsbD_widthMask w hl

/-- A mask limited to a width has no bit from the width up. -/
theorem getLsbD_and_widthMask (x : Mask) (w l : Nat) :
    (x &&& widthMask w).getLsbD l = (x.getLsbD l && decide (l < w)) := by
  rw [BitVec.getLsbD_and]
  by_cases hl : l < 1024
  · rw [getLsbD_widthMask w hl]
  · simp [BitVec.getLsbD_of_ge x l (by omega)]

/-! ### Scalar registers (R69) -/

@[simp] theorem Team.s_zero (t : Team) : t.s 0 = 0 := rfl

@[simp] theorem Team.setS_zero (t : Team) (x : Dw) : t.setS 0 x = t := rfl

theorem Team.s_of_ne (t : Team) {r : SReg} (h : r ≠ 0) : t.s r = t.regs.s[r.toNat] := if_neg h

theorem Team.setS_of_ne (t : Team) {r : SReg} (h : r ≠ 0) (x : Dw) :
    t.setS r x = { t with regs := { t.regs with s := t.regs.s.set r.toNat x } } := if_neg h

theorem Team.s_setS (t : Team) {d : SReg} (hd : d ≠ 0) (r : SReg) (x : Dw) :
    (t.setS d x).s r = if r = d then x else t.s r := by
  rw [t.setS_of_ne hd]
  split
  · next h => subst h; rw [Team.s_of_ne _ hd]; exact Vector.getElem_set_self _
  · next h =>
    have hne : d.toNat ≠ r.toNat := fun he => h (BitVec.eq_of_toNat_eq he.symm)
    by_cases hr : r = 0
    · subst hr; rfl
    · rw [Team.s_of_ne _ hr, Team.s_of_ne _ hr, Vector.getElem_set_ne _ _ hne]

/-! ### Predicate registers (R69, R70) -/

@[simp] theorem Team.p_zero (t : Team) : t.p 0 = widthMask t.width := rfl

@[simp] theorem Team.setP_zero (t : Team) (ls x : Mask) : t.setP 0 ls x = t := rfl

theorem Team.p_of_ne (t : Team) {r : PReg} (h : r ≠ 0) : t.p r = t.regs.p[r.toNat] &&& widthMask t.width := if_neg h

theorem Team.setP_of_ne (t : Team) {r : PReg} (h : r ≠ 0) (ls x : Mask) :
    t.setP r ls x = { t with regs := { t.regs with
      p := t.regs.p.set r.toNat (((t.regs.p[r.toNat] &&& ~~~ls) ||| (x &&& ls)) &&& widthMask t.width) } } := if_neg h

@[simp] theorem Team.setP_width (t : Team) (d : PReg) (ls x : Mask) : (t.setP d ls x).width = t.width := by
  unfold Team.setP; split <;> rfl

/-- A write of a predicate changes the predicates alone. -/
theorem Team.setP_eq (t : Team) (d : PReg) (ls x : Mask) :
    t.setP d ls x = { t with regs := { t.regs with p := (t.setP d ls x).regs.p } } := by
  unfold Team.setP; split <;> rfl

/-- A predicate reads zero in lanes at or above WIDTH (R70). -/
theorem Team.p_of_width_le (t : Team) (r : PReg) {l : Nat} (h : t.width ≤ l) : (t.p r).getLsbD l = false := by
  unfold Team.p
  split
  · by_cases hl : l < 1024
    · rw [getLsbD_widthMask _ hl]; simpa using h
    · exact BitVec.getLsbD_of_ge _ _ (by omega)
  · rw [getLsbD_and_widthMask]; simp [h]

/-- A predicate is what it reads below WIDTH (R70). -/
theorem Team.p_inWidth (t : Team) (r : PReg) (l : Nat) : (decide (l < t.width) && (t.p r).getLsbD l) = (t.p r).getLsbD l := by
  by_cases hw : l < t.width
  · simp [hw]
  · simp [hw, t.p_of_width_le r (show t.width ≤ l by omega)]

/-- A predicate after a write of it: the value written in the lanes given, below WIDTH (R70). -/
theorem Team.getLsbD_p_setP_self (t : Team) {d : PReg} (hd : d ≠ 0) (ls x : Mask) (l : Nat) :
    ((t.setP d ls x).p d).getLsbD l =
      (decide (l < t.width) && if ls.getLsbD l then x.getLsbD l else (t.p d).getLsbD l) := by
  by_cases hw : l < t.width
  · rw [t.setP_of_ne hd, Team.p_of_ne _ hd, Team.p_of_ne _ hd, Vector.getElem_set_self]
    rw [getLsbD_and_widthMask, getLsbD_and_widthMask, getLsbD_and_widthMask]
    simp only [hw, decide_true, Bool.and_true, Bool.true_and, BitVec.getLsbD_or, BitVec.getLsbD_and, BitVec.getLsbD_not]
    by_cases hl : l < 1024
    · cases h : ls.getLsbD l <;> simp [hl]
    · simp [BitVec.getLsbD_of_ge _ l (show 1024 ≤ l by omega)]
  · rw [Team.p_of_width_le _ _ (by simpa using hw)]
    simp [hw]

/-- A write of a predicate leaves the others. -/
theorem Team.p_setP_other (t : Team) {d r : PReg} (h : r ≠ d) (ls x : Mask) : (t.setP d ls x).p r = t.p r := by
  by_cases hd : d = 0
  · rw [hd, Team.setP_zero]
  · have hne : d.toNat ≠ r.toNat := fun he => h (BitVec.eq_of_toNat_eq he.symm)
    rw [t.setP_of_ne hd]
    by_cases hr : r = 0
    · subst hr; rfl
    · rw [Team.p_of_ne _ hr, Team.p_of_ne _ hr, Vector.getElem_set_ne _ _ hne]

/-- Settles O12: each clause is the rule of one kind of write. -/
theorem registerReadAfterWrite : Obligations.RegisterReadAfterWrite := by
  intro t
  refine ⟨t.s_zero, t.setS_zero, fun r d x hd => t.s_setS hd r x, t.p_zero, fun l x => t.setP_zero l x,
    fun r d ls x l hd _ => ?_, fun x l hl => ?_⟩
  · split
    · next h => rw [h, t.getLsbD_p_setP_self hd]
    · next h => rw [t.p_setP_other h]
  · have hexec : (t.setExec x).regs.exec = x &&& widthMask t.width &&& ~~~t.regs.dead := rfl
    simp [hexec, hl, and_assoc]

/-! ### Vector registers (R77, R79) -/

/-- A team has fewer registers than those it has. -/
theorem Team.has.mono {t : Team} {rs rs' : List VReg} (h : t.has rs) (hs : rs' ⊆ rs) : t.has rs' := fun r hr => h r (hs hr)

/-- The values of the lanes below a width, by lane. -/
theorem VVal.getD_lanes (v : VVal) {w l : Nat} (h : l < w) : (v.lanes w).getD l 0 = v.lane l := by
  cases v <;> simp [VVal.lanes, VVal.lane, List.getD_eq_getElem?_getD, h]

theorem VVal.length_lanes {v : VVal} {w : Nat} (h : v.fits w) : (v.lanes w).length = w := by
  cases v with
  | u x => simp [VVal.lanes]
  | a b d => simp [VVal.lanes]
  | g xs => exact h

@[simp] theorem VVal.g_lane (xs : List Wd) (l : Nat) : (VVal.g xs).lane l = xs.getD l 0 := rfl

@[simp] theorem length_enum {α : Type} (l : List α) : (enum l).length = l.length := by simp [enum]

theorem getElem_enum {α : Type} (xs : List α) (i : Nat) (h : i < (enum xs).length) :
    (enum xs)[i] = (i, xs[i]'(by simpa using h)) := by simp [enum]

theorem length_blend (m : Mask) (y x : List Wd) : (blend m y x).length = min y.length x.length := by simp [blend]

/-- A lane of a blend: of the first list where the mask has it, else of the second. -/
theorem getD_blend (m : Mask) {y x : List Wd} {l : Nat} (hy : l < y.length) (hx : l < x.length) :
    (blend m y x).getD l 0 = if m.getLsbD l then y.getD l 0 else x.getD l 0 := by
  have hl : l < (blend m y x).length := by rw [length_blend]; omega
  rw [List.getD_eq_getElem _ _ hl, List.getD_eq_getElem _ _ hy, List.getD_eq_getElem _ _ hx]
  simp [blend, getElem_enum]

theorem Team.v_putV (t : Team) {d : VReg} (hd : d.toNat < t.vcnt) (x : VVal) : (t.putV d x).v d = x := by
  have : d.toNat < t.regs.v.length := hd
  simp [Team.putV, Team.v, List.getD_eq_getElem?_getD, this]

/-- A register replaced by what it holds stays as it is. -/
theorem Team.putV_self (t : Team) (d : VReg) : t.putV d (t.v d) = t := by
  have hset : t.regs.v.set d.toNat (t.v d) = t.regs.v := by
    refine List.ext_getElem (by simp) fun i h _ => ?_
    rw [List.getElem_set]
    split
    · next hi => subst hi; rw [Team.v, List.getD_eq_getElem]
    · rfl
  simp [Team.putV, hset]

/-- A mask is full when it has every live lane (R79). -/
theorem Team.full_iff (t : Team) (m : Mask) :
    t.full m = true ↔ ∀ l, l < t.width → l < 1024 → t.regs.dead.getLsbD l = false → m.getLsbD l = true := by
  rw [Team.full, beq_iff_eq]
  constructor
  · intro h l hw hl hd
    have := congrArg (fun x : Mask => x.getLsbD l) h
    simpa only [getLsbD_and_widthMask, getLsbD_widthMask _ hl, BitVec.getLsbD_or, hw, hd, decide_true, Bool.or_false,
      Bool.and_true] using this
  · intro h
    refine BitVec.eq_of_getLsbD_eq fun l hl => ?_
    rw [getLsbD_and_widthMask, getLsbD_widthMask _ hl]
    by_cases hw : l < t.width
    · cases hd : t.regs.dead.getLsbD l <;> simp [hw, hd, h l hw hl]
    · simp [hw]

/-- A write in part that leaves a register of shape U or A as it is: every lane written has its value already (R79). -/
abbrev Team.KeepsShape (t : Team) (d : VReg) (m : Mask) (y : VVal) : Prop :=
  (t.v d).tag ≠ 2 ∧
    ((enum (y.lanes t.width)).zip ((t.v d).lanes t.width)).all (fun p => !m.getLsbD p.1.1 || p.1.2 == p.2) = true

theorem Team.KeepsShape.lane {t : Team} {d : VReg} {m : Mask} {y : VVal} (h : t.KeepsShape d m y) (hy : y.fits t.width)
    (hold : (t.v d).fits t.width) {l : Nat} (hl : l < t.width) (hm : m.getLsbD l = true) : (t.v d).lane l = y.lane l := by
  obtain ⟨-, hall⟩ := h
  have hylen := VVal.length_lanes hy
  have hvlen := VVal.length_lanes hold
  have hlen : l < ((enum (y.lanes t.width)).zip ((t.v d).lanes t.width)).length := by simp [hylen, hvlen, hl]
  have heq := List.all_eq_true.mp hall _ (List.getElem_mem hlen)
  simp only [List.getElem_zip, getElem_enum, hm, Bool.not_true, Bool.false_or, beq_iff_eq] at heq
  rw [← VVal.getD_lanes y hl, ← VVal.getD_lanes (t.v d) hl, List.getD_eq_getElem _ _ (by omega),
    List.getD_eq_getElem _ _ (by omega), heq]

/-- A live lane after a vector write under R79. -/
theorem Team.lane_writeV (t : Team) {d : VReg} {m : Mask} {y : VVal} {l : Nat} (hd : d.toNat < t.vcnt) (hl : l < t.width)
    (hw : t.width ≤ 1024) (hy : y.fits t.width) (hold : (t.v d).fits t.width) (hdead : t.regs.dead.getLsbD l = false) :
    ((t.writeV d m y).v d).lane l = if m.getLsbD l then y.lane l else (t.v d).lane l := by
  have hylen := VVal.length_lanes hy
  have hvlen := VVal.length_lanes hold
  have hwrite : t.writeV d m y = if m = 0 then t else if t.full m then t.putV d y
      else if t.KeepsShape d m y then t else t.putV d (.g (blend m (y.lanes t.width) ((t.v d).lanes t.width))) := rfl
  rw [hwrite]
  by_cases h0 : m = 0
  · simp [h0]
  rw [if_neg h0]
  by_cases hfull : t.full m = true
  · rw [if_pos hfull, t.v_putV hd, if_pos ((t.full_iff m).mp hfull l hl (by omega) hdead)]
  rw [if_neg hfull]
  by_cases hsame : t.KeepsShape d m y
  · rw [if_pos hsame]
    by_cases hm : m.getLsbD l = true
    · rw [if_pos hm, hsame.lane hy hold hl hm]
    · rw [if_neg hm]
  · rw [if_neg hsame, t.v_putV hd, VVal.g_lane, getD_blend m (by omega) (by omega), VVal.getD_lanes y hl, VVal.getD_lanes _ hl]

/-- The lanes active for an instruction are lanes of EXEC (R223). -/
theorem Team.exec_of_active {t : Team} {m : Option Msk} {l : Nat} (h : (t.active m).getLsbD l = true) :
    t.regs.exec.getLsbD l = true := by
  cases m with
  | none => exact h
  | some k => rw [Team.active, BitVec.getLsbD_and, Bool.and_eq_true] at h; exact h.1

/-- Where no lane is active nothing is written. -/
theorem Team.writeMsk_of_none (t : Team) (d : VReg) {m : Option Msk} (h : t.active m = 0) (y : VVal) :
    t.writeMsk d m y = t := by
  simp [Team.writeMsk, h]

/-- Settles O25: with Z = 1 the excluded lanes of EXEC are written as zero, else the active lanes alone are written. -/
theorem maskedWriteLanes : Obligations.MaskedWriteLanes := by
  intro t d m y l hhas hl hw hy hold _ hdead
  have hd : d.toNat < t.vcnt := hhas d (by simp)
  have hylen := VVal.length_lanes hy
  by_cases h0 : t.active m = 0
  · rw [t.writeMsk_of_none d h0, if_pos h0]
  have hwrite : t.writeMsk d m y = if m.any (·.z) && t.active m != t.regs.exec then
      t.writeV d t.regs.exec (.g (blend (t.active m) (y.lanes t.width) (List.replicate t.width 0)))
      else t.writeV d (t.active m) y := if_neg h0
  rw [if_neg h0, hwrite]
  by_cases hz : (m.any (·.z) && t.active m != t.regs.exec) = true
  · have hfits : (VVal.g (blend (t.active m) (y.lanes t.width) (List.replicate t.width 0))).fits t.width := by
      simp [VVal.fits, length_blend, hylen]
    rw [if_pos hz, t.lane_writeV hd hl hw hfits hold hdead, VVal.g_lane,
      getD_blend _ (by omega) (by simpa using hl), VVal.getD_lanes y hl]
    have hzz := (Bool.and_eq_true _ _ ▸ hz).1
    by_cases hact : (t.active m).getLsbD l = true
    · simp [hact, Team.exec_of_active hact]
    · cases hex : t.regs.exec.getLsbD l <;> simp [hact, hzz, hl]
  · rw [if_neg hz, t.lane_writeV hd hl hw hy hold hdead]
    by_cases hact : (t.active m).getLsbD l = true
    · simp [hact]
    · have hzex : (m.any (·.z) && t.regs.exec.getLsbD l) = false := by
        cases hmz : m.any (·.z) with
        | false => rfl
        | true =>
          have heq : t.active m = t.regs.exec := by simpa [hmz] using hz
          rw [← heq]; simpa using hact
      simp [hact, hzex]

end Sys2Proof.Machine
end

section
/-! Instructions that issue without a check that could fail, and special-register moves (O20). -/

namespace Sys2Proof.Machine

/-! ### Issue -/

/-- The checks of an instruction that asks nothing of its words, its place or its team but registers below VCNT. -/
structure Info.Plain (i : Info) : Prop where
  bad : i.bad = none
  pairs : i.pairs = []
  tiles : i.ts = []
  fmt : i.fmt = false
  xfer : i.xfer = false
  eng : (i.eng == 3) = false
  lvl : i.lvl = 0

/-- The effect of such an instruction runs at once in a ready team that has its registers. -/
theorem State.issueTeam_plain {s : State} {t : Team} {i : Info} (h : Ready s t i.eng i.dests) (hi : i.Plain)
    (hr : t.has (i.named ++ i.vr ++ i.vw)) (k : Team → State → State) : s.issueTeam i t k = k t s := by
  obtain ⟨-, hclass, hlost, herrs, hacc⟩ := h
  exact State.issueTeam_effect (State.issueFault_none hclass hi.bad (by simp [hi.pairs]) hr (by simp [hi.tiles]) hi.fmt
    (by simp [hi.xfer]) (fun he => absurd he (by simpa using hi.eng)) (by simp [hi.lvl]) (by simp [hi.lvl])) hlost
    (State.blocked_nil hacc) herrs k

/-- A ready team runs the effect of an instruction whose registers it has. -/
theorem issue_plain {s : State} {t : Team} {i : Info} (h : Ready s t i.eng i.dests) (hi : i.Plain)
    (hr : t.has (i.named ++ i.vr ++ i.vw)) (k : Team → State → State) : issue i k s = .next (k t s).tick := by
  rw [issue_of_team h.1, State.issueTeam_plain h hi hr]

/-- An instruction with a bad field value parks its team (R541 step 2). -/
theorem issue_bad {s : State} {t : Team} {i : Info} {x : Detail} (h : s.curTeam = some t) (hb : i.bad = some x)
    (k : Team → State → State) : issue i k s = .next (s.park t (mkF .illegalEncoding x 0 0)).tick := by
  rw [issue_of_team h, State.issueTeam_fault (f := mkF .illegalEncoding x 0 0) (by simp [State.issueFault, hb])]

/-- An instruction of an illegal format whose registers the team has parks it (R541 step 3). -/
theorem issue_badFormat {s : State} {t : Team} {i : Info} (h : s.curTeam = some t) (hb : i.bad = none) (hp : i.pairs = [])
    (hr : t.has (i.named ++ i.vr ++ i.vw)) (ht : i.ts = []) (hf : i.fmt = true) (k : Team → State → State) :
    issue i k s = .next (s.park t (mkF .illegalFormat .none 0 0)).tick := by
  have hregs : (i.named ++ i.vr ++ i.vw).any (fun r => decide (t.vcnt ≤ r.toNat)) = false := by
    rw [List.any_eq_false]
    intro r hmem
    have := hr r hmem
    simpa using this
  rw [issue_of_team h, State.issueTeam_fault (f := mkF .illegalFormat .none 0 0)]
  simp only [State.issueFault, hb, hp, ht, hf, hregs, List.any_nil, Bool.false_eq_true, if_false, if_true]

/-! ### Doublewords of masks (R73) -/

theorem getLsbD_maskDw (m : Mask) (k i : Nat) : (maskDw m k).getLsbD i = (decide (i < 64) && m.getLsbD (64 * k + i)) := by
  simp [maskDw]

theorem getLsbD_maskRead (t : Team) (m : Mask) (k : Nat) {i : Nat} (hi : i < 64) :
    (t.maskRead m k).getLsbD i = (decide (64 * k < t.width) && m.getLsbD (64 * k + i)) := by
  unfold Team.maskRead
  split
  · next h => simp [show ¬ 64 * k < t.width by omega]
  · next h => rw [getLsbD_maskDw, decide_eq_true hi, decide_eq_true (show 64 * k < t.width by omega)]

/-- A mask with a doubleword replaced has its bits there, and its own elsewhere. -/
theorem getLsbD_maskSet (m : Mask) (k : Nat) (x : Dw) {l : Nat} (hl : l < 1024) :
    (maskSet m k x).getLsbD l = if 64 * k ≤ l ∧ l < 64 * k + 64 then x.getLsbD (l - 64 * k) else m.getLsbD l := by
  have hones : (0xFFFFFFFFFFFFFFFF : Mask).getLsbD (l - 64 * k) = decide (l - 64 * k < 64) := by
    have : (0xFFFFFFFFFFFFFFFF : Mask) = BitVec.ofNat 1024 (2 ^ 64 - 1) := rfl
    rw [this, BitVec.getLsbD_ofNat, Nat.testBit_two_pow_sub_one]
    simp; omega
  simp only [maskSet, BitVec.getLsbD_or, BitVec.getLsbD_and, BitVec.getLsbD_not, BitVec.getLsbD_shiftLeft,
    BitVec.getLsbD_setWidth, hones, hl, decide_true, Bool.true_and]
  by_cases hlo : l < 64 * k
  · simp [hlo, show ¬ 64 * k ≤ l by omega]
  · by_cases hhi : l < 64 * k + 64
    · simp [hlo, hhi, show 64 * k ≤ l by omega, show l - 64 * k < 64 by omega]
      omega
    · simp [hlo, hhi, show ¬ l - 64 * k < 64 by omega, BitVec.getLsbD_of_ge x (l - 64 * k) (by omega)]

/-! ### SRRD and SRWR (R257) -/

/-- SRRD writes what the register named holds. -/
theorem exec_srrd {s : State} {t : Team} {d : SReg} {n : BitVec 8} {m : Nat} {x : Dw} (h : Ready s t 0 [.s d])
    (hm : n.toNat = m) (hn : srnOk m = true) (hx : s.srRead t m = some x) :
    exec (.srrd d n) s = .next (s.retire (t.setS d x)).tick := by
  subst hm
  have hi := issue_plain (i := { bad := if srnOk n.toNat then none else some .reservedSrn, sw := [d], xr := [n.toNat] }) h
    ⟨if_pos hn, rfl, rfl, rfl, rfl, rfl, rfl⟩ (by simp [Team.has])
    (fun t s => s.retire (t.setS d ((s.srRead t n.toNat).getD 0)))
  rw [hx] at hi
  exact hi

/-- SRWR writes the register named, or parks the team when the value is reserved. -/
theorem exec_srwr {s : State} {t : Team} {a : SReg} {n : BitVec 8} {m : Nat} (h : Ready s t 0 [.s a])
    (hm : n.toNat = m) (hn : srnOk m = true) : exec (.srwr n a) s = .next (match t.srWrite m (t.s a) true with
      | some u => s.retire u
      | none => s.park t (mkF .illegalEncoding .reservedValue 0 0)).tick := by
  subst hm
  exact issue_plain (i := { bad := if srnOk n.toNat then none else some .reservedSrn, sr := [a], xw := [n.toNat] }) h
    ⟨if_pos hn, rfl, rfl, rfl, rfl, rfl, rfl⟩ (by simp [Team.has]) _

/-- The registers of Table 2-2 that are read as they stand, by SRN. -/
def State.srTable (s : State) (t : Team) : List (BitVec 8 × Dw) :=
  [(0x01, BitVec.ofNat 64 t.width), (0x02, BitVec.ofNat 64 t.index), (0x03, BitVec.ofNat 64 t.role),
    (0x04, BitVec.ofNat 64 t.stages), (0x05, BitVec.ofNat 64 (s.groupOf t).gx), (0x06, BitVec.ofNat 64 (s.groupOf t).gy),
    (0x07, BitVec.ofNat 64 (s.groupOf t).gz), (0x08, t.regs.fpctl.setWidth 64), (0x09, t.regs.slim.setWidth 64),
    (0x0A, t.regs.seed), (0x0B, BitVec.ofNat 64 t.vcnt), (0x0C, BitVec.ofNat 64 t.rdDepth),
    (0x0D, if t.pdis then BitVec.ofNat 64 (2 ^ 31 + (t.pdLeft - (s.clk - t.pdAt)) % 2 ^ 21) else 0),
    (0x10, BitVec.ofNat 64 t.cnt.ld), (0x11, BitVec.ofNat 64 t.cnt.st), (0x12, BitVec.ofNat 64 t.cnt.cp),
    (0x13, BitVec.ofNat 64 t.cnt.ti), (0x14, BitVec.ofNat 64 t.tl.cpy.count), (0x15, BitVec.ofNat 64 t.tl.tile.count),
    (0x16, BitVec.ofNat 64 t.tl.gath.count), (0x17, BitVec.ofNat 64 t.tl.coll.count), (0x18, t.regs.srctr)]

/-- PDSTATE shows bit 31 and the budget that remains, while pre-emption is disabled (Table 2-2). -/
theorem State.srRead_pdstate (s : State) (t : Team) : s.srRead t 0x0D =
    some (if t.pdis then BitVec.ofNat 64 (2 ^ 31 + (t.pdLeft - (s.clk - t.pdAt)) % 2 ^ 21) else 0) := by
  show some (BitVec.ofNat 64 (b2n t.pdis * 2 ^ 31 + bits (s.pdRemain t) 20 0)) = _
  cases h : t.pdis <;> simp [h, b2n, State.pdRemain, bits]

theorem State.srRead_of_mem_srTable (s : State) (t : Team) :
    ∀ p ∈ s.srTable t, srnOk p.1.toNat = true ∧ s.srRead t p.1.toNat = some p.2 := by
  simp only [State.srTable, List.forall_mem_cons]
  exact ⟨⟨rfl, rfl⟩, ⟨rfl, rfl⟩, ⟨rfl, rfl⟩, ⟨rfl, rfl⟩, ⟨rfl, rfl⟩, ⟨rfl, rfl⟩, ⟨rfl, rfl⟩, ⟨rfl, rfl⟩, ⟨rfl, rfl⟩,
    ⟨rfl, rfl⟩, ⟨rfl, rfl⟩, ⟨rfl, rfl⟩, ⟨rfl, s.srRead_pdstate t⟩, ⟨rfl, rfl⟩, ⟨rfl, rfl⟩, ⟨rfl, rfl⟩, ⟨rfl, rfl⟩, ⟨rfl, rfl⟩,
    ⟨rfl, rfl⟩, ⟨rfl, rfl⟩, ⟨rfl, rfl⟩, ⟨rfl, rfl⟩, fun _ h => absurd h (List.not_mem_nil)⟩

/-- The doublewords of EXEC, DEAD and DEADSRC are read by number (Table 2-2, R73). -/
theorem State.srRead_masks (s : State) (t : Team) {k : Nat} (hk : k < 16) :
    s.srRead t (0x20 + k) = some (t.maskRead t.regs.exec k) ∧ s.srRead t (0x30 + k) = some (t.maskRead t.regs.dead k) ∧
      s.srRead t (0x40 + k) = some (t.maskRead t.regs.deadsrc k) := by
  interval_cases k <;> exact ⟨rfl, rfl, rfl⟩

/-- The numbers of a doubleword of EXEC, DEAD and DEADSRC fit the field, and stand in Table 2-2. -/
theorem srn_mask {b k : Nat} (hb : b = 0x20 ∨ b = 0x30 ∨ b = 0x40) (hk : k < 16) :
    (BitVec.ofNat 8 (b + k)).toNat = b + k ∧ srnOk (b + k) = true := by
  refine ⟨by rw [BitVec.toNat_ofNat]; omega, ?_⟩
  simp [srnOk]
  omega

/-- A write of EXEC changes the doubleword named, where it lies below WIDTH (R17, R73). -/
theorem Team.srWrite_exec (t : Team) {k : Nat} (hk : k < 16) (x : Dw) : t.srWrite (0x20 + k) x true =
    some (if t.width ≤ 64 * k then t else t.setExec (maskSet t.regs.exec k x)) := by
  rw [apply_ite some]
  interval_cases k <;> rfl

/-- A write of DEADSRC clears the bits written as 1 of the doubleword named, where it lies below WIDTH (R74). -/
theorem Team.srWrite_deadsrc (t : Team) {k : Nat} (hk : k < 16) (x : Dw) : t.srWrite (0x40 + k) x true =
    some (if t.width ≤ 64 * k then t else { t with regs := { t.regs with
      deadsrc := maskSet t.regs.deadsrc k (maskDw t.regs.deadsrc k &&& ~~~x) &&& widthMask t.width } }) := by
  rw [apply_ite some]
  interval_cases k <;> rfl

/-- A read-only register ignores a write (Table 2-2). -/
theorem Team.srWrite_readOnly (t : Team) {n : Nat} (h : n ≤ 0x07 ∨ n = 0x0B ∨ n = 0x0C ∨ n = 0x0D ∨
    (0x10 ≤ n ∧ n ≤ 0x18) ∨ (0x30 ≤ n ∧ n < 0x40)) (x : Dw) : srnOk n = true ∧ t.srWrite n x true = some t := by
  refine ⟨by simp [srnOk]; omega, ?_⟩
  unfold Team.srWrite
  split
  · omega
  · omega
  · omega
  · rw [if_neg (by omega), if_neg (by omega)]

/-- DEADSRC after a write of a doubleword: the bits written as 1 are cleared (R74). -/
theorem getLsbD_deadsrc_written (m : Mask) (k : Nat) (x : Dw) {w l : Nat} (hl : l < w) :
    (maskSet m k (maskDw m k &&& ~~~x) &&& widthMask w).getLsbD l =
      (m.getLsbD l && !(decide (64 * k ≤ l ∧ l < 64 * k + 64) && x.getLsbD (l - 64 * k))) := by
  rw [getLsbD_and_widthMask, decide_eq_true hl, Bool.and_true]
  by_cases h : l < 1024
  · rw [getLsbD_maskSet _ _ _ h]
    split
    · next hk =>
      have hlt : l - 64 * k < 64 := by omega
      have hadd : 64 * k + (l - 64 * k) = l := by omega
      rw [BitVec.getLsbD_and, getLsbD_maskDw, hadd]
      simp [hlt, hk]
    · next hk => simp [hk]
  · simp [BitVec.getLsbD_of_ge _ l (show 1024 ≤ l by omega)]

/-- Settles O20: SRRD and SRWR by the register that the SRN names. -/
theorem specialRegisterMoves : Obligations.SpecialRegisterMoves := by
  intro s t d a n
  refine ⟨fun h => ⟨fun p hp => ?_, ⟨_, exec_srrd h rfl rfl rfl, fun w hw => ?_⟩, fun k hk => ?_⟩,
    fun h hn => ⟨issue_bad h (by simp [hn]) _, issue_bad h (by simp [hn]) _⟩,
    fun h => ⟨fun hrm => ?_, fun hrm => ?_, exec_srwr h rfl rfl, exec_srwr h rfl rfl, fun k hk => ?_, fun k hk hw => ?_,
      fun k hk hw => ?_⟩⟩
  · obtain ⟨hok, hread⟩ := s.srRead_of_mem_srTable t p hp
    exact exec_srrd h rfl hok hread
  · rw [BitVec.getLsbD_ofNat, decide_eq_true hw, Bool.true_and, testBit_summary]
  · obtain ⟨hx, hy, hz⟩ := s.srRead_masks t hk
    obtain ⟨hnx, hokx⟩ := srn_mask (.inl rfl) hk
    obtain ⟨hny, hoky⟩ := srn_mask (.inr (.inl rfl)) hk
    obtain ⟨hnz, hokz⟩ := srn_mask (.inr (.inr rfl)) hk
    exact ⟨_, _, _, exec_srrd h hnx hokx hx, exec_srrd h hny hoky hy,
      exec_srrd h hnz hokz hz, fun i hi => ⟨getLsbD_maskRead _ _ _ hi, getLsbD_maskRead _ _ _ hi,
      getLsbD_maskRead _ _ _ hi⟩⟩
  · have hwrite : t.srWrite 0x08 (t.s a) true =
        some { t with regs := { t.regs with fpctl := (t.s a).setWidth 32 &&& 0x00071F1F } } := if_neg (by omega)
    rw [exec_srwr h (n := 0x08) (m := 0x08) rfl rfl, hwrite]
  · have hwrite : t.srWrite 0x08 (t.s a) true = none := if_pos hrm
    rw [exec_srwr h (n := 0x08) (m := 0x08) rfl rfl, hwrite]
  · obtain ⟨hok, hwrite⟩ := t.srWrite_readOnly hk (t.s a)
    rw [exec_srwr h rfl hok, hwrite]
  · obtain ⟨hnx, hokx⟩ := srn_mask (.inl rfl) hk
    obtain ⟨hnz, hokz⟩ := srn_mask (.inr (.inr rfl)) hk
    refine ⟨⟨maskSet t.regs.exec k (t.s a), ?_, fun l hl => getLsbD_maskSet _ _ _ hl⟩, ⟨_, ?_, fun l hl =>
      getLsbD_deadsrc_written _ _ _ hl⟩⟩
    · rw [exec_srwr h hnx hokx, t.srWrite_exec hk, if_neg (by omega)]
    · rw [exec_srwr h hnz hokz, t.srWrite_deadsrc hk, if_neg (by omega)]
  · obtain ⟨hnx, hokx⟩ := srn_mask (.inl rfl) hk
    obtain ⟨hnz, hokz⟩ := srn_mask (.inr (.inr rfl)) hk
    exact ⟨by rw [exec_srwr h hnx hokx, t.srWrite_exec hk, if_pos hw],
      by rw [exec_srwr h hnz hokz, t.srWrite_deadsrc hk, if_pos hw]⟩

end Sys2Proof.Machine
end

section
/-! What an instruction that FPCTL governs does at its end: no trap, the first trap, the flags (R194, R195, R201). -/

namespace Sys2Proof.Machine

/-! ### Bits gathered over a list -/

/-- A bit of the numbers of a list joined by OR. -/
theorem testBit_foldl_or {α : Type} (f : α → Nat) (xs : List α) (a k : Nat) :
    (xs.foldl (fun a x => a ||| f x) a).testBit k = (a.testBit k || xs.any (fun x => (f x).testBit k)) := by
  induction xs generalizing a with
  | nil => simp
  | cons x xs ih => simp [ih, Nat.testBit_or, Bool.or_assoc]

/-- A bit of a mask gathered over a list: an element that is picked stands at that place. -/
theorem getLsbD_foldl_or {α : Type} (p : α → Bool) (g : α → Nat) (xs : List α) (a : Mask) {l : Nat} (hl : l < 1024) :
    (xs.foldl (fun (a : Mask) x => if p x then a ||| (1 <<< g x : Nat) else a) a).getLsbD l =
      (a.getLsbD l || xs.any (fun x => p x && g x == l)) := by
  have hone : ∀ n : Nat, ((1 <<< n : Nat) : Mask).getLsbD l = (n == l) := fun n => by
    rw [BitVec.natCast_eq_ofNat, BitVec.getLsbD_ofNat, decide_eq_true hl, Bool.true_and, Nat.one_shiftLeft,
      Nat.testBit_two_pow]
    rfl
  induction xs generalizing a with
  | nil => simp
  | cons x xs ih =>
    rw [List.foldl_cons, ih, List.any_cons]
    cases p x <;> simp only [if_true, Bool.false_eq_true, if_false, BitVec.getLsbD_or, hone, Bool.true_and, Bool.false_and,
      Bool.false_or, Bool.or_assoc]

/-- A bit of a mask gathered over a list from no lane: an element that is picked stands there. -/
theorem getLsbD_gather {α : Type} (p : α → Bool) (g : α → Nat) (xs : List α) {l : Nat} (hl : l < 1024) :
    (xs.foldl (fun (a : Mask) x => if p x then a ||| (1 <<< g x : Nat) else a) 0).getLsbD l = true ↔
      ∃ x ∈ xs, p x = true ∧ g x = l := by
  have hzero : (0 : Mask).getLsbD l = false := BitVec.getLsbD_zero
  rw [getLsbD_foldl_or p g xs 0 hl, hzero, Bool.false_or, List.any_eq_true]
  simp only [Bool.and_eq_true, beq_iff_eq]

/-- A mask of the lanes that satisfy a test. -/
theorem getLsbD_maskOf (w : Nat) (f : Nat → Bool) {l : Nat} (hl : l < 1024) :
    (maskOf w f).getLsbD l = (decide (l < w) && f l) := by
  rw [Bool.eq_iff_iff, maskOf, getLsbD_gather f (fun l => l) (List.range w) hl]
  simp [and_comm]

/-- A bit of a field. -/
theorem testBit_bits (x hi lo i : Nat) : (bits x hi lo).testBit i = (decide (i < hi + 1 - lo) && x.testBit (lo + i)) := by
  rw [bits, Nat.testBit_mod_two_pow, Nat.testBit_shiftRight]

/-- The lanes of a mask below WIDTH. -/
theorem Team.mem_lanesOf (t : Team) (m : Mask) (l : Nat) : l ∈ t.lanesOf m ↔ l < t.width ∧ m.getLsbD l = true := by
  simp [Team.lanesOf]

/-! ### The end of a float instruction -/

/-- A condition is among the flags of a lane when an element raises it. -/
theorem FLane.testBit_all (x : FLane) (k : Nat) : x.all.testBit k = true ↔ ∃ f ∈ x.fl, f.testBit k = true := by
  rw [FLane.all, testBit_foldl_or (fun f => f), Nat.zero_testBit, Bool.false_or, List.any_eq_true]

/-- A condition is among the flags of all lanes when an element of a lane raises it. -/
theorem testBit_allFlags (xs : List FLane) (k : Nat) :
    (allFlags xs).testBit k = true ↔ ∃ x ∈ xs, ∃ f ∈ x.fl, f.testBit k = true := by
  rw [allFlags, testBit_foldl_or FLane.all, Nat.zero_testBit, Bool.false_or, List.any_eq_true]
  simp only [FLane.testBit_all]

/-- A condition is among the flags of the lanes computed when an active lane raises it. -/
theorem Team.testBit_allFlags_lanes (t : Team) (act : Mask) {F : Nat → FLane} {g : Nat → List Nat}
    (h : ∀ l, l < t.width → act.getLsbD l = true → (F l).fl = g l) (k : Nat) :
    (allFlags ((t.lanesOf act).map F)).testBit k = true ↔
      ∃ l, l < t.width ∧ act.getLsbD l = true ∧ ∃ x ∈ g l, x.testBit k = true := by
  rw [testBit_allFlags]
  simp only [List.mem_map, exists_exists_and_eq_and, Team.mem_lanesOf]
  constructor
  · rintro ⟨l, ⟨hl, hact⟩, hx⟩
    exact ⟨l, hl, hact, h l hl hact ▸ hx⟩
  · rintro ⟨l, hl, hact, hx⟩
    exact ⟨l, ⟨hl, hact⟩, (h l hl hact).symm ▸ hx⟩

theorem lowBit_zero (n i : Nat) : lowBit n i 0 = none := by
  induction n generalizing i with
  | zero => rfl
  | succ n ih => simp [lowBit, ih]

/-- With no condition enabled and raised there is no trap (R195). -/
theorem fpTrap_none {fpctl : Wd} {xs : List FLane} (h : allFlags xs &&& bits fpctl.toNat 12 8 = 0) : fpTrap fpctl xs = none := by
  simp [fpTrap, h, lowBit_zero]

/-- An invalid operation is the first trap when it is enabled and raised (R195). -/
theorem fpTrap_invalid {fpctl : Wd} {xs : List FLane} (hen : fpctl.getLsbD 8 = true) (hr : (allFlags xs).testBit 0 = true) :
    ∃ f, fpTrap fpctl xs = some f ∧ f.cls = .fpInvalid := by
  have hbit : (allFlags xs &&& bits fpctl.toNat 12 8).testBit 0 = true := by
    rw [Nat.testBit_and, hr, testBit_bits]
    exact hen
  have hlow : lowBit 5 0 (allFlags xs &&& bits fpctl.toNat 12 8) = some 0 := by
    rw [lowBit, if_pos (by simpa [Nat.testBit_zero] using hbit)]
  have hsome : (xs.find? (fun x => x.all.testBit 0)).isSome = true := by
    obtain ⟨x, hx, hfl⟩ := (testBit_allFlags xs 0).mp hr
    exact List.find?_isSome.mpr ⟨x, hx, (FLane.testBit_all x 0).mpr hfl⟩
  obtain ⟨x, hx⟩ := Option.isSome_iff_exists.mp hsome
  simp only [fpTrap, hlow, hx, Option.map_some]
  exact ⟨_, rfl, rfl⟩

/-- Lanes that no shadow checks meet no upset (R200). -/
def Unchecked (xs : List FLane) : Prop := ∀ x ∈ xs, x.vals = []

theorem State.misfired_of_unchecked (s : State) (t : Team) {xs : List FLane} (h : Unchecked xs) : s.misfired t xs = none := by
  rw [State.misfired, List.findSome?_eq_none_iff]
  intro x hx
  simp [h x hx]

theorem State.shadowMet_of_unchecked (s : State) (t : Team) {xs : List FLane} (h : Unchecked xs) : s.shadowMet t xs = s := by
  have hany : ∀ p : Nat × Nat × Nat × FpSum, xs.any (fun x => x.vals != [] && x.lane == p.2.1) = false := fun p => by
    rw [List.any_eq_false]
    intro x hx
    simp [h x hx]
  simp [State.shadowMet, hany]

theorem State.misfired_of_no_shadow {s : State} (h : s.rel.shadow = []) (t : Team) (xs : List FLane) :
    s.misfired t xs = none := by
  simp [State.misfired, h]

theorem State.shadowMet_of_no_shadow {s : State} (h : s.rel.shadow = []) (t : Team) (xs : List FLane) :
    s.shadowMet t xs = s := by
  simp only [State.shadowMet, h, List.filter_nil]
  rw [← h]

/-- With no upset and no trap the sticky flags are raised and the result is written (R194). -/
theorem State.fpDone_retires {s : State} {t : Team} {xs : List FLane} (hmis : s.misfired t xs = none)
    (hmet : s.shadowMet t xs = s) (htrap : fpTrap t.regs.fpctl xs = none) (write : Team → Team) :
    s.fpDone t xs write = s.retire (write (t.raise (allFlags xs))) := by
  simp only [State.fpDone, hmis, hmet, htrap]

/-- With no upset the first trap parks the team (R195). -/
theorem State.fpDone_traps {s : State} {t : Team} {xs : List FLane} {f : FaultInfo} (hmis : s.misfired t xs = none)
    (hmet : s.shadowMet t xs = s) (htrap : fpTrap t.regs.fpctl xs = some f) (write : Team → Team) :
    s.fpDone t xs write = s.park t f := by
  simp only [State.fpDone, hmis, hmet, htrap]

/-- With no trap enabled and no upset to come, a float instruction raises its flags and writes (R194). -/
theorem State.fpDone_of_noTrap {s : State} {t : Team} (hs : s.rel.shadow = []) (ht : t.noTrap) (xs : List FLane)
    (write : Team → Team) : s.fpDone t xs write = s.retire (write (t.raise (allFlags xs))) :=
  State.fpDone_retires (State.misfired_of_no_shadow hs t xs) (State.shadowMet_of_no_shadow hs t xs)
    (fpTrap_none (by rw [show bits t.regs.fpctl.toNat 12 8 = 0 from ht, Nat.and_zero])) write

end Sys2Proof.Machine
end

section
/-! Predicates: logic, packing and compares by lanes (O13, O22). -/

namespace Sys2Proof.Machine

/-! ### Writes of predicates under a mask (R70, R223) -/

/-- A lane in which a destination keeps its bit does not act, for lanes that act in EXEC (R70). -/
theorem off_of_kept {t : Team} {act : Mask} (hact : ∀ l, act.getLsbD l = true → t.regs.exec.getLsbD l = true) {r : PReg}
    {ds : List PReg} (hr : r ∈ ds) {l : Nat}
    (h : act.getLsbD l = false ∨ t.regs.exec &&& t.regs.dead = 0 ∧ t.regs.dead.getLsbD l = true ∨ r ∉ ds) :
    act.getLsbD l = false := by
  rcases h with h | ⟨hlive, hdead⟩ | h
  · exact h
  · by_contra hon
    have hl := congrArg (fun m : Mask => m.getLsbD l) hlive
    simp [hact l (by simpa using hon), hdead] at hl
  · exact absurd hr h

/-- A write of a predicate in lanes of EXEC keeps the lanes that do not act, and the other registers. -/
theorem Team.setP_keeps (t : Team) (d : PReg) {act : Mask} (hact : ∀ l, act.getLsbD l = true → t.regs.exec.getLsbD l = true)
    (x : Mask) : PredKept t (t.setP d act x) act [d] := by
  refine ⟨t.setP_width d act x, fun r l => ⟨fun hw => Team.p_of_width_le _ _ (by rwa [t.setP_width]), fun hkeep => ?_⟩⟩
  by_cases hr : r = d
  · have hoff := off_of_kept hact (by simp [hr]) hkeep
    by_cases hd : d = 0
    · rw [hd, Team.setP_zero]
    rw [hr, t.getLsbD_p_setP_self hd, hoff, if_neg Bool.false_ne_true, t.p_inWidth]
  · rw [t.p_setP_other hr]

theorem Team.writePMsk_eq (t : Team) (d : PReg) (m : Option Msk) (y : Mask) : t.writePMsk d m y = if t.active m = 0 then t
    else if m.any (·.z) then t.setP d t.regs.exec (y &&& t.active m) else t.setP d (t.active m) y := rfl

/-- Without Z a predicate is written under MSK in the active lanes. -/
theorem Team.writePMsk_noZ (t : Team) (d : PReg) {m : Option Msk} (h : mskNoZ m = true) (y : Mask) :
    t.writePMsk d m y = if t.active m = 0 then t else t.setP d (t.active m) y := by
  have hz : m.any (·.z) = false := by
    cases m with
    | none => rfl
    | some k => simpa [mskNoZ] using h
  rw [t.writePMsk_eq, hz, if_neg Bool.false_ne_true]

/-- A predicate written under MSK: with Z = 1 the excluded lanes of EXEC are cleared (R223). -/
theorem Team.getLsbD_p_writePMsk (t : Team) {d : PReg} (hd : d ≠ 0) (m : Option Msk) (y : Mask) {l : Nat} (hl : l < t.width) :
    ((t.writePMsk d m y).p d).getLsbD l =
      if (t.active m).getLsbD l then y.getLsbD l
      else if m.any (·.z) && decide (t.active m ≠ 0) && t.regs.exec.getLsbD l then false
      else (t.p d).getLsbD l := by
  rw [t.writePMsk_eq]
  by_cases h0 : t.active m = 0
  · simp [h0]
  rw [if_neg h0, decide_eq_true h0]
  by_cases hz : m.any (·.z) = true
  · rw [if_pos hz, t.getLsbD_p_setP_self hd, BitVec.getLsbD_and]
    cases hact : (t.active m).getLsbD l with
    | true => simp [hl, Team.exec_of_active hact]
    | false => cases t.regs.exec.getLsbD l <;> simp [hl, hz]
  · rw [if_neg hz, t.getLsbD_p_setP_self hd]
    simp [hl, hz]

/-! ### Predicates packed and unpacked (R87, R263) -/

theorem predAt_toNat {f : PReg} {i n : Nat} (h : f.toNat + n ≤ 16) (hi : i < n) : (predAt f i).toNat = f.toNat + i := by
  rw [predAt, BitVec.toNat_ofNat]
  omega

/-- Predicates `f` onward written one after another in the lanes of EXEC: the i-th takes `bit i`. -/
def Team.unpack (t : Team) (f : PReg) (bit : Nat → Mask) (n : Nat) : Team :=
  (List.range n).foldl (fun t i => t.setP (predAt f i) t.regs.exec (bit i)) t

theorem Team.unpack_succ (t : Team) (f : PReg) (bit : Nat → Mask) (n : Nat) :
    t.unpack f bit (n + 1) =
      (t.unpack f bit n).setP (predAt f n) (t.unpack f bit n).regs.exec (bit n) := by
  simp [Team.unpack, List.range_succ]

/-- Unpacking changes the predicates alone. -/
theorem Team.unpack_eq (t : Team) (f : PReg) (bit : Nat → Mask) (n : Nat) :
    t.unpack f bit n = { t with regs := { t.regs with p := (t.unpack f bit n).regs.p } } := by
  induction n with
  | zero => rfl
  | succ n ih =>
    rw [t.unpack_succ, Team.setP_eq]
    generalize ((t.unpack f bit n).setP (predAt f n) (t.unpack f bit n).regs.exec (bit n)).regs.p = ps
    rw [ih]

@[simp] theorem Team.unpack_width (t : Team) (f : PReg) (bit : Nat → Mask) (n : Nat) : (t.unpack f bit n).width = t.width := by
  rw [Team.unpack_eq]

@[simp] theorem Team.unpack_exec (t : Team) (f : PReg) (bit : Nat → Mask) (n : Nat) :
    (t.unpack f bit n).regs.exec = t.regs.exec := by
  rw [Team.unpack_eq]

/-- A register outside the range unpacked stands. -/
theorem Team.p_unpack_other (t : Team) {f r : PReg} {n : Nat} (hn : f.toNat + n ≤ 16)
    (h : r.toNat < f.toNat ∨ f.toNat + n ≤ r.toNat) (bit : Nat → Mask) : (t.unpack f bit n).p r = t.p r := by
  induction n with
  | zero => rfl
  | succ n ih =>
    have hne : r ≠ predAt f n := fun he => by
      have := predAt_toNat hn (Nat.lt_succ_self n)
      rw [← he] at this
      omega
    rw [t.unpack_succ, Team.p_setP_other _ hne, ih (by omega) (by omega)]

/-- A register of the range takes its bit in the active lanes below WIDTH; p0 takes none. -/
theorem Team.p_unpack (t : Team) {f : PReg} {i n : Nat} (hn : f.toNat + n ≤ 16) (hi : i < n) (h0 : 0 < f.toNat + i)
    (bit : Nat → Mask) (l : Nat) : ((t.unpack f bit n).p (predAt f i)).getLsbD l =
      (decide (l < t.width) && if t.regs.exec.getLsbD l then (bit i).getLsbD l else (t.p (predAt f i)).getLsbD l) := by
  induction n with
  | zero => omega
  | succ n ih =>
    have hat := predAt_toNat hn hi
    have hlast := predAt_toNat hn (Nat.lt_succ_self n)
    rw [t.unpack_succ]
    by_cases hin : i = n
    · subst hin
      have hne : predAt f i ≠ 0 := fun he => by
        rw [he] at hat
        exact absurd hat (by simp; omega)
      rw [Team.getLsbD_p_setP_self _ hne, t.unpack_width, t.unpack_exec, t.p_unpack_other (by omega) (by omega)]
    · have hne : predAt f i ≠ predAt f n := fun he => by
        rw [he] at hat
        omega
      rw [Team.p_setP_other _ hne, ih (by omega) (by omega)]

/-- Unpacking keeps the lanes that are not active, and the registers outside the range. -/
theorem Team.unpack_keeps (t : Team) {f : PReg} {n : Nat} (hn : f.toNat + n ≤ 16) (bit : Nat → Mask) :
    PredKept t (t.unpack f bit n) t.regs.exec ((List.range n).map (predAt f)) := by
  refine ⟨t.unpack_width f bit n, fun r l => ⟨fun hw => Team.p_of_width_le _ _ (by rwa [t.unpack_width]),
    fun hkeep => ?_⟩⟩
  by_cases hr : f.toNat ≤ r.toNat ∧ r.toNat < f.toNat + n ∧ 0 < r.toNat
  · obtain ⟨hlo, hhi, hpos⟩ := hr
    have hrat : predAt f (r.toNat - f.toNat) = r := BitVec.eq_of_toNat_eq (by
      rw [predAt_toNat hn (show r.toNat - f.toNat < n by omega)]; omega)
    have hoff := off_of_kept (fun _ h => h)
      (List.mem_map.mpr ⟨_, List.mem_range.mpr (show r.toNat - f.toNat < n by omega), hrat⟩) hkeep
    have hp := t.p_unpack hn (show r.toNat - f.toNat < n by omega) (by omega) bit l
    rw [hrat, hoff, if_neg Bool.false_ne_true, t.p_inWidth] at hp
    exact hp
  · by_cases h0 : r.toNat = 0
    · have : r = 0 := BitVec.eq_of_toNat_eq (by simpa using h0)
      rw [this, Team.p_zero, Team.p_zero, t.unpack_width]
    · rw [t.p_unpack_other hn (by omega)]

/-- A bit of the word that PPACK gives a lane. -/
theorem Team.getLsbD_packWord (t : Team) (f : PReg) {c : Nat} (hc : c ≤ 32) (l i : Nat) :
    (t.packWord f c l).getLsbD i = (decide (i < c) && (t.p (predAt f i)).getLsbD l) := by
  have hsum : (List.range c).foldl (fun a i => a + b2n ((t.p (predAt f i)).getLsbD l) * 2 ^ i) 0 =
      sumBits (fun i => (t.p (predAt f i)).getLsbD l = true) c := by
    unfold sumBits
    congr 1
    funext a i
    cases h : (t.p (predAt f i)).getLsbD l <;> simp [b2n, h]
  rw [Team.packWord, hsum, BitVec.getLsbD_ofNat, Bool.eq_iff_iff, Bool.and_eq_true, testBit_sumBits, Bool.and_eq_true,
    decide_eq_true_eq, decide_eq_true_eq]
  constructor
  · exact fun h => h.2
  · exact fun h => ⟨by omega, h⟩

end Sys2Proof.Machine
end

section
/-! Predicate compares by lanes, and the statements about predicates (O13, O22). -/

namespace Sys2Proof.Machine

/-! ### Comparing F32 words (R265) -/

/-- An F32 word decodes to a NaN exactly when its exponent is all ones and its fraction is not zero (Table 5-1). -/
theorem fF32_decode_nan {x : Wd} (h : nan32 x = true) :
    ∃ n fr, fF32.decode x.toNat = .nan n fr (sig32 x) := by
  simp only [nan32, Bool.and_eq_true, beq_iff_eq, bne_iff_ne] at h
  obtain ⟨hex, hfr⟩ := h
  have hsig : sig32 x = !(x.toNat % 2 ^ 23).testBit 22 := by
    rw [Nat.testBit_mod_two_pow]
    simp [sig32, nan32, hex, hfr, BitVec.getLsbD]
  refine ⟨fF32.sign x.toNat, x.toNat % 2 ^ 23, ?_⟩
  rw [hsig]
  have hex' : (x.toNat >>> 23) % 2 ^ 8 = 2 ^ 8 - 1 := hex
  have hfr' : x.toNat % 2 ^ 23 ≠ 0 := hfr
  simp only [Fmt.decode, fF32, hex', hfr', and_self, if_true, if_false]
  rfl

theorem fF32_decode_not_nan {x : Wd} (h : nan32 x = false) (n : Bool) (fr : Nat) (sg : Bool) :
    fF32.decode x.toNat ≠ .nan n fr sg := by
  have h' : ¬ ((x.toNat >>> 23) % 2 ^ 8 = 2 ^ 8 - 1 ∧ x.toNat % 2 ^ 23 ≠ 0) := by
    rintro ⟨hex, hfr⟩
    have : nan32 x = true := by
      simp only [nan32, Bool.and_eq_true, beq_iff_eq, bne_iff_ne]
      exact ⟨hex, hfr⟩
    simp [this] at h
  intro h
  simp only [Fmt.decode] at h
  split_ifs at h with hinf hfr hone
  · exact h' ⟨hinf.2, hfr⟩
  · exact absurd hone.1 (by decide)

/-- The order that the model compares by is that of the words' values: both zeros stand together below the positive ones. -/
theorem compare_zeroKey (x y : Wd) :
    compare (if x.toNat % 2 ^ 31 = 0 then 0 else fF32.key x.toNat) (if y.toNat % 2 ^ 31 = 0 then 0 else fF32.key y.toNat) =
      compare (key32 x) (key32 y) := by
  have hkey : ∀ z : Wd, (if z.toNat % 2 ^ 31 = 0 then 0 else fF32.key z.toNat) = key32 z - if key32 z < 0 then 1 else 0 := by
    intro z
    have hlt := z.isLt
    have hsign : fF32.sign z.toNat = z.getLsbD 31 := rfl
    have htop : z.getLsbD 31 = decide (2 ^ 31 ≤ z.toNat) := by
      rw [← BitVec.msb_eq_getLsbD_last, BitVec.msb_eq_decide]
    have hk : fF32.key z.toNat = if 2 ^ 31 ≤ z.toNat then -((z.toNat % 2 ^ 31 : Nat) : Int) - 1 else z.toNat := by
      rw [Fmt.key, hsign, htop]
      simp [fF32]
    rw [hk, key32, htop]
    simp only [decide_eq_true_eq]
    omega
  rw [hkey, hkey]
  rcases lt_trichotomy (key32 x) (key32 y) with h | h | h
  · rw [compare_lt_iff_lt.mpr h, compare_lt_iff_lt]; omega
  · rw [h, compare_eq_iff_eq.mpr rfl, compare_eq_iff_eq.mpr rfl]
  · rw [compare_gt_iff_gt.mpr h, compare_gt_iff_gt]; omega

/-- What an F32 word decodes to: a NaN, an infinity or a number. -/
theorem fF32_decode_cases (x : Wd) : (nan32 x = true ∧ ∃ n fr, fF32.decode x.toNat = .nan n fr (sig32 x)) ∨
    (nan32 x = false ∧ sig32 x = false ∧
      ((∃ n, fF32.decode x.toNat = .inf n) ∨ ∃ n m e, fF32.decode x.toNat = .fin n m e)) := by
  cases h : nan32 x with
  | true => exact .inl ⟨rfl, fF32_decode_nan h⟩
  | false =>
    refine .inr ⟨rfl, by simp [sig32, h], ?_⟩
    cases hd : fF32.decode x.toNat with
    | nan n fr sg => exact absurd hd (fF32_decode_not_nan h n fr sg)
    | inf n => exact .inl ⟨n, rfl⟩
    | fin n m e => exact .inr ⟨n, m, e, rfl⟩

/-- How two F32 words compare: unordered when one is a NaN, else by value (R265). -/
theorem fCmp_eq (x y : Wd) : fCmp x.toNat y.toNat = if nan32 x || nan32 y then (none, true, sig32 x || sig32 y)
    else (some (compare (key32 x) (key32 y)), false, false) := by
  rw [← compare_zeroKey]
  rcases fF32_decode_cases x with ⟨hx, n, fr, hxd⟩ | ⟨hx, hxs, ⟨n, hxd⟩ | ⟨n, i, e, hxd⟩⟩ <;>
  rcases fF32_decode_cases y with ⟨hy, n', fr', hyd⟩ | ⟨hy, hys, ⟨n', hyd⟩ | ⟨n', i', e', hyd⟩⟩ <;>
  simp [fCmp, *]

/-! ### PCMP (R264, R265) -/

theorem cmpLane_fst (ty : CmpTy) (cc : Cc) (x y : Wd) : (cmpLane ty cc x y).1 = cmpOf ty cc x y := by
  cases ty with
  | i32 => rfl
  | u32 => rfl
  | f32 => cases h : nan32 x || nan32 y <;> simp [cmpLane, cmpOf, fCmp_eq, h]

/-- NV is raised by a signalling NaN, and by any NaN under an ordering condition (R265). -/
theorem cmpLane_snd (ty : CmpTy) (cc : Cc) (x y : Wd) : (cmpLane ty cc x y).2 = true ↔
    ty = .f32 ∧ (sig32 x = true ∨ sig32 y = true ∨
      ((nan32 x = true ∨ nan32 y = true) ∧ (cc = .lt ∨ cc = .le ∨ cc = .gt ∨ cc = .ge))) := by
  cases ty with
  | i32 => simp [cmpLane]
  | u32 => simp [cmpLane]
  | f32 =>
    cases h : nan32 x || nan32 y with
    | true => simp [cmpLane, fCmp_eq, h, or_assoc, Bool.or_eq_true _ _ ▸ h]
    | false =>
      obtain ⟨hx, hy⟩ := Bool.or_eq_false_iff.mp h
      simp [cmpLane, fCmp_eq, sig32, hx, hy]

/-- What PCMP computes in the active lanes. -/
def Team.cmpLanes (t : Team) (a : VReg) (b : CmpB) (cc : Cc) (ty : CmpTy) (m : Option Msk) : List FLane :=
  (t.lanesOf (t.active m)).map (fun l =>
    { lane := l, res := 0, fl := [if (cmpLane ty cc ((t.v a).lane l) ((t.cmpVal b).lane l)).2 then flNV else 0] })

/-- The active lanes in which a comparison holds. -/
def Team.cmpMask (t : Team) (a : VReg) (b : CmpB) (cc : Cc) (ty : CmpTy) (m : Option Msk) : Mask :=
  (t.lanesOf (t.active m)).foldl (fun (y : Mask) l =>
    if (cmpLane ty cc ((t.v a).lane l) ((t.cmpVal b).lane l)).1 then y ||| (1 <<< l : Nat) else y) 0

theorem State.pcmp_eq (s : State) (t : Team) (d : PReg) (a : VReg) (b : CmpB) (cc : Cc) (ty : CmpTy) (m : Option Msk) :
    s.pcmp t d a b cc ty m =
      s.fpDone t (t.cmpLanes a b cc ty m) (fun u => u.writePMsk d m (t.cmpMask a b cc ty m)) := by
  have hrs : (t.lanesOf (t.active m)).map (fun l => (l, cmpLane ty cc (((t.v a).lanes t.width).getD l 0)
      (((t.cmpVal b).lanes t.width).getD l 0))) =
      (t.lanesOf (t.active m)).map (fun l => (l, cmpLane ty cc ((t.v a).lane l) ((t.cmpVal b).lane l))) :=
    List.map_congr_left fun l hl => by
      obtain ⟨hw, -⟩ := (t.mem_lanesOf _ l).mp hl
      rw [VVal.getD_lanes _ hw, VVal.getD_lanes _ hw]
  simp only [State.pcmp, hrs, List.map_map, List.foldl_map]
  rfl

theorem Team.getLsbD_cmpMask (t : Team) (a : VReg) (b : CmpB) (cc : Cc) (ty : CmpTy) (m : Option Msk) {l : Nat}
    (hl : l < t.width) (hact : (t.active m).getLsbD l = true) :
    (t.cmpMask a b cc ty m).getLsbD l = cmpOf ty cc ((t.v a).lane l) ((t.cmpVal b).lane l) := by
  rw [Bool.eq_iff_iff, Team.cmpMask, getLsbD_gather _ (fun l => l) _ (BitVec.lt_of_getLsbD hact)]
  simp only [cmpLane_fst]
  constructor
  · rintro ⟨k, -, hcmp, rfl⟩
    exact hcmp
  · exact fun hcmp => ⟨l, (t.mem_lanesOf _ l).mpr ⟨hl, hact⟩, hcmp, rfl⟩

theorem Team.testBit_cmpLanes (t : Team) (a : VReg) (b : CmpB) (cc : Cc) (ty : CmpTy) (m : Option Msk) (k : Nat) :
    (allFlags (t.cmpLanes a b cc ty m)).testBit k = true ↔ k = 0 ∧ t.cmpNV a b cc ty m := by
  have hflag : ∀ p : Bool, (if p then flNV else 0).testBit k = true ↔ k = 0 ∧ p = true := fun p => by
    cases p
    · simp
    · simpa [flNV] using Nat.testBit_one_eq_true_iff_self_eq_zero
  rw [Team.cmpLanes, t.testBit_allFlags_lanes (t.active m) (fun _ _ _ => rfl)]
  simp only [List.mem_singleton, exists_eq_left, hflag]
  simp only [cmpLane_snd, Team.cmpNV]
  constructor
  · rintro ⟨l, hl, hact, hk, hty, hnv⟩
    exact ⟨hk, hty, l, hl, hact, hnv⟩
  · rintro ⟨hk, hty, l, hl, hact, hnv⟩
    exact ⟨l, hl, hact, hk, hty, hnv⟩

theorem Team.cmpLanes_unchecked (t : Team) (a : VReg) (b : CmpB) (cc : Cc) (ty : CmpTy) (m : Option Msk) :
    Unchecked (t.cmpLanes a b cc ty m) := by
  intro x hx
  obtain ⟨l, -, rfl⟩ := List.mem_map.mp hx
  rfl

/-- With no invalid operation that traps PCMP raises its flag and writes the predicate. -/
theorem State.pcmp_retires (s : State) {t : Team} (d : PReg) {a : VReg} {b : CmpB} {cc : Cc} {ty : CmpTy} {m : Option Msk}
    (h : ¬ (t.regs.fpctl.getLsbD 8 = true ∧ t.cmpNV a b cc ty m)) : s.pcmp t d a b cc ty m =
      s.retire ((t.raise (allFlags (t.cmpLanes a b cc ty m))).writePMsk d m (t.cmpMask a b cc ty m)) := by
  have hquiet := t.cmpLanes_unchecked a b cc ty m
  have htrap : allFlags (t.cmpLanes a b cc ty m) &&& bits t.regs.fpctl.toNat 12 8 = 0 := by
    refine Nat.eq_of_testBit_eq fun k => ?_
    rw [Nat.testBit_and, Nat.zero_testBit, Bool.and_eq_false_iff, ← Bool.not_eq_true, t.testBit_cmpLanes, testBit_bits]
    by_cases hk : k = 0 ∧ t.cmpNV a b cc ty m
    · obtain ⟨rfl, hnv⟩ := hk
      have hoff : t.regs.fpctl.toNat.testBit 8 = false := Bool.eq_false_iff.mpr fun hon => h ⟨hon, hnv⟩
      simp [hoff]
    · exact .inl hk
  rw [State.pcmp_eq, State.fpDone_retires (State.misfired_of_unchecked s t hquiet) (State.shadowMet_of_unchecked s t hquiet)
    (fpTrap_none htrap)]

/-- An invalid operation that traps parks the team (R195). -/
theorem State.pcmp_traps (s : State) {t : Team} (d : PReg) {a : VReg} {b : CmpB} {cc : Cc} {ty : CmpTy} {m : Option Msk}
    (hen : t.regs.fpctl.getLsbD 8 = true) (hnv : t.cmpNV a b cc ty m) :
    ∃ f, s.pcmp t d a b cc ty m = s.park t f ∧ f.cls = .fpInvalid := by
  have hquiet := t.cmpLanes_unchecked a b cc ty m
  obtain ⟨f, hf, hcls⟩ := fpTrap_invalid hen ((t.testBit_cmpLanes a b cc ty m 0).mpr ⟨rfl, hnv⟩)
  exact ⟨f, by rw [State.pcmp_eq, State.fpDone_traps (State.misfired_of_unchecked s t hquiet)
    (State.shadowMet_of_unchecked s t hquiet) hf], hcls⟩

/-! ### The instructions -/

/-- PCMP of a condition that its type has compares (R264). -/
theorem exec_pcmp {s : State} {t : Team} {a : VReg} {b : CmpB} {cc : Cc} {ty : CmpTy} (d : PReg) (m : Option Msk)
    (hcc : ccOk cc ty = true) (hhas : t.has (a :: (cmpRegs b).2))
    (h : Ready s t 1 ((cmpRegs b).1.map .s ++ .v a :: (cmpRegs b).2.map .v)) :
    exec (.pcmp d a b cc ty m) s = .next (s.pcmp t d a b cc ty m).tick :=
  issue_plain (i := { vInfo [] (a :: (cmpRegs b).2) m with
      bad := if ccOk cc ty then none else some .none, sr := (cmpRegs b).1, pw := [d], xr := cmpFpctl ty })
    (by simpa [Info.dests, vInfo] using h) ⟨if_pos hcc, rfl, rfl, rfl, rfl, rfl, rfl⟩ (by simpa [vInfo] using hhas) _

/-- PCMP with no invalid operation that traps raises its flag and writes the predicate. -/
theorem exec_pcmp_retires {s : State} {t : Team} {a : VReg} {b : CmpB} {cc : Cc} {ty : CmpTy} {m : Option Msk} (d : PReg)
    (hcc : ccOk cc ty = true) (hhas : t.has (a :: (cmpRegs b).2))
    (h : Ready s t 1 ((cmpRegs b).1.map .s ++ .v a :: (cmpRegs b).2.map .v))
    (hnv : ¬ (t.regs.fpctl.getLsbD 8 = true ∧ t.cmpNV a b cc ty m)) : exec (.pcmp d a b cc ty m) s =
      .next (s.retire ((t.raise (allFlags (t.cmpLanes a b cc ty m))).writePMsk d m (t.cmpMask a b cc ty m))).tick := by
  rw [exec_pcmp d m hcc hhas h, s.pcmp_retires d hnv]

theorem exec_ppack {s : State} {t : Team} {v : VReg} {f : PReg} {c : BitVec 3} (hn : f.toNat + c.toNat + 1 ≤ 16)
    (hhas : t.has [v]) (h : Ready s t 1 [.v v]) : exec (.ppack v f c) s =
      .next (s.retire (t.writeMsk v none (.g ((List.range t.width).map (t.packWord f (c.toNat + 1)))))).tick :=
  issue_plain (i := { vInfo [v] [] none with
      bad := if f.toNat + (c.toNat + 1) ≤ 16 then none else some .none, pr := (List.range (c.toNat + 1)).map (predAt f) })
    h ⟨if_pos hn, rfl, rfl, rfl, rfl, rfl, rfl⟩ hhas _

/-- The lanes in which bit `i` of a vector register is set. -/
def Team.bitLanes (t : Team) (v : VReg) (i : Nat) : Mask :=
  maskOf t.width (fun l => (((t.v v).lanes t.width).getD l 0).getLsbD i)

theorem Team.getLsbD_bitLanes (t : Team) (v : VReg) (i : Nat) {l : Nat} (hw : l < t.width) (hl : l < 1024) :
    (t.bitLanes v i).getLsbD l = ((t.v v).lane l).getLsbD i := by
  rw [Team.bitLanes, getLsbD_maskOf _ _ hl, VVal.getD_lanes _ hw, decide_eq_true hw, Bool.true_and]

theorem exec_punpk {s : State} {t : Team} {v : VReg} {f : PReg} {c : BitVec 3} (hn : f.toNat + c.toNat + 1 ≤ 16)
    (hhas : t.has [v]) (h : Ready s t 1 [.v v]) :
    exec (.punpk f v c) s = .next (s.retire (t.unpack f (t.bitLanes v) (c.toNat + 1))).tick :=
  issue_plain (i := { vInfo [] [v] none with
      bad := if f.toNat + (c.toNat + 1) ≤ 16 then none else some .none, pw := (List.range (c.toNat + 1)).map (predAt f) })
    h ⟨if_pos hn, rfl, rfl, rfl, rfl, rfl, rfl⟩ hhas _

/-- Logic of two predicates writes the active lanes (R261). -/
theorem predOp_ready {s : State} {t : Team} (h : Ready s t 1 []) (d a b : PReg) (f : Mask → Mask → Mask) :
    predOp d a b f s = .next (s.retire (t.setP d t.regs.exec (f (t.p a) (t.p b)))).tick :=
  issue_plain (i := { pr := [a, b], pw := [d], eng := 1, who := some none }) h ⟨rfl, rfl, rfl, rfl, rfl, rfl, rfl⟩
    (by simp [Team.has]) _

theorem exec_pnot {s : State} {t : Team} (h : Ready s t 1 []) (d a : PReg) :
    exec (.pnot d a) s = .next (s.retire (t.setP d t.regs.exec (~~~(t.p a)))).tick :=
  issue_plain (i := { pr := [a], pw := [d], eng := 1, who := some none }) h ⟨rfl, rfl, rfl, rfl, rfl, rfl, rfl⟩
    (by simp [Team.has]) _

/-- A predicate written in the active lanes keeps the others. -/
theorem Team.setP_exec_keeps (t : Team) (d : PReg) (x : Mask) : PredKept t (t.setP d t.regs.exec x) t.regs.exec [d] :=
  t.setP_keeps d (fun _ h => h) x

/-- An instruction that is logic of two predicates keeps the lanes that are not active. -/
theorem keepsLanes_of_predOp {s : State} {t : Team} {i : Instr} (h : Ready s t 1 []) (d a b : PReg)
    (f : Mask → Mask → Mask) (hi : ∀ s, exec i s = predOp d a b f s) : KeepsLanes i s t t.regs.exec [d] :=
  ⟨_, (hi s).trans (predOp_ready h d a b f), t.setP_exec_keeps d _⟩

/-- Settles O13: what each instruction writes is a write of predicates in lanes of EXEC. -/
theorem predicateLanes : Obligations.PredicateLanes := by
  refine ⟨fun t r l => t.p_of_width_le r, fun t d x l _ hoff => ?_, fun t d x l hw => ?_, fun s t d a b h => ?_,
    fun s t f v c hn hhas h => ⟨_, exec_punpk hn hhas h, t.unpack_keeps hn _⟩,
    fun s t d a b cc ty m hcc hz hhas h hnv => ⟨_, exec_pcmp_retires d hcc hhas h hnv, ?_⟩⟩
  · obtain ⟨-, hkeep⟩ := t.setP_exec_keeps d x
    exact (hkeep d l).2 (.inl hoff)
  · exact Team.p_of_width_le _ _ (by rwa [t.setP_width])
  · exact ⟨keepsLanes_of_predOp h d a b (fun x y => x &&& y) fun _ => rfl,
      keepsLanes_of_predOp h d a b (fun x y => x ||| y) fun _ => rfl,
      keepsLanes_of_predOp h d a b (fun x y => x ^^^ y) fun _ => rfl,
      keepsLanes_of_predOp h d a b (fun x y => x &&& ~~~y) fun _ => rfl, _, exec_pnot h d a, t.setP_exec_keeps d _⟩
  · rw [Team.writePMsk_noZ _ d hz]
    split
    · exact ⟨rfl, fun r l => ⟨t.p_of_width_le r, fun _ => rfl⟩⟩
    · exact Team.setP_keeps (t.raise _) d (fun l => Team.exec_of_active) _

/-- Settles O22: each form by lanes, and the reserved forms as bad field values. -/
theorem predicatePackingAndCompare : Obligations.PredicatePackingAndCompare := by
  intro s t
  refine ⟨fun v f c hn hhas h => ⟨⟨_, exec_ppack hn hhas h, rfl, fun l hl i hi => ?_⟩,
      ⟨_, exec_punpk hn hhas h, fun i l hi h0 hl => ?_, fun r hr => t.p_unpack_other hn (by omega) _, t.unpack_eq f _ _⟩⟩,
    fun v f c hn h => ⟨issue_bad h (by exact if_neg (by omega)) _, issue_bad h (by exact if_neg (by omega)) _⟩,
    fun d a b cc ty m => ⟨fun hcc h => issue_bad h (by exact if_neg (by simp [hcc])) _, fun hcc hhas h =>
      ⟨fun hnv => ⟨_, _, exec_pcmp_retires d hcc hhas h hnv,
        fun l hl hact => t.getLsbD_cmpMask a b cc ty m hl hact, t.testBit_cmpLanes a b cc ty m⟩, fun hen hnv => ?_⟩⟩,
    fun d m y l hd hl _ => t.getLsbD_p_writePMsk hd m y hl⟩
  · have hlane : (VVal.g ((List.range t.width).map (t.packWord f (c.toNat + 1)))).lane l = t.packWord f (c.toNat + 1) l := by
      simp [List.getD_eq_getElem?_getD, hl]
    rw [hlane, t.getLsbD_packWord f (by omega)]
    simp [predAt]
  · rw [show BitVec.ofNat 4 (f.toNat + i) = predAt f i from rfl, t.p_unpack hn (by omega) h0, decide_eq_true hl, Bool.true_and]
    split
    · next hact => rw [t.getLsbD_bitLanes v i hl (BitVec.lt_of_getLsbD hact)]
    · rfl
  · obtain ⟨f, hf, hcls⟩ := s.pcmp_traps d hen hnv
    exact ⟨f, by rw [exec_pcmp d m hcc hhas h, hf], hcls⟩

end Sys2Proof.Machine
end

section
/-! Registers moved between a team and its group's pool (O47). -/

namespace Sys2Proof.Machine

/-! ### A team and its group after the instruction retires -/

/-- A team whose clause `c` has completed goes on at `pc` (R212, R208). -/
def Team.clauseDone (t : Team) (c : Clause) (pc : Dw) (src : Option (Dw × Nat)) (clk : Nat) : Team :=
  { t with clause := none, pc := pc, woff := 0, src := src,
           nopre := if c.hdr.getLsbD 24 then (if 8 ≤ t.nopre + 1 then 0 else t.nopre + 1) else 0, resv := 0,
           yieldNow := t.yieldNow || c.hdr.getLsbD 23, age := clk + 1 }

theorem State.endClause_teams (s : State) (t : Team) (c : Clause) (pc : Dw) (src : Option (Dw × Nat)) :
    (s.endClause t c pc src).teams = (s.putTeam (t.clauseDone c pc src s.clk)).teams :=
  (State.yieldCur_keeps _ _).2.1

/-- The team that retires is the one that its key names: its registers are those given. -/
theorem State.team_retire {s : State} {t : Team} (h : (s.team t.key).isSome = true) :
    ∃ u, (s.retire t).team t.key = some u ∧ u.regs = t.regs := by
  unfold State.retire
  split
  · exact ⟨t, s.team_putTeam_self t h, rfl⟩
  · next c _ =>
    split
    · exact ⟨_, s.team_putTeam_self { t with woff := t.next, clause := some { c with left := c.left - 1 } } h, rfl⟩
    · exact ⟨_, (State.team_congr (s.endClause_teams t c _ none) t.key).trans (s.team_putTeam_self _ h), rfl⟩

theorem State.groupOf_congr {s s' : State} (h : s'.groups = s.groups) (t : Team) : s'.groupOf t = s.groupOf t := by
  simp only [State.groupOf, State.groupAt, State.group, h]

/-- The pool of a team's group, changed. -/
theorem State.pool_modGroup {s : State} {t : Team} (h : (s.group t.gslot).isSome = true) (f : Nat → Nat) :
    ((s.modGroup t.gslot (fun g => { g with pool := f g.pool })).groupOf t).pool = f (s.groupOf t).pool := by
  obtain ⟨g, hg⟩ := Option.isSome_iff_exists.mp h
  have hmod := s.group_modGroup t.gslot t.gslot (fun g => { g with pool := f g.pool }) (fun _ => rfl)
  simp only [State.groupOf, State.groupAt, hmod, hg, if_true, Option.map_some, Option.getD_some]

@[simp] theorem Team.setS_key (t : Team) (d : SReg) (x : Dw) : (t.setS d x).key = t.key := by
  unfold Team.setS; split <;> rfl

@[simp] theorem Team.setS_vcnt (t : Team) (d : SReg) (x : Dw) : (t.setS d x).vcnt = t.vcnt := by
  unfold Team.setS; split <;> rfl

theorem Team.s_setS_self (t : Team) {d : SReg} (hd : d ≠ 0) (x : Dw) : (t.setS d x).s d = x := by
  rw [t.s_setS hd, if_pos rfl]

/-- A team that retires with `w`'s registers and the answer `x` in `d`, where its group's pool has become `f` of what it was. -/
theorem State.retire_answers {s : State} {t w : Team} (hteam : (s.team t.key).isSome = true)
    (hgroup : (s.group t.gslot).isSome = true) (hkey : w.key = t.key) (f : Nat → Nat) (d : SReg) (x : Dw) :
    ∃ (s' : State) (u : Team),
      ((s.modGroup t.gslot (fun g => { g with pool := f g.pool })).retire (w.setS d x)).tick = s' ∧
      s'.team t.key = some u ∧ (s'.groupOf t).pool = f (s.groupOf t).pool ∧ u.vcnt = w.vcnt ∧ (d ≠ 0 → u.s d = x) := by
  obtain ⟨u, hu, hregs⟩ := State.team_retire (s := s.modGroup t.gslot (fun g => { g with pool := f g.pool }))
    (t := w.setS d x) (by rwa [w.setS_key, hkey])
  rw [w.setS_key, hkey] at hu
  refine ⟨_, u, rfl, hu, ?_, ?_, fun hd => ?_⟩
  · rw [← State.pool_modGroup hgroup f, State.groupOf_congr]
    exact (State.retire_keeps _ _).2.1
  · rw [Team.vcnt, hregs]
    exact w.setS_vcnt d x
  · rw [Team.s, hregs]
    exact w.s_setS_self hd x

/-! ### GIVE, CLAIM and SREAD (R85, R86, R374, R375) -/

/-- The team with the vector registers that GIVE leaves it. -/
def Team.giveUp (t : Team) (n : Nat) : Team :=
  { t with regs := { t.regs with v := t.regs.v.take (t.vcnt - n) }, errs := t.errs.filter (fun e => !e.beyond (t.vcnt - n)) }

/-- The team with the registers that CLAIM brings it, each zero. -/
def Team.takeUp (t : Team) (n : Nat) : Team :=
  { t with regs := { t.regs with v := t.regs.v ++ List.replicate n (VVal.u 0) } }

theorem Team.giveUp_vcnt (t : Team) (n : Nat) : (t.giveUp n).vcnt = t.vcnt - n := by
  simp [Team.giveUp, Team.vcnt]

theorem Team.takeUp_vcnt (t : Team) (n : Nat) : (t.takeUp n).vcnt = t.vcnt + n := by
  simp [Team.takeUp, Team.vcnt]

theorem exec_give {s : State} {t : Team} {d : SReg} {k : BitVec 4} (hk : k ≠ 0) (h : Ready s t 5 [.s d]) :
    exec (.give d k) s = .next (if 8 * k.toNat + 8 ≤ t.vcnt then
      (s.modGroup t.gslot (fun g => { g with pool := g.pool + 8 * k.toNat })).retire ((t.giveUp (8 * k.toNat)).setS d 1)
      else s.retire (t.setS d 0)).tick :=
  issue_plain (i := { bad := if k = 0 then some .none else none, sw := [d], eng := 5, xr := [0x0B], xw := [0x0B] }) h
    ⟨if_neg hk, rfl, rfl, rfl, rfl, rfl, rfl⟩ (by simp [Team.has]) _

theorem exec_claim {s : State} {t : Team} {d : SReg} {k : BitVec 4} (hk : k ≠ 0) (h : Ready s t 5 [.s d]) :
    exec (.claim d k) s = .next (if 8 * k.toNat ≤ (s.groupOf t).pool ∧ t.vcnt + 8 * k.toNat ≤ 128 then
      (s.modGroup t.gslot (fun g => { g with pool := g.pool - 8 * k.toNat })).retire ((t.takeUp (8 * k.toNat)).setS d 1)
      else s.retire (t.setS d 0)).tick :=
  issue_plain (i := { bad := if k = 0 then some .none else none, sw := [d], eng := 5, xr := [0x0B], xw := [0x0B] }) h
    ⟨if_neg hk, rfl, rfl, rfl, rfl, rfl, rfl⟩ (by simp [Team.has]) _

theorem exec_sread {s : State} {t : Team} {d a : SReg} (h : Ready s t 5 [.s a, .s d]) :
    exec (.sread d a) s = .next (s.retire (t.setS d ((s.ctx (s.ctxOf t)).counter (t.s a).toNat))).tick :=
  issue_plain (i := { sr := [a], sw := [d], eng := 5 }) h ⟨rfl, rfl, rfl, rfl, rfl, rfl, rfl⟩ (by simp [Team.has]) _

/-- A change of a group that changes nothing. -/
theorem State.modGroup_pool_id (s : State) (k : Nat) : s.modGroup k (fun g => { g with pool := g.pool }) = s := by
  simp [State.modGroup]

/-- Settles O47: what leaves the team enters the pool, and the other way round; refused, neither changes. -/
theorem registerPool : Obligations.RegisterPool := by
  intro s t d a k hgroup
  refine ⟨fun hk h => ?_, exec_sread⟩
  have hteam : (s.team t.key).isSome = true := by rw [(s.curTeam_team t h.1).1]; rfl
  obtain ⟨s0, u0, hs0, hu0, hpool0, hv0, hd0⟩ := State.retire_answers hteam hgroup rfl (w := t) (fun n => n) d 0
  rw [State.modGroup_pool_id] at hs0
  rw [exec_give hk h, exec_claim hk h]
  constructor
  · by_cases hfit : 8 * k.toNat + 8 ≤ t.vcnt
    · obtain ⟨s', u, hs', hu, hpool, hv, hd⟩ :=
        State.retire_answers hteam hgroup (w := t.giveUp (8 * k.toNat)) rfl (fun n => n + 8 * k.toNat) d 1
      rw [t.giveUp_vcnt] at hv
      simp only [if_pos hfit]
      exact ⟨s', u, congrArg _ hs', hu, by omega, hv, hd⟩
    · simp only [if_neg hfit]
      exact ⟨s0, u0, congrArg _ hs0, hu0, by omega, hv0, hd0⟩
  · by_cases hfit : 8 * k.toNat ≤ (s.groupOf t).pool ∧ t.vcnt + 8 * k.toNat ≤ 128
    · obtain ⟨s', u, hs', hu, hpool, hv, hd⟩ :=
        State.retire_answers hteam hgroup (w := t.takeUp (8 * k.toNat)) rfl (fun n => n - 8 * k.toNat) d 1
      rw [t.takeUp_vcnt] at hv
      simp only [if_pos hfit]
      exact ⟨s', u, congrArg _ hs', hu, by omega, hv, hd⟩
    · simp only [if_neg hfit]
      exact ⟨s0, u0, congrArg _ hs0, hu0, by omega, hv0, hd0⟩

end Sys2Proof.Machine
end

section
/-! The element operations of the vector integer instructions: exact arithmetic on their operands, and the place of each
element in a lane (O23). -/

namespace Sys2Proof.Machine

/-! ### Element operations (Table 8-3) -/

/-- The signed value of an element is that of its bits. -/
theorem sEl_toNat {w : Nat} (hw : 0 < w) (x : BitVec w) : sEl w x.toNat = x.toInt := by
  obtain ⟨n, rfl⟩ : ∃ n, w = n + 1 := ⟨w - 1, by omega⟩
  have hpow : 2 ^ (n + 1) = 2 * 2 ^ n := by rw [pow_succ, mul_comm]
  rw [sEl, BitVec.toInt_eq_toNat_cond, Nat.add_sub_cancel]
  push_cast
  rw [hpow]
  split <;> split <;> omega

theorem wrapEl_eq (w : Nat) (i : Int) : wrapEl w i = (BitVec.ofInt w i).toNat := by
  rw [wrapEl, BitVec.toNat_ofInt]
  push_cast
  rfl

theorem eAndn_eq {w : Nat} (x y : BitVec w) : eAndn w x.toNat y.toNat = (x &&& ~~~y).toNat := by
  have hdisj : (x &&& y) &&& (x &&& ~~~y) = 0#w := by
    ext i
    cases h : y[i] <;> simp [h]
  have hsum : (x &&& y) + (x &&& ~~~y) = x := by
    rw [BitVec.add_eq_or_of_and_eq_zero _ _ hdisj]
    ext i
    cases h : y[i] <;> simp [h]
  have hnat := BitVec.toNat_add_of_and_eq_zero hdisj
  rw [hsum, BitVec.toNat_and] at hnat
  rw [eAndn]
  omega

theorem eClz_iff {w a : Nat} (ha : a < 2 ^ w) (k : Nat) :
    eClz w a = k ↔ k ≤ w ∧ a < 2 ^ (w - k) ∧ (k < w → 2 ^ (w - k - 1) ≤ a) := by
  unfold eClz
  split
  · next h0 =>
    subst h0
    constructor
    · rintro rfl
      simp
    · rintro ⟨hk, -, hlow⟩
      by_contra hne
      have := hlow (by omega)
      have := Nat.two_pow_pos (w - k - 1)
      omega
  · next h0 =>
    obtain ⟨hlo, hhi⟩ := (Nat.log2_eq_iff h0).mp rfl
    have hlt : Nat.log2 a < w := (Nat.pow_lt_pow_iff_right (by omega)).mp (hlo.trans_lt ha)
    constructor
    · rintro rfl
      refine ⟨by omega, ?_, fun _ => ?_⟩
      · rwa [show w - (w - 1 - Nat.log2 a) = Nat.log2 a + 1 by omega]
      · rwa [show w - (w - 1 - Nat.log2 a) - 1 = Nat.log2 a by omega]
    · rintro ⟨hk, hup, hlow⟩
      have hkw : k < w := by
        by_contra hge
        rw [show w - k = 0 by omega] at hup
        omega
      have hlog : Nat.log2 a = w - k - 1 :=
        (Nat.log2_eq_iff h0).mpr ⟨hlow hkw, by rwa [show w - k - 1 + 1 = w - k by omega]⟩
      omega

/-- The count of one bits is the count of the places that hold one. -/
theorem popNat_eq_length (n x : Nat) : popNat n x = ((List.range n).filter (fun k => x.testBit k)).length := by
  induction n generalizing x with
  | zero => rfl
  | succ n ih =>
    have hrest : (List.range n).filter (fun k => x.testBit (k + 1)) = (List.range n).filter (fun k => (x / 2).testBit k) := by
      simp only [Nat.testBit_succ]
    rw [popNat, ih, List.range_succ_eq_map, List.filter_cons, List.filter_map, Nat.testBit_zero]
    simp only [Function.comp_def, Nat.succ_eq_add_one, hrest]
    rcases Nat.mod_two_eq_zero_or_one x with h | h <;> simp [h]
    omega

/-- Each element operation is the exact value, reduced to the element's width. -/
theorem elementsExact {w : Nat} (hw : 0 < w) : ElementsExact w := by
  intro x y z
  have hx := sEl_toNat hw x
  have hy := sEl_toNat hw y
  refine ⟨?add, ?sub, ?mul, ?mulhs, rfl, ?mad, ?min, ?max, rfl, rfl, (BitVec.toNat_and ..).symm, (BitVec.toNat_or ..).symm,
    (BitVec.toNat_xor ..).symm, eAndn_eq x y, ?shl, Nat.shiftRight_eq_div_pow _ _, ?sar, ?abs, ?neg, ?adds, ?subs, rfl,
    ?subus, eClz_iff x.isLt, popNat_eq_length w x.toNat⟩
  case add => rw [BitVec.ofInt_add, BitVec.ofInt_toInt, BitVec.ofInt_toInt, BitVec.toNat_add]; rfl
  case sub =>
    rw [sub_eq_add_neg, BitVec.ofInt_add, BitVec.ofInt_neg, BitVec.ofInt_toInt, BitVec.ofInt_toInt, ← BitVec.sub_eq_add_neg,
      BitVec.toNat_sub, eSub]
    congr 1
    have := y.isLt
    omega
  case mul => rw [BitVec.ofInt_mul, BitVec.ofInt_toInt, BitVec.ofInt_toInt, BitVec.toNat_mul]; rfl
  case mulhs => rw [eMulhs, hx, hy, wrapEl_eq]
  case mad =>
    rw [BitVec.ofInt_add, BitVec.ofInt_mul, BitVec.ofInt_toInt, BitVec.ofInt_toInt, BitVec.ofInt_toInt, BitVec.toNat_add,
      BitVec.toNat_mul, eMad, Nat.mod_add_mod]
  case min =>
    rw [eMin, hx, hy]
    split
    · next h => rw [min_eq_left h.le, BitVec.ofInt_toInt]
    · next h => rw [min_eq_right (not_lt.mp h), BitVec.ofInt_toInt]
  case max =>
    rw [eMax, hx, hy]
    split
    · next h => rw [max_eq_right h.le, BitVec.ofInt_toInt]
    · next h => rw [max_eq_left (not_lt.mp h), BitVec.ofInt_toInt]
  case shl => rw [eShl, shCnt, Nat.shiftLeft_eq]
  case sar => rw [eSar, hx, wrapEl_eq, shCnt]
  case abs => rw [eAbs, hx, wrapEl_eq]; congr 2; omega
  case neg => rw [BitVec.ofInt_neg, BitVec.ofInt_toInt, BitVec.toNat_neg]; rfl
  case adds => rw [eAdds, hx, hy, clampS, wrapEl_eq, min_comm]
  case subs => rw [eSubs, hx, hy, clampS, wrapEl_eq, min_comm]
  case subus => rw [eSubus]; omega

/-! ### Elements of a lane (R171, R273) -/

/-- The number that elements of `w` bits make, element 0 lowest. -/
def joinElems (w : Nat) (xs : List Nat) : Nat := xs.foldr (fun e a => a * 2 ^ w + e % 2 ^ w) 0

theorem joinElems_lt (w : Nat) (xs : List Nat) : joinElems w xs < 2 ^ (w * xs.length) := by
  induction xs with
  | nil => simp [joinElems]
  | cons x xs ih =>
    have hx := Nat.mod_lt x (Nat.two_pow_pos w)
    have hstep : joinElems w (x :: xs) = joinElems w xs * 2 ^ w + x % 2 ^ w := rfl
    rw [hstep, List.length_cons, Nat.mul_succ, pow_add]
    calc joinElems w xs * 2 ^ w + x % 2 ^ w < (joinElems w xs + 1) * 2 ^ w := by rw [Nat.add_mul]; omega
      _ ≤ 2 ^ (w * xs.length) * 2 ^ w := Nat.mul_le_mul_right _ ih

/-- Element `i` of the number that elements make. -/
theorem joinElems_elem (w : Nat) (xs : List Nat) {i : Nat} (hi : i < xs.length) :
    joinElems w xs / 2 ^ (w * i) % 2 ^ w = xs[i] % 2 ^ w := by
  induction xs generalizing i with
  | nil => simp at hi
  | cons x xs ih =>
    have hx := Nat.mod_lt x (Nat.two_pow_pos w)
    have hstep : joinElems w (x :: xs) = joinElems w xs * 2 ^ w + x % 2 ^ w := rfl
    cases i with
    | zero => simp [hstep, Nat.add_mod]
    | succ i =>
      have hhead : joinElems w (x :: xs) / 2 ^ w = joinElems w xs := by
        rw [hstep, Nat.mul_comm, Nat.mul_add_div (Nat.two_pow_pos w), Nat.div_eq_of_lt hx, Nat.add_zero]
      rw [Nat.mul_succ, Nat.add_comm, pow_add, ← Nat.div_div_eq_div_mul, hhead, ih (by simpa using hi)]
      rfl

/-- The lane that as many elements make as fill it is their number. -/
theorem packElems_toNat {w : Nat} {xs : List Nat} (h : w * xs.length = 32) : (packElems w xs).toNat = joinElems w xs := by
  have hlt := joinElems_lt w xs
  rw [h] at hlt
  exact (BitVec.toNat_ofNat ..).trans (Nat.mod_eq_of_lt hlt)

theorem elems_eq {w : Nat} (hw : 0 < w) (x : Wd) :
    elems w x = (List.range (32 / w)).map (fun i => x.toNat / 2 ^ (w * i) % 2 ^ w) := by
  refine List.map_congr_left fun i _ => ?_
  rw [bits, Nat.shiftRight_eq_div_pow, show w * i + w - 1 + 1 - w * i = w by omega]

/-- Each element of a result is the operation on the elements of the sources at its place. -/
theorem elementsPlaced {w : Nat} (hw : 0 < w) (hfill : w * (32 / w) = 32) : ElementsPlaced w := by
  intro f g x y i hi hf hg
  have hmod : ∀ a, a % 2 ^ w < 2 ^ w := fun a => Nat.mod_lt a (Nat.two_pow_pos w)
  constructor
  · rw [laneOp2, elems_eq hw, elems_eq hw, packElems_toNat (by simpa using hfill), joinElems_elem _ _ (by simpa using hi)]
    simp [Nat.mod_eq_of_lt (hf _ _ (hmod _) (hmod _))]
  · rw [laneOp1, elems_eq hw, packElems_toNat (by simpa using hfill), joinElems_elem _ _ (by simpa using hi)]
    simp [Nat.mod_eq_of_lt (hg _ (hmod _))]

end Sys2Proof.Machine
end

section
/-! Vector integer instructions by lanes, whatever the shapes (O23). -/

namespace Sys2Proof.Machine

/-! ### Results by lanes (R77, R78) -/

theorem getD_zipWith (f : Wd → Wd → Wd) {xs ys : List Wd} {l : Nat} (hx : l < xs.length) (hy : l < ys.length) :
    (List.zipWith f xs ys).getD l 0 = f (xs.getD l 0) (ys.getD l 0) := by
  rw [List.getD_eq_getElem _ _ hx, List.getD_eq_getElem _ _ hy, List.getD_eq_getElem _ _ (by simpa using ⟨hx, hy⟩),
    List.getElem_zipWith]

theorem lane_lift1 (f : Wd → Wd) {x : VVal} {w l : Nat} (hx : x.fits w) (hl : l < w) :
    (lift1 w f x).lane l = f (x.lane l) := by
  unfold lift1
  split
  · rfl
  · have hlen := VVal.length_lanes hx
    rw [VVal.g_lane, List.getD_eq_getElem _ _ (by simpa [hlen] using hl), List.getElem_map, ← VVal.getD_lanes x hl,
      List.getD_eq_getElem]

theorem lane_lift2 (f : Wd → Wd → Wd) {x y : VVal} {w l : Nat} (hx : x.fits w) (hy : y.fits w) (hl : l < w) :
    (lift2 w f x y).lane l = f (x.lane l) (y.lane l) := by
  unfold lift2
  split
  · rfl
  · rw [VVal.g_lane, getD_zipWith f (by rwa [VVal.length_lanes hx]) (by rwa [VVal.length_lanes hy]), VVal.getD_lanes _ hl,
      VVal.getD_lanes _ hl]

theorem lane_lift3 (f : Wd → Wd → Wd → Wd) {x y z : VVal} {w l : Nat} (hx : x.fits w) (hy : y.fits w) (hz : z.fits w)
    (hl : l < w) : (lift3 w f x y z).lane l = f (x.lane l) (y.lane l) (z.lane l) := by
  unfold lift3
  split
  · rfl
  · have hxl := VVal.length_lanes hx
    have hyl := VVal.length_lanes hy
    have hzl := VVal.length_lanes hz
    rw [VVal.g_lane, ← VVal.getD_lanes x hl, ← VVal.getD_lanes y hl, ← VVal.getD_lanes z hl]
    rw [List.getD_eq_getElem _ _ (by simp [hxl, hyl, hzl, hl]), List.getD_eq_getElem _ _ (by omega),
      List.getD_eq_getElem _ _ (by omega), List.getD_eq_getElem _ _ (by omega)]
    simp only [List.getElem_zipWith]

/-! ### The affine rows (R78) -/

/-- A lane of one element is the operation on whole words. -/
theorem laneOp2_word (f : Nat → Nat → Nat → Nat) (x y : Wd) : laneOp2 32 f x y = BitVec.ofNat 32 (f 32 x.toNat y.toNat) := by
  have hel : ∀ z : Wd, elems 32 z = [z.toNat] := fun z => by
    rw [elems_eq (by decide)]
    simp [Nat.mod_eq_of_lt z.isLt]
  rw [laneOp2, hel, hel]
  exact BitVec.eq_of_toNat_eq (by simp [packElems])

/-- The affine rows of an operation hold what the operation gives in each lane. -/
def AffineExact (f : Nat → Nat → Nat → Nat) (aff : VVal → VVal → Option VVal) : Prop :=
  ∀ (x y r : VVal) (l : Nat), aff x y = some r → r.lane l = laneOp2 32 f (x.lane l) (y.lane l)

theorem affineExact_none (f : Nat → Nat → Nat → Nat) : AffineExact f affNone := fun _ _ _ _ h => nomatch h

theorem affineExact_add : AffineExact eAdd affAdd := by
  intro x y r l h
  have hop : ∀ a b : Wd, laneOp2 32 eAdd a b = a + b := fun a b => by
    rw [laneOp2_word]; exact BitVec.eq_of_toNat_eq (by simp [eAdd])
  rw [hop]
  unfold affAdd at h
  split at h <;> cases h <;> simp only [VVal.lane] <;> ring

theorem affineExact_sub : AffineExact eSub affSub := by
  intro x y r l h
  have hop : ∀ a b : Wd, laneOp2 32 eSub a b = a - b := fun a b => by
    rw [laneOp2_word]
    refine BitVec.eq_of_toNat_eq ?_
    have := b.isLt
    rw [BitVec.toNat_ofNat, BitVec.toNat_sub, eSub, Nat.mod_mod,
      show a.toNat + 2 ^ 32 - b.toNat = 2 ^ 32 - b.toNat + a.toNat by omega]
  rw [hop]
  unfold affSub at h
  split at h <;> cases h <;> simp only [VVal.lane] <;> ring

theorem affineExact_mul : AffineExact eMul affMul := by
  intro x y r l h
  have hop : ∀ a b : Wd, laneOp2 32 eMul a b = a * b := fun a b => by
    rw [laneOp2_word]; exact BitVec.eq_of_toNat_eq (by simp [eMul])
  rw [hop]
  unfold affMul at h
  split at h <;> cases h <;> simp only [VVal.lane] <;> ring

theorem affineExact_shl : AffineExact eShl affShl := by
  intro x y r l h
  have hop : ∀ a b : Wd, laneOp2 32 eShl a b = a <<< (b.toNat % 32) := fun a b => by
    rw [laneOp2_word]; exact BitVec.eq_of_toNat_eq (by simp [eShl, shCnt])
  rw [hop]
  unfold affShl at h
  split at h <;> cases h
  simp only [VVal.lane, BitVec.shiftLeft_eq_mul_twoPow]
  ring

/-- A lane of the result of two sources, affine or not. -/
theorem lane_vint2 {w : EW} {f : Nat → Nat → Nat → Nat} {aff : VVal → VVal → Option VVal} (ha : AffineExact f aff) {x y : VVal}
    {width l : Nat} (hx : x.fits width) (hy : y.fits width) (hl : l < width) :
    (vint2 width w f aff x y).lane l = laneOp2 (ewBits w) f (x.lane l) (y.lane l) := by
  unfold vint2
  split
  · next r hr =>
    split at hr
    · next hw =>
      subst hw
      exact ha x y r l hr
    · cases hr
  · exact lane_lift2 _ hx hy hl

/-! ### The instructions -/

theorem vInfo_plain (d src : List VReg) (m : Option Msk) : (vInfo d src m).Plain := ⟨rfl, rfl, rfl, rfl, rfl, rfl, rfl⟩

section
variable {s : State} {t : Team} {i : Instr} {w : EW} {d a : VReg} {m : Option Msk} (hfits : ∀ r, (t.v r).fits t.width)
include hfits

/-- An instruction of two sources computes each lane. -/
theorem writesLanes_of_vBin {b : VReg} {f : Nat → Nat → Nat → Nat} {aff : VVal → VVal → Option VVal} (ha : AffineExact f aff)
    (hhas : t.has [a, b, d]) (h : Ready s t 1 [.v a, .v b, .v d]) (hi : ∀ s, exec i s = vBin w f aff d a b m s) :
    WritesLanes i s t d m (fun l => laneOp2 (ewBits w) f ((t.v a).lane l) ((t.v b).lane l)) :=
  ⟨_, (hi s).trans (issue_plain (i := vInfo [d] [a, b] m) h (vInfo_plain ..) hhas _),
    fun _ hl => lane_vint2 ha (hfits a) (hfits b) hl⟩

/-- An instruction of one source computes each lane. -/
theorem writesLanes_of_vUn {f : Nat → Nat → Nat} (hhas : t.has [a, d]) (h : Ready s t 1 [.v a, .v d])
    (hi : ∀ s, exec i s = vUn w f d a m s) : WritesLanes i s t d m (fun l => laneOp1 (ewBits w) f ((t.v a).lane l)) :=
  ⟨_, (hi s).trans (issue_plain (i := vInfo [d] [a] m) h (vInfo_plain ..) hhas _), fun _ hl => lane_lift1 _ (hfits a) hl⟩

theorem writesLanes_vmad {b : VReg} {e : Option VReg} (hhas : t.has [a, b, e.getD d, d])
    (h : Ready s t 1 [.v a, .v b, .v (e.getD d), .v d]) : WritesLanes (.vmad w d a b e m) s t d m
      (fun l => laneMad (ewBits w) ((t.v a).lane l) ((t.v b).lane l) ((t.v (e.getD d)).lane l)) :=
  ⟨_, issue_plain (i := vInfo [d] [a, b, e.getD d] m) h (vInfo_plain ..) hhas _,
    fun _ hl => lane_lift3 _ (hfits a) (hfits b) (hfits _) hl⟩

end

theorem writesLanes_vmov {s : State} {t : Team} {d a : VReg} {m : Option Msk} (hhas : t.has [a, d])
    (h : Ready s t 1 [.v a, .v d]) : WritesLanes (.vmov d a m) s t d m (fun l => (t.v a).lane l) :=
  ⟨_, issue_plain (i := vInfo [d] [a] m) h (vInfo_plain ..) hhas _, fun _ _ => rfl⟩

/-- The elements of a width fill the lane. -/
theorem ewBits_fills (w : EW) : 0 < ewBits w ∧ ewBits w * (32 / ewBits w) = 32 := by
  cases w <;> decide

/-- Settles O23: each instruction is its element operation on the lanes of its sources, with the affine rows it has. -/
theorem vectorIntegerLanes : Obligations.VectorIntegerLanes := by
  intro s t w d a b e m hhas hfits
  obtain ⟨hpos, hfill⟩ := ewBits_fills w
  have hun : t.has [a, d] := hhas.mono (by simp)
  have hbin : t.has [a, b, d] := hhas.mono (by simp)
  have hmad : t.has [a, b, e.getD d, d] := hhas.mono (by simp)
  have none2 {i : Instr} {f : Nat → Nat → Nat → Nat} (h : Ready s t 1 [.v a, .v b, .v d])
      (hi : ∀ s, exec i s = vBin w f affNone d a b m s) :=
    writesLanes_of_vBin hfits (affineExact_none f) hbin h hi
  refine ⟨fun h => ?_, fun h => ?_, fun h => writesLanes_vmad hfits hmad h, elementsExact hpos, elementsPlaced hpos hfill⟩
  · exact ⟨writesLanes_of_vBin hfits affineExact_add hbin h fun _ => rfl,
      writesLanes_of_vBin hfits affineExact_sub hbin h fun _ => rfl,
      writesLanes_of_vBin hfits affineExact_mul hbin h fun _ => rfl,
      none2 h fun _ => rfl, none2 h fun _ => rfl, none2 h fun _ => rfl, none2 h fun _ => rfl, none2 h fun _ => rfl,
      none2 h fun _ => rfl, none2 h fun _ => rfl, none2 h fun _ => rfl, none2 h fun _ => rfl, none2 h fun _ => rfl,
      writesLanes_of_vBin hfits affineExact_shl hbin h fun _ => rfl,
      none2 h fun _ => rfl, none2 h fun _ => rfl, none2 h fun _ => rfl, none2 h fun _ => rfl, none2 h fun _ => rfl,
      none2 h fun _ => rfl⟩
  · exact ⟨writesLanes_of_vUn hfits hun h fun _ => rfl, writesLanes_of_vUn hfits hun h fun _ => rfl,
      writesLanes_of_vUn hfits hun h fun _ => rfl, writesLanes_of_vUn hfits hun h fun _ => rfl, writesLanes_vmov hun h⟩

end Sys2Proof.Machine
end

section
/-! VCVT by lanes (O29). -/

namespace Sys2Proof.Machine

/-! ### Sources of shape U -/

/-- Where every source is U its lanes are one value. -/
theorem lane_of_allU {vs : List VVal} (h : (allU vs).isSome = true) {v : VVal} (hv : v ∈ vs) (l : Nat) :
    v.lane l = v.lane 0 := by
  induction vs with
  | nil => cases hv
  | cons x xs ih =>
    cases x with
    | u y =>
      have hxs : (allU xs).isSome = true := by simpa [allU] using h
      rcases List.mem_cons.mp hv with rfl | hmem
      · rfl
      · exact ih hxs hmem
    | a b d => simp [allU] at h
    | g ys => simp [allU] at h

/-! ### VCVT (R283 to R286) -/

/-- A conversion that does not widen takes no element from its destination (R285). -/
theorem cvtLane_old {src dst : CFmt} (h : ¬ 32 / src.width < 32 / dst.width) (md sel : Nat) (rnd : Nat → Nat) (x old old' : Wd) :
    cvtLane src dst md sel rnd x old = cvtLane src dst md sel rnd x old' := by
  have hle : 32 / dst.width ≤ 32 / src.width := by omega
  simp only [cvtLane, if_pos hle]

/-- The registers whose shapes decide the shape of a conversion's result. -/
def Team.cvtSrcs (t : Team) (cs cd : CFmt) (a d : VReg) : List VVal :=
  if 32 / cs.width < 32 / cd.width then [t.v a, t.v d] else [t.v a]

/-- From uniform sources, and not under SR, every lane converts alike. -/
theorem Team.cvtOf_uniform {t : Team} {cs cd : CFmt} {md : Nat} {a d : VReg}
    (h : (allU (t.cvtSrcs cs cd a d)).isSome = true) (hmd : md ≠ 5) (sel l : Nat) :
    t.cvtOf cs cd md sel a d l = t.cvtOf cs cd md sel a d 0 := by
  simp only [Team.cvtOf, if_neg hmd]
  unfold Team.cvtSrcs at h
  split at h
  · rw [lane_of_allU h (v := t.v a) (by simp) l, lane_of_allU h (v := t.v d) (by simp) l]
  · next hw => rw [lane_of_allU h (v := t.v a) (by simp) l, cvtLane_old hw]

/-- VCVT ends as a float instruction does: its active lanes hold the conversions, with their flags. -/
theorem State.vcvt_eq (s : State) (t : Team) (d a : VReg) (sel : BitVec 4) (cs cd : CFmt) (m : Option Msk) (md : Nat) :
    ∃ (xs : List FLane) (y : VVal),
      s.vcvt t d a sel cs cd m md = s.fpDone t xs (fun u => (u.writeMsk d m y).srStep md (t.active m)) ∧
      (∀ l, l < t.width → (t.active m).getLsbD l = true → y.lane l = (t.cvtOf cs cd md sel.toNat a d l).1) ∧
      ∀ k, (allFlags xs).testBit k = true ↔ ∃ l, l < t.width ∧ (t.active m).getLsbD l = true ∧
        ∃ x ∈ (t.cvtOf cs cd md sel.toNat a d l).2, x.testBit k = true := by
  by_cases hu : ((allU (t.cvtSrcs cs cd a d)).isSome && md != 5) = true
  · obtain ⟨hall, hmd⟩ := Bool.and_eq_true _ _ ▸ hu
    have hmd' : md ≠ 5 := by simpa using hmd
    refine ⟨_, _, congrArg (fun r : List FLane × VVal =>
      s.fpDone t r.1 (fun u => (u.writeMsk d m r.2).srStep md (t.active m))) (if_pos hu), fun l _ _ => ?_, ?_⟩
    · exact congrArg Prod.fst (Team.cvtOf_uniform hall hmd' _ l).symm
    · exact t.testBit_allFlags_lanes _ fun l _ _ => congrArg Prod.snd (Team.cvtOf_uniform hall hmd' _ l).symm
  · have hrs : ∀ l, l < t.width → (t.active m).getLsbD l = true →
        ((List.range t.width).map (fun l => if (t.active m).getLsbD l then t.cvtOf cs cd md sel.toNat a d l
          else (0, []))).getD l (0, []) = t.cvtOf cs cd md sel.toNat a d l := fun l hl hact => by
      simp [List.getD_eq_getElem?_getD, hl, hact]
    refine ⟨_, _, congrArg (fun r : List FLane × VVal =>
      s.fpDone t r.1 (fun u => (u.writeMsk d m r.2).srStep md (t.active m))) (if_neg hu), fun l hl hact => ?_, ?_⟩
    · have hlen : ∀ rs : List (Wd × List Nat), (VVal.g (rs.map (·.1))).lane l = (rs.getD l (0, [])).1 := fun rs => by
        rw [VVal.g_lane]
        exact List.getD_map rs (0, []) Prod.fst
      exact (hlen _).trans (congrArg Prod.fst (hrs l hl hact))
    · exact t.testBit_allFlags_lanes _ fun l hl hact => congrArg Prod.snd (hrs l hl hact)

/-- The source registers of VCVT: the destination too where the conversion widens. -/
def vcvtRegs (d a : VReg) (src dst : BitVec 5) : List VReg := if cvtElems src < cvtElems dst then [a, d] else [a]

theorem vcvtRegs_has {t : Team} {d a : VReg} (h : t.has [d, a]) (src dst : BitVec 5) :
    t.has (vcvtRegs d a src dst ++ [d]) := by
  refine h.mono ?_
  unfold vcvtRegs
  split <;> simp

theorem vcvtRegs_dests (d a : VReg) (src dst : BitVec 5) : (vcvtRegs d a src dst ++ [d]).map Dest.v =
    (if cvtElems src < cvtElems dst then [Dest.v a, .v d] else [.v a]) ++ [.v d] := by
  unfold vcvtRegs
  split <;> rfl

/-- What issue checks of VCVT. -/
abbrev vcvtInfo (d a : VReg) (sel : BitVec 4) (src dst : BitVec 5) (m : Option Msk) (rm : Option (BitVec 3)) : Info :=
  { (vInfo [d] (vcvtRegs d a src dst) m).float with
    bad := if cvtFmtOk src && cvtFmtOk dst && !selOk src dst sel then some .selector else none, conv := some rm
    fmt := !vcvtOk src dst }

/-- VCVT of a legal pair and selector converts in the mode in force. -/
theorem exec_vcvt {s : State} {t : Team} {d a : VReg} {sel : BitVec 4} {src dst : BitVec 5} {cs cd : CFmt} (m : Option Msk)
    (rm : Option (BitVec 3)) (hhas : t.has [d, a]) (hok : vcvtOk src dst = true) (hsel : selOk src dst sel = true)
    (hcs : cfmt src.toNat = some cs) (hcd : cfmt dst.toNat = some cd)
    (h : Ready s t 1 ((if cvtElems src < cvtElems dst then [Dest.v a, .v d] else [.v a]) ++ [.v d])) :
    exec (.vcvt d a sel src dst m rm) s = .next (s.vcvt t d a sel cs cd m (t.mode rm)).tick := by
  have hready : Ready s t 1 ((vcvtRegs d a src dst ++ [d]).map Dest.v) := by rwa [vcvtRegs_dests]
  have hexec : exec (.vcvt d a sel src dst m rm) s = .next (match cfmt src.toNat, cfmt dst.toNat with
      | some cs, some cd => s.vcvt t d a sel cs cd m (t.mode rm)
      | _, _ => s.retire t).tick :=
    issue_plain (i := vcvtInfo d a sel src dst m rm) hready
      ⟨by simp [hsel], rfl, rfl, by simp [hok], rfl, rfl, rfl⟩ (vcvtRegs_has hhas src dst) _
  rw [hexec, hcs, hcd]

end Sys2Proof.Machine
end

section
/-! QCVT by lanes (O29). -/

namespace Sys2Proof.Machine

/-! ### Blocks (R288 to R290) -/

/-- A block has flags for each of its elements. -/
theorem qBlock_fl_length (dst md : Nat) (opm : Nat × Int) (rnd : Nat → Nat) (xs : List FVal) :
    (qBlock dst md opm rnd xs).fl.length = xs.length := by
  unfold qBlock
  split <;> simp

theorem qLen_pos (ctl : Dw) : 0 < qLen ctl := by
  unfold qLen
  split <;> decide

theorem Team.qcvtOf_fl_ne_nil (t : Team) (a : VReg) (ctl : Dw) (src dst md l : Nat) :
    (t.qcvtOf a ctl src dst md l).fl ≠ [] := by
  rw [← List.length_pos_iff]
  show 0 < (qBlock _ _ _ _ _).fl.length
  rw [qBlock_fl_length]
  simpa [qSource] using qLen_pos ctl

/-- The source registers of a block. -/
def Team.qSrcs (t : Team) (a : VReg) (ctl : Dw) (src : Nat) : List VVal :=
  (vRange a (qLen ctl / if src = 0 then 1 else 2)).map t.v

/-- From uniform sources, and not under SR, every lane's block is the same. -/
theorem Team.qcvtOf_uniform {t : Team} {a : VReg} {ctl : Dw} {src md : Nat}
    (h : (allU (t.qSrcs a ctl src)).isSome = true) (hmd : md ≠ 5) (dst l : Nat) :
    t.qcvtOf a ctl src dst md l = t.qcvtOf a ctl src dst md 0 := by
  have hlanes : (vRange a (qLen ctl / if src = 0 then 1 else 2)).map (fun r => (t.v r).lane l) =
      (vRange a (qLen ctl / if src = 0 then 1 else 2)).map (fun r => (t.v r).lane 0) :=
    List.map_congr_left fun r hr => lane_of_allU h (List.mem_map_of_mem hr) l
  simp only [Team.qcvtOf, if_neg hmd, hlanes]

/-- A fold over a numbered list is a fold over its numbers. -/
theorem foldl_enum_map {α β : Type} (F : β → Nat → α → β) (g : Nat → α) (n : Nat) (b : β) :
    (enum ((List.range n).map g)).foldl (fun u x => F u x.1 x.2) b = (List.range n).foldl (fun u i => F u i (g i)) b := by
  have henum : enum ((List.range n).map g) = (List.range n).map (fun i => (i, g i)) :=
    List.ext_getElem (by simp) fun i h _ => by simp [getElem_enum]
  rw [henum, List.foldl_map]

/-- The registers that QCVT writes one after another. -/
def Team.writeBlock (t : Team) (d : VReg) (m : Option Msk) (ys : List VVal) : Team :=
  (enum ys).foldl (fun (u : Team) x => u.writeMsk (BitVec.ofNat 7 (d.toNat + x.1)) m x.2) t

/-- The block of a lane that is not active. -/
def qNone : QBlock := { codes := [], scale := 0, outb := 0, fl := [] }

/-- The blocks of the lanes: the active lanes have their own. -/
def Team.qBlocks (t : Team) (act : Mask) (f : Nat → QBlock) : List QBlock :=
  (List.range t.width).map (fun l => if act.getLsbD l then f l else qNone)

theorem Team.getD_qBlocks (t : Team) {act : Mask} (f : Nat → QBlock) {l : Nat} (hl : l < t.width) (hact : act.getLsbD l = true) :
    (t.qBlocks act f).getD l qNone = f l := by
  simp [Team.qBlocks, List.getD_eq_getElem?_getD, hl, hact]

/-- Word `i` of each lane's block, as a register. -/
def qReg (dst : Nat) (bs : List QBlock) (i : Nat) : VVal :=
  .g ((bs.map (fun b => if b.fl = [] then [] else qWords dst b)).map (fun r => r.getD i 0))

theorem lane_qReg (dst : Nat) {bs : List QBlock} {l : Nat} (h : (bs.getD l qNone).fl ≠ []) (i : Nat) :
    (qReg dst bs i).lane l = (qWords dst (bs.getD l qNone)).getD i 0 := by
  rw [qReg, VVal.g_lane, List.map_map]
  exact (List.getD_map bs qNone (fun b : QBlock => (if b.fl = [] then ([] : List Wd) else qWords dst b).getD i 0)).trans
    (by rw [if_neg h])

/-- What QCVT does with the block `f l` of each lane: where they are all the same, `uni`, the results have shape U. -/
def State.qcvtBy (s : State) (t : Team) (d : VReg) (dst nd : Nat) (m : Option Msk) (md : Nat) (uni : Bool) (f : Nat → QBlock) :
    State :=
  let rs := if uni then [] else t.qBlocks (t.active m) f
  s.fpDone t ((t.lanesOf (t.active m)).map (fun l => qLane dst l (if uni then f 0 else rs.getD l qNone)))
    (fun v => ((List.range (nd + 1)).foldl (fun (u : Team) i => u.writeMsk (BitVec.ofNat 7 (d.toNat + i)) m
      (if uni then .u ((qWords dst (f 0)).getD i 0) else qReg dst rs i)) v).srStep md (t.active m))

theorem State.qcvt_eq_qcvtBy (s : State) (t : Team) (d a : VReg) (ctl : Dw) (src dst : Nat) (m : Option Msk) (md : Nat) :
    s.qcvt t d a ctl src dst m md = s.qcvtBy t d dst (if qIs4 dst then qLen ctl / 8 else qLen ctl / 4) m md
      ((allU (t.qSrcs a ctl src)).isSome && md != 5) (t.qcvtOf a ctl src dst md) := by
  have hf : (fun l => qBlock dst md (if qE4 dst then (fF32.decode (fld ctl 63 32)).mag else (1, 0))
      (fun k => if md = 5 then t.rnd l k else 0)
      (qSource (qSrcFmt src) (if src = 0 then 1 else 2) (qLen ctl) ((t.qSrcs a ctl src).map (fun v => v.lane l)))) =
      t.qcvtOf a ctl src dst md := by
    funext l
    simp only [Team.qSrcs, List.map_map]
    rfl
  rw [← hf]
  rfl

/-- QCVT ends as a float instruction does: its active lanes hold the words of their blocks, with their flags. -/
theorem State.qcvtBy_eq (s : State) (t : Team) (d : VReg) (dst nd : Nat) (m : Option Msk) (md : Nat) {uni : Bool}
    {f : Nat → QBlock} (hu : uni = true → ∀ l, f l = f 0) (hfl : ∀ l, (f l).fl ≠ []) :
    ∃ (xs : List FLane) (ys : List VVal), ys.length = nd + 1 ∧
      s.qcvtBy t d dst nd m md uni f = s.fpDone t xs (fun u => (u.writeBlock d m ys).srStep md (t.active m)) ∧
      (∀ i l, i ≤ nd → l < t.width → (t.active m).getLsbD l = true →
        (ys.getD i (.u 0)).lane l = (qWords dst (f l)).getD i 0) ∧
      ∀ k, (allFlags xs).testBit k = true ↔
        ∃ l, l < t.width ∧ (t.active m).getLsbD l = true ∧ ∃ x ∈ (f l).fl, x.testBit k = true := by
  have hget : ∀ (g : Nat → VVal) (i : Nat), i ≤ nd → ((List.range (nd + 1)).map g).getD i (.u 0) = g i := fun g i hi => by
    simp [List.getD_eq_getElem?_getD, Nat.lt_succ_of_le hi]
  have hwrite : ∀ (g : Nat → VVal) (u : Team), (List.range (nd + 1)).foldl (fun (u : Team) i =>
      u.writeMsk (BitVec.ofNat 7 (d.toNat + i)) m (g i)) u = u.writeBlock d m ((List.range (nd + 1)).map g) := fun g u =>
    (foldl_enum_map (fun (u : Team) i y => u.writeMsk (BitVec.ofNat 7 (d.toNat + i)) m y) g (nd + 1) u).symm
  cases uni with
  | true =>
    refine ⟨_, (List.range (nd + 1)).map (fun i => .u ((qWords dst (f 0)).getD i 0)), by simp, ?_, fun i l hi _ _ => ?_,
      t.testBit_allFlags_lanes _ (F := fun l => qLane dst l (f 0)) fun l _ _ => congrArg QBlock.fl (hu rfl l).symm⟩
    · simp only [State.qcvtBy, if_true, hwrite]
    · rw [hget _ i hi, hu rfl l]
      rfl
  | false =>
    have hblock : ∀ l, l < t.width → (t.active m).getLsbD l = true → (t.qBlocks (t.active m) f).getD l qNone = f l :=
      fun l => t.getD_qBlocks f
    refine ⟨_, (List.range (nd + 1)).map (qReg dst (t.qBlocks (t.active m) f)), by simp, ?_, fun i l hi hl hact => ?_,
      t.testBit_allFlags_lanes _ (F := fun l => qLane dst l ((t.qBlocks (t.active m) f).getD l qNone))
        fun l hl hact => congrArg QBlock.fl (hblock l hl hact)⟩
    · simp only [State.qcvtBy, Bool.false_eq_true, if_false, hwrite]
    · rw [hget _ i hi, lane_qReg dst (by rw [hblock l hl hact]; exact hfl l), hblock l hl hact]

theorem State.qcvt_eq (s : State) (t : Team) (d a : VReg) (ctl : Dw) (src dst : Nat) (m : Option Msk) (md : Nat) {nd : Nat}
    (hnd : nd = if qIs4 dst then qLen ctl / 8 else qLen ctl / 4) :
    ∃ (xs : List FLane) (ys : List VVal), ys.length = nd + 1 ∧
      s.qcvt t d a ctl src dst m md = s.fpDone t xs (fun u => (u.writeBlock d m ys).srStep md (t.active m)) ∧
      (∀ i l, i ≤ nd → l < t.width → (t.active m).getLsbD l = true →
        (ys.getD i (.u 0)).lane l = (qWords dst (t.qcvtOf a ctl src dst md l)).getD i 0) ∧
      ∀ k, (allFlags xs).testBit k = true ↔ ∃ l, l < t.width ∧ (t.active m).getLsbD l = true ∧
        ∃ x ∈ (t.qcvtOf a ctl src dst md l).fl, x.testBit k = true := by
  rw [s.qcvt_eq_qcvtBy, ← hnd]
  refine s.qcvtBy_eq t d dst nd m md (fun hu l => ?_) (fun l => t.qcvtOf_fl_ne_nil a ctl src dst md l)
  obtain ⟨hall, hmd⟩ := Bool.and_eq_true _ _ ▸ hu
  exact Team.qcvtOf_uniform hall (by simpa using hmd) dst l

/-! ### The instruction (R287, R291) -/

/-- The registers of a range that ends below VCNT are below it. -/
theorem has_vRange {t : Team} {r : VReg} {n : Nat} (h : r.toNat + n ≤ t.vcnt) : t.has (vRange r n) := by
  intro x hx
  obtain ⟨i, hi, rfl⟩ := List.mem_map.mp hx
  have := List.mem_range.mp hi
  rw [BitVec.toNat_ofNat]
  exact (Nat.mod_le _ _).trans_lt (by omega)

/-- What issue checks of QCVT once it has read its control word: the registers that follow from it. -/
abbrev qcvtInfo (d a : VReg) (r : SReg) (ns nd : Nat) (m : Option Msk) (rm : Option (BitVec 3)) : Info :=
  { (vInfo (vRange d (nd + 1)) (vRange a ns) m).float with sr := [r], conv := some rm }

/-- QCVT of a legal pair: nothing where no lane is active; else its control word, then the registers that follow from it. -/
theorem exec_qcvt {s : State} {t : Team} {d a : VReg} {r : SReg} {src dst : BitVec 5} (m : Option Msk) (rm : Option (BitVec 3))
    {n ns nd : Nat} (hhas : t.has [d, a]) (hok : qcvtOk src dst = true) (h : Ready s t 1 [.s r]) (hn : n = qLen (t.s r))
    (hns : ns = if src = 0 then n else n / 2) (hnd : nd = if qIs4 dst.toNat then n / 8 else n / 4) :
    exec (.qcvt d a r src dst m rm) s = .next (
      if t.active m = 0 then s.retire t
      else if qCtlBad (t.s r) dst.toNat then s.park t (mkF .illegalFormat .control 0 0)
      else if t.vcnt < a.toNat + ns ∨ t.vcnt ≤ d.toNat + nd then s.park t (mkF .illegalEncoding .registerBeyondCount 0 0)
      else s.issueTeam (qcvtInfo d a r ns nd m rm) t
        (fun t' s => s.qcvt t' d a (t.s r) src.toNat dst.toNat m (t'.mode rm))).tick := by
  subst hn hns hnd
  exact issue_plain (i := { vInfo [] [] m with sr := [r], named := [d, a], fmt := !qcvtOk src dst }) h
    ⟨rfl, rfl, rfl, by simp [hok], rfl, rfl, rfl⟩ hhas _

end Sys2Proof.Machine
end

section
/-! Shape instructions, and the statement about conversions and shapes (O29). -/

namespace Sys2Proof.Machine

/-! ### SHTRY's shape (R81) -/

/-- Lanes that are live, all with a property. -/
theorem all_live_iff {w : Nat} {live : Mask} {p : Nat → Bool} :
    ((List.range w).filter (fun l => live.getLsbD l)).all p = true ↔ ∀ l, l < w → live.getLsbD l = true → p l = true := by
  rw [List.all_eq_true]
  simp [List.mem_filter]

/-- Where the live lanes are equal, and there is one, the shape is U. -/
theorem shtryShape_uniform {w : Nat} {live : Mask} {xs : List Wd} {x : Wd} (hex : ∃ l, l < w ∧ live.getLsbD l = true)
    (h : ∀ l, l < w → live.getLsbD l = true → xs.getD l 0 = x) : shtryShape w live xs = some (.u x) := by
  have hne : (List.range w).filter (fun l => live.getLsbD l) ≠ [] := by
    obtain ⟨l, hl, hlive⟩ := hex
    exact List.ne_nil_of_mem (List.mem_filter.mpr ⟨List.mem_range.mpr hl, hlive⟩)
  have hfirst : xs.getD (((List.range w).filter (fun l => live.getLsbD l)).headD 0) 0 = x := by
    obtain ⟨k, ks, hks⟩ := List.exists_cons_of_ne_nil hne
    have hk : k ∈ (List.range w).filter (fun l => live.getLsbD l) := by rw [hks]; exact List.mem_cons_self
    obtain ⟨hkw, hklive⟩ := List.mem_filter.mp hk
    rw [hks]
    exact h k (List.mem_range.mp hkw) hklive
  have hall : ((List.range w).filter (fun l => live.getLsbD l)).all (fun l => xs.getD l 0 == x) = true :=
    all_live_iff.mpr fun l hl hlive => by simpa using h l hl hlive
  simp only [shtryShape, hfirst, hall, if_true]

/-- The live lanes follow lanes 0 and 1, which are live. -/
def LiveAffine (w : Nat) (live : Mask) (f : Nat → Wd) : Prop :=
  live.getLsbD 0 = true ∧ live.getLsbD 1 = true ∧
    ∀ l, l < w → live.getLsbD l = true → f l = f 0 + BitVec.ofNat 32 l * (f 1 - f 0)

/-- Where the live lanes are not equal the shape is A, if they follow lanes 0 and 1, and else none. -/
theorem shtryShape_not_uniform {w : Nat} {live : Mask} {xs : List Wd}
    (h : ¬ ∃ x, ∀ l, l < w → live.getLsbD l = true → xs.getD l 0 = x) :
    (LiveAffine w live (fun l => xs.getD l 0) →
      shtryShape w live xs = some (.a (xs.getD 0 0) (xs.getD 1 0 - xs.getD 0 0))) ∧
    (¬ LiveAffine w live (fun l => xs.getD l 0) → shtryShape w live xs = none) := by
  have huni : ¬ ((List.range w).filter (fun l => live.getLsbD l)).all (fun l => xs.getD l 0 ==
      xs.getD (((List.range w).filter (fun l => live.getLsbD l)).headD 0) 0) = true := fun hall =>
    h ⟨_, fun l hl hlive => by simpa using all_live_iff.mp hall l hl hlive⟩
  have haff : (live.getLsbD 0 && live.getLsbD 1 && ((List.range w).filter (fun l => live.getLsbD l)).all (fun l =>
      xs.getD l 0 == xs.getD 0 0 + BitVec.ofNat 32 l * (xs.getD 1 0 - xs.getD 0 0))) = true ↔
      LiveAffine w live (fun l => xs.getD l 0) := by
    rw [Bool.and_eq_true, Bool.and_eq_true, all_live_iff, LiveAffine, and_assoc]
    simp only [beq_iff_eq]
  constructor
  · intro ha
    rw [shtryShape, if_neg huni, if_pos (haff.mpr ha)]
  · intro hn
    rw [shtryShape, if_neg huni, if_neg (mt haff.mp hn)]

/-! ### The shape instructions (R81, R292) -/

theorem exec_shtag {s : State} {t : Team} {r : SReg} {a : VReg} (hhas : t.has [a]) (h : Ready s t 1 [.s r, .v a]) :
    exec (.shtag r a) s = .next (s.retire (t.setS r (BitVec.ofNat 64 (t.v a).tag))).tick :=
  issue_plain (i := { vInfo [] [a] none with sw := [r], who := none }) h ⟨rfl, rfl, rfl, rfl, rfl, rfl, rfl⟩ hhas _

theorem exec_shpromote {s : State} {t : Team} {d : VReg} (hhas : t.has [d, d]) (h : Ready s t 1 [.v d, .v d]) :
    exec (.shpromote d) s = .next (s.retire (if (t.v d).tag = 2 then t else t.putV d (.g ((t.v d).lanes t.width)))).tick :=
  issue_plain (i := { vInfo [d] [d] none with who := none }) h ⟨rfl, rfl, rfl, rfl, rfl, rfl, rfl⟩ hhas _

/-- The shape that SHTRY gives a register: its own when it has one, else one that its live lanes allow. -/
def Team.shtry (t : Team) (d : VReg) : Option VVal :=
  match t.v d with
  | .g xs => shtryShape t.width t.live xs
  | v => some v

theorem Team.shtry_of_shaped {t : Team} {d : VReg} (h : (t.v d).tag ≠ 2) : t.shtry d = some (t.v d) := by
  unfold Team.shtry
  split
  · next xs hg => exact absurd (by rw [hg]; rfl) h
  · rfl

theorem Team.shtry_of_g {t : Team} {d : VReg} (h : (t.v d).tag = 2) :
    ∃ xs, t.v d = .g xs ∧ t.shtry d = shtryShape t.width t.live xs := by
  cases hv : t.v d with
  | u x => simp [hv, VVal.tag] at h
  | a b e => simp [hv, VVal.tag] at h
  | g xs => exact ⟨xs, rfl, by simp only [Team.shtry, hv]⟩

section
variable {s : State} {t : Team} {d : VReg} (p : PReg) (hhas : t.has [d, d]) (h : Ready s t 1 [.v d, .v d])
include hhas h

theorem exec_shtry : exec (.shtry d p) s = .next (s.retire ((match t.shtry d with
    | some v => t.putV d v
    | none => t).setP p t.live (if (t.shtry d).isSome then t.live else 0))).tick :=
  issue_plain (i := { vInfo [d] [d] none with pw := [p], who := none }) h ⟨rfl, rfl, rfl, rfl, rfl, rfl, rfl⟩ hhas _

/-- SHTRY writes the shape that it finds, and sets the predicate in the live lanes. -/
theorem exec_shtry_some {v : VVal} (hv : t.shtry d = some v) :
    exec (.shtry d p) s = .next (s.retire ((t.putV d v).setP p t.live t.live)).tick := by
  rw [exec_shtry p hhas h, hv]
  rfl

/-- Where SHTRY finds no shape it leaves the register, and clears the predicate in the live lanes. -/
theorem exec_shtry_none (hv : t.shtry d = none) :
    exec (.shtry d p) s = .next (s.retire (t.setP p t.live 0)).tick := by
  rw [exec_shtry p hhas h, hv]
  rfl

end

/-- SHPROMOTE gives a register shape G, and every lane keeps its value. -/
theorem exec_shpromote_lanes {s : State} {t : Team} {d : VReg} (hhas : t.has [d, d]) (h : Ready s t 1 [.v d, .v d]) :
    ∃ xs : List Wd, exec (.shpromote d) s = .next (s.retire (t.putV d (.g xs))).tick ∧
      ∀ l, l < t.width → (VVal.g xs).lane l = (t.v d).lane l := by
  refine ⟨(t.v d).lanes t.width, ?_, fun l hl => VVal.getD_lanes _ hl⟩
  rw [exec_shpromote hhas h]
  split
  · next htag =>
    have hself : VVal.g ((t.v d).lanes t.width) = t.v d := by
      cases hv : t.v d with
      | g xs => rfl
      | u x => simp [hv, VVal.tag] at htag
      | a b e => simp [hv, VVal.tag] at htag
    rw [hself, t.putV_self]
  · rfl

/-! ### The statement -/

theorem vcvt_converts {s : State} {t : Team} {d a : VReg} {sel : BitVec 4} {src dst : BitVec 5} {cs cd : CFmt} (m : Option Msk)
    (rm : Option (BitVec 3)) (hhas : t.has [d, a]) (hok : vcvtOk src dst = true) (hsel : selOk src dst sel = true)
    (hcs : cfmt src.toNat = some cs) (hcd : cfmt dst.toNat = some cd) (htrap : t.noTrap) (hshadow : s.rel.shadow = [])
    (h : Ready s t 1 ((if cvtElems src < cvtElems dst then [Dest.v a, .v d] else [.v a]) ++ [.v d])) :
    ∃ (y : VVal) (fl : Nat), exec (.vcvt d a sel src dst m rm) s =
        .next (s.retire (((t.raise fl).writeMsk d m y).srStep (t.mode rm) (t.active m))).tick ∧
      (∀ l, l < t.width → (t.active m).getLsbD l → y.lane l = (t.cvtOf cs cd (t.mode rm) sel.toNat a d l).1) ∧
      (∀ k, k < 5 → (fl.testBit k ↔ ∃ l, l < t.width ∧ (t.active m).getLsbD l ∧
        ∃ x ∈ (t.cvtOf cs cd (t.mode rm) sel.toNat a d l).2, x.testBit k)) := by
  obtain ⟨xs, y, heq, hlane, hfl⟩ := s.vcvt_eq t d a sel cs cd m (t.mode rm)
  exact ⟨y, allFlags xs, by rw [exec_vcvt m rm hhas hok hsel hcs hcd h, heq, State.fpDone_of_noTrap hshadow htrap],
    hlane, fun k _ => hfl k⟩

theorem vcvt_parks_selector {s : State} {t : Team} {d a : VReg} {sel : BitVec 4} {src dst : BitVec 5} (m : Option Msk)
    (rm : Option (BitVec 3)) (h : s.curTeam = some t) (hsrc : cvtFmtOk src = true) (hdst : cvtFmtOk dst = true)
    (hsel : selOk src dst sel = false) :
    exec (.vcvt d a sel src dst m rm) s = .next (s.park t (mkF .illegalEncoding .selector 0 0)).tick :=
  issue_bad (i := vcvtInfo d a sel src dst m rm) h (by simp [hsrc, hdst, hsel]) _

theorem vcvt_parks_pair {s : State} {t : Team} {d a : VReg} {sel : BitVec 4} {src dst : BitVec 5} (m : Option Msk)
    (rm : Option (BitVec 3)) (hhas : t.has [d, a]) (h : s.curTeam = some t) (hok : vcvtOk src dst = false)
    (hsel : (cvtFmtOk src && cvtFmtOk dst && !selOk src dst sel) = false) :
    exec (.vcvt d a sel src dst m rm) s = .next (s.park t (mkF .illegalFormat .none 0 0)).tick :=
  issue_badFormat (i := vcvtInfo d a sel src dst m rm) h (by simp only [hsel]; rfl) rfl (vcvtRegs_has hhas src dst) rfl
    (by simp only [hok]; rfl) _

theorem qcvt_parks_pair {s : State} {t : Team} {d a : VReg} {r : SReg} {src dst : BitVec 5} (m : Option Msk)
    (rm : Option (BitVec 3)) (hhas : t.has [d, a]) (h : s.curTeam = some t) (hok : qcvtOk src dst = false) :
    exec (.qcvt d a r src dst m rm) s = .next (s.park t (mkF .illegalFormat .none 0 0)).tick :=
  issue_badFormat (i := { vInfo [] [] m with sr := [r], named := [d, a], fmt := !qcvtOk src dst }) h rfl rfl hhas rfl
    (by simp only [hok]; rfl) _

/-- QCVT of a well-formed control word and registers in range writes the words of the blocks (R288). -/
theorem qcvt_converts {s : State} {t : Team} {d a : VReg} {r : SReg} {src dst : BitVec 5} {m : Option Msk}
    {rm : Option (BitVec 3)} {n ns nd : Nat} (hhas : t.has [d, a]) (hok : qcvtOk src dst = true) (hr : Ready s t 1 [.s r])
    (hn : n = qLen (t.s r)) (hns : ns = if src = 0 then n else n / 2) (hnd : nd = if qIs4 dst.toNat then n / 8 else n / 4)
    (hact : t.active m ≠ 0) (hctl : qCtlBad (t.s r) dst.toNat = false) (hsrc : a.toNat + ns ≤ t.vcnt)
    (hdst : d.toNat + nd < t.vcnt) (htrap : t.noTrap) (hshadow : s.rel.shadow = [])
    (h : Ready s t 1 (.s r :: ((vRange a ns ++ vRange d (nd + 1)).map .v))) :
    ∃ (ys : List VVal) (fl : Nat), ys.length = nd + 1 ∧
      exec (.qcvt d a r src dst m rm) s =
        .next (s.retire (((t.raise fl).writeBlock d m ys).srStep (t.mode rm) (t.active m))).tick ∧
      (∀ i l, i ≤ nd → l < t.width → (t.active m).getLsbD l →
        (ys.getD i (.u 0)).lane l = (qWords dst.toNat (t.qcvtOf a (t.s r) src.toNat dst.toNat (t.mode rm) l)).getD i 0) ∧
      (∀ k, k < 5 → (fl.testBit k ↔ ∃ l, l < t.width ∧ (t.active m).getLsbD l ∧
        ∃ x ∈ (t.qcvtOf a (t.s r) src.toNat dst.toNat (t.mode rm) l).fl, x.testBit k)) := by
  obtain ⟨xs, ys, hlen, heq, hlane, hfl⟩ := s.qcvt_eq t d a (t.s r) src.toNat dst.toNat m (t.mode rm) (hn ▸ hnd)
  have hregs : t.has ((qcvtInfo d a r ns nd m rm).named ++ (qcvtInfo d a r ns nd m rm).vr ++
      (qcvtInfo d a r ns nd m rm).vw) := by
    intro x hx
    rcases List.mem_append.mp hx with hx | hx
    · exact has_vRange hsrc x hx
    · exact has_vRange (show d.toNat + (nd + 1) ≤ t.vcnt by omega) x hx
  refine ⟨ys, allFlags xs, hlen, ?_, hlane, fun k _ => hfl k⟩
  rw [exec_qcvt m rm hhas hok hr hn hns hnd, if_neg hact, if_neg (by simp [hctl]), if_neg (by omega),
    State.issueTeam_plain h ⟨rfl, rfl, rfl, rfl, rfl, rfl, rfl⟩ hregs, heq, State.fpDone_of_noTrap hshadow htrap]

/-- Settles O29: each instruction by the end it comes to. -/
theorem conversionsAndShapes : Obligations.ConversionsAndShapes := by
  intro s t d a r p m rm hhas
  have hd : t.has [d, d] := hhas.mono (by simp)
  have ha : t.has [a] := hhas.mono (by simp)
  refine ⟨fun sel src dst => ⟨fun cs cd hok hsel hcs hcd htrap hshadow h =>
        vcvt_converts m rm hhas hok hsel hcs hcd htrap hshadow h,
      fun h hsrc hdst hsel => vcvt_parks_selector m rm h hsrc hdst hsel,
      fun h hok hsel => vcvt_parks_pair m rm hhas h hok hsel⟩,
    fun src dst => ⟨fun hok h => qcvt_parks_pair m rm hhas h hok, fun hok h => ⟨fun h0 => ?_, fun h0 hbad => ?_,
      fun n ns nd hn hns hnd h0 hgood => ⟨fun hout => ?_, fun hsrc hdst htrap hshadow hr =>
        qcvt_converts hhas hok h hn hns hnd h0 hgood hsrc hdst htrap hshadow hr⟩⟩⟩,
    fun h => ?_, fun h => ⟨exec_shpromote_lanes hd h, fun htag => ?_, fun htag => ?_⟩⟩
  · rw [exec_qcvt m rm hhas hok h rfl rfl rfl, if_pos h0]
  · rw [exec_qcvt m rm hhas hok h rfl rfl rfl, if_neg h0, if_pos hbad]
  · rw [exec_qcvt m rm hhas hok h hn hns hnd, if_neg h0, if_neg (by simp [hgood]), if_pos hout]
  · rw [exec_shtag ha h]
    cases t.v a <;> rfl
  · rw [exec_shtry_some p hd h (Team.shtry_of_shaped htag), t.putV_self]
  · obtain ⟨xs, hv, hshape⟩ := Team.shtry_of_g htag
    have hlane : ∀ l, (t.v d).lane l = xs.getD l 0 := fun l => by rw [hv, VVal.g_lane]
    simp only [hlane]
    refine ⟨fun x hex hall => exec_shtry_some p hd h (hshape.trans (shtryShape_uniform hex hall)), fun hnot => ?_⟩
    obtain ⟨haff, hnone⟩ := shtryShape_not_uniform hnot
    exact ⟨fun h0 h1 hall => exec_shtry_some p hd h (hshape.trans (haff ⟨h0, h1, hall⟩)),
      fun hn => exec_shtry_none p hd h (hshape.trans (hnone hn))⟩

end Sys2Proof.Machine
end

section
/-! Where a lane access goes, and what finding that out leaves alone (O32). -/

namespace Sys2Proof.Machine

/-! ### Look-ups of addresses (R452, R455, R456) -/

/-- From one state to another only look-ups were made: they fill the caches of entries and leaves, and take choices. -/
def State.LookedUp (s s' : State) : Prop :=
  ∃ (tc : List (Nat × Nat × Nat × Nat × Dw)) (cs : List Core) (n : Nat), s' = { s with tcache := tc, cores := cs, free := n }

theorem State.LookedUp.refl (s : State) : s.LookedUp s := ⟨s.tcache, s.cores, s.free, rfl⟩

theorem State.LookedUp.trans {s s' s'' : State} (h : s.LookedUp s') (h' : s'.LookedUp s'') : s.LookedUp s'' := by
  obtain ⟨_, _, _, rfl⟩ := h
  obtain ⟨tc, cs, n, rfl⟩ := h'
  exact ⟨tc, cs, n, rfl⟩

/-- A look-up that answers a pair, once its answer is known. -/
theorem State.LookedUp.of_eq {α : Type} {s s' : State} {q : State × α} {x : α} (h : s.LookedUp q.1) (e : q = (s', x)) :
    s.LookedUp s' := by
  rwa [e] at h

theorem State.choose_lookedUp (s : State) : s.LookedUp s.choose.1 := ⟨_, _, _, rfl⟩

theorem State.modCore_lookedUp (s : State) (k : Nat) (f : Core → Core) : s.LookedUp (s.modCore k f) := ⟨_, _, _, rfl⟩

theorem State.cachePte_lookedUp (s : State) (c die lvl va : Nat) (e : Dw) : s.LookedUp (s.cachePte c die lvl va e) := by
  unfold State.cachePte
  split
  · exact .refl s
  · exact ⟨_, _, _, rfl⟩

theorem State.pte_lookedUp (s : State) (c die lvl base va : Nat) (wr : Bool) : s.LookedUp (s.pte c die lvl base va wr).1 := by
  unfold State.pte
  dsimp only
  split
  · split
    · exact .refl s
    · exact s.choose_lookedUp
  · exact .refl s

theorem State.walkLevel_lookedUp (s : State) (c die lvl base va : Nat) (wr : Bool) :
    s.LookedUp (s.walkLevel c die lvl base va wr).1 := by
  have h := s.pte_lookedUp c die lvl base va wr
  unfold State.walkLevel
  dsimp only
  (repeat' split) <;> exact h

/-- A walk keeps the entries of the levels that it went through. -/
theorem State.walk_lookedUp (s : State) (c die va : Nat) (wr : Bool) : s.LookedUp (s.walk c die va wr).1 := by
  have hlvl := fun (s : State) lvl base => s.walkLevel_lookedUp c die lvl base va wr
  have hpte := fun (s : State) lvl => s.cachePte_lookedUp c die lvl va
  unfold State.walk
  extract_lets root
  split
  next e1 => exact ((hlvl ..).of_eq e1).trans (hpte ..)
  next e1 => exact (hlvl ..).of_eq e1
  next e1 =>
    have h1 := (hlvl s ..).of_eq e1
    split
    next e2 => exact ((h1.trans ((hlvl ..).of_eq e2)).trans (hpte ..)).trans (hpte ..)
    next e2 => exact h1.trans ((hlvl ..).of_eq e2)
    next e2 =>
      have h2 := h1.trans ((hlvl ..).of_eq e2)
      split
      next e3 => exact (((h2.trans ((hlvl ..).of_eq e3)).trans (hpte ..)).trans (hpte ..)).trans (hpte ..)
      next e3 => exact h2.trans ((hlvl ..).of_eq e3)
      next e3 => exact h2.trans ((hlvl ..).of_eq e3)

theorem State.xlate_lookedUp (s : State) (core c va : Nat) (k : AccK) (o : XOpt) : s.LookedUp (s.xlate core c va k o).1 := by
  unfold State.xlate
  split
  next s1 w hw =>
  have h1 : s.LookedUp s1 := (s.walk_lookedUp ..).of_eq hw
  extract_lets w0
  split
  next s2 hit htlb =>
  have h2 : s.LookedUp s2 := by
    split at htlb
    · split at htlb
      · exact h1.of_eq htlb
      · split at htlb
        next e => exact ((h1.trans s1.choose_lookedUp).of_eq e).of_eq htlb
    · exact h1.of_eq htlb
  have hkept : ∀ (p : Bool) (f : Core → Core), s.LookedUp (if p = true then s2 else s2.modCore core f) := by
    intro p f
    split
    · exact h2
    · exact h2.trans (s2.modCore_lookedUp core f)
  split
  · split
    · exact h2
    · split <;> exact h2
  · exact h2
  · exact h2
  · split
    · exact h2
    · exact hkept _ _

/-! ### The accesses of an instruction (R99) -/

theorem State.xlateAcc_lookedUp (s : State) (t : Team) (o : AccOpt) (window : Bool) (va : Nat) :
    s.LookedUp (s.xlateAcc t o window va).1 := by
  unfold State.xlateAcc
  extract_lets g
  split
  · exact .refl s
  split
  next s1 r e1 =>
  have h1 : s.LookedUp s1 := (s.xlate_lookedUp ..).of_eq e1
  split
  next s2 r' e2 =>
  have h2 : s.LookedUp s2 := by
    split at e2
    · exact h1.of_eq e2
    · split at e2
      next e => exact (h1.trans ((s1.xlate_lookedUp ..).of_eq e)).of_eq e2
  split <;> exact h2

theorem State.resolve_lookedUp (s : State) (t : Team) (sp : Space) (base : SReg) (o : AccOpt) (l : Nat) (va : Dw) :
    s.LookedUp (s.resolve t sp base o l va).1 := by
  unfold State.resolve
  extract_lets g x off
  split
  · exact .refl s
  cases sp
  case L =>
    dsimp only
    split
    · exact .refl s
    split
    · exact s.xlateAcc_lookedUp ..
    · split <;> exact .refl s
  case G => exact s.xlateAcc_lookedUp ..
  all_goals (dsimp only; split <;> exact .refl s)

theorem State.resolveAll_lookedUp (s : State) (t : Team) (sp : Space) (base : SReg) (o : AccOpt) (ls : List (Nat × Dw)) :
    s.LookedUp (s.resolveAll t sp base o ls).1 := by
  induction ls generalizing s with
  | nil => exact .refl s
  | cons q r ih =>
    obtain ⟨l, va⟩ := q
    unfold State.resolveAll
    have h := s.resolve_lookedUp t sp base o l va
    split
    next e1 => exact h.of_eq e1
    next s1 ps e1 =>
      have h1 := h.of_eq e1
      split
      · exact h1
      · split
        next e2 => exact h1.trans ((ih s1).of_eq e2)
        next e2 => exact h1.trans ((ih s1).of_eq e2)

/-! ### Where an access goes (R97, R99, R100, R107, R108) -/

section
variable {s : State} {t : Team} {base : SReg} {o : AccOpt} {l : Nat} {va : Dw}

/-- An access of a size that breaks R132, or off its alignment, goes nowhere (R99). -/
theorem State.resolve_misaligned {sp : Space}
    (h : o.badSize = true ∨ (o.align = true ∨ sp ≠ .G) ∧ va.toNat % o.size ≠ 0) : s.resolve t sp base o l va =
      (s, .inl (mkF .alignment .none (if sp = .L then va.toNat % 2 ^ 32 else va.toNat) o.size)) :=
  if_pos h

/-- An aligned access meets no check before those of its space (R99). -/
theorem AccOpt.aligned_passes (hsize : o.badSize = false) {sp : Space} (h : (o.align = false ∧ sp = .G) ∨ va.toNat % o.size = 0) :
    ¬ (o.badSize = true ∨ (o.align = true ∨ sp ≠ .G) ∧ va.toNat % o.size ≠ 0) := by
  rw [hsize]
  rcases h with ⟨halign, rfl⟩ | h <;> simp_all

/-- An aligned access of space H stays in it, and in a range of its context and partition at both ends (R97, R103, R492). -/
theorem State.resolve_H (hsize : o.badSize = false) (h : va.toNat % o.size = 0) : s.resolve t .H base o l va =
    if va.toNat + o.size ≤ 2 ^ 29 ∧ s.inH (s.groupOf t).ctx va.toNat = true ∧
        s.inH (s.groupOf t).ctx (va.toNat + o.size - 1) = true then
      (s, .inr [localPiece (homeH va.toNat) o.size])
    else (s, .inl (mkF .spaceBounds .none va.toNat 3)) := by
  simp only [← Bool.and_eq_true]
  exact if_neg (AccOpt.aligned_passes hsize (.inr h))

/-- An aligned access of space L meets the stack limit, then the overflow window, then the slice (R107, R108). -/
theorem State.resolve_L {off : Nat} (hoff : off = va.toNat % 2 ^ 32) (hsize : o.badSize = false) (h : va.toNat % o.size = 0) :
    s.resolve t .L base o l va =
      if (base = 60 ∨ base = 62) ∧
          stackDist (s.groupOf t).sSize t.regs.slim.toNat < stackDist (s.groupOf t).sSize off then
        (s, .inl (mkF .stackLimit .none off t.regs.slim.toNat))
      else if t.ovLen ≠ 0 ∧ 2 ^ 32 - t.ovLen ≤ off then
        s.xlateAcc t o true (t.ovBase + (t.index * t.width + l) * t.ovLen + (off - (2 ^ 32 - t.ovLen)))
      else if off + o.size ≤ (s.groupOf t).sSize then (s, .inr [localPiece (homeL t.key l off) o.size])
      else (s, .inl (mkF .spaceBounds .none off 0)) := by
  subst hoff
  exact if_neg (AccOpt.aligned_passes hsize (.inr h))

end

/-- Settles O32: each space by its branch of `State.resolve`; resolving changes what look-ups change. -/
theorem addressesAndTranslation : Obligations.AddressesAndTranslation := by
  intro s t base o l va off hoff
  refine ⟨fun sp h => hoff ▸ State.resolve_misaligned h, fun hsize h => ?_, fun hsize h => ?_, fun sp ls s1 r h => ?_⟩
  · refine ⟨if_neg (AccOpt.aligned_passes hsize (.inr h)), if_neg (AccOpt.aligned_passes hsize (.inr h)), State.resolve_H hsize h, ?_⟩
    rintro D rfl
    rw [State.resolve_L hoff hsize h]
    refine ⟨fun hbase hfar => if_pos ⟨hbase, hfar⟩, fun hnear => ?_⟩
    rw [if_neg fun hfar => hnear.elim (fun hne => hfar.1.elim hne.1 hne.2) hfar.2.not_ge]
    exact ⟨fun hlen hwin => if_pos ⟨hlen, hwin⟩, fun hwin => if_neg fun h => hwin.elim h.1 h.2.not_gt⟩
  · exact if_neg (AccOpt.aligned_passes hsize (h.imp_left (⟨·, rfl⟩)))
  · obtain ⟨_, _, _, rfl⟩ := (s.resolveAll_lookedUp t sp base o ls).of_eq h
    exact ⟨rfl, rfl, rfl, rfl, rfl, rfl⟩

end Sys2Proof.Machine
end

section
/-! Numbered operations of the engines, from issue to completion, in a machine that traces in bounds (R149, R358). -/

namespace Sys2Proof.Machine

/-! ### Timelines (R149) -/

@[simp] theorem Timelines.get_put (x : Timelines) (c : Nat) (y : Timeline) : (x.put c y).get c = y := by
  unfold Timelines.put
  split
  · rfl
  · rfl
  · rfl
  · unfold Timelines.get
    split <;> simp_all

theorem State.TraceOk.traceTl {s : State} (h : s.TraceOk) (t u : Team) (cls : Nat) :
    SameMem s (s.traceTl t u cls) ∧ (s.traceTl t u cls).TraceOk := by
  unfold State.traceTl
  split
  · exact ⟨SameMem.refl s, h⟩
  · exact h.traceTeam ..

/-- A team of which an operation has completed (R149, R358). -/
def Team.opDone (t : Team) (cls num : Nat) : Team :=
  if cls = 1 then { t.complete cls num with cnt := { t.cnt with ti := t.cnt.ti - 1 } }
  else { t.complete cls num with cnt := { t.cnt with cp := t.cnt.cp - 1 } }

/-- The completion of an operation of a team that the machine holds. -/
theorem State.retireOp_of_team {s : State} {k : Nat} {t : Team} (h : s.team k = some t) (cls num : Nat) :
    s.retireOp k cls num = (s.modTeam k (·.opDone cls num)).traceTl t (t.complete cls num) cls := by
  unfold State.retireOp
  rw [h]
  rfl

theorem State.traceTl_keeps (s : State) (t u : Team) (cls : Nat) : (s.traceTl t u cls).teams = s.teams ∧
    (s.traceTl t u cls).groups = s.groups ∧ (s.traceTl t u cls).asy = s.asy := by
  unfold State.traceTl
  split <;> simp

/-- The completion of an operation changes bytes of the trace stores alone. -/
theorem State.TraceOk.retireOp {s : State} (h : s.TraceOk) (k cls num : Nat) :
    SameMem s (s.retireOp k cls num) ∧ (s.retireOp k cls num).TraceOk := by
  have hok : (s.modTeam k (·.opDone cls num)).TraceOk := h.congr h.inv rfl rfl
  cases ht : s.team k with
  | none =>
    have hs : s.retireOp k cls num = s.modTeam k (·.opDone cls num) := by simp only [State.retireOp, ht]; rfl
    exact hs ▸ ⟨fun _ _ => rfl, hok⟩
  | some t => exact State.retireOp_of_team ht cls num ▸ hok.traceTl ..

/-! ### The issue of an operation (R358) -/

/-- The team that retires keeps its registers, counters and timelines. -/
theorem State.team_retire_counts {s : State} {t : Team} (h : (s.team t.key).isSome = true) :
    ∃ u, (s.retire t).team t.key = some u ∧ u.regs = t.regs ∧ u.cnt = t.cnt ∧ u.tl = t.tl := by
  unfold State.retire
  split
  · exact ⟨t, s.team_putTeam_self t h, rfl, rfl, rfl⟩
  · next c _ =>
    split
    · exact ⟨_, s.team_putTeam_self { t with woff := t.next, clause := some { c with left := c.left - 1 } } h, rfl, rfl, rfl⟩
    · exact ⟨_, (State.team_congr (s.endClause_teams t c _ none) t.key).trans (s.team_putTeam_self _ h), rfl, rfl, rfl⟩

/-- A team that has issued an operation: it has the next number of its class, and counts in CNT.CP. -/
def Team.opBegun (t : Team) (p : AsyncPlan) : Team :=
  { (t.number p.cls p.spec).1 with cnt := { t.cnt with cp := t.cnt.cp + 1 } }

/-- The machine in which an operation has its number, before what its issue does itself. -/
def State.numbered (s : State) (t : Team) (p : AsyncPlan) : State := { s.putTeam (t.opBegun p) with uid := s.uid + 1 }

/-- An operation with nothing to do completes as it issues. -/
theorem State.startAsync_done (s : State) (t : Team) {p : AsyncPlan} (k : State → Nat → State) (hsegs : p.segs = [])
    (hfills : p.fills = []) : ∃ (s1 : State),
      s1 = (k (s.numbered t p) s.uid).retireOp t.key p.cls ((t.tl.get p.cls).issued + 1) ∧
      s.startAsync t p k = s1.retire ((s1.team t.key).getD (t.number p.cls p.spec).1) := by
  refine ⟨_, rfl, ?_⟩
  unfold State.startAsync
  simp only [AsyncOp.done, hsegs, hfills, List.isEmpty_nil, Bool.and_self, if_true]
  rfl

@[simp] theorem Team.opBegun_key (t : Team) (p : AsyncPlan) : (t.opBegun p).key = t.key := rfl

@[simp] theorem Team.opDone_key (t : Team) (cls num : Nat) : (t.opDone cls num).key = t.key := by
  unfold Team.opDone
  split <;> rfl

/-- A team whose operation has completed as it issued has counted one more, and nothing else. -/
theorem Team.opDone_opBegun (t : Team) {p : AsyncPlan} (hcls : p.cls ≠ 1) (num : Nat) :
    ((t.opBegun p).opDone p.cls num).regs = t.regs ∧ ((t.opBegun p).opDone p.cls num).cnt = t.cnt ∧
      (((t.opBegun p).opDone p.cls num).tl.get p.cls).issued = (t.tl.get p.cls).issued + 1 := by
  rw [Team.opDone, if_neg hcls]
  refine ⟨rfl, rfl, ?_⟩
  simp [Team.complete, Team.opBegun, Team.number]

/-- In a machine that traces in bounds, an operation with nothing to do counts as issued and stands nowhere: its issue changes groups
by what it does itself alone. -/
theorem State.TraceOk.startAsync_done {s : State} (h : s.TraceOk) {t : Team} {p : AsyncPlan} {k : State → Nat → State}
    {gs : List Group} (hteam : (s.team t.key).isSome = true) (hsegs : p.segs = []) (hfills : p.fills = []) (hcls : p.cls ≠ 1)
    (hk : k (s.numbered t p) s.uid = { s.numbered t p with groups := gs }) :
    OpBegun s (s.startAsync t p k).tick t p ∧ (s.startAsync t p k).groups = gs := by
  obtain ⟨s1, hs1, hstart⟩ := s.startAsync_done t k hsegs hfills
  rw [hk] at hs1
  have hbegun : ({ s.numbered t p with groups := gs } : State).team t.key = some (t.opBegun p) :=
    s.team_putTeam_self (t.opBegun p) hteam
  have hok : ({ s.numbered t p with groups := gs } : State).TraceOk := h.congr h.inv rfl rfl
  obtain ⟨hsame, -⟩ := hok.retireOp t.key p.cls ((t.tl.get p.cls).issued + 1)
  rw [← hs1] at hsame
  rw [State.retireOp_of_team hbegun] at hs1
  obtain ⟨hteams, hgroups, hasy⟩ := State.traceTl_keeps (({ s.numbered t p with groups := gs } : State).modTeam t.key
    (·.opDone p.cls ((t.tl.get p.cls).issued + 1))) (t.opBegun p) ((t.opBegun p).complete p.cls ((t.tl.get p.cls).issued + 1)) p.cls
  rw [← hs1] at hteams hgroups hasy
  have hdone : s1.team t.key = some ((t.opBegun p).opDone p.cls ((t.tl.get p.cls).issued + 1)) := by
    rw [State.team_congr hteams, State.team_modTeam _ _ _ _ (fun u => u.opDone_key _ _), if_pos rfl, hbegun, Option.map_some]
  obtain ⟨hregs, hcnt, hissued⟩ := t.opDone_opBegun hcls ((t.tl.get p.cls).issued + 1)
  rw [hdone, Option.getD_some] at hstart
  obtain ⟨u, hu, huregs, hucnt, hutl⟩ := State.team_retire_counts (s := s1)
    (t := (t.opBegun p).opDone p.cls ((t.tl.get p.cls).issued + 1)) (by simp [hdone])
  rw [Team.opDone_key, Team.opBegun_key] at hu
  rw [hstart]
  refine ⟨⟨u, hu, huregs.trans hregs, by rw [hutl, hissued], ?_, ?_⟩, by simp [hgroups]⟩
  · intro b hb
    rw [State.tick_mem, (State.retire_keeps _ _).1]
    exact hsame b hb
  · rw [if_pos ⟨hsegs, hfills⟩]
    exact ⟨by simpa [State.numbered] using hasy, hucnt.trans hcnt⟩

/-! ### QPUT from a register (R363) -/

/-- A queue that exists, replaced, reads as what it was replaced by. -/
theorem Group.queue_set {g : Group} {q : Nat} (h : (g.queue q).depth ≠ 0) (x : Queue) :
    ({ g with queues := g.queues.set q x } : Group).queue q = x := by
  have hlt : q < g.queues.length := by
    by_contra hge
    exact h (by rw [Group.queue, List.getD_eq_default _ _ (Nat.le_of_not_lt hge)])
  rw [Group.queue, List.getD_eq_getElem?_getD, List.getElem?_set_self hlt, Option.getD_some]

/-- A queue that exists in a team's group, replaced. -/
theorem State.queue_putQueue {s : State} {t : Team} {q : Nat} (h : ((s.groupOf t).queue q).depth ≠ 0) (x : Queue) :
    ((s.putQueue t.gslot q x).groupOf t).queue q = x := by
  have hmod := s.group_modGroup t.gslot t.gslot (fun g => { g with queues := g.queues.set q x }) (fun _ => rfl)
  cases hg : s.group t.gslot with
  | none => exact absurd (by simp [State.groupOf, State.groupAt, hg, Group.queue]) h
  | some g =>
    have hgroup : s.groupOf t = g := by rw [State.groupOf, State.groupAt, hg, Option.getD_some]
    rw [State.groupOf, State.groupAt, State.putQueue, hmod, if_pos rfl, hg, Option.map_some, Option.getD_some]
    exact Group.queue_set (hgroup ▸ h) x

/-- The effect mark leaves the queues of a team's group. -/
theorem State.effect_queue (s : State) (t : Team) (q : Nat) : ((s.effect t).groupOf t).queue q = (s.groupOf t).queue q := by
  have hmod := s.group_modGroup t.gslot t.gslot (fun g => { g with effect := true }) (fun _ => rfl)
  rw [State.groupOf, State.groupAt, State.effect, hmod, if_pos rfl, State.groupOf, State.groupAt]
  cases s.group t.gslot <;> rfl

/-- A queue that exists and has room for some slots has no fault of its count (R114). -/
theorem Queue.fault_none {x : Queue} {n : Nat} (hdepth : x.depth ≠ 0) (hroom : n ≤ x.empty) : x.fault n = none := by
  have hfits : ¬ x.depth < n := by
    rw [Queue.empty] at hroom
    omega
  rw [Queue.fault, if_neg hdepth, if_neg hfits]

/-- A queue with a slot for each mask word of a team's register behind those there are. -/
def Queue.filled (x : Queue) (t : Team) (v : VReg) : Queue :=
  { x with slots := x.slots ++ t.words.map (fun w => QSlot.full (t.slotLine v w) 0) }

/-- QPUT from a register with room in the queue and in CNT.CP fills its slots and completes as it issues. -/
theorem exec_qputRegister {s : State} {t : Team} {v : VReg} {q : BitVec 4} (hcp : t.cnt.cp ≠ 0xFFFF)
    (hready : Ready s t 4 [.v v]) (hhas : t.has [v]) (hdepth : ((s.groupOf t).queue q.toNat).depth ≠ 0)
    (hroom : t.words.length ≤ ((s.groupOf t).queue q.toNat).empty) :
    exec (.qputRegister v q) s = .next ((s.effect t).startAsync t { cls := 2, minor := 3 } (fun s' _ =>
      s'.putQueue t.gslot q.toNat (((s.groupOf t).queue q.toNat).filled t v))).tick := by
  refine (issue_plain (i := { vr := [v], eng := 4, who := some none }) hready ⟨rfl, rfl, rfl, rfl, rfl, rfl, rfl⟩ hhas _).trans ?_
  simp only [Queue.fault_none hdepth hroom, if_neg (Nat.not_lt.mpr hroom), State.async, if_neg hcp, Queue.filled]

/-- In a machine that traces in bounds, QPUT from a register fills one slot a mask word that holds an active lane: the clause of
`Obligations.StreamQueues` that fails without that premise. -/
theorem State.TraceOk.qputRegister {s : State} (h : s.TraceOk) {t : Team} {v : VReg} {q : BitVec 4} (hcp : t.cnt.cp ≠ 0xFFFF)
    (hready : Ready s t 4 [.v v]) (hhas : t.has [v]) (hdepth : ((s.groupOf t).queue q.toNat).depth ≠ 0)
    (hroom : t.words.length ≤ ((s.groupOf t).queue q.toNat).empty) :
    ∃ (s' : State), exec (.qputRegister v q) s = .next s' ∧ OpBegun s s' t { cls := 2, minor := 3 } ∧
      ((s'.groupOf t).queue q.toNat).slots =
        ((s.groupOf t).queue q.toNat).slots ++ t.words.map (fun w => QSlot.full (t.slotLine v w) 0) := by
  obtain ⟨hteam, -⟩ := s.curTeam_team t hready.1
  have hok : (s.effect t).TraceOk := h.congr h.inv rfl rfl
  obtain ⟨hbegun, hgroups⟩ := hok.startAsync_done (t := t) (p := { cls := 2, minor := 3 })
    (k := fun s' _ => s'.putQueue t.gslot q.toNat (((s.groupOf t).queue q.toNat).filled t v))
    (gs := ((s.effect t).putQueue t.gslot q.toNat (((s.groupOf t).queue q.toNat).filled t v)).groups)
    (Option.isSome_of_eq_some hteam) rfl rfl (by decide) rfl
  refine ⟨_, exec_qputRegister hcp hready hhas hdepth hroom, hbegun, ?_⟩
  rw [State.groupOf_congr ((State.tick_groups _).trans hgroups), State.queue_putQueue]
  · rfl
  · rwa [State.effect_queue]

end Sys2Proof.Machine
end

section
/-! A copy segment between scratchpads, in a machine that traces in bounds (R360, R361). -/

namespace Sys2Proof.Machine

/-! ### What a segment's bytes pass through -/

/-- Prefetched lines that are used change no memory and nothing that tracing reads. -/
theorem State.usePf_keeps (c : Nat) (ls : List Nat) (s : State) :
    (s.usePf c ls).mem = s.mem ∧ (s.usePf c ls).trc = s.trc ∧ (s.usePf c ls).cores = s.cores := by
  unfold State.usePf
  split
  · exact ⟨rfl, rfl, rfl⟩
  next hpfl =>
    clear hpfl
    induction ls generalizing s with
    | nil => exact ⟨rfl, rfl, rfl⟩
    | cons l ls ih =>
      rw [List.foldl_cons]
      dsimp only
      split
      · exact ih s
      · exact ih _

@[simp] theorem Mem.length_readN (m : List Host.Cell) (a n : Nat) : (Mem.readN m a n).length = n := by
  induction n generalizing a with
  | zero => rfl
  | succ n ih => rw [Mem.readN, List.length_cons, ih]

/-- An operation that may be done changes bytes of the trace stores alone. -/
theorem State.TraceOk.asySettle {s : State} (h : s.TraceOk) (n : Nat) : SameMem s (s.asySettle n) := by
  unfold State.asySettle
  split
  · next o _ =>
    split
    · have hok : ({ s with asy := s.asy.filter (fun x => x.id != n) } : State).TraceOk := h.congr h.inv rfl rfl
      exact (hok.retireOp o.team o.cls o.num).1
    · exact SameMem.refl s
  · exact SameMem.refl s

theorem State.retireOp_asy (s : State) (k cls num : Nat) : (s.retireOp k cls num).asy = s.asy := by
  cases ht : s.team k with
  | none => simp only [State.retireOp, ht, State.modTeam_asy]
  | some t =>
    rw [State.retireOp_of_team ht, (State.traceTl_keeps _ _ _ _).2.2, State.modTeam_asy]

/-- An operation still in progress after it may be done is the one there was. -/
theorem State.asyOp_of_asySettle {s : State} {n : Nat} {p : AsyncOp} (h : (s.asySettle n).asyOp n = some p) : s.asyOp n = some p := by
  unfold State.asySettle at h
  split at h
  · split at h
    · rw [State.asyOp, State.retireOp_asy] at h
      have hmem := List.mem_of_find?_eq_some h
      have hid := List.find?_some h
      simp_all
    · exact h
  · exact h

/-- An operation found after one of its number is put in is that one. -/
theorem State.asyOp_putAsy {s : State} {o p : AsyncOp} (h : (s.putAsy o).asyOp o.id = some p) : p = o := by
  have hid := List.find?_some h
  obtain ⟨x, -, hx⟩ := List.mem_map.mp (List.mem_of_find?_eq_some h)
  split at hx
  · exact hx.symm
  · next hne => exact absurd (by rw [hx]; simpa using hid) hne

/-- What stands for a segment of an operation where it has been put in. -/
theorem AsyncOp.mem_putSeg {o : AsyncOp} {no : Nat} {x : Option Seg} {y : Seg} (h : y ∈ (o.putSeg no x).segs) (hno : y.no = no) :
    x = some y := by
  obtain ⟨z, -, hz⟩ := List.mem_filterMap.mp h
  split at hz
  · exact hz
  · next hne => exact absurd ((Option.some_inj.mp hz) ▸ hno) hne

/-- A segment with bytes left has a window. -/
theorem segWindow_pos (se de : End1) (src dst : Nat) {len : Nat} (h : 0 < len) : 0 < segWindow se de src dst len := by
  unfold segWindow
  dsimp only
  split
  · exact h
  · refine Nat.lt_min.mpr ⟨h, ?_⟩
    rw [if_neg (by omega)]
    omega

theorem segWindow_le (se de : End1) (src dst len : Nat) : segWindow se de src dst len ≤ len := by
  unfold segWindow
  dsimp only
  split
  · exact le_rfl
  · exact Nat.min_le_left _ _

/-! ### The segment (R360) -/

/-- What is left of a segment after n bytes, where nothing of them is to be acknowledged. -/
def Seg.left (sg : Seg) (n : Nat) : Seg := { sg.from n with acks := sg.acks }

/-- What an operation holds for a segment after n bytes: nothing where none is left and nothing is to be acknowledged. -/
def Seg.leftOr (sg : Seg) (n : Nat) : Option Seg :=
  if (sg.left n).len = 0 ∧ (sg.left n).acks = [] then none else some (sg.left n)

theorem State.copyLocal_apart (s : State) {a b n : Nat} (h : a + n ≤ b ∨ b + n ≤ a) :
    s.copyLocal a b n = s.perform b (Mem.readN s.mem a n) := by
  rw [State.copyLocal, if_pos h]

/-- A segment between scratchpads, free of errors and with nothing before it, moves the bytes of its window. -/
theorem State.runSeg_local {s : State} {o : AsyncOp} {sg : Seg} {a b n : Nat} (hssp : sg.ssp ≠ 4) (hdsp : sg.dsp ≠ 4)
    (hfar : s.farOf o.id sg.no = []) (ha : a = (s.groupAt o.group).home sg.ssp sg.src.toNat)
    (hb : b = (s.groupAt o.group).home sg.dsp sg.dst.toNat) (hbehind : s.behind o.team o.id [localPiece a sg.len] = false)
    (hpoison : ∀ j, j < sg.len → s.poisoned (a + j) 1 = false) (hapart : a + sg.len ≤ b ∨ b + sg.len ≤ a)
    (hn : segWindow (.home a) (.home b) sg.src.toNat sg.dst.toNat sg.len = n) :
    ∃ s1 : State, s1.mem = Mem.writeN s.mem b (Mem.readN s.mem a n) ∧ s1.trc = s.trc ∧ s1.cores = s.cores ∧
      s.runSeg o sg none = (s1.putAsy (o.putSeg sg.no (sg.leftOr n))).asySettle o.id := by
  have hsrc : s.segSrc (s.groupAt o.group) o.id sg = (s, .inr (.home a)) := by
    simp only [State.segSrc, hfar, State.segEnd, if_pos hssp, ha]
  have hdst : s.segEnd (s.groupAt o.group) sg.dsp sg.dst sg.len .store = (s, .inr (.home b)) := by
    rw [State.segEnd, if_pos hdsp, hb]
  have hlost : s.segLost o.id sg = none := by simp [State.segLost, hfar, farBad, minBy]
  have hbad : s.endBad (.home a) sg.src sg.len = none := by
    rw [State.endBad, List.find?_eq_none]
    exact fun j hj => by simp [hpoison j (List.mem_range.mp hj)]
  have hwindow : n ≤ sg.len := hn ▸ segWindow_le ..
  obtain ⟨hmem, htrc, hcores⟩ := s.usePf_keeps (s.groupAt o.group).ctx (pieceLines [localPiece a n])
  obtain ⟨hmem', htrc', hcores'⟩ := (s.usePf (s.groupAt o.group).ctx (pieceLines [localPiece a n])).usePf_keeps
    (s.groupAt o.group).ctx (pieceLines [localPiece b n])
  generalize hs2 : (s.usePf (s.groupAt o.group).ctx (pieceLines [localPiece a n])).usePf (s.groupAt o.group).ctx
    (pieceLines [localPiece b n]) = s2 at hmem' htrc' hcores'
  have hmoved : s2.moveBytes (s.groupAt o.group).ctx (.home a) (.home b) sg.src sg.dst n =
      (s2.perform b (Mem.readN s2.mem a n), []) :=
    congrArg (·, []) (s2.copyLocal_apart (by omega))
  generalize hs3 : s2.perform b (Mem.readN s2.mem a n) = s3 at hmoved
  have hleft : ∀ s4 : State, s4 = (if (sg.left n).len = 0 then s3.dropFar o.id sg.no else s3) →
      s4.mem = s3.mem ∧ s4.trc = s3.trc ∧ s4.cores = s3.cores := by
    rintro s4 rfl
    split <;> exact ⟨rfl, rfl, rfl⟩
  obtain ⟨hmem4, htrc4, hcores4⟩ := hleft _ rfl
  have hmem2 : s2.mem = s.mem := hmem'.trans hmem
  refine ⟨_, hmem4.trans ?_, htrc4.trans ?_, hcores4.trans ?_, ?_⟩
  · rw [← hs3, ← hmem2]
    rfl
  · rw [← hs3, ← htrc, ← htrc']
    rfl
  · rw [← hs3, ← hcores, ← hcores']
    rfl
  rw [State.runSeg]
  simp only [hfar, List.any_nil, Bool.false_eq_true, if_false, hsrc, hdst, hlost, farEnd, End1.pieces, hbehind, hbad, hn,
    Option.map_none, Option.bind_none, Option.filter_none, ne_eq, not_true_eq_false, Nat.min_eq_left hwindow, or_true, if_true,
    Option.orElse_none, hs2, hmoved, List.map_nil, List.append_nil]
  rfl

/-- In a machine that traces in bounds, a copy segment between scratchpads copies its bytes and no other: the clause of
`Obligations.EngineEvents` that fails without that premise. -/
theorem State.TraceOk.copySegment {s : State} (h : s.TraceOk) {n i a b : Nat} {o : AsyncOp} {sg : Seg} (ho : s.asyOp n = some o)
    (hcls : o.cls ≠ 3) (hsg : o.segs.find? (fun x => x.no == i && x.open o.cls) = some sg) (hssp : sg.ssp ≠ 4)
    (hdsp : sg.dsp ≠ 4) (hfar : s.farOf n i = []) (ha : a = (s.groupAt o.group).home sg.ssp sg.src.toNat)
    (hb : b = (s.groupAt o.group).home sg.dsp sg.dst.toNat) (hbehind : s.behind o.team n [localPiece a sg.len] = false)
    (hpoison : ∀ j, j < sg.len → s.poisoned (a + j) 1 = false) (hapart : a + sg.len ≤ b ∨ b + sg.len ≤ a) :
    ∃ (s' : State) (m : Nat), exec (.copySegmentComplete n i none) s = .next s' ∧ 0 < m ∧ m ≤ sg.len ∧
      (∀ j, j < m → noTrace (b + j) → Mem.read s'.mem (b + j) = Mem.read s.mem (a + j)) ∧
      (∀ x, noTrace x → x < b ∨ b + m ≤ x → Mem.read s'.mem x = Mem.read s.mem x) ∧
      (m < sg.len → ∀ p, s'.asyOp n = some p → ∀ y ∈ p.segs, y.no = i → y = { sg.from m with acks := sg.acks }) ∧
      (m = sg.len → sg.acks = [] → ∀ p, s'.asyOp n = some p → ∀ y ∈ p.segs, y.no ≠ i) := by
  have hexec : exec (.copySegmentComplete n i none) s = .next (s.runSeg o sg none) := by
    show execCopySegmentComplete n i none s = _
    simp only [execCopySegmentComplete, ho, hsg, if_neg hcls]
  obtain rfl : o.id = n := by simpa using List.find?_some ho
  obtain ⟨hno, hopen⟩ : sg.no = i ∧ sg.open o.cls = true := by simpa using List.find?_some hsg
  subst hno
  have hlen : 0 < sg.len := by
    have : sg.len ≠ 0 := by
      intro hz
      simp [Seg.open, hz] at hopen
    omega
  generalize hm : segWindow (.home a) (.home b) sg.src.toNat sg.dst.toNat sg.len = m
  have hpos : 0 < m := hm ▸ segWindow_pos _ _ _ _ hlen
  have hle : m ≤ sg.len := hm ▸ segWindow_le ..
  obtain ⟨s1, hmem, htrc, hcores, hrun⟩ := s.runSeg_local hssp hdsp hfar ha hb hbehind hpoison hapart hm
  have hinv : s1.Inv := by
    rw [State.Inv, hmem]
    exact Mem.wf_writeN h.inv b _
  have hok : (s1.putAsy (o.putSeg sg.no (sg.leftOr m))).TraceOk := h.congr hinv htrc hcores
  have hsame := hok.asySettle o.id
  rw [← hrun] at hsame
  have hkept : ∀ {p}, (s.runSeg o sg none).asyOp o.id = some p → ∀ {y}, y ∈ p.segs → y.no = sg.no → sg.leftOr m = some y := by
    intro p hp y hy hyno
    rw [hrun] at hp
    obtain rfl : p = o.putSeg sg.no (sg.leftOr m) := State.asyOp_putAsy (State.asyOp_of_asySettle hp)
    exact AsyncOp.mem_putSeg hy hyno
  refine ⟨_, m, hexec, hpos, hle, ?_, ?_, ?_, ?_⟩
  · intro j hj hx
    refine (hsame _ hx).trans (show Mem.read s1.mem _ = _ from ?_)
    rw [hmem, Mem.read_writeN_inside h.inv _ _ (by simpa using hj), Mem.getD_readN _ _ _ _ hj]
  · intro x hx hout
    refine (hsame _ hx).trans (show Mem.read s1.mem _ = _ from ?_)
    rw [hmem, Mem.read_writeN_outside h.inv _ _ _ (by simpa using hout)]
  · intro hlt p hp y hy hyno
    have hy := hkept hp hy hyno
    rw [Seg.leftOr, if_neg (by simp [Seg.left, Seg.from]; omega)] at hy
    exact (Option.some_inj.mp hy).symm
  · intro heq hacks p hp y hy hyno
    have hy := hkept hp hy hyno
    rw [Seg.leftOr, if_pos ⟨by simp [Seg.left, Seg.from, heq], hacks⟩] at hy
    exact absurd hy (by simp)

end Sys2Proof.Machine
end

section
/-! Operations that complete in a machine where tracing overwrites more than its store (O43, O53). -/

namespace Sys2Proof.Machine

/-- The byte at an address of the machine that a step leaves, where it leaves one. -/
def leftByte (b : Nat) (o : Out) : Option Byte :=
  match o with
  | .next s => some (Mem.read s.mem b)
  | _ => none

@[simp] theorem leftByte_next (b : Nat) (s : State) : leftByte b (.next s) = some (Mem.read s.mem b) := rfl

/-! ### QPUT from a register (R363) -/

/-- The team of `overrun` with an instruction to issue. -/
def issuingTeam : Team := { plainTeam .running with clause := some { hdr := 0, words := [], left := 1 } }

/-- A group with an empty queue of eight slots. -/
def queueGroup : Group := { State.reset.groupAt 0 with queues := [{ depth := 8, slots := [] }] }

/-- `overrun` where the team issues and its group has a queue. -/
def overrunIssue : State := { overrun .running with teams := [issuingTeam], groups := [queueGroup], cur := some 0 }

/-- QPUT from a register completes as it issues, and the record of its completion leaves the trace store. -/
theorem overrunIssue_qputRegister : leftByte overrunAt (exec (.qputRegister 0 0) overrunIssue) = some 1 := by decide +kernel

theorem overrunIssue_ready : Ready overrunIssue issuingTeam 4 [.v 0] :=
  ⟨rfl, rfl, rfl, rfl, fun _ ha => nomatch ha⟩

/-- Refutes O43: in `overrunIssue` the trace record of the completion of a QPUT from a register changes a byte outside the trace
stores. What fails is the memory of that clause alone, for want of a premise that tracing stays in bounds:
`State.TraceOk.qputRegister` has the clause with it. -/
theorem not_streamQueues : ¬ Obligations.StreamQueues := by
  intro h
  obtain ⟨-, hregister, -⟩ := h overrunIssue issuingTeam 0 0 0 false false 0 0 0
  have hhas : issuingTeam.has [0] := fun r hr => by
    rw [List.mem_singleton.mp hr]
    decide +kernel
  obtain ⟨s', hexec, ⟨-, -, -, -, hsame, -⟩, -⟩ :=
    hregister (by decide) overrunIssue_ready hhas (by decide) (by decide +kernel)
  have hleft := overrunIssue_qputRegister
  rw [hexec, leftByte_next, Option.some_inj, hsame overrunAt noTrace_overrunAt] at hleft
  exact absurd hleft (by decide)

/-! ### The completion of a copy segment (R361) -/

/-- The team of `overrun` with one copy outstanding. -/
def copyingTeam : Team :=
  { plainTeam .running with tl := { (plainTeam .running).tl with cpy := { issued := 1, opn := [1] } } }

/-- A segment of one byte between two places of the scratchpad of a group. -/
def byteSeg : Seg := { no := 0, ssp := 1, src := 0, dsp := 1, dst := 8, len := 1, b := 0, acks := [], parked := none }

/-- A copy of that segment. -/
def byteCopy : AsyncOp :=
  { id := 1, team := 0, group := 0, cls := 0, num := 1, minor := 0, segs := [byteSeg], fills := [], queue := none, coll := [] }

/-- `overrun` with a copy that has one byte to go. -/
def overrunCopy : State := { overrun .running with teams := [copyingTeam], asy := [byteCopy] }

/-- The last segment of a copy completes it, and the record of its completion leaves the trace store. -/
theorem overrunCopy_complete : leftByte overrunAt (exec (.copySegmentComplete 1 0 none) overrunCopy) = some 1 := by
  decide +kernel

/-- Refutes O53: in `overrunCopy` the trace record of the completion of a copy changes a byte that is neither among those copied nor
of the trace stores. The clause lacks the premise that tracing stays in bounds (as does that on ACCZ):
`State.TraceOk.copySegment` has it. -/
theorem not_engineEvents : ¬ Obligations.EngineEvents := by
  intro h
  obtain ⟨-, -, -, -, hcopy, -⟩ := h overrunCopy 1 0 [] 0
  obtain ⟨-, hmoved⟩ := hcopy byteCopy byteSeg rfl rfl (by decide) rfl (by decide) (by decide) rfl
    _ _ rfl rfl
  obtain ⟨s', m, hexec, -, hle, -, hout, -⟩ := hmoved (by decide +kernel) (by decide +kernel) (.inl (by decide +kernel))
  have hbehind : (overrunCopy.groupAt byteCopy.group).home byteSeg.dsp byteSeg.dst.toNat + 1 ≤ overrunAt := by decide +kernel
  have hleft := overrunCopy_complete
  rw [hexec, leftByte_next, Option.some_inj,
    hout overrunAt noTrace_overrunAt (.inr (le_trans (Nat.add_le_add_left hle _) hbehind))] at hleft
  exact absurd hleft (by decide)

end Sys2Proof.Machine
end

section
/-! Memory keeps its canonical form (O7). Memory changes in three ways only, `Mem.write`, `Mem.writeN` and `Mem.clear`, and each keeps
`Mem.wf`. So an operation keeps `State.Inv` whatever branch it takes, and no proof here uses a condition that a branch tests. For each
operation `f` there is one rule, `State.Inv.f`: of a canonical state, `s.f …` is canonical, or the state it answers first. The rules stand
in the order of the model's files, and the proof of one follows the body of `f`, chaining the rules of what it calls.

This section: the rules of the three writes, of branches and folds, and of the operations of the state.

The rules are elaborated one after another: a thread for each of so many short proofs would ask for more memory than there is. -/

set_option Elab.async false

namespace Sys2Proof.Machine

variable {s s' : State}

/-! ### Rules -/

/-- A state with the memory of a canonical one is canonical: most operations leave memory alone. -/
theorem State.Inv.of_mem (h : s.Inv) (e : s'.mem = s.mem := by with_reducible rfl) : s'.Inv := by
  rw [State.Inv, e]; exact h

theorem State.Inv.of_writeN (h : s.Inv) {a : Nat} {bs : List Byte}
    (e : s'.mem = Mem.writeN s.mem a bs := by with_reducible rfl) : s'.Inv := by
  rw [State.Inv, e]; exact Mem.wf_writeN h a bs

theorem State.Inv.of_write (h : s.Inv) {a : Nat} {b : Byte}
    (e : s'.mem = Mem.write s.mem a b := by with_reducible rfl) : s'.Inv := by
  rw [State.Inv, e]; exact Mem.wf_write h a b

theorem State.Inv.of_clear (h : s.Inv) {lo hi : Nat}
    (e : s'.mem = Mem.clear s.mem lo hi := by with_reducible rfl) : s'.Inv := by
  rw [State.Inv, e]; exact Mem.wf_clear h lo hi

theorem State.Inv.ite {c : Prop} [Decidable c] {a b : State} (ha : a.Inv) (hb : b.Inv) : (if c then a else b).Inv := by
  split <;> assumption

/-- An `if` without an else: the state is stepped on from, or kept. -/
theorem State.Inv.ite_step {c : Prop} [Decidable c] (h : s.Inv) (hf : s.Inv → s'.Inv) : (if c then s' else s).Inv :=
  .ite (hf h) h

/-- The same with the branches exchanged. -/
theorem State.Inv.ite_keep {c : Prop} [Decidable c] (h : s.Inv) (hf : s.Inv → s'.Inv) : (if c then s else s').Inv :=
  .ite h (hf h)

theorem State.Inv.ite_fst {α : Type} {c : Prop} [Decidable c] {p q : State × α} (hp : p.1.Inv) (hq : q.1.Inv) :
    (if c then p else q).1.Inv := by
  split <;> assumption

/-- A state that an operation answers in a pair, once the pair has been taken apart. -/
theorem State.Inv.of_fst {α : Type} {p : State × α} {a : α} (h : p.1.Inv) (e : p = (s, a)) : s.Inv := by
  subst e; exact h

theorem State.Inv.foldl {α : Type} {f : State → α → State} {l : List α} (hf : ∀ s a, s.Inv → (f s a).Inv)
    (h : s.Inv) : (l.foldl f s).Inv := by
  induction l generalizing s with
  | nil => exact h
  | cons a r ih => exact ih (hf s a h)

theorem State.Inv.foldl_fst {α β : Type} {f : State × β → α → State × β} {l : List α} {p : State × β}
    (hf : ∀ p a, p.1.Inv → (f p a).1.Inv) (h : p.1.Inv) : (l.foldl f p).1.Inv := by
  induction l generalizing p with
  | nil => exact h
  | cons a r ih => exact ih (hf p a h)

/-- A fold that may stop keeps the form, where each of its steps does. -/
theorem State.Inv.foldl_getD {α : Type} {f : Option State → α → Option State} {l : List α} {o : Option State}
    (hf : ∀ o a, (∀ s', o = some s' → s'.Inv) → ∀ s', f o a = some s' → s'.Inv)
    (h : ∀ s', o = some s' → s'.Inv) :
    ∀ s', l.foldl f o = some s' → s'.Inv := by
  induction l generalizing o with
  | nil => exact h
  | cons a r ih => exact ih (hf o a h)

theorem State.Inv.of_getD {o : Option State} (h : (o.getD s).Inv) (e : o = some s') : s'.Inv := by
  subst e; exact h

/-- `csrTry` leaves the state that a write of a control register answers, or the old one where the write is refused: the
form of an answer is read off it. -/
theorem State.Inv.of_csrTry {r : Except Detail State} (h : (s.csrTry r).Inv) (e : r = .ok s') : s'.Inv := by
  subst e; exact h

theorem State.Inv.csrTry_ok (h : s'.Inv) : (s.csrTry (.ok s')).Inv := h

theorem State.Inv.csrTry_error (h : s.Inv) {d : Detail} : (s.csrTry (.error d)).Inv := h

/-! ### Ops, Flags and Clause -/

theorem State.Inv.putTeam (h : s.Inv) {t : Team} : (s.putTeam t).Inv := h.of_mem rfl

theorem State.Inv.modTeam (h : s.Inv) {k : Nat} {f : Team → Team} : (s.modTeam k f).Inv := h.of_mem rfl

theorem State.Inv.modGroup (h : s.Inv) {k : Nat} {f : Group → Group} : (s.modGroup k f).Inv := h.of_mem rfl

theorem State.Inv.modCtx (h : s.Inv) {c : Nat} {f : Ctx → Ctx} : (s.modCtx c f).Inv := h.of_mem rfl

theorem State.Inv.modPart (h : s.Inv) {p : Nat} {f : Part → Part} : (s.modPart p f).Inv := h.of_mem rfl

theorem State.Inv.modCore (h : s.Inv) {k : Nat} {f : Core → Core} : (s.modCore k f).Inv := h.of_mem rfl

theorem State.Inv.modPeer (h : s.Inv) {m : Nat} {f : Peer → Peer} : (s.modPeer m f).Inv := h.of_mem rfl

theorem State.Inv.fresh (h : s.Inv) : s.fresh.1.Inv := h.of_mem rfl

theorem State.Inv.choose (h : s.Inv) : s.choose.1.Inv := h.of_mem rfl

theorem State.Inv.tick (h : s.Inv) : s.tick.Inv := h.of_mem rfl

theorem State.Inv.notify (h : s.Inv) {d0 d1 vec : Nat} : (s.notify d0 d1 vec).Inv := by
  unfold State.notify
  dsimp only
  exact .ite h.of_mem h.of_mem

theorem State.Inv.relRec (h : s.Inv) {die typ ukind unum pips ctx d1 d2 : Nat} :
    (s.relRec die typ ukind unum pips ctx d1 d2).Inv := by
  unfold State.relRec
  dsimp only
  exact .ite h.of_writeN.notify h.of_writeN

theorem State.Inv.relRecord (h : s.Inv) {die typ ukind unum pips ctx d1 d2 : Nat} :
    (s.relRecord die typ ukind unum pips ctx d1 d2).Inv := by
  unfold State.relRecord
  dsimp only
  exact .ite h.relRec.of_mem.relRec h.relRec

theorem State.Inv.addPips (h : s.Inv) {k n amt : Nat} : (s.addPips k n amt).Inv := by
  unfold State.addPips
  dsimp only
  exact .ite h.of_mem.relRecord h.of_mem

theorem State.Inv.voidRun (h : s.Inv) {c die tid cause : Nat} : (s.voidRun c die tid cause).Inv := by
  unfold State.voidRun
  dsimp only
  exact .ite h.modCtx.relRecord h

theorem State.Inv.endRun (h : s.Inv) {c : Nat} : (s.endRun c).Inv := by
  unfold State.endRun
  dsimp only
  exact .ite h.modCtx.relRecord h

theorem State.Inv.closeBlock (h : s.Inv) {core part : Nat} : (s.closeBlock core part).Inv := by
  unfold State.closeBlock
  dsimp only
  exact .ite h (.ite h.modCore.of_mem (.ite (.ite h.modCore.of_writeN h.modCore.of_writeN) h.modCore.of_writeN))

theorem State.Inv.trace (h : s.Inv) {core ctx slot typ payload : Nat} : (s.trace core ctx slot typ payload).Inv := by
  unfold State.trace
  dsimp only
  exact .ite h (.ite (.closeBlock (.modCore (.ite h.closeBlock h))) (.modCore (.ite h.closeBlock h)))

theorem State.Inv.traceTeam (h : s.Inv) {t : Team} {typ payload : Nat} : (s.traceTeam t typ payload).Inv := by
  unfold State.traceTeam
  dsimp only
  exact h.trace

theorem State.Inv.traceBind (h : s.Inv) {t : Team} {how cls : Nat} : (s.traceBind t how cls).Inv := by
  unfold State.traceBind
  exact h.traceTeam

theorem State.Inv.traceTl (h : s.Inv) {t u : Team} {cls : Nat} : (s.traceTl t u cls).Inv := by
  unfold State.traceTl
  exact .ite h h.traceTeam

theorem State.Inv.tracePc (h : s.Inv) {t : Team} {typ pc : Nat} : (s.tracePc t typ pc).Inv := by
  unfold State.tracePc
  dsimp only
  exact .ite h (.traceTeam (.ite h h.traceTeam.modCore))

theorem State.Inv.pump1 (h : s.Inv) {m : Nat} : (s.pump1 m).Inv := by
  unfold State.pump1
  dsimp only
  split
  · exact h.modPeer
  exact h

theorem State.Inv.pump (h : s.Inv) {m n : Nat} : (s.pump m n).Inv := by
  induction n generalizing s with
  | zero => exact h
  | succ n ih => exact ih h.pump1

theorem State.Inv.sendPkts (h : s.Inv) {m : Nat} {ps : List Packet} : (s.sendPkts m ps).Inv := by
  unfold State.sendPkts
  exact h.modPeer.pump

theorem State.Inv.pte (h : s.Inv) {c die lvl base va : Nat} {wr : Bool} : (s.pte c die lvl base va wr).1.Inv := by
  unfold State.pte
  dsimp only
  split
  · exact .ite_fst h h.choose
  exact h

theorem State.Inv.walkLevel (h : s.Inv) {c die lvl base va : Nat} {wr : Bool} :
    (s.walkLevel c die lvl base va wr).1.Inv := by
  unfold State.walkLevel
  dsimp only
  exact .ite_fst h.pte (.ite_fst h.pte (.ite_fst h.pte h.pte))

theorem State.Inv.cachePte (h : s.Inv) {c die lvl va : Nat} {e : Dw} : (s.cachePte c die lvl va e).Inv := by
  unfold State.cachePte
  exact .ite h h.of_mem

theorem State.Inv.walk (h : s.Inv) {c die va : Nat} {wr : Bool} : (s.walk c die va wr).1.Inv := by
  unfold State.walk
  dsimp only
  split
  · exact (h.walkLevel.of_fst ‹_›).cachePte
  · exact h.walkLevel.of_fst ‹_›
  rename_i e1
  have h1 := h.walkLevel.of_fst e1
  split
  · exact (h1.walkLevel.of_fst ‹_›).cachePte.cachePte
  · exact h1.walkLevel.of_fst ‹_›
  rename_i e2
  have h2 := h1.walkLevel.of_fst e2
  split
  · exact (h2.walkLevel.of_fst ‹_›).cachePte.cachePte.cachePte
  · exact h2.walkLevel.of_fst ‹_›
  exact h2.walkLevel.of_fst ‹_›

theorem State.Inv.xlate (h : s.Inv) {core c va : Nat} {k : AccK} {o : XOpt} : (s.xlate core c va k o).1.Inv := by
  unfold State.xlate
  split
  rename_i e1
  have h1 := h.walk.of_fst e1
  extract_lets w0
  split
  rename_i e2
  have h2 := State.Inv.of_fst (by split; exacts [.ite_fst h1 h1.choose, h1]) e2
  split
  · split
    · exact h2
    split <;> exact h2
  · exact h2
  · exact h2
  split
  · exact h2
  exact .ite h2 h2.modCore

theorem State.Inv.wake (h : s.Inv) {a n : Nat} : (s.wake a n).Inv := h.of_mem rfl

theorem State.Inv.markAD (h : s.Inv) {ea : Option Nat} {wr : Bool} : (s.markAD ea wr).Inv := by
  unfold State.markAD
  split
  · exact h
  dsimp only
  exact .ite h h.of_write.wake

theorem State.Inv.xlateRun (h : s.Inv) {core c : Nat} {k : AccK} {o : XOpt} {va n : Nat} :
    (s.xlateRun core c k o va n).1.Inv := by
  induction n generalizing s va with
  | zero => exact h
  | succ n ih =>
    unfold State.xlateRun
    split
    · exact h
    split
    · exact h.xlate.of_fst ‹_›
    rename_i e1
    have h1 := h.xlate.of_fst e1
    split <;> exact (ih h1).of_fst ‹_›

theorem State.Inv.readRun (h : s.Inv) {ps : List Page} {va n : Nat} : (s.readRun ps va n).1.Inv := by
  unfold State.readRun
  dsimp only
  exact .of_mem (.foldl (fun _ _ h => h.markAD) h)

theorem State.Inv.vaRead (h : s.Inv) {core c va n : Nat} : (s.vaRead core c va n).1.Inv := by
  unfold State.vaRead
  split
  · exact h.xlateRun.of_fst ‹_›
  rename_i e1
  have h1 := h.xlateRun.of_fst e1
  split
  exact h1.readRun.of_fst ‹_›

theorem State.Inv.perform (h : s.Inv) {a : Nat} {bs : List Byte} : (s.perform a bs).Inv := by
  unfold State.perform
  dsimp only
  exact h.of_writeN.wake

theorem State.Inv.writeRun (h : s.Inv) {ctx : Nat} {ps : List Page} {va : Nat} {bs : List Byte} :
    (s.writeRun ctx ps va bs).Inv := by
  unfold State.writeRun
  refine .foldl (fun s a h => ?_) h
  dsimp only
  split
  · exact h.markAD.perform
  · exact h.markAD.sendPkts
  exact h.markAD.of_mem

theorem State.Inv.vaWrite (h : s.Inv) {core c va : Nat} {bs : List Byte} : (s.vaWrite core c va bs).1.Inv := by
  unfold State.vaWrite
  split
  · exact h.xlateRun.of_fst ‹_›
  exact (h.xlateRun.of_fst ‹_›).writeRun

theorem State.Inv.putRec (h : s.Inv) {r : Rec} : (s.putRec r).Inv := h.of_mem rfl

theorem State.Inv.askReset (h : s.Inv) {c : Nat} : (s.askReset c).Inv := h.of_mem rfl

theorem State.Inv.yieldCur (h : s.Inv) {k : Nat} : (s.yieldCur k).Inv := by
  unfold State.yieldCur
  exact .ite h.of_mem h

theorem State.Inv.sendLane (h : s.Inv) {ctx dst : Nat} {rid : Wd} {m : LaneMsg} {own : Option Nat} :
    (s.sendLane ctx dst rid m own).Inv := by
  unfold State.sendLane
  exact h.sendPkts

theorem State.Inv.unserve (h : s.Inv) {t : Team} : (s.unserve t).Inv := by
  unfold State.unserve
  split
  · exact h
  exact .ite h.sendLane h.of_mem

theorem State.Inv.endTeam (h : s.Inv) {t : Team} {how : EndHow} : (s.endTeam t how).Inv := by
  unfold State.endTeam
  dsimp only
  exact h.unserve.putTeam.modGroup.of_mem.traceBind.yieldCur

theorem State.Inv.killTeam (h : s.Inv) {t : Team} : (s.killTeam t).Inv := by
  unfold State.killTeam
  dsimp only
  exact h.endTeam.voidRun

theorem State.Inv.escalateRec (h : s.Inv) {r : Rec} {was : FaultClass} : (s.escalateRec r was).Inv := by
  unfold State.escalateRec
  split
  · exact .ite h.askReset h.of_mem
  exact h.askReset

theorem State.Inv.escalateServed (h : s.Inv) {ctx : Nat} {x : Dw} {unserv : Bool} :
    (s.escalateServed ctx x unserv).Inv := by
  unfold State.escalateServed
  split
  · exact h.sendLane
  split
  · exact h
  exact h.escalateRec

theorem State.Inv.escalate (h : s.Inv) {t : Team} : (s.escalate t).Inv := by
  unfold State.escalate
  split
  · exact h.killTeam
  exact h.killTeam.escalateServed

theorem State.Inv.placeRec (h : s.Inv) {r : Rec} {die idx : Nat} : (s.placeRec r die idx).1.Inv := h.of_mem rfl

theorem State.Inv.report (h : s.Inv) {r : Rec} {die : Nat} : (s.report r die).Inv := by
  unfold State.report
  dsimp only
  split
  · exact h.placeRec
  split
  · exact h.escalateServed
  split
  · exact h.placeRec
  exact h.askReset

theorem State.Inv.loseTeam (h : s.Inv) {t : Team} {d : Detail} : (s.loseTeam t d).Inv := by
  unfold State.loseTeam
  dsimp only
  exact .ite h.escalate h.endTeam.voidRun.report

theorem State.Inv.killLane (h : s.Inv) {t : Team} {l : Nat} : (s.killLane t l).1.Inv := by
  unfold State.killLane
  dsimp only
  exact h.relRecord.voidRun

theorem State.Inv.killLanes (h : s.Inv) {t : Team} {ls : List Nat} : (s.killLanes t ls).1.Inv := by
  induction ls generalizing s t with
  | nil => exact h
  | cons l r ih => exact ih (.ite_fst h h.killLane)

theorem State.Inv.saveImage (h : s.Inv) {die : Nat} {t : Team} {f : FaultInfo} : (s.saveImage die t f).1.Inv := by
  unfold State.saveImage
  extract_lets g img save
  clear_value save
  split
  · exact h
  split
  rename_i e1
  have h1 := State.Inv.of_fst (by split; exacts [h, by split <;> exact h.vaWrite.of_fst ‹_›]) e1
  split
  · exact h1
  extract_lets
  split
  · exact h1
  exact h1.of_writeN

theorem State.Inv.formRec (h : s.Inv) {t : Team} {f : FaultInfo} : (s.formRec t f).Inv := by
  unfold State.formRec
  dsimp only
  split
  · exact h.escalate
  split
  · split
    · exact h.escalate
    split
    · exact h.killTeam.placeRec
    exact h.killTeam.askReset
  split
  · exact (h.saveImage.of_fst ‹_›).killTeam.askReset
  rename_i e1
  have h1 := h.saveImage.of_fst e1
  exact .yieldCur (.ite h1.placeRec.unserve.putTeam.traceBind h1.placeRec.unserve.putTeam.traceBind.traceTeam)

theorem State.Inv.park (h : s.Inv) {t : Team} {f : FaultInfo} : (s.park t f).Inv := by
  unfold State.park
  exact .ite h.putTeam.yieldCur h.formRec

theorem State.Inv.endClause (h : s.Inv) {t : Team} {c : Clause} {pc : Dw} {src : Option (Dw × Nat)} :
    (s.endClause t c pc src).Inv := by
  unfold State.endClause
  dsimp only
  exact h.putTeam.modPart.yieldCur

theorem State.Inv.retire (h : s.Inv) {t : Team} : (s.retire t).Inv := by
  unfold State.retire
  split
  · exact h.putTeam
  exact .ite h.putTeam h.endClause

theorem State.Inv.jump (h : s.Inv) {t : Team} {target : Dw} : (s.jump t target).Inv := by
  unfold State.jump
  split
  · exact h.putTeam
  exact h.tracePc.endClause

theorem State.Inv.deschedule (h : s.Inv) {t : Team} {w : Wait} : (s.deschedule t w).Inv := by
  unfold State.deschedule
  exact h.putTeam.yieldCur

theorem State.Inv.retireWait (h : s.Inv) {t : Team} {w : Wait} : (s.retireWait t w).Inv := by
  unfold State.retireWait
  exact h.retire.modTeam.yieldCur

theorem State.Inv.cleared (h : s.Inv) {i : Info} {t : Team} : (s.cleared i t).Inv := h.of_mem rfl

theorem State.Inv.issueTeam (h : s.Inv) {i : Info} {t : Team} {k : Team → State → State}
    (hk : ∀ t s, s.Inv → (k t s).Inv) : (s.issueTeam i t k).Inv := by
  unfold State.issueTeam
  split
  · exact h.park
  split
  · exact h.park
  extract_lets b n s1
  have h1 : s1.Inv := .ite h h.addPips
  split
  · exact h.deschedule
  split
  · exact hk _ _ h
  split
  · exact h1.loseTeam
  split
  rename_i e2
  have h2 := h1.killLanes.of_fst e2
  exact .ite h2.loseTeam (hk _ _ h2.putTeam).cleared

theorem State.Inv.shadowMet (h : s.Inv) {t : Team} {xs : List FLane} : (s.shadowMet t xs).Inv := h.of_mem rfl

theorem State.Inv.shadowPark (h : s.Inv) {t : Team} {x : FLane} {sh : FpSum} : (s.shadowPark t x sh).Inv := by
  unfold State.shadowPark
  dsimp only
  exact h.choose.relRecord.addPips.park

theorem State.Inv.fpDone (h : s.Inv) {t : Team} {xs : List FLane} {write : Team → Team} :
    (s.fpDone t xs write).Inv := by
  unfold State.fpDone
  split
  · exact h.shadowMet.shadowPark
  dsimp only
  split
  · exact h.shadowMet.park
  exact h.shadowMet.retire

theorem State.Inv.fetchPa (h : s.Inv) {core c va pa : Nat} : (s.fetchPa core c va pa).1.Inv := by
  unfold State.fetchPa
  dsimp only
  split
  · exact .ite_fst h (.ite_fst h.choose h.choose.modCore)
  exact h.modCore

theorem State.Inv.fetchWord (h : s.Inv) {core c va : Nat} {pg : Option (Nat × Page)} :
    (s.fetchWord core c va pg).1.Inv := by
  unfold State.fetchWord
  dsimp only
  split
  · exact h
  split
  · exact h.fetchPa
  split
  · exact h.xlate.of_fst ‹_›
  exact (h.xlate.of_fst ‹_›).markAD.fetchPa

theorem State.Inv.fetchBody (h : s.Inv) {core c k va n : Nat} {pg : Option (Nat × Page)} :
    (s.fetchBody core c k va pg n).1.Inv := by
  induction k generalizing s va pg n with
  | zero => exact h
  | succ k ih =>
    cases n with
    | zero => exact h
    | succ n =>
      unfold State.fetchBody
      split
      · exact h.fetchWord.of_fst ‹_›
      rename_i e1
      have h1 := h.fetchWord.of_fst e1
      split <;> exact (ih h1).of_fst ‹_›

theorem State.Inv.swapOut (h : s.Inv) {t : Team} {need : Nat} : (s.swapOut t need).Inv := by
  unfold State.swapOut
  dsimp only
  split
  · exact h.deschedule
  split
  · exact h.park
  split
  · exact (h.vaWrite.of_fst ‹_›).park
  exact (h.vaWrite.of_fst ‹_›).putTeam.traceBind.yieldCur

theorem State.Inv.readImage (h : s.Inv) {t : Team} : (s.readImage t).1.Inv := by
  unfold State.readImage
  extract_lets
  split
  · exact h
  split
  · exact h.xlateRun.of_fst ‹_›
  rename_i e1
  have h1 := h.xlateRun.of_fst e1
  dsimp only
  exact h1.readRun

theorem State.Inv.invL1 (h : s.Inv) {core : Nat} : (s.invL1 core).Inv := h.of_mem rfl

theorem State.Inv.settleOwed (h : s.Inv) {t : Team} : (s.settleOwed t).Inv := by
  unfold State.settleOwed
  dsimp only
  exact .ite h (.ite h.killLanes.putTeam.loseTeam h.killLanes.putTeam)

theorem State.Inv.swapBack (h : s.Inv) {t : Team} : (s.swapBack t).Inv := by
  unfold State.swapBack
  dsimp only
  split
  · exact (h.readImage.of_fst ‹_›).formRec
  rename_i e1
  have h1 := h.readImage.of_fst e1
  split
  · exact h1.loseTeam
  split
  · exact h1.loseTeam
  exact .ite h1.putTeam h1.putTeam.invL1.traceBind.settleOwed

theorem State.Inv.pdEnd (h : s.Inv) {t : Team} : (s.pdEnd t).Inv := h.of_mem rfl

theorem State.Inv.runOut (h : s.Inv) {g : Group} : (s.runOut g).Inv := by
  unfold State.runOut
  dsimp only
  exact .ite h.fresh.modGroup.of_mem h

theorem State.Inv.expireBudgets (h : s.Inv) {t : Team} : (s.expireBudgets t).1.Inv := by
  unfold State.expireBudgets
  dsimp only
  exact .ite_fst h (.runOut (.ite h.pdEnd h))

theorem State.Inv.traceClause (h : s.Inv) {t : Team} {pc : Nat} : (s.traceClause t pc).Inv := by
  unfold State.traceClause
  dsimp only
  exact .ite h.modCore.tracePc h.modCore

theorem State.Inv.openClause (h : s.Inv) {t : Team} : (s.openClause t).Inv := by
  unfold State.openClause
  split
  rename_i e1
  have h1 := State.Inv.of_fst (.ite_fst h.expireBudgets h) e1
  dsimp only
  split
  · exact h1.park
  split
  -- at the head of a clause, and in the middle of one
  all_goals
    split
    · exact h1.park
    split
    · exact (h1.fetchWord.of_fst ‹_›).park
    rename_i e2
    have h2 := h1.fetchWord.of_fst e2
    split
    · exact h2.park
    split
    · exact (h2.fetchBody.of_fst ‹_›).park
    rename_i e3
    have h3 := h2.fetchBody.of_fst e3
    split
    · exact h3.park
    exact .ite h3.park (.ite h3.deschedule (.ite h3.swapOut (.of_mem (.putTeam (h3.modCore.ite_step (·.traceClause))))))

theorem State.Inv.fetchNext (h : s.Inv) {t : Team} : (s.fetchNext t).1.Inv := by
  unfold State.fetchNext
  split
  · exact h
  split
  · exact h.putTeam
  · exact h.park.tick
  exact h.park.tick

end Sys2Proof.Machine
end

section
/-! Accesses, atomics and control flow keep memory canonical (O7). -/

set_option Elab.async false

namespace Sys2Proof.Machine

variable {s s' : State}

theorem State.Inv.xlateAcc (h : s.Inv) {t : Team} {o : AccOpt} {window : Bool} {va : Nat} :
    (s.xlateAcc t o window va).1.Inv := by
  unfold State.xlateAcc
  extract_lets g x
  split
  · exact h
  split
  rename_i e1
  have h1 := h.xlate.of_fst e1
  split
  rename_i e2
  have h2 := State.Inv.of_fst (by split; exacts [h1, h1.xlate]) e2
  split <;> exact h2

theorem State.Inv.resolve (h : s.Inv) {t : Team} {sp : Space} {base : SReg} {o : AccOpt} {l : Nat} {va : Dw} :
    (s.resolve t sp base o l va).1.Inv := by
  unfold State.resolve
  dsimp only
  split
  · exact h
  split
  · exact .ite_fst h (.ite_fst h.xlateAcc (.ite_fst h h))
  · exact .ite_fst h h
  · exact .ite_fst h h
  · exact .ite_fst h h
  exact h.xlateAcc

theorem State.Inv.setScope (h : s.Inv) {line : Nat} {p : Party} {sc : Nat} : (s.setScope line p sc).Inv := h.of_mem rfl

theorem State.Inv.recordScopes (h : s.Inv) {t : Team} {sp : Space} {sc : BitVec 3} {ps : List Piece} :
    (s.recordScopes t sp sc ps).Inv := by
  unfold State.recordScopes
  exact .ite h (.foldl (fun _ _ h => h.setScope) h)

theorem State.Inv.resolveAll (h : s.Inv) {t : Team} {sp : Space} {base : SReg} {o : AccOpt} {us : List (Nat × Dw)} :
    (s.resolveAll t sp base o us).1.Inv := by
  induction us generalizing s with
  | nil => exact h
  | cons u r ih =>
    unfold State.resolveAll
    split
    · exact h.resolve.of_fst ‹_›
    rename_i e1
    have h1 := h.resolve.of_fst e1
    split
    · exact h1
    split <;> exact (ih h1).of_fst ‹_›

theorem State.Inv.markAll (h : s.Inv) {us : List Unit1} {wr : Bool} : (s.markAll us wr).Inv := by
  unfold State.markAll
  exact .foldl (fun _ _ h => .foldl (fun _ _ h => h.markAD) h) h

theorem State.Inv.effect (h : s.Inv) {t : Team} : (s.effect t).Inv := h.of_mem rfl

theorem State.Inv.grantSlots (h : s.Inv) {core : Nat} : (s.grantSlots core).Inv := by
  unfold State.grantSlots
  dsimp only
  exact .foldl_fst (fun _ _ h => .ite_fst h h.of_mem.modCtx) h

theorem State.Inv.l1Put (h : s.Inv) {core ln : Nat} {d : Line} : (s.l1Put core ln d).Inv := h.of_mem rfl

theorem State.Inv.l1Drop (h : s.Inv) {core : Nat} {hit : Nat → Bool} : (s.l1Drop core hit).Inv := h.of_mem rfl

theorem State.Inv.l1Arrive (h : s.Inv) {core id ln : Nat} {d : Line} : (s.l1Arrive core id ln d).Inv := by
  unfold State.l1Arrive
  exact .ite h.l1Drop h.l1Put

theorem State.Inv.l1Line (h : s.Inv) {core ln lo hi : Nat} : (s.l1Line core ln lo hi).1.Inv := by
  unfold State.l1Line
  dsimp only
  split
  · exact .ite_fst h (.ite_fst h.choose (.ite h.choose.modCore h.choose.l1Put))
  exact .ite h.modCore h.l1Put

theorem State.Inv.l1Bytes (h : s.Inv) {core a n : Nat} : (s.l1Bytes core a n).1.Inv := by
  unfold State.l1Bytes
  dsimp only
  exact .foldl_fst (fun _ _ h => h.l1Line) h

theorem State.Inv.dropL1 (h : s.Inv) {core : Nat} {us : List Unit1} : (s.dropL1 core us).Inv := h.of_mem rfl

theorem State.Inv.usePf (h : s.Inv) {c : Nat} {lines : List Nat} : (s.usePf c lines).Inv := by
  unfold State.usePf
  dsimp only
  exact .ite h (.foldl (fun _ _ h => .ite h h.modCtx) h)

theorem State.Inv.useRun (h : s.Inv) {c : Nat} {ps : List Page} {va n : Nat} : (s.useRun c ps va n).Inv := by
  unfold State.useRun
  exact .ite h h.usePf

theorem State.Inv.sendBatches (h : s.Inv) : s.sendBatches.Inv := by
  unfold State.sendBatches
  dsimp only
  exact .foldl (fun _ _ h => .ite h h.of_mem.sendPkts) h

theorem State.Inv.queuePkts (h : s.Inv) {team : Option Nat} {ps : List Packet} : (s.queuePkts team ps).Inv := by
  unfold State.queuePkts
  dsimp only
  exact .sendBatches (.foldl (fun _ _ h => .foldl (fun _ _ h => h.fresh.of_mem) h) h)

theorem State.Inv.dropFar (h : s.Inv) {op no : Nat} : (s.dropFar op no).Inv := h.of_mem rfl

theorem State.Inv.askFar (h : s.Inv) {ctx op no : Nat} {ls : List (Nat × Nat × Nat × Nat × Bool × Bool)} :
    (s.askFar ctx op no ls).Inv := by
  unfold State.askFar
  dsimp only
  exact .queuePkts (.foldl_fst (fun _ _ h => .ite_fst h h.fresh.of_mem) h)

theorem State.Inv.readFor (h : s.Inv) {op : Nat} {ps : List Page} {va n : Nat} : (s.readFor op ps va n).1.Inv := by
  unfold State.readFor
  split
  rename_i e1
  have h1 := h.readRun.of_fst e1
  exact .ite_fst h1 h1

theorem State.Inv.retireFabric (h : s.Inv) {t : Team} : (s.retireFabric t).Inv := by
  unfold State.retireFabric
  split
  · exact h.traceTeam.retireWait
  exact h.retire

theorem State.Inv.remLines (h : s.Inv) {bs : List RByte} : (s.remLines bs).1.Inv := by
  unfold State.remLines
  refine .foldl_fst (fun p a h => ?_) h
  dsimp only
  split
  · exact h
  exact h.fresh

theorem State.Inv.l1Far (h : s.Inv) {core : Nat} {plain : Bool} {bs : List RByte} : (s.l1Far core plain bs).1.Inv := by
  unfold State.l1Far
  split
  · exact h
  refine .foldl_fst (fun p a h => ?_) h
  dsimp only
  split
  · exact h
  split
  · exact h
  exact .ite_fst h.choose h.choose

theorem State.Inv.forget (h : s.Inv) {id : Nat} : (s.forget id).Inv := h.of_mem rfl

theorem State.Inv.parkIfDone (h : s.Inv) {k : Nat} : (s.parkIfDone k).Inv := by
  unfold State.parkIfDone
  split
  · split
    · exact .ite h h.formRec
    exact h
  exact h

theorem State.Inv.complete (h : s.Inv) {a : Access} : (s.complete a).Inv := by
  unfold State.complete
  dsimp only
  split
  · exact h.forget
  split
  · exact h.forget.putTeam.ite_keep (·.putTeam)
  split
  · exact h.forget.putTeam.loseTeam
  exact .ite (.loseTeam (.ite_step h.forget.putTeam.killLanes.putTeam (·.invL1)))
    (.parkIfDone (.ite_step h.forget.putTeam.killLanes.putTeam (·.invL1)))

theorem State.Inv.l1Come (h : s.Inv) {a : Access} {r : RemLine} {d : Line} : (s.l1Come a r d).Inv := by
  unfold State.l1Come
  split
  · exact h
  split
  · exact h.l1Arrive
  exact h

theorem State.Inv.retireAcc (h : s.Inv) {t : Team} {a : Access} : (s.retireAcc t a).Inv := by
  unfold State.retireAcc
  exact .ite h.retireFabric (.ite h.retireWait h.retire)

theorem State.Inv.settle (h : s.Inv) {a : Access} : (s.settle a).Inv := by
  unfold State.settle
  exact .ite h.of_mem h.complete

theorem State.Inv.localBytes (h : s.Inv) {core : Nat} {plain : Bool} {us : List Unit1} :
    (s.localBytes core plain us).1.Inv := by
  unfold State.localBytes
  dsimp only
  exact .foldl_fst (fun _ _ h => .foldl_fst (fun _ _ h => .ite_fst h (.ite_fst h.l1Bytes h)) h) h

theorem State.Inv.startLoad (h : s.Inv) {t : Team} {sp : Space} {us : List Unit1} {pl : LoadPlan} :
    (s.startLoad t sp us pl).Inv := by
  unfold State.startLoad
  dsimp only
  split
  · exact h.deschedule
  split
  · exact h.deschedule
  split
  · exact h.deschedule
  refine .retireAcc (.queuePkts (.putTeam (.ite_step ?_ (·.invL1))))
  split
  · exact .foldl (fun _ _ h => h.recordScopes) h.l1Far.markAll.usePf.modCtx.localBytes.remLines.fresh.of_mem
  exact h.l1Far.markAll.usePf.modCtx.localBytes.remLines.fresh.of_mem

theorem State.Inv.loadVec (h : s.Inv) {t : Team} {by_ : Bool} {sc : Option (BitVec 3)} {z : BitVec 3} {d : VReg}
    {a : VAddr} {m : Option Msk} :
    (s.loadVec t by_ sc z d a m).Inv := by
  unfold State.loadVec
  dsimp only
  split
  · exact h.retire
  split
  · exact (h.resolveAll.of_fst ‹_›).park
  exact (h.resolveAll.of_fst ‹_›).startLoad

theorem State.Inv.loadSca (h : s.Inv) {t : Team} {sc : Option (BitVec 3)} {z : BitVec 3} {d : SReg} {a : SAddr} :
    (s.loadSca t sc z d a).Inv := by
  unfold State.loadSca
  split
  · exact (h.resolveAll.of_fst ‹_›).park
  exact (h.resolveAll.of_fst ‹_›).startLoad

theorem State.Inv.wholeWords (h : s.Inv) {at_ : List Nat} : (s.wholeWords at_).Inv := by
  unfold State.wholeWords
  exact .ite h h.of_mem

theorem State.Inv.storeUnit (h : s.Inv) {u : Unit1} {bs : List (Nat × Byte)} : (s.storeUnit u bs).Inv := by
  unfold State.storeUnit
  dsimp only
  exact .foldl_fst (fun _ _ h => .foldl (fun _ _ h => h.perform) h) h

theorem State.Inv.hostStores (h : s.Inv) {ls : List (RemLine × List RByte)} : (s.hostStores ls).Inv := h.of_mem rfl

theorem State.Inv.storeEffect (h : s.Inv) {t : Team} {sp : Space} : (s.storeEffect t sp).Inv := by
  unfold State.storeEffect
  exact .ite h h.effect

theorem State.Inv.startStore (h : s.Inv) {t : Team} {sp : Space} {sync : Option (BitVec 3)} {us : List Unit1}
    {data : Unit1 → List (Nat × Byte)} : (s.startStore t sp sync us data).Inv := by
  unfold State.startStore
  dsimp only
  split
  · exact h.deschedule
  split
  · exact h.deschedule
  split
  · exact h.deschedule
  split
  · exact h.deschedule
  refine .retireAcc (.queuePkts (.putTeam ?_))
  split
  · refine .foldl (fun _ _ h => h.recordScopes) (.of_mem (.fresh (.hostStores (.remLines (.wholeWords ?_)))))
    exact .foldl (fun _ _ h => h.storeUnit) h.storeEffect.markAll.usePf.modCtx.dropL1
  refine .of_mem (.fresh (.hostStores (.remLines (.wholeWords ?_))))
  exact .foldl (fun _ _ h => h.storeUnit) h.storeEffect.markAll.usePf.modCtx.dropL1

theorem State.Inv.storeVec (h : s.Inv) {t : Team} {sc : Option (BitVec 3)} {z : BitVec 3} {a : VAddr} {d : VReg}
    {m : Option Msk} :
    (s.storeVec t sc z a d m).Inv := by
  unfold State.storeVec
  dsimp only
  split
  · exact h.storeEffect.retire
  split
  · exact (h.resolveAll.of_fst ‹_›).park
  exact (h.resolveAll.of_fst ‹_›).startStore

theorem State.Inv.storeSca (h : s.Inv) {t : Team} {sc : Option (BitVec 3)} {z : BitVec 3} {a : SAddr} {d : SReg} :
    (s.storeSca t sc z a d).Inv := by
  unfold State.storeSca
  dsimp only
  split
  · exact (h.resolveAll.of_fst ‹_›).park
  exact (h.resolveAll.of_fst ‹_›).startStore

theorem State.Inv.specRead (h : s.Inv) {core c va n : Nat} : (s.specRead core c va n).1.Inv := by
  unfold State.specRead
  split
  · exact h
  refine .foldl_fst (fun p a h => ?_) h
  split
  · exact h
  dsimp only
  split
  · rename_i e1
    have h1 := h.walk.of_fst e1
    split
    · exact h1
    exact .ite_fst h1 (.ite_fst h1 (.ite_fst h1 h1))
  · exact h.walk.of_fst ‹_›
  exact h.walk.of_fst ‹_›

theorem State.Inv.askPf (h : s.Inv) {core c line : Nat} {slot : Option Nat} {intoL1 : Bool} :
    (s.askPf core c line slot intoL1).1.Inv := h.of_mem rfl

theorem State.Inv.pfTarget (h : s.Inv) {core c va : Nat} : (s.pfTarget core c va).1.Inv := by
  unfold State.pfTarget
  split
  · exact (h.specRead.of_fst ‹_›).modCtx
  exact h.specRead.of_fst ‹_›

theorem State.Inv.pfAsk (h : s.Inv) {core c : Nat} {intoL1 : Bool} {sent : List Packet} {p : Piece} :
    (s.pfAsk core c intoL1 sent p).1.Inv := by
  unfold State.pfAsk
  dsimp only
  exact .ite_fst (.ite_fst h.modCtx h.askPf) (.ite_fst h.modCtx (.ite_fst h h.askPf))

theorem State.Inv.pfCame (h : s.Inv) {p : PfReq} {d : Line} {bad : Bool} : (s.pfCame p d bad).Inv := by
  unfold State.pfCame
  dsimp only
  exact .grantSlots (.ite h.of_mem.modCtx (.ite (.ite h.of_mem.l1Put h.of_mem.l1Arrive) h.of_mem))

theorem State.Inv.pfVec (h : s.Inv) {t : Team} {a : VAddr} {m : Option Msk} {spec : Bool} :
    (s.pfVec t a m spec).Inv := by
  unfold State.pfVec
  extract_lets g
  split
  · exact h.retire
  split
  rename_i e1
  have h1 := State.Inv.of_fst (by exact .foldl_fst (fun _ _ h => h.pfTarget) h) e1
  split
  rename_i e2
  have h2 := State.Inv.of_fst (by exact .foldl_fst (fun _ _ h => h.pfAsk) h1) e2
  exact h2.queuePkts.retireFabric

theorem State.Inv.wakeWait (h : s.Inv) {a n : Nat} : (s.wakeWait a n).Inv := h.of_mem rfl

theorem State.Inv.atomAt (h : s.Inv) {a op : Nat} {ty : BitVec 3} {e c : Nat} : (s.atomAt a op ty e c).1.Inv := by
  unfold State.atomAt
  dsimp only
  split
  · exact h.wakeWait
  exact .ite_fst h.of_writeN h.perform

theorem State.Inv.detPush (h : s.Inv) {t : Team} {p : AtomPlan} {ls : List AtomLane} :
    (s.detPush t p ls).Inv := h.of_mem rfl

theorem State.Inv.atomLane (h : s.Inv) {t : Team} {p : AtomPlan} {id : Nat} {q : AtomLane} {a : Access} :
    (s.atomLane t p id q a).1.Inv := by
  unfold State.atomLane
  split
  · exact h
  dsimp only
  exact .ite_fst h.fresh (.ite_fst h.fresh.of_mem (.ite_fst h h.atomAt))

theorem State.Inv.startAtomic (h : s.Inv) {t : Team} {p : AtomPlan} {ls : List AtomLane} :
    (s.startAtomic t p ls).Inv := by
  unfold State.startAtomic
  dsimp only
  split
  · exact h.deschedule
  split
  · exact h.deschedule
  split
  · exact h.deschedule
  split
  · exact .ite h.park (.retire (.of_mem (.fresh (.ite_step
      (.foldl (fun _ _ h => h.recordScopes) h.effect.markAll.usePf.dropL1.detPush) (·.invL1)))))
  split
  · exact h.deschedule
  refine .retireAcc (.queuePkts (.putTeam (.ite_step (.foldl (fun _ _ h => h.recordScopes) (.of_mem ?_)) (·.invL1))))
  exact .foldl_fst (fun _ _ h => h.atomLane) h.effect.markAll.usePf.modCtx.dropL1.fresh

theorem State.Inv.atomic (h : s.Inv) {t : Team} {op : Nat} {x : Atom} : (s.atomic t op x).Inv := by
  unfold State.atomic
  split
  · dsimp only
    split
    · exact h.effect.retire
    split
    · exact h.park
    split
    · exact (h.resolveAll.of_fst ‹_›).park
    exact (h.resolveAll.of_fst ‹_›).startAtomic
  split
  · exact h.park
  split
  · exact (h.resolveAll.of_fst ‹_›).park
  exact (h.resolveAll.of_fst ‹_›).startAtomic

theorem State.Inv.received (h : s.Inv) {q : Packet} : (s.received q).Inv := h.of_mem rfl

theorem State.Inv.inWrite (h : s.Inv) {q : Packet} : (s.inWrite q).Inv := by
  unfold State.inWrite
  exact .ite (.foldl (fun _ _ h => h.perform) h) h

theorem State.Inv.sendReply (h : s.Inv) {q p : Packet} : (s.sendReply q p).Inv := by
  unfold State.sendReply
  exact .ite h.sendPkts h.modPeer.sendPkts

theorem State.Inv.inRead (h : s.Inv) {q : Packet} : (s.inRead q).Inv := by
  unfold State.inRead
  dsimp only
  exact h.of_mem.sendReply

theorem State.Inv.inAtomic (h : s.Inv) {q : Packet} : (s.inAtomic q).Inv := h.of_mem rfl

theorem State.Inv.inPkt (h : s.Inv) {q : Packet} : (s.inPkt q).Inv := by
  unfold State.inPkt
  split
  · exact h.inRead.received
  · exact .ite h.received h.inWrite.received
  · exact .ite h.inAtomic h.received
  exact h.received

theorem State.Inv.unhold (h : s.Inv) {m : Nat} {lane : Bool} {n : Nat} : (s.unhold m lane n).Inv := by
  induction n generalizing s with
  | zero => exact h
  | succ n ih =>
    unfold State.unhold
    split
    · exact h
    exact ih h.modPeer.inPkt

theorem State.Inv.gotPkt (h : s.Inv) {q : Packet} : (s.gotPkt q).Inv := by
  unfold State.gotPkt
  dsimp only
  exact h.received.unhold

theorem State.Inv.lostReport (h : s.Inv) {origin : Nat} {f : FaultInfo} {ctx : Nat} {w : Issuer} :
    (s.lostReport origin f ctx w).Inv := by
  unfold State.lostReport
  exact .ite h h.report

theorem State.Inv.loseRegs (h : s.Inv) {a : Access} {f : FaultInfo} : (s.loseRegs a f).Inv := by
  unfold State.loseRegs
  split
  · exact .ite h.lostReport h.putTeam
  split
  · exact h.lostReport
  exact h

theorem State.Inv.loseLane (h : s.Inv) {a : Access} {lane : Nat} {f : FaultInfo} : (s.loseLane a lane f).Inv := by
  unfold State.loseLane
  dsimp only
  exact h.loseRegs.of_mem

theorem State.Inv.svcDone (h : s.Inv) {r : SvcReq} {old : Option Nat} {q' : Packet → Packet} :
    (s.svcDone r old q').Inv := by
  unfold State.svcDone
  dsimp only
  split
  · exact .gotPkt (.ite h.sendPkts h)
  exact h.of_mem

theorem State.Inv.svcSettle (h : s.Inv) {r : SvcReq} : (s.svcSettle r).Inv := by
  unfold State.svcSettle
  split
  · exact .ite h.settle h
  exact h

theorem State.Inv.rearm (h : s.Inv) {r : SvcReq} : (s.rearm r).Inv := by
  unfold State.rearm
  exact .ite h h.modTeam

theorem State.Inv.svcOne (h : s.Inv) {r : SvcReq} : (s.svcOne r).Inv := by
  unfold State.svcOne
  dsimp only
  exact .ite h.of_mem.svcDone.svcSettle h.atomAt.rearm.svcDone.svcSettle

theorem State.Inv.svcMismatch (h : s.Inv) {cluster : Nat} {r : SvcReq} {det : Nat} :
    (s.svcMismatch cluster r det).Inv := by
  unfold State.svcMismatch
  dsimp only
  exact h.relRecord.addPips

theorem State.Inv.svcLost (h : s.Inv) {cluster : Nat} {r : SvcReq} {det : Nat} : (s.svcLost cluster r det).Inv := by
  unfold State.svcLost
  dsimp only
  split
  · exact h.svcDone
  exact h.loseLane.svcDone.svcSettle

theorem State.Inv.svcTry (h : s.Inv) {cluster : Nat} {r : SvcReq} {a : Shadow} : (s.svcTry cluster r a).Inv := by
  unfold State.svcTry
  split
  · exact h.svcOne
  · split
    · exact h.svcOne
    exact h.svcMismatch.svcOne
  split
  · exact h.svcOne
  dsimp only
  split
  · exact h.svcMismatch.svcOne
  exact h.svcMismatch.svcMismatch.svcLost

theorem State.Inv.parkOp (h : s.Inv) {kind : RecKind} {team gslot : Nat} {f : FaultInfo} :
    (s.parkOp kind team gslot f).1.Inv := by
  unfold State.parkOp
  dsimp only
  split
  · split
    · exact h.escalate
    exact h
  split
  · exact h.placeRec
  split
  · split
    · exact h.escalate
    exact h
  split
  · exact h.placeRec
  exact h.askReset

theorem State.Inv.voidOp (h : s.Inv) {team gslot : Nat} : (s.voidOp team gslot).Inv := by
  unfold State.voidOp
  dsimp only
  exact h.voidRun

theorem State.Inv.retireOp (h : s.Inv) {team cls num : Nat} : (s.retireOp team cls num).Inv := by
  unfold State.retireOp
  dsimp only
  split
  · exact h.modTeam.traceTl
  exact h.modTeam

theorem State.Inv.uncorrectable (h : s.Inv) {a ctx : Nat} : (s.uncorrectable a ctx).Inv := by
  unfold State.uncorrectable
  dsimp only
  exact .ite h.choose.relRecord h.choose.relRecord.addPips

theorem State.Inv.branchTo (h : s.Inv) {t : Team} {o : Dw} : (s.branchTo t o).Inv := by
  unfold State.branchTo
  exact .ite h.jump h.park

theorem State.Inv.jumpReg (h : s.Inv) {t : Team} {x : Dw} {link : Bool} : (s.jumpReg t x link).Inv := by
  unfold State.jumpReg
  exact .ite h.park (.ite h.park h.jump)

theorem State.Inv.dropCode (h : s.Inv) {cores : List Nat} {lo n : Nat} : (s.dropCode cores lo n).Inv := h.of_mem rfl

end Sys2Proof.Machine
end

section
/-! Synchronisation, the engines and the vector unit keep memory canonical (O7). -/

set_option Elab.async false

namespace Sys2Proof.Machine

variable {s s' : State}

theorem State.Inv.putBarrier (h : s.Inv) {b : Barrier} : (s.putBarrier b).Inv := h.of_mem rfl

theorem State.Inv.arrive (h : s.Inv) {t : Team} {key : BarrierKey} : (s.arrive t key).Inv := by
  unfold State.arrive
  dsimp only
  exact h.putBarrier.retireWait

theorem State.Inv.endWaita (h : s.Inv) {t : Team} : (s.endWaita t).Inv := by
  unfold State.endWaita
  exact h.retire

theorem State.Inv.beginRound (h : s.Inv) {c : Nat} {team : Option Nat} {scope : Nat} :
    (s.beginRound c team scope).1.Inv := h.of_mem rfl

theorem State.Inv.putAsy (h : s.Inv) {o : AsyncOp} : (s.putAsy o).Inv := h.of_mem rfl

theorem State.Inv.asySettle (h : s.Inv) {id : Nat} : (s.asySettle id).Inv := by
  unfold State.asySettle
  split
  · exact .ite h.of_mem.retireOp h
  exact h

theorem State.Inv.startAsync (h : s.Inv) {t : Team} {p : AsyncPlan} {k : State → Nat → State}
    (hk : ∀ s n, s.Inv → (k s n).Inv) : (s.startAsync t p k).Inv := by
  unfold State.startAsync
  dsimp only
  exact .retire (.ite (.retireOp (hk _ _ h.putTeam.fresh)) (.of_mem (hk _ _ h.putTeam.fresh)))

theorem State.Inv.async (h : s.Inv) {t : Team} {k : State → State} (hk : ∀ s, s.Inv → (k s).Inv) :
    (s.async t k).Inv := by
  unfold State.async
  exact .ite h.deschedule (hk _ h.effect)

theorem State.Inv.copy (h : s.Inv) {t : Team} {minor : Nat} {dsp ssp : BitVec 3} {total : Nat}
    {rows : List (Nat × Nat × Nat)} :
    (s.copy t minor dsp ssp total rows).Inv := by
  unfold State.copy
  dsimp only
  split
  · exact h.park
  split
  · exact h.park
  exact .async h (fun _ h => .startAsync h (fun _ _ h => h))

theorem State.Inv.putQueue (h : s.Inv) {gslot q : Nat} {x : Queue} : (s.putQueue gslot q x).Inv := h.of_mem rfl

theorem State.Inv.fill (h : s.Inv) {t : Team} {minor q : Nat} {spec : Bool} {srcs : List (BitVec 3 × Nat × Nat)} :
    (s.fill t minor q spec srcs).Inv := by
  unfold State.fill
  dsimp only
  exact .ite h.deschedule (.async h (fun _ h => .startAsync h (fun _ _ h => h.putQueue)))

theorem State.Inv.fillBytes (h : s.Inv) {ps : List Page} {f : Fill} {data : Option Line} :
    (s.fillBytes ps f data).1.Inv := by
  unfold State.fillBytes
  split
  · exact .ite_fst h.readRun (.foldl (fun _ _ h => h.markAD) h)
  exact h.readRun

theorem State.Inv.fillData (h : s.Inv) {g : Group} {team : Nat} {f : Fill} {data : Option Line} :
    (s.fillData g team f data).1.Inv := by
  unfold State.fillData
  extract_lets n home
  split
  · exact h
  split
  · exact .ite_fst h (.ite_fst h h)
  split
  rename_i e1
  have h1 := State.Inv.of_fst (by
    split
    · exact h.specRead
    split <;> exact h.xlateRun.of_fst ‹_›) e1
  split
  · exact h1
  split
  · exact h1
  split
  · exact h1
  extract_lets s2 ps
  have h2 : s2.Inv := h1.ite_keep (·.useRun)
  split
  · exact h2.fillBytes
  exact .askFar (.modCtx (.foldl (fun _ _ h => h.markAD) h2))

theorem State.Inv.fillOut (h : s.Inv) {g : Group} {team : Nat} {f : Fill} {data : Option Line} :
    (s.fillOut g team f data).1.Inv := by
  unfold State.fillOut
  dsimp only
  exact .ite_fst h.fillData (.ite_fst h h.dropFar)

theorem State.Inv.fillSlot (h : s.Inv) {op idx : Nat} {data : Option Line} : (s.fillSlot op idx data).Inv := by
  unfold State.fillSlot
  split
  · exact h
  dsimp only
  split
  · exact h
  split
  · exact h.fillOut.of_fst ‹_›
  exact (h.fillOut.of_fst ‹_›).modCtx.putQueue.putAsy.asySettle

theorem State.Inv.refill (h : s.Inv) {t : Team} {x : QSlot} : (s.refill t x).1.Inv := by
  unfold State.refill
  extract_lets g
  split
  · exact h
  · exact h
  extract_lets
  split
  · exact h
  split
  · exact .ite_fst h h
  split
  · exact h.xlateRun.of_fst ‹_›
  rename_i e1
  have h1 := h.xlateRun.of_fst e1
  split
  · exact h1
  extract_lets s2
  have h2 : s2.Inv := h1.useRun
  clear_value s2
  split
  · split
    exact h2.readRun.of_fst ‹_›
  · exact .askFar (.foldl (fun _ _ h => h.markAD) h2)
  split
  · exact h2
  split <;> exact h2.dropFar

theorem State.Inv.refillAll (h : s.Inv) {t : Team} {q i : Nat} {xs : List QSlot} : (s.refillAll t q i xs).1.Inv := by
  induction xs generalizing s i with
  | nil => exact h
  | cons x r ih =>
    unfold State.refillAll
    split
    · exact ih (h.refill.of_fst ‹_›)
    · exact h.refill.of_fst ‹_›
    exact h.refill.of_fst ‹_›

theorem State.Inv.take (h : s.Inv) {t : Team} {q n : Nat} {k : State → List (Line × List Nat) → State}
    (hk : ∀ s xs, s.Inv → (k s xs).Inv) : (s.take t q n k).Inv := by
  unfold State.take
  extract_lets x hd keep
  have hkeep : ∀ {s ys}, s.Inv → (keep s ys).Inv := fun h => h.putQueue
  split
  · exact h.putQueue.deschedule
  split
  · exact (hkeep (h.refillAll.of_fst ‹_›)).park
  · exact (hkeep (h.refillAll.of_fst ‹_›)).deschedule
  · exact (hkeep (h.refillAll.of_fst ‹_›)).deschedule
  exact hk _ _ (h.refillAll.of_fst ‹_›).effect.modCtx.putQueue

theorem State.Inv.copyLocal (h : s.Inv) {src dst n : Nat} : (s.copyLocal src dst n).Inv := by
  unfold State.copyLocal
  dsimp only
  exact .ite h.perform (.perform (.foldl (fun _ _ h => h.choose.perform) h))

theorem State.Inv.writeAcked (h : s.Inv) {ctx : Nat} {ps : List Page} {va : Nat} {bs : List Byte} :
    (s.writeAcked ctx ps va bs).1.Inv := by
  unfold State.writeAcked
  refine .foldl_fst (fun r q h => ?_) h
  dsimp only
  split
  · exact h.markAD.perform
  · exact h.markAD.of_mem.queuePkts
  exact h.markAD.of_mem

theorem State.Inv.segEnd (h : s.Inv) {g : Group} {sp : BitVec 3} {a : Dw} {n : Nat} {k : AccK} :
    (s.segEnd g sp a n k).1.Inv := by
  unfold State.segEnd
  split
  · exact h
  split <;> exact h.xlateRun.of_fst ‹_›

theorem State.Inv.moveBytes (h : s.Inv) {ctx : Nat} {se de : End1} {src dst : Dw} {n : Nat} :
    (s.moveBytes ctx se de src dst n).1.Inv := by
  unfold State.moveBytes
  extract_lets one s1 s2
  have h1 : s1.Inv := by
    subst s1
    split
    · exact .foldl (fun _ _ h => h.markAD) h
    exact h
  have h2 : s2.Inv := by
    subst s2
    split
    · exact .foldl (fun _ _ h => h.markAD) h1
    exact h1
  split
  · exact h2.copyLocal
  split
  rename_i e1
  have h1 := State.Inv.of_fst (by split; exacts [h, h.readRun, h]) e1
  split
  · exact h1.perform
  · exact h1.writeAcked
  exact h1

theorem State.Inv.killSeg (h : s.Inv) {op no : Nat} : (s.killSeg op no).Inv := by
  unfold State.killSeg
  split
  · exact h
  exact h.voidOp.putAsy.asySettle

theorem State.Inv.parkSeg (h : s.Inv) {op no : Nat} {sg : Seg} {f : FaultInfo} : (s.parkSeg op no sg f).Inv := by
  unfold State.parkSeg
  split
  · exact h
  split
  · exact (h.parkOp.of_fst ‹_›).putAsy
  exact (h.parkOp.of_fst ‹_›).killSeg

theorem State.Inv.crcPips (h : s.Inv) {n : Nat} {se de : End1} {src dst : Dw} : (s.crcPips n se de src dst).Inv := by
  unfold State.crcPips
  dsimp only
  exact .foldl (fun _ _ h => .foldl (fun _ _ h => h.addPips) h) h

theorem State.Inv.segSrc (h : s.Inv) {g : Group} {op : Nat} {sg : Seg} : (s.segSrc g op sg).1.Inv := by
  unfold State.segSrc
  split
  · exact h.segEnd
  exact h

theorem State.Inv.stopSeg (h : s.Inv) {o : AsyncOp} {sg : Seg} {f : FaultInfo} : (s.stopSeg o sg f).Inv := by
  unfold State.stopSeg
  dsimp only
  exact .ite h.dropFar.parkSeg h.dropFar.putAsy

theorem State.Inv.runSeg (h : s.Inv) {o : AsyncOp} {sg : Seg} {err : Option SegError} : (s.runSeg o sg err).Inv := by
  unfold State.runSeg
  extract_lets g lost
  split
  · exact h
  split
  · exact (h.segSrc.of_fst ‹_›).stopSeg
  rename_i e1
  have h1 := h.segSrc.of_fst e1
  extract_lets ls
  split
  · exact h1
  split
  · refine .askFar ?_
    split
    · exact .foldl (fun _ _ h => h.markAD) h1
    exact h1
  split
  · exact (h1.segEnd.of_fst ‹_›).stopSeg
  rename_i e2
  have h2 := h1.segEnd.of_fst e2
  extract_lets bad s3 e stop w n s4
  have h3 : s3.Inv := by
    subst s3
    split
    · exact h2.crcPips
    exact h2
  have h4 : s4.Inv := h3.usePf.usePf
  clear_value s4
  split
  rename_i e5
  have h5 := h4.moveBytes.of_fst e5
  extract_lets rest s6 rest' s7 s8
  have h7 : s7.Inv := .ite h5.crcPips h5
  have h8 : s8.Inv := .ite h7.uncorrectable h7
  split
  · exact .asySettle (.putAsy (.ite h5.dropFar h5))
  clear_value lost e
  split <;> exact h8.stopSeg

theorem State.Inv.collPkts (h : s.Inv) {ctx m : Nat} {bs : List Byte} : (s.collPkts ctx m bs).1.Inv := by
  unfold State.collPkts
  dsimp only
  exact .foldl_fst (fun _ _ h => h.fresh) h

theorem State.Inv.collSend (h : s.Inv) {o : AsyncOp} {sg : Seg} : (s.collSend o sg).1.Inv := by
  unfold State.collSend
  split
  · exact h
  extract_lets g n
  split
  · exact h.xlateRun.of_fst ‹_›
  rename_i e1
  have h1 := h.xlateRun.of_fst e1
  split
  · exact h1
  split
  · exact h1
  split
  rename_i e2
  have h2 := h1.readRun.of_fst e2
  split
  rename_i e3
  have h3 := State.Inv.of_fst (by exact .foldl_fst (fun _ _ h => h.collPkts) h2) e3
  exact h3.putAsy.queuePkts

theorem State.Inv.pcmp (h : s.Inv) {t : Team} {d : PReg} {a : VReg} {b : CmpB} {cc : Cc} {ty : CmpTy} {m : Option Msk} :
    (s.pcmp t d a b cc ty m).Inv := by
  unfold State.pcmp
  dsimp only
  exact h.fpDone

theorem State.Inv.vfloat (h : s.Inv) {t : Team} {chk : Option Fmt} {d : VReg} {m : Option Msk} {w : Nat}
    {op : List Nat → Nat × Nat} {xs : List VVal} :
    (s.vfloat t chk d m w op xs).Inv := by
  unfold State.vfloat
  dsimp only
  exact h.fpDone

theorem State.Inv.vcvt (h : s.Inv) {t : Team} {d a : VReg} {sel : BitVec 4} {src dst : CFmt} {m : Option Msk}
    {md : Nat} :
    (s.vcvt t d a sel src dst m md).Inv := by
  unfold State.vcvt
  dsimp only
  exact h.fpDone

theorem State.Inv.qcvt (h : s.Inv) {t : Team} {d a : VReg} {ctl : Dw} {src dst : Nat} {m : Option Msk} {md : Nat} :
    (s.qcvt t d a ctl src dst m md).Inv := by
  unfold State.qcvt
  dsimp only
  exact h.fpDone

theorem State.Inv.modTile (h : s.Inv) {gslot k : Nat} {f : Tile → Tile} : (s.modTile gslot k f).Inv := h.of_mem rfl

theorem State.Inv.startTile (h : s.Inv) {t : Team} {p : TilePlan} : (s.startTile t p).Inv := by
  unfold State.startTile
  dsimp only
  exact .ite h.deschedule h.fresh.of_mem.retire

theorem State.Inv.mma (h : s.Inv) {t : Team} {minor : Nat} {q : SReg} {tl : TReg} {sat asrc bsrc : Bool} {pos : Nat} :
    (s.mma t minor q tl sat asrc bsrc pos).Inv := by
  unfold State.mma
  dsimp only
  split
  · exact h.park
  split
  · exact h.park
  split
  · exact .ite h.deschedule h.traceTl.retire
  split
  · exact h.park
  exact .ite h.deschedule h.startTile

theorem State.Inv.setTile (h : s.Inv) {t : Team} {k : Nat} : (s.setTile t k).Inv := by
  unfold State.setTile
  exact .ite h h.modTile

theorem State.Inv.putTop (h : s.Inv) {o : TileOp} : (s.putTop o).Inv := h.of_mem rfl

theorem State.Inv.beginTiles (h : s.Inv) {s0 : State} : (s0.beginTiles s).Inv := h.of_mem rfl

theorem State.Inv.endTile (h : s.Inv) {o : TileOp} : (s.endTile o).Inv := by
  unfold State.endTile
  exact h.of_mem.beginTiles.retireOp

theorem State.Inv.killTile (h : s.Inv) {o : TileOp} : (s.killTile o).Inv := by
  unfold State.killTile
  dsimp only
  exact .endTile (.ite h.voidOp h.voidOp.modTile)

theorem State.Inv.parkTile (h : s.Inv) {o : TileOp} {f : FaultInfo} : (s.parkTile o f).Inv := by
  unfold State.parkTile
  split
  · exact (h.parkOp.of_fst ‹_›).putTop
  exact (h.parkOp.of_fst ‹_›).killTile

theorem State.Inv.matRead (h : s.Inv) {g : Group} {op : Nat} {r : Bool × Nat × Nat} : (s.matRead g op r).1.Inv := by
  unfold State.matRead
  dsimp only
  split
  · exact h
  split
  · exact .ite_fst h h
  split
  · exact h.xlateRun.of_fst ‹_›
  rename_i e1
  have h1 := h.xlateRun.of_fst e1
  split
  · exact h1
  split
  · exact h1
  exact h1.useRun.readFor

theorem State.Inv.matRows (h : s.Inv) {g : Group} {op : Nat} {o : MOp} {k : Nat} {is : List Nat} :
    (s.matRows g op o k is).1.Inv := by
  induction is generalizing s with
  | nil => exact h
  | cons i r ih =>
    unfold State.matRows
    split
    · exact h.matRead.of_fst ‹_›
    rename_i e1
    have h1 := h.matRead.of_fst e1
    extract_lets
    split
    · exact h1.matRead.of_fst ‹_›
    rename_i e2
    have h2 := h1.matRead.of_fst e2
    split <;> exact (ih h2).of_fst ‹_›

theorem State.Inv.mmaAdd (h : s.Inv) {o : TileOp} {as bs : List (Nat × List FVal)} {integer : Bool} :
    (s.mmaAdd o as bs integer).Inv := by
  unfold State.mmaAdd
  dsimp only
  exact .foldl (fun _ _ h => h.of_writeN) h

theorem State.Inv.runMma (h : s.Inv) {o : TileOp} : (s.runMma o).Inv := by
  unfold State.runMma
  dsimp only
  split
  · exact h.parkTile
  split
  · exact (h.matRows.of_fst ‹_›).parkTile
  rename_i e1
  have h1 := h.matRows.of_fst e1
  split
  · exact (h1.matRows.of_fst ‹_›).parkTile
  exact (h1.matRows.of_fst ‹_›).mmaAdd.modTile.endTile

theorem State.Inv.matReads (h : s.Inv) {g : Group} {op : Nat} {rs : List (Bool × Nat × Nat)} :
    (s.matReads g op rs).1.Inv := by
  induction rs generalizing s with
  | nil => exact h
  | cons r rs ih =>
    unfold State.matReads
    split
    · exact h.matRead.of_fst ‹_›
    rename_i e1
    have h1 := h.matRead.of_fst e1
    split <;> exact (ih h1).of_fst ‹_›

theorem State.Inv.runAccld (h : s.Inv) {o : TileOp} : (s.runAccld o).Inv := by
  unfold State.runAccld
  dsimp only
  split
  · exact (h.matReads.of_fst ‹_›).parkTile
  exact (h.matReads.of_fst ‹_›).of_writeN.modTile.endTile

theorem State.Inv.accDst (h : s.Inv) {g : Group} {rs : List (Bool × Nat × Nat)} : (s.accDst g rs).1.Inv := by
  induction rs generalizing s with
  | nil => exact h
  | cons r rs ih =>
    unfold State.accDst
    split
    · exact h.segEnd.of_fst ‹_›
    rename_i e1
    have h1 := h.segEnd.of_fst e1
    split <;> exact (ih h1).of_fst ‹_›

theorem State.Inv.runAccst (h : s.Inv) {o : TileOp} : (s.runAccst o).Inv := by
  unfold State.runAccst
  extract_lets g
  split
  · exact h.parkTile
  split
  · exact (h.accDst.of_fst ‹_›).parkTile
  rename_i e1
  have h1 := h.accDst.of_fst e1
  split
  rename_i e2
  have h2 := State.Inv.of_fst (.foldl_fst (fun _ _ h => by
    dsimp only
    split
    exacts [h.perform, h.writeAcked, h]) h1) e2
  exact .ite h2.endTile h2.putTop

theorem State.Inv.runAccmv (h : s.Inv) {o : TileOp} : (s.runAccmv o).Inv := by
  unfold State.runAccmv
  dsimp only
  exact .ite h.parkTile h.of_writeN.modTile.endTile

theorem State.Inv.runAccz (h : s.Inv) {o : TileOp} : (s.runAccz o).Inv := by
  unfold State.runAccz
  dsimp only
  exact h.of_clear.modTile.endTile

theorem State.Inv.tileFar (h : s.Inv) {g : Group} {rs : List (Nat × Nat)} : (s.tileFar g rs).1.Inv := by
  induction rs generalizing s with
  | nil => exact h
  | cons r rs ih =>
    unfold State.tileFar
    split
    · exact h.xlateRun.of_fst ‹_›
    rename_i e1
    have h1 := h.xlateRun.of_fst e1
    exact ih (.ite h1 (.foldl (fun _ _ h => h.markAD) h1))

theorem State.Inv.runTile (h : s.Inv) {o : TileOp} : (s.runTile o).Inv := by
  unfold State.runTile
  split
  · exact h.runAccz
  · exact h.runAccld
  · exact h.runAccst
  · exact h.runAccmv
  exact h.runMma

theorem State.Inv.failTile (h : s.Inv) {o : TileOp} {e : TileError} : (s.failTile o e).Inv := by
  unfold State.failTile
  dsimp only
  split
  · exact h.parkTile
  · exact h.parkTile
  · exact h.relRecord.addPips.parkTile
  exact h.modTile.relRecord.addPips.parkTile

theorem State.Inv.resetTeam (h : s.Inv) {k : Nat} {ops : List TileOp} : (s.resetTeam k ops).Inv := by
  unfold State.resetTeam
  split
  · split
    · exact h
    · exact h.of_mem
    exact h.putTeam
  exact h

end Sys2Proof.Machine
end

section
/-! Groups, the Deck, scheduling and faults keep memory canonical (O7). -/

set_option Elab.async false

namespace Sys2Proof.Machine

variable {s s' : State}

theorem State.Inv.zero (h : s.Inv) {lo hi : Nat} : (s.zero lo hi).Inv := by
  unfold State.zero
  exact h.of_clear

theorem State.Inv.startGroup (h : s.Inv) {p : GSpec} {o : Origin} {lin gx gy gz core kBase : Nat} {clearK : Bool} :
    (s.startGroup p o lin gx gy gz core kBase clearK).1.Inv := by
  unfold State.startGroup
  extract_lets slot tid0 places g ts sealedP s1 s2 s3 k s4
  have h2 : s2.Inv := State.Inv.zero (State.Inv.zero h.of_mem)
  have h4 : s4.Inv := .ite_step (.ite_step h2 (·.zero)) (·.zero)
  exact .invL1 (.foldl (fun _ _ h => h.traceBind) h4)

theorem State.Inv.dropGroup (h : s.Inv) {slot : Nat} : (s.dropGroup slot).Inv := h.of_mem rfl

theorem State.Inv.thaw (h : s.Inv) {c : Nat} : (s.thaw c).Inv := by
  unfold State.thaw
  exact .ite h h.modCtx

theorem State.Inv.freeRec (h : s.Inv) {r : Rec} : (s.freeRec r).Inv := by
  unfold State.freeRec
  dsimp only
  exact h.of_mem.thaw

theorem State.Inv.promote (h : s.Inv) {r : Rec} : (s.promote r).Inv := by
  unfold State.promote
  split
  · exact h
  exact h.of_mem

theorem State.Inv.putTask (h : s.Inv) {t : Task} : (s.putTask t).Inv := h.of_mem rfl

theorem State.Inv.addTask (h : s.Inv) {die bank idx : Nat} {d : List Dw} {ext : Option (List Dw)} :
    (s.addTask die bank idx d ext).1.Inv := h.of_mem rfl

theorem State.Inv.bump (h : s.Inv) {c i n : Nat} : (s.bump c i n).Inv := h.of_mem rfl

theorem State.Inv.lower (h : s.Inv) {t : Task} : (s.lower t).Inv := by
  unfold State.lower
  dsimp only
  exact .ite h.bump (.ite h.putTask (.ite h.putTask.bump h.putTask))

theorem State.Inv.recall (h : s.Inv) {i : Nat} : (s.recall i).Inv := by
  unfold State.recall
  split
  · dsimp only
    exact h.putTask.of_mem
  exact h

theorem State.Inv.mark (h : s.Inv) {part : Nat} : (s.mark part).Inv := h.of_mem rfl

theorem State.Inv.fetchHand (h : s.Inv) {core c va : Nat} : (s.fetchHand core c va).Inv := by
  unfold State.fetchHand
  split
  · exact h.fetchWord.of_fst ‹_›
  exact (h.fetchWord.of_fst ‹_›).fetchBody

theorem State.Inv.serve (h : s.Inv) {ctx : Nat} {x : Dw} : (s.serve ctx x).Inv := by
  unfold State.serve
  exact .ite h.sendLane h.of_mem

theorem State.Inv.dropTask (h : s.Inv) {id : Nat} : (s.dropTask id).Inv := h.of_mem rfl

theorem State.Inv.taskReport (h : s.Inv) {t : Task} {f : FaultInfo} : (s.taskReport t f).Inv := by
  unfold State.taskReport
  dsimp only
  exact h.report

theorem State.Inv.refuseTask (h : s.Inv) {t : Team} {d : SReg} {st : Nat} : (s.refuseTask t d st).Inv := by
  unfold State.refuseTask
  exact h.bump.retire

theorem State.Inv.submit (h : s.Inv) {t : Team} {d : SReg} {dws : List Dw} {ext : Option (List Dw)} :
    (s.submit t d dws ext).Inv := by
  unfold State.submit
  dsimp only
  split
  · exact h.refuseTask
  split
  · exact h.refuseTask
  exact h.addTask.bump.retire

theorem State.Inv.squash (h : s.Inv) {t : Team} {task off : Nat} : (s.squash t task off).Inv := by
  unfold State.squash
  dsimp only
  exact .of_mem (.dropGroup (.foldl (fun _ _ h => h.freeRec.promote) (.foldl (fun _ _ h => h.unserve) h.bump)))

theorem State.Inv.fillWaiters (h : s.Inv) {off : Nat} : (s.fillWaiters off).Inv := by
  unfold State.fillWaiters
  dsimp only
  refine .foldl (fun s a h => ?_) h.of_mem
  split
  · exact h.lower
  exact h

theorem State.Inv.putLq (h : s.Inv) {x : LaunchQ} : (s.putLq x).Inv := h.of_mem rfl

theorem State.Inv.post (h : s.Inv) {t : Team} {d : SReg} {q : Nat} {dws : List Dw} : (s.post t d q dws).Inv := by
  unfold State.post
  dsimp only
  split
  · exact h.bump.retire
  exact .ite h.bump.retire (.ite h.bump.retire h.putLq.retire)

theorem State.Inv.resume (h : s.Inv) {t : Team} : (s.resume t).Inv := by
  unfold State.resume
  exact .ite h.of_mem h.openClause

theorem State.Inv.awake (h : s.Inv) {t : Team} : (s.awake t).Inv := h.of_mem rfl

theorem State.Inv.evict (h : s.Inv) {line : Nat} : (s.evict line).Inv := by
  unfold State.evict
  exact .ite h h.of_mem

theorem State.Inv.peerSync (h : s.Inv) {m : Nat} {w : Option PeerTeam} {line sc : Nat} :
    (s.peerSync m w line sc).Inv := by
  unfold State.peerSync
  split
  · exact h.setScope
  exact .ite h.setScope h

theorem State.Inv.drained (h : s.Inv) {team peer : Nat} : (s.drained team peer).Inv := h.of_mem rfl

theorem State.Inv.splitBatches (h : s.Inv) : s.splitBatches.Inv := by
  unfold State.splitBatches
  dsimp only
  exact .foldl (fun _ _ h => .ite h.of_mem (.foldl (fun _ _ h => h.fresh.of_mem) h)) h.of_mem

theorem State.Inv.applyFar (h : s.Inv) {e : DetEntry} {peer pa : Nat} : (s.applyFar e peer pa).Inv := by
  unfold State.applyFar
  split
  rename_i e1
  have h1 := h.fresh.of_fst e1
  extract_lets rid t w a src p s2
  have h2 : s2.Inv := by
    clear_value t
    subst s2
    split
    · exact h1.putTeam
    exact h1
  clear_value s2
  exact .queuePkts h2.of_mem

theorem State.Inv.applyOne (h : s.Inv) {e : DetEntry} : (s.applyOne e).Inv := by
  unfold State.applyOne
  dsimp only
  exact .ite h.applyFar (.ite h.uncorrectable.voidRun h.atomAt)

theorem State.Inv.applyDet (h : s.Inv) {n : Nat} : (s.applyDet n).Inv := by
  unfold State.applyDet
  dsimp only
  exact .foldl (fun _ _ h => h.applyOne) h.of_mem

theorem State.Inv.releaseTeam (h : s.Inv) {b : Barrier} {t : Team} : (s.releaseTeam b t).Inv := by
  unfold State.releaseTeam
  dsimp only
  exact .ite (.awake (.traceTeam (.putTeam (.ite h h.invL1)))) (.putTeam (.ite h h.invL1))

theorem State.Inv.applyFor (h : s.Inv) {b : Barrier} : (s.applyFor b).Inv := by
  unfold State.applyFor
  split
  · exact h.applyDet
  exact h

theorem State.Inv.reclaim (h : s.Inv) {c : Nat} : (s.reclaim c).Inv := by
  unfold State.reclaim
  split
  · exact h
  dsimp only
  exact .ite h h.putQueue.of_mem

theorem State.Inv.closeLaunch (h : s.Inv) {n : Nat} : (s.closeLaunch n).Inv := by
  unfold State.closeLaunch
  dsimp only
  split
  · exact h
  exact .ite h.applyDet.of_mem h

theorem State.Inv.closeLaunches (h : s.Inv) : s.closeLaunches.Inv := by
  unfold State.closeLaunches
  exact .foldl (fun _ _ h => h.closeLaunch) h

theorem State.Inv.dropDet (h : s.Inv) {slot : Nat} : (s.dropDet slot).Inv := h.of_mem rfl

theorem State.Inv.finishGroup (h : s.Inv) {g : Group} : (s.finishGroup g).Inv := by
  unfold State.finishGroup
  dsimp only
  split
  · exact h.applyDet.dropGroup.dropTask
  exact h.of_mem.dropDet.dropGroup.closeLaunch

theorem State.Inv.engRead (h : s.Inv) {die c va n : Nat} : (s.engRead die c va n).1.Inv := by
  have hread := State.Inv.vaRead (s := { s with cores := [] }) h.of_mem (core := if die = 0 then 0 else 96) (c := c)
    (va := va) (n := n)
  exact hread.of_mem rfl

theorem State.Inv.engWrite (h : s.Inv) {die c va : Nat} {bs : List Byte} : (s.engWrite die c va bs).1.Inv := by
  have hwrite := State.Inv.vaWrite (s := { s with cores := [] }) h.of_mem (core := if die = 0 then 0 else 96) (c := c)
    (va := va) (bs := bs)
  exact hwrite.of_mem rfl

theorem State.Inv.feMark (h : s.Inv) {c va : Nat} : (s.feMark c va).Inv := by
  unfold State.feMark
  split
  · rename_i e1
    have h1 := h.of_mem.xlateRun.of_fst e1
    dsimp only
    exact .ite h1.of_mem.setScope (.ite h1.of_mem.setScope h1.of_mem)
  exact h

theorem State.Inv.feWriteN (h : s.Inv) {c va : Nat} {bs : List Byte} : (s.feWriteN c va bs).1.Inv := by
  have h0 : State.Inv { s with cores := [] } := h.of_mem
  unfold State.feWriteN
  split
  · exact (h0.xlateRun.of_fst ‹_›).of_mem
  rename_i e1
  have h1 := h0.xlateRun.of_fst e1
  split
  rename_i e2
  exact .foldl (fun _ _ h => h.feMark) (State.Inv.of_fst (.writeAcked h1.of_mem) e2)

theorem State.Inv.faultExt (h : s.Inv) {die : Nat} {dws : List Dw} : (s.faultExt die dws).1.Inv := by
  unfold State.faultExt
  split
  · exact h
  split
  · exact h
  split
  · exact h.engRead.of_fst ‹_›
  rename_i e1
  have h1 := h.engRead.of_fst e1
  exact .ite_fst h1 h1

theorem State.Inv.sendPend (h : s.Inv) {p : PendTask} : (s.sendPend p).Inv := by
  unfold State.sendPend
  split
  · exact h.of_mem
  extract_lets dws peer s1
  have h1 : s1.Inv := h.of_mem
  clear_value peer
  split
  · split
    rename_i e1
    have h1 := h.fresh.of_fst e1
    dsimp only
    split
    · exact .sendLane (.putRec h1.of_mem)
    exact .escalateRec h1.of_mem
  split
  · exact h
  split
  · exact h1.escalateRec
  split
  · exact (h1.faultExt.of_fst ‹_›).escalateRec
  exact (h1.faultExt.of_fst ‹_›).addTask

theorem State.Inv.sendNext (h : s.Inv) {dest : Nat} : (s.sendNext dest).Inv := by
  unfold State.sendNext
  split
  · exact h.sendPend
  exact h

theorem State.Inv.acceptTask (h : s.Inv) {dws : List Dw} {remain since : Nat} :
    (s.acceptTask dws remain since).1.Inv := by
  unfold State.acceptTask
  split
  · exact h
  split
  · exact h
  dsimp only
  split
  · exact h.faultExt.of_fst ‹_›
  exact (h.faultExt.of_fst ‹_›).addTask

theorem State.Inv.answerTask (h : s.Inv) {p : Packet} {dws : List Dw} {ok : Bool} : (s.answerTask p dws ok).Inv := by
  unfold State.answerTask
  exact h.sendLane

theorem State.Inv.takeIn (h : s.Inv) {p : Packet} {m : LaneMsg} {since : Nat} : (s.takeIn p m since).Inv := by
  unfold State.takeIn
  split
  · split
    · exact h.acceptTask.of_fst ‹_›
    exact (h.acceptTask.of_fst ‹_›).of_mem.answerTask
  exact h

theorem State.Inv.killWork (h : s.Inv) {r : Rec} : (s.killWork r).Inv := by
  unfold State.killWork
  split
  · split
    · exact .ite h.killTeam h
    exact h
  · split
    · exact h.killTile
    exact h
  exact h.killSeg

theorem State.Inv.toReport (h : s.Inv) {r : Rec} {f : FaultInfo} : (s.toReport r f).Inv := by
  unfold State.toReport
  dsimp only
  exact h.freeRec.promote.placeRec

theorem State.Inv.expire (h : s.Inv) {r : Rec} : (s.expire r).Inv := by
  unfold State.expire
  exact .ite h.freeRec h.killWork.toReport

theorem State.Inv.freezeTeam {p : State × Freeze} (h : p.1.Inv) {t : Team} : (State.freezeTeam p t).1.Inv := by
  unfold State.freezeTeam
  dsimp only
  split
  · split
    · exact h
    exact h.park
  · split
    · exact .ite_fst h h.park
    exact .ite_fst h.park h
  · exact h.formRec
  exact h

theorem State.Inv.beginFreeze (h : s.Inv) {c : Nat} {f : FaultInfo} {bar : Option BarrierKey} :
    (s.beginFreeze c f bar).Inv := by
  unfold State.beginFreeze
  extract_lets
  exact .ite h h.of_mem.modCtx

theorem State.Inv.raiseFreeze (h : s.Inv) {c : Nat} {f : FaultInfo} {ks : List (Nat × Nat)} :
    (s.raiseFreeze c f ks).Inv := by
  unfold State.raiseFreeze
  split
  · exact h
  split
  · exact h.putRec
  exact h.askReset

theorem State.Inv.closeFreeze (h : s.Inv) {c : Nat} {z : Freeze} {ks : List (Nat × Nat)} :
    (s.closeFreeze c z ks).Inv := by
  unfold State.closeFreeze
  exact .ite h h.modCtx.raiseFreeze

theorem State.Inv.endFreeze (h : s.Inv) {c : Nat} {z : Freeze} : (s.endFreeze c z).Inv := by
  unfold State.endFreeze
  dsimp only
  split
  · exact h.closeFreeze
  refine .closeFreeze ?_
  refine .modCtx ?_
  split
  · exact h.feWriteN
  exact h

theorem State.Inv.freezeStep (h : s.Inv) {c : Nat} : (s.freezeStep c).Inv := by
  unfold State.freezeStep
  split
  · exact h
  split
  · exact h.closeFreeze
  split
  rename_i e1
  have h1 := State.Inv.of_fst (.foldl_fst (fun _ _ h => h.freezeTeam) h) e1
  exact .ite h1.modCtx h1.endFreeze

theorem State.Inv.freezeSweep (h : s.Inv) : s.freezeSweep.Inv := by
  unfold State.freezeSweep
  exact .foldl (fun _ _ h => h.freezeStep) h

theorem State.Inv.stallCtx (h : s.Inv) {c : Nat} : (s.stallCtx c).Inv := by
  unfold State.stallCtx
  exact .ite h h.beginFreeze

end Sys2Proof.Machine
end

section
/-! Launch queues, the front end, control registers and handlers keep memory canonical (O7). -/

set_option Elab.async false

namespace Sys2Proof.Machine

variable {s s' : State}

theorem State.Inv.handOver (h : s.Inv) {ctx : Nat} {dws : List Dw} {parents : List Nat} :
    (s.handOver ctx dws parents).1.Inv := h.of_mem rfl

theorem State.Inv.handPosted (h : s.Inv) {c q : Nat} : (s.handPosted c q).Inv := by
  unfold State.handPosted
  split
  · exact h
  dsimp only
  exact .ite h.putLq (.foldl (fun _ _ h => h.handOver) h.putLq)

theorem State.Inv.putLaunch (h : s.Inv) {l : Launch} : (s.putLaunch l).Inv := h.of_mem rfl

theorem State.Inv.unreserve (h : s.Inv) {id lin : Nat} : (s.unreserve id lin).Inv := by
  unfold State.unreserve
  split
  · exact h
  exact h.putLaunch

theorem State.Inv.unreserveAll (h : s.Inv) {l : Launch} : (s.unreserveAll l).Inv := h.of_mem rfl

theorem State.Inv.freeFor (h : s.Inv) {l : Launch} {core n : Nat} : (s.freeFor l core n).Inv := by
  induction n generalizing s with
  | zero => exact h
  | succ n ih =>
    unfold State.freeFor
    split
    · exact h
    split
    · exact h
    exact ih h.unreserve

theorem State.Inv.reserve (h : s.Inv) {l : Launch} {lin core : Nat} : (s.reserve l lin core).Inv := h.of_mem rfl

theorem State.Inv.placeOne (h : s.Inv) {id : Nat} : ((s.placeOne id).getD s).Inv := by
  unfold State.placeOne
  split
  · exact h
  split
  · exact h
  extract_lets
  split
  · exact h.reserve
  split
  · exact h
  extract_lets
  split
  · exact h.freeFor.reserve
  exact h

theorem State.Inv.placeUpTo (h : s.Inv) {id n : Nat} : (s.placeUpTo id n).Inv := by
  induction n generalizing s with
  | zero => exact h
  | succ n ih =>
    unfold State.placeUpTo
    split
    · exact h
    exact ih (h.placeOne.of_getD ‹_›)

theorem State.Inv.startOne (h : s.Inv) {id : Nat} {r : Resv} : (s.startOne id r).Inv := by
  unfold State.startOne
  dsimp only
  split
  · exact h
  exact h.putLaunch.startGroup

theorem State.Inv.startGangs (h : s.Inv) {id : Nat} : (s.startGangs id).Inv := by
  unfold State.startGangs
  split
  · exact h
  exact .foldl (fun _ _ h => h.startOne) h

theorem State.Inv.moveResv (h : s.Inv) {core id : Nat} : (s.moveResv core id).Inv := by
  unfold State.moveResv
  split
  · exact h
  extract_lets go s1 out
  split
  · exact h
  have hout : ∀ s', out = some s' → s'.Inv := by
    refine State.Inv.foldl_getD (fun o r ho s' e => ?_) fun s' e => Option.some.inj e ▸ h.putLaunch
    simp only [Option.bind_eq_some_iff, Option.map_eq_some_iff] at e
    obtain ⟨s2, e2, l, -, k, -, rfl⟩ := e
    exact (ho s2 e2).reserve
  clear_value out
  split
  · exact hout _ rfl
  exact h.unreserveAll

theorem State.Inv.clearResv (h : s.Inv) {core : Nat} : (s.clearResv core).Inv := by
  unfold State.clearResv
  exact .foldl (fun _ _ h => h.moveResv) h

theorem State.Inv.discard (h : s.Inv) {c : Nat} : (s.discard c).Inv := by
  unfold State.discard
  dsimp only
  exact .of_mem (.foldl (fun _ _ h => h.unreserveAll) h)

theorem State.Inv.feRead (h : s.Inv) {c va : Nat} : (s.feRead c va).1.Inv := by
  unfold State.feRead
  split
  · exact h.engRead.of_fst ‹_›
  exact (h.engRead.of_fst ‹_›).feMark

theorem State.Inv.feLink (h : s.Inv) {c va : Nat} : (s.feLink c va).1.Inv := by
  unfold State.feLink
  split
  · exact h.engRead.of_fst ‹_›
  rename_i e1
  have h1 := h.engRead.of_fst e1
  dsimp only
  exact .ite h1.feMark h1

theorem State.Inv.feWrite (h : s.Inv) {c va : Nat} {v : Dw} : (s.feWrite c va v).1.Inv := by
  unfold State.feWrite
  exact h.feWriteN

theorem State.Inv.fePage (h : s.Inv) {x : LaunchQ} {off : Nat} {v : Dw} : (s.fePage x off v).Inv := by
  unfold State.fePage
  dsimp only
  split
  · exact h.feWrite.putLq
  exact h.feWrite

theorem State.Inv.feState (h : s.Inv) {x : LaunchQ} : (s.feState x).Inv := by
  unfold State.feState
  exact h.putLq.fePage

theorem State.Inv.feFault (h : s.Inv) {x : LaunchQ} {code pva : Nat} : (s.feFault x code pva).Inv := by
  unfold State.feFault
  exact h.feState.notify

theorem State.Inv.fePacket (h : s.Inv) {c va : Nat} {exp : Option Wd} : (s.fePacket c va exp).1.Inv := by
  unfold State.fePacket
  split
  · exact h.engRead.of_fst ‹_›
  rename_i e1
  have h1 := h.engRead.of_fst e1
  dsimp only
  split
  · exact h1
  split
  · exact h1
  split <;> exact h1.engRead.of_fst ‹_›

theorem State.Inv.feLinked (h : s.Inv) {c : Nat} {f : Frame} : (s.feLinked c f).Inv := by
  unfold State.feLinked
  exact .ite h.feMark h

theorem State.Inv.feNext (h : s.Inv) {c : Nat} {f : Frame} : (s.feNext c f).1.Inv := by
  unfold State.feNext
  split
  · exact h
  split
  rename_i e1
  have h1 := State.Inv.of_fst (by
    split
    · exact h
    split
    · exact h.feLink.of_fst ‹_›
    have h1 := h.feLink.of_fst ‹_›
    exact .ite_fst h1 (.ite_fst h1 h1)) e1
  split
  · exact h1
  extract_lets
  split
  · exact h1.fePacket.of_fst ‹_›
  · exact h1.fePacket.of_fst ‹_›
  exact (h1.fePacket.of_fst ‹_›).feLinked

theorem State.Inv.feAhead (h : s.Inv) {c : Nat} {f : Frame} {n : Nat} : (s.feAhead c f n).1.Inv := by
  induction n generalizing s f with
  | zero => exact h
  | succ n ih =>
    unfold State.feAhead
    split
    · exact h
    split
    · extract_lets
      exact .ite_fst h (ih (h.feNext.of_fst ‹_›))
    exact h.feNext.of_fst ‹_›

theorem State.Inv.feStall (h : s.Inv) {x : LaunchQ} {f : Frame} {r : Fetch} : (s.feStall x f r).Inv := by
  unfold State.feStall
  split
  · exact h.feState
  · exact h.putLq
  · exact h.feFault
  exact h.putLq

theorem State.Inv.feBegin (h : s.Inv) {x : LaunchQ} {f : Frame} {va : Nat} {d : List Dw} :
    (s.feBegin x f va d).Inv := by
  unfold State.feBegin
  split
  exact (h.feAhead.of_fst ‹_›).feState

theorem State.Inv.feGo (h : s.Inv) {x : LaunchQ} {n : Nat} : (s.feGo x n).Inv := by
  induction n generalizing s x with
  | zero => exact h.putLq
  | succ n ih =>
    unfold State.feGo
    split
    · exact h.putLq
    split
    · split
      · exact .ite (ih h) (ih h)
      extract_lets gone
      split
      rename_i e1
      have h1 := State.Inv.of_fst (.ite_fst h.fePacket h) e1
      split
      · exact h1.putLq
      · exact h1.feFault
      split
      · exact h1.feFault
      extract_lets src f1 f2 s2
      have h2 : s2.Inv := .ite h1.feLinked h1
      exact .ite h2.feBegin (ih h2)
    split
    · extract_lets
      exact .ite h.feBegin (ih h)
    split
    · have h1 := h.feNext.of_fst ‹_›
      extract_lets
      exact .ite h1.feBegin (ih h1)
    · exact ih (h.feNext.of_fst ‹_›)
    exact (h.feNext.of_fst ‹_›).feStall

theorem State.Inv.pktLaunch (h : s.Inv) {x : LaunchQ} {d : List Dw} : (s.pktLaunch x d).1.Inv := by
  unfold State.pktLaunch
  dsimp only
  split
  · exact h.feWrite
  exact h.handOver

theorem State.Inv.pktIb (h : s.Inv) {x : LaunchQ} {va : Nat} {d : List Dw} : (s.pktIb x va d).1.Inv := by
  unfold State.pktIb
  extract_lets
  exact .ite_fst h h

theorem State.Inv.pktPred (h : s.Inv) {x : LaunchQ} {d : List Dw} : (s.pktPred x d).1.Inv := by
  unfold State.pktPred
  split <;> exact h.feRead.of_fst ‹_›

theorem State.Inv.pktWaitmem (h : s.Inv) {x : LaunchQ} {d : List Dw} : (s.pktWaitmem x d).1.Inv := by
  unfold State.pktWaitmem
  split <;> exact h.feRead.of_fst ‹_›

theorem State.Inv.pktWrmem (h : s.Inv) {x : LaunchQ} {d : List Dw} : (s.pktWrmem x d).1.Inv := by
  unfold State.pktWrmem
  split <;> exact h.feWrite.of_fst ‹_›

theorem State.Inv.pktLoop (h : s.Inv) {x : LaunchQ} {va : Nat} {d : List Dw} : (s.pktLoop x va d).1.Inv := by
  unfold State.pktLoop
  dsimp only
  split
  · exact h
  split
  · exact h
  split
  · exact h.feAhead
  split
  · exact h.feAhead
  split <;> exact h.feAhead.feNext.of_fst ‹_›

theorem State.Inv.feSigs (h : s.Inv) {ctx q n : Nat} : (s.feSigs ctx q n).Inv := by
  induction n generalizing s with
  | zero => exact h
  | succ n ih =>
    unfold State.feSigs
    split
    · exact h
    split
    · exact h
    split
    · exact ih h.putLq.fePage
    split
    · exact h
    split
    · exact h
    extract_lets
    split
    · exact (h.feWrite.of_fst ‹_›).feFault
    exact ih (h.feWrite.of_fst ‹_›).putLq

theorem State.Inv.feSig (h : s.Inv) {ctx q : Nat} : (s.feSig ctx q).Inv := by
  unfold State.feSig
  split
  · exact h.feSigs
  exact h

theorem State.Inv.pktDo (h : s.Inv) {x : LaunchQ} {va : Nat} {d : List Dw} : (s.pktDo x va d).1.Inv := by
  unfold State.pktDo
  split
  · exact h.pktLaunch
  · exact h.pktIb
  · exact h.pktPred
  · exact h.pktLoop
  · exact h.pktWrmem
  · exact h.pktWaitmem
  · exact h
  · exact h
  exact h

theorem State.Inv.feRest (h : s.Inv) {ctx q : Nat} : (s.feRest ctx q).Inv := by
  unfold State.feRest
  dsimp only
  split
  · exact .ite h.feSig.feGo h.feSig
  exact h.feSig

theorem State.Inv.feDone (h : s.Inv) {x : LaunchQ} : (s.feDone x).Inv := by
  unfold State.feDone
  exact h.putLq.feRest

theorem State.Inv.lqHalt (h : s.Inv) {x : LaunchQ} : (s.lqHalt x).Inv := by
  unfold State.lqHalt
  exact h.feState

theorem State.Inv.lqEnd (h : s.Inv) {x : LaunchQ} : (s.lqEnd x).Inv := by
  unfold State.lqEnd
  dsimp only
  split
  · exact .ite h.putLq.feSig.lqHalt h.putLq.feSig
  exact h.putLq.feSig

theorem State.Inv.pktFault (h : s.Inv) {x : LaunchQ} {code : Nat} : (s.pktFault x code).Inv := by
  unfold State.pktFault
  dsimp only
  split
  · exact .ite h.feFault.lqEnd h.feFault
  exact h.feFault

theorem State.Inv.pktRun (h : s.Inv) {ctx q ty : Nat} : (s.pktRun ctx q ty).Inv := by
  unfold State.pktRun
  split
  · exact h
  split
  · exact h
  split
  · exact h
  dsimp only
  split
  · exact h.handPosted
  split
  · exact h.handPosted
  split
  · exact (h.handPosted.pktDo.of_fst ‹_›).pktFault
  · rename_i e1
    have h1 := h.handPosted.pktDo.of_fst e1
    exact .ite h1.feState h1.putLq
  rename_i e1
  have h1 := h.handPosted.pktDo.of_fst e1
  exact .ite h1.lqEnd h1.feDone

theorem State.Inv.feMissed (h : s.Inv) {ctx q was first : Nat} : (s.feMissed ctx q was first).Inv := by
  unfold State.feMissed
  split
  · exact h
  exact .ite h (.ite h.putLq h.feFault)

theorem State.Inv.lqEnable (h : s.Inv) {ctx q : Nat} {v : Dw} : (s.lqEnable ctx q v).Inv := by
  unfold State.lqEnable
  extract_lets page x s1
  have h1 : s1.Inv := h.of_mem
  split
  · exact (h1.engRead.of_fst ‹_›).feFault
  exact (h1.engRead.of_fst ‹_›).putLq.fePage.feRest

theorem State.Inv.lqDisable (h : s.Inv) {ctx q : Nat} : (s.lqDisable ctx q).Inv := by
  unfold State.lqDisable
  split
  · exact h
  dsimp only
  split
  · exact h.putLq
  split
  · exact h.lqHalt
  split
  · exact h.lqHalt
  split
  · exact h.putLq
  split
  · exact (h.pktDo.of_fst ‹_›).pktFault
  · rename_i e1
    have h1 := h.pktDo.of_fst e1
    exact .ite h1.lqHalt h1.putLq
  exact (h.pktDo.of_fst ‹_›).lqEnd

theorem State.Inv.rstStop (h : s.Inv) {c : Nat} : (s.rstStop c).Inv := by
  unfold State.rstStop
  dsimp only
  exact .modCtx (.discard (.foldl (fun _ _ h => h.lqHalt) h))

theorem State.Inv.rstKill (h : s.Inv) {c : Nat} : (s.rstKill c).Inv := by
  unfold State.rstKill
  dsimp only
  exact .modCtx (.of_mem (.foldl (fun _ _ h => h.killTeam) h))

theorem State.Inv.rstOps (h : s.Inv) {c : Nat} : (s.rstOps c).Inv := by
  unfold State.rstOps
  dsimp only
  exact .foldl (fun _ _ h => .asySettle (.putAsy (.ite h.voidOp h))) (.foldl (fun _ _ h => .ite h.killTile h.endTile) h)

theorem State.Inv.dropReads (h : s.Inv) {c : Nat} : (s.dropReads c).Inv := h.of_mem rfl

theorem State.Inv.rstRemote (h : s.Inv) {c : Nat} : (s.rstRemote c).Inv := by
  unfold State.rstRemote
  dsimp only
  exact .foldl (fun _ _ h => h.settle) h.dropReads.of_mem

theorem State.Inv.rstDet (h : s.Inv) {c : Nat} : (s.rstDet c).Inv := by
  unfold State.rstDet
  exact .foldl (fun _ _ h => h.applyDet) h

theorem State.Inv.rstSettle (h : s.Inv) {c : Nat} : (s.rstSettle c).Inv := by
  unfold State.rstSettle
  dsimp only
  exact .foldl (fun _ _ h => h.finishGroup) h.rstOps.rstRemote.rstDet

theorem State.Inv.rstClear (h : s.Inv) {c : Nat} : (s.rstClear c).Inv := by
  unfold State.rstClear
  dsimp only
  exact .modCtx (.endRun (.of_mem (.foldl (fun _ _ h => h.dropTask) (.foldl (fun _ _ h => h.freeRec) h))))

theorem State.Inv.announce (h : s.Inv) {bound : Nat} : (s.announce bound).Inv := by
  unfold State.announce
  exact .foldl (fun _ _ h => h.sendPkts) h

theorem State.Inv.setFabann (h : s.Inv) {v : Dw} : (s.csrTry (s.setFabann v)).Inv := by
  unfold State.setFabann
  split
  · exact h.csrTry_error
  exact .csrTry_ok (.announce h.of_mem)

theorem State.Inv.setModl (h : s.Inv) {r : Nat} {v : Dw} : (s.csrTry (s.setModl r v)).Inv := by
  unfold State.setModl
  split
  · exact h.setFabann
  · exact .csrTry_ok h.of_mem
  · split
    · exact h.csrTry_error
    exact .csrTry_ok h.of_mem
  · exact .csrTry_ok h.of_mem
  exact .csrTry_ok h

theorem State.Inv.ctxOn (h : s.Inv) {c : Nat} : (s.ctxOn c).Inv := h.of_mem rfl

theorem State.Inv.ctxOff (h : s.Inv) {c : Nat} : (s.ctxOff c).Inv := by
  unfold State.ctxOff
  exact h.discard.endRun.modCtx

theorem State.Inv.setCtl (h : s.Inv) {sup : Bool} {c : Nat} {v : Dw} : (s.csrTry (s.setCtl sup c v)).Inv := by
  unfold State.setCtl
  extract_lets x same s1 s2
  have h1 : s1.Inv := h.modCtx
  have h2 : s2.Inv := .ite h1.ctxOn (.ite h1.ctxOff h1)
  iterate 5
    split
    · exact h.csrTry_error
  exact .csrTry_ok (.ite h2.askReset h2)

theorem State.Inv.setRange (h : s.Inv) {c k : Nat} {v : Dw} : (s.csrTry (s.setRange c k v)).Inv := by
  unfold State.setRange
  dsimp only
  split
  · exact h.csrTry_error
  split
  · exact .csrTry_ok h.modCtx.of_mem
  exact .csrTry_ok h.modCtx

theorem State.Inv.setRq (h : s.Inv) {c : Nat} {v : Dw} : (s.setRq c v).Inv := by
  unfold State.setRq
  exact h.modCtx.reclaim

theorem State.Inv.setLq (h : s.Inv) {c q : Nat} {v : Dw} : (s.setLq c q v).Inv := by
  unfold State.setLq
  dsimp only
  exact .ite (.ite h.modCtx.lqEnable h.modCtx) (.ite h.modCtx.lqDisable h.modCtx)

theorem State.Inv.setCtx (h : s.Inv) {sup : Bool} {c r : Nat} {v : Dw} : (s.csrTry (s.setCtx sup c r v)).Inv := by
  unfold State.setCtx
  split
  · exact h.setCtl
  · exact .csrTry_ok h.modCtx
  · exact .csrTry_ok h.modCtx
  · exact .csrTry_ok h.modCtx
  · exact .csrTry_ok h.setRq
  · exact .csrTry_ok h.modCtx
  split
  · exact .csrTry_ok h.setLq
  exact h.setRange

theorem State.Inv.setOv (h : s.Inv) {g : Nat} {v : Dw} : (s.csrTry (s.setOv g v)).Inv := by
  unfold State.setOv
  split
  · exact h.csrTry_error
  exact .csrTry_ok h.modGroup

theorem State.Inv.sealPart (h : s.Inv) {p : Nat} {x : Part} : (s.csrTry (s.sealPart p x)).Inv := by
  unfold State.sealPart
  dsimp only
  split
  · exact h.csrTry_error
  split
  · exact h.csrTry_error
  split
  · exact h.csrTry_error
  exact .csrTry_ok (.of_mem (.perform (.perform (.foldl (fun _ _ h => h.perform) h))))

theorem State.Inv.partOn (h : s.Inv) {p : Nat} {x : Part} : (s.csrTry (s.partOn p x)).Inv := by
  unfold State.partOn
  split
  · exact h.csrTry_error
  split
  · exact .csrTry_ok h.of_mem
  split
  · exact h.csrTry_error
  exact h.sealPart

theorem State.Inv.zeroClusters (h : s.Inv) {x : Part} : (s.zeroClusters x).Inv := by
  unfold State.zeroClusters
  dsimp only
  exact .foldl (fun _ _ h => h.zero) (.foldl (fun _ _ h => h.zero.zero.zero.modGroup) h)

theorem State.Inv.partOff (h : s.Inv) {p : Nat} : (s.partOff p).Inv := by
  unfold State.partOff
  dsimp only
  exact .modPart (.ite_step (.foldl (fun _ _ h => h.discard) h) fun h => h.zero.zeroClusters.of_mem)

theorem State.Inv.setPart (h : s.Inv) {p r : Nat} {v : Dw} : (s.csrTry (s.setPart p r v)).Inv := by
  unfold State.setPart
  extract_lets x new
  split
  · exact h.csrTry_error
  split
  · exact h.csrTry_error
  split
  · exact h.partOn
  split
  · exact .csrTry_ok h.partOff
  exact .csrTry_ok h.of_mem

theorem State.Inv.csrSet (h : s.Inv) {sup : Bool} {a : Csr} {v : Dw} : (s.csrTry (s.csrSet sup a v)).Inv := by
  unfold State.csrSet
  split
  · exact h.setModl
  · exact h.setPart
  · exact h.setCtx
  split
  · exact h.setOv
  exact .csrTry_ok h

theorem State.Inv.flush (h : s.Inv) {c lo hi : Nat} : (s.flush c lo hi).Inv := h.of_mem rfl

theorem State.Inv.peerFlush (h : s.Inv) {join lo hi : Nat} : (s.peerFlush join lo hi).Inv := by
  unfold State.peerFlush
  exact .ite h (.foldl (fun _ _ h => h.flush) h)

theorem State.Inv.setEntry (h : s.Inv) {c cls : Nat} {d : Option (List Dw)} : (s.setEntry c cls d).Inv := h.of_mem rfl

theorem State.Inv.recImage (h : s.Inv) {r : Rec} : (s.recImage r).1.Inv := by
  unfold State.recImage
  split
  · exact h
  dsimp only
  split
  · exact h.engRead.of_fst ‹_›
  rename_i e1
  have h1 := h.engRead.of_fst e1
  split <;> exact h1.engRead.of_fst ‹_›

theorem State.Inv.putImage (h : s.Inv) {r : Rec} {bs : List Byte} : (s.putImage r bs).1.Inv := by
  unfold State.putImage
  split
  · split <;> exact h.engWrite.of_fst ‹_›
  exact h.of_writeN

theorem State.Inv.imgTeam (h : s.Inv) {r : Rec} : (s.imgTeam r).1.Inv := by
  unfold State.imgTeam
  dsimp only
  split <;> exact h.recImage.of_fst ‹_›

theorem State.Inv.pkRead (h : s.Inv) {r : Rec} {sel : Dw} : (s.pkRead r sel).1.Inv := by
  unfold State.pkRead
  dsimp only
  split
  · exact h
  split
  · split <;> exact h
  split
  · exact h
  split
  · exact h
  split
  · split <;> exact h
  split <;> exact h.imgTeam.of_fst ‹_›

theorem State.Inv.pkWriteFixed (h : s.Inv) {r : Rec} {n : Nat} {v : Dw} : (s.pkWriteFixed r n v).1.Inv := by
  unfold State.pkWriteFixed
  dsimp only
  split
  · exact h
  split
  · exact .ite h.putRec.expire h.putRec
  split
  · exact .ite_fst h.putTop.putRec h
  exact h

theorem State.Inv.pkWindow (h : s.Inv) {r : Rec} {n : Nat} {v : Dw} : (s.pkWindow r n v).1.Inv := by
  unfold State.pkWindow
  split
  · exact h
  · exact h.modGroup
  exact h.putRec

theorem State.Inv.pkWrite (h : s.Inv) {r : Rec} {sel v : Dw} : (s.pkWrite r sel v).1.Inv := by
  unfold State.pkWrite
  dsimp only
  split
  · exact h
  split
  · exact h.pkWriteFixed
  split
  · exact h
  split
  · exact h
  split
  · exact h.pkWindow
  split
  · exact h.imgTeam.of_fst ‹_›
  rename_i e1
  have h1 := h.imgTeam.of_fst e1
  split
  · exact h1
  split <;> exact h1.putImage.of_fst ‹_›

theorem State.Inv.restartTimers (h : s.Inv) {r : Rec} : (s.restartTimers r).Inv := by
  unfold State.restartTimers
  exact .ite h.of_mem h

theorem State.Inv.reenter (h : s.Inv) {r : Rec} {red : Option Dw} : (s.reenter r red).Inv := by
  unfold State.reenter
  split
  · exact h
  split
  · exact h
  dsimp only
  split
  · exact (h.recImage.of_fst ‹_›).formRec
  rename_i e1
  have h1 := h.recImage.of_fst e1
  split
  · exact h1.loseTeam
  split
  · exact h1.loseTeam
  exact .ite h1.restartTimers.modGroup.putTeam.invL1.swapOut h1.restartTimers.modGroup.putTeam.invL1.traceBind.settleOwed

theorem State.Inv.retryTile (h : s.Inv) {o : TileOp} : (s.retryTile o).Inv := h.of_mem rfl

theorem State.Inv.retrySeg (h : s.Inv) {r : Rec} {o : AsyncOp} {red : Option Dw} : (s.retrySeg r o red).Inv := by
  unfold State.retrySeg
  split
  · exact h
  exact h.putAsy

theorem State.Inv.goOn (h : s.Inv) {r : Rec} {red : Option Dw} : (s.goOn r red).Inv := by
  unfold State.goOn
  split
  · exact h.reenter
  · split
    · exact .ite h.retryTile h
    exact h
  exact h.retrySeg

theorem State.Inv.recallFar (h : s.Inv) {r : Rec} : (s.recallFar r).Inv := by
  unfold State.recallFar
  split
  · exact .ite h.sendLane h
  exact h

theorem State.Inv.disposeOne (h : s.Inv) {kill : Bool} {r : Rec} {red : Option Dw} : (s.disposeOne kill r red).Inv := by
  unfold State.disposeOne
  dsimp only
  exact .ite h.recallFar.killWork.freeRec h.recallFar.freeRec.goOn

theorem State.Inv.disposeAll (h : s.Inv) {kill : Bool} {r : Rec} {red : Option Dw} : (s.disposeAll kill r red).Inv := by
  unfold State.disposeAll
  dsimp only
  exact .promote (.foldl (fun _ _ h => .ite h.disposeOne h) h.disposeOne)

theorem State.Inv.dispose (h : s.Inv) {minor : Nat} {r : Rec} {v : Dw} : (s.dispose minor r v).1.Inv := by
  unfold State.dispose
  split
  · exact .ite_fst h.freeRec h
  split
  · exact h
  split
  · exact h
  split
  · exact h.disposeAll
  split
  · split
    · exact h.recImage.of_fst ‹_›
    exact (h.recImage.of_fst ‹_›).disposeAll
  · exact .ite_fst h.disposeAll h
  exact h.disposeAll

theorem State.Inv.pkServe (h : s.Inv) {minor : Nat} {r : Rec} {sel v : Dw} : (s.pkServe minor r sel v).1.Inv := by
  unfold State.pkServe
  dsimp only
  split
  · split <;> exact h.pkRead.of_fst ‹_›
  · exact h.pkWrite
  exact h.dispose

theorem State.Inv.pkAnswer (h : s.Inv) {key : Nat} {d : SReg} {two : Bool} {st : Nat} {v : Dw} :
    (s.pkAnswer key d two st v).Inv := by
  unfold State.pkAnswer
  dsimp only
  split
  · exact h
  exact .ite h h.retire

theorem State.Inv.pkFar (h : s.Inv) {t : Team} {minor : Nat} {d : SReg} {two : Bool} {x sel v : Dw} :
    (s.pkFar t minor d two x sel v).Inv := by
  unfold State.pkFar
  dsimp only
  exact .deschedule (.ite h.fresh.of_mem.sendLane h.fresh.of_mem)

theorem State.Inv.pk (h : s.Inv) {t : Team} {minor : Nat} {d : SReg} {two : Bool} {x sel v : Dw} :
    (s.pk t minor d two x sel v).Inv := by
  unfold State.pk
  dsimp only
  split
  · exact h.deschedule
  split
  · exact h.pkFar
  split
  · exact h.pkAnswer
  exact .ite h.park (.ite h.pkAnswer h.pkServe.pkAnswer)

end Sys2Proof.Machine
end

section
/-! The fabric, the host link, scale-out, reliability, and what every step closes with keep memory canonical (O7). -/

set_option Elab.async false

namespace Sys2Proof.Machine

variable {s s' : State}

theorem State.Inv.dropPkt (h : s.Inv) : s.dropPkt.Inv := by
  unfold State.dropPkt
  exact h.of_mem.addPips

theorem State.Inv.arrive_ (h : s.Inv) {q : Packet} {typ : Nat} {k : State → State} (hk : ∀ s, s.Inv → (k s).Inv) :
    (s.arrive_ q typ k).Inv := by
  unfold State.arrive_
  dsimp only
  exact .ite h (.ite h.dropPkt (.ite h.modPeer (hk _ h.modPeer.modPeer)))

theorem State.Inv.request (h : s.Inv) {q : Packet} {typ : Nat} : (s.request q typ).Inv := by
  unfold State.request
  dsimp only
  exact .arrive_ h (fun _ h => .ite (.gotPkt (.ite h.sendReply h.sendPkts)) (.ite h.modPeer h.inPkt.unhold))

theorem State.Inv.parkLost (h : s.Inv) {a : Access} : (s.parkLost a).Inv := by
  unfold State.parkLost
  split
  · exact h
  split
  · exact .ite h.park h
  exact h.parkIfDone

theorem State.Inv.abandon (h : s.Inv) {a : Access} {f : FaultInfo} : (s.abandon a f).Inv := by
  unfold State.abandon
  dsimp only
  exact h.forget.grantSlots.loseRegs.modTeam.parkLost

theorem State.Inv.feAcked (h : s.Inv) {rid : Wd} : (s.feAcked rid).Inv := h.of_mem rfl

theorem State.Inv.ackOps (h : s.Inv) {rid : Wd} : (s.ackOps rid).Inv := by
  unfold State.ackOps
  dsimp only
  split
  · split
    · exact h
    split
    · exact h.parkSeg
    · exact .ite h.putAsy.asySettle h.putAsy
    exact h.putAsy
  split
  · exact .ite h.endTile h.putTop
  exact h.feAcked.of_mem

theorem State.Inv.ackRid (h : s.Inv) {rid : Wd} : (s.ackRid rid).Inv := by
  unfold State.ackRid
  split
  · exact .ite h h.settle
  exact h.ackOps

theorem State.Inv.farCame (h : s.Inv) {rid : Wd} {f : FarLine → FarLine} : (s.farCame rid f).Inv := h.of_mem rfl

theorem State.Inv.failRid (h : s.Inv) {rid : Wd} {every : Bool} {f : Nat → FaultInfo} :
    (s.failRid rid every f).Inv := by
  unfold State.failRid
  dsimp only
  split
  · exact h.abandon
  split
  · exact h.pfCame
  split
  · exact h.farCame
  split
  · split
    · exact h.dropFar.parkSeg
    exact h
  split
  · exact h.parkTile
  split
  · split
    · exact h.parkSeg
    exact h
  exact h.feAcked

theorem State.Inv.replyTo (h : s.Inv) {q : Packet} {a : Access} : (s.replyTo q a).Inv := by
  unfold State.replyTo
  extract_lets mine dead s1 s2 s3 a1 a2
  have h1 : s1.Inv := h.ite_step (.foldl (fun _ _ h => h.ite_step (·.l1Come)))
  have h2 : s2.Inv := h1.ite_step (·.voidRun)
  have h3 : s3.Inv := h2.ite_step (.foldl (fun _ _ h => h.loseLane))
  exact .ite h3.of_mem h3.settle

theorem State.Inv.replied (h : s.Inv) {q : Packet} : (s.replied q).Inv := by
  unfold State.replied
  dsimp only
  split
  · exact h.gotPkt.modPeer.failRid
  split
  · exact h.gotPkt.modPeer.replyTo
  · exact h.gotPkt.modPeer.pfCame
  exact h.gotPkt.modPeer.farCame

theorem State.Inv.retirePkt (h : s.Inv) {q : Packet} : (s.retirePkt q).Inv := by
  unfold State.retirePkt
  dsimp only
  split
  · refine .ackRid ?_
    split
    · exact h.mark
    exact h
  split
  · exact h.mark
  exact h

theorem State.Inv.sendAcks (h : s.Inv) {m : Nat} {lane : Bool} : (s.sendAcks m lane).Inv := by
  unfold State.sendAcks
  dsimp only
  exact .ite h (.modPeer (.of_mem (.foldl (fun _ _ h => h.mark) h)))

theorem State.Inv.inTask (h : s.Inv) {q : Packet} {dws : List Dw} {sl : Bool} {remain : Nat} :
    (s.inTask q dws sl remain).Inv := by
  unfold State.inTask
  split
  · exact h.answerTask
  split
  · exact (h.acceptTask.of_fst ‹_›).of_mem
  exact (h.acceptTask.of_fst ‹_›).answerTask

theorem State.Inv.taskAnswer (h : s.Inv) {q : Packet} {x : Dw} {ok : Bool} : (s.taskAnswer q x ok).Inv := by
  unfold State.taskAnswer
  split
  · exact h
  split
  · exact h
  dsimp only
  exact .ite h.of_mem h.of_mem.putRec.escalateRec

theorem State.Inv.inRequest (h : s.Inv) {q : Packet} {minor : Nat} {x sel v served : Dw} :
    (s.inRequest q minor x sel v served).Inv := by
  unfold State.inRequest
  dsimp only
  refine .sendLane ?_
  split
  · exact h
  exact .ite_fst h (.ite_fst h.pkServe h)

theorem State.Inv.inAnswer (h : s.Inv) {src : Nat} {rid : Wd} {st : Nat} {v : Dw} : (s.inAnswer src rid st v).Inv := by
  unfold State.inAnswer
  split
  · exact h
  dsimp only
  split
  · exact h.of_mem
  split
  · exact .ite h.of_mem (.ite h.of_mem.park h.of_mem.pkAnswer)
  exact h.of_mem

theorem State.Inv.unqueue (h : s.Inv) {x : Dw} : (s.unqueue x).Inv := by
  unfold State.unqueue
  dsimp only
  exact .of_mem (.foldl (fun _ _ h => h.dropTask) h)

theorem State.Inv.inRecord (h : s.Inv) {x : Dw} {what : Nat} : (s.inRecord x what).Inv := by
  unfold State.inRecord
  split
  · exact h.unqueue
  split
  · exact h
  split
  · exact .ite h.putRec h
  · exact .ite h.putRec h
  exact h.escalateRec

theorem State.Inv.retime (h : s.Inv) {m : Nat} {f : Nat → Nat} : (s.retime m f).Inv := h.of_mem rfl

theorem State.Inv.lateRequests (h : s.Inv) {m : Nat} {gone : List Wd} : (s.lateRequests m gone).Inv := by
  unfold State.lateRequests
  dsimp only
  exact .foldl (fun _ _ h => h.inAnswer) h

theorem State.Inv.lateTasks (h : s.Inv) {m : Nat} {gone : List Wd} : (s.lateTasks m gone).Inv := by
  unfold State.lateTasks
  dsimp only
  refine .foldl (fun s a h => ?_) h
  split
  · exact h.of_mem.putRec.escalateRec
  exact h.of_mem

theorem State.Inv.trWrite (h : s.Inv) {die off : Nat} {v : Dw} : (s.trWrite die off v).Inv := by
  unfold State.trWrite
  dsimp only
  split
  · exact h.of_mem
  split
  · exact h
  split
  · exact h.of_mem
  · exact h.of_mem
  · exact h.of_mem
  · exact h.of_mem
  · exact h.of_mem
  exact h

theorem State.Inv.bar2Write (h : s.Inv) {off : Nat} {bs : List Byte} : (s.bar2Write off bs).Inv := by
  unfold State.bar2Write
  dsimp only
  refine .foldl (fun s a h => ?_) h
  split
  · split
    · exact h.trWrite
    exact h
  · exact .foldl (fun _ _ h => h.of_write) h
  exact h

theorem State.Inv.hostAbort (h : s.Inv) {pa len : Nat} : (s.hostAbort pa len).Inv := by
  unfold State.hostAbort
  exact .ite h.of_mem h

theorem State.Inv.bar4Write (h : s.Inv) {pa : Nat} {bs : List Byte} : (s.bar4Write pa bs).Inv := by
  unfold State.bar4Write
  exact .ite h.perform (.foldl (fun _ _ h => .ite h.perform h) h)

theorem State.Inv.hostGets (h : s.Inv) {bs : List Byte} : (s.hostGets bs).Inv := h.of_mem rfl

theorem State.Inv.putQp (h : s.Inv) {q : QueuePair} : (s.putQp q).Inv := h.of_mem rfl

theorem State.Inv.qpWord (h : s.Inv) {e : List Dw} {va : Nat} : (s.qpWord e va).1.Inv := by
  unfold State.qpWord
  split <;> exact h.engRead.of_fst ‹_›

theorem State.Inv.qpRoom (h : s.Inv) {e : List Dw} {q : QueuePair} : (s.qpRoom e q).1.Inv := by
  unfold State.qpRoom
  split <;> exact h.qpWord.of_fst ‹_›

theorem State.Inv.qpDone (h : s.Inv) {i : Nat} {e w : List Dw} {status len : Nat} :
    (s.qpDone i e w status len).Inv := by
  unfold State.qpDone
  dsimp only
  exact .ite h h.engWrite.engWrite.putQp

theorem State.Inv.rdmaSend (h : s.Inv) {i : Nat} {e : List Dw} {reply : Bool} {op : Nat} {va key : Dw} {len : Nat}
    {data : List Byte} :
    (s.rdmaSend i e reply op va key len data).Inv := by
  unfold State.rdmaSend
  extract_lets
  exact .ite h h.of_mem

theorem State.Inv.qpSend (h : s.Inv) {i n : Nat} {e w : List Dw} : (s.qpSend i n e w).Inv := by
  unfold State.qpSend
  dsimp only
  split
  · exact h.putQp.rdmaSend
  split
  · exact (h.engRead.of_fst ‹_›).qpDone
  exact (h.engRead.of_fst ‹_›).putQp.rdmaSend

theorem State.Inv.qpTake (h : s.Inv) {i : Nat} {e : List Dw} : (s.qpTake i e).Inv := by
  unfold State.qpTake
  dsimp only
  split
  · exact h.engRead.of_fst ‹_›
  rename_i e1
  have h1 := h.engRead.of_fst e1
  exact .ite h1.engWrite.putQp.qpDone h1.engWrite.putQp.qpSend

theorem State.Inv.qpPosted (h : s.Inv) {i : Nat} : (s.qpPosted i).1.Inv := by
  unfold State.qpPosted
  dsimp only
  split
  · exact h
  split
  · exact h
  split
  · exact h.qpWord.of_fst ‹_›
  exact (h.qpWord.of_fst ‹_›).qpRoom

theorem State.Inv.qpDrop (h : s.Inv) {i n : Nat} : (s.qpDrop i n).Inv := h.of_mem rfl

theorem State.Inv.poisonAt (h : s.Inv) {a : Nat} : (s.poisonAt a).Inv := by
  unfold State.poisonAt
  dsimp only
  exact .ite h.putQueue h.of_mem

theorem State.Inv.scrubFound (h : s.Inv) {u : Nat × Nat} : (s.scrubFound u).Inv := h.of_mem rfl

theorem State.Inv.correctedErr (h : s.Inv) {k n : Nat} : (s.correctedErr k n).Inv := by
  unfold State.correctedErr
  exact .ite h.addPips h

theorem State.Inv.l1Parity (h : s.Inv) {core line : Nat} : (s.l1Parity core line).Inv := by
  unfold State.l1Parity
  exact .ite h.modCore.addPips h

theorem State.Inv.storeError (h : s.Inv) {unum : Nat} {e : StoreErr} : (s.storeError unum e).Inv := by
  unfold State.storeError
  dsimp only
  split
  · split
    · exact .toReport (.ite h.addPips h.addPips.killWork)
    exact h.addPips
  · split
    · exact h.addPips.dropTask.taskReport
    exact h.addPips
  · exact h.addPips.of_mem
  exact h.addPips.of_writeN

theorem State.Inv.moveImage (h : s.Inv) {t : Team} : (s.moveImage t).Inv := by
  unfold State.moveImage
  split
  · exact h
  dsimp only
  split
  · exact h
  exact h.vaWrite

theorem State.Inv.migrate (h : s.Inv) {g : Group} {core : Nat} : (s.migrate g core).Inv := by
  unfold State.migrate
  dsimp only
  refine .foldl (fun _ _ h => h.moveImage.traceBind) (.invL1 (.of_mem ?_))
  exact .foldl (fun _ _ h => h.modTeam) (.modGroup (.foldl (fun _ _ h => h.traceBind) h))

theorem State.Inv.sweep (h : s.Inv) : s.sweep.Inv := by
  unfold State.sweep
  refine .foldl (fun s a h => ?_) h
  split
  · exact h
  split
  · exact h.of_mem
  split
  · exact h
  exact .clearResv (.foldl (fun _ _ h => h.recall) h)

theorem State.Inv.putTest (h : s.Inv) {id : Nat} {u : Option UnitTest} : (s.putTest id u).Inv := h.of_mem rfl

theorem State.Inv.clearPips (h : s.Inv) {k n : Nat} : (s.clearPips k n).Inv := h.of_mem rfl

theorem State.Inv.fence (h : s.Inv) {u : UnitTest} {core : Option Nat} : (s.fence u core).Inv := by
  unfold State.fence
  dsimp only
  split
  · exact h.of_mem.clearResv
  exact .ite h.of_mem h.of_mem

theorem State.Inv.bootHalt {stage err : Nat} : (bootHalt stage err).Inv := State.reset_inv.of_mem rfl

theorem State.Inv.bootDone {c : BootConfig} {r : BootRecord} {flash : List (Nat × Nat)} : (bootDone c r flash).Inv :=
  State.reset_inv.of_mem rfl

theorem State.Inv.elapsed (h : s.Inv) {s0 : State} : (s0.elapsed s).Inv := by
  unfold State.elapsed
  split
  · exact h
  refine .foldl (fun s t h => ?_) h.of_mem
  split
  · exact h.bump
  · exact h.bump
  · exact h.bump
  exact h

theorem State.Inv.look (h : s.Inv) {s0 : State} : (s0.look s).Inv := by
  unfold State.look
  refine .foldl (fun s t h => ?_) h
  split
  · exact h.putTeam
  exact h

theorem State.Inv.closeStep (h : s.Inv) {s0 : State} : (s0.closeStep s).Inv := by
  unfold State.closeStep
  dsimp only
  exact .ite h.elapsed.look.freezeSweep.closeLaunches h.elapsed.look.freezeSweep.closeLaunches.sweep

end Sys2Proof.Machine
end

section
/-! Instructions and events keep memory canonical (O7): one rule for each shared meaning, and for each meaning of its own that is
not a line. -/

set_option Elab.async false

namespace Sys2Proof.Machine

variable {s s' : State}

/-- The state that an outcome leads to, if any, is canonical. -/
def Out.Inv : Out → Prop
  | .next s => s.Inv
  | _ => True

theorem Out.Inv.next (h : s.Inv) : Out.Inv (.next s) := h

theorem Out.Inv.ite {c : Prop} [Decidable c] {a b : Out} (ha : a.Inv) (hb : b.Inv) : (if c then a else b).Inv := by
  split <;> assumption

theorem Out.Inv.issue (h : s.Inv) {i : Info} {k : Team → State → State} (hk : ∀ t s, s.Inv → (k t s).Inv) :
    (issue i k s).Inv := by
  unfold Machine.issue
  split
  · trivial
  exact .next (h.issueTeam hk).tick

theorem execHardwarePrefetch_inv (h : s.Inv) {core ctx : Nat} {va : Dw} : (execHardwarePrefetch core ctx va s).Inv := by
  unfold execHardwarePrefetch
  split
  · exact .next (h.pfTarget.of_fst ‹_›)
  rename_i e1
  have h1 := h.pfTarget.of_fst e1
  exact .ite (.next h1.pfAsk) (.next h1.modCtx)

theorem execLineRequestReturn_inv (h : s.Inv) {access : Nat} {data : List Line} :
    (execLineRequestReturn access data s).Inv := by
  unfold execLineRequestReturn
  split
  · split
    · exact .next h
    exact .next h.of_mem.pfCame
  refine .next (.ite_step (.grantSlots (.of_mem ?_)) (·.settle))
  exact h.ite_step (.foldl fun _ _ h => h.l1Come)

theorem atom_inv (h : s.Inv) {op : Nat} {x : Atom} : (atom op x s).Inv :=
  .issue h (fun _ _ h => h.atomic)

theorem execAtomicServicePerform_inv (h : s.Inv) {cluster : Nat} {shadow : List Shadow} :
    (execAtomicServicePerform cluster shadow s).Inv := by
  unfold execAtomicServicePerform
  split
  · exact .next h
  exact .next (.foldl (fun _ _ h => h.svcTry) h.of_mem)

theorem branchS_inv (h : s.Inv) {a : SReg} {o : Off15} {f : Dw → Bool} : (branchS a o f s).Inv :=
  .issue h (fun _ _ h => .ite h.branchTo h.retire)

theorem branchP_inv (h : s.Inv) {p : PReg} {o : Off15} {any : Bool} : (branchP p o any s).Inv :=
  .issue h (fun _ _ h => .ite h.branchTo h.retire)

theorem sop2_inv (h : s.Inv) {d a b : SReg} {f : Dw → Dw → Dw} : (sop2 d a b f s).Inv :=
  .issue h (fun _ _ h => h.retire)

theorem sop1_inv (h : s.Inv) {d a : SReg} {f : Dw → Dw} : (sop1 d a f s).Inv :=
  .issue h (fun _ _ h => h.retire)

theorem execSrwr_inv (h : s.Inv) {n : BitVec 8} {a : SReg} : (execSrwr n a s).Inv := by
  unfold execSrwr
  refine .issue h (fun t s h => ?_)
  split
  · exact h.retire
  exact h.park

theorem execWaita_inv (h : s.Inv) {a : SReg} {p : BitVec 3} : (execWaita a p s).Inv := by
  unfold execWaita
  refine .issue h (fun t s h => ?_)
  split
  · exact (h.resolve.of_fst ‹_›).park
  rename_i e1
  have h1 := h.resolve.of_fst e1
  dsimp only
  split
  · exact h1.markAll.effect.retire
  exact .ite h1.markAll.effect.retire h1.markAll.effect.deschedule

theorem execWround_inv (h : s.Inv) {sc : BitVec 3} : (execWround sc s).Inv := by
  unfold execWround
  dsimp only
  exact .issue h (fun _ _ h => .ite h.park (.ite h.deschedule h.beginRound.deschedule))

theorem execDfree_inv (h : s.Inv) {a b : SReg} {c : BitVec 4} : (execDfree a b c s).Inv := by
  unfold execDfree
  dsimp only
  exact .issue h (fun _ _ h => .ite h.park (.ite h.deschedule h.effect.fresh.of_mem.retire))

theorem execCpyg_inv (h : s.Inv) {d : SReg} {p r : BitVec 3} {v : VReg} : (execCpyg d p r v s).Inv := by
  unfold execCpyg
  refine .issue h (fun t s h => ?_)
  dsimp only
  split
  · exact h.park
  split
  · exact h.park
  split
  · exact h.park
  exact .async h (fun _ h => .startAsync h (fun _ _ h => h))

theorem execQputMemory_inv (h : s.Inv) {a : SReg} {r : BitVec 3} {p : Bool} {q : BitVec 4} :
    (execQputMemory a r p q s).Inv := by
  unfold execQputMemory
  refine .issue h (fun t s h => ?_)
  dsimp only
  split
  · exact h.park
  split
  · exact h.park
  split
  · exact h.park
  exact h.fill

theorem execQputRegister_inv (h : s.Inv) {v : VReg} {q : BitVec 4} : (execQputRegister v q s).Inv := by
  unfold execQputRegister
  refine .issue h (fun t s h => ?_)
  dsimp only
  split
  · exact h.park
  exact .ite h.deschedule (.async h (fun _ h => .startAsync h (fun _ _ h => h.putQueue)))

theorem execQgetVector_inv (h : s.Inv) {d : VReg} {q : BitVec 4} : (execQgetVector d q s).Inv := by
  unfold execQgetVector
  refine .issue h (fun t s h => ?_)
  dsimp only
  split
  · exact h.effect.retire
  split
  · exact h.park
  exact .take h (fun _ _ h => .ite h.killLanes.putTeam.loseTeam h.killLanes.retire)

theorem execQgetScalar_inv (h : s.Inv) {d : SReg} {q : BitVec 4} : (execQgetScalar d q s).Inv := by
  unfold execQgetScalar
  refine .issue h (fun t s h => ?_)
  split
  · exact h.park
  refine .take h (fun s xs h => ?_)
  split
  · exact h.retire
  exact .ite h.loseTeam h.retire

theorem execTfetchC_inv (h : s.Inv) {d : SReg} : (execTfetchC d s).Inv := by
  unfold execTfetchC
  refine .issue h (fun t s h => ?_)
  split
  · exact h.park
  dsimp only
  split
  · exact h.park
  exact .async h (fun _ h => .startAsync h (fun _ _ h => h))

theorem execTfetchQ_inv (h : s.Inv) {d : SReg} {p : Bool} {q : BitVec 4} : (execTfetchQ d p q s).Inv := by
  unfold execTfetchQ
  refine .issue h (fun t s h => ?_)
  split
  · exact h.park
  split
  · exact h.park
  dsimp only
  split
  · exact h.park
  exact h.fill

theorem execColl_inv (h : s.Inv) {d : SReg} : (execColl d s).Inv := by
  unfold execColl
  refine .issue h (fun t s h => ?_)
  dsimp only
  split
  · exact h.park
  split
  · exact (h.vaRead.of_fst ‹_›).park
  rename_i e1
  have h1 := h.vaRead.of_fst e1
  split
  · exact (h1.vaRead.of_fst ‹_›).park
  rename_i e2
  have h2 := h1.vaRead.of_fst e2
  split
  · exact h2.park
  split
  · exact h2.park
  exact .async h2 (fun _ h => .startAsync h (fun _ _ h => h))

theorem execCopySegmentComplete_inv (h : s.Inv) {op seg : Nat} {err : Option SegError} :
    (execCopySegmentComplete op seg err s).Inv := by
  unfold execCopySegmentComplete
  split
  · exact .next h
  split
  · exact .next h
  split
  · split
    · split
      · exact .next (h.collSend.of_fst ‹_›).parkSeg
      exact .next (h.collSend.of_fst ‹_›)
    exact .ite (.next h) (.next h.parkSeg)
  exact .next h.runSeg

theorem execCollectiveComplete_inv (h : s.Inv) {op : Nat} {data : List Byte} :
    (execCollectiveComplete op data s).Inv := by
  unfold execCollectiveComplete
  split
  · exact .next h
  split
  · exact .next h
  split
  · exact .next h
  dsimp only
  split
  · exact .next (h.collSend.of_fst ‹_›)
  · exact .next (h.collSend.of_fst ‹_›).parkSeg
  rename_i e1
  have h1 := h.collSend.of_fst e1
  split
  · exact .next (h1.xlateRun.of_fst ‹_›).parkSeg
  exact .next (h1.xlateRun.of_fst ‹_›).of_mem.writeAcked.putAsy.asySettle

theorem maskOp_inv (h : s.Inv) {a : PReg} {reads : Bool} {f : Mask → Mask → Mask} : (maskOp a reads f s).Inv :=
  .issue h (fun _ _ h => h.retire)

theorem predOp_inv (h : s.Inv) {d a b : PReg} {f : Mask → Mask → Mask} : (predOp d a b f s).Inv :=
  .issue h (fun _ _ h => h.retire)

theorem vf1_inv (h : s.Inv) {chk : Option Fmt} {w : Nat} {f : Nat → Nat → Nat × Nat} {d a : VReg} {m : Option Msk}
    {rm : Option (BitVec 3)} :
    (vf1 chk w f d a m rm s).Inv :=
  .issue h (fun _ _ h => h.vfloat)

theorem vf2_inv (h : s.Inv) {chk : Option Fmt} {w : Nat} {f : Nat → Nat → Nat → Nat × Nat} {d a b : VReg}
    {m : Option Msk} {rm : Option (BitVec 3)} :
    (vf2 chk w f d a b m rm s).Inv :=
  .issue h (fun _ _ h => h.vfloat)

theorem vf2S_inv (h : s.Inv) {chk : Option Fmt} {f : Nat → Nat → Nat → Nat × Nat} {d a : VReg} {b : SOrI}
    {m : Option Msk} {rm : Option (BitVec 3)} :
    (vf2S chk f d a b m rm s).Inv :=
  .issue h (fun _ _ h => h.vfloat)

theorem vf3_inv (h : s.Inv) {chk : Option Fmt} {w : Nat} {f : Nat → Nat → Nat → Nat → Nat × Nat} {d a b : VReg}
    {e : Option VReg} {m : Option Msk} {rm : Option (BitVec 3)} :
    (vf3 chk w f d a b e m rm s).Inv :=
  .issue h (fun _ _ h => h.vfloat)

theorem vf3S_inv (h : s.Inv) {chk : Option Fmt} {f : Nat → Nat → Nat → Nat → Nat × Nat} {d a : VReg} {b : SOrI}
    {e : Option VReg} {m : Option Msk} {rm : Option (BitVec 3)} :
    (vf3S chk f d a b e m rm s).Inv :=
  .issue h (fun _ _ h => h.vfloat)

theorem execVcvt_inv (h : s.Inv) {d a : VReg} {sel : BitVec 4} {src dst : BitVec 5} {m : Option Msk}
    {rm : Option (BitVec 3)} :
    (execVcvt d a sel src dst m rm s).Inv := by
  unfold execVcvt
  refine .issue h (fun t s h => ?_)
  split
  · exact h.vcvt
  exact h.retire

theorem execAccld_inv (h : s.Inv) {q : SReg} {t : TReg} {g : Bool} : (execAccld q t g s).Inv := by
  unfold execAccld
  refine .issue h (fun t s h => ?_)
  split
  · exact h.park
  exact h.setTile.startTile

theorem execAccst_inv (h : s.Inv) {q : SReg} {t : TReg} {g : Bool} : (execAccst q t g s).Inv := by
  unfold execAccst
  refine .issue h (fun t s h => ?_)
  split
  · exact .ite h.park h.park
  split
  · exact h.park
  exact h.startTile

theorem execAccmv_inv (h : s.Inv) {t u : TReg} : (execAccmv t u s).Inv := by
  unfold execAccmv
  refine .issue h (fun t s h => ?_)
  split
  · exact h.park
  exact h.setTile.startTile

theorem execTileOperationComplete_inv (h : s.Inv) {op : Nat} {err : Option TileError} :
    (execTileOperationComplete op err s).Inv := by
  unfold execTileOperationComplete
  dsimp only
  split
  · exact .next h
  split
  · exact .next h
  split
  · exact .ite (.next h.failTile.dropFar) (.next h)
  exact .ite (.next h.runTile.dropFar) (.ite (.next h) (.ite (.next h.runTile) (.next h.tileFar.askFar)))

theorem execTilePinGrant_inv (h : s.Inv) {core : Nat} : (execTilePinGrant core s).Inv := by
  unfold execTilePinGrant
  split
  · exact .next h
  exact .ite (.next h) (.ite (.next h.of_mem) (.next h.modTeam))

theorem execDeckDispatch_inv (h : s.Inv) {core : Nat} : (execDeckDispatch core s).Inv := by
  unfold execDeckDispatch
  split
  · exact .next h
  dsimp only
  refine .next ?_
  refine .mark ?_
  refine .fetchHand ?_
  refine .modCore ?_
  refine .putTask ?_
  split
  · split
    · exact h.recall
    exact h
  exact h

theorem execTaskStart_inv (h : s.Inv) {core : Nat} : (execTaskStart core s).Inv := by
  unfold execTaskStart
  split
  · exact .next h
  dsimp only
  refine .next ?_
  refine .trace ?_
  split
  · exact h.modCore.putTask.startGroup.serve
  exact h.modCore.putTask.startGroup

theorem execTaskDeadlineExpiry_inv (h : s.Inv) {task : Nat} : (execTaskDeadlineExpiry task s).Inv := by
  unfold execTaskDeadlineExpiry
  split
  · exact .next h
  exact .ite (.next h.dropTask.taskReport) (.next h)

theorem execFaultTaskDeadlineExpiry_inv (h : s.Inv) {task : Nat} : (execFaultTaskDeadlineExpiry task s).Inv := by
  unfold execFaultTaskDeadlineExpiry
  split
  · exact .next h
  exact .ite (.next h.dropTask) (.next h)

theorem execRunBudgetExpiry_inv (h : s.Inv) {group : Nat} : (execRunBudgetExpiry group s).Inv := by
  unfold execRunBudgetExpiry
  split
  · exact .next h
  exact .next h.runOut

theorem execDisableBudgetExpiry_inv (h : s.Inv) {team : Nat} : (execDisableBudgetExpiry team s).Inv := by
  unfold execDisableBudgetExpiry
  split
  · exact .next h
  exact .ite (.next h.pdEnd) (.next h)

theorem execTspawn_inv (h : s.Inv) {d a : SReg} : (execTspawn d a s).Inv := by
  unfold execTspawn
  refine .issue h (fun t s h => ?_)
  dsimp only
  split
  · exact h.park
  split
  · exact h.deschedule
  split
  · exact (h.vaRead.of_fst ‹_›).park
  rename_i e1
  have h1 := h.vaRead.of_fst e1
  split
  · split
    · exact (h1.vaRead.of_fst ‹_›).park
    exact (h1.vaRead.of_fst ‹_›).effect.submit
  exact h1.effect.submit

theorem execTspawnRel_inv (h : s.Inv) {d b : SReg} : (execTspawnRel d b s).Inv := by
  unfold execTspawnRel
  refine .issue h (fun t s h => ?_)
  split
  · exact h.deschedule
  dsimp only
  split
  · exact h.effect.bump.refuseTask
  exact h.effect.lower.retire

theorem execFrd_inv (h : s.Inv) {d a : SReg} : (execFrd d a s).Inv := by
  unfold execFrd
  refine .issue h (fun t s h => ?_)
  dsimp only
  split
  · exact h.park
  split
  · exact h.park
  exact .ite h.park (.ite (.ite h.loseTeam h.invL1.retire) h.squash)

theorem execFwr_inv (h : s.Inv) {a b : SReg} : (execFwr a b s).Inv := by
  unfold execFwr
  refine .issue h (fun t s h => ?_)
  dsimp only
  split
  · exact h.park
  exact .ite h.park (.ite h.deschedule h.effect.perform.of_mem.fillWaiters.retire)

theorem execFwrClr_inv (h : s.Inv) {d a : SReg} : (execFwrClr d a s).Inv := by
  unfold execFwrClr
  refine .issue h (fun t s h => ?_)
  dsimp only
  split
  · exact h.park
  exact .ite h.park (.ite h.loseTeam h.effect.of_mem.retire)

theorem execLpost_inv (h : s.Inv) {d a : SReg} {q : BitVec 2} : (execLpost d a q s).Inv := by
  unfold execLpost
  refine .issue h (fun t s h => ?_)
  dsimp only
  split
  · exact h.park
  split
  · exact h.deschedule
  split
  · exact h.effect.bump.retire
  split
  · exact (h.vaRead.of_fst ‹_›).park
  rename_i e1
  have h1 := h.vaRead.of_fst e1
  split
  · exact (h1.vaRead.of_fst ‹_›).park
  exact (h1.vaRead.of_fst ‹_›).effect.post

theorem execClauseIssue_inv (h : s.Inv) {core : Nat} : (execClauseIssue core s).Inv := by
  unfold execClauseIssue
  split
  · exact .next h
  exact .next h.resume

theorem execPreEmption_inv (h : s.Inv) {team : Nat} : (execPreEmption team s).Inv := by
  unfold execPreEmption
  split
  · exact .next h
  exact .ite (.next h.swapOut) (.next h)

theorem execSwapIn_inv (h : s.Inv) {team : Nat} : (execSwapIn team s).Inv := by
  unfold execSwapIn
  split
  · exact .next h
  exact .ite (.next h.swapBack) (.next h)

theorem execWaitConditionMet_inv (h : s.Inv) {team : Nat} : (execWaitConditionMet team s).Inv := by
  unfold execWaitConditionMet
  split
  · exact .next h
  split
  · split
    · refine .next ?_
      split
      · dsimp only
        split
        · exact h.traceTeam.awake
        exact h.traceTeam.putTeam
      · exact h.of_mem.awake
      exact h.awake
    exact .next h
  exact .next h

theorem execWaitaWake_inv (h : s.Inv) {team : Nat} : (execWaitaWake team s).Inv := by
  unfold execWaitaWake
  split
  · exact .next h
  split
  · exact .next h.endWaita
  · exact .ite (.next h.evict.endWaita) (.next h)
  · exact .next h.endWaita
  exact .next h

theorem execSpuriousWake_inv (h : s.Inv) {team : Nat} : (execSpuriousWake team s).Inv := by
  unfold execSpuriousWake
  split
  · exact .next h
  dsimp only
  split
  · exact .ite (.next h.endWaita) (.next h)
  · exact .ite (.next h.endWaita) (.next h)
  exact .next h

theorem execBarrierComplete_inv (h : s.Inv) {barrier : BarrierKey} : (execBarrierComplete barrier s).Inv := by
  unfold execBarrierComplete
  split
  · exact .next h
  split
  · exact .next h
  dsimp only
  split
  · exact .next h.applyFor
  refine .next ?_
  split
  · exact .mark (.putBarrier (.foldl (fun _ _ h => h.releaseTeam) h.applyFor))
  exact .putBarrier (.foldl (fun _ _ h => h.releaseTeam) h.applyFor)

theorem execRoundComplete_inv (h : s.Inv) {round : Nat} : (execRoundComplete round s).Inv := by
  unfold execRoundComplete
  split
  · exact .next h
  split
  · exact .next h
  dsimp only
  split
  · exact .next h.bump.of_mem
  exact .ite (.next h.bump.of_mem.invL1.retire) (.next h.bump.of_mem)

theorem execDfreeQueueingComplete_inv (h : s.Inv) {entry : Nat} : (execDfreeQueueingComplete entry s).Inv := by
  unfold execDfreeQueueingComplete
  split
  · exact .next h
  exact .ite (.next h) (.next h.of_mem)

theorem execGroupEnd_inv (h : s.Inv) {group : Nat} : (execGroupEnd group s).Inv := by
  unfold execGroupEnd
  split
  · exact .next h
  exact .ite (.next h.finishGroup) (.next h)

theorem execFaultTaskRaise_inv (h : s.Inv) {record : Nat} : (execFaultTaskRaise record s).Inv := by
  unfold execFaultTaskRaise
  split
  · exact .next h
  split
  · exact .next h
  dsimp only
  split
  · exact .next h.putRec.of_mem.sendNext
  exact .ite (.next h.putRec.askReset) (.ite (.next h.putRec.freeRec) (.next h.putRec.escalateRec))

theorem execPendingFaultTaskSend_inv (h : s.Inv) : (execPendingFaultTaskSend s).Inv := by
  unfold execPendingFaultTaskSend
  dsimp only
  split
  · exact .next (.foldl (fun _ _ h => h.sendNext) h)
  exact .next (.takeIn (.foldl (fun _ _ h => h.sendNext) h))

theorem execFaultBankFullRefusal_inv (h : s.Inv) {message : Nat} : (execFaultBankFullRefusal message s).Inv := by
  unfold execFaultBankFullRefusal
  split
  · exact .next h
  split
  · split
    · exact .next h.of_mem.answerTask
    exact .next h
  exact .next h

theorem execRecordDeadlineExpiry_inv (h : s.Inv) {record : Nat} : (execRecordDeadlineExpiry record s).Inv := by
  unfold execRecordDeadlineExpiry
  split
  · exact .next h
  exact .ite (.next h.expire) (.next h)

theorem execBarrierWatchdogExpiry_inv (h : s.Inv) {barrier : BarrierKey} :
    (execBarrierWatchdogExpiry barrier s).Inv := by
  unfold execBarrierWatchdogExpiry
  split
  · exact .next h
  split
  · exact .next h
  exact .ite (.next h) (.next h.beginFreeze)

theorem execPlacementStep_inv (h : s.Inv) {part : Nat} : (execPlacementStep part s).Inv := by
  unfold execPlacementStep
  split
  · exact .next h
  exact .next h.placeUpTo.startGangs

theorem execFrontEndMonitorWake_inv (h : s.Inv) {ctx q : Nat} : (execFrontEndMonitorWake ctx q s).Inv := by
  unfold execFrontEndMonitorWake
  split
  · exact .next h
  split
  · exact .next h
  split
  · exact .next (.ite h (.ite h.lqEnd h.feRest))
  exact .ite (.next h.pktRun) (.next h)

theorem execCommandSeqReread_inv (h : s.Inv) {ctx q : Nat} : (execCommandSeqReread ctx q s).Inv := by
  unfold execCommandSeqReread
  split
  · exact .next h
  split
  · exact .next h
  dsimp only
  refine .next ?_
  refine .feMissed ?_
  split
  · exact h.feGo
  exact h.pktRun

theorem execContextResetProgress_inv (h : s.Inv) {ctx : Nat} : (execContextResetProgress ctx s).Inv := by
  unfold execContextResetProgress
  split
  · exact .next h
  · exact .next h.rstStop
  · exact .next h.rstKill
  · exact .ite (.next h.rstSettle.modCtx) (.next h.rstSettle)
  exact .next h.rstClear

theorem execCsrrd_inv (h : s.Inv) {d a : SReg} : (execCsrrd d a s).Inv := by
  unfold execCsrrd
  refine .issue h (fun t s h => ?_)
  split
  · exact h.park
  exact h.retire

theorem execCsrwr_inv (h : s.Inv) {a b : SReg} : (execCsrwr a b s).Inv := by
  unfold execCsrwr
  refine .issue h (fun t s h => ?_)
  split
  · exact h.park
  split
  · exact h.deschedule
  split
  · exact h.park
  exact (h.csrSet.of_csrTry ‹_›).retire

theorem execTlbinv_inv (h : s.Inv) {sc : BitVec 3} {a b : SReg} : (execTlbinv sc a b s).Inv := by
  unfold execTlbinv
  dsimp only
  refine .issue h (fun _ _ h => .ite h.park (.ite h.park (.ite h.park (.ite h.deschedule ?_))))
  exact .ite (.retire (.foldl (fun _ _ h => h.flush) h)) (.retireWait (.foldl (fun _ _ h => h.flush) h))

theorem execHreg_inv (h : s.Inv) {d a b : SReg} : (execHreg d a b s).Inv := by
  unfold execHreg
  refine .issue h (fun t s h => ?_)
  dsimp only
  split
  · exact h.park
  split
  · exact h.deschedule
  split
  · exact h.retire
  split
  · exact h.retire
  split
  · exact h.park
  split
  · exact h.retire
  split
  · exact h.setEntry.retire
  split
  · exact (h.vaRead.of_fst ‹_›).park
  rename_i e1
  have h1 := h.vaRead.of_fst e1
  exact .ite h1.retire (.ite h1.retire h1.setEntry.retire)

theorem execFabricRetransmit_inv (h : s.Inv) {peer : Nat} {lane : Bool} {psn : Wd} :
    (execFabricRetransmit peer lane psn s).Inv := by
  unfold execFabricRetransmit
  dsimp only
  split
  · exact .next h
  exact .ite (.next h) (.next h.modPeer)

theorem execFaultLaneMessage_inv (h : s.Inv) {p : Packet} {msg : LaneMsg} : (execFaultLaneMessage p msg s).Inv := by
  unfold execFaultLaneMessage
  refine .next ?_
  refine .arrive_ h (fun s h => ?_)
  dsimp only
  split
  · exact h.gotPkt.modPeer.inTask
  · exact h.gotPkt.modPeer.taskAnswer
  · exact h.gotPkt.modPeer.inRequest
  · exact h.gotPkt.modPeer.inAnswer
  exact h.gotPkt.modPeer.inRecord

theorem execHostBarAccess_inv (h : s.Inv) {bar off : Nat} {wr : Option (List Byte)} {len : Nat} :
    (execHostBarAccess bar off wr len s).Inv := by
  unfold execHostBarAccess
  split
  · split
    · exact .next h
    exact .next h.hostGets
  split
  · exact .next h.bar2Write
  · exact .next h.hostGets
  · exact .next h.bar4Write.hostAbort
  · exact .next h.hostGets.hostAbort
  exact .next h

theorem execSendQueueWork_inv (h : s.Inv) {qp : Nat} : (execSendQueueWork qp s).Inv := by
  unfold execSendQueueWork
  split
  · exact .next (h.qpPosted.of_fst ‹_›).qpTake
  rename_i e1 _
  have h1 := h.qpPosted.of_fst e1
  exact .next h1

theorem execRdmaCompletion_inv (h : s.Inv) {qp n status : Nat} {data : List Byte} :
    (execRdmaCompletion qp n status data s).Inv := by
  unfold execRdmaCompletion
  split
  · split
    rename_i e1
    have h1 := h.qpRoom.of_fst e1
    extract_lets failed len s2
    have hfailed : ∀ {s}, s.Inv → (failed s).Inv := fun h => .ite (.next h.qpDone) (.next h1)
    have h2 : s2.Inv := h1.qpDrop
    split
    · exact .next h1
    split
    · exact .next h2.qpDone
    split
    · have h3 : State.Inv { s2 with free := s2.free + 1 } := h2.of_mem
      split
      · exact .next (h3.engWrite.of_fst ‹_›).qpDone
      exact hfailed (h3.engWrite.of_fst ‹_›)
    exact .next h2.qpDone
  exact .next h

theorem execRdmaTimeout_inv (h : s.Inv) {qp n : Nat} : (execRdmaTimeout qp n s).Inv := by
  unfold execRdmaTimeout
  dsimp only
  split
  · exact .ite (.next h.qpRoom) (.next h.qpRoom.of_mem.qpDrop.qpDone)
  exact .next h

theorem execRdmaInbound_inv (h : s.Inv) {m : RdmaMsg} : (execRdmaInbound m s).Inv := by
  unfold execRdmaInbound
  dsimp only
  split
  · exact .next h
  split
  · exact .next h
  split
  · split <;> exact .next (h.engWrite.of_fst ‹_›).rdmaSend
  · split <;> exact .next (h.engRead.of_fst ‹_›).rdmaSend
  · exact .ite (.next h.qpRoom) (.next h.qpRoom.of_mem.qpDone.rdmaSend)
  exact .next h

theorem execPatrolScrub_inv (h : s.Inv) {addr : Nat} {bad : Bool} : (execPatrolScrub addr bad s).Inv := by
  unfold execPatrolScrub
  dsimp only
  refine .ite (.next h) (.ite (.next h.scrubFound.poisonAt.uncorrectable) ?_)
  exact .ite (.next h.choose) (.next h.choose.scrubFound.addPips)

theorem execCoreVacateMigrate_inv (h : s.Inv) {group core : Nat} : (execCoreVacateMigrate group core s).Inv := by
  unfold execCoreVacateMigrate
  split
  · exact .next h
  exact .ite (.next h.migrate) (.next h)

theorem execTestVacateTimeout_inv (h : s.Inv) {test : Nat} : (execTestVacateTimeout test s).Inv := by
  unfold execTestVacateTimeout
  split
  · exact .next h
  split
  · exact .next h
  exact .ite (.next h) (.next h.putTest.relRecord)

theorem execTestRetry_inv (h : s.Inv) {test : Nat} : (execTestRetry test s).Inv := by
  unfold execTestRetry
  split
  · exact .next h
  exact .ite (.next h) (.next h.putTest)

theorem execTargetedTestEnd_inv (h : s.Inv) {test : Nat} {pass : Bool} : (execTargetedTestEnd test pass s).Inv := by
  unfold execTargetedTestEnd
  split
  · exact .next h
  refine .ite (.next h) (.ite (.next h.putTest) (.ite ?_ (.next h.putTest.fence.relRecord)))
  exact .next (.relRecord (h.putTest.clearPips.ite_step (·.of_mem)))

theorem execPowerOn_inv {cfg : BootConfig} : (execPowerOn cfg s).Inv := by
  unfold execPowerOn
  extract_lets n flash
  have hn : n.Inv := by
    subst n
    split
    · exact .bootHalt
    split
    · exact .bootHalt
    exact .ite .bootHalt .bootDone
  exact .next hn.of_mem

theorem shufS_inv (h : s.Inv) {d a : VReg} {b : SReg} {m : Option Msk} {f : Nat → Nat → Option Nat} :
    (shufS d a b m f s).Inv :=
  .issue h (fun _ _ h => h.retire)

theorem vredI_inv (h : s.Inv) {op : IOp} {d : SReg} {a : VReg} {m : Option Msk} : (vredI op d a m s).Inv :=
  .issue h (fun _ _ h => h.retire)

theorem vscanI_inv (h : s.Inv) {op : IOp} {d a : VReg} {m : Option Msk} : (vscanI op d a m s).Inv :=
  .issue h (fun _ _ h => h.retire)

theorem vredF_inv (h : s.Inv) {k : Nat} {d : SReg} {a : VReg} {m : Option Msk} : (vredF k d a m s).Inv :=
  .issue h (fun _ _ h => h.fpDone)

theorem vscanF_inv (h : s.Inv) {k : Nat} {d a : VReg} {m : Option Msk} : (vscanF k d a m s).Inv :=
  .issue h (fun _ _ h => h.fpDone)

theorem vBin_inv (h : s.Inv) {w : EW} {f : Nat → Nat → Nat → Nat} {aff : VVal → VVal → Option VVal} {d a b : VReg}
    {m : Option Msk} :
    (vBin w f aff d a b m s).Inv :=
  .issue h (fun _ _ h => h.retire)

theorem vBinS_inv (h : s.Inv) {f : Nat → Nat → Nat → Nat} {aff : VVal → VVal → Option VVal} {d a : VReg} {b : SOrI}
    {m : Option Msk} :
    (vBinS f aff d a b m s).Inv :=
  .issue h (fun _ _ h => h.retire)

theorem vUn_inv (h : s.Inv) {w : EW} {f : Nat → Nat → Nat} {d a : VReg} {m : Option Msk} : (vUn w f d a m s).Inv :=
  .issue h (fun _ _ h => h.retire)

end Sys2Proof.Machine
end

section
/-! A step keeps memory canonical (O7): the meanings of all instructions and events, an input, what goes on by itself, and the close. -/

set_option Elab.async false

namespace Sys2Proof.Machine

variable {s s' : State}

theorem execOpA_inv (h : s.Inv) (i : OpA) : (execOpA i s).Inv := by
  unfold execOpA
  cases i with
  | br => exact .issue h fun _ _ h => h.branchTo
  | brcEq | brcNe | brcLt | brcGe => exact branchS_inv h
  | bany | bnone => exact branchP_inv h
  | balw => exact .issue h fun _ _ h => .ite h.branchTo h.retire
  | call => exact .issue h fun _ _ h => .ite h.jump h.park
  | nop | yld | pen | li | srrd | msave | mcnt | mfirst | pnot | ppack | punpk | vmad | vmov | vmadScalar |
    vmovScalar | vsel => exact .issue h fun _ _ h => h.retire
  | exit => exact .issue h fun _ _ h => h.modPart.endTeam
  | ret | callr | brr => exact .issue h fun _ _ h => h.jumpReg
  | trap => exact .issue h fun _ _ h => h.park
  | pdis => exact .issue h fun _ _ h => .ite h.retire h.retire
  | icinv => exact .issue h fun _ _ h => .ite h.park (.ite h.deschedule h.dropCode.retire)
  | add | sub | mul | mulhs | mulhu | div | divu | rem | remu | and | or | xor | andn | shl | shr | sar | rol |
    min | max | minu | maxu | slt | sltu | seq => exact sop2_inv h
  | clz | popc | addi | muli | andi | ori | xori | shli | shri | sari | slti | sltui | seqi | lih => exact sop1_inv h
  | srwr => exact execSrwr_inv h
  | mrstr | mand | mandn | mor | mnot => exact maskOp_inv h
  | pand | por | pxor | pandn => exact predOp_inv h
  | pcmp => exact .issue h fun _ _ h => h.pcmp
  | ld | ldAcq => exact .issue h fun _ _ h => h.loadVec
  | pf | pfSpec => exact .issue h fun _ _ h => h.pfVec
  | st | stRel => exact .issue h fun _ _ h => h.storeVec
  | ldScalar | ldScalarAcq => exact .issue h fun _ _ h => h.loadSca
  | stScalar | stScalarRel => exact .issue h fun _ _ h => h.storeSca
  | atomAdd | atomSub | atomMin | atomMax | atomAnd | atomOr | atomXor | atomExch | atomCas | atomFaddt =>
    exact atom_inv h
  | vadd | vsub | vmul | vmulhs | vmulhu | vmin | vmax | vminu | vmaxu | vand | vor | vxor | vandn | vshl | vshr |
    vsar | vadds | vsubs | vaddus | vsubus => exact vBin_inv h
  | vabs | vneg | vclz | vpopc | vabsScalar | vnegScalar | vclzScalar | vpopcScalar => exact vUn_inv h
  | vaddScalar | vsubScalar | vmulScalar | vmulhsScalar | vmulhuScalar | vminScalar | vmaxScalar | vminuScalar |
    vmaxuScalar | vandScalar | vorScalar | vxorScalar | vandnScalar | vshlScalar | vshrScalar | vsarScalar |
    vaddsScalar | vsubsScalar | vaddusScalar | vsubusScalar => exact vBinS_inv h

theorem execOpB_inv (h : s.Inv) (i : OpB) : (execOpB i s).Inv := by
  unfold execOpB
  cases i with
  | shtag | shpromote | shtry | shfl | bcast | voteAny | voteAll | ballot | alwrd | sread =>
    exact .issue h fun _ _ h => h.retire
  | vfaddF32 | vfsubF32 | vfmulF32 | vfminF32 | vfmaxF32 | vfdivF32 | vfaddPacked | vfsubPacked | vfmulPacked |
    vfminPacked | vfmaxPacked | vfdivPacked => exact vf2_inv h
  | vfmaF32 | vfmsF32 | vfnmaF32 | vfmaPacked | vfmsPacked | vfnmaPacked => exact vf3_inv h
  | vfsqrtF32 | vfrcpF32 | vfrsqF32 | vfabsF32 | vfnegF32 | vfexp2F32 | vflog2F32 | vfsqrtPacked | vfrcpPacked |
    vfrsqPacked | vfabsPacked | vfnegPacked | vfexp2Packed | vflog2Packed | vfsqrtScalar | vfrcpScalar |
    vfrsqScalar | vfabsScalar | vfnegScalar | vfexp2Scalar | vflog2Scalar => exact vf1_inv h
  | vfaddScalar | vfsubScalar | vfmulScalar | vfminScalar | vfmaxScalar | vfdivScalar => exact vf2S_inv h
  | vfmaScalar | vfmsScalar | vfnmaScalar => exact vf3S_inv h
  | vcvt => exact execVcvt_inv h
  | qcvt => exact .issue h fun _ _ h => .ite h.retire (.ite h.park (.ite h.park (.issueTeam h (fun _ _ h => h.qcvt))))
  | shflUp | shflDn | shflXor => exact shufS_inv h
  | vredAdd | vredMin | vredMax | vredMinu | vredMaxu | vredAnd | vredOr | vredXor => exact vredI_inv h
  | vredAddF32 | vredMinF32 | vredMaxF32 => exact vredF_inv h
  | vscanAdd | vscanMin | vscanMax | vscanMinu | vscanMaxu | vscanAnd | vscanOr | vscanXor => exact vscanI_inv h
  | vscanAddF32 | vscanMinF32 | vscanMaxF32 => exact vscanF_inv h
  | barG => exact .issue h fun _ _ h => .ite h.arrive h.park
  | barC | barL => exact .issue h fun _ _ h => h.arrive
  | fence => exact .issue h fun _ _ h => .ite h.deschedule (.ite (.retire (.ite h.invL1 h)) h.deschedule)
  | wait => exact .issue h fun _ _ h => .ite h.retire h.deschedule
  | tlwait =>
    exact .issue h fun _ _ h => .ite h.park (.ite h.park (.ite (.ite h.deschedule h.invL1.retire) h.deschedule))
  | waita => exact execWaita_inv h
  | rdenter => exact .issue h fun _ _ h => .ite h.park (.retire (.ite h.effect.invL1 h.effect))
  | rdexit => exact .issue h fun _ _ h => .ite h.park (.ite (.ite h.deschedule h.of_mem.retire) h.retire)
  | wround => exact execWround_inv h
  | dfree => exact execDfree_inv h
  | cpy | cpy2d => exact .issue h fun _ _ h => h.copy
  | cpyg => exact execCpyg_inv h
  | qputMemory => exact execQputMemory_inv h
  | qputRegister => exact execQputRegister_inv h
  | qgetVector => exact execQgetVector_inv h
  | qgetScalar => exact execQgetScalar_inv h
  | tlread => exact .issue h fun _ _ h => .ite h.park h.effect.retire
  | tfetchC => exact execTfetchC_inv h
  | tfetchQ => exact execTfetchQ_inv h
  | coll => exact execColl_inv h
  | mma128x128 | mma128x64 | mma64x128 | mma64x64 | mma32x128 | mma128x32 => exact .issue h fun _ _ h => h.mma
  | accz => exact .issue h fun _ _ h => h.setTile.startTile
  | accld => exact execAccld_inv h
  | accst => exact execAccst_inv h
  | accmv => exact execAccmv_inv h
  | accovx => exact .issue h fun _ _ h => .ite h.deschedule (.retire (.ite h.modTile h))
  | tspawn => exact execTspawn_inv h
  | tspawnRel => exact execTspawnRel_inv h
  | frd => exact execFrd_inv h
  | fwr => exact execFwr_inv h
  | fwrClr => exact execFwrClr_inv h
  | lpost => exact execLpost_inv h
  | give | claim => exact .issue h fun _ _ h => .ite h.modGroup.retire h.retire
  | csrrd => exact execCsrrd_inv h
  | csrwr => exact execCsrwr_inv h
  | tlbinv => exact execTlbinv_inv h
  | caprd => exact .issue h fun _ _ h => .ite h.park h.retire
  | hreg => exact execHreg_inv h
  | pkrd | pkwr | pkres | pkretry | pkredir | pkkill => exact .issue h fun _ _ h => h.pk

theorem execEv_inv (h : s.Inv) (i : Ev) : (execEv i s).Inv := by
  unfold execEv
  cases i with
  | clauseIssue => exact execClauseIssue_inv h
  | preEmption => exact execPreEmption_inv h
  | swapIn => exact execSwapIn_inv h
  | faultTaskRaise => exact execFaultTaskRaise_inv h
  | pendingFaultTaskSend => exact execPendingFaultTaskSend_inv h
  | faultBankFullRefusal => exact execFaultBankFullRefusal_inv h
  | deckDispatch => exact execDeckDispatch_inv h
  | taskStart => exact execTaskStart_inv h
  | deckAging | capOffsetWrite | modulePowerLimit => exact .next h.of_mem
  | taskDeadlineExpiry => exact execTaskDeadlineExpiry_inv h
  | recordDeadlineExpiry => exact execRecordDeadlineExpiry_inv h
  | faultTaskDeadlineExpiry => exact execFaultTaskDeadlineExpiry_inv h
  | runBudgetExpiry => exact execRunBudgetExpiry_inv h
  | disableBudgetExpiry => exact execDisableBudgetExpiry_inv h
  | barrierWatchdogExpiry => exact execBarrierWatchdogExpiry_inv h
  | stalemate =>
    refine .ite (.next h) (.ite (.next ?_) (.next ?_))
    · exact .foldl (fun _ _ h => h.askReset) h.modPart
    · exact .foldl (fun _ _ h => h.stallCtx) h.modPart
  | contextReset => exact .next h.askReset
  | contextResetProgress => exact execContextResetProgress_inv h
  | contextEnable | contextDisable => exact .next h.setCtl
  | partitionEnable => exact .ite (.next h) (.next h.setPart)
  | partitionSeal => exact .ite (.next h.setPart) (.next h)
  | partitionDisable => exact .next h.setPart
  | hRangeGrant => exact .next h.setRange
  | reclaimGroupDesignate => exact .next h.setRq
  | groupOverflowWrite => exact .ite (.next h.setOv) (.next h)
  | fabannWrite => exact .next h.setFabann
  | launchQueueEnable | launchQueueDisable => exact .next h.setLq
  | frontEndMonitorWake => exact execFrontEndMonitorWake_inv h
  | commandSeqReread => exact execCommandSeqReread_inv h
  | launch | ib | pred | loop | wrmem | waitmem | ffence | nopPacket | link => exact .next h.pktRun
  | tlsig => exact .next h.pktRun.feSig
  | postedLaunchHandover => exact .next h.handPosted
  | placementStep => exact execPlacementStep_inv h
  | groupEnd => exact execGroupEnd_inv h
  | barrierComplete => exact execBarrierComplete_inv h
  | roundComplete => exact execRoundComplete_inv h
  | schedulerRoundStart => exact .ite (.next h.beginRound) (.next h)
  | dfreeQueueingComplete => exact execDfreeQueueingComplete_inv h
  | reclaimQueueFill => exact .next h.reclaim
  | waitaWake => exact execWaitaWake_inv h
  | spuriousWake => exact execSpuriousWake_inv h
  | waitConditionMet => exact execWaitConditionMet_inv h
  | lineRequestReturn => exact execLineRequestReturn_inv h
  | fabricBatchSend => exact .ite (.next h.splitBatches.sendBatches) (.next h)
  | queueSlotFill => exact .next h.fillSlot
  | hardwarePrefetch => exact execHardwarePrefetch_inv h
  | copySegmentComplete => exact execCopySegmentComplete_inv h
  | tileOperationComplete => exact execTileOperationComplete_inv h
  | tilePinGrant => exact execTilePinGrant_inv h
  | matrixEngineReset =>
    refine .ite (.next (.foldl (fun _ _ h => h.resetTeam) ?_)) (.next h)
    exact .foldl (fun _ _ h => h.modTile.modTile.voidOp.endTile) h
  | collectiveComplete => exact execCollectiveComplete_inv h
  | atomicServicePerform => exact execAtomicServicePerform_inv h
  | readRequest | write | atomicRequest => exact .next h.request
  | readReply | atomicReply => exact .next (.arrive_ h (fun _ h => h.replied))
  | acknowledgement =>
    refine .ite (.next h) (.ite (.next h.dropPkt) (.next (.sendBatches (.pump ?_))))
    exact .foldl (fun _ _ h => h.retirePkt) h.modPeer
  | faultLaneMessage => exact execFaultLaneMessage_inv h
  | recoveryAnnouncement => exact .next (.arrive_ h (fun _ h => .modPeer (.ite h.gotPkt.retime h.gotPkt)))
  | announcementBoundExpiry => exact .ite (.next h) (.next h.retime.modPeer.sendBatches)
  | fabricAckTrigger => exact .ite (.next h.sendAcks) (.next h)
  | fabricRetransmit => exact execFabricRetransmit_inv h
  | linkTimeout =>
    refine .ite (.next h.lateRequests.lateTasks) (.next (.sendBatches ?_))
    exact .foldl (fun _ _ h => h.failRid) h.lateRequests.lateTasks.modPeer
  | portRetrain => exact .next h.announce.of_mem
  | hostModuleReset => exact .next h.announce
  | hostBarAccess => exact execHostBarAccess_inv h
  | sendQueueWork => exact execSendQueueWork_inv h
  | rdmaCompletion => exact execRdmaCompletion_inv h
  | rdmaTimeout => exact execRdmaTimeout_inv h
  | rdmaInbound => exact execRdmaInbound_inv h
  | powerOn => exact execPowerOn_inv
  | patrolScrub => exact execPatrolScrub_inv h
  | scoreHalving | portTrainingComplete => exact .ite (.next h) (.next h.of_mem)
  | coreVacateMigrate => exact execCoreVacateMigrate_inv h
  | testVacateTimeout => exact execTestVacateTimeout_inv h
  | testRetry => exact execTestRetry_inv h
  | targetedTestEnd => exact execTargetedTestEnd_inv h
  | traceBlockClose => exact .ite (.next h) (.next h.closeBlock)
  | ideKmRequest => exact .ite (.next h.of_mem) (.next h)

theorem runCode_inv (h : s.Inv) (c : Code) : (runCode c s).Inv := by
  rw [runCode_eq_execCode]
  cases c with
  | a i => exact execOpA_inv h i
  | b i => exact execOpB_inv h i
  | ev e => exact execEv_inv h e

theorem finish_inv (s0 : State) {o : Out} (h : o.Inv) : (finish s0 o).Inv := by
  cases o with
  | next s => exact State.Inv.closeStep h
  | fault | refused => trivial

theorem State.Inv.runTeam (h : s.Inv) {t : Team} : (s.runTeam t).Inv := by
  unfold State.runTeam
  split
  case h_1 e _ => exact runCode_inv h _
  case h_2 =>
    have hfetch := h.fetchNext (t := t)
    split
    case h_1 c e => exact runCode_inv (hfetch.of_fst e) c
    case h_2 e => exact hfetch.of_fst e

theorem State.Inv.autoStep (h : s.Inv) : s.autoStep.Inv := by
  unfold State.autoStep
  split
  · exact h.runTeam
  split
  · exact runCode_inv h _
  split
  · exact runCode_inv h _
  · exact .next h.tick

theorem State.Inv.turn (h : s.Inv) {k : Nat} : (s.turn k).Inv := by
  unfold State.turn
  split
  · exact .next h
  · exact .ite (State.Inv.runTeam h.of_mem) (.ite (.next h.resume) (.next h))

theorem State.Inv.input (h : s.Inv) (x : Input) : (s.input x).Inv := by
  cases x with
  | event e => exact runCode_inv h _
  | turn k => exact h.turn
  | elapse | roundDone | hostAtomic | misfire => exact .next h.of_mem
  | upset => exact .next h.modTeam
  | evict => exact .next h.evict
  | corrected => exact .next h.correctedErr
  | parity => exact .next h.l1Parity
  | storeErr => exact .next h.storeError
  | peerSync => exact .next h.peerSync
  | peerTlbinv => exact .next h.peerFlush
  | drainDone => exact .next h.drained
  | peerIcinv => exact .next h.dropCode

theorem step_inv (h : s.Inv) : Out.Inv (step s) := by
  unfold step
  refine finish_inv s ?_
  split
  · exact State.Inv.input h.of_mem _
  · exact h.autoStep

/-- Settles O7: what a step does is an input, an event or an instruction, each of which keeps memory canonical, and so does what
every step closes with. -/
theorem stepKeepsMemoryCanonical : Obligations.StepKeepsMemoryCanonical := by
  intro s s' h e
  have hstep := step_inv h
  rwa [e] at hstep

end Sys2Proof.Machine
end

section
/-! What the lanes of a vector float instruction compute, and where it traps (O28). -/

namespace Sys2Proof.Machine

/-! ### The first trap (R195, R468) -/

/-- The lowest one bit is the first of those looked at that is set. -/
theorem lowBit_eq_some {n i x c : Nat} (hc : c < n) (hset : x.testBit c = true) (hlow : ∀ b, b < c → x.testBit b = false) :
    lowBit n i x = some (i + c) := by
  induction n generalizing i x c with
  | zero => omega
  | succ n ih =>
    cases c with
    | zero => exact if_pos (by simpa [Nat.testBit_zero] using hset)
    | succ c =>
      have heven : ¬ x % 2 = 1 := by simpa [Nat.testBit_zero] using hlow 0 (by omega)
      have hrest : lowBit n (i + 1) (x / 2) = some (i + 1 + c) :=
        ih (by omega) (by rwa [← Nat.testBit_succ]) fun b hb => by rw [← Nat.testBit_succ]; exact hlow _ (by omega)
      rw [lowBit, if_neg heven, hrest, Nat.add_right_comm, Nat.add_assoc]

/-- A lane of a mask below WIDTH raises a condition, by the flags of the elements of each lane. -/
def Team.Raises (t : Team) (act : Mask) (g : Nat → List Nat) (c l : Nat) : Prop :=
  l < t.width ∧ act.getLsbD l = true ∧ ∃ x ∈ g l, x.testBit c = true

/-- The lanes computed bear their numbers and the flags listed. -/
def Team.LanesHold (t : Team) (act : Mask) (F : Nat → FLane) (g : Nat → List Nat) : Prop :=
  ∀ l, l < t.width → act.getLsbD l = true → (F l).lane = l ∧ (F l).fl = g l

section
variable {t : Team} {act : Mask} {F : Nat → FLane} {g : Nat → List Nat} (hF : t.LanesHold act F g)
include hF

/-- A lane computed has a condition among its flags when it raises it. -/
theorem Team.LanesHold.testBit_all {c l : Nat} (hl : l < t.width) (hact : act.getLsbD l = true) :
    (F l).all.testBit c = true ↔ t.Raises act g c l := by
  rw [FLane.testBit_all, (hF l hl hact).2]
  exact ⟨fun h => ⟨hl, hact, h⟩, fun ⟨_, _, h⟩ => h⟩

/-- The map of a condition holds the lanes that raise it (R468). -/
theorem Team.LanesHold.getLsbD_condMap (c k : Nat) :
    (condMap ((t.lanesOf act).map F) c).getLsbD k = true ↔ t.Raises act g c k := by
  by_cases hk : k < 1024
  · rw [condMap, getLsbD_gather (fun x : FLane => x.all.testBit c) (fun x => x.lane) _ hk]
    simp only [List.mem_map, exists_exists_and_eq_and, Team.mem_lanesOf]
    constructor
    · rintro ⟨l, ⟨hl, hact⟩, hall, hlane⟩
      rw [(hF l hl hact).1] at hlane
      exact hlane ▸ (hF.testBit_all hl hact).mp hall
    · rintro ⟨hkw, hact, hx⟩
      exact ⟨k, ⟨hkw, hact⟩, (hF.testBit_all hkw hact).mpr ⟨hkw, hact, hx⟩, (hF k hkw hact).1⟩
  · have hout : ∀ x : Mask, x.getLsbD k ≠ true := fun x => by simp [BitVec.getLsbD_of_ge x k (by omega)]
    exact iff_of_false (hout _) fun ⟨_, hact, _⟩ => hout _ hact

/-- The lowest lane that raises a condition is the first found. -/
theorem Team.LanesHold.find_lowest {c l : Nat} (hit : t.Raises act g c l) (hlow : ∀ k, k < l → ¬ t.Raises act g c k) :
    ((t.lanesOf act).map F).find? (fun x => x.all.testBit c) = some (F l) := by
  have ⟨hl, hact, _⟩ := hit
  rw [List.find?_map, Team.lanesOf, List.find?_filter, List.find?_range_eq_some.mpr ⟨?_, ?_, ?_⟩, Option.map_some]
  · simpa [hact] using (hF.testBit_all hl hact).mpr hit
  · simpa using hl
  · intro k hk
    have hkw : k < t.width := hk.trans hl
    cases hon : act.getLsbD k with
    | false => simp
    | true => simpa using fun h => hlow k hk ((hF.testBit_all hkw hon).mp h)

/-- The first condition that is enabled and raised names the trap, its lowest lane and first element the detail (R195, R468). -/
theorem Team.LanesHold.traps {fpctl : Wd} {c l : Nat} (hc : c < 5) (hen : fpctl.getLsbD (8 + c) = true)
    (hit : t.Raises act g c l) (hlow : ∀ k, k < l → ¬ t.Raises act g c k)
    (hfirst : ∀ b, b < c → fpctl.getLsbD (8 + b) = true → ∀ k, ¬ t.Raises act g b k) :
    ∃ fi : FaultInfo, fpTrap fpctl ((t.lanesOf act).map F) = some fi ∧ fi.cls = fpClass c ∧ fi.lane = some l ∧
      fi.elem = (g l).findIdx (·.testBit c) ∧
      ∀ b k, b < 5 → ((fi.fp.getD b 0).getLsbD k = true ↔ t.Raises act g b k) := by
  have hfl : ∀ b, (allFlags ((t.lanesOf act).map F)).testBit b = true ↔ ∃ k, t.Raises act g b k := fun b =>
    t.testBit_allFlags_lanes act (fun k hk hact => (hF k hk hact).2) b
  have hon : ∀ b, b < 5 → (allFlags ((t.lanesOf act).map F) &&& bits fpctl.toNat 12 8).testBit b =
      ((allFlags ((t.lanesOf act).map F)).testBit b && fpctl.getLsbD (8 + b)) := fun b hb => by
    rw [Nat.testBit_and, testBit_bits, decide_eq_true (by omega : b < 12 + 1 - 8), Bool.true_and]
    rfl
  have hclass : lowBit 5 0 (allFlags ((t.lanesOf act).map F) &&& bits fpctl.toNat 12 8) = some c := by
    refine (lowBit_eq_some hc ?_ fun b hb => ?_).trans (by rw [Nat.zero_add])
    · rw [hon c hc, (hfl c).mpr ⟨l, hit⟩, hen]
      rfl
    · rw [hon b (by omega), Bool.and_eq_false_imp]
      intro hraised
      obtain ⟨k, hk⟩ := (hfl b).mp hraised
      exact Bool.eq_false_iff.mpr fun he => hfirst b hb he k hk
  have ⟨hl, hact, _⟩ := hit
  obtain ⟨hlane, hflags⟩ := hF l hl hact
  simp only [fpTrap, hclass, hF.find_lowest hit hlow, Option.map_some]
  refine ⟨_, rfl, rfl, congrArg some hlane, by rw [hflags], fun b k hb => ?_⟩
  rw [← hF.getLsbD_condMap b k, List.getD_eq_getElem _ _ (by simpa using hb), List.getElem_map, List.getElem_range]

end

/-! ### The lanes of a float instruction (R276, R282) -/

/-- Where every source is U a lane reads the values themselves. -/
theorem map_lane_of_allU {vs : List VVal} {ws : List Wd} (h : allU vs = some ws) (l : Nat) : vs.map (·.lane l) = ws := by
  induction vs generalizing ws with
  | nil => simpa [allU] using h
  | cons x xs ih =>
    cases x with
    | u y =>
      obtain ⟨zs, hzs, rfl⟩ : ∃ zs, allU xs = some zs ∧ y :: zs = ws := by simpa [allU] using h
      rw [List.map_cons, ih hzs]
      rfl
    | a b d => simp [allU] at h
    | g ys => simp [allU] at h

/-- The active lanes compute the operation on the lanes of the sources, whatever the shapes. -/
theorem floatLanes_eq (t : Team) (act : Mask) (chk : Option Fmt) (w : Nat) (op : List Wd → Wd × List Nat) (xs : List VVal) :
    ∃ (F : Nat → FLane) (y : VVal), floatLanes t act chk w op xs = ((t.lanesOf act).map F, y) ∧
      t.LanesHold act F (fun l => (op (xs.map (·.lane l))).2) ∧
      ∀ l, l < t.width → act.getLsbD l = true → y.lane l = (op (xs.map (·.lane l))).1 := by
  unfold floatLanes
  cases hU : allU xs with
  | some ws =>
    have hop : ∀ l, op ws = op (xs.map (·.lane l)) := fun l => by rw [map_lane_of_allU hU l]
    exact ⟨_, _, rfl, fun l _ _ => ⟨rfl, congrArg Prod.snd (hop l)⟩, fun l _ _ => congrArg Prod.fst (hop l)⟩
  | none =>
    have hrs : ∀ l, l < t.width → act.getLsbD l = true → ((List.range t.width).map (fun l =>
        if act.getLsbD l then op (xs.map (·.lane l)) else (0, []))).getD l (0, []) = op (xs.map (·.lane l)) :=
      fun l hl hact => by simp [List.getD_eq_getElem?_getD, hl, hact]
    refine ⟨_, _, rfl, fun l hl hact => ⟨rfl, congrArg Prod.snd (hrs l hl hact)⟩, fun l hl hact => ?_⟩
    rw [VVal.g_lane]
    exact (List.getD_map _ (0, []) Prod.fst).trans (congrArg Prod.fst (hrs l hl hact))

/-! ### The instructions -/

/-- That FPCTL governs an instruction adds no check. -/
theorem Info.Plain.float {i : Info} (h : i.Plain) : i.float.Plain := ⟨h.bad, h.pairs, h.tiles, h.fmt, h.xfer, h.eng, h.lvl⟩

section
variable {s : State} {t : Team} {i : Instr} {chk : Option Fmt} {w : Nat} {d a : VReg} {m : Option Msk}
  {rm : Option (BitVec 3)}

theorem exec_vf1 {f : Nat → Nat → Nat × Nat} (hhas : t.has [a, d]) (h : Ready s t 1 [.v a, .v d])
    (hi : ∀ s, exec i s = vf1 chk w f d a m rm s) :
    exec i s = .next (s.vfloat t chk d m w (on1 (f (t.modeN rm))) [t.v a]).tick :=
  (hi s).trans (issue_plain (i := (vInfo [d] [a] m).float) h (vInfo_plain ..).float hhas _)

theorem exec_vf2 {b : VReg} {f : Nat → Nat → Nat → Nat × Nat} (hhas : t.has [a, b, d]) (h : Ready s t 1 [.v a, .v b, .v d])
    (hi : ∀ s, exec i s = vf2 chk w f d a b m rm s) :
    exec i s = .next (s.vfloat t chk d m w (on2 (f (t.modeN rm))) [t.v a, t.v b]).tick :=
  (hi s).trans (issue_plain (i := (vInfo [d] [a, b] m).float) h (vInfo_plain ..).float hhas _)

theorem exec_vf3 {b : VReg} {e : Option VReg} {f : Nat → Nat → Nat → Nat → Nat × Nat} (hhas : t.has [a, b, e.getD d, d])
    (h : Ready s t 1 [.v a, .v b, .v (e.getD d), .v d]) (hi : ∀ s, exec i s = vf3 chk w f d a b e m rm s) :
    exec i s = .next (s.vfloat t chk d m w (on3 (f (t.modeN rm))) [t.v a, t.v b, t.v (e.getD d)]).tick :=
  (hi s).trans (issue_plain (i := (vInfo [d] [a, b, e.getD d] m).float) h (vInfo_plain ..).float hhas _)

theorem exec_vf2S {c : SOrI} {f : Nat → Nat → Nat → Nat × Nat} (hhas : t.has [a, d])
    (h : Ready s t 1 ((sOrIReg c).map .s ++ [.v a, .v d])) (hi : ∀ s, exec i s = vf2S chk f d a c m rm s) :
    exec i s = .next (s.vfloat t chk d m 32 (on2 (f (t.modeN rm))) [t.v a, .u (t.sOrI c)]).tick :=
  (hi s).trans (issue_plain (i := { (vInfo [d] [a] m).float with sr := sOrIReg c })
    (by simpa [Info.dests, vInfo, Info.float] using h) ⟨rfl, rfl, rfl, rfl, rfl, rfl, rfl⟩ hhas _)

theorem exec_vf3S {c : SOrI} {e : Option VReg} {f : Nat → Nat → Nat → Nat → Nat × Nat} (hhas : t.has [a, e.getD d, d])
    (h : Ready s t 1 ((sOrIReg c).map .s ++ [.v a, .v (e.getD d), .v d])) (hi : ∀ s, exec i s = vf3S chk f d a c e m rm s) :
    exec i s = .next (s.vfloat t chk d m 32 (on3 (f (t.modeN rm))) [t.v a, .u (t.sOrI c), t.v (e.getD d)]).tick :=
  (hi s).trans (issue_plain (i := { (vInfo [d] [a, e.getD d] m).float with sr := sOrIReg c })
    (by simpa [Info.dests, vInfo, Info.float] using h) ⟨rfl, rfl, rfl, rfl, rfl, rfl, rfl⟩ hhas _)

/-- With no upset of a shadow to come, a vector float instruction traps by the flags of its lanes (R195). -/
theorem trapsFloat_of_vfloat {op : List Nat → Nat × Nat} {xs : List VVal} (hs : s.rel.shadow = [])
    (hi : exec i s = .next (s.vfloat t chk d m w op xs).tick) :
    TrapsFloat i s t d m (fun l => fLane w op (xs.map (·.lane l))) := by
  unfold TrapsFloat
  intro hit c l hc hen hhit hlow hfirst
  obtain ⟨F, y, hlanes, hF, -⟩ := floatLanes_eq t (t.active m) chk w (fLane w op) xs
  obtain ⟨fi, htrap, hfault⟩ := hF.traps hc hen hhit hlow hfirst
  refine ⟨fi, ?_, hfault⟩
  rw [hi, State.vfloat, hlanes, State.fpDone_traps (State.misfired_of_no_shadow hs t _)
    (State.shadowMet_of_no_shadow hs t _) htrap]

end

/-- Settles O28: each instruction is one float operation on the lanes of its sources, and traps by the flags of those lanes. -/
theorem floatTrapParks : Obligations.FloatTrapParks := by
  intro s t tb d a b c e m rm hhas hs
  have hone : t.has [a, d] := hhas.mono (by simp)
  have htwo : t.has [a, e.getD d, d] := hhas.mono (by simp)
  have hall (hb : t.has [b]) : t.has ([b] ++ [d, a, e.getD d]) := List.forall_mem_append.mpr ⟨hb, hhas⟩
  have un {i : Instr} {chk : Option Fmt} {w : Nat} {f : Nat → Nat → Nat × Nat} (h : Ready s t 1 [.v a, .v d])
      (hi : ∀ s, exec i s = vf1 chk w f d a m rm s) := trapsFloat_of_vfloat hs (exec_vf1 hone h hi)
  have bin {i : Instr} {chk : Option Fmt} {w : Nat} {f : Nat → Nat → Nat → Nat × Nat} (hb : t.has [b])
      (h : Ready s t 1 [.v a, .v b, .v d]) (hi : ∀ s, exec i s = vf2 chk w f d a b m rm s) :=
    trapsFloat_of_vfloat hs (exec_vf2 ((hall hb).mono (by simp)) h hi)
  have ter {i : Instr} {chk : Option Fmt} {w : Nat} {f : Nat → Nat → Nat → Nat → Nat × Nat} (hb : t.has [b])
      (h : Ready s t 1 [.v a, .v b, .v (e.getD d), .v d]) (hi : ∀ s, exec i s = vf3 chk w f d a b e m rm s) :=
    trapsFloat_of_vfloat hs (exec_vf3 ((hall hb).mono (by simp)) h hi)
  have binS {i : Instr} {chk : Option Fmt} {f : Nat → Nat → Nat → Nat × Nat}
      (h : Ready s t 1 ((sOrIReg c).map .s ++ [.v a, .v d])) (hi : ∀ s, exec i s = vf2S chk f d a c m rm s) :=
    trapsFloat_of_vfloat hs (exec_vf2S hone h hi)
  have terS {i : Instr} {chk : Option Fmt} {f : Nat → Nat → Nat → Nat → Nat × Nat}
      (h : Ready s t 1 ((sOrIReg c).map .s ++ [.v a, .v (e.getD d), .v d])) (hi : ∀ s, exec i s = vf3S chk f d a c e m rm s) :=
    trapsFloat_of_vfloat hs (exec_vf3S htwo h hi)
  refine ⟨fun hb => ⟨fun h => ?binF32, fun h => ?terF32, fun h => ?unF32⟩,
    fun hb => ⟨fun h => ?binPacked, fun h => ?terPacked, fun h => ?unPacked⟩,
    fun h => ?binScalar, fun h => ?terScalar, fun h => ?unScalar⟩
  case binF32 | binPacked =>
    exact ⟨bin hb h fun _ => rfl, bin hb h fun _ => rfl, bin hb h fun _ => rfl, bin hb h fun _ => rfl, bin hb h fun _ => rfl,
      bin hb h fun _ => rfl⟩
  case terF32 | terPacked => exact ⟨ter hb h fun _ => rfl, ter hb h fun _ => rfl, ter hb h fun _ => rfl⟩
  case unF32 | unPacked | unScalar =>
    exact ⟨un h fun _ => rfl, un h fun _ => rfl, un h fun _ => rfl, un h fun _ => rfl, un h fun _ => rfl, un h fun _ => rfl,
      un h fun _ => rfl⟩
  case binScalar =>
    exact ⟨binS h fun _ => rfl, binS h fun _ => rfl, binS h fun _ => rfl, binS h fun _ => rfl, binS h fun _ => rfl,
      binS h fun _ => rfl⟩
  case terScalar => exact ⟨terS h fun _ => rfl, terS h fun _ => rfl, terS h fun _ => rfl⟩

end Sys2Proof.Machine
end

section
/-! Scans of integers, and reductions and scans on F32 with no trap enabled (O31). -/

namespace Sys2Proof.Machine

/-! ### The value of a scan -/

/-- A lane of a scan's result is the value the scan pairs with it. -/
theorem lane_scanVal {w : Nat} {xs : List (Nat × Wd)} {l : Nat} {x : Wd} (hl : l < w)
    (h : xs.find? (fun p => p.1 == l) = some (l, x)) : (scanVal w xs).lane l = x := by
  rw [scanVal, VVal.g_lane, List.getD_eq_getElem _ _ (by simpa using hl), List.getElem_map, List.getElem_range, h]
  rfl

/-- The lanes of a mask are in ascending order. -/
theorem Team.lanesOf_ascending (t : Team) (act : Mask) : (t.lanesOf act).Pairwise (· < ·) :=
  List.pairwise_lt_range.filter _

/-! ### Integer scans (R297) -/

/-- A scan over ascending lanes pairs each with the combination of those up to and including it. -/
theorem find_scanI (op : IOp) (v : VVal) {ls : List Nat} (hls : ls.Pairwise (· < ·)) (z : Wd) {l : Nat} (hl : l ∈ ls) :
    (scanI op v ls z).find? (fun p => p.1 == l) =
      some (l, (ls.filter (· ≤ l)).foldl (fun x k => op.f x (v.lane k)) z) := by
  induction ls generalizing z with
  | nil => cases hl
  | cons k ks ih =>
    obtain ⟨hk, hks⟩ := List.pairwise_cons.mp hls
    rcases List.mem_cons.mp hl with rfl | hmem
    · have hrest : ks.filter (· ≤ l) = [] := List.filter_eq_nil_iff.mpr fun j hj => by simpa using hk j hj
      simp [scanI, hrest]
    · have hlt := hk l hmem
      rw [scanI, List.find?_cons_of_neg (by simpa using hlt.ne), ih hks _ hmem, List.filter_cons_of_pos (by simpa using hlt.le),
        List.foldl_cons]

/-- An operation that keeps the shape U gives one value over lanes that all hold it. -/
def IOp.KeepsUniform (op : IOp) : Prop := op.uni = true → ∀ x, op.f op.idn x = x ∧ op.f x x = x

theorem foldl_same {f : Wd → Wd → Wd} {x : Wd} (hx : f x x = x) (ls : List Nat) : ls.foldl (fun y _ => f y x) x = x := by
  induction ls with
  | nil => rfl
  | cons l ls ih => rw [List.foldl_cons, hx, ih]

theorem IOp.KeepsUniform.foldl {op : IOp} (h : op.KeepsUniform) (hu : op.uni = true) (x : Wd) {ls : List Nat} (hls : ls ≠ []) :
    ls.foldl (fun y _ => op.f y x) op.idn = x := by
  obtain ⟨hidn, hx⟩ := h hu x
  cases ls with
  | nil => exact absurd rfl hls
  | cons l ls => rw [List.foldl_cons, hidn, foldl_same hx]

/-- An active lane of an integer scan, whatever the shapes. -/
theorem Team.lane_scanRes (t : Team) {op : IOp} (hop : op.KeepsUniform) (a : VReg) (m : Option Msk) {l : Nat} (hl : l < t.width)
    (hact : (t.active m).getLsbD l = true) : (t.scanRes op a m).lane l =
      ((t.lanesOf (t.active m)).filter (· ≤ l)).foldl (fun x k => op.f x ((t.v a).lane k)) op.idn := by
  have hmem : l ∈ t.lanesOf (t.active m) := (t.mem_lanesOf _ l).mpr ⟨hl, hact⟩
  have hscan := fun v => lane_scanVal hl (find_scanI op v (t.lanesOf_ascending (t.active m)) op.idn hmem)
  unfold Team.scanRes
  split
  · next x hx =>
    rw [hx]
    split
    · next hu =>
      have hne : (t.lanesOf (t.active m)).filter (· ≤ l) ≠ [] :=
        List.ne_nil_of_mem (List.mem_filter.mpr ⟨hmem, by simp⟩)
      exact (hop.foldl (Bool.and_eq_true _ _ ▸ hu).1 x hne).symm
    · exact hscan _
  · exact hscan _

theorem ioMin_f : ioMin.f = fun x y => if y.toInt < x.toInt then y else x := by
  funext x y; simp [ioMin, BitVec.slt_iff_toInt_lt]

theorem ioMax_f : ioMax.f = fun x y => if x.toInt < y.toInt then y else x := by
  funext x y; simp [ioMax, BitVec.slt_iff_toInt_lt]

theorem ioMinu_f : ioMinu.f = fun x y => if y.toNat < x.toNat then y else x := by
  funext x y; simp [ioMinu, BitVec.ult_iff_toNat_lt]

theorem ioMaxu_f : ioMaxu.f = fun x y => if x.toNat < y.toNat then y else x := by
  funext x y; simp [ioMaxu, BitVec.ult_iff_toNat_lt]

/-- An operation that picks one of its operands keeps the shape U when its identity is never picked over another value. -/
theorem keepsUniform_of_pick {op : IOp} {r : Wd → Wd → Prop} [DecidableRel r] (hf : op.f = fun x y => if r x y then y else x)
    (hidn : ∀ x, r op.idn x ∨ x = op.idn) : op.KeepsUniform := fun _ x => by
  rw [hf]
  exact ⟨ite_eq_left_iff.mpr fun h => ((hidn x).resolve_left h).symm, ite_self _⟩

theorem keepsUniform_ioMin : ioMin.KeepsUniform := keepsUniform_of_pick ioMin_f fun x => by
  have hx : x.toInt ≤ ioMin.idn.toInt := by
    have := BitVec.toInt_lt (x := x)
    rw [show ioMin.idn.toInt = 2 ^ 31 - 1 by decide]
    omega
  exact (lt_or_eq_of_le hx).imp_right BitVec.eq_of_toInt_eq

theorem keepsUniform_ioMax : ioMax.KeepsUniform := keepsUniform_of_pick ioMax_f fun x => by
  have hx : ioMax.idn.toInt ≤ x.toInt := by
    have := BitVec.le_toInt (x := x)
    rw [show ioMax.idn.toInt = -2 ^ 31 by decide]
    omega
  exact (lt_or_eq_of_le' hx).imp_right BitVec.eq_of_toInt_eq

theorem keepsUniform_ioMinu : ioMinu.KeepsUniform := keepsUniform_of_pick ioMinu_f fun x => by
  have hx : x.toNat ≤ ioMinu.idn.toNat := Nat.le_of_lt_succ x.isLt
  exact (lt_or_eq_of_le hx).imp_right BitVec.eq_of_toNat_eq

theorem keepsUniform_ioMaxu : ioMaxu.KeepsUniform := keepsUniform_of_pick ioMaxu_f fun x => by
  have hx : ioMaxu.idn.toNat ≤ x.toNat := Nat.zero_le _
  exact (lt_or_eq_of_le' hx).imp_right BitVec.eq_of_toNat_eq

theorem keepsUniform_ioAnd : ioAnd.KeepsUniform := fun _ _ => ⟨BitVec.allOnes_and, BitVec.and_self⟩

theorem keepsUniform_ioOr : ioOr.KeepsUniform := fun _ _ => ⟨BitVec.zero_or, BitVec.or_self⟩

/-- Nothing is asked of an operation whose scan is G even from a source of shape U, as of a sum. -/
theorem keepsUniform_of_not_uni {op : IOp} (h : op.uni = false) : op.KeepsUniform := fun hu => by simp [h] at hu

/-- An integer scan gives each active lane the combination of the active lanes up to it. -/
theorem exec_vscanI {s : State} {t : Team} {i : Instr} {op : IOp} {f : Wd → Wd → Wd} {d a : VReg} {m : Option Msk}
    (hop : op.KeepsUniform) (hf : op.f = f) (hhas : t.has [a, d]) (h : Ready s t 1 [.v a, .v d])
    (hi : ∀ s, exec i s = vscanI op d a m s) :
    ∃ y : VVal, exec i s = .next (s.retire (t.writeMsk d m y)).tick ∧
      ∀ l, l < t.width → (t.active m).getLsbD l → y.lane l =
        ((t.lanesOf (t.active m)).filter (· ≤ l)).foldl (fun (x : Wd) k => f x ((t.v a).lane k)) op.idn :=
  ⟨_, (hi s).trans (issue_plain (i := vInfo [d] [a] m) h (vInfo_plain ..) hhas _),
    fun _ hl hact => hf ▸ t.lane_scanRes hop a m hl hact⟩

/-! ### Float reductions and scans (R298) -/

/-- A step of a float reduction or scan: its lane, the value after it and its flags. -/
def Team.fStep (t : Team) (k : Nat) (a : VReg) (ls : List Nat) (n : Nat) : Nat × Wd × Nat :=
  (ls.getD n 0, BitVec.ofNat 32 (t.fAcc k a ls (n + 1)),
    (fComb k (t.modeN none) (t.fAcc k a ls n) ((t.v a).lane (ls.getD n 0)).toNat).2)

/-- The steps of a running combination from a start value, by number. -/
theorem scanF_eq (f : Nat → Nat → Nat × Nat) (v : VVal) (ls : List Nat) (z : Nat) :
    scanF f false v ls z = (List.range ls.length).map (fun n =>
      (ls.getD n 0, BitVec.ofNat 32 ((ls.take (n + 1)).foldl (fun x l => (f x (v.lane l).toNat).1) z),
        (f ((ls.take n).foldl (fun x l => (f x (v.lane l).toNat).1) z) (v.lane (ls.getD n 0)).toNat).2)) := by
  induction ls generalizing z with
  | nil => rfl
  | cons l ls ih =>
    rw [List.length_cons, List.range_succ_eq_map, List.map_cons, List.map_map, scanF, ih]
    rfl

/-- The steps over the active lanes are those of the running combination (R298, R279). -/
theorem Team.fSteps_eq (t : Team) (k : Nat) (a : VReg) (m : Option Msk) :
    t.fSteps k a m =
      (List.range (t.lanesOf (t.active m)).length).map (t.fStep k a (t.lanesOf (t.active m))) := by
  have hstart : t.fSteps k a m = scanF (fComb k (t.modeN none)) false (t.v a) (t.lanesOf (t.active m))
      (if k = 0 then 0x80000000 else ((t.v a).lane ((t.lanesOf (t.active m)).headD 0)).toNat) := by
    rw [Team.fSteps]
    by_cases hk : k = 0
    · subst hk; rfl
    · rw [if_neg hk, show (k != 0) = true by simpa using hk]
      cases t.lanesOf (t.active m) <;> rfl
  rw [hstart, scanF_eq]
  rfl

/-- The flags of all steps, and no others. -/
theorem Team.stepFlags_allFlags (t : Team) (k : Nat) (a : VReg) (m : Option Msk) :
    t.StepFlags k a (t.lanesOf (t.active m)) (allFlags (stepLanes k (t.fSteps k a m))) := by
  intro b _
  rw [testBit_allFlags, t.fSteps_eq]
  simp [stepLanes, Team.fStep]

/-- The value after the last step, or the one over no lane. -/
theorem Team.lastOr_fSteps (t : Team) (k : Nat) (a : VReg) (m : Option Msk) :
    lastOr ((t.fSteps k a m).map (fun p => (p.1, p.2.1))) (fEmpty k) =
      if t.lanesOf (t.active m) = [] then fEmpty k
      else BitVec.ofNat 32 (t.fAcc k a (t.lanesOf (t.active m)) (t.lanesOf (t.active m)).length) := by
  rw [t.fSteps_eq]
  generalize t.lanesOf (t.active m) = ls
  cases ls with
  | nil => rfl
  | cons l ls =>
    rw [if_neg (List.cons_ne_nil l ls), List.length_cons, List.range_succ, lastOr]
    simp [Team.fStep]

/-- The lane of a step holds the value after it. -/
theorem Team.lane_fSteps (t : Team) (k : Nat) (a : VReg) (m : Option Msk) {n : Nat}
    (hn : n < (t.lanesOf (t.active m)).length) :
    (scanVal t.width ((t.fSteps k a m).map (fun p => (p.1, p.2.1)))).lane ((t.lanesOf (t.active m)).getD n 0) =
      BitVec.ofNat 32 (t.fAcc k a (t.lanesOf (t.active m)) (n + 1)) := by
  have hasc := t.lanesOf_ascending (t.active m)
  have hlane : (t.lanesOf (t.active m)).getD n 0 ∈ t.lanesOf (t.active m) := by
    rw [List.getD_eq_getElem _ _ hn]; exact List.getElem_mem hn
  refine lane_scanVal ((t.mem_lanesOf _ _).mp hlane).1 ?_
  rw [t.fSteps_eq, List.map_map, List.find?_map, List.find?_range_eq_some.mpr ⟨?_, ?_, ?_⟩]
  · rfl
  · simp [Team.fStep]
  · simpa using hn
  · intro j hj
    have hne : (t.lanesOf (t.active m)).getD j 0 ≠ (t.lanesOf (t.active m)).getD n 0 := by
      rw [List.getD_eq_getElem _ _ hn, List.getD_eq_getElem _ _ (hj.trans hn)]
      exact (List.pairwise_iff_getElem.mp hasc j n _ hn hj).ne
    simpa [Team.fStep] using hne

theorem xInfo_plain (d : SReg) (src : List VReg) (p : List PReg) {m : Option Msk} (hm : mskNoZ m = true) :
    (xInfo d src p m).Plain := ⟨if_pos hm, rfl, rfl, rfl, rfl, rfl, rfl⟩

section
variable {s : State} {t : Team} {i : Instr} {a : VReg} {m : Option Msk} (k : Nat) (hs : s.rel.shadow = []) (ht : t.noTrap)
include hs ht

/-- With no trap and no upset a float reduction raises the flags of its steps and writes the value after the last. -/
theorem exec_vredF {d : SReg} (hm : mskNoZ m = true) (hhas : t.has [a]) (h : Ready s t 1 [.s d, .v a])
    (hi : ∀ s, exec i s = vredF k d a m s) :
    ∃ fl : Nat, t.StepFlags k a (t.lanesOf (t.active m)) fl ∧ exec i s = .next (s.retire ((t.raise fl).setS d
      ((if t.lanesOf (t.active m) = [] then fEmpty k
        else BitVec.ofNat 32 (t.fAcc k a (t.lanesOf (t.active m)) (t.lanesOf (t.active m)).length) : Wd).setWidth 64))).tick := by
  refine ⟨_, t.stepFlags_allFlags k a m, ?_⟩
  rw [hi, vredF, issue_plain (i := (xInfo d [a] [] m).float) h (xInfo_plain d [a] [] hm).float hhas,
    State.fpDone_of_noTrap hs ht, t.lastOr_fSteps]

/-- With no trap and no upset a float scan raises the flags of its steps and writes the value after each. -/
theorem exec_vscanF {d : VReg} (hhas : t.has [a, d]) (h : Ready s t 1 [.v a, .v d])
    (hi : ∀ s, exec i s = vscanF k d a m s) :
    ∃ (y : VVal) (fl : Nat), t.StepFlags k a (t.lanesOf (t.active m)) fl ∧
      exec i s = .next (s.retire ((t.raise fl).writeMsk d m y)).tick ∧
      ∀ n, n < (t.lanesOf (t.active m)).length → y.lane ((t.lanesOf (t.active m)).getD n 0) =
        BitVec.ofNat 32 (t.fAcc k a (t.lanesOf (t.active m)) (n + 1)) := by
  refine ⟨_, _, t.stepFlags_allFlags k a m, ?_, fun n hn => t.lane_fSteps k a m hn⟩
  rw [hi, vscanF, issue_plain (i := (vInfo [d] [a] m).float) h (vInfo_plain ..).float hhas, State.fpDone_of_noTrap hs ht]
  rfl

end

/-- Settles O31: integer scans by the lanes up to each, float reductions and scans by their steps. -/
theorem scansAndFloatReductions : Obligations.ScansAndFloatReductions := by
  intro s t d a ds m hhas
  have hsrc : t.has [a] := hhas.mono (by simp)
  have hboth : t.has [a, d] := hhas.mono (by simp)
  refine ⟨fun h => ?_, fun ht hs ls hls => ?_⟩
  · exact ⟨exec_vscanI (op := ioAdd) (keepsUniform_of_not_uni rfl) rfl hboth h fun _ => rfl,
      exec_vscanI keepsUniform_ioMin ioMin_f hboth h fun _ => rfl,
      exec_vscanI keepsUniform_ioMax ioMax_f hboth h fun _ => rfl,
      exec_vscanI keepsUniform_ioMinu ioMinu_f hboth h fun _ => rfl,
      exec_vscanI keepsUniform_ioMaxu ioMaxu_f hboth h fun _ => rfl,
      exec_vscanI keepsUniform_ioAnd rfl hboth h fun _ => rfl,
      exec_vscanI keepsUniform_ioOr rfl hboth h fun _ => rfl,
      exec_vscanI (op := ioXor) (keepsUniform_of_not_uni rfl) rfl hboth h fun _ => rfl⟩
  · subst hls
    exact ⟨fun hm h => ⟨exec_vredF 0 hs ht hm hsrc h fun _ => rfl, exec_vredF 1 hs ht hm hsrc h fun _ => rfl,
        exec_vredF 2 hs ht hm hsrc h fun _ => rfl⟩,
      fun h => ⟨exec_vscanF 0 hs ht hboth h fun _ => rfl, exec_vscanF 1 hs ht hboth h fun _ => rfl,
        exec_vscanF 2 hs ht hboth h fun _ => rfl⟩⟩

end Sys2Proof.Machine
end

section
/-! What retiring an instruction changes (O9, O10), the turn of the team in the issue slot (O5), and the privilege of
majors 57 and 58 (O49). -/

namespace Sys2Proof.Machine

/-! ### A team after it retires (R208, R212) -/

/-- The team `t` after its instruction: at the next one of its clause, or at the start of the clause that follows. -/
def Team.retired (t : Team) (clk : Nat) : Team :=
  match t.clause with
  | none => t
  | some c =>
    if 1 < c.left then { t with woff := t.next, clause := some { c with left := c.left - 1 } }
    else t.clauseDone c (t.pc + BitVec.ofNat 64 (4 * t.next)) none clk

theorem Team.retired_within {t : Team} {c : Clause} (hc : t.clause = some c) (hl : 1 < c.left) (clk : Nat) :
    t.retired clk = { t with woff := t.next, clause := some { c with left := c.left - 1 } } := by
  simp [Team.retired, hc, hl]

theorem Team.retired_last {t : Team} {c : Clause} (hc : t.clause = some c) (hl : c.left ≤ 1) (clk : Nat) :
    t.retired clk = t.clauseDone c (t.pc + BitVec.ofNat 64 (4 * t.next)) none clk := by
  simp [Team.retired, hc, hl]

/-- Retiring changes of a team only where it stands in its program, and its age. -/
theorem Team.retired_frame (t : Team) (clk : Nat) :
    t.retired clk = { t with woff := (t.retired clk).woff, clause := (t.retired clk).clause, pc := (t.retired clk).pc,
                             src := (t.retired clk).src, nopre := (t.retired clk).nopre,
                             yieldNow := (t.retired clk).yieldNow, age := (t.retired clk).age,
                             resv := (t.retired clk).resv } := by
  unfold Team.retired
  split
  · rfl
  · split <;> rfl

@[simp] theorem Team.retired_key (t : Team) (clk : Nat) : (t.retired clk).key = t.key := by
  rw [t.retired_frame clk]

/-! ### The state after a team retires -/

theorem State.yieldCur_eq (s : State) (k : Nat) : s.yieldCur k = { s with cur := if s.cur = some k then none else s.cur } := by
  unfold State.yieldCur
  split <;> rfl

theorem State.retire_noClause {s : State} {t : Team} (hc : t.clause = none) : s.retire t = s.putTeam (t.retired s.clk) := by
  simp [State.retire, Team.retired, hc]

theorem State.retire_within {s : State} {t : Team} {c : Clause} (hc : t.clause = some c) (hl : 1 < c.left) :
    s.retire t = s.putTeam (t.retired s.clk) := by
  simp [State.retire, Team.retired, hc, hl]

/-- The last instruction of a clause counts as an event of the partition and gives up the issue slot (R442). -/
theorem State.retire_last {s : State} {t : Team} {c : Clause} (hc : t.clause = some c) (hl : c.left ≤ 1) :
    s.retire t = ((s.putTeam (t.retired s.clk)).modPart (s.ctx (s.ctxOf t)).part
      (fun p => { p with lastEvent := s.clk })).yieldCur t.key := by
  simp only [State.retire, hc, if_neg (Nat.not_lt.mpr hl), t.retired_last hc hl]
  rfl

/-- Retiring puts the retired team into its place, may count an event of a partition, and may give up the issue slot. -/
theorem State.retire_eq (s : State) (t : Team) :
    ∃ ps cur, s.retire t = { s.putTeam (t.retired s.clk) with parts := ps, cur := cur } ∧
      (ps = s.parts ∨ ∃ p, ps = (s.modPart p (fun p => { p with lastEvent := s.clk })).parts) := by
  cases hc : t.clause with
  | none => exact ⟨_, _, State.retire_noClause hc, .inl rfl⟩
  | some c =>
    obtain hl | hl := Nat.lt_or_ge 1 c.left
    · exact ⟨_, _, State.retire_within hc hl, .inl rfl⟩
    · rw [State.retire_last hc hl, State.yieldCur_eq]
      exact ⟨_, _, rfl, .inr ⟨_, rfl⟩⟩

theorem State.retire_teams (s : State) (t : Team) : (s.retire t).teams = (s.putTeam (t.retired s.clk)).teams := by
  obtain ⟨ps, cur, h, -⟩ := s.retire_eq t
  rw [h]

theorem State.team_retire_self {s : State} {t : Team} (h : (s.team t.key).isSome = true) :
    (s.retire t).team t.key = some (t.retired s.clk) := by
  rw [State.team_congr (s.retire_teams t)]
  simpa using s.team_putTeam_self (t.retired s.clk) (by simpa using h)

theorem State.team_retire_other (s : State) {t : Team} {k : Nat} (hk : k ≠ t.key) : (s.retire t).team k = s.team k := by
  rw [State.team_congr (s.retire_teams t), State.team_putTeam_other _ _ _ (by simpa using hk)]

/-- A partition changed in the time of its last event alone. -/
theorem State.part_lastEvent (s : State) (p q n : Nat) :
    (s.modPart p (fun x => { x with lastEvent := n })).part q =
      { s.part q with lastEvent := ((s.modPart p (fun x => { x with lastEvent := n })).part q).lastEvent } := by
  obtain hp | hp := Nat.lt_or_ge p s.parts.length
  · rw [State.part_modPart _ _ _ _ hp]
    split
    · next hq => rw [hq]
    · rfl
  · simp [State.part, State.modPart, List.set_eq_of_length_le hp]

theorem State.part_retire (s : State) (t : Team) (p : Nat) :
    (s.retire t).part p = { s.part p with lastEvent := ((s.retire t).part p).lastEvent } := by
  obtain ⟨ps, cur, h, rfl | ⟨q, rfl⟩⟩ := s.retire_eq t
  · rw [h]; rfl
  · rw [h]; exact s.part_lastEvent q p s.clk

/-- Settles O9: the retired team is in its place, and `State.retire_eq` names all else that retiring touches. -/
theorem retireChangesOnlyTheTeam : Obligations.RetireChangesOnlyTheTeam := by
  intro s t hteam
  refine ⟨?_, fun k hk => s.team_retire_other hk, s.part_retire t, _, State.team_retire_self hteam, t.retired_frame s.clk⟩
  obtain ⟨ps, cur, h, -⟩ := s.retire_eq t
  rw [h]
  rfl

/-- Settles O10: within the clause by `State.retire_within`, at its end by `State.retire_last`. -/
theorem clauseAdvance : Obligations.ClauseAdvance := by
  intro s t c hteam hcur hc
  refine ⟨fun hl => ⟨_, State.team_retire_self hteam, ?_⟩, fun hl => ⟨_, State.team_retire_self hteam, ?_⟩⟩
  · rw [t.retired_within hc hl, State.retire_within hc hl]
    exact ⟨rfl, rfl, rfl, hcur⟩
  · rw [t.retired_last hc hl, State.retire_last hc hl, State.yieldCur_eq]
    exact ⟨rfl, rfl, rfl, by simp [hcur]⟩

/-! ### The turn of a team (R208, R210) -/

theorem decodeCode_of_decode_ok {ws : List Wd} {i : Instr} {n : Nat} (h : decode ws = .ok (i, n)) :
    ∃ c : Code, decodeCode ws = .ok (c, n) ∧ c.toInstr = i := by
  unfold decode at h
  split at h
  · cases h
  · next c m hc =>
    injection h with h
    obtain ⟨rfl, rfl⟩ := Prod.mk.inj h
    exact ⟨c, hc, rfl⟩

/-- A team whose budgets stand runs the instruction that the words at it decode to. -/
theorem State.runTeam_decoded {s : State} {t : Team} {c : Clause} (hc : t.clause = some c) (hb : s.budgetEvent t = none)
    {i : Instr} {n : Nat} (hd : decode (c.words.drop (t.woff - 1)) = .ok (i, n)) :
    s.runTeam t = exec i (s.putTeam { t with next := t.woff + n }) := by
  obtain ⟨x, hx, rfl⟩ := decodeCode_of_decode_ok hd
  simp [State.runTeam, State.fetchNext, hb, hc, hx, runCode]

/-- Settles O5: with an empty agenda the step is the turn of the team in the issue slot. -/
theorem stepRunsDecodedInstruction : Obligations.StepRunsDecodedInstruction := by
  refine ⟨fun s t c i n ha ht hc hr hb hd => ?_, fun s e r ha => ?_⟩
  · rw [step_eq_runTeam ha ht hc hr, State.runTeam_decoded hc hb hd]
  · simp only [step, ha, State.input, runCode]

/-! ### The privilege of majors 57 and 58 (R389, R396, R405) -/

/-- The words of an instruction of the control class name no vector register, tile or bad field value. -/
structure Info.PlainControl (f : Info) : Prop where
  bad : f.bad = none := by rfl
  pairs : f.pairs = [] := by rfl
  regs : f.named ++ f.vr ++ f.vw = [] := by rfl
  tiles : f.ts = [] := by rfl
  fmt : f.fmt = false := by rfl
  eng : f.eng = 5 := by rfl
  xfer : f.xfer = false := by rfl

/-- In a clause of its class such an instruction can fault for its privilege alone. -/
theorem State.issueFault_of_plainControl {s : State} {t : Team} {f : Info} (hin : t.inClass 5 = true) (hf : f.PlainControl) :
    s.issueFault f t =
      if f.lvl = 1 ∧ (s.ctx (s.ctxOf t)).priv = 0 then some (mkF .protection .privileged 0 0)
      else if f.lvl = 2 ∧ !t.handler then some (mkF .protection .notAHandler 0 0)
      else none := by
  cases hc : t.clause with
  | none => simp [Team.inClass, hc] at hin
  | some c =>
    have hplace : s.issueFault f t = s.placeFault f t c := by
      simp [State.issueFault, State.placeFault, hc, hf.bad, hf.pairs, hf.regs, hf.tiles, hf.fmt]
    have hcls := not_engineClass_of_inClass hc (hf.eng ▸ hin)
    rw [hplace, State.placeFault, if_neg hcls, if_neg (by simp [hf.xfer]), if_neg (by simp [hf.eng])]
    rfl

/-- At PRIV 0 an instruction of major 57 parks its team (R396). -/
theorem issue_privileged {s : State} {t : Team} {f : Info} (ht : s.curTeam = some t) (hin : t.inClass 5 = true)
    (hpriv : (s.ctx (s.ctxOf t)).priv = 0) (hf : f.PlainControl) (hl : f.lvl = 1) (k : Team → State → State) :
    issue f k s = .next (s.park t (mkF .protection .privileged 0 0)).tick := by
  have hfault : s.issueFault f t = some (mkF .protection .privileged 0 0) := by
    rw [State.issueFault_of_plainControl hin hf, if_pos ⟨hl, hpriv⟩]
  rw [issue_of_team ht, State.issueTeam_fault hfault]

/-- Outside a handler an instruction of major 58 parks its team (R405). -/
theorem issue_notAHandler {s : State} {t : Team} {f : Info} (ht : s.curTeam = some t) (hin : t.inClass 5 = true)
    (hh : t.handler = false) (hf : f.PlainControl) (hl : f.lvl = 2) (k : Team → State → State) :
    issue f k s = .next (s.park t (mkF .protection .notAHandler 0 0)).tick := by
  have hfault : s.issueFault f t = some (mkF .protection .notAHandler 0 0) := by
    rw [State.issueFault_of_plainControl hin hf, if_neg (by simp [hl]), if_pos ⟨hl, by simp [hh]⟩]
  rw [issue_of_team ht, State.issueTeam_fault hfault]

/-- Settles O49: the words of these instructions being in order, issue comes to the check of the privilege. -/
theorem privilegeFaults : Obligations.PrivilegeFaults := by
  intro s t d a b sc ht hin
  refine ⟨fun hpriv => ?_, fun hh => ?_⟩
  · have hpark {f : Info} := issue_privileged (f := f) ht hin hpriv
    exact ⟨hpark {} rfl _, hpark {} rfl _, fun hsc => hpark { bad := if_pos hsc } rfl _, hpark {} rfl _, hpark {} rfl _⟩
  · have hpark {f : Info} := issue_notAHandler (f := f) ht hin hh
    exact ⟨fun hd ha => hpark { bad := by simp [hd, ha] } rfl _, fun ha => hpark { bad := by simp [ha] } rfl _,
      hpark {} rfl _, hpark {} rfl _, hpark {} rfl _, hpark {} rfl _⟩

end Sys2Proof.Machine
end

section
/-! Words and their fields (O3): the formats, the prefixes before a base word, and the words that do not decode. -/

namespace Sys2Proof

/-! ### Fields of appended bits

The rules match on sums of widths, so the proofs keep those sums as they stand (`-Nat.reduceAdd`). -/

/-- A field of appended bits lies in the upper part, or in the lower. -/
theorem extract_append {v w start len : Nat} {hi : BitVec v} {lo : BitVec w} :
    (w ≤ start → (hi ++ lo).extractLsb' start len = hi.extractLsb' (start - w) len) ∧
      (start + len ≤ w → (hi ++ lo).extractLsb' start len = lo.extractLsb' start len) :=
  ⟨BitVec.extractLsb'_append_eq_of_le, BitVec.extractLsb'_append_eq_of_add_le⟩

/-! ### Formats (Table 6-3): a word has the fields it is made of -/

@[simp] theorem rrOf_rrWord (r : RR) : rrOf (rrWord r) = r := by
  simp [-Nat.reduceAdd, rrOf, rrWord, extract_append]

@[simp] theorem riOf_riWord (r : RI) : riOf (riWord r) = r := by
  simp [-Nat.reduceAdd, riOf, riWord, extract_append]

@[simp] theorem bfOf_bfWord (r : BF) : bfOf (bfWord r) = r := by
  simp [-Nat.reduceAdd, bfOf, bfWord, extract_append]

@[simp] theorem mkOf_mkWord (r : MK) : mkOf (mkWord r) = r := by
  simp [-Nat.reduceAdd, mkOf, mkWord, extract_append]

@[simp] theorem pcOf_pcWord (r : PC) : pcOf (pcWord r) = r := by
  simp [-Nat.reduceAdd, pcOf, pcWord, extract_append]

@[simp] theorem ffOf_ffWord (r : FF) : ffOf (ffWord r) = r := by
  simp [-Nat.reduceAdd, ffOf, ffWord, extract_append]

@[simp] theorem asOf_asWord (r : AS) : asOf (asWord r) = r := by
  simp [-Nat.reduceAdd, asOf, asWord, extract_append]

@[simp] theorem mxOf_mxWord (r : MX) : mxOf (mxWord r) = r := by
  simp [-Nat.reduceAdd, mxOf, mxWord, extract_append]

/-! ### The major opcode (R208) is the first field of every format -/

@[simp] theorem major_rrWord (r : RR) : major (rrWord r) = r.op := congrArg RR.op (rrOf_rrWord r)
@[simp] theorem major_riWord (r : RI) : major (riWord r) = r.op := congrArg RI.op (riOf_riWord r)
@[simp] theorem major_bfWord (r : BF) : major (bfWord r) = r.op := congrArg BF.op (bfOf_bfWord r)
@[simp] theorem major_mkWord (r : MK) : major (mkWord r) = r.op := congrArg MK.op (mkOf_mkWord r)
@[simp] theorem major_pcWord (r : PC) : major (pcWord r) = r.op := congrArg PC.op (pcOf_pcWord r)
@[simp] theorem major_ffWord (r : FF) : major (ffWord r) = r.op := congrArg FF.op (ffOf_ffWord r)
@[simp] theorem major_asWord (r : AS) : major (asWord r) = r.op := congrArg AS.op (asOf_asWord r)
@[simp] theorem major_mxWord (r : MX) : major (mxWord r) = r.op := congrArg MX.op (mxOf_mxWord r)

/-- A header word is one of majors 40 to 43 (R202). -/
theorem isHeader_iff (w : Wd) : isHeader w = true ↔ 40 ≤ (major w).toNat ∧ (major w).toNat ≤ 43 := by
  simp [isHeader, major, BitVec.toNat_eq, BitVec.extractLsb'_toNat, Nat.shiftRight_eq_div_pow]
  omega

theorem isHeader_eq_false (w : Wd) : isHeader w = false ↔ (major w).toNat < 40 ∨ 43 < (major w).toNat := by
  rw [← Bool.not_eq_true, isHeader_iff]
  omega

/-! ### Prefix words (Table 6-4) -/

@[simp] theorem isOne_bit1 (b : Bool) : isOne (bit1 b) = b := by cases b <;> rfl

@[simp] theorem imm_immWord (v : BitVec 26) : (immWord v).extractLsb' 0 26 = v := by
  simp [-Nat.reduceAdd, immWord, extract_append]

@[simp] theorem opxOf_opxWord (x : Opx) : opxOf (opxWord x) = x := by
  simp [-Nat.reduceAdd, opxOf, opxWord, extract_append]

@[simp] theorem mskOf_mskWord (x : MskW) : mskOf (mskWord x) = x := by
  simp [-Nat.reduceAdd, mskOf, mskWord, extract_append]

@[simp] theorem fmtOf_fmtWord (x : Fmt) : fmtOf (fmtWord x) = x := by
  simp [-Nat.reduceAdd, fmtOf, fmtWord, extract_append]

@[simp] theorem major_immWord (v : BitVec 26) : major (immWord v) = 60 := by
  simp [-Nat.reduceAdd, major, immWord, extract_append]

@[simp] theorem major_opxWord (x : Opx) : major (opxWord x) = 61 := by
  simp [-Nat.reduceAdd, major, opxWord, extract_append]

@[simp] theorem major_mskWord (x : MskW) : major (mskWord x) = 62 := by
  simp [-Nat.reduceAdd, major, mskWord, extract_append]

@[simp] theorem major_fmtWord (x : Fmt) : major (fmtWord x) = 63 := by
  simp [-Nat.reduceAdd, major, fmtWord, extract_append]

/-- The words of prefixes, in the order IMM, OPX, MSK, FMT. -/
def Pfx.words (p : Pfx) : List Wd :=
  p.imm.toList.map immWord ++ p.opx.toList.map opxWord ++ p.msk.toList.map mskWord ++ p.fmt.toList.map fmtWord

/-- Every word of prefixes has a major of 60 to 63 (R208). -/
theorem Pfx.isPfx_of_mem_words {p : Pfx} {w : Wd} (h : w ∈ p.words) : Machine.isPfx w = true := by
  simp only [Pfx.words, List.mem_append, List.mem_map] at h
  obtain ((⟨v, -, rfl⟩ | ⟨x, -, rfl⟩) | ⟨x, -, rfl⟩) | ⟨x, -, rfl⟩ := h <;> simp [Machine.isPfx]

/-- A base word ends the prefixes (R208). -/
theorem readPfx_base {w : Wd} (hm : (major w).toNat < 60) (ws : List Wd) (p : Pfx) (n : Nat)
    (hh : n > 0 → isHeader w = false) : readPfx (w :: ws) p n = .ok (p, w, n + 1) := by
  have hno : ¬ (n > 0 ∧ isHeader w = true) := fun ⟨hn, hw⟩ => by simp [hh hn] at hw
  unfold readPfx
  split <;> first | omega | exact if_neg hno

theorem readPfx_imm (o : Option (BitVec 26)) {p : Pfx} {n : Nat} (hp : p.imm = none) (hn : n + o.toList.length ≤ 2)
    (ws : List Wd) :
    readPfx (o.toList.map immWord ++ ws) p n = readPfx ws { p with imm := o } (n + o.toList.length) := by
  cases o with
  | none => cases p; cases hp; rfl
  | some v => simp_all [readPfx]

theorem readPfx_opx (o : Option Opx) {p : Pfx} {n : Nat} (hp : p.opx = none) (hn : n + o.toList.length ≤ 2) (ws : List Wd) :
    readPfx (o.toList.map opxWord ++ ws) p n = readPfx ws { p with opx := o } (n + o.toList.length) := by
  cases o with
  | none => cases p; cases hp; rfl
  | some x => simp_all [readPfx]

theorem readPfx_msk (o : Option MskW) {p : Pfx} {n : Nat} (hp : p.msk = none) (hn : n + o.toList.length ≤ 2) (ws : List Wd) :
    readPfx (o.toList.map mskWord ++ ws) p n = readPfx ws { p with msk := o } (n + o.toList.length) := by
  cases o with
  | none => cases p; cases hp; rfl
  | some x => simp_all [readPfx]

theorem readPfx_fmt (o : Option Fmt) {p : Pfx} {n : Nat} (hp : p.fmt = none) (hn : n + o.toList.length ≤ 2) (ws : List Wd) :
    readPfx (o.toList.map fmtWord ++ ws) p n = readPfx ws { p with fmt := o } (n + o.toList.length) := by
  cases o with
  | none => cases p; cases hp; rfl
  | some x => simp_all [readPfx]

/-- At most two prefixes of different kinds before a base word are read in order (R208, R221). -/
theorem readPfx_words {p : Pfx} {w : Wd} (hp : p.words.length ≤ 2) (hm : (major w).toNat < 60) (hh : isHeader w = false)
    (rest : List Wd) : readPfx (p.words ++ w :: rest) pfx0 0 = .ok (p, w, p.words.length + 1) := by
  have hlen : p.words.length =
      p.imm.toList.length + p.opx.toList.length + p.msk.toList.length + p.fmt.toList.length := by
    simp [Pfx.words, Nat.add_assoc]
  simp only [Pfx.words, List.append_assoc]
  rw [readPfx_imm _ rfl (by omega), readPfx_opx _ rfl (by omega), readPfx_msk _ rfl (by omega), readPfx_fmt _ rfl (by omega),
    readPfx_base hm _ _ _ fun _ => hh]
  simp [Nat.add_assoc]

/-! ### Base words (R208, R225) -/

/-- A word that decodes is neither one of the prefixes nor a header. -/
theorem major_of_decodeBase_ok {p : Pfx} {w : Wd} {c : Code} (h : decodeBase p w = .ok c) :
    (major w).toNat < 60 ∧ isHeader w = false := by
  rw [isHeader_eq_false]
  unfold decodeBase at h
  split at h
  · cases h
  split at h
  · cases h
  split at h <;> first | omega | cases h

/-- A word list is prefixes and a base word that decode to an instruction (R208). -/
def Assembles (ws : List Wd) (i : Instr) : Prop :=
  ∃ p w, ws = p.words ++ [w] ∧ p.words.length ≤ 2 ∧ (decodeBase p w).map Code.toInstr = .ok i

theorem Assembles.decode_append {ws : List Wd} {i : Instr} (h : Assembles ws i) (rest : List Wd) :
    decode (ws ++ rest) = .ok (i, ws.length) := by
  obtain ⟨p, w, rfl, hp, hw⟩ := h
  cases hc : decodeBase p w with
  | error e => simp [hc, Except.map] at hw
  | ok c =>
    obtain ⟨hm, hh⟩ := major_of_decodeBase_ok hc
    simp only [hc, Except.map, Except.ok.injEq] at hw
    have hread := readPfx_words hp hm hh rest
    simp [decode, decodeCode, hread, hc, hw]

theorem Assembles.words {ws : List Wd} {i : Instr} (h : Assembles ws i) :
    1 ≤ ws.length ∧ ws.length ≤ 3 ∧
      ∃ ps w, ws = ps ++ [w] ∧ (∀ p ∈ ps, Machine.isPfx p = true) ∧ Machine.isPfx w = false ∧ isHeader w = false := by
  obtain ⟨p, w, rfl, hp, hw⟩ := h
  cases hc : decodeBase p w with
  | error e => simp [hc, Except.map] at hw
  | ok c =>
    obtain ⟨hm, hh⟩ := major_of_decodeBase_ok hc
    refine ⟨by simp, by simp; omega, p.words, w, rfl, fun _ => Pfx.isPfx_of_mem_words, ?_, hh⟩
    simpa [Machine.isPfx] using hm

/-! ### Words that do not decode (R95, R221, R225) -/

@[simp] theorem pfxLegal_pfx0 (w : Wd) : pfxLegal pfx0 w = true := by
  simp [pfxLegal, pfx0]

/-- A base word at the front decodes by itself. -/
theorem decodeCode_noPrefix {w : Wd} (hm : (major w).toNat < 60) (r : List Wd) {e : DecErr} (he : decodeBase pfx0 w = .error e) :
    decodeCode (w :: r) = .error e := by
  rw [decodeCode, readPfx_base hm r pfx0 0 (by simp)]
  simp only [he]

/-- Settles O3: each of these majors has its own branch of `decodeBase`. -/
theorem reservedWordsRefused : Obligations.ReservedWordsRefused := by
  intro w r
  refine ⟨fun h => decodeCode_noPrefix (by omega) r ?_, fun h => decodeCode_noPrefix (by omega) r ?_,
    fun h => decodeCode_noPrefix (by omega) r ?_⟩
  all_goals
    simp only [decodeBase, pfxLegal_pfx0, show pfxZeros pfx0 = true from rfl, Bool.not_true, Bool.false_eq_true, if_false]
    generalize (major w).toNat = m at h ⊢
  · obtain ⟨hlo, hhi⟩ := h
    interval_cases m <;> rfl
  · obtain ⟨hlo, hhi, hspace⟩ := h
    interval_cases m <;> first | omega | rfl
  · obtain rfl | rfl := h <;> rfl

end Sys2Proof
end

section
/-! The readers of fields give back what the encoder wrote, and the prefixes that the operands of an instruction make. -/

namespace Sys2Proof

/-! ### Field readers give back what the encoder wrote (R216 to R224) -/

@[simp] theorem sregF_sF {α : Type} (r : SReg) (k : SReg → Dec α) : sregF (sF r) k = k r := by
  simp [-Nat.reduceAdd, sregF, sF, extract_append]

@[simp] theorem sregF_zero {α : Type} (k : SReg → Dec α) : sregF 0#7 k = k 0 := sregF_sF 0 k

@[simp] theorem predF_pF {α : Type} (r : PReg) (k : PReg → Dec α) : predF (pF r) k = k r := by
  simp [-Nat.reduceAdd, predF, pF, extract_append]

@[simp] theorem need_true {α : Type} (d : Detail) (k : Dec α) : need true d k = k := rfl

@[simp] theorem zeroF_zero {α : Type} {n : Nat} (k : Dec α) : zeroF 0#n k = k := by simp [zeroF]

/-! ### The prefixes of an instruction's operands (Table 6-4) -/

/-- The MSK word of a mask operand. -/
def mskP (m : Option Msk) : Option MskW := m.map (⟨·, 0⟩)
/-- The OPX word of a third source. -/
def opxP (e : Option VReg) : Option Opx := e.map (⟨·, 0, 0, 0, 0, 0⟩)
/-- The OPX word of a scope. -/
def scP (s : BitVec 3) : Opx := ⟨0, 0, 0, s, 0, 0⟩
/-- The FMT word of a rounding mode. -/
def rmP (rm : Option (BitVec 3)) : Option Fmt := rm.map (⟨true, ·, false, 0, 0, 0⟩)
/-- The FMT word of a conversion. -/
def cvP (src dst : BitVec 5) (rm : Option (BitVec 3)) : Fmt := ⟨rm.isSome, rm.getD 0, true, src, dst, 0⟩
/-- The IMM word of an operand b. -/
def sorP : SOrI → Option (BitVec 26)
  | .reg _ => none
  | .imm v => some (v.extractLsb' 6 26)

theorem mskE_eq (m : Option Msk) : mskE m = (mskP m).toList.map mskWord := by cases m <;> rfl
theorem opE_eq (e : Option VReg) : opE e = (opxP e).toList.map opxWord := by cases e <;> rfl
theorem rmE_eq (rm : Option (BitVec 3)) : rmE rm = (rmP rm).toList.map fmtWord := by cases rm <;> rfl
theorem cvE_eq (src dst : BitVec 5) (rm : Option (BitVec 3)) : cvE src dst rm = [fmtWord (cvP src dst rm)] := by
  cases rm <;> rfl
theorem dispE_eq (d : Option (BitVec 26)) : dispE d = d.toList.map immWord := by cases d <;> rfl
theorem sorE_eq (b : SOrI) : sorE b = (sorP b).toList.map immWord := by cases b <;> rfl

theorem length_toList_eq_optN {α : Type} (o : Option α) : o.toList.length = optN o := by cases o <;> rfl
@[simp] theorem opxP_none : opxP none = none := rfl
@[simp] theorem sorP_reg (r : SReg) : sorP (.reg r) = none := rfl
@[simp] theorem optN_none {α : Type} : optN (none : Option α) = 0 := rfl
@[simp] theorem pfxN_reg (r : SReg) : SOrI.pfxN (.reg r) = 0 := rfl
@[simp] theorem optN_mskP (m : Option Msk) : optN (mskP m) = optN m := by cases m <;> rfl
@[simp] theorem optN_opxP (e : Option VReg) : optN (opxP e) = optN e := by cases e <;> rfl
@[simp] theorem optN_rmP (rm : Option (BitVec 3)) : optN (rmP rm) = optN rm := by cases rm <;> rfl
@[simp] theorem optN_sorP (b : SOrI) : optN (sorP b) = b.pfxN := by cases b <;> rfl
theorem optN_le_one {α : Type} (o : Option α) : optN o ≤ 1 := by cases o <;> simp [optN]

/-! ### The readers of prefixes -/

section
variable {α : Type} {i : Option (BitVec 26)} {x : Option Opx} {m : Option MskW} {f : Option Fmt}

@[simp] theorem mskF_mskP (k : Option Msk) : mskF ⟨i, x, mskP k, f⟩ = k := by cases k <;> rfl

theorem mskNZ_mskP {n : Option Msk} (h : mskNoZ n = true) (k : Option Msk → Dec α) : mskNZ ⟨i, x, mskP n, f⟩ k = k n := by
  simp [mskNZ, h]

@[simp] theorem opxE_opxP (e : Option VReg) (k : Option VReg → Dec α) : opxE ⟨i, opxP e, m, f⟩ k = k e := by
  cases e <;> rfl

@[simp] theorem noE_none (k : Dec α) : noE ⟨i, none, m, f⟩ k = k := rfl

@[simp] theorem opxScope_scP (s : BitVec 3) (k : BitVec 3 → Dec α) : opxScope ⟨i, some (scP s), m, f⟩ k = k s := rfl

theorem rmF_rmP {r : Option (BitVec 3)} (h : rmOk r = true) (k : Option (BitVec 3) → Dec α) :
    rmF ⟨i, x, m, rmP r⟩ k = k r := by
  cases r with
  | none => rfl
  | some r => exact if_pos h

theorem cvtF_cvP {r : Option (BitVec 3)} (h : rmOk r = true) (src dst : BitVec 5)
    (k : BitVec 5 → BitVec 5 → Option (BitVec 3) → Dec α) : cvtF ⟨i, x, m, some (cvP src dst r)⟩ k = k src dst r := by
  cases r with
  | none => rfl
  | some r => exact if_pos h

/-- A 32-bit value stands in VAL and the six low bits of a field (R218). -/
theorem immVal_extract (v : Wd) : immVal (v.extractLsb' 6 26) (v.extractLsb' 0 6) = v :=
  (BitVec.extractLsb'_append_extractLsb'_eq_extractLsb' rfl).trans BitVec.extractLsb'_eq_self

@[simp] theorem lo7_high (v : Wd) : (lo7 v).extractLsb' 6 1 = 0#1 := by
  simp [-Nat.reduceAdd, lo7, extract_append]

@[simp] theorem lo7_low (v : Wd) : (lo7 v).extractLsb' 0 6 = v.extractLsb' 0 6 := by
  simp [-Nat.reduceAdd, lo7, extract_append]

@[simp] theorem sorF_sorB (b : SOrI) (k : SOrI → Dec α) : sorF ⟨sorP b, x, m, f⟩ (sorB b) k = k b := by
  cases b with
  | reg r => simp [sorF, sorP, sorB]
  | imm v => simp [sorF, sorP, sorB, immVal_extract]

@[simp] theorem noB_zero (k : Dec α) : noB ⟨none, x, m, f⟩ 0#7 k = k := by simp [noB]

end

/-! ### Legal prefixes (Table 6-5, R221) -/

/-- The words before a base word are prefixes `p`, at most two, with their zero bits zero. -/
structure Prefixed (pre : List Wd) (p : Pfx) : Prop where
  words : pre = p.words
  length : pre.length ≤ 2
  zeros : pfxZeros p = true

theorem Prefixed.float (b : SOrI) (x : Option VReg) (m : Option Msk) (rm : Option (BitVec 3))
    (h : b.pfxN + optN x + optN m + optN rm ≤ 2) :
    Prefixed (sorE b ++ opE x ++ mskE m ++ rmE rm) ⟨sorP b, opxP x, mskP m, rmP rm⟩ where
  words := by simp [Pfx.words, sorE_eq, opE_eq, mskE_eq, rmE_eq]
  length := by simp [sorE_eq, opE_eq, mskE_eq, rmE_eq, length_toList_eq_optN]; omega
  zeros := by cases x <;> cases m <;> cases rm <;> rfl

theorem Prefixed.integer (b : SOrI) (x : Option VReg) (m : Option Msk) (h : b.pfxN + optN x + optN m ≤ 2) :
    Prefixed (sorE b ++ opE x ++ mskE m) ⟨sorP b, opxP x, mskP m, none⟩ where
  words := by simp [Pfx.words, sorE_eq, opE_eq, mskE_eq]
  length := by simp [sorE_eq, opE_eq, mskE_eq, length_toList_eq_optN]; omega
  zeros := by cases x <;> cases m <;> rfl

theorem Prefixed.operandFloat (b : SOrI) (m : Option Msk) (rm : Option (BitVec 3)) (h : b.pfxN + optN m + optN rm ≤ 2) :
    Prefixed (sorE b ++ mskE m ++ rmE rm) ⟨sorP b, none, mskP m, rmP rm⟩ := by
  simpa [opE] using Prefixed.float b none m rm h

theorem Prefixed.maskFloat (m : Option Msk) (rm : Option (BitVec 3)) :
    Prefixed (mskE m ++ rmE rm) ⟨none, none, mskP m, rmP rm⟩ :=
  .operandFloat (.reg 0) m rm (by
    have := optN_le_one m
    have := optN_le_one rm
    simp; omega)

theorem Prefixed.operand (b : SOrI) (m : Option Msk) : Prefixed (sorE b ++ mskE m) ⟨sorP b, none, mskP m, none⟩ where
  words := by simp [Pfx.words, sorE_eq, mskE_eq]
  length := by cases b <;> cases m <;> simp [sorE, immE, mskE]
  zeros := by cases m <;> rfl

theorem Prefixed.mask (m : Option Msk) : Prefixed (mskE m) ⟨none, none, mskP m, none⟩ := .operand (.reg 0) m

theorem Prefixed.convert (m : Option Msk) (src dst : BitVec 5) (rm : Option (BitVec 3)) :
    Prefixed (mskE m ++ cvE src dst rm) ⟨none, none, mskP m, some (cvP src dst rm)⟩ where
  words := by simp [Pfx.words, mskE_eq, cvE_eq]
  length := by cases m <;> cases rm <;> simp [mskE, cvE]
  zeros := by cases m <;> cases rm <;> rfl

theorem Prefixed.imm (v : Option (BitVec 26)) : Prefixed (dispE v) ⟨v, none, none, none⟩ where
  words := by simp [Pfx.words, dispE_eq]
  length := by cases v <;> simp [dispE]
  zeros := rfl

/-- The prefixes of a memory instruction without an OPX word. -/
theorem Prefixed.memory (v : Option (BitVec 26)) (m : Option Msk) :
    Prefixed (dispE v ++ mskE m) ⟨v, none, mskP m, none⟩ where
  words := by simp [Pfx.words, dispE_eq, mskE_eq]
  length := by cases v <;> cases m <;> simp [dispE, mskE]
  zeros := by cases m <;> rfl

/-- The prefixes of a memory instruction with an OPX word. -/
theorem Prefixed.memoryOpx (v : Option (BitVec 26)) {x : Opx} (m : Option Msk) (hz : x.z = 0) (h : optN v + optN m + 1 ≤ 2) :
    Prefixed (dispE v ++ (opxWord x :: mskE m)) ⟨v, some x, mskP m, none⟩ where
  words := by simp [Pfx.words, dispE_eq, mskE_eq]
  length := by simp [dispE_eq, mskE_eq, length_toList_eq_optN]; omega
  zeros := by cases m <;> simp [pfxZeros, hz, mskP]

/-- Prefixes that a base word accepts, and the base word as its group of majors reads it, assemble (R208, R221). -/
theorem Assembles.intro {pre : List Wd} {p : Pfx} {w : Wd} {i : Instr} (hp : Prefixed pre p) {α : Type} {f : α → Code}
    {d : Dec α} (hd : decodeBase p w = d.map f) (h : d.map (fun x => (f x).toInstr) = .ok i) : Assembles (pre ++ [w]) i := by
  refine ⟨p, w, by rw [hp.words], hp.words ▸ hp.length, ?_⟩
  rw [hd]
  cases d with
  | error e => cases h
  | ok x => exact h

theorem Assembles.word {w : Wd} {i : Instr} {α : Type} {f : α → Code} {d : Dec α} (hd : decodeBase pfx0 w = d.map f)
    (h : d.map (fun x => (f x).toInstr) = .ok i) : Assembles [w] i :=
  .intro (p := pfx0) (pre := []) ⟨rfl, by simp, rfl⟩ hd h

end Sys2Proof
end

section
/-! The groups of majors: the prefixes that each accepts and the reader that decodes it. -/

namespace Sys2Proof

/-! ### The groups (Table 6-6) -/

/-- The groups of majors that one reader decodes (Table 6-6); `select`: VSEL, of major 44 or 47 by its operand b; `event`: the
rows without words. -/
inductive OpGroup where
  | branch | control | scalar | scalarImm | special | mask | compare | load | store
  | scalarMem | atomic | vInt | vIntS | select | vF32 | vFP | vFS | convert
  | cross | sync | async | matrix | task | priv | handler | event

/-- The group of majors of an instruction. -/
def Instr.opGroup : Instr → OpGroup
  | .br .. | .brcEq .. | .brcNe .. | .brcLt .. | .brcGe .. | .bany .. | .bnone .. | .balw .. | .call .. => .branch
  | .nop | .exit | .yld | .ret .. | .callr .. | .brr .. | .trap .. | .pdis | .pen | .icinv .. => .control
  | .add .. | .sub .. | .mul .. | .mulhs .. | .mulhu .. | .div .. | .divu .. | .rem .. | .remu .. | .and .. | .or ..
  | .xor .. | .andn .. | .shl .. | .shr .. | .sar .. | .rol .. | .min .. | .max .. | .minu .. | .maxu .. | .slt ..
  | .sltu .. | .seq .. | .clz .. | .popc .. => .scalar
  | .addi .. | .muli .. | .andi .. | .ori .. | .xori .. | .shli .. | .shri .. | .sari .. | .slti .. | .sltui ..
  | .seqi .. | .li .. | .lih .. => .scalarImm
  | .srrd .. | .srwr .. => .special
  | .msave .. | .mrstr .. | .mand .. | .mandn .. | .mor .. | .mnot .. | .mcnt .. | .mfirst .. | .pand .. | .por ..
  | .pxor .. | .pandn .. | .pnot .. | .ppack .. | .punpk .. => .mask
  | .pcmp .. => .compare
  | .ld .. | .ldAcq .. | .pf .. | .pfSpec .. => .load
  | .st .. | .stRel .. => .store
  | .ldScalar .. | .ldScalarAcq .. | .stScalar .. | .stScalarRel .. => .scalarMem
  | .atomAdd .. | .atomSub .. | .atomMin .. | .atomMax .. | .atomAnd .. | .atomOr .. | .atomXor .. | .atomExch ..
  | .atomCas .. | .atomFaddt .. => .atomic
  | .vadd .. | .vsub .. | .vmul .. | .vmulhs .. | .vmulhu .. | .vmad .. | .vmin .. | .vmax .. | .vminu .. | .vmaxu ..
  | .vand .. | .vor .. | .vxor .. | .vandn .. | .vshl .. | .vshr .. | .vsar .. | .vabs .. | .vneg .. | .vadds ..
  | .vsubs .. | .vaddus .. | .vsubus .. | .vclz .. | .vpopc .. | .vmov .. => .vInt
  | .vaddScalar .. | .vsubScalar .. | .vmulScalar .. | .vmulhsScalar .. | .vmulhuScalar .. | .vmadScalar ..
  | .vminScalar .. | .vmaxScalar .. | .vminuScalar .. | .vmaxuScalar .. | .vandScalar .. | .vorScalar ..
  | .vxorScalar .. | .vandnScalar .. | .vshlScalar .. | .vshrScalar .. | .vsarScalar .. | .vabsScalar ..
  | .vnegScalar .. | .vaddsScalar .. | .vsubsScalar .. | .vaddusScalar .. | .vsubusScalar .. | .vclzScalar ..
  | .vpopcScalar .. | .vmovScalar .. => .vIntS
  | .vsel .. => .select
  | .vfaddF32 .. | .vfsubF32 .. | .vfmulF32 .. | .vfmaF32 .. | .vfmsF32 .. | .vfnmaF32 .. | .vfminF32 ..
  | .vfmaxF32 .. | .vfdivF32 .. | .vfsqrtF32 .. | .vfrcpF32 .. | .vfrsqF32 .. | .vfabsF32 .. | .vfnegF32 ..
  | .vfexp2F32 .. | .vflog2F32 .. => .vF32
  | .vfaddPacked .. | .vfsubPacked .. | .vfmulPacked .. | .vfmaPacked .. | .vfmsPacked .. | .vfnmaPacked ..
  | .vfminPacked .. | .vfmaxPacked .. | .vfdivPacked .. | .vfsqrtPacked .. | .vfrcpPacked .. | .vfrsqPacked ..
  | .vfabsPacked .. | .vfnegPacked .. | .vfexp2Packed .. | .vflog2Packed .. => .vFP
  | .vfaddScalar .. | .vfsubScalar .. | .vfmulScalar .. | .vfmaScalar .. | .vfmsScalar .. | .vfnmaScalar ..
  | .vfminScalar .. | .vfmaxScalar .. | .vfdivScalar .. | .vfsqrtScalar .. | .vfrcpScalar .. | .vfrsqScalar ..
  | .vfabsScalar .. | .vfnegScalar .. | .vfexp2Scalar .. | .vflog2Scalar .. => .vFS
  | .vcvt .. | .qcvt .. | .shtag .. | .shpromote .. | .shtry .. => .convert
  | .shfl .. | .shflUp .. | .shflDn .. | .shflXor .. | .bcast .. | .voteAny .. | .voteAll .. | .ballot ..
  | .vredAdd .. | .vredMin .. | .vredMax .. | .vredMinu .. | .vredMaxu .. | .vredAnd .. | .vredOr .. | .vredXor ..
  | .vredAddF32 .. | .vredMinF32 .. | .vredMaxF32 .. | .vscanAdd .. | .vscanMin .. | .vscanMax .. | .vscanMinu ..
  | .vscanMaxu .. | .vscanAnd .. | .vscanOr .. | .vscanXor .. | .vscanAddF32 .. | .vscanMinF32 .. | .vscanMaxF32 .. => .cross
  | .barG .. | .barC .. | .barL .. | .fence .. | .wait .. | .tlwait .. | .waita .. | .rdenter | .rdexit | .wround ..
  | .dfree .. | .alwrd .. => .sync
  | .cpy .. | .cpy2d .. | .cpyg .. | .qputMemory .. | .qputRegister .. | .qgetVector .. | .qgetScalar .. | .tlread ..
  | .tfetchC .. | .tfetchQ .. | .coll .. => .async
  | .mma128x128 .. | .mma128x64 .. | .mma64x128 .. | .mma64x64 .. | .mma32x128 .. | .mma128x32 .. | .accz ..
  | .accld .. | .accst .. | .accmv .. | .accovx .. => .matrix
  | .tspawn .. | .tspawnRel .. | .frd .. | .fwr .. | .fwrClr .. | .lpost .. | .give .. | .claim .. | .sread .. => .task
  | .csrrd .. | .csrwr .. | .tlbinv .. | .caprd .. | .hreg .. => .priv
  | .pkrd .. | .pkwr .. | .pkres .. | .pkretry .. | .pkredir .. | .pkkill .. => .handler
  | _ => .event

/-! ### One rule per group of majors: the prefixes it accepts (Table 6-5) and its reader (Table 6-6) -/

section
variable {pre : List Wd} {p : Pfx} {w : Wd} {i : Instr}

theorem Assembles.branch {v : Option (BitVec 26)} (hm : major w = 1)
    (h : (decBranch ⟨v, none, none, none⟩ w).map OpA.toInstr = .ok i) : Assembles (dispE v ++ [w]) i := by
  refine .intro (.imm v) (f := .a) (d := decBranch ⟨v, none, none, none⟩ w) ?_ h
  have hl : pfxLegal ⟨v, none, none, none⟩ w = true := by simp [pfxLegal, pfxAllowed, hm]
  rw [decodeBase, hl, hm]
  rfl

theorem Assembles.control (hm : major w = 2) (h : (decControl w).map OpA.toInstr = .ok i) : Assembles [w] i :=
  .word (f := .a) (d := decControl w) (by rw [decodeBase, pfxLegal_pfx0, hm]; rfl) h

theorem Assembles.scalar (hm : major w = 3) (h : (decScalar w).map OpA.toInstr = .ok i) : Assembles [w] i :=
  .word (f := .a) (d := decScalar w) (by rw [decodeBase, pfxLegal_pfx0, hm]; rfl) h

theorem Assembles.scalarImm {v : Option (BitVec 26)} (hm : major w = 4)
    (h : (decScalarImm ⟨v, none, none, none⟩ w).map OpA.toInstr = .ok i) : Assembles (dispE v ++ [w]) i := by
  refine .intro (.imm v) (f := .a) (d := decScalarImm ⟨v, none, none, none⟩ w) ?_ h
  have hl : pfxLegal ⟨v, none, none, none⟩ w = true := by simp [pfxLegal, pfxAllowed, hm]
  rw [decodeBase, hl, hm]
  rfl

theorem Assembles.special (hm : major w = 5) (h : (decSpecial w).map OpA.toInstr = .ok i) : Assembles [w] i :=
  .word (f := .a) (d := decSpecial w) (by rw [decodeBase, pfxLegal_pfx0, hm]; rfl) h

theorem Assembles.mask (hm : major w = 6) (h : (decMask w).map OpA.toInstr = .ok i) : Assembles [w] i :=
  .word (f := .a) (d := decMask w) (by rw [decodeBase, pfxLegal_pfx0, hm]; rfl) h

/-- PCMP takes an IMM word with a scalar comparand alone (R264). -/
theorem Assembles.compare (hp : Prefixed pre p) (hm : major w = 7)
    (hi : p.imm = none ∨ 3 ≤ (w.extractLsb' 0 4).toNat ∧ (w.extractLsb' 0 4).toNat ≤ 5) (hx : p.opx = none)
    (hf : p.fmt = none) (h : (decCompare p w).map OpA.toInstr = .ok i) : Assembles (pre ++ [w]) i := by
  have hl : pfxLegal p w = true := by simp [pfxLegal, pfxAllowed, hm, hx, hf]; tauto
  refine .intro hp (f := .a) (d := decCompare p w) ?_ h
  rw [decodeBase, hl, hp.zeros, hm]
  rfl

theorem Assembles.load {sp : Space} (hp : Prefixed pre p) (hm : major w = vOp 1 sp)
    (hx : p.opx = none ∨ (w.extractLsb' 0 2).toNat = 2) (hf : p.fmt = none)
    (h : (decLoad p w).map OpA.toInstr = .ok i) : Assembles (pre ++ [w]) i := by
  have hl : pfxLegal p w = true := by cases sp <;> simp [pfxLegal, pfxAllowed, hm, vOp, spaceCode, hf] <;> tauto
  refine .intro hp (f := .a) (d := decLoad p w) ?_ h
  rw [decodeBase, hl, hp.zeros, hm]
  cases sp <;> rfl

theorem Assembles.store {sp : Space} (hp : Prefixed pre p) (hm : major w = vOp 2 sp)
    (hx : p.opx = none ∨ (w.extractLsb' 0 2).toNat = 1) (hf : p.fmt = none)
    (h : (decStore p w).map OpA.toInstr = .ok i) : Assembles (pre ++ [w]) i := by
  have hl : pfxLegal p w = true := by cases sp <;> simp [pfxLegal, pfxAllowed, hm, vOp, spaceCode, hf] <;> tauto
  refine .intro hp (f := .a) (d := decStore p w) ?_ h
  rw [decodeBase, hl, hp.zeros, hm]
  cases sp <;> rfl

theorem Assembles.scalarMem {sp : Space} (hp : Prefixed pre p) (hm : major w = vOp 3 sp)
    (hx : p.opx = none ∨ w.extractLsb' 0 1 = 1#1) (hk : p.msk = none) (hf : p.fmt = none)
    (h : (decScalarMem p w).map OpA.toInstr = .ok i) : Assembles (pre ++ [w]) i := by
  have hl : pfxLegal p w = true := by cases sp <;> simp [pfxLegal, pfxAllowed, hm, vOp, spaceCode, hk, hf] <;> tauto
  refine .intro hp (f := .a) (d := decScalarMem p w) ?_ h
  rw [decodeBase, hl, hp.zeros, hm]
  cases sp <;> rfl

theorem Assembles.atomic {sp : Space} (hp : Prefixed pre p) (hm : major w = vOp 4 sp) (hf : p.fmt = none)
    (h : (decAtomic p w).map OpA.toInstr = .ok i) : Assembles (pre ++ [w]) i := by
  have hl : pfxLegal p w = true := by cases sp <;> simp [pfxLegal, pfxAllowed, hm, vOp, spaceCode, hf]
  refine .intro hp (f := .a) (d := decAtomic p w) ?_ h
  rw [decodeBase, hl, hp.zeros, hm]
  cases sp <;> rfl

theorem Assembles.vInt (e : EW) (hp : Prefixed pre p) (hm : major w = ewOp e) (hi : p.imm = none) (hf : p.fmt = none)
    (h : (decVInt e p w).map OpA.toInstr = .ok i) : Assembles (pre ++ [w]) i := by
  have hl : pfxLegal p w = true := by cases e <;> simp [pfxLegal, pfxAllowed, hm, ewOp, hi, hf]
  refine .intro hp (f := .a) (d := decVInt e p w) ?_ h
  rw [decodeBase, hl, hp.zeros, hm]
  cases e <;> rfl

theorem Assembles.vIntS (hp : Prefixed pre p) (hm : major w = 47) (hf : p.fmt = none)
    (h : (decVIntS p w).map OpA.toInstr = .ok i) : Assembles (pre ++ [w]) i := by
  have hl : pfxLegal p w = true := by simp [pfxLegal, pfxAllowed, hm, hf]
  refine .intro hp (f := .a) (d := decVIntS p w) ?_ h
  rw [decodeBase, hl, hp.zeros, hm]
  rfl

theorem Assembles.vF32 (hp : Prefixed pre p) (hm : major w = 48) (hi : p.imm = none)
    (h : (decVF32 p w).map OpB.toInstr = .ok i) : Assembles (pre ++ [w]) i := by
  have hl : pfxLegal p w = true := by simp [pfxLegal, pfxAllowed, hm, hi]
  refine .intro hp (f := .b) (d := decVF32 p w) ?_ h
  rw [decodeBase, hl, hp.zeros, hm]
  rfl

theorem Assembles.vFP (hp : Prefixed pre p) (hm : major w = 49) (hi : p.imm = none)
    (h : (decVFP p w).map OpB.toInstr = .ok i) : Assembles (pre ++ [w]) i := by
  have hl : pfxLegal p w = true := by simp [pfxLegal, pfxAllowed, hm, hi]
  refine .intro hp (f := .b) (d := decVFP p w) ?_ h
  rw [decodeBase, hl, hp.zeros, hm]
  rfl

theorem Assembles.vFS (hp : Prefixed pre p) (hm : major w = 50)
    (h : (decVFS p w).map OpB.toInstr = .ok i) : Assembles (pre ++ [w]) i := by
  have hl : pfxLegal p w = true := by simp [pfxLegal, pfxAllowed, hm]
  refine .intro hp (f := .b) (d := decVFS p w) ?_ h
  rw [decodeBase, hl, hp.zeros, hm]
  rfl

/-- Of major 51 VCVT and QCVT alone take prefixes. -/
theorem Assembles.convert (hp : Prefixed pre p) (hm : major w = 51) (hi : p.imm = none) (hx : p.opx = none)
    (hmn : (w.extractLsb' 0 5).toNat ≤ 1) (h : (decConvert p w).map OpB.toInstr = .ok i) : Assembles (pre ++ [w]) i := by
  have hacc : pfxAllowed w = (false, false, true, true) := by rw [pfxAllowed, hm]; exact if_pos hmn
  have hl : pfxLegal p w = true := by simp [pfxLegal, hacc, hi, hx]
  refine .intro hp (f := .b) (d := decConvert p w) ?_ h
  rw [decodeBase, hl, hp.zeros, hm]
  rfl

theorem Assembles.shape (hm : major w = 51) (h : (decConvert pfx0 w).map OpB.toInstr = .ok i) : Assembles [w] i :=
  .word (f := .b) (d := decConvert pfx0 w) (by rw [decodeBase, pfxLegal_pfx0, hm]; rfl) h

theorem Assembles.cross (hp : Prefixed pre p) (hm : major w = 52) (hi : p.imm = none) (hx : p.opx = none) (hf : p.fmt = none)
    (h : (decCross p w).map OpB.toInstr = .ok i) : Assembles (pre ++ [w]) i := by
  have hl : pfxLegal p w = true := by simp [pfxLegal, pfxAllowed, hm, hi, hx, hf]
  refine .intro hp (f := .b) (d := decCross p w) ?_ h
  rw [decodeBase, hl, hp.zeros, hm]
  rfl

theorem Assembles.sync (hm : major w = 53) (h : (decSync w).map OpB.toInstr = .ok i) : Assembles [w] i :=
  .word (f := .b) (d := decSync w) (by rw [decodeBase, pfxLegal_pfx0, hm]; rfl) h

theorem Assembles.async (hm : major w = 54) (h : (decAsync w).map OpB.toInstr = .ok i) : Assembles [w] i :=
  .word (f := .b) (d := decAsync w) (by rw [decodeBase, pfxLegal_pfx0, hm]; rfl) h

theorem Assembles.matrix (hm : major w = 55) (h : (decMatrix w).map OpB.toInstr = .ok i) : Assembles [w] i :=
  .word (f := .b) (d := decMatrix w) (by rw [decodeBase, pfxLegal_pfx0, hm]; rfl) h

theorem Assembles.task (hm : major w = 56) (h : (decTask w).map OpB.toInstr = .ok i) : Assembles [w] i :=
  .word (f := .b) (d := decTask w) (by rw [decodeBase, pfxLegal_pfx0, hm]; rfl) h

theorem Assembles.priv (hm : major w = 57) (h : (decPriv w).map OpB.toInstr = .ok i) : Assembles [w] i :=
  .word (f := .b) (d := decPriv w) (by rw [decodeBase, pfxLegal_pfx0, hm]; rfl) h

theorem Assembles.handler (hm : major w = 58) (h : (decHandler w).map OpB.toInstr = .ok i) : Assembles [w] i :=
  .word (f := .b) (d := decHandler w) (by rw [decodeBase, pfxLegal_pfx0, hm]; rfl) h

end

end Sys2Proof
end

section
/-! Majors 1 to 6: the encodings of control, scalar and mask instructions assemble. -/

namespace Sys2Proof

/-! ### Immediates and offsets (R218, R240, R256) -/

/-- The IMM word of an immediate of major 4. -/
def immP : Imm → Option (BitVec 26)
  | .short _ => none
  | .long v => some (v.extractLsb' 6 26)

/-- The field IMM8 of an immediate of major 4. -/
def immI : Imm → BitVec 8
  | .short i => i
  | .long v => 0#2 ++ v.extractLsb' 0 6

theorem riE_eq (mn : BitVec 4) (d a : SReg) (i : Imm) :
    riE mn d a i = dispE (immP i) ++ [riWord ⟨4, sF d, sF a, mn, immI i⟩] := by
  cases i <;> rfl

/-- The IMM word of a branch offset. -/
def off15P : Off15 → Option (BitVec 26)
  | .short _ => none
  | .long v => some (v.extractLsb' 6 26)

/-- The upper part of the field OFF15. -/
def off15Hi : Off15 → BitVec 8
  | .short o => o.extractLsb' 7 8
  | .long _ => 0

/-- The lower part of the field OFF15. -/
def off15Lo : Off15 → BitVec 7
  | .short o => o.extractLsb' 0 7
  | .long v => lo7 v

theorem brE_eq (mn : BitVec 4) (s : BitVec 7) (o : Off15) :
    brE mn s o = dispE (off15P o) ++ [bfWord ⟨1, mn, s, off15Hi o, off15Lo o⟩] := by
  cases o <;> rfl

/-- The IMM word of the offset of BALW. -/
def off7P : Off7 → Option (BitVec 26)
  | .short _ => none
  | .long v => some (v.extractLsb' 6 26)

/-- The field OFF7. -/
def off7Lo : Off7 → BitVec 7
  | .short o => o
  | .long v => lo7 v

theorem balwE_eq (s : BitVec 7) (t : BitVec 8) (o : Off7) :
    balwE s t o = dispE (off7P o) ++ [bfWord ⟨1, 7, s, t, off7Lo o⟩] := by
  cases o <;> rfl

section
variable {α : Type}

@[simp] theorem immF_immI (i : Imm) (k : Imm → Dec α) : immF ⟨immP i, none, none, none⟩ (immI i) k = k i := by
  cases i with
  | short i => rfl
  | long v => simp [-Nat.reduceAdd, immF, immP, immI, immVal_extract, extract_append]

@[simp] theorem shF_count (c : BitVec 6) (k : BitVec 6 → Dec α) : shF ⟨none, none, none, none⟩ (0#2 ++ c) k = k c := by
  simp [-Nat.reduceAdd, shF, extract_append]

@[simp] theorem off15F_field (o : Off15) (k : Off15 → Dec α) :
    off15F ⟨off15P o, none, none, none⟩ (off15Hi o) (off15Lo o) k = k o := by
  cases o with
  | short o =>
    have ho : o.extractLsb' 7 8 ++ o.extractLsb' 0 7 = o :=
      (BitVec.extractLsb'_append_extractLsb'_eq_extractLsb' rfl).trans BitVec.extractLsb'_eq_self
    simp [-Nat.reduceAdd, off15F, off15P, off15Hi, off15Lo, ho]
  | long v => simp [off15F, off15P, off15Hi, off15Lo, immVal_extract]

@[simp] theorem off7F_field (o : Off7) (k : Off7 → Dec α) : off7F ⟨off7P o, none, none, none⟩ (off7Lo o) k = k o := by
  cases o with
  | short o => rfl
  | long v => simp [off7F, off7P, off7Lo, immVal_extract]

end

theorem Assembles.offset15 {mn : BitVec 4} {s : BitVec 7} {o : Off15} {i : Instr}
    (h : (decBranch ⟨off15P o, none, none, none⟩ (bfWord ⟨1, mn, s, off15Hi o, off15Lo o⟩)).map OpA.toInstr = .ok i) :
    Assembles (brE mn s o) i := by
  rw [brE_eq]
  exact .branch (major_bfWord _) h

theorem Assembles.offset7 {s : BitVec 7} {t : BitVec 8} {o : Off7} {i : Instr}
    (h : (decBranch ⟨off7P o, none, none, none⟩ (bfWord ⟨1, 7, s, t, off7Lo o⟩)).map OpA.toInstr = .ok i) :
    Assembles (balwE s t o) i := by
  rw [balwE_eq]
  exact .branch (major_bfWord _) h

theorem Assembles.immediate {mn : BitVec 4} {d a : SReg} {v : Imm} {i : Instr}
    (h : (decScalarImm ⟨immP v, none, none, none⟩ (riWord ⟨4, sF d, sF a, mn, immI v⟩)).map OpA.toInstr = .ok i) :
    Assembles (riE mn d a v) i := by
  rw [riE_eq]
  exact .scalarImm (major_riWord _) h

/-! ### The instructions, group by group -/

section
variable {i : Instr}

theorem assembles_branch (hg : i.opGroup = .branch) : Assembles (encode i) i := by
  cases i <;> cases hg
  case balw s t o => exact .offset7 (by simp [decBranch]; rfl)
  all_goals exact .offset15 (by simp [decBranch]; rfl)

theorem assembles_control (hg : i.opGroup = .control) : Assembles (encode i) i := by
  cases i <;> cases hg <;>
    exact .control (major_rrWord _) (by simp [-Nat.reduceAdd, decControl, extract_append]; rfl)

theorem assembles_scalar (hg : i.opGroup = .scalar) : Assembles (encode i) i := by
  cases i <;> cases hg <;> exact .scalar (major_rrWord _) (by simp [decScalar]; rfl)

theorem assembles_scalarImm (hg : i.opGroup = .scalarImm) : Assembles (encode i) i := by
  cases i <;> cases hg
  case shli | shri | sari =>
    exact .scalarImm (v := none) (major_riWord _) (by simp [-Nat.reduceAdd, decScalarImm]; rfl)
  all_goals exact .immediate (by simp [decScalarImm]; rfl)

theorem assembles_special (hg : i.opGroup = .special) : Assembles (encode i) i := by
  cases i <;> cases hg <;> exact .special (major_riWord _) (by simp [decSpecial]; rfl)

theorem assembles_mask (hg : i.opGroup = .mask) : Assembles (encode i) i := by
  cases i <;> cases hg <;>
    exact .mask (major_mkWord _) (by simp [-Nat.reduceAdd, decMask, extract_append]; rfl)

end

end Sys2Proof
end

section
/-! Majors 7 and 44 to 58: the encodings of vector, cross-lane, engine and system instructions assemble. -/

namespace Sys2Proof

@[simp] theorem ccF_ccCode {α : Type} (c : Cc) (k : Cc → Dec α) : ccF (ccCode c) k = k c := by cases c <;> rfl

theorem pcWord_ty (r : PC) : (pcWord r).extractLsb' 0 4 = r.ty := congrArg PC.ty (pcOf_pcWord r)
theorem rrWord_mn (r : RR) : (rrWord r).extractLsb' 0 5 = r.mn := congrArg RR.mn (rrOf_rrWord r)

@[simp] theorem pF_high (p : PReg) : (pF p).extractLsb' 4 3 = 0#3 := by
  simp [-Nat.reduceAdd, pF, extract_append]

@[simp] theorem pF_low (p : PReg) : (pF p).extractLsb' 0 4 = p := by
  simp [-Nat.reduceAdd, pF, extract_append]

section
variable {i : Instr}

theorem assembles_compare (hg : i.opGroup = .compare) : Assembles (encode i) i := by
  cases i <;> cases hg
  next d a b cc ty m =>
  cases b with
  | vec r => cases ty <;> exact .compare (.mask m) (major_pcWord _) (.inl rfl) rfl rfl (by simp [decCompare]; rfl)
  | sca x =>
    cases ty <;>
      exact .compare (.operand x m) (major_pcWord _) (.inr (by simp [pcWord_ty])) rfl rfl (by simp [decCompare]; rfl)

theorem assembles_vInt (hg : i.opGroup = .vInt) : Assembles (encode i) i := by
  cases i <;> cases hg
  case vmad e d a b x m =>
    have := optN_le_one x
    have := optN_le_one m
    exact .vInt e (.integer (.reg 0) x m (by simp; omega)) (major_rrWord _) rfl rfl (by simp [decVInt]; rfl)
  case vmov => exact .vInt .w32 (.mask _) (major_rrWord _) rfl rfl (by simp [decVInt]; rfl)
  all_goals exact .vInt _ (.mask _) (major_rrWord _) rfl rfl (by simp [decVInt]; rfl)

theorem assembles_vIntS (hg : i.opGroup = .vIntS) (hwf : i.wf = true) : Assembles (encode i) i := by
  cases i <;> cases hg
  case vmadScalar d a b x m =>
    exact .vIntS (.integer b x m (of_decide_eq_true hwf)) (major_rrWord _) rfl (by simp [decVIntS]; rfl)
  case vabsScalar | vnegScalar | vclzScalar | vpopcScalar =>
    exact .vIntS (.mask _) (major_rrWord _) rfl (by simp [decVIntS]; rfl)
  all_goals exact .vIntS (.operand _ _) (major_rrWord _) rfl (by simp [decVIntS]; rfl)

theorem assembles_select (hg : i.opGroup = .select) (hwf : i.wf = true) : Assembles (encode i) i := by
  cases i <;> cases hg
  next d a b m =>
  have hz : (!m.z) = true := hwf
  cases b with
  | vec r => exact .vInt .w32 (.mask (some m)) (major_rrWord _) rfl rfl (by simp [decVInt, hz]; rfl)
  | sca x => exact .vIntS (.operand x (some m)) (major_rrWord _) rfl (by simp [decVIntS, hz]; rfl)

theorem assembles_vF32 (hg : i.opGroup = .vF32) (hwf : i.wf = true) : Assembles (encode i) i := by
  cases i <;> cases hg
  case vfmaF32 d a b x m rm | vfmsF32 d a b x m rm | vfnmaF32 d a b x m rm =>
    obtain ⟨hrm, hn⟩ := (Bool.and_eq_true _ _).mp hwf
    exact .vF32 (.float (.reg 0) x m rm (by simpa using hn)) (major_rrWord _) rfl (by simp [decVF32, rmF_rmP hrm]; rfl)
  all_goals exact .vF32 (.maskFloat _ _) (major_rrWord _) rfl (by simp [decVF32, rmF_rmP hwf]; rfl)

theorem assembles_vFP (hg : i.opGroup = .vFP) (hwf : i.wf = true) : Assembles (encode i) i := by
  cases i <;> cases hg
  case vfmaPacked t d a b x m rm | vfmsPacked t d a b x m rm | vfnmaPacked t d a b x m rm =>
    obtain ⟨hrm, hn⟩ := (Bool.and_eq_true _ _).mp hwf
    exact .vFP (.float (.reg 0) x m rm (by simpa using hn)) (major_rrWord _) rfl
      (by simp [-Nat.reduceAdd, decVFP, rmF_rmP hrm, extract_append]; rfl)
  all_goals
    exact .vFP (.maskFloat _ _) (major_rrWord _) rfl
      (by simp [-Nat.reduceAdd, decVFP, rmF_rmP hwf, extract_append]; rfl)

theorem assembles_vFS (hg : i.opGroup = .vFS) (hwf : i.wf = true) : Assembles (encode i) i := by
  cases i <;> cases hg
  case vfmaScalar d a b x m rm | vfmsScalar d a b x m rm | vfnmaScalar d a b x m rm =>
    obtain ⟨hrm, hn⟩ := (Bool.and_eq_true _ _).mp hwf
    exact .vFS (.float b x m rm (of_decide_eq_true hn)) (major_rrWord _) (by simp [decVFS, rmF_rmP hrm]; rfl)
  case vfaddScalar | vfsubScalar | vfmulScalar | vfminScalar | vfmaxScalar | vfdivScalar =>
    obtain ⟨hrm, hn⟩ := (Bool.and_eq_true _ _).mp hwf
    exact .vFS (.operandFloat _ _ _ (of_decide_eq_true hn)) (major_rrWord _) (by simp [decVFS, rmF_rmP hrm]; rfl)
  all_goals exact .vFS (.maskFloat _ _) (major_rrWord _) (by simp [decVFS, rmF_rmP hwf]; rfl)

theorem assembles_convert (hg : i.opGroup = .convert) (hwf : i.wf = true) : Assembles (encode i) i := by
  cases i <;> cases hg
  case vcvt d a sel src dst m rm =>
    obtain ⟨h, -⟩ := (Bool.and_eq_true _ _).mp hwf
    obtain ⟨hrm, -⟩ := (Bool.and_eq_true _ _).mp h
    exact .convert (.convert m src dst rm) (major_rrWord _) rfl rfl (by simp [rrWord_mn]) (by
      simp [-Nat.reduceAdd, decConvert, cvtF_cvP hrm, extract_append]; rfl)
  case qcvt d a b src dst m rm =>
    obtain ⟨hrm, -⟩ := (Bool.and_eq_true _ _).mp hwf
    exact .convert (.convert m src dst rm) (major_rrWord _) rfl rfl (by simp [rrWord_mn]) (by
      simp [decConvert, cvtF_cvP hrm]; rfl)
  all_goals exact .shape (major_rrWord _) (by simp [decConvert]; rfl)

theorem assembles_cross (hg : i.opGroup = .cross) (hwf : i.wf = true) : Assembles (encode i) i := by
  cases i <;> cases hg
  case voteAny | voteAll | vredAdd | vredMin | vredMax | vredMinu | vredMaxu | vredAnd | vredOr | vredXor | vredAddF32
      | vredMinF32 | vredMaxF32 =>
    exact .cross (.mask _) (major_rrWord _) rfl rfl rfl (by simp [decCross, mskNZ_mskP hwf]; rfl)
  case ballot d p k m =>
    exact .cross (.mask m) (major_rrWord _) rfl rfl rfl (by simp [decCross, mskNZ_mskP hwf]; rfl)
  all_goals exact .cross (.mask _) (major_rrWord _) rfl rfl rfl (by simp [decCross]; rfl)

theorem assembles_sync (hg : i.opGroup = .sync) (hwf : i.wf = true) : Assembles (encode i) i := by
  cases i <;> cases hg
  case wait l s c t =>
    have hl : l.extractLsb' 2 2 ++ l.extractLsb' 0 2 = l :=
      (BitVec.extractLsb'_append_extractLsb'_eq_extractLsb' rfl).trans BitVec.extractLsb'_eq_self
    have hc : c.extractLsb' 3 1 ++ c.extractLsb' 0 3 = c :=
      (BitVec.extractLsb'_append_extractLsb'_eq_extractLsb' rfl).trans BitVec.extractLsb'_eq_self
    exact .sync (major_ffWord _) (by simp [-Nat.reduceAdd, decSync, extract_append, hl, hc]; rfl)
  case tlwait n k ot c s =>
    obtain ⟨-, hk⟩ : _ ∧ (ot || decide (k = 0#4)) = true := (Bool.and_eq_true _ _).mp hwf
    exact .sync (major_ffWord _) (by simp [-Nat.reduceAdd, decSync, extract_append, hk]; rfl)
  all_goals
    exact .sync (major_ffWord _) (by simp [-Nat.reduceAdd, decSync, extract_append]; rfl)

theorem assembles_async (hg : i.opGroup = .async) (hwf : i.wf = true) : Assembles (encode i) i := by
  cases i <;> cases hg
  case tlread d ot c k =>
    have hk : (ot || decide (k = 0#4)) = true := hwf
    exact .async (major_asWord _) (by simp [-Nat.reduceAdd, decAsync, extract_append, hk]; rfl)
  all_goals
    exact .async (major_asWord _) (by simp [-Nat.reduceAdd, decAsync, spaceIs, extract_append]; rfl)

theorem assembles_matrix (hg : i.opGroup = .matrix) : Assembles (encode i) i := by
  cases i <;> cases hg <;>
    exact .matrix (major_mxWord _) (by simp [-Nat.reduceAdd, decMatrix, extract_append]; rfl)

theorem assembles_task (hg : i.opGroup = .task) (hwf : i.wf = true) : Assembles (encode i) i := by
  cases i <;> cases hg
  case tspawnRel d b =>
    have hb : b ≠ 0#6 := of_decide_eq_true hwf
    exact .task (major_rrWord _) (by simp [decTask, hb]; rfl)
  all_goals
    exact .task (major_rrWord _) (by simp [-Nat.reduceAdd, decTask, extract_append]; rfl)

theorem assembles_priv (hg : i.opGroup = .priv) : Assembles (encode i) i := by
  cases i <;> cases hg <;>
    exact .priv (major_rrWord _) (by simp [-Nat.reduceAdd, decPriv, extract_append]; rfl)

theorem assembles_handler (hg : i.opGroup = .handler) : Assembles (encode i) i := by
  cases i <;> cases hg <;> exact .handler (major_rrWord _) (by simp [decHandler]; rfl)

end

end Sys2Proof
end

section
/-! Majors 8 to 36, memory, and with them every instruction: decoding what was encoded (O1, O2, O4). -/

namespace Sys2Proof

/-! ### Addresses of memory words (R216, R225, R301, R309) -/

theorem rrWord_mn_low (r : RR) (n : Nat) (hn : n ≤ 5) : (rrWord r).extractLsb' 0 n = r.mn.extractLsb' 0 n := by
  simp [-Nat.reduceAdd, rrWord, extract_append, hn]

@[simp] theorem vOp_space (g : BitVec 3) (s : Space) : (vOp g s).extractLsb' 0 3 = spaceCode s := by
  simp [-Nat.reduceAdd, vOp, extract_append]

@[simp] theorem spaceF_spaceCode {α : Type} (s : Space) (k : Space → Dec α) : spaceF (spaceCode s) k = k s := by
  cases s <;> rfl

@[simp] theorem xselF_xE (x : XSel) : xselF (xE x) = x := by
  cases x <;> simp [-Nat.reduceAdd, xselF, xE, sF, extract_append]

@[simp] theorem vaddrF_address {α : Type} (a : VAddr) {x : Option Opx} {m : Option MskW} {f : Option Fmt} (g : BitVec 3)
    (d : BitVec 7) (mn : BitVec 5) (k : VAddr → Dec α) : vaddrF ⟨a.disp, x, m, f⟩ ⟨vOp g a.sp, d, sF a.base, a.x, mn⟩ k = k a := by
  simp [vaddrF]

@[simp] theorem saddrF_address {α : Type} (a : SAddr) {x : Option Opx} {m : Option MskW} {f : Option Fmt} (g : BitVec 3)
    (d : BitVec 7) (mn : BitVec 5) (k : SAddr → Dec α) : saddrF ⟨a.disp, x, m, f⟩ ⟨vOp g a.sp, d, sF a.base, xE a.x, mn⟩ k = k a := by
  simp [saddrF]

/-- The two low bits of a minor whose last two fields have one bit each. -/
theorem extract_two_bits (z : BitVec 3) (a b : BitVec 1) : (z ++ a ++ b).extractLsb' 0 2 = a ++ b := by
  rw [BitVec.append_assoc]
  simp [-Nat.reduceAdd, extract_append]

section
variable {i : Instr}

/-- A size field of at most 6 is none of a prefetch (Table 6-7). -/
theorem size_ne_seven {z : BitVec 3} (h : decide (z.toNat ≤ 6) = true) : z ≠ 7#3 := by
  rintro rfl
  exact absurd h (by decide)

theorem assembles_load (hg : i.opGroup = .load) (hwf : i.wf = true) : Assembles (encode i) i := by
  cases i <;> cases hg
  case ld y z d a m =>
    obtain ⟨hz, -⟩ := (Bool.and_eq_true _ _).mp hwf
    have hz7 := size_ne_seven hz
    refine .load (.memory a.disp m) (major_rrWord _) (.inl rfl) rfl ?_
    cases y <;> (simp [-Nat.reduceAdd, decLoad, hz7, bit1, extract_two_bits, extract_append]; rfl)
  case ldAcq z sc d a m =>
    obtain ⟨h, -⟩ := (Bool.and_eq_true _ _).mp hwf
    obtain ⟨h, hz⟩ := (Bool.and_eq_true _ _).mp h
    obtain ⟨-, hn⟩ := (Bool.and_eq_true _ _).mp h
    have hz7 := size_ne_seven hz
    exact .load (.memoryOpx a.disp (x := scP sc) m rfl (of_decide_eq_true hn)) (major_rrWord _)
      (.inr (by simp [-Nat.reduceAdd, rrWord_mn_low, extract_append])) rfl
      (by simp [-Nat.reduceAdd, decLoad, hz7, extract_append]; rfl)
  all_goals
    exact .load (.memory _ _) (major_rrWord _) (.inl rfl) rfl (by simp [decLoad, mskNZ_mskP hwf]; rfl)

theorem assembles_store (hg : i.opGroup = .store) (hwf : i.wf = true) : Assembles (encode i) i := by
  cases i <;> cases hg
  case st n z a d m =>
    obtain ⟨h, hm⟩ := (Bool.and_eq_true _ _).mp hwf
    obtain ⟨hz, -⟩ := (Bool.and_eq_true _ _).mp h
    refine .store (.memory a.disp m) (major_rrWord _) (.inl rfl) rfl ?_
    cases n <;>
      (simp [-Nat.reduceAdd, decStore, mskNZ_mskP hm, hz, bit1, extract_two_bits, extract_append]; rfl)
  case stRel z sc a d m =>
    obtain ⟨h, hm⟩ := (Bool.and_eq_true _ _).mp hwf
    obtain ⟨h, -⟩ := (Bool.and_eq_true _ _).mp h
    obtain ⟨h, hz⟩ := (Bool.and_eq_true _ _).mp h
    obtain ⟨-, hn⟩ := (Bool.and_eq_true _ _).mp h
    exact .store (.memoryOpx a.disp (x := scP sc) m rfl (of_decide_eq_true hn)) (major_rrWord _)
      (.inr (by simp [-Nat.reduceAdd, rrWord_mn_low, extract_append])) rfl
      (by simp [-Nat.reduceAdd, decStore, mskNZ_mskP hm, hz, extract_append]; rfl)

theorem assembles_scalarMem (hg : i.opGroup = .scalarMem) (hwf : i.wf = true) : Assembles (encode i) i := by
  cases i <;> cases hg
  case ldScalar z d a | stScalar z a d =>
    exact .scalarMem (.memory a.disp none) (major_rrWord _) (.inl rfl) rfl rfl
      (by simp [-Nat.reduceAdd, decScalarMem, of_decide_eq_true hwf, extract_append]; rfl)
  case ldScalarAcq z sc d a | stScalarRel z sc a d =>
    obtain ⟨-, hz⟩ := (Bool.and_eq_true _ _).mp hwf
    exact .scalarMem (.memoryOpx a.disp (x := scP sc) none rfl (by have := optN_le_one a.disp; simp; omega)) (major_rrWord _)
      (.inr (by simp [-Nat.reduceAdd, rrWord_mn_low, extract_append])) rfl rfl
      (by simp [-Nat.reduceAdd, decScalarMem, hz, extract_append]; rfl)

/-- The words of an atomic assemble to what its operation code names (R227). -/
theorem assembles_atE {op : BitVec 4} {x : Atom} {n : Nat} (hok : x.ok n = true)
    (hop : (atomOp op.toNat x).map OpA.toInstr = .ok i) : Assembles (atE op x) i := by
  obtain ⟨_, hn⟩ := (Bool.and_eq_true _ _).mp hok
  obtain ⟨o, ty, ann, scope, ret, m⟩ := x
  cases o with
  | vec d a e =>
    have hn : optN m + 1 + optN a.disp ≤ 2 := of_decide_eq_true hn
    refine .atomic (.memoryOpx a.disp m rfl (by omega)) (major_rrWord _) rfl (Eq.trans ?_ hop)
    simp [-Nat.reduceAdd, decAtomic, extract_append]
  | sca d a e =>
    have hn : optN m + 1 + optN a.disp ≤ 2 := of_decide_eq_true hn
    refine .atomic (.memoryOpx a.disp m rfl (by omega)) (major_rrWord _) rfl (Eq.trans ?_ hop)
    simp [-Nat.reduceAdd, decAtomic, extract_append]

theorem assembles_atomic (hg : i.opGroup = .atomic) (hwf : i.wf = true) : Assembles (encode i) i := by
  cases i <;> cases hg <;> exact assembles_atE hwf rfl

/-- An event has no words (R208). -/
theorem not_wf_event (hg : i.opGroup = .event) : i.wf = false := by
  cases i <;> cases hg <;> rfl

/-- The encoding of a well-formed instruction assembles to it. -/
theorem assembles_encode (hwf : i.wf = true) : Assembles (encode i) i := by
  cases hg : i.opGroup with
  | branch => exact assembles_branch hg
  | control => exact assembles_control hg
  | scalar => exact assembles_scalar hg
  | scalarImm => exact assembles_scalarImm hg
  | special => exact assembles_special hg
  | mask => exact assembles_mask hg
  | compare => exact assembles_compare hg
  | load => exact assembles_load hg hwf
  | store => exact assembles_store hg hwf
  | scalarMem => exact assembles_scalarMem hg hwf
  | atomic => exact assembles_atomic hg hwf
  | vInt => exact assembles_vInt hg
  | vIntS => exact assembles_vIntS hg hwf
  | select => exact assembles_select hg hwf
  | vF32 => exact assembles_vF32 hg hwf
  | vFP => exact assembles_vFP hg hwf
  | vFS => exact assembles_vFS hg hwf
  | convert => exact assembles_convert hg hwf
  | cross => exact assembles_cross hg hwf
  | sync => exact assembles_sync hg hwf
  | async => exact assembles_async hg hwf
  | matrix => exact assembles_matrix hg
  | task => exact assembles_task hg hwf
  | priv => exact assembles_priv hg
  | handler => exact assembles_handler hg
  | event => exact absurd hwf (by simp [not_wf_event hg])

end

/-! ### The statements about encoding -/

/-- Settles O1: the encoding of every instruction is prefixes and a base word that decode to it. -/
theorem decodeOfEncode : Obligations.DecodeOfEncode :=
  fun _ rest hwf => (assembles_encode hwf).decode_append rest

/-- Settles O2: what assembles has at most two prefixes, and a base word that decodes is neither one of them nor a header. -/
theorem encodedWords : Obligations.EncodedWords :=
  fun _ hwf => (assembles_encode hwf).words

/-- One word that is the encoding of a well-formed instruction decodes to it. -/
theorem decode_word {w : Wd} {i : Instr} (hwf : i.wf = true) (henc : encode i = [w]) : decode [w] = .ok (i, 1) := by
  simpa [henc] using decodeOfEncode i [] hwf

/-- Settles O4: each word is the encoding of its instruction. -/
theorem knownWordsDecode : Obligations.KnownWordsDecode :=
  ⟨decode_word rfl rfl, decode_word rfl rfl, decode_word rfl rfl, decode_word rfl rfl, decode_word rfl rfl, decode_word rfl rfl,
    decode_word rfl rfl, decode_word rfl rfl⟩

end Sys2Proof
end

section
/-! Scalar arithmetic of majors 3 and 4 (O17, O18, O19). -/

namespace Sys2Proof.Machine

section
variable {s : State} {t : Team} {i : Instr} {d a : SReg}

/-- An instruction of two scalar sources writes its function of them (R255). -/
theorem exec_of_sop2 {b : SReg} (h : Ready s t 0 [.s a, .s b, .s d]) (f : Dw → Dw → Dw)
    (hi : exec i s = sop2 d a b f s) : exec i s = .next (s.retire (t.setS d (f (t.s a) (t.s b)))).tick :=
  hi.trans (issue_plain (i := { sr := [a, b], sw := [d] }) h ⟨rfl, rfl, rfl, rfl, rfl, rfl, rfl⟩ (by simp [Team.has]) _)

/-- An instruction of one scalar source writes its function of it (R255, R256). -/
theorem exec_of_sop1 (h : Ready s t 0 [.s a, .s d]) (f : Dw → Dw) (hi : exec i s = sop1 d a f s) :
    exec i s = .next (s.retire (t.setS d (f (t.s a)))).tick :=
  hi.trans (issue_plain (i := { sr := [a], sw := [d] }) h ⟨rfl, rfl, rfl, rfl, rfl, rfl, rfl⟩ (by simp [Team.has]) _)

theorem exec_li (h : Ready s t 0 [.s d]) (n : Imm) : exec (.li d n) s = .next (s.retire (t.setS d (immSext n))).tick :=
  issue_plain (i := { sw := [d] }) h ⟨rfl, rfl, rfl, rfl, rfl, rfl, rfl⟩ (by simp [Team.has]) _

end

/-- A choice by a signed comparison is a choice by the signed values. -/
theorem ite_slt (x y u v : Dw) : (if x.slt y then u else v) = if x.toInt < y.toInt then u else v :=
  if_congr BitVec.slt_iff_toInt_lt rfl rfl

/-- A choice by an unsigned comparison is a choice by the unsigned values. -/
theorem ite_ult (x y u v : Dw) : (if x.ult y then u else v) = if x.toNat < y.toNat then u else v :=
  if_congr BitVec.ult_iff_toNat_lt rfl rfl

/-- Settles O17: each instruction is its function of the two sources. -/
theorem scalarThreeRegister : Obligations.ScalarThreeRegister := by
  intro s t d a b h
  have result {i : Instr} := exec_of_sop2 (i := i) h
  refine ⟨result (fun x y => x + y) rfl, result (fun x y => x - y) rfl, result (fun x y => x * y) rfl,
    result (fun x y => BitVec.ofInt 64 (x.toInt * y.toInt / 2 ^ 64)) rfl,
    result (fun x y => BitVec.ofNat 64 (x.toNat * y.toNat / 2 ^ 64)) rfl,
    result (fun x y => x &&& y) rfl, result (fun x y => x ||| y) rfl, result (fun x y => x ^^^ y) rfl,
    result (fun x y => x &&& ~~~y) rfl, result (fun x y => x <<< (y.toNat % 64)) rfl,
    result (fun x y => x >>> (y.toNat % 64)) rfl, result (fun x y => x.sshiftRight (y.toNat % 64)) rfl,
    result (fun x y => x.rotateLeft (y.toNat % 64)) rfl,
    ?min, ?max, ?minu, ?maxu, ?slt, ?sltu, result (fun x y => if x = y then 1 else 0) rfl⟩
  case min => simpa only [ite_slt] using result (fun x y => if x.slt y then x else y) rfl
  case max => simpa only [ite_slt] using result (fun x y => if x.slt y then y else x) rfl
  case minu => simpa only [ite_ult] using result (fun x y => if x.ult y then x else y) rfl
  case maxu => simpa only [ite_ult] using result (fun x y => if x.ult y then y else x) rfl
  case slt => simpa only [ite_slt] using result (fun x y => if x.slt y then 1 else 0) rfl
  case sltu => simpa only [ite_ult] using result (fun x y => if x.ult y then 1 else 0) rfl

/-! ### Division, leading zeros and ones -/

/-- The quotient of the least value and -1 is out of range: DIV wraps to the least value, and REM gives 0 (Table 7-5). -/
theorem divS_remS_overflow :
    divS 0x8000000000000000 (BitVec.allOnes 64) = 0x8000000000000000 ∧ remS 0x8000000000000000 (BitVec.allOnes 64) = 0 := by
  decide

/-- CLZ gives the number of zeros above the highest one bit. -/
theorem clzNat_iff (x : Dw) (n : Nat) :
    clzNat 64 x.toNat = n ↔ n ≤ 64 ∧ x.toNat < 2 ^ (64 - n) ∧ (n < 64 → 2 ^ (63 - n) ≤ x.toNat) := by
  rw [show 63 - n = 64 - n - 1 by omega]
  exact eClz_iff x.isLt n

/-- Settles O18: quotients and remainders with their corners, leading zeros by `clzNat_iff`, ones by `popNat_eq_length`. -/
theorem scalarDivision : Obligations.ScalarDivision := by
  intro s t d a b
  refine ⟨fun h => ?_, fun h => ?_⟩
  · have hdiv := exec_of_sop2 (i := .div d a b) h divS rfl
    have hrem := exec_of_sop2 (i := .rem d a b) h remS rfl
    refine ⟨hdiv, exec_of_sop2 h divU rfl, hrem, exec_of_sop2 h remU rfl, fun ha hb => ?_⟩
    obtain ⟨hleast, hzero⟩ := divS_remS_overflow
    rw [ha, hb] at hdiv hrem
    exact ⟨hleast ▸ hdiv, hzero ▸ hrem⟩
  · have hclz := exec_of_sop1 (i := .clz d a) h (fun x => BitVec.ofNat 64 (clzNat 64 x.toNat)) rfl
    have hpopc := exec_of_sop1 (i := .popc d a) h (fun x => BitVec.ofNat 64 (popNat 64 x.toNat)) rfl
    refine ⟨fun n hn hup hlow => ?_, ⟨_, (clzNat_iff (t.s a) _).mp rfl⟩, ?_⟩
    · rwa [(clzNat_iff _ n).mpr ⟨hn, hup, hlow⟩] at hclz
    · rwa [popNat_eq_length] at hpopc

/-! ### Immediates -/

/-- Settles O19: each form is its function of the source and the immediate, which keeps its signed value. -/
theorem scalarImmediate : Obligations.ScalarImmediate := by
  intro s t d a j n
  refine ⟨fun h => ?_, fun h => exec_li h j, fun x => BitVec.toInt_signExtend_of_le (by decide),
    fun x => BitVec.toInt_signExtend_of_le (by decide)⟩
  have result {i : Instr} := exec_of_sop1 (i := i) h
  refine ⟨result (fun x => x + immSext j) rfl, result (fun x => x * immSext j) rfl, result (fun x => x &&& immSext j) rfl,
    result (fun x => x ||| immSext j) rfl, result (fun x => x ^^^ immSext j) rfl, ?slti, ?sltui,
    result (fun x => if x = immSext j then 1 else 0) rfl, result (fun x => immWord j ++ x.setWidth 32) rfl,
    result (fun x => x <<< n.toNat) rfl, result (fun x => x >>> n.toNat) rfl, result (fun x => x.sshiftRight n.toNat) rfl⟩
  case slti => simpa only [ite_slt] using result (fun x => if x.slt (immSext j) then 1 else 0) rfl
  case sltui => simpa only [ite_ult] using result (fun x => if x.ult (immSext j) then 1 else 0) rfl

end Sys2Proof.Machine
end

section
/-! Whole-mask and predicate-logic instructions, MCNT and MFIRST (O21). -/

namespace Sys2Proof.Machine

/-- The lowest one bit is the first place that holds one. -/
theorem lowBit_eq_find? (n i x : Nat) : lowBit n i x = ((List.range n).find? (fun k => x.testBit k)).map (i + ·) := by
  induction n generalizing i x with
  | zero => rfl
  | succ n ih =>
    have hrest : (fun k => x.testBit k) ∘ Nat.succ = fun k => (x / 2).testBit k := funext fun k => Nat.testBit_succ x k
    rw [lowBit, ih, List.range_succ_eq_map, List.find?_cons, Nat.testBit_zero, List.find?_map, hrest]
    by_cases h : x % 2 = 1
    · simp [h]
    · simp [h, Function.comp_def, Nat.add_assoc, Nat.add_comm 1]

section
variable {s : State} {t : Team}

theorem exec_msave (h : Ready s t 1 []) (d : PReg) :
    exec (.msave d) s = .next (s.retire (t.setP d t.live t.regs.exec)).tick :=
  issue_plain (i := { pw := [d], eng := 1, ex := true }) h ⟨rfl, rfl, rfl, rfl, rfl, rfl, rfl⟩ (by simp [Team.has]) _

/-- A whole-mask instruction writes EXEC with its function of EXEC and the predicate (R260). -/
theorem maskOp_ready (h : Ready s t 1 []) (a : PReg) (reads : Bool) (f : Mask → Mask → Mask) :
    maskOp a reads f s = .next (s.retire (t.setExec (f t.regs.exec (t.p a)))).tick :=
  issue_plain (i := { pr := [a], eng := 1, ex := reads, xw := (List.range 16).map (0x20 + ·) }) h
    ⟨rfl, rfl, rfl, rfl, rfl, rfl, rfl⟩ (by simp [Team.has]) _

/-- The active lanes whose bit of a predicate is set, ascending (R260). -/
def Team.hits (t : Team) (a : PReg) : List Nat :=
  (List.range t.width).filter (fun l => t.regs.exec.getLsbD l && (t.p a).getLsbD l)

/-- The hits are the one bits of EXEC and the predicate below WIDTH. -/
theorem Team.hits_eq (t : Team) (a : PReg) :
    t.hits a = (List.range t.width).filter (fun l => (t.regs.exec &&& t.p a).toNat.testBit l) := by
  simp only [Team.hits, BitVec.testBit_toNat, BitVec.getLsbD_and]

theorem exec_mcnt {d : SReg} (h : Ready s t 1 [.s d]) (a : PReg) :
    exec (.mcnt d a) s = .next (s.retire (t.setS d (BitVec.ofNat 64 (t.hits a).length))).tick := by
  rw [t.hits_eq, ← popNat_eq_length]
  exact issue_plain (i := { pr := [a], sw := [d], eng := 1, ex := true }) h ⟨rfl, rfl, rfl, rfl, rfl, rfl, rfl⟩
    (by simp [Team.has]) _

/-- The lowest one bit of EXEC and a predicate is the first hit. -/
theorem Team.lowBit_hits (t : Team) (a : PReg) : lowBit t.width 0 (t.regs.exec &&& t.p a).toNat = (t.hits a).head? := by
  rw [lowBit_eq_find?, t.hits_eq, List.head?_filter]
  simp

theorem exec_mfirst {d : SReg} (h : Ready s t 1 [.s d]) (a : PReg) : exec (.mfirst d a) s =
    .next (s.retire (t.setS d ((t.hits a).head?.elim (BitVec.allOnes 64) (BitVec.ofNat 64)))).tick := by
  refine (issue_plain (i := { pr := [a], sw := [d], eng := 1, ex := true }) h ⟨rfl, rfl, rfl, rfl, rfl, rfl, rfl⟩
    (by simp [Team.has]) _).trans ?_
  rw [← t.lowBit_hits]
  cases lowBit t.width 0 (t.regs.exec &&& t.p a).toNat <;> rfl

end

/-- Settles O21: whole masks write EXEC, predicate logic writes the active lanes, MCNT and MFIRST read the hits. -/
theorem maskInstructions : Obligations.MaskInstructions := by
  intro s t ds d a b hw
  refine ⟨fun h => ?_, fun h => ⟨t.hits a, rfl, exec_mcnt h a, ?_⟩⟩
  · refine ⟨exec_msave h d, maskOp_ready h a false (fun _ p => p), maskOp_ready h a true (fun e p => e &&& p),
      maskOp_ready h a true (fun e p => e &&& ~~~p), maskOp_ready h a true (fun e p => e ||| p),
      maskOp_ready h a true (fun e p => p &&& ~~~e), ⟨_, exec_pnot h d a, fun l hl => ?_⟩,
      ⟨_, predOp_ready h d a b (fun x y => x &&& y), fun l _ => BitVec.getLsbD_and⟩,
      ⟨_, predOp_ready h d a b (fun x y => x ||| y), fun l _ => BitVec.getLsbD_or⟩,
      ⟨_, predOp_ready h d a b (fun x y => x ^^^ y), fun l _ => BitVec.getLsbD_xor⟩,
      ⟨_, predOp_ready h d a b (fun x y => x &&& ~~~y), fun l hl => ?_⟩⟩
    · simp [show l < 1024 by omega]
    · simp [show l < 1024 by omega]
  · rw [exec_mfirst h a]
    cases t.hits a <;> rfl

end Sys2Proof.Machine
end

section
/-! Branches, transfers through a register and control without an offset (O14, O15, O16). -/

namespace Sys2Proof.Machine

/-! ### Transfers (R240, R246) -/

theorem State.branchTo_canonical {t : Team} {o : Dw} (h : canonical (t.target o) = true) (s : State) :
    s.branchTo t o = s.jump t (t.target o) := if_pos h

theorem State.branchTo_nonCanonical {t : Team} {o : Dw} (h : canonical (t.target o) = false) (s : State) :
    s.branchTo t o = s.park t (mkF .illegalTarget .nonCanonical 0 0) := if_neg (by simp [h])

theorem State.jumpReg_canonical {x : Dw} (halign : x.toNat % 4 = 0) (h : canonical x = true) (s : State) (t : Team)
    (link : Bool) : s.jumpReg t x link = s.jump (if link then t.setS 61 t.nextClause else t) x := by
  simp [State.jumpReg, halign, h]

theorem State.jumpReg_unaligned {x : Dw} (halign : x.toNat % 4 ≠ 0) (s : State) (t : Team) (link : Bool) :
    s.jumpReg t x link = s.park t (mkF .illegalTarget .unaligned 0 0) := if_pos halign

theorem State.jumpReg_nonCanonical {x : Dw} (halign : x.toNat % 4 = 0) (h : canonical x = false) (s : State) (t : Team)
    (link : Bool) : s.jumpReg t x link = s.park t (mkF .illegalTarget .nonCanonical 0 0) := by
  simp [State.jumpReg, halign, h]

/-! ### The instructions that transfer, at the end of their clause (R212) -/

/-- A ready team at the last instruction of its clause runs the effect of a transfer. -/
theorem issue_transfer {s : State} {t : Team} {i : Info} (h : Ready s t 5 i.dests) (hlast : t.atLast = true)
    (hi : i.IsTransfer) (hlvl : i.lvl = 0) (k : Team → State → State) : issue i k s = .next (k t s).tick :=
  issue_ready (hi.eng.symm ▸ h) hi.bad (by simp [hi.pairs]) (by simp [hi.regs]) (by simp [hi.tiles]) hi.fmt
    (fun _ => hlast) (by simp [hi.eng]) (by simp [hlvl]) (by simp [hlvl]) k

theorem brInfo_isTransfer (rs : List SReg) : (brInfo rs).IsTransfer := ⟨rfl, rfl, rfl, rfl, rfl, rfl, rfl⟩

section
variable {s : State} {t : Team} (hlast : t.atLast = true) {a : SReg} {p : PReg} {o : Off15}
include hlast

theorem exec_br (h : Ready s t 5 []) (o : Off15) : exec (.br o) s = .next (s.branchTo t (off15 o)).tick :=
  issue_transfer h hlast (brInfo_isTransfer []) rfl _

/-- A branch on a scalar register goes when its condition holds (R241). -/
theorem branchS_ready (h : Ready s t 5 [.s a]) (o : Off15) (f : Dw → Bool) :
    branchS a o f s = .next (if f (t.s a) then s.branchTo t (off15 o) else s.retire t).tick :=
  issue_transfer h hlast (brInfo_isTransfer [a]) rfl _

theorem branchS_taken (h : Ready s t 5 [.s a]) (hcan : canonical (t.target (off15 o)) = true) (f : Dw → Bool)
    (hf : f (t.s a) = true) : branchS a o f s = .next (s.jump t (t.target (off15 o))).tick := by
  rw [branchS_ready hlast h, if_pos hf, State.branchTo_canonical hcan]

theorem branchS_notTaken (h : Ready s t 5 [.s a]) (f : Dw → Bool) (hf : f (t.s a) = false) :
    branchS a o f s = .next (s.retire t).tick := by
  rw [branchS_ready hlast h, if_neg (by simp [hf])]

/-- A branch on a predicate goes when an active lane of it being set is what it asks for (R241). -/
theorem branchP_ready (h : Ready s t 5 []) (p : PReg) (o : Off15) (any : Bool) : branchP p o any s =
    .next (if (t.regs.exec &&& t.p p ≠ 0) = any then s.branchTo t (off15 o) else s.retire t).tick :=
  issue_transfer (i := { pr := [p], eng := 5, xfer := true, ex := true }) h hlast ⟨rfl, rfl, rfl, rfl, rfl, rfl, rfl⟩ rfl _

theorem branchP_taken (h : Ready s t 5 []) (hcan : canonical (t.target (off15 o)) = true) {any : Bool}
    (hp : t.regs.exec &&& t.p p ≠ 0 ↔ any = true) : branchP p o any s = .next (s.jump t (t.target (off15 o))).tick := by
  rw [branchP_ready hlast h, if_pos (propext hp), State.branchTo_canonical hcan]

theorem branchP_notTaken (h : Ready s t 5 []) {any : Bool} (hp : ¬(t.regs.exec &&& t.p p ≠ 0 ↔ any = true)) :
    branchP p o any s = .next (s.retire t).tick := by
  rw [branchP_ready hlast h, if_neg fun he => hp he.to_iff]

theorem exec_balw (h : Ready s t 5 [.s a]) (thr : BitVec 8) (o : Off7) : exec (.balw a thr o) s =
    .next (if thr.toNat ≤ s.allowRead t (t.s a).toNat then s.branchTo t (off7 o) else s.retire t).tick :=
  issue_transfer h hlast (brInfo_isTransfer [a]) rfl _

theorem exec_call (h : Ready s t 5 [.s 61]) (o : Off15) : exec (.call o) s =
    .next (if canonical (t.target (off15 o)) then s.jump (t.setS 61 t.nextClause) (t.target (off15 o))
      else s.park t (mkF .illegalTarget .nonCanonical 0 0)).tick :=
  issue_transfer (i := { sw := [61], eng := 5, xfer := true }) h hlast ⟨rfl, rfl, rfl, rfl, rfl, rfl, rfl⟩ rfl _

/-- RET and BRR transfer through the register, without a link (R246). -/
theorem exec_ret_brr (h : Ready s t 5 [.s a]) :
    exec (.ret a) s = .next (s.jumpReg t (t.s a) false).tick ∧ exec (.brr a) s = .next (s.jumpReg t (t.s a) false).tick :=
  have hissue := issue_transfer h hlast (brInfo_isTransfer [a]) rfl (fun t s => s.jumpReg t (t.s a) false)
  ⟨hissue, hissue⟩

theorem exec_callr (h : Ready s t 5 [.s a, .s 61]) : exec (.callr a) s = .next (s.jumpReg t (t.s a) true).tick :=
  issue_transfer (i := { brInfo [a] with sw := [61] }) h hlast ⟨rfl, rfl, rfl, rfl, rfl, rfl, rfl⟩ rfl _

theorem exec_exit (h : Ready s t 5 []) : exec .exit s =
    .next ((s.modPart (s.ctx (s.ctxOf t)).part (fun p => { p with lastEvent := s.clk })).endTeam t (.exited t.pc)).tick :=
  issue_transfer (i := { eng := 5, xfer := true, stop := true }) h hlast ⟨rfl, rfl, rfl, rfl, rfl, rfl, rfl⟩ rfl _

end

/-- Settles O14: each branch by whether it goes, the transfers through a register by `State.jumpReg_canonical`. -/
theorem branchesTransfer : Obligations.BranchesTransfer := by
  intro s t a p o q thr hlast
  refine ⟨fun h hcan => ?br, fun h => ⟨fun hcan => ⟨fun ha => ?eq, fun ha => ?ne, fun ha => ?lt, fun ha => ?ge⟩,
      fun ha => ?eqNot, fun ha => ?neNot, fun ha => ?ltNot, fun ha => ?geNot⟩,
    fun h => ⟨fun hcan => ⟨fun hp => ?any, fun hp => ?none⟩, fun hp => ?anyNot, fun hp => ?noneNot⟩,
    fun h => ⟨fun hcan hthr => ?balw, fun hthr => ?balwNot⟩, fun h hcan => ?call,
    fun hcan halign => ⟨fun h => ?ret, fun h => ?callr⟩⟩
  case br => rw [exec_br hlast h, State.branchTo_canonical hcan]
  case eq => exact branchS_taken hlast h hcan (fun x => x == 0) (by simpa using ha)
  case ne => exact branchS_taken hlast h hcan (fun x => x != 0) (by simpa using ha)
  case lt => exact branchS_taken hlast h hcan (fun x => x.msb) (by simpa [BitVec.msb_eq_toInt] using ha)
  case ge => exact branchS_taken hlast h hcan (fun x => !x.msb) (by simpa [BitVec.msb_eq_toInt] using ha)
  case eqNot => exact branchS_notTaken hlast h (fun x => x == 0) (by simpa using ha)
  case neNot => exact branchS_notTaken hlast h (fun x => x != 0) (by simpa using ha)
  case ltNot => exact branchS_notTaken hlast h (fun x => x.msb) (by simpa [BitVec.msb_eq_toInt] using ha)
  case geNot => exact branchS_notTaken hlast h (fun x => !x.msb) (by simpa [BitVec.msb_eq_toInt] using ha)
  case any => exact branchP_taken hlast h hcan (iff_of_true hp rfl)
  case none => exact branchP_taken hlast h hcan (iff_of_false (not_not.mpr hp) Bool.false_ne_true)
  case anyNot => exact branchP_notTaken hlast h fun hiff => hiff.mpr rfl hp
  case noneNot => exact branchP_notTaken hlast h fun hiff => Bool.false_ne_true (hiff.mp hp)
  case balw => rw [exec_balw hlast h, if_pos hthr, State.branchTo_canonical hcan]
  case balwNot => rw [exec_balw hlast h, if_neg (by omega)]
  case call => rw [exec_call hlast h, if_pos hcan]; rfl
  case ret =>
    obtain ⟨hret, hbrr⟩ := exec_ret_brr hlast h
    rw [hret, hbrr, State.jumpReg_canonical halign hcan]
    exact ⟨rfl, rfl⟩
  case callr => rw [exec_callr hlast h, State.jumpReg_canonical halign hcan]; rfl

/-- Settles O15: a target out of range or out of place parks the team in place of the transfer. -/
theorem badTargetsPark : Obligations.BadTargetsPark := by
  intro s t a o hlast
  have through {f : FaultInfo} (hpark : ∀ link, s.jumpReg t (t.s a) link = s.park t f) :
      (Ready s t 5 [.s a] → exec (.ret a) s = .next (s.park t f).tick ∧ exec (.brr a) s = .next (s.park t f).tick) ∧
        (Ready s t 5 [.s a, .s 61] → exec (.callr a) s = .next (s.park t f).tick) :=
    ⟨fun h => hpark false ▸ exec_ret_brr hlast h, fun h => hpark true ▸ exec_callr hlast h⟩
  refine ⟨fun hcan => ⟨fun h => ?_, fun h => ?_⟩, fun halign => through (State.jumpReg_unaligned halign s t),
    fun halign hcan => through (State.jumpReg_nonCanonical halign hcan s t)⟩
  · rw [exec_br hlast h, State.branchTo_nonCanonical hcan]
  · rw [exec_call hlast h, if_neg (by simp [hcan])]

/-! ### Control without an offset (R249 to R254) -/

/-- An instruction of the control class that names no vector register runs its effect in a ready team. -/
theorem issue_control {s : State} {t : Team} {i : Info} (h : Ready s t 5 i.dests) (hi : i.PlainControl) (hlvl : i.lvl = 0)
    (k : Team → State → State) : issue i k s = .next (k t s).tick :=
  issue_plain (hi.eng.symm ▸ h) ⟨hi.bad, hi.pairs, hi.tiles, hi.fmt, hi.xfer, by simp [hi.eng], hlvl⟩
    (by simp [Team.has, hi.regs]) k

section
variable {s : State} {t : Team}

theorem exec_nop (h : Ready s t 0 []) : exec .nop s = .next (s.retire t).tick :=
  issue_plain (i := {}) h ⟨rfl, rfl, rfl, rfl, rfl, rfl, rfl⟩ (by simp [Team.has]) _

theorem exec_yld (h : Ready s t 5 []) : exec .yld s = .next (s.retire { t with yieldNow := true }).tick :=
  issue_control (i := { eng := 5 }) h {} rfl _

theorem exec_trap (h : Ready s t 5 []) (n : BitVec 7) :
    exec (.trap n) s = .next (s.park t (mkF .illegalEncoding .trap n.toNat 0)).tick :=
  issue_control (i := { eng := 5 }) h {} rfl _

theorem exec_pen (h : Ready s t 5 []) : exec .pen s = .next (s.retire { t with pdis := false, pdLeft := 0 }).tick :=
  issue_control (i := { eng := 5, xw := [0x0D] }) h {} rfl _

theorem exec_pdis (h : Ready s t 5 []) : exec .pdis s = .next (if t.pdis then s.retire t
    else s.retire { t with pdis := true, pdLeft := (s.groupOf t).pdBud, pdAt := s.clk }).tick :=
  issue_control (i := { eng := 5, xr := [0x0D], xw := [0x0D] }) h {} rfl _

theorem exec_icinv {c : BitVec 3} {a b : SReg} (h : Ready s t 5 [.s a, .s b]) (hc : scopeOk c = true) :
    exec (.icinv c a b) s = .next (if (t.s b).toNat ≠ 0 ∧ 2 ^ 52 < (t.s a).toNat + (t.s b).toNat then
        s.park t (mkF .spaceBounds .nonCanonical (max (t.s a).toNat (2 ^ 52)) 4)
      else if s.openWrites t.key ≠ [] then s.deschedule t .sys
      else (s.dropCode (coresIn c.toNat (s.groupOf t).core) (t.s a).toNat (t.s b).toNat).retire t).tick :=
  issue_control (i := { bad := if scopeOk c then none else some .reservedScope, sr := [a, b], eng := 5, stop := true }) h
    { bad := if_pos hc } rfl _

end

/-! ### Lines dropped from the instruction caches (R168, R253) -/

/-- Dropping code changes nothing of a core but its instruction cache. -/
theorem State.dropCode_ic (s : State) (cs : List Nat) (lo n : Nat) :
    (s.dropCode cs lo n).cores.map (fun k => { k with ic := [] }) = s.cores.map (fun k => { k with ic := [] }) := by
  rw [State.dropCode, List.map_map]
  refine List.map_congr_left fun k _ => ?_
  rw [Function.comp_apply]
  split <;> rfl

/-- The lines that stay in a core of the scope lie outside the range, unless it is empty. -/
theorem State.dropCode_outside {s : State} {cs : List Nat} {lo n : Nat} {k : Core} (hk : k ∈ (s.dropCode cs lo n).cores)
    (hcs : cs.contains k.id = true) (hn : n ≠ 0) {x : Nat × Line} (hx : x ∈ k.ic) :
    x.1 % 2 ^ 45 < lo / 128 ∨ (lo + n - 1) / 128 < x.1 % 2 ^ 45 := by
  obtain ⟨k', -, rfl⟩ := List.mem_map.mp hk
  by_cases hin : cs.contains k'.id = true
  · rw [if_pos hin, List.mem_filter] at hx
    obtain ⟨-, hstays⟩ := hx
    simpa [hn] using hstays
  · rw [if_neg hin] at hcs
    exact absurd hcs hin

/-- Settles O16: each instruction by its effect; ICINV by its range, then by the writes that it waits for. -/
theorem controlInstructions : Obligations.ControlInstructions := by
  intro s t
  refine ⟨exec_nop, fun h => ⟨exec_yld h, fun hpd => ?_, fun hpd => ?_, exec_pen h, exec_trap h,
      fun hlast => exec_exit hlast h⟩,
    fun c a b => ⟨fun hc ht => issue_bad ht (by simp [hc]) _, fun h hc => ?_⟩⟩
  · rw [exec_pdis h, if_pos hpd]
  · rw [exec_pdis h, if_neg (by simp [hpd])]
  · have hzero : (t.s b).toNat ≠ 0 ↔ t.s b ≠ 0 := by simp [BitVec.toNat_eq]
    rw [exec_icinv h hc]
    refine ⟨fun hb hout => ?_, fun hin => ?_⟩
    · rw [if_pos ⟨hzero.mpr hb, hout⟩]
    · rw [if_neg (by rintro ⟨hb, hout⟩; exact hin.elim (hzero.mp hb) (by omega))]
      refine ⟨fun hopen => by rw [if_pos hopen], fun hnone => ?_⟩
      rw [if_neg (not_not.mpr hnone)]
      exact ⟨_, rfl, rfl, s.dropCode_ic _ _ _, fun k hk hcs hb x hx => State.dropCode_outside hk hcs (hzero.mpr hb) hx⟩

end Sys2Proof.Machine
end

section
/-! Vector integer instructions with a scalar or immediate in every lane, and VSEL (O24). -/

namespace Sys2Proof.Machine

/-! ### The instructions -/

/-- A ready team runs the effect of a vector instruction that reads scalar registers too, when it has the vector ones (R268). -/
theorem issue_vInfo_scalar {s : State} {t : Team} {d src : List VReg} {m : Option Msk} {rs : List SReg} {ps : List PReg}
    (h : Ready s t 1 (rs.map .s ++ (src ++ d).map .v)) (hhas : t.has (src ++ d)) (k : Team → State → State) :
    issue { vInfo d src m with sr := rs, pr := ps } k s = .next (k t s).tick :=
  issue_plain (by simpa [Info.dests, vInfo] using h) ⟨rfl, rfl, rfl, rfl, rfl, rfl, rfl⟩ hhas k

section
variable {s : State} {t : Team} {i : Instr} {d a : VReg} {b : SOrI} {m : Option Msk} (hfits : ∀ r, (t.v r).fits t.width)
include hfits

/-- An instruction of a vector and a scalar or immediate computes each lane with the one value. -/
theorem writesLanes_of_vBinS {f : Nat → Nat → Nat → Nat} {aff : VVal → VVal → Option VVal} (ha : AffineExact f aff)
    (hhas : t.has [a, d]) (h : Ready s t 1 ((sOrIReg b).map .s ++ [.v a, .v d]))
    (hi : ∀ s, exec i s = vBinS f aff d a b m s) :
    WritesLanes i s t d m (fun l => laneOp2 32 f ((t.v a).lane l) (t.sOrI b)) :=
  ⟨_, (hi s).trans (issue_vInfo_scalar h hhas _), fun _ hl => lane_vint2 ha (hfits a) trivial hl⟩

theorem writesLanes_vmadScalar {e : Option VReg} (hhas : t.has [a, e.getD d, d])
    (h : Ready s t 1 ((sOrIReg b).map .s ++ [.v a, .v (e.getD d), .v d])) : WritesLanes (.vmadScalar d a b e m) s t d m
      (fun l => laneMad 32 ((t.v a).lane l) (t.sOrI b) ((t.v (e.getD d)).lane l)) :=
  ⟨_, issue_vInfo_scalar (src := [a, e.getD d]) h hhas _, fun _ hl => lane_lift3 _ (hfits a) trivial (hfits _) hl⟩

end

theorem writesLanes_vmovScalar {s : State} {t : Team} {d : VReg} {b : SOrI} {m : Option Msk} (hhas : t.has [d])
    (h : Ready s t 1 ((sOrIReg b).map .s ++ [.v d])) : WritesLanes (.vmovScalar d b m) s t d m (fun _ => t.sOrI b) :=
  ⟨_, issue_vInfo_scalar (src := []) h hhas _, fun _ _ => rfl⟩

/-! ### VSEL (R275) -/

/-- The lanes that VSEL takes from its first source: those whose selector bit is set, or is clear under N. -/
theorem Team.getLsbD_selector (t : Team) (k : Msk) {l : Nat} (hl : l < 1024) :
    (if k.n then ~~~(t.p k.p) else t.p k.p).getLsbD l = ((t.p k.p).getLsbD l != k.n) := by
  cases k.n <;> simp [hl]

/-- A lane of VSEL's result, whatever the shapes. -/
theorem Team.lane_vsel (t : Team) {x y : VVal} (k : Msk) {l : Nat} (hx : x.fits t.width) (hy : y.fits t.width)
    (hl : l < t.width) (hw : t.width ≤ 1024) :
    (t.vsel x y k).lane l = if (t.p k.p).getLsbD l != k.n then x.lane l else y.lane l := by
  have hblend : (VVal.g (blend (if k.n then ~~~(t.p k.p) else t.p k.p) (x.lanes t.width) (y.lanes t.width))).lane l =
      if (t.p k.p).getLsbD l != k.n then x.lane l else y.lane l := by
    rw [VVal.g_lane, getD_blend _ (by rwa [VVal.length_lanes hx]) (by rwa [VVal.length_lanes hy]), VVal.getD_lanes x hl,
      VVal.getD_lanes y hl, t.getLsbD_selector k (by omega)]
  unfold Team.vsel
  dsimp only
  split
  · next u v =>
    by_cases huv : u = v
    · rw [if_pos huv, huv]
      exact (ite_self _).symm
    · rw [if_neg huv]
      exact hblend
  · exact hblend

/-- VSEL takes each lane of one source or the other by its selector. -/
theorem writesLanes_vsel {s : State} {t : Team} {d a : VReg} {b : SelB} (k : Msk) (hfits : ∀ r, (t.v r).fits t.width)
    (hb : (t.selVal b).fits t.width) (hw : t.width ≤ 1024) (hhas : t.has ((a :: (selRegs b).2) ++ [d]))
    (h : Ready s t 1 ((selRegs b).1.map .s ++ ((a :: (selRegs b).2) ++ [d]).map .v)) :
    WritesLanes (.vsel d a b k) s t d none
      (fun l => if (t.p k.p).getLsbD l != k.n then (t.v a).lane l else (t.selVal b).lane l) :=
  ⟨_, issue_vInfo_scalar h hhas _, fun _ hl => t.lane_vsel k (hfits a) hb hl hw⟩

/-- Settles O24: each instruction is its element operation on the lanes of v(A) and one value, VSEL a choice by lanes. -/
theorem vectorScalarLanes : Obligations.VectorScalarLanes := by
  intro s t d a b e m hhas hfits hw
  have hun : t.has [a, d] := hhas.mono (by simp)
  have none2 {i : Instr} {f : Nat → Nat → Nat → Nat} (h : Ready s t 1 ((sOrIReg b).map .s ++ [.v a, .v d]))
      (hi : ∀ s, exec i s = vBinS f affNone d a b m s) :=
    writesLanes_of_vBinS hfits (affineExact_none f) hun h hi
  refine ⟨fun h => ?bin, fun h => ?un, writesLanes_vmadScalar hfits (hhas.mono (by simp)),
    writesLanes_vmovScalar (hhas.mono (by simp)),
    fun k h => writesLanes_vsel (b := .sca b) k hfits trivial hw hun h,
    fun k c hc h => writesLanes_vsel (b := .vec c) k hfits (hfits c) hw ?sel h⟩
  case bin =>
    exact ⟨writesLanes_of_vBinS hfits affineExact_add hun h fun _ => rfl,
      writesLanes_of_vBinS hfits affineExact_sub hun h fun _ => rfl,
      writesLanes_of_vBinS hfits affineExact_mul hun h fun _ => rfl,
      none2 h fun _ => rfl, none2 h fun _ => rfl, none2 h fun _ => rfl, none2 h fun _ => rfl, none2 h fun _ => rfl,
      none2 h fun _ => rfl, none2 h fun _ => rfl, none2 h fun _ => rfl, none2 h fun _ => rfl, none2 h fun _ => rfl,
      writesLanes_of_vBinS hfits affineExact_shl hun h fun _ => rfl,
      none2 h fun _ => rfl, none2 h fun _ => rfl, none2 h fun _ => rfl, none2 h fun _ => rfl, none2 h fun _ => rfl,
      none2 h fun _ => rfl⟩
  case un =>
    exact ⟨writesLanes_of_vUn (w := .w32) hfits hun h fun _ => rfl, writesLanes_of_vUn (w := .w32) hfits hun h fun _ => rfl,
      writesLanes_of_vUn (w := .w32) hfits hun h fun _ => rfl, writesLanes_of_vUn (w := .w32) hfits hun h fun _ => rfl⟩
  case sel => exact Team.has.mono (List.forall_mem_append.mpr ⟨hun, hc⟩) (by simp [selRegs])

end Sys2Proof.Machine
end

section
/-! Vector float instructions with no trap enabled: the lanes written and the flags raised (O26, O27). -/

namespace Sys2Proof.Machine

/-- With no trap enabled and no upset of a shadow to come, a vector float instruction writes its lanes and raises their flags
(R194, R282). -/
theorem writesFloat_of_vfloat {s : State} {t : Team} {i : Instr} {chk : Option Fmt} {w : Nat} {d : VReg} {m : Option Msk}
    {op : List Nat → Nat × Nat} {xs : List VVal} (ht : t.noTrap) (hs : s.rel.shadow = [])
    (hi : exec i s = .next (s.vfloat t chk d m w op xs).tick) :
    WritesFloat i s t d m (fun l => fLane w op (xs.map (·.lane l))) := by
  obtain ⟨F, y, hlanes, hF, hy⟩ := floatLanes_eq t (t.active m) chk w (fLane w op) xs
  refine ⟨y, allFlags ((t.lanesOf (t.active m)).map F), ?_, hy,
    fun k _ => t.testBit_allFlags_lanes (t.active m) (fun l hl hact => (hF l hl hact).2) k⟩
  rw [hi, State.vfloat, hlanes, State.fpDone_of_noTrap hs ht]

/-- Settles O26: each instruction is one float operation on the lanes of its sources. -/
theorem floatVectorLanes : Obligations.FloatVectorLanes := by
  intro s t tb d a b e m rm hhas ht hs
  have un {i : Instr} {chk : Option Fmt} {w : Nat} {f : Nat → Nat → Nat × Nat} (h : Ready s t 1 [.v a, .v d])
      (hi : ∀ s, exec i s = vf1 chk w f d a m rm s) :=
    writesFloat_of_vfloat ht hs (exec_vf1 (hhas.mono (by simp)) h hi)
  have bin {i : Instr} {chk : Option Fmt} {w : Nat} {f : Nat → Nat → Nat → Nat × Nat} (h : Ready s t 1 [.v a, .v b, .v d])
      (hi : ∀ s, exec i s = vf2 chk w f d a b m rm s) :=
    writesFloat_of_vfloat ht hs (exec_vf2 (hhas.mono (by simp)) h hi)
  have ter {i : Instr} {chk : Option Fmt} {w : Nat} {f : Nat → Nat → Nat → Nat → Nat × Nat}
      (h : Ready s t 1 [.v a, .v b, .v (e.getD d), .v d]) (hi : ∀ s, exec i s = vf3 chk w f d a b e m rm s) :=
    writesFloat_of_vfloat ht hs (exec_vf3 (hhas.mono (by simp)) h hi)
  refine ⟨fun h => ?binF32, fun h => ?terF32, fun h => ?unF32, fun h => ?binPacked, fun h => ?terPacked, fun h => ?unPacked⟩
  case binF32 | binPacked =>
    exact ⟨bin h fun _ => rfl, bin h fun _ => rfl, bin h fun _ => rfl, bin h fun _ => rfl, bin h fun _ => rfl,
      bin h fun _ => rfl⟩
  case terF32 | terPacked => exact ⟨ter h fun _ => rfl, ter h fun _ => rfl, ter h fun _ => rfl⟩
  case unF32 | unPacked =>
    exact ⟨un h fun _ => rfl, un h fun _ => rfl, un h fun _ => rfl, un h fun _ => rfl, un h fun _ => rfl, un h fun _ => rfl,
      un h fun _ => rfl⟩

/-- Settles O27: each instruction is one F32 operation on the lanes of v(A) and the one value. -/
theorem floatScalarLanes : Obligations.FloatScalarLanes := by
  intro s t d a b e m rm hhas ht hs
  have un {i : Instr} {chk : Option Fmt} {f : Nat → Nat → Nat × Nat} (h : Ready s t 1 [.v a, .v d])
      (hi : ∀ s, exec i s = vf1 chk 32 f d a m rm s) :=
    writesFloat_of_vfloat ht hs (exec_vf1 (hhas.mono (by simp)) h hi)
  have bin {i : Instr} {chk : Option Fmt} {f : Nat → Nat → Nat → Nat × Nat}
      (h : Ready s t 1 ((sOrIReg b).map .s ++ [.v a, .v d])) (hi : ∀ s, exec i s = vf2S chk f d a b m rm s) :=
    writesFloat_of_vfloat ht hs (exec_vf2S (hhas.mono (by simp)) h hi)
  have ter {i : Instr} {chk : Option Fmt} {f : Nat → Nat → Nat → Nat → Nat × Nat}
      (h : Ready s t 1 ((sOrIReg b).map .s ++ [.v a, .v (e.getD d), .v d])) (hi : ∀ s, exec i s = vf3S chk f d a b e m rm s) :=
    writesFloat_of_vfloat ht hs (exec_vf3S (hhas.mono (by simp)) h hi)
  refine ⟨fun h => ?_, fun h => ?_, fun h => ?_⟩
  · exact ⟨bin h fun _ => rfl, bin h fun _ => rfl, bin h fun _ => rfl, bin h fun _ => rfl, bin h fun _ => rfl,
      bin h fun _ => rfl⟩
  · exact ⟨ter h fun _ => rfl, ter h fun _ => rfl, ter h fun _ => rfl⟩
  · exact ⟨un h fun _ => rfl, un h fun _ => rfl, un h fun _ => rfl, un h fun _ => rfl, un h fun _ => rfl, un h fun _ => rfl,
      un h fun _ => rfl⟩

end Sys2Proof.Machine
end

section
/-! Shuffles, BCAST, votes and integer reductions (O30). -/

namespace Sys2Proof.Machine

/-! ### Shuffles (R294, R295) -/

/-- The source lane that a lane of a shuffle reads; none where it lies outside the width. -/
def Team.srcLane (t : Team) (src : Nat → Option Nat) (l : Nat) : Option Nat := (src l).filter (fun j => j < t.width)

/-- A lane of a shuffle that reads a dead lane. -/
def Team.readsDead (t : Team) (src : Nat → Option Nat) (l : Nat) : Bool :=
  (t.srcLane src l).any (fun j => t.regs.dead.getLsbD j)

/-- The word that a lane of a shuffle receives. -/
def Team.shufWord (t : Team) (x : VVal) (src : Nat → Option Nat) (l : Nat) : Wd :=
  match t.srcLane src l with
  | none => x.lane l
  | some j => if t.regs.dead.getLsbD j then 0 else x.lane j

/-- The lanes that a shuffle marks are the active lanes that read a dead lane. -/
theorem Team.getLsbD_shuffle (t : Team) (act : Mask) (x : VVal) (src : Nat → Option Nat) (l : Nat) :
    (t.shuffle act x src).2.getLsbD l = (decide (l < t.width) && (act.getLsbD l && t.readsDead src l)) := by
  have hmask : (t.shuffle act x src).2 = maskOf t.width (fun l => act.getLsbD l && t.readsDead src l) := by
    cases x <;> rfl
  by_cases hl : l < 1024
  · rw [hmask, getLsbD_maskOf _ _ hl]
  · simp [BitVec.getLsbD_of_ge _ l (show 1024 ≤ l by omega)]

/-- From a source of shape U a shuffle gives shape U, unless an active lane reads a dead lane. -/
theorem Team.shuffle_u (t : Team) (act : Mask) (v : Wd) (src : Nat → Option Nat) :
    (t.shuffle act (.u v) src).1 = if (t.shuffle act (.u v) src).2 = 0 then .u v
      else .g ((List.range t.width).map (t.shufWord (.u v) src)) := rfl

/-- A source of shape U has its one value in every lane of a shuffle that reads no dead lane. -/
theorem Team.shufWord_u (t : Team) (v : Wd) {src : Nat → Option Nat} {l : Nat} (h : t.readsDead src l = false) :
    t.shufWord (.u v) src l = v := by
  unfold Team.shufWord
  unfold Team.readsDead at h
  cases hsrc : t.srcLane src l with
  | none => rfl
  | some j =>
    rw [hsrc] at h
    exact if_neg (by simpa using h)

/-- An active lane of a shuffle's result, whatever the shapes. -/
theorem Team.lane_shuffle (t : Team) {act : Mask} (x : VVal) (src : Nat → Option Nat) {l : Nat} (hl : l < t.width)
    (hact : act.getLsbD l = true) : (t.shuffle act x src).1.lane l = t.shufWord x src l := by
  have hg : (VVal.g ((List.range t.width).map (t.shufWord x src))).lane l = t.shufWord x src l := by
    rw [VVal.g_lane, List.getD_eq_getElem _ _ (by simpa using hl), List.getElem_map, List.getElem_range]
  cases x with
  | u v =>
    rw [t.shuffle_u]
    split
    · next hnone =>
      have halive : t.readsDead src l = false := by
        have := t.getLsbD_shuffle act (.u v) src l
        simpa [hnone, hl, hact] using this
      exact (t.shufWord_u v halive).symm
    · exact hg
  | a b d => exact hg
  | g xs => exact hg

/-- An instruction whose effect is that of a shuffle gives each active lane the word of its source lane. -/
theorem shuffles_of_shufOut {s : State} {t : Team} {i : Instr} {d a : VReg} {m : Option Msk} {src : Nat → Option Nat}
    (hi : exec i s = .next (s.retire (t.shufOut d a m src)).tick) : Shuffles i s t d a m src := by
  refine ⟨_, _, hi, fun l hl hact => ?_, fun l hmark => ?_, fun x hx hnone => ?_⟩
  · rw [t.lane_shuffle _ _ hl hact, t.getLsbD_shuffle, hact, decide_eq_true hl, Bool.true_and, Bool.true_and]
    unfold Team.shufWord Team.readsDead Team.srcLane
    cases (src l).filter (fun j => j < t.width) with
    | none => exact ⟨rfl, rfl⟩
    | some j => exact ⟨rfl, rfl⟩
  · rw [t.getLsbD_shuffle, Bool.and_eq_true, Bool.and_eq_true, decide_eq_true_eq] at hmark
    exact ⟨hmark.1, hmark.2.1⟩
  · rw [hx] at hnone ⊢
    exact (t.shuffle_u _ x src).trans (if_pos hnone)

section
variable {s : State} {t : Team} {i : Instr} {d a : VReg} {m : Option Msk}

theorem shuffles_shfl {b : VReg} (hhas : t.has [a, b, d]) (h : Ready s t 1 [.v a, .v b, .v d]) :
    Shuffles (.shfl d a b m) s t d a m (fun l => some (((t.v b).lane l).toNat % 1024 % t.width)) :=
  shuffles_of_shufOut (issue_plain (i := vInfo [d] [a, b] m) h (vInfo_plain ..) hhas _)

/-- A shuffle by a scalar takes the source lanes that its form gives. -/
theorem shuffles_of_shufS {n : SReg} {f : Nat → Nat → Option Nat} (hhas : t.has [a, d]) (h : Ready s t 1 [.s n, .v a, .v d])
    (hi : ∀ s, exec i s = shufS d a n m f s) : Shuffles i s t d a m (fun l => f l (t.s n).toNat) :=
  shuffles_of_shufOut ((hi s).trans (issue_vInfo_scalar (rs := [n]) (src := [a]) h hhas _))

theorem exec_bcast {n : SReg} (hhas : t.has [a, d]) (h : Ready s t 1 [.s n, .v a, .v d]) :
    exec (.bcast d a n m) s = .next (s.retire (t.bcast d a m (t.s n).toNat)).tick :=
  issue_vInfo_scalar (rs := [n]) (src := [a]) h hhas _

end

/-! ### Votes and integer reductions (R293, R296, R297) -/

/-- The last value of a scan is the combination of all its lanes. -/
theorem lastOr_scanI (op : IOp) (v : VVal) (ls : List Nat) (z : Wd) :
    lastOr (scanI op v ls z) z = ls.foldl (fun x l => op.f x (v.lane l)) z := by
  induction ls generalizing z with
  | nil => rfl
  | cons l ls ih =>
    rw [List.foldl_cons, ← ih, scanI, lastOr, List.getLast?_cons, lastOr]
    cases (scanI op v ls (op.f z (v.lane l))).getLast? <;> rfl

/-- An instruction with a scalar destination, and Z clear in its MSK, runs its effect in a ready team (R293). -/
theorem issue_xInfo {s : State} {t : Team} {d : SReg} {src : List VReg} {ps : List PReg} {m : Option Msk}
    (hm : mskNoZ m = true) (hhas : t.has src) (h : Ready s t 1 (.s d :: src.map .v)) (k : Team → State → State) :
    issue (xInfo d src ps m) k s = .next (k t s).tick :=
  issue_plain (by simpa [Info.dests, xInfo, vInfo] using h) (xInfo_plain d src ps hm) (by simpa [xInfo, vInfo] using hhas) k

/-- The doubleword that a reduction writes of its word: sign-extended for the signed operations, else zero-extended (R297). -/
def IOp.widen (op : IOp) (x : Wd) : Dw := if op.sx then x.signExtend 64 else x.setWidth 64

/-- An integer reduction combines the active lanes in ascending order from its identity (R297). -/
theorem exec_vredI {s : State} {t : Team} {i : Instr} {op : IOp} {f : Wd → Wd → Wd} {d : SReg} {a : VReg} {m : Option Msk}
    (hf : op.f = f) (hm : mskNoZ m = true) (hhas : t.has [a]) (h : Ready s t 1 [.s d, .v a])
    (hi : ∀ s, exec i s = vredI op d a m s) :
    exec i s = .next (s.retire (t.setS d 
      (op.widen ((t.lanesOf (t.active m)).foldl (fun x l => f x ((t.v a).lane l)) op.idn)))).tick := by
  rw [hi, vredI, issue_xInfo hm hhas h, lastOr_scanI, hf]
  rfl

/-- Settles O30: shuffles by their source lanes, BCAST by whether its source is dead, votes and reductions by their effect. -/
theorem shufflesVotesReductions : Obligations.ShufflesVotesReductions := by
  intro s t d a b ds n p m hhas
  have hsrc : t.has [a] := hhas.mono (by simp)
  have hun : t.has [a, d] := hhas.mono (by simp)
  have hnil : t.has [] := hhas.mono (by simp)
  refine ⟨shuffles_shfl (hhas.mono (by simp)), fun h => ⟨?up, ?dn, ?xor, fun halive => ?alive, fun hdead => ?dead⟩,
    fun hm ht => ?parks, fun hm => ⟨fun h => ⟨issue_xInfo hm hnil h _, issue_xInfo hm hnil h _, fun k => ?ballot⟩,
      fun h => ?vred⟩⟩
  case up => exact shuffles_of_shufS (f := fun l n => if n ≤ l then some (l - n) else none) hun h fun _ => rfl
  case dn => exact shuffles_of_shufS (f := fun l n => some (l + n)) hun h fun _ => rfl
  case xor => exact shuffles_of_shufS (f := fun l n => some (l ^^^ n)) hun h fun _ => rfl
  case alive =>
    rw [exec_bcast hun h, Team.bcast, if_neg (by simp [halive])]
  case dead =>
    rw [exec_bcast hun h, Team.bcast, if_pos hdead]
  case parks =>
    have hbad : (if mskNoZ m then none else some .none : Option Detail) = some .none := if_neg (by simp [hm])
    have through {i : Instr} {x : Info} {k : Team → State → State} (hi : ∀ s, exec i s = issue x k s)
        (hx : x.bad = some .none) : exec i s = .next (s.park t (mkF .illegalEncoding .none 0 0)).tick :=
      (hi s).trans (issue_bad ht hx k)
    simp only [List.forall_mem_cons, List.not_mem_nil, false_imp_iff, implies_true, and_true]
    exact ⟨through (fun _ => rfl) hbad, through (fun _ => rfl) hbad, through (fun _ => rfl) hbad, through (fun _ => rfl) hbad,
      through (fun _ => rfl) hbad, through (fun _ => rfl) hbad, through (fun _ => rfl) hbad, through (fun _ => rfl) hbad,
      through (fun _ => rfl) hbad, through (fun _ => rfl) hbad, through (fun _ => rfl) hbad, through (fun _ => rfl) hbad,
      through (fun _ => rfl) hbad, through (fun _ => rfl) hbad⟩
  case ballot =>
    refine ⟨_, issue_xInfo hm hnil h _, fun i hi => ?_⟩
    simp [hi]
  case vred =>
    exact ⟨exec_vredI (op := ioAdd) rfl hm hsrc h fun _ => rfl, exec_vredI ioMin_f hm hsrc h fun _ => rfl,
      exec_vredI ioMax_f hm hsrc h fun _ => rfl, exec_vredI ioMinu_f hm hsrc h fun _ => rfl,
      exec_vredI ioMaxu_f hm hsrc h fun _ => rfl, exec_vredI (op := ioAnd) rfl hm hsrc h fun _ => rfl,
      exec_vredI (op := ioOr) rfl hm hsrc h fun _ => rfl, exec_vredI (op := ioXor) rfl hm hsrc h fun _ => rfl⟩

end Sys2Proof.Machine
end
section
/-! Barriers: a team that arrives is counted, and waits after its instruction (O39).

In this section and those after it the proofs are elaborated one after another, for want of the memory that a thread for each asks. -/

set_option Elab.async false

namespace Sys2Proof.Machine

/-! ### A team that waits after its instruction (Table 1-4) -/

/-- Waiting after an instruction changes the teams, the time of a partition's last event, and the issue slot. -/
theorem State.retireWait_eq (s : State) (t : Team) (w : Wait) :
    ∃ ts ps cur, s.retireWait t w = { s with teams := ts, parts := ps, cur := cur } := by
  obtain ⟨ps, cur, h, -⟩ := s.retire_eq t
  rw [State.retireWait, h, State.yieldCur_eq]
  exact ⟨_, _, _, rfl⟩

/-- The team stands at the next instruction, in its wait. -/
theorem State.team_retireWait {s : State} {t : Team} (h : (s.team t.key).isSome = true) (w : Wait) :
    (s.retireWait t w).team t.key = some { t.retired s.clk with st := .wait w } := by
  rw [State.retireWait, State.team_congr (State.yieldCur_keeps _ _).2.1, State.team_modTeam, if_pos rfl,
    State.team_retire_self h, Option.map_some]
  exact fun _ => rfl

/-- The issue slot of the team that waits is free. -/
theorem State.cur_retireWait {s : State} {t : Team} (h : s.cur = some t.key) (w : Wait) : (s.retireWait t w).cur = none := by
  have hcur : (s.retire t).cur = some t.key ∨ (s.retire t).cur = none := by
    cases hc : t.clause with
    | none => exact .inl (by rw [State.retire_noClause hc]; exact h)
    | some c =>
      obtain hl | hl := Nat.lt_or_ge 1 c.left
      · exact .inl (by rw [State.retire_within hc hl]; exact h)
      · exact .inr (by rw [State.retire_last hc hl, State.yieldCur_eq]; simp [h])
  rw [State.retireWait, State.yieldCur_eq]
  obtain hcur | hcur := hcur <;> simp [hcur]

/-! ### Arrivals (R329, R438) -/

theorem State.barrier_congr {s s' : State} (h : s'.bars = s.bars) (key : BarrierKey) : s'.barrier key = s.barrier key := by
  rw [State.barrier, h, State.barrier]

theorem State.barrier_key (s : State) (key : BarrierKey) : (s.barrier key).key = key := by
  unfold State.barrier
  cases h : s.bars.find? (fun b => b.key == key) with
  | none => rfl
  | some b => simpa using List.find?_some h

/-- A barrier that is put is the one its key names. -/
theorem State.barrier_putBarrier (s : State) (b : Barrier) : (s.putBarrier b).barrier b.key = b := by
  simp [State.barrier, State.putBarrier]

/-- The barrier at which a team has arrived: the team counted, and what is under way of its accesses and of those ordered before
them. -/
theorem State.barrier_arrive (s : State) (t : Team) (key : BarrierKey) : (s.arrive t key).barrier key =
    (s.barrier key).arrive t.tid s.clk ((s.acc.filter (fun a => a.team == t.key && a.away)).map (·.id) ++ s.afterBar t) := by
  have hkey := s.barrier_key key
  unfold State.arrive
  generalize (s.acc.filter (fun a => a.team == t.key && a.away)).map (·.id) ++ s.afterBar t = ids
  obtain ⟨ts, ps, cur, h⟩ := (s.putBarrier ((s.barrier key).arrive t.tid s.clk ids)).retireWait_eq t (.barrier key)
  dsimp only
  rw [h]
  have hput := s.barrier_putBarrier ((s.barrier key).arrive t.tid s.clk ids)
  rwa [show ((s.barrier key).arrive t.tid s.clk ids).key = key from hkey] at hput

/-- A team that has arrived waits after its instruction, off the issue slot, with memory as before. -/
theorem State.arrive_waits {s : State} {t : Team} (h : s.curTeam = some t) (key : BarrierKey) :
    (∃ v, (s.retire t).team t.key = some v ∧ (s.arrive t key).team t.key = some { v with st := .wait (.barrier key) }) ∧
      (s.arrive t key).mem = s.mem ∧ (s.arrive t key).cur = none := by
  obtain ⟨hteam, hcur⟩ := s.curTeam_team t h
  have hsome : (s.team t.key).isSome = true := Option.isSome_of_eq_some hteam
  exact ⟨⟨_, State.team_retire_self hsome, State.team_retireWait (s := s.putBarrier _) hsome (.barrier key)⟩,
    (State.retireWait_keeps _ _ _).1, State.cur_retireWait (s := s.putBarrier _) hcur _⟩

section
variable {s : State} {t : Team} (h : Ready s t 5 [])
include h

theorem exec_barG (i : BitVec 4) : exec (.barG i) s =
    .next (if (s.groupOf t).member i.toNat t.role then s.arrive t (.group t.gslot i.toNat)
      else s.park t (mkF .illegalEncoding .notABarrierMember 0 0)).tick :=
  issue_control (i := { eng := 5, stop := true }) h {} rfl _

theorem exec_barC (j : BitVec 3) : exec (.barC j) s =
    .next (s.arrive t (.cluster (s.groupOf t).origin.num (clusterOf (s.groupOf t).core) j.toNat)).tick :=
  issue_control (i := { eng := 5, stop := true }) h {} rfl _

theorem exec_barL (k : BitVec 2) :
    exec (.barL k) s = .next (s.arrive t (.launch (s.groupOf t).origin.num k.toNat)).tick :=
  issue_control (i := { eng := 5, stop := true }) h {} rfl _

end

/-- Settles O39: the instructions by what they issue, and an arrival by the barrier that it leaves and the team that waits. -/
theorem barriers : Obligations.Barriers := by
  intro s t i j k h
  refine ⟨⟨fun hmember => ?_, fun hout => ?_⟩, exec_barC h j, exec_barL h k, fun key => ?_⟩
  · rw [exec_barG h, if_pos hmember]
  · rw [exec_barG h, if_neg (by simp [hout])]
  · obtain ⟨hwaits, hmem, hcur⟩ := State.arrive_waits h.1 key
    refine ⟨hwaits, hmem, hcur, ?_⟩
    rw [s.barrier_arrive t key]
    refine ⟨rfl, fun x hx hteam haway => List.mem_append_right _ (List.mem_append_left _ ?_), rfl⟩
    exact List.mem_map_of_mem (List.mem_filter.mpr ⟨hx, by simp [hteam, haway]⟩)

end Sys2Proof.Machine
end

section
/-! Fences, waits on counters, timelines and words (O40). -/

set_option Elab.async false

namespace Sys2Proof.Machine

/-! ### Fences and waits (R322 to R324) -/

section
variable {s : State} {t : Team}

theorem exec_fence (h : Ready s t 5 []) (k : BitVec 2) {sc : BitVec 3} (hsc : scopeOk sc = true) :
    exec (.fence k sc) s = .next (if k ≠ 0 ∧ s.afterBar t ≠ [] then s.deschedule t (.accs (s.afterBar t))
      else if t.cnt.meets 0 (if k = 0 then 15 else 0) 15 15 then
        (if k ≠ 1 ∧ 2 ≤ sc.toNat then s.invL1 (s.groupOf t).core else s).retire t
      else s.deschedule t (.thr 0 (if k = 0 then 15 else 0) 15 15)).tick :=
  issue_control (i := { bad := if scopeOk sc then none else some .reservedScope, eng := 5, stop := true,
                        xr := if k = 0 then [0x10] else [0x10, 0x11] }) h { bad := if_pos hsc } rfl _

theorem exec_wait (h : Ready s t 5 []) (l st c ti : BitVec 4) : exec (.wait l st c ti) s =
    .next (if t.cnt.meets l.toNat st.toNat c.toNat ti.toNat then s.retire t
      else s.deschedule t (.thr l.toNat st.toNat c.toNat ti.toNat)).tick :=
  issue_control (i := { eng := 5, stop := true, xr := waitRegs [l, st, c, ti] }) h {} rfl _

/-- A TLWAIT that may wait: at the number it goes on, at SYSTEM scope behind what has gone to the host, and below it it waits. -/
def State.tlWaits (s : State) (t : Team) (who cls n : Nat) (sc : BitVec 3) : State :=
  if n ≤ s.tlCount who cls then
    (if sc = 5 ∧ s.hostSeen < s.hostOut.length then s.deschedule t (.flush s.hostOut.length)
     else (s.invL1 (s.groupOf t).core).retire t)
  else s.deschedule t (.tl who cls n)

/-- TLWAIT on a timeline of the team itself (R324). -/
theorem exec_tlwait_own {n : SReg} (h : Ready s t 5 [.s n]) (c : BitVec 2) {sc : BitVec 3} (hsc : scopeOk sc = true) :
    exec (.tlwait n 0 false c sc) s = .next (if (t.tl.get c.toNat).issued < (t.s n).toNat then
        s.park t (mkF .illegalEncoding .timelineBeyondIssue 0 0)
      else s.tlWaits t t.key c.toNat (t.s n).toNat sc).tick := by
  refine (issue_control (i := { bad := if !scopeOk sc then some .reservedScope else none, sr := [n], eng := 5, stop := true,
                                xr := [0x14 + c.toNat] }) h { bad := by simp [hsc] } rfl _).trans ?_
  simp only [Bool.false_and, Bool.false_eq_true, if_false, Bool.not_false, Bool.true_and, decide_eq_true_eq]
  rfl

/-- TLWAIT on a timeline of another team of the group (R152, R324). -/
theorem exec_tlwait_other {n : SReg} (h : Ready s t 5 [.s n]) (x : BitVec 4) (c : BitVec 2) {sc : BitVec 3}
    (hsc : scopeOk sc = true) :
    exec (.tlwait n x true c sc) s = .next (if (s.groupOf t).stageMap.length ≤ x.toNat then
        s.park t (mkF .illegalEncoding .teamBeyondGroup 0 0)
      else s.tlWaits t (t.gslot * 16 + x.toNat) c.toNat (t.s n).toNat sc).tick := by
  refine (issue_control (i := { bad := if !scopeOk sc then some .reservedScope else none, sr := [n], eng := 5, stop := true })
    h { bad := by simp [hsc] } rfl _).trans ?_
  simp only [Bool.true_and, decide_eq_true_eq, Bool.not_true, Bool.false_and, Bool.false_eq_true, if_false, if_true]
  rfl

theorem State.tlCount_own (h : s.curTeam = some t) (c : Nat) : s.tlCount t.key c = (t.tl.get c).count := by
  simp [State.tlCount, (s.curTeam_team t h).1]

end

section
variable {s : State} (t : Team) {who cls n : Nat} {sc : BitVec 3}

theorem State.tlWaits_reached (hn : n ≤ s.tlCount who cls) (hsc : sc = 5 → s.hostOut.length ≤ s.hostSeen) :
    s.tlWaits t who cls n sc = (s.invL1 (s.groupOf t).core).retire t := by
  rw [State.tlWaits, if_pos hn, if_neg fun h => Nat.not_lt.mpr (hsc h.1) h.2]

theorem State.tlWaits_flush (hn : n ≤ s.tlCount who cls) (hsc : sc = 5) (hseen : s.hostSeen < s.hostOut.length) :
    s.tlWaits t who cls n sc = s.deschedule t (.flush s.hostOut.length) := by
  rw [State.tlWaits, if_pos hn, if_pos ⟨hsc, hseen⟩]

theorem State.tlWaits_below (hn : s.tlCount who cls < n) (sc : BitVec 3) :
    s.tlWaits t who cls n sc = s.deschedule t (.tl who cls n) := by
  rw [State.tlWaits, if_neg (Nat.not_le.mpr hn)]

end

theorem State.invL1_l1 (s : State) (core : Nat) : ((s.invL1 core).core core).l1 = [] := by
  have h := s.core_modCore core core (fun c => { c with l1 := [] }) (fun _ => rfl)
  rw [if_pos rfl] at h
  exact congrArg Core.l1 h

/-! ### A and D of the pages of an access (R453) -/

/-- A byte written that is not 0 leaves every other byte, of any memory. -/
theorem Mem.read_write_other (m : List Host.Cell) (a b : Nat) {v : Byte} (hv : v ≠ 0) (hb : b ≠ a) :
    Mem.read (Mem.write m a v) b = Mem.read m b := by
  induction m with
  | nil =>
    simp only [Mem.write, if_neg hv, Mem.read, if_neg hb]
    split <;> rfl
  | cons c r ih =>
    obtain ⟨k, w⟩ := c
    simp only [Mem.write, if_neg hv]
    obtain hlt | rfl | hgt := Nat.lt_trichotomy a k
    · rw [if_pos hlt]
      simp only [Mem.read, if_neg hb]
      grind
    · rw [if_neg (Nat.lt_irrefl _), if_pos rfl]
      simp only [Mem.read, if_neg hb]
    · rw [if_neg (by omega), if_neg (by omega)]
      simp only [Mem.read, ih]

/-- A and D are bits of a leaf entry's byte 4. -/
theorem State.read_markAD (s : State) {ea : Option Nat} (wr : Bool) {b : Nat} (h : ∀ a, ea = some a → b ≠ homeG a + 4) :
    Mem.read (s.markAD ea wr).mem b = Mem.read s.mem b := by
  cases ea with
  | none => rfl
  | some a =>
    have hv : Mem.read s.mem (homeG a + 4) ||| (if wr = true then (0x60 : Byte) else 0x40) ≠ 0 := by
      cases wr <;> simp
    unfold State.markAD
    dsimp only
    generalize (if wr = true then (0x60 : Byte) else 0x40) = x at hv ⊢
    split
    · rfl
    · exact Mem.read_write_other _ _ _ hv (h a rfl)

/-- Of the teams, waiters may have been woken and monitors may have seen a write (R326, R327). -/
def State.TeamsWoken (s s' : State) : Prop :=
  ∃ f : Team → Team, (∀ t, ∃ st m, f t = { t with st := st, monitor := m }) ∧ s'.teams = s.teams.map f

theorem State.TeamsWoken.of_teams {s s' : State} (h : s'.teams = s.teams) : s.TeamsWoken s' :=
  ⟨id, fun t => ⟨t.st, t.monitor, rfl⟩, by rw [h, List.map_id]⟩

theorem State.TeamsWoken.trans {s s' s'' : State} (h : s.TeamsWoken s') (h' : s'.TeamsWoken s'') : s.TeamsWoken s'' := by
  obtain ⟨f, hf, e⟩ := h
  obtain ⟨g, hg, e'⟩ := h'
  refine ⟨g ∘ f, fun t => ?_, by rw [e', e, List.map_map]⟩
  obtain ⟨st, m, hft⟩ := hf t
  obtain ⟨st', m', hgt⟩ := hg (f t)
  exact ⟨st', m', by rw [Function.comp_apply, hgt, hft]⟩

/-- A team that may have been woken keeps what is neither its state nor its monitor. -/
theorem State.TeamsWoken.map_eq {s s' : State} (h : s.TeamsWoken s') {α : Type} (g : Team → α)
    (hg : ∀ (t : Team) st m, g { t with st := st, monitor := m } = g t) : s'.teams.map g = s.teams.map g := by
  obtain ⟨f, hf, e⟩ := h
  rw [e, List.map_map]
  refine List.map_congr_left fun t _ => ?_
  obtain ⟨st, m, hft⟩ := hf t
  rw [Function.comp_apply, hft, hg]

theorem State.wake_teamsWoken (s : State) (a n : Nat) : s.TeamsWoken (s.wake a n) := by
  refine ⟨_, fun t => ?_, rfl⟩
  (repeat' split) <;> exact ⟨_, _, rfl⟩

theorem State.markAD_teamsWoken (s : State) (ea : Option Nat) (wr : Bool) : s.TeamsWoken (s.markAD ea wr) := by
  cases ea with
  | none => exact .of_teams rfl
  | some a =>
    unfold State.markAD
    dsimp only
    generalize (if wr = true then (0x60 : Byte) else 0x40) = x
    split
    · exact .of_teams rfl
    · exact State.wake_teamsWoken _ _ _

/-- A and D are set piece by piece. -/
theorem State.markAll_eq (s : State) (us : List Unit1) (wr : Bool) :
    s.markAll us wr = (us.flatMap (·.ps)).foldl (fun s p => s.markAD p.ea wr) s :=
  List.foldl_flatMap.symm

theorem State.markAll_teamsWoken (s : State) (us : List Unit1) (wr : Bool) : s.TeamsWoken (s.markAll us wr) := by
  rw [State.markAll_eq]
  generalize us.flatMap (·.ps) = ps
  induction ps generalizing s with
  | nil => exact .of_teams rfl
  | cons p r ih => exact (s.markAD_teamsWoken p.ea wr).trans (ih _)

/-- The pages of an access are marked in their leaf entries. -/
theorem State.sameBytes_markAll (s : State) (us : List Unit1) (wr : Bool) : SameBytes s (s.markAll us wr) us false := by
  intro b _ hleaf _
  have hne : ∀ p ∈ us.flatMap (·.ps), ∀ a, p.ea = some a → b ≠ homeG a + 4 := by
    intro p hp a ha hb
    obtain ⟨u, hu, hup⟩ := List.mem_flatMap.mp hp
    exact hleaf ⟨u, hu, p, hup, a, ha, hb⟩
  rw [State.markAll_eq]
  generalize us.flatMap (·.ps) = ps at hne
  induction ps generalizing s with
  | nil => rfl
  | cons p r ih =>
    obtain ⟨hp, hr⟩ := List.forall_mem_cons.mp hne
    exact (ih _ hr).trans (s.read_markAD wr hp)

/-! ### WAITA (R325, R326) -/

section
variable {s s1 : State} {t : Team} {n : SReg} {p : BitVec 3}

/-- The access by which WAITA reads its word. -/
def waitaOpt : AccOpt := { k := .load, size := 8, align := true }

theorem exec_waita (h : Ready s t 5 [.s n]) (hp : spaceBad p = none) {r : FaultInfo ⊕ List Piece}
    (hr : s.resolve t (spaceOf p) n waitaOpt 0 (t.s n) = (s1, r)) :
    exec (.waita n p) s = .next (match r with
      | .inl f => s1.park t f
      | .inr [] => ((s1.markAll [{ lane := 0, va := t.s n, ps := [] }] false).effect t).retire t
      | .inr (q :: r) =>
        if t.monitor = some (q.word, true) then
          ((s1.markAll [{ lane := 0, va := t.s n, ps := q :: r }] false).effect t).retire { t with monitor := none }
        else ((s1.markAll [{ lane := 0, va := t.s n, ps := q :: r }] false).effect t).deschedule
          { t with monitor := none } q.wait).tick := by
  refine (issue_control (i := { bad := spaceBad p, sr := [n], eng := 5, stop := true }) h { bad := hp } rfl _).trans ?_
  unfold waitaOpt at hr
  rw [hr]
  match r with
  | .inl f => rfl
  | .inr [] => rfl
  | .inr (q :: r) => simp only [beq_iff_eq]

/-- The machine as a WAITA leaves it to its team: the pages of the word are marked, and no register has changed. -/
theorem State.marked_for_waita (hs : s.LookedUp s1) (t : Team) (u : Unit1) :
    let s2 := (s1.markAll [u] false).effect t
    s2.teams.map (fun u => (u.key, u.regs)) = s.teams.map (fun u => (u.key, u.regs)) ∧ SameBytes s s2 [u] false := by
  obtain ⟨_, _, _, rfl⟩ := hs
  refine ⟨?_, fun b hb hleaf hp => State.sameBytes_markAll _ [u] false b hb hleaf hp⟩
  exact (State.markAll_teamsWoken _ [u] false).map_eq _ (fun _ _ _ => rfl)

end

/-- Settles O40: each instruction by the condition that it waits for. -/
theorem fencesAndWaits : Obligations.FencesAndWaits := by
  intro s s1 t n k sc p w c q r
  refine ⟨fun h hsc => ?fence, fun core => ⟨s.invL1_l1 core, (s.invL1_keeps core).1, (s.invL1_keeps core).2.1⟩, fun h => ?wait,
    fun h hsc => ⟨fun hn hc => ⟨fun hflush => ?reached, fun h5 hseen => ?flush⟩, fun hn hc => ?below, fun hn => ?beyond,
      fun x => ⟨fun hx hc hflush => ?otherReached, fun hx hc => ?otherBelow, fun hx => ?beyondGroup⟩⟩,
    fun h hp => ⟨fun f hr => ?fault, fun hr => ⟨fun hseen => ?seen, fun hseen => ?unseen⟩⟩⟩
  case fence =>
    rw [exec_fence h k hsc]
    refine ⟨fun hk hbar => by rw [if_pos ⟨hk, hbar⟩], fun hbar hmet => ?_, fun hbar hmet => ?_⟩
    · rw [if_neg fun hw => hbar.elim hw.1 hw.2, if_pos hmet]
    · rw [if_neg fun hw => hbar.elim hw.1 hw.2, if_neg (ne_true_of_eq_false hmet)]
  case wait =>
    rw [exec_wait h]
    exact ⟨fun hmet => by rw [if_pos hmet], fun hmet => by rw [if_neg (ne_true_of_eq_false hmet)]⟩
  case reached => rw [exec_tlwait_own h c hsc, if_neg (Nat.not_lt.mpr hn),
    State.tlWaits_reached t ((State.tlCount_own h.1 _).symm ▸ hc) hflush]
  case flush => rw [exec_tlwait_own h c hsc, if_neg (Nat.not_lt.mpr hn),
    State.tlWaits_flush t ((State.tlCount_own h.1 _).symm ▸ hc) h5 hseen]
  case below => rw [exec_tlwait_own h c hsc, if_neg (Nat.not_lt.mpr hn),
    State.tlWaits_below t ((State.tlCount_own h.1 _).symm ▸ hc)]
  case beyond => rw [exec_tlwait_own h c hsc, if_pos hn]
  case otherReached => rw [exec_tlwait_other h x c hsc, if_neg (Nat.not_le.mpr hx), State.tlWaits_reached t hc hflush]
  case otherBelow => rw [exec_tlwait_other h x c hsc, if_neg (Nat.not_le.mpr hx), State.tlWaits_below t hc]
  case beyondGroup => rw [exec_tlwait_other h x c hsc, if_pos hx]
  case fault => exact exec_waita h hp hr
  case seen => exact ⟨_, (exec_waita h hp hr).trans (by simp only [if_pos hseen]),
    State.marked_for_waita ((s.resolve_lookedUp ..).of_eq hr) t _⟩
  case unseen => exact ⟨_, (exec_waita h hp hr).trans (by simp only [if_neg hseen]),
    State.marked_for_waita ((s.resolve_lookedUp ..).of_eq hr) t _⟩

end Sys2Proof.Machine
end

section
/-! Read sections, rounds, deferred free and the allowance (O41). -/

set_option Elab.async false

namespace Sys2Proof.Machine

/-! ### The instructions (R312, R331 to R335) -/

section
variable {s : State} {t : Team}

theorem exec_rdenter (h : Ready s t 5 []) : exec .rdenter s = .next (if t.rdDepth = 255 then
      s.park t (mkF .illegalEncoding .readDepth 0 0)
    else (if t.rdDepth = 0 then (s.effect t).invL1 ((s.effect t).groupOf t).core else s.effect t).retire
      { t with rdDepth := t.rdDepth + 1 }).tick :=
  issue_control (i := { eng := 5, xr := [0x0C], xw := [0x0C] }) h {} rfl _

theorem exec_rdexit (h : Ready s t 5 []) : exec .rdexit s = .next (if t.rdDepth = 0 then
      s.park t (mkF .illegalEncoding .readDepth 0 0)
    else if t.rdDepth = 1 then
      if s.readsOpen t.key then s.deschedule t .cond
      else State.retire { s with rounds := s.rounds.map (fun (r : Round) => r.without t.key) } { t with rdDepth := 0 }
    else s.retire { t with rdDepth := t.rdDepth - 1 }).tick :=
  issue_control (i := { eng := 5, xr := [0x0C], xw := [0x0C] }) h {} rfl _

theorem exec_wround (h : Ready s t 5 []) {sc : BitVec 3} (hsc : sc = 3 ∨ sc = 4) :
    exec (.wround sc) s = .next (if t.rdDepth ≠ 0 then s.park t (mkF .illegalEncoding .roundInsideReadSection 0 0)
      else if s.settled t.key then (s.beginRound (s.ctxOf t) (some t.key) sc.toNat).1.deschedule t (.round s.uid)
      else s.deschedule t .stores).tick := by
  refine (issue_control (i := { bad := if sc = 3 ∨ sc = 4 then none else some .roundScope, eng := 5, stop := true, xr := [0x0C] })
    h { bad := if_pos hsc } rfl _).trans ?_
  cases s.settled t.key <;> rfl

/-- The entry that DFREE adds to the list (R335). -/
def State.freeEntry (s : State) (t : Team) (a b : SReg) (c : BitVec 4) : DEntry :=
  { id := s.uid, ctx := s.ctxOf t, addr := t.s a, size := t.s b, cls := c.toNat, waits := s.openWrites t.key,
    queued := false, round := none, released := false }

/-- The machine with an entry added to the list, and the group marked. -/
def State.withFree (s : State) (t : Team) (e : DEntry) : State := { s.effect t with uid := s.uid + 1, dfl := s.dfl ++ [e] }

theorem exec_dfree {a b : SReg} (h : Ready s t 5 [.s a, .s b]) (c : BitVec 4) :
    exec (.dfree a b c) s = .next (if canonical (t.s a) then
      if 65536 ≤ s.dflCount (s.ctxOf t) then s.deschedule t .cond
      else (s.withFree t (s.freeEntry t a b c)).retire t
      else s.park t (mkF .spaceBounds .nonCanonical (t.s a).toNat 4)).tick := by
  refine (issue_control (i := { sr := [a, b], eng := 5 }) h {} rfl _).trans ?_
  cases canonical (t.s a) <;> rfl

theorem exec_alwrd {d a : SReg} (h : Ready s t 5 [.s a, .s d]) : exec (.alwrd d a) s =
    .next (s.retire (t.setS d (BitVec.ofNat 64 (s.allowRead t (t.s a).toNat)))).tick :=
  issue_control (i := { sr := [a], sw := [d], eng := 5 }) h {} rfl _

end

/-- The effect mark leaves a team's group on its core. -/
theorem State.effect_core (s : State) (t : Team) : ((s.effect t).groupOf t).core = (s.groupOf t).core := by
  have hmod := s.group_modGroup t.gslot t.gslot (fun g => { g with effect := true }) (fun _ => rfl)
  rw [State.groupOf, State.groupAt, State.effect, hmod, if_pos rfl, State.groupOf, State.groupAt]
  cases s.group t.gslot <;> rfl

/-- A round that begins takes up every entry of its context that is queued and not released (R335). -/
theorem State.beginRound_takes (s : State) (c : Nat) (team : Option Nat) (scope : Nat) {e : DEntry}
    (he : e ∈ (s.beginRound c team scope).1.dfl) (hctx : e.ctx = c) (hqueued : e.queued = true) (hheld : e.released = false) :
    e.round.isSome = true := by
  obtain ⟨x, -, rfl⟩ := List.mem_map.mp he
  by_cases htake : (x.ctx == c && x.queued && x.round.isNone && !x.released) = true
  · rw [if_pos htake]; rfl
  · rw [if_neg htake] at hctx hqueued hheld ⊢
    cases hround : x.round with
    | some n => rfl
    | none => exact absurd (by simp [hctx, hqueued, hheld, hround]) htake

/-- Settles O41: each instruction by the branch of its effect; the round's entries by `State.beginRound_takes`. -/
theorem readSectionsAndRounds : Obligations.ReadSectionsAndRounds := by
  intro s t d a b c sc
  refine ⟨fun h => ⟨fun hdeep => ?tooDeep, fun hdeep => ?enter, fun hz => ?outside, fun hinner => ?inner,
      fun hlast hdone => ?turn, fun hlast hopen => ?reading⟩,
    fun h hsc => ⟨fun hin => ?inside, fun hout hstores => ?stores, fun hout hsettled => ?round⟩,
    fun h => ⟨fun hcan => ?noAddress, fun hcan hfull => ?full, fun hcan hroom => ?entry⟩, exec_alwrd⟩
  case tooDeep => rw [exec_rdenter h, if_pos hdeep]
  case enter =>
    refine ⟨_, by rw [exec_rdenter h, if_neg hdeep], ?_⟩
    split
    · exact ⟨rfl, rfl, fun _ => s.effect_core t ▸ State.invL1_l1 _ _⟩
    · next hne => exact ⟨rfl, rfl, fun hz => absurd hz hne⟩
  case outside => rw [exec_rdexit h, if_pos hz]
  case inner => rw [exec_rdexit h, if_neg (by omega), if_neg (by omega)]
  case turn => rw [exec_rdexit h, if_neg (by omega), if_pos hlast, if_neg (ne_true_of_eq_false hdone)]
  case reading => rw [exec_rdexit h, if_neg (by omega), if_pos hlast, if_pos hopen]
  case inside => rw [exec_wround h hsc, if_pos hin]
  case stores => rw [exec_wround h hsc, if_neg (not_not.mpr hout), if_neg (ne_true_of_eq_false hstores)]
  case round =>
    refine ⟨(s.beginRound (s.ctxOf t) (some t.key) sc.toNat).1,
      by rw [exec_wround h hsc, if_neg (not_not.mpr hout), if_pos hsettled], rfl, rfl, ?_,
      fun e he hctx hqueued hheld => s.beginRound_takes _ _ _ he hctx hqueued hheld⟩
    obtain rfl | rfl := hsc <;> rfl
  case noAddress => rw [exec_dfree h, if_neg (ne_true_of_eq_false hcan)]
  case full => rw [exec_dfree h, if_pos hcan, if_pos hfull]
  case entry =>
    refine ⟨s.withFree t (s.freeEntry t a b c), s.freeEntry t a b c,
      by rw [exec_dfree h, if_pos hcan, if_neg (Nat.not_le.mpr hroom)], ?_⟩
    and_intros <;> rfl

end Sys2Proof.Machine
end

section
/-! What a memory instruction changes before its team goes on, in a machine that traces in bounds (O33 to O38). -/

set_option Elab.async false

namespace Sys2Proof.Machine

/-! ### A step within some bytes -/

/-- Of a machine, the step of an instruction so far: tracing stays in bounds, memory has changed in the bytes of P and the trace
stores alone, teams may have been woken, and accesses have at most lost their way into the L1. -/
structure State.Within (P : Nat → Prop) (s0 s : State) : Prop where
  ok : s.TraceOk
  mem : ∀ b, noTrace b → ¬ P b → Mem.read s.mem b = Mem.read s0.mem b
  teams : s0.TeamsWoken s
  acc : s.acc.map Access.bare = s0.acc.map Access.bare

theorem State.Within.refl (P : Nat → Prop) {s : State} (h : s.TraceOk) : State.Within P s s :=
  ⟨h, fun _ _ _ => rfl, .of_teams rfl, rfl⟩

variable {P : Nat → Prop} {s0 s s' : State}

/-- A change of what is neither memory, teams, accesses nor read by tracing. -/
theorem State.Within.of_eq (h : s0.Within P s) (hmem : s'.mem = s.mem) (htrc : s'.trc = s.trc) (hcores : s'.cores = s.cores)
    (hteams : s'.teams = s.teams) (hacc : s'.acc.map Access.bare = s.acc.map Access.bare) : s0.Within P s' :=
  ⟨h.ok.congr (by rw [State.Inv, hmem]; exact h.ok.inv) htrc hcores, fun b hb hP => by rw [hmem]; exact h.mem b hb hP,
    h.teams.trans (.of_teams hteams), hacc.trans h.acc⟩

/-- A change of cores that leaves their open trace blocks. -/
theorem State.Within.of_blocks (h : s0.Within P s) (hmem : s'.mem = s.mem) (htrc : s'.trc = s.trc)
    (hcores : ∀ k, (s'.core k).trace = (s.core k).trace)
    (hteams : s'.teams = s.teams) (hacc : s'.acc.map Access.bare = s.acc.map Access.bare) : s0.Within P s' :=
  ⟨⟨by rw [State.Inv, hmem]; exact h.ok.inv, htrc ▸ h.ok.index, fun k => hcores k ▸ h.ok.blocks k⟩,
    fun b hb hP => by rw [hmem]; exact h.mem b hb hP, h.teams.trans (.of_teams hteams), hacc.trans h.acc⟩

theorem State.core_l1_trace (s : State) (core : Nat) (f : List (Nat × Line) → List (Nat × Line)) (k : Nat) :
    ((s.modCore core (fun c => { c with l1 := f c.l1 })).core k).trace = (s.core k).trace := by
  rw [s.core_modCore core k (fun c => { c with l1 := f c.l1 }) fun _ => rfl]
  split
  · next hk => rw [hk]
  · rfl

/-- What an L1 holds changes. -/
theorem State.Within.modL1 (h : s0.Within P s) (core : Nat) (f : List (Nat × Line) → List (Nat × Line)) :
    s0.Within P (s.modCore core (fun c => { c with l1 := f c.l1 })) :=
  h.of_blocks rfl rfl (s.core_l1_trace core f) rfl rfl

theorem bare_map_shut (xs : List Access) (q : Access → Bool) :
    (xs.map (fun a => if q a then { a with plain := false } else a)).map Access.bare = xs.map Access.bare := by
  rw [List.map_map]
  refine List.map_congr_left fun a _ => ?_
  rw [Function.comp_apply]
  split <;> rfl

theorem State.Within.invL1 (h : s0.Within P s) (core : Nat) : s0.Within P (s.invL1 core) :=
  (h.modL1 core fun _ => []).of_eq rfl rfl rfl rfl (bare_map_shut s.acc _)

theorem State.Within.invL1If (h : s0.Within P s) (acq : Bool) (core : Nat) :
    s0.Within P (if acq = true then s.invL1 core else s) := by
  split
  · exact h.invL1 core
  · exact h

theorem State.Within.l1Put (h : s0.Within P s) (core ln : Nat) (d : Line) : s0.Within P (s.l1Put core ln d) :=
  h.modL1 core fun l1 => ((ln, d) :: l1.filter (fun x => x.1 != ln)).take l1Lines

theorem State.Within.dropL1 (h : s0.Within P s) (core : Nat) (us : List Unit1) : s0.Within P (s.dropL1 core us) :=
  (h.modL1 core fun l1 => l1.filter (fun x => !(us.flatMap (·.ps)).any (fun p =>
    decide (p.home / 128 ≤ x.1) && decide (x.1 ≤ (p.home + p.n - 1) / 128)))).of_eq rfl rfl rfl rfl (bare_map_shut s.acc _)

theorem State.Within.choose (h : s0.Within P s) : s0.Within P s.choose.1 := h.of_eq rfl rfl rfl rfl rfl

theorem State.Within.fresh (h : s0.Within P s) : s0.Within P s.fresh.1 := h.of_eq rfl rfl rfl rfl rfl

theorem State.Within.modCtx (h : s0.Within P s) (c : Nat) (f : Ctx → Ctx) : s0.Within P (s.modCtx c f) :=
  h.of_eq rfl rfl rfl rfl rfl

theorem State.Within.effect (h : s0.Within P s) (t : Team) : s0.Within P (s.effect t) := h.of_eq rfl rfl rfl rfl rfl

/-- Cells rewritten and waiters on them woken, within P. -/
theorem State.Within.wake (h : s0.Within P s) {m : List Host.Cell} (hm : Mem.wf m = true)
    (hP : ∀ b, ¬ P b → Mem.read m b = Mem.read s.mem b) (a n : Nat) : s0.Within P ({ s with mem := m }.wake a n) :=
  ⟨h.ok.congr hm rfl rfl, fun b hb hPb => (hP b hPb).trans (h.mem b hb hPb), h.teams.trans (State.wake_teamsWoken _ a n), h.acc⟩

theorem State.Within.markAD (h : s0.Within P s) {ea : Option Nat} (hP : ∀ a, ea = some a → P (homeG a + 4)) (wr : Bool) :
    s0.Within P (s.markAD ea wr) := by
  have hread : ∀ b, ¬ P b → Mem.read (s.markAD ea wr).mem b = Mem.read s.mem b :=
    fun b hb => s.read_markAD wr fun a ha he => hb (he ▸ hP a ha)
  have hinv := h.ok.inv.markAD (ea := ea) (wr := wr)
  unfold State.markAD at hread hinv ⊢
  dsimp only at hread hinv ⊢
  split
  · exact h
  next a =>
  generalize (if wr = true then (0x60 : Byte) else 0x40) = x at hread hinv ⊢
  split
  · exact h
  next hne =>
    simp only [if_neg hne] at hread hinv
    exact h.wake hinv hread _ _

theorem State.Within.markAll {us : List Unit1} (h : s0.Within P s) (hP : ∀ b, leafByte us b → P b) (wr : Bool) :
    s0.Within P (s.markAll us wr) :=
  List.foldlRecOn us _ h fun _ h u hu => List.foldlRecOn u.ps _ h fun _ h p hp =>
    h.markAD (fun a ha => hP _ ⟨u, hu, p, hp, a, ha, rfl⟩) wr

/-- Bytes of P performed at their homes. -/
theorem State.Within.perform (h : s0.Within P s) {a : Nat} {bs : List Byte} (hP : ∀ b, a ≤ b → b < a + bs.length → P b) :
    s0.Within P (s.perform a bs) := by
  have hpoison := h.wake (m := Mem.writeN s.mem a bs) (Mem.wf_writeN h.ok.inv a bs)
    (fun b hb => Mem.read_writeN_outside h.ok.inv _ _ _ (by by_contra hin; exact hb (hP b (by omega) (by omega)))) a bs.length
  exact hpoison.of_eq rfl rfl rfl rfl rfl

/-! ### Prefetches, caches and scopes -/

theorem State.Within.usePf (h : s0.Within P s) (c : Nat) (ls : List Nat) : s0.Within P (s.usePf c ls) := by
  unfold State.usePf
  split
  · exact h
  refine List.foldlRecOn ls _ h fun s h l _ => ?_
  dsimp only
  split
  · exact h
  · exact h.modCtx c _

theorem State.Within.recordScopes (h : s0.Within P s) (t : Team) (sp : Space) (sc : BitVec 3) (ps : List Piece) :
    s0.Within P (s.recordScopes t sp sc ps) := by
  unfold State.recordScopes
  split
  · exact h
  · exact List.foldlRecOn _ _ h fun s h _ _ => h.of_eq rfl rfl rfl rfl rfl

theorem State.Within.recordEach (h : s0.Within P s) (t : Team) (sp : Space) (sc : BitVec 3) (us : List Unit1) :
    s0.Within P (us.foldl (fun (s : State) (u : Unit1) => s.recordScopes t sp sc u.ps) s) :=
  List.foldlRecOn us _ h fun _ h u _ => h.recordScopes t sp sc u.ps

theorem State.Within.l1Line (h : s0.Within P s) (core ln lo hi : Nat) : s0.Within P (s.l1Line core ln lo hi).1 := by
  have hfill : ∀ {s : State}, s0.Within P s → s0.Within P (if s.lineBusy ln then
      s.modCore core (fun c => { c with l1 := c.l1.filter (fun x => x.1 != ln) })
      else s.l1Put core ln (lineNat (Mem.readN s.mem (ln * 128) 128))) := fun {s} h => by
    split
    · exact h.modL1 core fun l1 => l1.filter (fun x => x.1 != ln)
    · exact h.l1Put ..
  unfold State.l1Line
  dsimp only
  split
  · split
    · exact h
    · split
      · exact h.choose
      · exact hfill h.choose
  · exact hfill h

theorem State.Within.l1Bytes (h : s0.Within P s) (core a n : Nat) : s0.Within P (s.l1Bytes core a n).1 :=
  List.foldlRecOn (motive := fun p : State × List Byte => s0.Within P p.1) _ _ h fun _ h ln _ => h.l1Line core ln _ _

theorem State.Within.localBytes (h : s0.Within P s) (core : Nat) (plain : Bool) (us : List Unit1) :
    s0.Within P (s.localBytes core plain us).1 := by
  refine List.foldlRecOn (motive := fun p : State × List (Unit1 × Nat × Byte × Bool) => s0.Within P p.1) us _ h
    fun r h u _ => ?_
  refine List.foldlRecOn (motive := fun p : State × List (Unit1 × Nat × Byte × Bool) × Nat => s0.Within P p.1) u.ps _ h
    fun q h p _ => ?_
  dsimp only
  split
  · exact h
  · split
    · exact h.l1Bytes ..
    · exact h

theorem State.Within.remLines (h : s0.Within P s) (bs : List RByte) : s0.Within P (s.remLines bs).1 := by
  refine List.foldlRecOn (motive := fun p : State × List (RemLine × List RByte) => s0.Within P p.1) _ _ h fun r h k _ => ?_
  dsimp only
  split
  · exact h
  · exact h.fresh

theorem State.Within.l1Far (h : s0.Within P s) (core : Nat) (plain : Bool) (bs : List RByte) :
    s0.Within P (s.l1Far core plain bs).1 := by
  unfold State.l1Far
  split
  · exact h
  refine List.foldlRecOn (motive := fun p : State × List RByte × List RByte => s0.Within P p.1) _ _ h fun r h k _ => ?_
  dsimp only
  split
  · exact h
  · split
    · exact h
    · split <;> exact h.choose

/-! ### Packets -/

/-- Packets sent change the peers alone. -/
theorem State.sendPkts_eq (s : State) (m : Nat) (ps : List Packet) : ∃ peers, s.sendPkts m ps = { s with peers := peers } := by
  have hpump : ∀ n (s : State), ∃ peers, s.pump m n = { s with peers := peers } := fun n => by
    induction n with
    | zero => exact fun s => ⟨_, rfl⟩
    | succ n ih =>
      intro s
      obtain ⟨peers, h⟩ : ∃ peers, s.pump1 m = { s with peers := peers } := by
        unfold State.pump1
        dsimp only
        split <;> exact ⟨_, rfl⟩
      rw [State.pump, h]
      exact ih _
  exact hpump _ _

/-- Of two machines only the packets under way and the numbers given differ. -/
def State.Queued (s s' : State) : Prop := ∃ bs peers uid, s' = { s with batches := bs, peers := peers, uid := uid }

theorem State.Queued.trans {s s' s'' : State} (h : s.Queued s') (h' : s'.Queued s'') : s.Queued s'' := by
  obtain ⟨_, _, _, rfl⟩ := h
  obtain ⟨_, _, _, rfl⟩ := h'
  exact ⟨_, _, _, rfl⟩

theorem State.queuePkts_queued (s : State) (team : Option Nat) (ps : List Packet) : s.Queued (s.queuePkts team ps) := by
  unfold State.queuePkts State.sendBatches
  dsimp only
  refine List.foldlRecOn _ _ (List.foldlRecOn _ _ ⟨_, _, _, rfl⟩ fun s' h m _ => List.foldlRecOn _ _ h fun s' h xs _ =>
    h.trans ⟨_, _, _, rfl⟩) fun s' h b _ => ?_
  split
  · exact h
  · obtain ⟨peers, hsent⟩ := State.sendPkts_eq { s' with batches := s'.batches.filter (fun x => x.id != b.id) } b.peer b.pkts
    exact h.trans ⟨_, _, _, hsent⟩

theorem State.Within.queuePkts (h : s0.Within P s) (team : Option Nat) (ps : List Packet) :
    s0.Within P (s.queuePkts team ps) := by
  obtain ⟨_, _, _, heq⟩ := s.queuePkts_queued team ps
  rw [heq]
  exact h.of_eq rfl rfl rfl rfl rfl

/-! ### An access that has begun (R307) -/

/-- The team of an access goes on: its registers and counters stand, and of memory the trace stores alone may change. -/
theorem State.retireAcc_keeps {s : State} {t : Team} (h : (s.team t.key).isSome = true) (a : Access) :
    (s.retireAcc t a).acc = s.acc ∧
      (∃ u, (s.retireAcc t a).team t.key = some u ∧ u.regs = t.regs ∧ u.cnt = t.cnt) ∧
      (s.TraceOk → SameMem s (s.retireAcc t a)) := by
  have hretire : ∀ {s : State}, (s.team t.key).isSome = true → (s.retire t).acc = s.acc ∧
      (∃ u, (s.retire t).team t.key = some u ∧ u.regs = t.regs ∧ u.cnt = t.cnt) ∧ (s.retire t).mem = s.mem := fun {s} h => by
    obtain ⟨ps, cur, heq, -⟩ := s.retire_eq t
    exact ⟨by rw [heq]; rfl, ⟨_, State.team_retire_self h, by rw [t.retired_frame], by rw [t.retired_frame]⟩, by rw [heq]; rfl⟩
  have hwait : ∀ {s : State} w, (s.team t.key).isSome = true → (s.retireWait t w).acc = s.acc ∧
      (∃ u, (s.retireWait t w).team t.key = some u ∧ u.regs = t.regs ∧ u.cnt = t.cnt) ∧ (s.retireWait t w).mem = s.mem :=
    fun {s} w h => by
      obtain ⟨ts, ps, cur, heq⟩ := s.retireWait_eq t w
      exact ⟨by rw [heq], ⟨_, State.team_retireWait h w, by rw [t.retired_frame], by rw [t.retired_frame]⟩, by rw [heq]⟩
  have hsame : ∀ {s' : State}, s'.mem = s.mem → s.TraceOk → SameMem s s' := fun he _ b _ => congrArg (Mem.read · b) he
  unfold State.retireAcc State.retireFabric
  split
  · split
    next b _ =>
      have hteam : ((s.traceTeam t 8 (b.peer * 2 ^ 31)).team t.key).isSome = true := by
        rwa [State.team_congr (State.traceTeam_keeps _ _ _ _).1]
      obtain ⟨hacc, hu, hmem⟩ := hwait (.fabric b.peer) hteam
      refine ⟨by rw [hacc]; simp, hu, fun hok b' hb' => ?_⟩
      rw [hmem]
      exact (hok.traceTeam t 8 (b.peer * 2 ^ 31)).1 b' hb'
    next =>
      obtain ⟨hacc, hu, hmem⟩ := hretire h
      exact ⟨hacc, hu, hsame hmem⟩
  · split
    · obtain ⟨hacc, hu, hmem⟩ := hwait (.accs [a.id]) h
      exact ⟨hacc, hu, hsame hmem⟩
    · obtain ⟨hacc, hu, hmem⟩ := hretire h
      exact ⟨hacc, hu, hsame hmem⟩

/-- An access as it begins, of a team whose counters have counted it. -/
structure Begins (t t' : Team) (load : Bool) (ds : List Dest) (a : Access) : Prop where
  team : a.team = t.key
  kind : a.load = load
  dests : a.dests = ds
  key : t'.key = t.key
  regs : t'.regs = t.regs
  cnt : t'.cnt = (t.countIn load).cnt

theorem State.TeamsWoken.keys {s s' : State} (h : s.TeamsWoken s') : s'.keys = s.keys := h.map_eq Team.key fun _ _ _ => rfl

/-- A team that may have been woken, with its registers and counters. -/
theorem State.TeamsWoken.team {s s' : State} (h : s.TeamsWoken s') {t : Team} (ht : s.team t.key = some t) :
    ∃ st m, s'.team t.key = some { t with st := st, monitor := m } := by
  obtain ⟨f, hf, hteams⟩ := h
  obtain ⟨st, m, hft⟩ := hf t
  refine ⟨st, m, ?_⟩
  have hkey : (fun u : Team => u.key == t.key) ∘ f = fun u => u.key == t.key := by
    funext u
    obtain ⟨st, m, hfu⟩ := hf u
    rw [Function.comp_apply, hfu]
  rw [State.team] at ht ⊢
  rw [hteams, List.find?_map, hkey, ht, Option.map_some, hft]

/-- An access begins: what its instruction did first lies within P, and what came once it was listed too. -/
theorem State.Within.begun {s s1 s2 s' : State} {t t' : Team} {a : Access} {load : Bool} {ds : List Dest} {ps : List Packet}
    (hs' : s' = (((s2.putTeam t').queuePkts (some t'.key) ps).retireAcc t' a).tick) (h1 : s.Within P s1)
    (h2 : State.Within P { s1 with acc := s1.acc ++ [a] } s2) (ht : s.team t.key = some t) (hb : Begins t t' load ds a.bare) :
    Begun s s' t load ds ∧ ∀ b, noTrace b → ¬ P b → Mem.read s'.mem b = Mem.read s.mem b := by
  subst hs'
  obtain ⟨hteam, hkind, hdests, hkey, hregs, hcnt⟩ := hb
  have h3 : State.Within P (s2.putTeam t') ((s2.putTeam t').queuePkts (some t'.key) ps) :=
    (State.Within.refl P (h2.ok.congr (s' := s2.putTeam t') h2.ok.inv rfl rfl)).queuePkts _ _
  have hsome : (((s2.putTeam t').queuePkts (some t'.key) ps).team t'.key).isSome = true := by
    refine State.team_isSome_congr h3.teams.keys ?_
    have hs2 : (s2.team t'.key).isSome = true := by
      rw [hkey]
      exact State.team_isSome_congr h2.teams.keys (State.team_isSome_congr (s := s) h1.teams.keys (by rw [ht]; rfl))
    rw [State.team_putTeam_self _ _ hs2]
    rfl
  obtain ⟨hacc, ⟨u, hu, huregs, hucnt⟩, hmem⟩ := State.retireAcc_keeps hsome a
  refine ⟨⟨a.bare, u, ?_, hteam, hkind, hdests, ?_, huregs.trans hregs, hucnt.trans hcnt⟩, fun b hb hP => ?_⟩
  · calc (((s2.putTeam t').queuePkts (some t'.key) ps).retireAcc t' a).acc.map Access.bare
        = s2.acc.map Access.bare := by rw [hacc, h3.acc]; rfl
      _ = s.acc.map Access.bare ++ [a.bare] := by rw [h2.acc, List.map_append, h1.acc]; rfl
  · rw [← hkey]; exact hu
  · calc Mem.read (((s2.putTeam t').queuePkts (some t'.key) ps).retireAcc t' a).mem b
        = Mem.read ((s2.putTeam t').queuePkts (some t'.key) ps).mem b := hmem h3.ok b hb
      _ = Mem.read s2.mem b := h3.mem b hb hP
      _ = Mem.read s1.mem b := h2.mem b hb hP
      _ = Mem.read s.mem b := h1.mem b hb hP

/-- The machine in which an access has just been listed. -/
theorem State.Within.listed {s1 : State} (h : s0.Within P s1) (a : Access) :
    State.Within P { s1 with acc := s1.acc ++ [a] } { s1 with acc := s1.acc ++ [a] } :=
  .refl P (h.ok.congr h.ok.inv rfl rfl)

end Sys2Proof.Machine
end

section
/-! Loads and stores issue, in a machine that traces in bounds (O33 to O36). -/

set_option Elab.async false

namespace Sys2Proof.Machine

variable {P : Nat → Prop} {s0 s s' : State}

/-! ### Stores (R133, R304, R309) -/

/-- The bytes of a run stand one after the other among those it was made of. -/
theorem runsOf_index {xs : List (Nat × Byte)} {q : Nat × List Byte} (hq : q ∈ runsOf xs) {j : Nat} (hj : j < q.2.length) :
    ∃ x ∈ xs, x.1 = q.1 + j := by
  induction xs generalizing q j with
  | nil => exact absurd hq List.not_mem_nil
  | cons x r ih =>
    obtain ⟨i, b⟩ := x
    have hrest : q ∈ runsOf r → ∃ x ∈ (i, b) :: r, x.1 = q.1 + j := fun hq =>
      (ih hq hj).imp fun x hx => ⟨List.mem_cons_of_mem _ hx.1, hx.2⟩
    have hfirst : q = (i, [b]) → ∃ x ∈ (i, b) :: r, x.1 = q.1 + j := by
      rintro rfl
      rw [List.length_singleton, Nat.lt_one_iff] at hj
      exact ⟨_, List.mem_cons_self, by rw [hj]; rfl⟩
    unfold runsOf at hq
    split at hq
    next k bs rest hruns =>
      split at hq
      · next hk =>
        obtain rfl | hq := List.mem_cons.mp hq
        · cases j with
          | zero => exact ⟨_, List.mem_cons_self, rfl⟩
          | succ j =>
            obtain ⟨x, hx, hxj⟩ := ih (hruns ▸ List.mem_cons_self) (j := j) (Nat.lt_of_succ_lt_succ hj)
            exact ⟨x, List.mem_cons_of_mem _ hx, by rw [hxj, hk]; exact Nat.succ_add_eq_add_succ i j⟩
        · exact hrest (hruns ▸ List.mem_cons_of_mem _ hq)
      · obtain rfl | hq := List.mem_cons.mp hq
        · exact hfirst rfl
        · exact hrest (hruns ▸ hq)
    next => exact hfirst (List.mem_singleton.mp hq)

theorem State.Within.storeUnit (h : s0.Within P s) {u : Unit1} (hP : ∀ b, pieceByte [u] b → P b) (bs : List (Nat × Byte)) :
    s0.Within P (s.storeUnit u bs) := by
  refine List.foldlRecOn (motive := fun p : State × Nat => s0.Within P p.1) u.ps _ h fun r h p hp => ?_
  refine List.foldlRecOn _ _ h fun s h q hq => h.perform fun b hlo hhi => ?_
  split at hq
  next hap =>
    obtain ⟨x0, hx0, h0⟩ := runsOf_index hq (j := 0) (by omega)
    obtain ⟨x, hx, hj⟩ := runsOf_index hq (j := b - (p.addr + (q.1 - r.2))) (by omega)
    simp only [List.mem_filter, Bool.and_eq_true, decide_eq_true_eq] at hx0 hx
    exact hP b ⟨u, List.mem_singleton_self u, p, hp, hap, by omega, by omega⟩
  next => exact absurd hq List.not_mem_nil

theorem State.Within.wholeWords (h : s0.Within P s) (at_ : List Nat) : s0.Within P (s.wholeWords at_) := by
  unfold State.wholeWords
  split
  · exact h
  · exact h.of_eq rfl rfl rfl rfl rfl

theorem State.Within.storeEffect (h : s0.Within P s) (t : Team) (sp : Space) : s0.Within P (s.storeEffect t sp) := by
  unfold State.storeEffect
  split
  · exact h
  · exact h.effect t

theorem State.Within.hostStores (h : s0.Within P s) (ls : List (RemLine × List RByte)) : s0.Within P (s.hostStores ls) :=
  h.of_eq rfl rfl rfl rfl rfl

/-- The bytes that an access may change: leaf entries, and those that it covers. -/
def accessByte (us : List Unit1) (b : Nat) : Prop := leafByte us b ∨ pieceByte us b

/-- A team whose accesses are performed has none that a later access of it would wait for (R139, R164). -/
theorem State.earlier_of_settled {s : State} {t : Team} (ht : s.team t.key = some t) (h : s.settled t.key = true) (atom : Bool)
    (us : List Unit1) : s.earlier t.key atom us = [] := by
  simp only [State.settled, ht, Option.map_some, Option.getD_some, Bool.and_eq_true, Bool.not_eq_true', List.any_eq_false,
    beq_iff_eq, State.afterBar, List.map_eq_nil_iff, List.filter_eq_nil_iff] at h
  obtain ⟨hown, hafter⟩ := h
  have hhome : ∀ a ∈ s.acc, s.before t.key a = true → a.away = false := fun a ha hb => by
    simp only [State.before, ht, Option.any_some, Bool.or_eq_true, beq_iff_eq] at hb
    obtain hteam | hbar := hb
    · have := hown a ha
      simp only [hteam, true_and, Bool.or_eq_true, not_or] at this
      simpa using this.2
    · exact Bool.eq_false_of_not_eq_true fun haway => hafter a ha ⟨hbar, haway⟩
  rw [State.earlier, List.map_eq_nil_iff, List.filter_eq_nil_iff]
  intro a ha
  cases hb : s.before t.key a with
  | false => simp
  | true =>
    have haway := hhome a ha hb
    simp only [Access.away, Bool.or_eq_false_iff, Bool.not_eq_false', List.isEmpty_iff, bne_eq_false_iff_eq] at haway
    simp [haway.1, haway.2]

/-- A store issues: it has begun, and has changed no byte but those of the access, leaf entries and trace stores. -/
theorem State.TraceOk.startStore {s : State} (h : s.TraceOk) {t : Team} (ht : s.team t.key = some t) (sp : Space)
    {sync : Option (BitVec 3)} {us : List Unit1} (data : Unit1 → List (Nat × Byte))
    (hready : s.settled t.key = true ∨ sync = none ∧ s.earlier t.key false us = []) (hfull : t.countFull false = false)
    (hslots : (s.askSlots (s.groupOf t).core (reqLines us)).isSome = true) :
    Begun s (s.startStore t sp sync us data).tick t false [] ∧ SameBytes s (s.startStore t sp sync us data).tick us true := by
  have hnow : (sync.isSome && !s.settled t.key) = false := by
    obtain hset | ⟨rfl, -⟩ := hready
    · rw [hset, Bool.not_true, Bool.and_false]
    · rfl
  have hfirst := hready.elim (fun hset => State.earlier_of_settled ht hset false us) And.right
  obtain ⟨⟨reqs, nb, ns⟩, hask⟩ := Option.isSome_iff_exists.mp hslots
  unfold State.startStore
  simp only [hnow, hfirst, hfull, hask, Bool.false_eq_true, if_false, ne_eq, not_true_eq_false]
  have hmarked := (((State.Within.refl (accessByte us) h).storeEffect t sp).markAll (us := us) (fun _ => .inl) true)
  have hused := (hmarked.usePf (s.groupOf t).ctx (homeLines us)).modCtx (s.groupOf t).ctx (fun c => (c.count 7 nb).count 8 ns)
  have hstored := List.foldlRecOn us (fun s u => s.storeUnit u (data u)) (hused.dropL1 (s.groupOf t).core us) fun s h u hu =>
    h.storeUnit (fun b ⟨v, hv, p, hp⟩ => .inr ⟨u, hu, p, List.mem_singleton.mp hv ▸ hp⟩) (data u)
  have hwhole := hstored.wholeWords (us.flatMap (fun u => unitBytes u (data u)))
  generalize State.wholeWords _ _ = s4 at hwhole ⊢
  obtain ⟨st, m, hwoken⟩ := hwhole.teams.team ht
  have hsent := hwhole.remLines (remoteBytes us (fun u i => ((data u).find? (fun b => b.1 == i)).map (fun b => (u.lane, i, b.2))))
  generalize State.remLines _ _ = r at hsent ⊢
  obtain ⟨s5, rem⟩ := r
  have hnumbered := (hsent.hostStores rem).fresh
  dsimp only
  generalize State.fresh _ = r at hnumbered ⊢
  obtain ⟨s6, id⟩ := r
  dsimp only at hnumbered
  simp only [hwoken, Option.getD_some]
  refine And.imp_right ?bytes (State.Within.begun rfl hnumbered ?sync ht ⟨rfl, rfl, rfl, rfl, rfl, rfl⟩)
  case bytes => exact fun hmem b hb hleaf hpiece => hmem b hb fun hP => hP.elim hleaf (hpiece rfl)
  case sync =>
    cases sync with
    | none => exact hnumbered.listed _
    | some sc => exact (hnumbered.listed _).recordEach _ sp sc us

/-! ### Loads (R302, R303, R309) -/

/-- A load issues: it has begun, and has changed no byte but those of leaf entries and trace stores. -/
theorem State.TraceOk.startLoad {s : State} (h : s.TraceOk) {t : Team} (ht : s.team t.key = some t) (sp : Space)
    {us : List Unit1} (pl : LoadPlan) (hfirst : s.earlier t.key false us = []) (hfull : t.countFull true = false)
    (hslots : ∀ ls : List Nat, ls.Sublist (reqLines us) → (s.askSlots (s.groupOf t).core ls).isSome = true) :
    Begun s (s.startLoad t sp us pl).tick t true pl.dests ∧ SameBytes s (s.startLoad t sp us pl).tick us false := by
  unfold State.startLoad
  simp only [hfirst, hfull, Bool.false_eq_true, if_false, ne_eq, not_true_eq_false]
  have hnear := (State.Within.refl (leafByte us) h).l1Far (s.groupOf t).core pl.plain
    (remoteBytes us (fun u i => (pl.at_ u i).map (fun y => (y.1, y.2, 0))))
  generalize State.l1Far _ _ _ _ = r at hnear ⊢
  obtain ⟨s1, near, far⟩ := r
  dsimp only at hnear ⊢
  split
  next hask => exact absurd (hslots _ List.filter_sublist) (by rw [hask]; exact Bool.false_ne_true)
  next reqs nb ns hask =>
  have hmarked := hnear.markAll (us := us) (fun _ => id) false
  generalize State.markAll _ _ _ = s2 at hmarked ⊢
  obtain ⟨st, m, hwoken⟩ := hmarked.teams.team ht
  simp only [hwoken, Option.getD_some]
  have hread := ((hmarked.usePf (s.groupOf t).ctx (homeLines us)).modCtx (s.groupOf t).ctx
    (fun c => (c.count 7 nb).count 8 ns)).localBytes (s.groupOf t).core pl.plain us
  generalize State.localBytes _ _ _ _ = r at hread ⊢
  obtain ⟨s3, loc⟩ := r
  have hsent := hread.remLines far
  dsimp only at hsent ⊢
  generalize State.remLines _ _ = r at hsent ⊢
  obtain ⟨s4, rem⟩ := r
  have hnumbered := hsent.fresh
  dsimp only at hnumbered ⊢
  generalize State.fresh _ = r at hnumbered ⊢
  obtain ⟨s5, id⟩ := r
  dsimp only at hnumbered ⊢
  refine And.imp_right ?bytes (State.Within.begun rfl hnumbered ?listed ht ⟨rfl, rfl, rfl, rfl, rfl, rfl⟩)
  case bytes => exact fun hmem b hb hleaf _ => hmem b hb hleaf
  case listed =>
    cases pl.sync with
    | none => exact (hnumbered.listed _).invL1If _ _
    | some sc => exact ((hnumbered.listed _).recordEach _ sp sc us).invL1If _ _

/-! ### Addresses resolved (R99, R452) -/

/-- Look-ups that leave the open trace blocks of cores. -/
theorem State.Within.lookedUp (h : s0.Within P s) (hs : s.LookedUp s') (hcores : ∀ k, (s'.core k).trace = (s.core k).trace) :
    s0.Within P s' := by
  obtain ⟨_, _, _, rfl⟩ := hs
  exact h.of_blocks rfl rfl hcores rfl rfl

/-- A step that answers a pair, once its answer is known. -/
theorem State.Within.of_fst {α : Type} {q : State × α} {x : α} (h : s0.Within P q.1) (e : q = (s, x)) : s0.Within P s := by
  rwa [e] at h

theorem State.Within.walk (h : s0.Within P s) (c die va : Nat) (wr : Bool) : s0.Within P (s.walk c die va wr).1 :=
  h.lookedUp (s.walk_lookedUp c die va wr) fun k => by rw [State.core, show (s.walk c die va wr).1.cores = s.cores by simp]; rfl

theorem State.Within.modTlb (h : s0.Within P s) (core : Nat) (x : Nat × Nat × Nat × Dw) :
    s0.Within P (s.modCore core (fun c => { c with tlb := x :: c.tlb })) := by
  refine h.of_blocks rfl rfl (fun k => ?_) rfl rfl
  rw [s.core_modCore core k (fun c => { c with tlb := x :: c.tlb }) fun _ => rfl]
  split
  · next hk => rw [hk]
  · rfl

theorem State.Within.xlate (h : s0.Within P s) (core c va : Nat) (k : AccK) (o : XOpt) :
    s0.Within P (s.xlate core c va k o).1 := by
  unfold State.xlate
  split
  next s1 w hw =>
  have h1 : s0.Within P s1 := (h.walk ..).of_fst hw
  extract_lets w0
  split
  next s2 hit htlb =>
  have h2 : s0.Within P s2 := by
    split at htlb
    · split at htlb
      · exact h1.of_fst htlb
      · split at htlb
        next e => exact (h1.choose.of_fst e).of_fst htlb
    · exact h1.of_fst htlb
  split
  · split
    · exact h2
    · split <;> exact h2
  · exact h2
  · exact h2
  · split
    · exact h2
    · dsimp only
      split
      · exact h2
      · exact h2.modTlb core _

theorem State.Within.xlateAcc (h : s0.Within P s) (t : Team) (o : AccOpt) (window : Bool) (va : Nat) :
    s0.Within P (s.xlateAcc t o window va).1 := by
  unfold State.xlateAcc
  extract_lets g
  split
  · exact h
  split
  next s1 r e1 =>
  have h1 : s0.Within P s1 := (h.xlate ..).of_fst e1
  split
  next s2 r' e2 =>
  have h2 : s0.Within P s2 := by
    split at e2
    · exact h1.of_fst e2
    · split at e2
      next e => exact ((h1.xlate ..).of_fst e).of_fst e2
  split <;> exact h2

theorem State.Within.resolve (h : s0.Within P s) (t : Team) (sp : Space) (base : SReg) (o : AccOpt) (l : Nat) (va : Dw) :
    s0.Within P (s.resolve t sp base o l va).1 := by
  unfold State.resolve
  extract_lets g x off
  split
  · exact h
  cases sp with
  | G => exact h.xlateAcc ..
  | L =>
    dsimp only
    split
    · exact h
    split
    · exact h.xlateAcc ..
    · split <;> exact h
  | _ => dsimp only; split <;> exact h

theorem State.Within.resolveAll (h : s0.Within P s) (t : Team) (sp : Space) (base : SReg) (o : AccOpt) (ls : List (Nat × Dw)) :
    s0.Within P (s.resolveAll t sp base o ls).1 := by
  induction ls generalizing s with
  | nil => exact h
  | cons q r ih =>
    obtain ⟨l, va⟩ := q
    unfold State.resolveAll
    have hq := h.resolve t sp base o l va
    split
    next e1 => exact hq.of_fst e1
    next s1 ps e1 =>
      have h1 := hq.of_fst e1
      split
      · exact h1
      · split
        next e2 => exact (ih h1).of_fst e2
        next e2 => exact (ih h1).of_fst e2

/-! ### Loads and stores whose addresses resolve -/

section
variable {s s1 : State} {t : Team}

/-- What an instruction did once its addresses were resolved, it did. -/
theorem State.LookedUp.begun {s s1 s' : State} (hs : s.LookedUp s1) {us : List Unit1} {load wr : Bool} {ds : List Dest}
    (h : Begun s1 s' t load ds ∧ SameBytes s1 s' us wr) : Begun s s' t load ds ∧ SameBytes s s' us wr := by
  obtain ⟨_, _, _, rfl⟩ := hs
  exact h

theorem State.TraceOk.of_resolveAll (h : s.TraceOk) {sp : Space} {base : SReg} {o : AccOpt} {ls : List (Nat × Dw)}
    {us : List Unit1} (hus : s.resolveAll t sp base o ls = (s1, .inr us)) : s1.TraceOk ∧ s.LookedUp s1 :=
  ⟨(((State.Within.refl (fun _ => True) h).resolveAll t sp base o ls).of_fst hus).ok, (s.resolveAll_lookedUp ..).of_eq hus⟩

/-- A vector load issues (R302, R303). -/
theorem State.TraceOk.loadVec (h : s.TraceOk) (ht : s.team t.key = some t) {sc : Option (BitVec 3)} {z : BitVec 3} {a : VAddr}
    {m : Option Msk} {us : List Unit1} (y : Bool) (d : VReg)
    (hlanes : t.lanesOf (t.active m) ≠ []) (hfull : t.countFull true = false) (hfirst : s.earlier t.key false us = [])
    (hslots : ∀ ls : List Nat, ls.Sublist (reqLines us) → (s.askSlots (s.groupOf t).core ls).isSome = true)
    (hus : s.resolveAll t a.sp a.base (ldOpt z sc) ((t.ldWho z a m).map (fun l => (l, t.vAddr a l))) = (s1, .inr us)) :
    Begun s (s.loadVec t y sc z d a m).tick t true (ldDests z d) ∧ SameBytes s (s.loadVec t y sc z d a m).tick us false := by
  obtain ⟨hok, hs⟩ := h.of_resolveAll hus
  unfold State.loadVec
  simp only [if_neg hlanes, hus]
  refine hs.begun ?_
  obtain ⟨_, _, _, rfl⟩ := hs
  exact hok.startLoad ht a.sp _ hfirst hfull hslots

/-- A load of a scalar register issues (R309). -/
theorem State.TraceOk.loadSca (h : s.TraceOk) (ht : s.team t.key = some t) {sc : Option (BitVec 3)} {z : BitVec 3} {a : SAddr}
    {us : List Unit1} (d : SReg) (hfull : t.countFull true = false) (hfirst : s.earlier t.key false us = [])
    (hslots : ∀ ls : List Nat, ls.Sublist (reqLines us) → (s.askSlots (s.groupOf t).core ls).isSome = true)
    (hus : s.resolveAll t a.sp a.base (ldsOpt z sc) [(0, t.sAddr a (ldSizeS z))] = (s1, .inr us)) :
    Begun s (s.loadSca t sc z d a).tick t true [.s d] ∧ SameBytes s (s.loadSca t sc z d a).tick us false := by
  obtain ⟨hok, hs⟩ := h.of_resolveAll hus
  unfold State.loadSca
  simp only [hus]
  refine hs.begun ?_
  obtain ⟨_, _, _, rfl⟩ := hs
  exact hok.startLoad ht a.sp _ hfirst hfull hslots

/-- A vector store issues (R303, R304). -/
theorem State.TraceOk.storeVec (h : s.TraceOk) (ht : s.team t.key = some t) {sc : Option (BitVec 3)} {z : BitVec 3} {a : VAddr}
    {m : Option Msk} {us : List Unit1} (d : VReg) (hlanes : t.lanesOf (t.active m) ≠ []) (hfull : t.countFull false = false)
    (hslots : (s.askSlots (s.groupOf t).core (reqLines us)).isSome = true)
    (hready : s.settled t.key = true ∨ sc = none ∧ s.earlier t.key false us = [])
    (hus : s.resolveAll t a.sp a.base (stOpt z sc) ((t.stWho z m).map (fun l => (l, t.vAddr a l))) = (s1, .inr us)) :
    Begun s (s.storeVec t sc z a d m).tick t false [] ∧ SameBytes s (s.storeVec t sc z a d m).tick us true := by
  obtain ⟨hok, hs⟩ := h.of_resolveAll hus
  unfold State.storeVec
  simp only [if_neg hlanes, hus]
  refine hs.begun ?_
  obtain ⟨_, _, _, rfl⟩ := hs
  exact hok.startStore ht a.sp _ hready hfull hslots

/-- A store of a scalar register issues (R309). -/
theorem State.TraceOk.storeSca (h : s.TraceOk) (ht : s.team t.key = some t) {sc : Option (BitVec 3)} {z : BitVec 3} {a : SAddr}
    {us : List Unit1} (d : SReg) (hfull : t.countFull false = false)
    (hslots : (s.askSlots (s.groupOf t).core (reqLines us)).isSome = true)
    (hready : s.settled t.key = true ∨ sc = none ∧ s.earlier t.key false us = [])
    (hus : s.resolveAll t a.sp a.base (stsOpt z sc) [(0, t.sAddr a (stSize z))] = (s1, .inr us)) :
    Begun s (s.storeSca t sc z a d).tick t false [] ∧ SameBytes s (s.storeSca t sc z a d).tick us true := by
  obtain ⟨hok, hs⟩ := h.of_resolveAll hus
  unfold State.storeSca
  simp only [hus]
  refine hs.begun ?_
  obtain ⟨_, _, _, rfl⟩ := hs
  exact hok.startStore ht a.sp _ hready hfull hslots

end

end Sys2Proof.Machine
end

section
/-! Atomics and prefetches issue, in a machine that traces in bounds (O37, O38). -/

set_option Elab.async false

namespace Sys2Proof.Machine

variable {P : Nat → Prop} {s0 s s' : State}

/-! ### Where the bytes of an atomic lie (R315, R452) -/

theorem entryPa_lt (e : Dw) : entryPa e < 2 ^ 52 := by
  have hfld : fld e 35 0 < 2 ^ 36 := Nat.mod_lt _ (by decide)
  unfold entryPa
  omega

theorem lvlShift_le (l : Nat) : lvlShift l ≤ 42 := by
  unfold lvlShift
  split <;> decide

/-- A check that answers was passed. -/
theorem eq_of_ite_inl {α β : Type} {c : Prop} [Decidable c] {a : α} {b : β} {x : α ⊕ β}
    (h : (if c then .inl a else x) = .inr b) : x = .inr b := by
  by_cases hc : c
  · rw [if_pos hc] at h; exact nomatch h
  · rwa [if_neg hc] at h

/-- A page of a translated access lies in space G. -/
theorem State.leafCheck_base {s : State} {c va l : Nat} {k : AccK} {o : XOpt} {e : Dw} {p : Page}
    (h : s.leafCheck c va k o l e = .inr p) : p.base < 2 ^ 53 := by
  have hlvl : 2 ^ lvlShift l ≤ 2 ^ 42 := Nat.pow_le_pow_right (by decide) (lvlShift_le l)
  have hpage : entryPa e / 2 ^ lvlShift l * 2 ^ lvlShift l ≤ entryPa e := Nat.div_mul_le_self _ _
  have hoff : va % 2 ^ lvlShift l < 2 ^ lvlShift l := Nat.mod_lt _ (Nat.two_pow_pos _)
  have hbase : entryPa e / 2 ^ lvlShift l * 2 ^ lvlShift l + va % 2 ^ lvlShift l / 65536 * 65536 < 2 ^ 53 := by
    have := entryPa_lt e
    omega
  unfold State.leafCheck at h
  extract_lets ap peer loc ord kid prot m at h
  iterate 10 replace h := eq_of_ite_inl h
  rw [← Sum.inr.inj h]
  exact hbase

theorem State.xlate_base {s : State} {core c va : Nat} {k : AccK} {o : XOpt} {p : Page}
    (h : (s.xlate core c va k o).2 = .inr p) : p.base < 2 ^ 53 := by
  unfold State.xlate at h
  split at h
  next s1 w hw =>
  extract_lets w0 at h
  split at h
  next s2 hit htlb =>
  split at h
  · split at h
    · exact nomatch h
    · split at h
      next q _ hleaf =>
        have hq := State.leafCheck_base hleaf
        obtain rfl := Sum.inr.inj h
        exact hq
      next => exact State.leafCheck_base h
  · exact nomatch h
  · exact nomatch h
  · split at h
    · exact nomatch h
    next q _ hleaf =>
        have hq := State.leafCheck_base hleaf
        obtain rfl := Sum.inr.inj h
        exact hq

theorem piecesOf_addr {ps : List Page} (h : ∀ p ∈ ps, p.base < 2 ^ 53) (va n : Nat) {q : Piece} (hq : q ∈ piecesOf ps va n) :
    inG q.addr = true := by
  obtain ⟨x, hx, rfl⟩ := List.mem_map.mp hq
  have hbase := h x.2 ((by
    obtain ⟨y, hy, rfl⟩ := List.mem_map.mp hx
    exact List.fst_mem_of_mem_zipIdx hy))
  simp only [inG, decide_eq_true_eq]
  omega

theorem State.xlateAcc_addr {s : State} {t : Team} {o : AccOpt} {window : Bool} {va : Nat} {ps : List Piece}
    (h : (s.xlateAcc t o window va).2 = .inr ps) {q : Piece} (hq : q ∈ ps) : inG q.addr = true := by
  unfold State.xlateAcc at h
  extract_lets g at h
  split at h
  · exact nomatch h
  split at h
  next s1 r e1 =>
  split at h
  next s2 r' e2 =>
  have hr : ∀ {p}, r = .inr p → p.base < 2 ^ 53 := fun {p} hp => State.xlate_base ((congrArg Prod.snd e1).trans hp)
  have hr' : ∀ {p}, r' = some (.inr p) → p.base < 2 ^ 53 := fun {p} hp => by
    split at e2
    · obtain rfl := congrArg Prod.snd e2; exact nomatch hp
    · split at e2
      next e3 =>
        obtain rfl := congrArg Prod.snd e2
        exact State.xlate_base ((congrArg Prod.snd e3).trans (Option.some.inj hp))
  split at h
  next hp hp' =>
    rw [← Sum.inr.inj h] at hq
    exact piecesOf_addr (fun p h => List.mem_singleton.mp h ▸ hr rfl) va _ hq
  next =>
    rw [← Sum.inr.inj h] at hq
    exact piecesOf_addr (List.forall_mem_cons.mpr ⟨hr rfl, List.forall_mem_singleton.mpr (hr' rfl)⟩) va _ hq
  all_goals exact nomatch h

/-- Outside space G an access is one piece of its size. -/
theorem State.resolve_addr {s : State} {t : Team} {sp : Space} {base : SReg} {o : AccOpt} {l : Nat} {va : Dw} {ps : List Piece}
    (h : (s.resolve t sp base o l va).2 = .inr ps) {q : Piece} (hq : q ∈ ps) : inG q.addr = true ∨ q.n = o.size := by
  unfold State.resolve at h
  extract_lets g x off at h
  split at h
  · exact nomatch h
  have hlocal : ∀ {a}, ps = [localPiece a o.size] → inG q.addr = true ∨ q.n = o.size := fun {a} h => by
    rw [h, List.mem_singleton] at hq
    exact .inr (congrArg Piece.n hq)
  cases sp with
  | G => exact .inl (State.xlateAcc_addr h hq)
  | L =>
    dsimp only at h
    split at h
    · exact nomatch h
    split at h
    · exact .inl (State.xlateAcc_addr h hq)
    · split at h
      · exact hlocal (Sum.inr.inj h).symm
      · exact nomatch h
  | _ =>
    dsimp only at h
    split at h
    · exact hlocal (Sum.inr.inj h).symm
    · exact nomatch h

theorem State.resolveAll_addr {s : State} {t : Team} {sp : Space} {base : SReg} {o : AccOpt} {ls : List (Nat × Dw)}
    {us : List Unit1} (h : (s.resolveAll t sp base o ls).2 = .inr us) {u : Unit1} (hu : u ∈ us) {q : Piece} (hq : q ∈ u.ps) :
    inG q.addr = true ∨ q.n = o.size := by
  induction ls generalizing s us with
  | nil => rw [← Sum.inr.inj h] at hu; exact absurd hu List.not_mem_nil
  | cons x r ih =>
    obtain ⟨l, va⟩ := x
    unfold State.resolveAll at h
    split at h
    · exact nomatch h
    next s1 ps hps =>
    split at h
    · exact nomatch h
    split at h
    · exact nomatch h
    next s2 vs hvs =>
    obtain rfl := Sum.inr.inj h
    obtain rfl | hu := List.mem_cons.mp hu
    · exact State.resolve_addr (congrArg Prod.snd hps) hq
    · exact ih (congrArg Prod.snd hvs) hu

/-! ### Atomics (R313, R315, R316) -/

theorem State.wakeWait_teamsWoken (s : State) (a n : Nat) : s.TeamsWoken (s.wakeWait a n) := by
  refine ⟨_, fun t => ?_, rfl⟩
  (repeat' split) <;> exact ⟨_, t.monitor, rfl⟩

/-- A read-modify-write at a home within P. -/
theorem State.Within.atomAt (h : s0.Within P s) {a : Nat} {ty : BitVec 3} (hP : ∀ b, a ≤ b → b < a + atomSize ty → P b)
    (op e c : Nat) : s0.Within P (s.atomAt a op ty e c).1 := by
  have hbytes : ∀ v b, a ≤ b → b < a + (leBytes (atomSize ty) v).length → P b := fun v b hlo hhi =>
    hP b hlo (by rwa [leBytes_length] at hhi)
  unfold State.atomAt
  dsimp only
  split
  · exact ⟨h.ok.congr h.ok.inv rfl rfl, h.mem, h.teams.trans (s.wakeWait_teamsWoken a _), h.acc⟩
  next v _ =>
    split
    · refine ⟨h.ok.congr (Mem.wf_writeN h.ok.inv _ _) rfl rfl, fun b hb hPb => ?_, h.teams, h.acc⟩
      refine (Mem.read_writeN_outside h.ok.inv _ _ _ ?_).trans (h.mem b hb hPb)
      by_contra hin
      exact hPb (hbytes v b (by omega) (by omega))
    · exact h.perform (hbytes v)

/-- The bytes of its atomics that are performed at their banks lie within P. -/
def atomsWithin (P : Nat → Prop) (ty : BitVec 3) (us : List Unit1) : Prop :=
  ∀ u ∈ us, ∀ p ∈ u.ps, p.ap = 0 → inG p.addr = false → ∀ b, p.addr ≤ b → b < p.addr + atomSize ty → P b

/-- A lane's atomic is performed, queued or sent, and its access stays that of its team. -/
theorem State.Within.atomLane (h : s0.Within P s) (t : Team) (p : AtomPlan) (id : Nat) {q : AtomLane}
    (hP : atomsWithin P p.ty [q.u]) (a : Access) :
    s0.Within P (s.atomLane t p id q a).1 ∧ (s.atomLane t p id q a).2.team = a.team ∧
      (s.atomLane t p id q a).2.load = a.load ∧ (s.atomLane t p id q a).2.dests = a.dests := by
  unfold State.atomLane
  split
  · exact ⟨h, rfl, rfl, rfl⟩
  next pc r hps =>
  dsimp only
  split
  · exact ⟨h.fresh, rfl, rfl, rfl⟩
  next hap =>
  split
  · exact ⟨h.of_eq rfl rfl rfl rfl rfl, rfl, rfl, rfl⟩
  next hG =>
  split
  · exact ⟨h, rfl, rfl, rfl⟩
  · exact ⟨h.atomAt (hP q.u (List.mem_singleton_self _) pc (hps ▸ List.mem_cons_self) (not_not.mp hap)
      (Bool.eq_false_of_not_eq_true hG)) _ _ _, rfl, rfl, rfl⟩

theorem State.Within.atomLanes (h : s0.Within P s) (t : Team) (p : AtomPlan) (id : Nat) {ls : List AtomLane}
    (hP : atomsWithin P p.ty (ls.map (·.u))) (a : Access) :
    let r := ls.foldl (fun (r : State × Access) q => r.1.atomLane t p id q r.2) (s, a)
    s0.Within P r.1 ∧ r.2.team = a.team ∧ r.2.load = a.load ∧ r.2.dests = a.dests := by
  refine List.foldlRecOn (motive := fun r : State × Access => s0.Within P r.1 ∧ r.2.team = a.team ∧ r.2.load = a.load ∧
    r.2.dests = a.dests) ls _ ⟨h, rfl, rfl, rfl⟩ fun r hr q hq => ?_
  obtain ⟨h, hteam, hload, hdests⟩ := hr
  obtain ⟨h', hteam', hload', hdests'⟩ := h.atomLane t p id (q := q)
    (fun u hu => List.mem_singleton.mp hu ▸ hP q.u (List.mem_map_of_mem hq)) r.2
  exact ⟨h', hteam'.trans hteam, hload'.trans hload, hdests'.trans hdests⟩

/-- An atomic that is not buffered issues: it has begun, and has changed no byte but those of its locations, leaf entries and
trace stores. -/
theorem State.TraceOk.startAtomic {s : State} (h : s.TraceOk) {t : Team} (ht : s.team t.key = some t) {p : AtomPlan}
    {ls : List AtomLane} {us : List Unit1} (hus : ls.map (·.u) = us)
    (hrel : p.ann.toNat < 2 ∨ s.settled t.key = true) (hfirst : s.earlier t.key true us = []) (hfull : t.countFull p.ret = false)
    (hplain : p.buffers (s.ctx (s.groupOf t).ctx) = false) (hslots : (s.askSlots (s.groupOf t).core (reqLines us)).isSome = true)
    (hP : atomsWithin (accessByte us) p.ty us) :
    Begun s (s.startAtomic t p ls).tick t p.ret p.dests ∧ SameBytes s (s.startAtomic t p ls).tick us true := by
  subst hus
  have hnow : (decide (p.ann.toNat ≥ 2) && !s.settled t.key) = false := by
    obtain hann | hset := hrel
    · rw [decide_eq_false (Nat.not_le.mpr hann)]; rfl
    · rw [hset, Bool.not_true, Bool.and_false]
  obtain ⟨⟨reqs, nb, ns⟩, hask⟩ := Option.isSome_iff_exists.mp hslots
  unfold State.startAtomic
  simp only [hnow, hfirst, hfull, hplain, hask, Bool.false_eq_true, if_false, ne_eq, not_true_eq_false]
  have hmarked := ((State.Within.refl (accessByte (ls.map (·.u))) h).effect t).markAll (us := ls.map (·.u)) (fun _ => .inl) true
  have hused := ((hmarked.usePf (s.groupOf t).ctx (homeLines (ls.map (·.u)))).modCtx (s.groupOf t).ctx
    (fun c => (c.count 7 nb).count 8 ns)).dropL1 (s.groupOf t).core (ls.map (·.u))
  generalize State.dropL1 _ _ _ = s1 at hused ⊢
  have hnumbered := hused.fresh
  generalize State.fresh _ = r at hnumbered ⊢
  obtain ⟨s2, id⟩ := r
  dsimp only at hnumbered ⊢
  have hdone := hnumbered.atomLanes t p id hP
  generalize hr : List.foldl (fun (r : State × Access) q => r.1.atomLane t p id q r.2) (s2, _) ls = r
  have hlanes := hr ▸ hdone _
  obtain ⟨s3, a⟩ := r
  obtain ⟨hlanes, hteam, hload, hdests⟩ := hlanes
  dsimp only at hlanes hteam hload hdests ⊢
  have hlisted := fun w =>
    ((hlanes.listed { a with await := w }).recordEach t p.sp p.scope (ls.map (·.u))).invL1If a.acq (s.groupOf t).core
  generalize hs4 : (if a.acq = true then _ else _) = s4
  replace hlisted := hs4 ▸ hlisted _
  obtain ⟨st, m, hwoken⟩ := hlanes.teams.team ht
  obtain ⟨st', m', hteam'⟩ := hlisted.teams.team (t := { t with st := st, monitor := m }) hwoken
  simp only [hteam', Option.getD_some]
  refine And.imp_right ?bytes (State.Within.begun rfl hlanes hlisted ht ⟨hteam, hload, hdests, ?key, ?regs, ?cnt⟩)
  case bytes => exact fun hmem b hb hleaf hpiece => hmem b hb fun hP => hP.elim hleaf (hpiece rfl)
  case key => unfold Team.countIn; split <;> rfl
  case regs => unfold Team.countIn; split <;> rfl
  case cnt => unfold Team.countIn; split <;> rfl

/-- Where the addresses of an atomic resolve, what is performed at a bank lies in its pieces. -/
theorem atomsWithin_of_resolveAll {s s1 : State} {t : Team} {sp : Space} {base : SReg} {op : Nat} {x : Atom}
    {ls : List (Nat × Dw)} {us : List Unit1} (hus : s.resolveAll t sp base (atomOpt op x) ls = (s1, .inr us)) :
    atomsWithin (accessByte us) x.ty us := by
  intro u hu p hp hap hG b hlo hhi
  obtain hin | hn := State.resolveAll_addr (congrArg Prod.snd hus) hu hp
  · rw [hG] at hin; exact nomatch hin
  · exact .inr ⟨u, hu, p, hp, hap, hlo, hn.symm ▸ hhi⟩

/-- An atomic that is not buffered issues (R315). -/
theorem State.TraceOk.atomic {s s1 : State} (h : s.TraceOk) {t : Team} (ht : s.team t.key = some t) {op : Nat} {x : Atom}
    {us : List Unit1} (hwho : t.atomWho x ≠ [])
    (hus : s.resolveAll t (atomSp x) (atomBase x) (atomOpt op x) (t.atomWho x) = (s1, .inr us))
    (hrel : x.ann.toNat < 2 ∨ s.settled t.key = true) (hfull : t.countFull x.ret = false) (hfirst : s.earlier t.key true us = [])
    (hplain : (s.ctx (s.ctxOf t)).detm = false ∨ (atomFmt x.ty).isSome = false ∨ 2 ≤ op)
    (hslots : (s.askSlots (s.groupOf t).core (reqLines us)).isSome = true) :
    Begun s (s.atomic t op x).tick t x.ret (atomDests x) ∧ SameBytes s (s.atomic t op x).tick us true := by
  obtain ⟨hok, hs⟩ := h.of_resolveAll hus
  have hP := atomsWithin_of_resolveAll hus
  have hbuffers : ((s.ctx (s.ctxOf t)).detm && (atomFmt x.ty).isSome && (op == 0 || op == 1)) = false := by
    obtain hd | hf | hop := hplain
    · rw [hd]; rfl
    · rw [hf, Bool.and_false]; rfl
    · rw [beq_false_of_ne (by omega), beq_false_of_ne (by omega)]; simp
  have hbad : s.detBad t op x = false := by rw [State.detBad, hbuffers]; rfl
  have hstart : ∀ (p : AtomPlan) (f : Unit1 → AtomLane), p.ty = x.ty → p.ann = x.ann → p.ret = x.ret → p.op = op →
      p.dests = atomDests x → (∀ u, (f u).u = u) →
      Begun s1 (s1.startAtomic t p (us.map f)).tick t x.ret (atomDests x) ∧
        SameBytes s1 (s1.startAtomic t p (us.map f)).tick us true := by
    intro p f hty hann hret hop hdests hf
    rw [← hret, ← hdests]
    obtain ⟨_, _, _, rfl⟩ := hs
    refine hok.startAtomic ht ?_ (hann ▸ hrel) hfirst (hret ▸ hfull) ?_ hslots (hty ▸ hP)
    · rw [List.map_map, show (AtomLane.u ∘ f) = id from funext hf, List.map_id]
    · rw [AtomPlan.buffers, hty, hop]; exact hbuffers
  refine hs.begun ?_
  unfold State.atomic
  unfold atomSp atomBase at hus
  cases ho : x.o with
  | vec d a e =>
    have hlanes : t.lanesOf (t.active x.m) ≠ [] := fun hl => hwho (by simp only [Team.atomWho, ho, hl, List.map_nil])
    simp only [ho] at hus
    simp only [if_neg hlanes, hbad, hus]
    exact hstart _ _ rfl rfl rfl rfl rfl fun _ => rfl
  | sca d a e =>
    simp only [ho] at hus
    simp only [hbad, hus]
    exact hstart _ _ rfl rfl rfl rfl rfl fun _ => rfl

/-! ### Prefetches (R117, R305) -/

/-- Prefetches so far: tracing stays in bounds, and memory, teams and accesses stand. -/
def State.Prefetched (s0 s : State) : Prop := s0.Within (fun _ => False) s ∧ s.teams = s0.teams ∧ s.acc = s0.acc

theorem State.Prefetched.of_eq (h : s0.Prefetched s) (hmem : s'.mem = s.mem) (htrc : s'.trc = s.trc) (hcores : s'.cores = s.cores)
    (hteams : s'.teams = s.teams) (hacc : s'.acc = s.acc) : s0.Prefetched s' :=
  ⟨h.1.of_eq hmem htrc hcores hteams (congrArg _ hacc), hteams.trans h.2.1, hacc.trans h.2.2⟩

theorem State.Prefetched.specRead (h : s0.Prefetched s) (core c va n : Nat) : s0.Prefetched (s.specRead core c va n).1 := by
  unfold State.specRead
  split
  · exact h
  refine List.foldlRecOn (motive := fun r : State × (DropCause ⊕ List Page) => s0.Prefetched r.1) _ _ h fun r h i _ => ?_
  dsimp only
  split
  · exact h
  have hwalk : ∀ {a s' x}, r.1.walk c (dieOf core) a false = (s', x) → s0.Prefetched s' := fun {a s' x} e => by
    rw [show s' = (r.1.walk c (dieOf core) a false).1 by rw [e]]
    exact ⟨h.1.walk .., by rw [← h.2.1]; simp, by rw [← h.2.2]; simp⟩
  split
  next e =>
    have h1 := hwalk e
    (repeat' split) <;> exact h1
  next e => exact hwalk e
  next e => exact hwalk e

theorem State.Prefetched.pfTarget (h : s0.Prefetched s) (core c va : Nat) : s0.Prefetched (s.pfTarget core c va).1 := by
  have hread := h.specRead core c va 1
  unfold State.pfTarget
  generalize s.specRead core c va 1 = q at hread ⊢
  obtain ⟨s1, d | ps⟩ := q
  · exact hread.of_eq rfl rfl rfl rfl rfl
  · exact hread

theorem State.Prefetched.pfAsk (h : s0.Prefetched s) (core c : Nat) (intoL1 : Bool) (sent : List Packet) (p : Piece) :
    s0.Prefetched (s.pfAsk core c intoL1 sent p).1 := by
  unfold State.pfAsk
  dsimp only
  (repeat' split) <;> exact h.of_eq rfl rfl rfl rfl rfl

theorem State.Prefetched.queuePkts (h : s0.Prefetched s) (team : Option Nat) (ps : List Packet) :
    s0.Prefetched (s.queuePkts team ps) := by
  obtain ⟨_, _, _, heq⟩ := s.queuePkts_queued team ps
  rw [heq]
  exact h.of_eq rfl rfl rfl rfl rfl

/-- The lines that prefetches ask for, and their packets queued. -/
theorem State.pfVec_prefetched {s : State} (h : s.TraceOk) (t : Team) {a : VAddr} (ha : a.sp = .G) (m : Option Msk) (spec : Bool) :
    ∃ s1, s.Prefetched s1 ∧ s.pfVec t a m spec = s1.retireFabric t := by
  unfold State.pfVec
  dsimp only
  rw [if_neg (not_not.mpr ha)]
  refine ⟨_, ?_, rfl⟩
  refine State.Prefetched.queuePkts ?_ _ _
  refine List.foldlRecOn (motive := fun r : State × List Packet => s.Prefetched r.1) _ _ ?_ fun r h p _ => h.pfAsk ..
  exact List.foldlRecOn (motive := fun r : State × List Piece => s.Prefetched r.1) _ _ ⟨.refl _ h, rfl, rfl⟩
    fun r h l _ => h.pfTarget ..

/-- A prefetch on space G retires, or waits for the packets of its team, with memory, teams and accesses as before (R305, R311). -/
theorem State.TraceOk.pfVec {s : State} (h : s.TraceOk) (t : Team) {a : VAddr} (ha : a.sp = .G) (m : Option Msk) (spec : Bool) :
    ∃ s1, (s.pfVec t a m spec = s1.retire t ∨
        ∃ p, s.pfVec t a m spec = s1.retireWait t (.fabric p) ∧ ∃ b ∈ s1.batches, b.team = some t.key) ∧
      SameMem s s1 ∧ s1.teams = s.teams ∧ s1.acc = s.acc := by
  obtain ⟨s1, ⟨hwithin, hteams, hacc⟩, hpf⟩ := State.pfVec_prefetched h t ha m spec
  have hsame : SameMem s s1 := fun b hb => hwithin.mem b hb not_false
  rw [hpf, State.retireFabric]
  cases hfind : s1.batches.find? (fun b => b.team == some t.key) with
  | none => exact ⟨s1, .inl rfl, hsame, hteams, hacc⟩
  | some b =>
    refine ⟨s1.traceTeam t 8 (b.peer * 2 ^ 31), .inr ⟨b.peer, rfl, b, ?_, ?_⟩, ?_, ?_, ?_⟩
    · simpa using List.mem_of_find?_eq_some hfind
    · simpa using List.find?_some hfind
    · exact hsame.trans (hwithin.ok.traceTeam t 8 _).1
    · simpa using hteams
    · simpa using hacc

end Sys2Proof.Machine
end

section
/-! Memory instructions in two machines (O33 to O38). In one, tracing overwrites more than its store: whatever such an instruction
does itself, a team that still has packets waiting goes into fabric-wait behind it, and that is recorded (R311, R500). In the
other, nothing is amiss, and a lane dies while its load is under way. -/

set_option Elab.async false

namespace Sys2Proof.Machine

/-! ### The machines -/

/-- A group with a scratchpad of 4 KiB. -/
def padGroup : Group := { State.reset.groupAt 0 with cSize := 4096 }

/-- A machine where the team of `issuingTeam` issues and may use that scratchpad. -/
def padMachine : State := { State.reset with teams := [issuingTeam], groups := [padGroup], cur := some 0 }

/-- A module that admits no packet (R513). -/
def shutPeer : Peer := { Peer.init 1 with cap := 0 }

/-- A packet of that team that waits for such a module. -/
def heldBatch : Batch := { id := 0, peer := 1, team := some 0, pkts := [State.reset.mkPkt 0 1 0 0 0 false] }

/-- `overrun` with the same team and scratchpad, and a packet of the team waiting. -/
def overrunWait : State :=
  { overrun .running with
    teams := [issuingTeam], groups := [padGroup], cur := some 0, peers := [shutPeer], batches := [heldBatch] }

theorem padMachine_ready (ds : List Dest) : Ready padMachine issuingTeam 2 ds :=
  ⟨rfl, rfl, rfl, rfl, fun _ ha => nomatch ha⟩

theorem overrunWait_ready (ds : List Dest) : Ready overrunWait issuingTeam 2 ds :=
  ⟨rfl, rfl, rfl, rfl, fun _ ha => nomatch ha⟩

theorem issuingTeam_has : issuingTeam.has [0, 0] := fun r hr => by
  obtain rfl : r = 0 := by simpa using hr
  decide

/-- Every lane of the team is active. -/
theorem issuingTeam_lanes : issuingTeam.lanesOf (issuingTeam.active none) = List.range 32 :=
  List.filter_eq_self.mpr fun l hl => by
    have hl32 := List.mem_range.mp hl
    rw [show issuingTeam.active none = widthMask 32 from rfl, getLsbD_widthMask 32 (hl32.trans (by decide))]
    exact decide_eq_true hl32

theorem issuingTeam_lanes_ne : issuingTeam.lanesOf (issuingTeam.active none) ≠ [] := by
  rw [issuingTeam_lanes]
  decide

/-! ### The start of the scratchpad -/

/-- The start of the scratchpad, in every lane. -/
def padAddr : VAddr := { sp := .C, base := 0, x := 0, disp := none }

/-- The start of the scratchpad. -/
def padAddrS : SAddr := { sp := .C, base := 0, x := .reg 0, disp := none }

/-- An access of lane 0 to some bytes at the start of the scratchpad. -/
def padUnit (n : Nat) : Unit1 := { lane := 0, va := 0, ps := [localPiece (homeC 0 0) n] }

/-- An addition of zero to the word at the start of the scratchpad. -/
def padAtom : Atom := { o := .sca 0 padAddrS 0, ty := 0, ann := 0, scope := 3, ret := false, m := none }

theorem State.resolveAll_pad {s : State} {t : Team} (hg : s.groupOf t = padGroup) (hscopes : s.scopes = []) (base : SReg)
    {o : AccOpt} (hbad : o.badSize = false) (hn : o.size ≤ 4096) :
    s.resolveAll t .C base o [(0, 0)] = (s, .inr [padUnit o.size]) := by
  have hres : s.resolve t .C base o 0 0 = (s, .inr [localPiece (homeC 0 0) o.size]) := by
    simp [State.resolve, hbad, hg, padGroup, hn, show (State.reset.groupAt 0).slot = 0 from rfl]
  have hscope : o.sync.bind (fun sc => s.scopeFault t .C sc 0 [localPiece (homeC 0 0) o.size]) = none := by
    cases o.sync <;> simp [State.scopeFault, hscopes]
  simp only [State.resolveAll, hres, hscope, padUnit]

/-- All lanes of a load have one address there, and lane 0 makes the access (R301). -/
theorem issuingTeam_ldWho :
    (issuingTeam.ldWho 4 padAddr none).map (fun l => (l, issuingTeam.vAddr padAddr l)) = [(0, 0)] := by
  simp only [Team.ldWho, issuingTeam_lanes]
  decide

/-- Lane 0 makes the access of a line (R303). -/
theorem issuingTeam_stWho : (issuingTeam.stWho 4 none).map (fun l => (l, issuingTeam.vAddr padAddr l)) = [(0, 0)] := by
  simp only [Team.stWho, issuingTeam_lanes]
  decide

/-- The scratchpad takes no line requests. -/
theorem reqLines_padUnit (n : Nat) : reqLines [padUnit n] = [] := by simp [reqLines, padUnit, localPiece, homeC]

theorem askSlots_padUnit {s : State} {core : Nat} (h : (s.askSlots core []).isSome = true) {n : Nat} (ls : List Nat)
    (hls : ls.Sublist (reqLines [padUnit n])) : (s.askSlots core ls).isSome = true := by
  rw [reqLines_padUnit, List.sublist_nil] at hls
  exact hls ▸ h

/-! ### A lane that dies while its load is under way (R62, R79) -/

/-- The team of `padMachine` once its lane 0 has died, with 1 in each lane of v0. -/
def lostLaneTeam : Team :=
  { issuingTeam with regs := { issuingTeam.regs with dead := 1, v := issuingTeam.regs.v.set 0 (.u 1) } }

/-- What lane 0 of v0 holds of that team once the newest access of a step has completed. -/
def deliveredTo (o : Out) : Option Wd :=
  match o with
  | .next s => s.acc.getLast?.map (fun x => ((lostLaneTeam.finish x).v 0).lane 0)
  | _ => none

/-- The dead lane receives the loaded word, 0: every other lane is loaded, and so the register is written whole. -/
theorem padMachine_ld : deliveredTo (exec (.ld false 4 0 padAddr none) padMachine) = some 0 := by decide +kernel

theorem lostLaneTeam_fits (r : VReg) : (lostLaneTeam.v r).fits lostLaneTeam.width := by
  have hu : ∀ v ∈ VVal.u 0 :: lostLaneTeam.regs.v, v.fits lostLaneTeam.width := by
    obtain ⟨n, hn⟩ : ∃ n, issuingTeam.regs.v = List.replicate n (.u 0) := ⟨_, rfl⟩
    refine List.forall_mem_cons.mpr ⟨trivial, fun v hv => ?_⟩
    obtain hold | rfl := List.mem_or_eq_of_mem_set hv
    · rw [hn] at hold
      rw [List.eq_of_mem_replicate hold]
      trivial
    · trivial
  refine hu _ ?_
  unfold Team.v
  rw [List.getD_eq_getElem?_getD]
  cases h : lostLaneTeam.regs.v[r.toNat]? with
  | none => exact List.mem_cons_self
  | some v => exact List.mem_cons_of_mem _ (List.mem_of_getElem? h)

/-- Refutes O33: a lane that dies while its load is under way need not keep its value. In `padMachine` a load brings the word 0 to
every lane of v0, lane 0 dies before it completes, and all other lanes are loaded; the register is then written whole (R79), and the
dead lane holds 0 where it held 1. That the load issues, and the bytes it leaves, hold in a machine that traces in bounds:
`State.TraceOk.loadVec`. -/
theorem not_vectorLoads : ¬ Obligations.VectorLoads := by
  intro h
  obtain ⟨-, hload, -⟩ := h padMachine padMachine issuingTeam false 4 3 0 padAddr none [padUnit 4] rfl
    (by decide) (fun hz => absurd hz (by decide)) rfl issuingTeam_has (padMachine_ready _)
  obtain ⟨hld, -⟩ := hload issuingTeam_lanes_ne rfl rfl (askSlots_padUnit (by decide))
  obtain ⟨s', hexec, -, -, hdelivers⟩ := hld (issuingTeam_ldWho ▸ State.resolveAll_pad rfl rfl _ rfl (by decide))
  obtain ⟨x, hx, hput⟩ := hdelivers (by decide) rfl
  have hleft := padMachine_ld
  rw [hexec, deliveredTo, hx, Option.map_some, Option.some_inj] at hleft
  have hkept := hput lostLaneTeam 0 rfl (by decide) (by decide) (fun r hr => by
    rw [List.mem_singleton.mp hr]; decide) lostLaneTeam_fits
  dsimp only at hkept
  rw [if_neg (by decide), hleft, if_pos (show lostLaneTeam.regs.dead.getLsbD 0 = true by simp [lostLaneTeam])] at hkept
  exact absurd hkept (by decide)

/-! ### The trace record behind an instruction -/

/-- The byte that tracing overwrites lies outside an access to the start of the scratchpad. -/
theorem overrunAt_outside {n : Nat} (hn : n ≤ 128) : ¬ leafByte [padUnit n] overrunAt ∧ ¬ pieceByte [padUnit n] overrunAt := by
  have hfar : homeC 0 0 + 128 ≤ overrunAt := by decide
  constructor
  · rintro ⟨u, hu, p, hp, a, ha, -⟩
    obtain rfl := List.mem_singleton.mp hu
    obtain rfl := List.mem_singleton.mp hp
    exact nomatch ha
  · rintro ⟨u, hu, p, hp, -, -, hlt⟩
    obtain rfl := List.mem_singleton.mp hu
    obtain rfl := List.mem_singleton.mp hp
    exact absurd (lt_of_lt_of_le hlt (Nat.add_le_add_left hn _)) (Nat.not_lt.mpr hfar)

/-- Instructions that a team may issue with packets still waiting: a load, two stores and an atomic at the start of the scratchpad,
and a prefetch from space G, where no page is mapped. -/
def padInstrs : List Instr :=
  [.ldScalar 4 0 padAddrS, .st false 4 padAddr 0 none, .stScalar 2 padAddrS 0, .atomAdd padAtom, .pf { padAddr with sp := .G } none]

/-- The trace record behind each leaves its 1 in that byte. -/
theorem overrunWait_left : ∀ i ∈ padInstrs, leftByte overrunAt (exec i overrunWait) = some 1 := by decide +kernel

/-- So each changes more than such an access. -/
theorem overrunWait_changes {i : Instr} (hi : i ∈ padInstrs) {s' : State} (hexec : exec i overrunWait = .next s') {n : Nat}
    (hn : n ≤ 128) (wr : Bool) : ¬ SameBytes overrunWait s' [padUnit n] wr := by
  intro hsame
  obtain ⟨hleaf, hpiece⟩ := overrunAt_outside hn
  have hleft := overrunWait_left i hi
  rw [hexec, leftByte_next, hsame overrunAt noTrace_overrunAt hleaf (fun _ => hpiece)] at hleft
  exact absurd hleft (by decide)

/-- Refutes O34: in `overrunWait` the trace record behind a load of a scalar register changes a byte outside the trace stores. What
fails are the bytes kept, for want of a premise that tracing stays in bounds: `State.TraceOk.loadSca` has them with it. -/
theorem not_scalarLoads : ¬ Obligations.ScalarLoads := by
  intro h
  obtain ⟨hld, -⟩ := h overrunWait overrunWait issuingTeam 4 3 0 padAddrS [padUnit 4] (overrun_inv .running) (by decide) rfl
    (overrunWait_ready _) rfl rfl (askSlots_padUnit (by decide))
  obtain ⟨s', hexec, -, hsame, -⟩ := hld (State.resolveAll_pad rfl rfl _ rfl (by decide))
  exact overrunWait_changes (by simp [padInstrs]) hexec (by decide) false hsame

/-- Refutes O35: as for O34, behind a store of a line. `State.TraceOk.storeVec` has the bytes kept with the premise. -/
theorem not_vectorStores : ¬ Obligations.VectorStores := by
  intro h
  obtain ⟨-, hstore⟩ := h overrunWait overrunWait issuingTeam false 4 3 0 padAddr none [padUnit 128] (overrun_inv .running)
    (by decide) rfl (fun hz => absurd hz (by decide)) rfl issuingTeam_has (overrunWait_ready _)
  obtain ⟨hst, -⟩ := hstore issuingTeam_lanes_ne rfl (askSlots_padUnit (by decide) _ (List.Sublist.refl _))
  obtain ⟨s', hexec, -, hsame, -⟩ := hst rfl (issuingTeam_stWho ▸ State.resolveAll_pad rfl rfl _ rfl (by decide))
  exact overrunWait_changes (by simp [padInstrs]) hexec (by decide) true hsame

/-- Refutes O36: as for O34, behind a store of a scalar register. `State.TraceOk.storeSca` has the bytes kept with the premise. -/
theorem not_scalarStores : ¬ Obligations.ScalarStores := by
  intro h
  obtain ⟨hst, -⟩ := h overrunWait overrunWait issuingTeam 2 3 0 padAddrS (padUnit 4) (localPiece (homeC 0 0) 4)
    (overrun_inv .running) (by decide) rfl (overrunWait_ready _) rfl (askSlots_padUnit (by decide) _ (List.Sublist.refl _)) rfl rfl
  obtain ⟨-, s', hexec, -, hsame, -⟩ := hst rfl (State.resolveAll_pad rfl rfl _ rfl (by decide))
  exact overrunWait_changes (by simp [padInstrs]) hexec (by decide) true hsame

/-- Refutes O37: as for O34, behind a prefetch. `State.TraceOk.pfVec` has the clause with the premise. -/
theorem not_prefetches : ¬ Obligations.Prefetches := by
  intro h
  obtain ⟨-, ⟨s1, hexec, hsame, -⟩, -⟩ := h overrunWait issuingTeam { padAddr with sp := .G } none rfl
    (fun r hr => issuingTeam_has r (List.mem_cons_of_mem 0 hr)) (overrunWait_ready _)
  have hleft := overrunWait_left (.pf { padAddr with sp := .G } none) (by simp [padInstrs])
  have hmem : leftByte overrunAt (exec (.pf { padAddr with sp := .G } none) overrunWait) = some (Mem.read s1.mem overrunAt) := by
    obtain hexec | ⟨p, hexec, -⟩ := hexec <;> rw [hexec, leftByte_next] <;> simp
  rw [hmem, hsame overrunAt noTrace_overrunAt] at hleft
  exact absurd hleft (by decide)

/-- Refutes O38: as for O34, behind an atomic. `State.TraceOk.atomic` has the bytes kept with the premise. -/
theorem not_atomics : ¬ Obligations.Atomics := by
  intro h
  obtain ⟨-, hatomic⟩ := h overrunWait overrunWait issuingTeam 0 padAtom [padUnit 4] (overrun_inv .running)
  obtain ⟨-, -, hissue⟩ := hatomic (by decide) (by decide) (fun _ hr => nomatch hr) (overrunWait_ready _)
  obtain ⟨hplain, -⟩ := hissue (by decide) (State.resolveAll_pad rfl rfl _ rfl (by decide)) (.inl (by decide)) rfl rfl
  obtain ⟨s', hexec, -, hsame, -⟩ := hplain (.inr (.inl (by decide))) (askSlots_padUnit (by decide) _ (List.Sublist.refl _))
  exact overrunWait_changes (i := .atomAdd padAtom) (by simp [padInstrs]) hexec (by decide) true hsame

end Sys2Proof.Machine
end
section
/-! Futures: FRD, FWR and FWR.CLR (O46). -/

set_option Elab.async false

namespace Sys2Proof.Machine

/-! ### The instructions (R55, R58, R372) -/

section
variable {s : State} {t : Team} {a b d : SReg}

/-- A future whose offset is at fault parks the team (R372). -/
theorem exec_fwr_fault (h : Ready s t 5 [.s a, .s b]) {f : FaultInfo} (hf : s.futFault t (t.s a) = some f) :
    exec (.fwr a b) s = .next (s.park t f).tick :=
  (issue_control (i := { sr := [a, b], eng := 5, stop := true }) h {} rfl _).trans (by simp only [hf])

theorem exec_fwrClr_fault (h : Ready s t 5 [.s a, .s d]) {f : FaultInfo} (hf : s.futFault t (t.s a) = some f) :
    exec (.fwrClr d a) s = .next (s.park t f).tick :=
  (issue_control (i := { sr := [a], sw := [d], eng := 5 }) h {} rfl _).trans (by simp only [hf])

theorem exec_frd_fault (h : Ready s t 5 [.s a, .s d]) {f : FaultInfo} (hf : s.futFault t (t.s a) = some f) :
    exec (.frd d a) s = .next (s.park t f).tick :=
  (issue_control (i := { sr := [a], sw := [d], eng := 5 }) h {} rfl _).trans (by simp only [hf])

/-- The machine with the value of a future performed in space H. -/
def State.futWritten (s : State) (t : Team) (off : Nat) (x : Dw) : State :=
  (s.effect t).perform (homeH off) (leBytes 8 x.toNat)

/-- The machine with a future FULL and its waiters told (R57). -/
def State.fulfilled (s : State) (off : Nat) : State :=
  { s with futFull := (off / 8) :: s.futFull }.fillWaiters off

/-- FWR to a future that the team may use (R372). -/
theorem exec_fwr (h : Ready s t 5 [.s a, .s b]) (hf : s.futFault t (t.s a) = none) : exec (.fwr a b) s =
    .next (if s.isFull (t.s a).toNat then s.park t (mkF .futureOrder .refill (t.s a).toNat 0)
      else if s.settled t.key then ((s.futWritten t (t.s a).toNat (t.s b)).fulfilled (t.s a).toNat).retire
        (((s.futWritten t (t.s a).toNat (t.s b)).team t.key).getD t)
      else s.deschedule t .sys).tick := by
  refine (issue_control (i := { sr := [a, b], eng := 5, stop := true }) h {} rfl _).trans ?_
  simp only [hf]
  cases s.settled t.key <;> rfl

/-- The machine with a future EMPTY again. -/
def State.futCleared (s : State) (t : Team) (off : Nat) : State :=
  { s.effect t with futFull := s.futFull.filter (fun i => i != off / 8) }

/-- FWR.CLR of a future that the team may use (R372). -/
theorem exec_fwrClr (h : Ready s t 5 [.s a, .s d]) (hf : s.futFault t (t.s a) = none) : exec (.fwrClr d a) s =
    .next (if s.isFull (t.s a).toNat then
        if s.poisoned (homeH (t.s a).toNat) 8 then s.loseTeam t .none
        else (s.futCleared t (t.s a).toNat).retire (t.setS d (s.rd64 (homeH (t.s a).toNat)))
      else s.park t (mkF .futureOrder .clearEmpty (t.s a).toNat 0)).tick := by
  refine (issue_control (i := { sr := [a], sw := [d], eng := 5 }) h {} rfl _).trans ?_
  simp only [hf]
  cases s.isFull (t.s a).toNat <;> rfl

/-- FRD by a team of a launch (R58). -/
theorem exec_frd_launch (h : Ready s t 5 [.s a, .s d]) (hf : s.futFault t (t.s a) = none) {n : Nat}
    (hn : (s.groupOf t).origin = .launch n) :
    exec (.frd d a) s = .next (s.park t (mkF .futureOrder .notATask (t.s a).toNat 0)).tick :=
  (issue_control (i := { sr := [a], sw := [d], eng := 5 }) h {} rfl _).trans (by simp only [hf, hn])

/-- FRD by a task, of a future that it may use (R55, R58). -/
theorem exec_frd_task (h : Ready s t 5 [.s a, .s d]) (hf : s.futFault t (t.s a) = none) {n : Nat}
    (hn : (s.groupOf t).origin = .task n) : exec (.frd d a) s =
    .next (if (s.groupOf t).effect then s.park t (mkF .futureOrder .lateRead (t.s a).toNat 0)
      else if s.isFull (t.s a).toNat then
        if s.poisoned (homeH (t.s a).toNat) 8 then s.loseTeam t .none
        else (s.invL1 (s.groupOf t).core).retire (t.setS d (s.rd64 (homeH (t.s a).toNat)))
      else s.squash t n (t.s a).toNat).tick :=
  (issue_control (i := { sr := [a], sw := [d], eng := 5 }) h {} rfl _).trans (by simp only [hf, hn])

end

/-! ### A future written and cleared (R56, R57) -/

/-- A task whose counter falls changes neither memory nor which futures are FULL. -/
theorem State.lower_keeps_futures (s : State) (k : Task) : (s.lower k).mem = s.mem ∧ (s.lower k).futFull = s.futFull := by
  unfold State.lower
  dsimp only
  (repeat' split) <;> exact ⟨rfl, rfl⟩

/-- A future told to its waiters: it is FULL, and memory is as before. -/
theorem State.fulfilled_keeps (s : State) (off : Nat) :
    (s.fulfilled off).mem = s.mem ∧ (s.fulfilled off).futFull = (off / 8) :: s.futFull :=
  List.foldlRecOn (motive := fun s' : State => s'.mem = s.mem ∧ s'.futFull = (off / 8) :: s.futFull) _ _ ⟨rfl, rfl⟩
    fun s' hs' w _ => by
      cases hw : s'.task w.2 with
      | none => exact hs'
      | some k =>
        obtain ⟨hmem, hfull⟩ := s'.lower_keeps_futures k
        exact ⟨hmem.trans hs'.1, hfull.trans hs'.2⟩

theorem State.retire_futFull (s : State) (t : Team) : (s.retire t).futFull = s.futFull := by
  obtain ⟨ps, cur, h, -⟩ := s.retire_eq t
  rw [h]
  rfl

/-- FWR stores the doubleword, makes the future FULL, and changes no other byte (R372). -/
theorem State.fulfilled_futWritten {s : State} (hinv : s.Inv) (t u : Team) (off : Nat) (x : Dw) :
    let s' := (((s.futWritten t off x).fulfilled off).retire u).tick
    s'.isFull off = true ∧ Mem.readN s'.mem (homeH off) 8 = leBytes 8 x.toNat ∧
      ∀ b, b < homeH off ∨ homeH off + 8 ≤ b → Mem.read s'.mem b = Mem.read s.mem b := by
  intro s'
  obtain ⟨hmem, hfull⟩ := (s.futWritten t off x).fulfilled_keeps off
  have hmem' : s'.mem = Mem.writeN s.mem (homeH off) (leBytes 8 x.toNat) :=
    (State.retire_keeps _ _).1.trans hmem
  have hfull' : s'.futFull = (off / 8) :: (s.futWritten t off x).futFull := (State.retire_futFull _ _).trans hfull
  refine ⟨?_, ?_, fun b hb => ?_⟩
  · simp [State.isFull, hfull']
  · simpa [hmem'] using Mem.readN_writeN hinv (homeH off) (leBytes 8 x.toNat)
  · rw [hmem']
    exact Mem.read_writeN_outside hinv _ _ _ (by simpa using hb)

theorem State.futCleared_isEmpty (s : State) (t : Team) (off : Nat) : (s.futCleared t off).isFull off = false := by
  simp [State.isFull, State.futCleared]

/-- Settles O46: each instruction by the branch of its effect. -/
theorem futures : Obligations.Futures := by
  intro s t d a b off hinv hoff
  subst hoff
  refine ⟨fun f hf => ⟨fun h => exec_fwr_fault h hf, fun h => ⟨exec_fwrClr_fault h hf, exec_frd_fault h hf⟩⟩,
    fun hf => ⟨fun h => ⟨fun hempty hs => ?write, fun hempty hs => ?wait, fun hfull => ?refill⟩,
      fun h hbad hfull => ⟨?clearLost, fun n hn heff => ?readLost⟩,
      fun h hgood => ⟨fun hfull => ?clear, fun hempty => ?clearEmpty, fun n hn => exec_frd_launch h hf hn,
        fun n hn => ⟨fun heff => ?late, fun heff hfull => ?read, fun heff hempty => ?squash⟩⟩⟩⟩
  case write =>
    exact ⟨_, by rw [exec_fwr h hf, if_neg (ne_true_of_eq_false hempty), if_pos hs], State.fulfilled_futWritten hinv t _ _ _⟩
  case wait => rw [exec_fwr h hf, if_neg (ne_true_of_eq_false hempty), if_neg (ne_true_of_eq_false hs)]
  case refill => rw [exec_fwr h hf, if_pos hfull]
  case clearLost => rw [exec_fwrClr h hf, if_pos hfull, if_pos hbad]
  case readLost => rw [exec_frd_task h hf hn, if_neg (ne_true_of_eq_false heff), if_pos hfull, if_pos hbad]
  case clear =>
    exact ⟨_, by rw [exec_fwrClr h hf, if_pos hfull, if_neg (ne_true_of_eq_false hgood)], s.futCleared_isEmpty t _, rfl, rfl⟩
  case clearEmpty => rw [exec_fwrClr h hf, if_neg (ne_true_of_eq_false hempty)]
  case late => rw [exec_frd_task h hf hn, if_pos heff]
  case read =>
    rw [exec_frd_task h hf hn, if_neg (ne_true_of_eq_false heff), if_pos hfull, if_neg (ne_true_of_eq_false hgood)]
  case squash => rw [exec_frd_task h hf hn, if_neg (ne_true_of_eq_false heff), if_neg (ne_true_of_eq_false hempty)]

end Sys2Proof.Machine
end

section
/-! Task submission: TSPAWN, TSPAWN.REL and LPOST (O45). -/

set_option Elab.async false

namespace Sys2Proof.Machine

/-! ### Bytes read at a VA (Table 9-2) -/

/-- From one state to another bytes were only read: pages were looked up, their A bits set, and waiters on those words woken. -/
def State.HasRead (s s' : State) : Prop :=
  ∃ (m : List Host.Cell) (ts : List Team) (tc : List (Nat × Nat × Nat × Nat × Dw)) (cs : List Core) (n : Nat),
    s' = { s with mem := m, teams := ts, tcache := tc, cores := cs, free := n } ∧ ts.map (·.key) = s.keys

theorem State.HasRead.trans {s s' s'' : State} (h : s.HasRead s') (h' : s'.HasRead s'') : s.HasRead s'' := by
  obtain ⟨_, ts, _, _, _, rfl, hkeys⟩ := h
  obtain ⟨m, us, tc, cs, n, rfl, hkeys'⟩ := h'
  exact ⟨m, us, tc, cs, n, rfl, hkeys'.trans hkeys⟩

theorem State.HasRead.of_fst {α : Type} {s s' : State} {q : State × α} {x : α} (h : s.HasRead q.1) (e : q = (s', x)) :
    s.HasRead s' := by
  rwa [e] at h

theorem State.LookedUp.hasRead {s s' : State} (h : s.LookedUp s') : s.HasRead s' := by
  obtain ⟨tc, cs, n, rfl⟩ := h
  exact ⟨s.mem, s.teams, tc, cs, n, rfl, rfl⟩

theorem State.markAD_hasRead (s : State) (ea : Option Nat) (wr : Bool) : s.HasRead (s.markAD ea wr) := by
  have hkeys := s.keys_markAD ea wr
  cases ea with
  | none => exact (State.LookedUp.refl s).hasRead
  | some a =>
    unfold State.markAD at hkeys ⊢
    generalize (if wr = true then (0x60 : Byte) else 0x40) = x at hkeys ⊢
    dsimp only at hkeys ⊢
    split
    · exact (State.LookedUp.refl s).hasRead
    · next hne =>
      rw [if_neg hne] at hkeys
      exact ⟨_, _, _, _, _, rfl, hkeys⟩

theorem State.xlateRun_lookedUp (s : State) (core c : Nat) (k : AccK) (o : XOpt) (va n : Nat) :
    s.LookedUp (s.xlateRun core c k o va n).1 := by
  induction n generalizing s va with
  | zero => exact .refl s
  | succ n ih =>
    unfold State.xlateRun
    split
    · exact .refl s
    split
    next e => exact (s.xlate_lookedUp ..).of_eq e
    next s1 p e =>
      have h1 := (s.xlate_lookedUp ..).of_eq e
      split
      next e' => exact h1.trans ((ih ..).of_eq e')
      next e' => exact h1.trans ((ih ..).of_eq e')

theorem State.readRun_hasRead (s : State) (ps : List Page) (va n : Nat) : s.HasRead (s.readRun ps va n).1 := by
  have hmarked : s.HasRead (ps.foldl (fun s p => s.markAD p.ea false) s) :=
    List.foldlRecOn ps _ (State.LookedUp.refl s).hasRead fun s' h p _ => h.trans (s'.markAD_hasRead p.ea false)
  exact hmarked.trans (State.LookedUp.hasRead ⟨_, _, _, rfl⟩)

theorem State.vaRead_hasRead (s : State) (core c va n : Nat) : s.HasRead (s.vaRead core c va n).1 := by
  unfold State.vaRead
  split
  next e => exact ((s.xlateRun_lookedUp ..).of_eq e).hasRead
  next s1 ps e => exact ((s.xlateRun_lookedUp ..).of_eq e).hasRead.trans (s1.readRun_hasRead ps va n)

theorem State.HasRead.keys {s s' : State} (h : s.HasRead s') : s'.keys = s.keys := by
  obtain ⟨_, _, _, _, _, rfl, hkeys⟩ := h
  exact hkeys

/-! ### What a submission asks of the machine that has read its record -/

/-- The effect mark of a team's group is all that an effect changes of it. -/
theorem State.effect_groupOf (s : State) (t : Team) : ∃ e, (s.effect t).groupOf t = { s.groupOf t with effect := e } := by
  have hmod := s.group_modGroup t.gslot t.gslot (fun g => { g with effect := true }) (fun _ => rfl)
  rw [State.groupOf, State.groupAt, State.effect, hmod, if_pos rfl, State.groupOf, State.groupAt]
  cases s.group t.gslot with
  | none => exact ⟨_, rfl⟩
  | some g => exact ⟨_, rfl⟩

theorem State.ctx_congr {s s' : State} (h : s'.ctxs = s.ctxs) (c : Nat) : s'.ctx c = s.ctx c := by
  rw [State.ctx, h, State.ctx]

theorem State.lq_congr {s s' : State} (h : s'.lqs = s.lqs) (c q : Nat) : s'.lq c q = s.lq c q := by
  rw [State.lq, h, State.lq]

/-- The machine in which a submission whose bytes have been read takes effect: to the submission it is as the machine before. -/
structure State.Submits (s s' : State) (t : Team) : Prop where
  core : (s'.groupOf t).core = (s.groupOf t).core
  ctxOf : s'.ctxOf t = s.ctxOf t
  origin : (s'.groupOf t).origin = (s.groupOf t).origin
  ctxs : s'.ctxs = s.ctxs
  tasks : s'.tasks = s.tasks
  deckPlace : ∀ die c, s'.deckPlace die c = s.deckPlace die c
  lqs : s'.lqs = s.lqs
  keys : s'.keys = s.keys
  launchError : ∀ c ds, s'.launchError c ds = s.launchError c ds

theorem State.HasRead.submits {s s' : State} (h : s.HasRead s') (t : Team) : s.Submits (s'.effect t) t := by
  obtain ⟨m, ts, tc, cs, n, rfl, hkeys⟩ := h
  obtain ⟨e, hgroup⟩ := s.effect_groupOf t
  have hgroup' : (State.effect { s with mem := m, teams := ts, tcache := tc, cores := cs, free := n } t).groupOf t =
      { s.groupOf t with effect := e } := hgroup
  exact ⟨by rw [hgroup'], by rw [State.ctxOf, hgroup', State.ctxOf], by rw [hgroup'], rfl, rfl,
    fun _ _ => rfl, rfl, hkeys, fun _ _ => rfl⟩

/-- A team that retires with an answer in a register. -/
theorem State.team_retire_setS {s : State} {t : Team} (h : (s.team t.key).isSome = true) (d : SReg) (x : Dw) :
    ∃ u, (s.retire (t.setS d x)).tick.team t.key = some u ∧ (d ≠ 0 → u.s d = x) := by
  obtain ⟨u, hu, hregs⟩ := State.team_retire (s := s) (t := t.setS d x) (by rwa [t.setS_key])
  rw [t.setS_key] at hu
  exact ⟨u, hu, fun hd => by rw [Team.s, hregs]; exact t.s_setS_self hd x⟩

/-! ### A record accepted or refused (R371, R432) -/

section
variable {s s' : State} {t : Team} {dws : List Dw} {ext : Option (List Dw)} (h : s.Submits s' t) (d : SReg)
include h

theorem State.Submits.malformed (hbad : taskBad (s.ctxOf t) dws = true) (ext : Option (List Dw)) :
    s'.submit t d dws ext = s'.refuseTask t d 1 := by
  unfold State.submit
  exact if_pos (by simp [h.ctxOf, hbad])

/-- What the Deck asks of a record, but for a place: it is well formed, with its extension, and its context takes work. -/
def State.takes (s : State) (t : Team) (dws : List Dw) (ext : Option (List Dw)) : Prop :=
  taskBad (s.ctxOf t) dws = false ∧ ext.any (extBad (fld (dws.getD 1 0) 54 52 + 1)) = false ∧
    (s.ctx (s.ctxOf t)).en = true ∧ (s.ctx (s.ctxOf t)).rst = 0

theorem State.Submits.submit_eq (hgood : s.takes t dws ext) : s'.submit t d dws ext =
    match s.deckPlace (dieOf (s.groupOf t).core) (s.ctxOf t) with
    | none => s'.refuseTask t d 2
    | some (die, bank, i) => ((s'.addTask die bank i dws ext).1.bump (s.ctxOf t) 0x43 1).retire
        (t.setS d (BitVec.ofNat 64 (s'.addTask die bank i dws ext).2.handle)) := by
  obtain ⟨hbad, hext, hen, hrst⟩ := hgood
  unfold State.submit
  simp only [h.ctxOf, h.core, State.ctx_congr h.ctxs, h.deckPlace, hbad, hext, hen, hrst]
  rfl

/-- A full Deck answers 2 (Table 10-12). -/
theorem State.Submits.noPlace (hgood : s.takes t dws ext)
    (hfull : s.deckPlace (dieOf (s.groupOf t).core) (s.ctxOf t) = none) : s'.submit t d dws ext = s'.refuseTask t d 2 := by
  rw [h.submit_eq d hgood, hfull]

/-- With a place the record is in the Deck, and the team has its handle. -/
theorem State.Submits.placed (hgood : s.takes t dws ext) (hteam : (s.team t.key).isSome = true)
    (hroom : (s.deckPlace (dieOf (s.groupOf t).core) (s.ctxOf t)).isSome = true) :
    ∃ (k : Task) (u : Team), (s'.submit t d dws ext).tick.tasks = s.tasks ++ [k] ∧ k.dws = dws ∧ k.ext = ext ∧
      (s'.submit t d dws ext).tick.team t.key = some u ∧ (d ≠ 0 → u.s d = BitVec.ofNat 64 k.handle) := by
  obtain ⟨⟨die, bank, i⟩, hplace⟩ := Option.isSome_iff_exists.mp hroom
  rw [h.submit_eq d hgood, hplace]
  obtain ⟨u, hu, hs⟩ := State.team_retire_setS (s := (s'.addTask die bank i dws ext).1.bump (s.ctxOf t) 0x43 1) (t := t)
    (State.team_isSome_congr h.keys hteam) d (BitVec.ofNat 64 (s'.addTask die bank i dws ext).2.handle)
  refine ⟨(s'.addTask die bank i dws ext).2, u, ?_, rfl, rfl, hu, hs⟩
  rw [← h.tasks, State.tick_tasks, (State.retire_keeps _ _).2.2.2.2.2.2.2.2.2.1]
  rfl

end

/-! ### TSPAWN and TSPAWN.REL (R371, R50) -/

section
variable {s s1 s2 : State} {t : Team} {a d : SReg}

/-- What TSPAWN checks at issue. -/
abbrev tspawnInfo (d a : SReg) : Info :=
  { bad := if a = 0 then some .none else none, sr := [a], sw := [d], eng := 5, stop := true }

theorem tspawnInfo_control (ha : a ≠ 0) (d : SReg) : (tspawnInfo d a).PlainControl := { bad := if_neg ha }

variable (h : Ready s t 5 [.s a, .s d]) (ha : a ≠ 0)
include h ha

theorem exec_tspawn_unaligned (hal : (t.s a).toNat % 64 ≠ 0) :
    exec (.tspawn d a) s = .next (s.park t (mkF .alignment .none (t.s a).toNat 64)).tick :=
  (issue_control (i := tspawnInfo d a) h (tspawnInfo_control ha d) rfl _).trans (by rw [if_pos hal])

theorem exec_tspawn_waits (hal : (t.s a).toNat % 64 = 0) (hs : s.settled t.key = false) :
    exec (.tspawn d a) s = .next (s.deschedule t .sys).tick :=
  (issue_control (i := tspawnInfo d a) h (tspawnInfo_control ha d) rfl _).trans (by rw [if_neg (not_not.mpr hal), hs]; rfl)

/-- A record that cannot be read parks the team. -/
theorem exec_tspawn_unread (hal : (t.s a).toNat % 64 = 0) (hs : s.settled t.key = true) {f : FaultInfo}
    (hread : s.vaRead (s.groupOf t).core (s.ctxOf t) (t.s a).toNat 64 = (s1, .inl f)) :
    exec (.tspawn d a) s = .next (s1.park t f).tick := by
  refine (issue_control (i := tspawnInfo d a) h (tspawnInfo_control ha d) rfl _).trans ?_
  rw [State.ctxOf] at hread
  simp only [hal, hs, hread]
  rfl

/-- A record with no extension to read is submitted as it is. -/
theorem exec_tspawn_record (hal : (t.s a).toNat % 64 = 0) (hs : s.settled t.key = true) {bs : List Byte}
    (hread : s.vaRead (s.groupOf t).core (s.ctxOf t) (t.s a).toNat 64 = (s1, .inr bs))
    (hx : (taskXd (leDws 8 bs) && !taskBad (s.ctxOf t) (leDws 8 bs)) = false) :
    exec (.tspawn d a) s = .next ((s1.effect t).submit t d (leDws 8 bs) none).tick := by
  refine (issue_control (i := tspawnInfo d a) h (tspawnInfo_control ha d) rfl _).trans ?_
  rw [State.ctxOf] at hread hx
  simp only [hal, hs, hread, hx]
  rfl

/-- A record with an extension is submitted with it (R47). -/
theorem exec_tspawn_extended (hal : (t.s a).toNat % 64 = 0) (hs : s.settled t.key = true) {bs es : List Byte}
    (hread : s.vaRead (s.groupOf t).core (s.ctxOf t) (t.s a).toNat 64 = (s1, .inr bs))
    (hx : taskXd (leDws 8 bs) = true) (hgood : taskBad (s.ctxOf t) (leDws 8 bs) = false)
    (hext : s1.vaRead (s.groupOf t).core (s.ctxOf t) ((taskEntry (leDws 8 bs) + 2 ^ 52 - 64) % 2 ^ 52) 64 = (s2, .inr es)) :
    exec (.tspawn d a) s = .next ((s2.effect t).submit t d (leDws 8 bs) (some (leDws 8 es))).tick := by
  refine (issue_control (i := tspawnInfo d a) h (tspawnInfo_control ha d) rfl _).trans ?_
  rw [State.ctxOf] at hread hgood hext
  simp only [hal, hs, hread, hx, hgood, hext]
  rfl

theorem exec_tspawnRel : exec (.tspawnRel d a) s = .next (if s.settled t.key then
      match (s.effect t).nodeOf ((s.effect t).ctxOf t) (t.s a) with
      | none => ((s.effect t).bump ((s.effect t).ctxOf t) 0x40 1).refuseTask t d 3
      | some k => ((s.effect t).lower k).retire (t.setS d 0)
    else s.deschedule t .sys).tick := by
  refine (issue_control (i := tspawnInfo d a) h (tspawnInfo_control ha d) rfl _).trans ?_
  cases s.settled t.key <;> rfl

end

/-! ### LPOST (R373, R426) -/

section
variable {s s1 s2 : State} {t : Team} {a d : SReg} (h : Ready s t 5 [.s a, .s d]) (q : BitVec 2)
include h

theorem exec_lpost_unaligned (hal : (t.s a).toNat % 64 ≠ 0) :
    exec (.lpost d a q) s = .next (s.park t (mkF .alignment .none (t.s a).toNat 64)).tick :=
  (issue_control (i := { sr := [a], sw := [d], eng := 5, stop := true }) h {} rfl _).trans (by rw [if_pos hal])

theorem exec_lpost_waits (hal : (t.s a).toNat % 64 = 0) (hs : s.settled t.key = false) :
    exec (.lpost d a q) s = .next (s.deschedule t .sys).tick :=
  (issue_control (i := { sr := [a], sw := [d], eng := 5, stop := true }) h {} rfl _).trans
    (by rw [if_neg (not_not.mpr hal), hs]; rfl)

/-- A queue that is not enabled answers 3, and no packet is read. -/
theorem exec_lpost_disabled (hal : (t.s a).toNat % 64 = 0) (hs : s.settled t.key = true)
    (hq : flag ((s.ctx (s.ctxOf t)).lq.toList.getD q.toNat 0) 63 = false) :
    exec (.lpost d a q) s = .next (((s.effect t).bump (s.ctxOf t) 0x44 1).retire (t.setS d 3)).tick := by
  refine (issue_control (i := { sr := [a], sw := [d], eng := 5, stop := true }) h {} rfl _).trans ?_
  rw [State.ctxOf] at hq
  simp only [hal, hs, hq]
  rfl

/-- A packet with the header of a LAUNCH is read whole and posted. -/
theorem exec_lpost_packet (hal : (t.s a).toNat % 64 = 0) (hs : s.settled t.key = true)
    (hq : flag ((s.ctx (s.ctxOf t)).lq.toList.getD q.toNat 0) 63 = true) {hb bs : List Byte}
    (hhead : s.vaRead (s.groupOf t).core (s.ctxOf t) (t.s a).toNat 8 = (s1, .inr hb))
    (hok : postHeaderOk (BitVec.ofNat 64 (leNat hb)) = true)
    (hread : s1.vaRead (s.groupOf t).core (s.ctxOf t) (t.s a).toNat 104 = (s2, .inr bs)) :
    exec (.lpost d a q) s = .next ((s2.effect t).post t d q.toNat (leDws 13 bs)).tick := by
  refine (issue_control (i := { sr := [a], sw := [d], eng := 5, stop := true }) h {} rfl _).trans ?_
  rw [State.ctxOf] at hq hhead hread
  simp only [hal, hs, hq, hhead, hok, if_true, hread]
  rfl

end

/-- A queue replaced by one of the same context and number is found in its place. -/
theorem State.lq_putLq {s : State} {c q : Nat} {x y : LaunchQ} (h : s.lq c q = some x) (hctx : y.ctx = x.ctx) (hq : y.q = x.q) :
    (s.putLq y).lq c q = some y := by
  have hsame : (fun z : LaunchQ => z.ctx == c && z.q == q) ∘ (fun z => if z.ctx = y.ctx ∧ z.q = y.q then y else z) =
      fun z => z.ctx == c && z.q == q := by
    funext z
    rw [Function.comp_apply]
    split
    · next hz => rw [hz.1, hz.2]
    · rfl
  rw [State.lq] at h
  rw [State.lq, State.putLq, List.find?_map, hsame, h, Option.map_some, if_pos ⟨hctx.symm, hq.symm⟩]

section
variable {s s' : State} {t : Team} (h : s.Submits s' t) (d : SReg) {q : Nat} {x : LaunchQ} {dws : List Dw}
  (hq : s.lq (s.ctxOf t) q = some x) (hhead : postHeaderOk (dws.getD 0 0) = true)
include h hq hhead

/-- A packet with a launch error answers 1 (R425). -/
theorem State.Submits.post_error {e : Nat} (he : s.launchError (s.ctxOf t) dws = some e) :
    s'.post t d q dws = (s'.bump (s.ctxOf t) 0x44 1).retire (t.setS d 1) := by
  have hc := h.ctxOf
  rw [State.ctxOf] at hc
  simp only [State.post, hc, State.lq_congr h.lqs, hq, h.launchError, hhead, he]
  rfl

/-- A full queue answers 2. -/
theorem State.Submits.post_full (he : s.launchError (s.ctxOf t) dws = none) (hfull : 64 ≤ x.posted.length) :
    s'.post t d q dws = (s'.bump (s.ctxOf t) 0x44 1).retire (t.setS d 2) := by
  have hc := h.ctxOf
  rw [State.ctxOf] at hc
  simp only [State.post, hc, State.lq_congr h.lqs, hq, h.launchError, hhead, he, if_pos hfull]
  rfl

/-- A good packet goes behind those posted, with the launch or task that posted it (R426). -/
theorem State.Submits.posted (he : s.launchError (s.ctxOf t) dws = none) (hroom : x.posted.length < 64)
    (hteam : (s.team t.key).isSome = true) :
    ∃ (x' : LaunchQ) (u : Team) (p : List Dw × Origin × List Nat), (s'.post t d q dws).tick.lq (s.ctxOf t) q = some x' ∧
      x'.posted = x.posted ++ [p] ∧ p.1 = dws ∧ p.2.1 = (s.groupOf t).origin ∧
      (s'.post t d q dws).tick.team t.key = some u ∧ (d ≠ 0 → u.s d = 0) := by
  have hc := h.ctxOf
  rw [State.ctxOf] at hc
  have hpost : ∃ up, s'.post t d q dws =
      (s'.putLq { x with posted := x.posted ++ [(dws, (s.groupOf t).origin, up)] }).retire (t.setS d 0) := by
    simp only [State.post, hc, State.lq_congr h.lqs, hq, h.launchError, hhead, he, if_neg (Nat.not_le.mpr hroom), h.origin]
    exact ⟨_, rfl⟩
  obtain ⟨up, hpost⟩ := hpost
  obtain ⟨u, hu, hs⟩ := State.team_retire_setS (t := t)
    (s := s'.putLq { x with posted := x.posted ++ [(dws, (s.groupOf t).origin, up)] })
    (State.team_isSome_congr h.keys hteam) d 0
  rw [hpost]
  refine ⟨{ x with posted := x.posted ++ [(dws, (s.groupOf t).origin, up)] }, u, (dws, (s.groupOf t).origin, up), ?_, rfl, rfl, rfl,
    hu, hs⟩
  refine (State.lq_congr ?_ _ _).trans (State.lq_putLq ((State.lq_congr h.lqs _ _).trans hq) rfl rfl)
  rw [State.tick_lqs, (State.retire_keeps _ _).2.2.2.2.2.2.2.2.2.2.2.2.2.1]

end

/-- Settles O45: what a submission asks of the machine does not change while its bytes are read (`State.HasRead.submits`). -/
theorem taskSubmission : Obligations.TaskSubmission := by
  intro s s1 s2 t d a q h
  have hteam : (s.team t.key).isSome = true := Option.isSome_of_eq_some (s.curTeam_team t h.1).1
  have hsame := (State.LookedUp.refl s).hasRead.submits t
  refine ⟨exec_tspawn_unaligned h, exec_lpost_unaligned h q, fun hs => ⟨fun ha hal => exec_tspawn_waits h ha hal hs,
      fun ha => ?relWaits, fun hal => exec_lpost_waits h q hal hs⟩,
    fun hs => ⟨fun ha hal bs => ⟨fun f hread => exec_tspawn_unread h ha hal hs hread,
        fun hread => ⟨fun hbad => ?malformed, fun hgood hx hen hrst hfull => ?deckFull⟩⟩,
      fun ha hal hen hrst hroom bs hread hgood => ⟨fun hx => ?plain, fun hx es hext hextGood => ?extended⟩,
      fun ha => ⟨fun hnode => ?noNode, fun k hnode => ?node⟩,
      fun hal => ⟨exec_lpost_disabled h q hal hs, fun hq hb bs x hhead hok hok' hread hx he hlen => ?posts,
        fun hq hb bs x hhead hok hok' hread hx => ⟨fun e he => ?launchError, fun he hlen => ?queueFull⟩⟩⟩⟩
  case relWaits => rw [exec_tspawnRel h ha, if_neg (ne_true_of_eq_false hs)]
  case malformed =>
    have hsub := ((s.vaRead_hasRead ..).of_fst hread).submits t
    rw [exec_tspawn_record h ha hal hs hread (by simp [hbad]), hsub.malformed d hbad]
  case deckFull =>
    have hsub := ((s.vaRead_hasRead ..).of_fst hread).submits t
    rw [exec_tspawn_record h ha hal hs hread (by simp [hx]), hsub.noPlace d ⟨hgood, rfl, hen, hrst⟩ hfull]
  case plain =>
    have hsub := ((s.vaRead_hasRead ..).of_fst hread).submits t
    obtain ⟨k, u, htasks, hdws, hkext, hu, hs'⟩ := hsub.placed (ext := none) d ⟨hgood, rfl, hen, hrst⟩ hteam hroom
    exact ⟨_, k, u, exec_tspawn_record h ha hal hs hread (by simp [hx]), htasks, hdws, hkext, hu, hs'⟩
  case extended =>
    have hsub := (((s.vaRead_hasRead ..).of_fst hread).trans ((s1.vaRead_hasRead ..).of_fst hext)).submits t
    obtain ⟨k, u, htasks, hdws, hkext, hu, hs'⟩ :=
      hsub.placed d ⟨hgood, (Option.any_some ..).trans hextGood, hen, hrst⟩ hteam hroom
    exact ⟨_, k, u, exec_tspawn_extended h ha hal hs hread hx hgood hext, htasks, hdws, hkext, hu, hs'⟩
  case noNode =>
    have hnode' : (s.effect t).nodeOf (s.ctxOf t) (t.s a) = none := hnode
    rw [exec_tspawnRel h ha, if_pos hs, hsame.ctxOf, hnode']
  case node =>
    have hnode' : (s.effect t).nodeOf (s.ctxOf t) (t.s a) = some k := hnode
    rw [exec_tspawnRel h ha, if_pos hs, hsame.ctxOf, hnode']
  case posts =>
    have hsub := (((s.vaRead_hasRead ..).of_fst hhead).trans ((s1.vaRead_hasRead ..).of_fst hread)).submits t
    obtain ⟨x', u, p, hlq, hposted, hp1, hp2, hu, hs'⟩ := hsub.posted d hx hok' he hlen hteam
    exact ⟨_, x', u, p, exec_lpost_packet h q hal hs hq hhead hok hread, hlq, hposted, hp1, hp2, hu, hs'⟩
  case launchError =>
    have hsub := (((s.vaRead_hasRead ..).of_fst hhead).trans ((s1.vaRead_hasRead ..).of_fst hread)).submits t
    rw [exec_lpost_packet h q hal hs hq hhead hok hread, hsub.post_error d hx hok' he]
  case queueFull =>
    have hsub := (((s.vaRead_hasRead ..).of_fst hhead).trans ((s1.vaRead_hasRead ..).of_fst hread)).submits t
    rw [exec_lpost_packet h q hal hs hq hhead hok hread, hsub.post_full d hx hok' he hlen]

end Sys2Proof.Machine
end

section
/-! Copies, gathers, tile fetches and collectives as they issue, in a machine that traces in bounds and in one that does not (O42). -/

set_option Elab.async false

namespace Sys2Proof.Machine

/-! ### The issue of an operation (R358) -/

section
variable {s : State} {t : Team} {p : AsyncPlan}

/-- The operation that a plan hands to its engine. -/
def AsyncPlan.op (p : AsyncPlan) (t : Team) (id : Nat) : AsyncOp :=
  { id := id, team := t.key, group := t.gslot, cls := p.cls, num := (t.tl.get p.cls).issued + 1, minor := p.minor,
    segs := p.segs, fills := p.fills, queue := p.queue, coll := p.coll }

/-- An operation with something to do is the newest in progress. -/
theorem State.startAsync_works (hteam : (s.team t.key).isSome = true) (hwork : ¬ (p.segs = [] ∧ p.fills = [])) :
    s.startAsync t p (fun s _ => s) = ({ s.numbered t p with asy := s.asy ++ [p.op t s.uid] } : State).retire (t.opBegun p) := by
  have hdone : (p.segs.isEmpty && p.fills.isEmpty) = false := by
    rw [Bool.and_eq_false_iff, ← Bool.not_eq_true, ← Bool.not_eq_true, List.isEmpty_iff, List.isEmpty_iff]
    exact not_and_or.mp hwork
  have hbegun : (s.numbered t p).team t.key = some (t.opBegun p) := s.team_putTeam_self (t.opBegun p) hteam
  unfold State.startAsync
  simp only [AsyncOp.done, hdone, Bool.false_eq_true, if_false]
  exact congrArg _ (congrArg (Option.getD · _) hbegun)

/-- An operation with something to do has been issued with its number, and memory is as it was. -/
theorem State.startAsync_begun (hteam : (s.team t.key).isSome = true) (hwork : ¬ (p.segs = [] ∧ p.fills = [])) :
    OpBegun s (s.startAsync t p (fun s _ => s)).tick t p := by
  rw [State.startAsync_works hteam hwork]
  generalize hs1 : ({ s.numbered t p with asy := s.asy ++ [p.op t s.uid] } : State) = s1
  have hteams : s1.teams = (s.putTeam (t.opBegun p)).teams := by rw [← hs1]; rfl
  have hmem : s1.mem = s.mem := by rw [← hs1]; rfl
  have hasy : s1.asy = s.asy ++ [p.op t s.uid] := by rw [← hs1]
  have hbegun : s1.team t.key = some (t.opBegun p) :=
    (State.team_congr hteams _).trans (s.team_putTeam_self (t.opBegun p) hteam)
  obtain ⟨u, hu, hregs, hcnt, htl⟩ := State.team_retire_counts (s := s1) (t := t.opBegun p) (by simp [hbegun])
  refine ⟨u, hu, hregs, by simp [htl, Team.opBegun, Team.number], fun b _ => ?_, ?_⟩
  · rw [State.tick_mem, (State.retire_keeps _ _).1, hmem]
  · rw [if_neg hwork]
    exact ⟨hcnt, s.uid, by rw [State.tick_asy, (State.retire_keeps _ _).2.2.2.2.2.1, hasy]; rfl⟩

/-- In a machine that traces in bounds every numbered operation is issued so, one with nothing to do as well. -/
theorem State.TraceOk.startAsync (h : s.TraceOk) (hteam : (s.team t.key).isSome = true) (hcls : p.cls ≠ 1) :
    OpBegun s (s.startAsync t p (fun s _ => s)).tick t p := by
  by_cases hwork : p.segs = [] ∧ p.fills = []
  · exact (h.startAsync_done (gs := s.groups) hteam hwork.1 hwork.2 hcls rfl).1
  · exact State.startAsync_begun hteam hwork

end

/-! ### The copies (R359, R362) -/

/-- What issue asks of an instruction with a group of scalar registers, vector registers, and spaces. -/
theorem issue_asInfo {s : State} {t : Team} {d : SReg} {n : Nat} {sp : List (BitVec 3)} {vs : List VReg} {m : Option (Option Msk)}
    (h : Ready s t 4 ((sgroup d n).map .s ++ vs.map .v)) (hok : sgroupOk d n = true) (hsp : sp.findSome? spaceBad = none)
    (hhas : t.has vs) (k : Team → State → State) :
    issue { asInfo d n sp with vr := vs, who := m } k s = .next (k t s).tick :=
  issue_plain (i := { asInfo d n sp with vr := vs, who := m }) (by simpa [Info.dests, asInfo] using h)
    ⟨by simp [asInfo, hok, hsp], rfl, rfl, rfl, rfl, rfl, rfl⟩ (by simpa [asInfo] using hhas) k

section
variable {s : State} {t : Team} {d : SReg} {p r : BitVec 3}

/-- The row of CPY, where it copies anything. -/
def Team.cpyRows (t : Team) (d : SReg) : List (Nat × Nat × Nat) :=
  if (t.s (d + 2)).toNat = 0 then [] else [((t.s (d + 1)).toNat, (t.s d).toNat, (t.s (d + 2)).toNat)]

/-- The rows of CPY2D, where they hold anything. -/
def Team.cpy2dRows (t : Team) (d : SReg) : List (Nat × Nat × Nat) :=
  (List.range (if fld (t.s (d + 2)) 31 0 = 0 then 0 else fld (t.s (d + 2)) 63 32)).map (fun i =>
    (((t.s (d + 1)).toNat + i * fld (t.s (d + 3)) 63 32) % 2 ^ 64, ((t.s d).toNat + i * fld (t.s (d + 3)) 31 0) % 2 ^ 64,
      fld (t.s (d + 2)) 31 0))

/-- In a machine that traces in bounds, a copy within its spaces issues with the segments of its rows. -/
theorem State.TraceOk.copy (h : s.TraceOk) (hteam : (s.team t.key).isSome = true) (hcp : t.cnt.cp ≠ 0xFFFF) (minor : Nat)
    {total : Nat} (htotal : total ≤ 2 ^ 36) {rows : List (Nat × Nat × Nat)}
    (hruns : s.runsFault (s.groupOf t) (rows.flatMap (fun x => [(none, r, x.1, x.2.2), (none, p, x.2.1, x.2.2)])) = none) :
    OpBegun s (s.copy t minor p r total rows).tick t { cls := 0, minor := minor, segs := mkSegs r p rows } := by
  have hcopy : s.copy t minor p r total rows =
      (s.effect t).startAsync t { cls := 0, minor := minor, segs := mkSegs r p rows } (fun s _ => s) := by
    simp only [State.copy, if_neg (Nat.not_lt.mpr htotal), hruns, State.async, if_neg hcp]
  have hok : (s.effect t).TraceOk := h.congr h.inv rfl rfl
  rw [hcopy]
  exact hok.startAsync hteam Nat.zero_ne_one

section
variable (h : s.TraceOk) (hcp : t.cnt.cp ≠ 0xFFFF) (hp : spaceBad p = none) (hr : spaceBad r = none)
include h hcp hp hr

/-- In a machine that traces in bounds CPY issues: the clause of `Obligations.CopiesAndCollectives` that fails without that premise. -/
theorem State.TraceOk.cpy (hready : Ready s t 4 ((sgroup d 3).map .s)) (hok : sgroupOk d 3 = true) (nt : Bool)
    (hlen : (t.s (d + 2)).toNat ≤ 2 ^ 36)
    (hruns : s.runsFault (s.groupOf t) [(none, r, (t.s (d + 1)).toNat, (t.s (d + 2)).toNat),
      (none, p, (t.s d).toNat, (t.s (d + 2)).toNat)] = none) :
    ∃ s' : State, exec (.cpy d p r nt) s = .next s' ∧ OpBegun s s' t { cls := 0, minor := 0, segs := mkSegs r p (t.cpyRows d) } := by
  refine ⟨_, issue_asInfo (sp := [p, r]) (vs := []) (m := none) (by simpa using hready) hok (by simp [hp, hr])
    (by simp [Team.has]) _, h.copy (Option.isSome_of_eq_some (s.curTeam_team t hready.1).1) hcp 0 hlen ?_⟩
  split
  · rfl
  · exact hruns

/-- CPY2D likewise. -/
theorem State.TraceOk.cpy2d (hready : Ready s t 4 ((sgroup d 4).map .s)) (hok : sgroupOk d 4 = true) (nt : Bool)
    (htotal : fld (t.s (d + 2)) 63 32 * fld (t.s (d + 2)) 31 0 ≤ 2 ^ 36)
    (hruns : s.runsFault (s.groupOf t)
      ((t.cpy2dRows d).flatMap (fun x => [(none, r, x.1, x.2.2), (none, p, x.2.1, x.2.2)])) = none) :
    ∃ s' : State, exec (.cpy2d d p r nt) s = .next s' ∧
      OpBegun s s' t { cls := 0, minor := 1, segs := mkSegs r p (t.cpy2dRows d) } := by
  have hcopy := h.copy (p := p) (r := r) (Option.isSome_of_eq_some (s.curTeam_team t hready.1).1) hcp 1 htotal hruns
  refine ⟨_, (issue_asInfo (sp := [p, r]) (vs := []) (m := none) (by simpa using hready) hok (by simp [hp, hr])
    (by simp [Team.has]) _).trans ?_, hcopy⟩
  by_cases hz : fld (t.s (d + 2)) 31 0 = 0
  · simp only [Team.cpy2dRows, if_pos hz, if_pos (Or.inl hz)]
    rfl
  · simp only [Team.cpy2dRows, if_neg hz, if_neg (not_or.mpr ⟨hz, Nat.not_lt.mpr htotal⟩)]

/-- CPYG likewise, of the lanes that are active. -/
theorem State.TraceOk.cpyg {v : VReg} (hready : Ready s t 4 ((sgroup d 3).map .s ++ [.v v])) (hok : sgroupOk d 3 = true)
    (hhas : t.has [v]) {z : Nat} {src dst : Nat → Nat} (hz : z = (t.s (d + 2)).toNat)
    (hsize : t.lanesOf t.regs.exec = [] ∨ z ∈ [4, 8, 16, 32, 64, 128])
    (hsrc : src = fun l => (t.s (d + 1) + ((t.v v).lane l).setWidth 64).toNat)
    (hdst : dst = fun l => (t.s d + BitVec.ofNat 64 (l * z)).toNat)
    (halign : ∀ l ∈ t.lanesOf t.regs.exec, src l % z = 0 ∧ dst l % z = 0)
    (hruns : s.runsFault (s.groupOf t)
      ((t.lanesOf t.regs.exec).flatMap (fun l => [(some l, r, src l, z), (some l, p, dst l, z)])) = none) :
    ∃ s' : State, exec (.cpyg d p r v) s = .next s' ∧
      OpBegun s s' t { cls := 2, minor := 2, segs := mkSegs r p ((t.lanesOf t.regs.exec).map (fun l => (src l, dst l, z))) } := by
  have heff : (s.effect t).TraceOk := h.congr h.inv rfl rfl
  refine ⟨_, (issue_asInfo (sp := [p, r]) (vs := [v]) (m := some none) hready hok (by simp [hp, hr]) hhas _).trans ?_,
    heff.startAsync (Option.isSome_of_eq_some (s.curTeam_team t hready.1).1) (show (2 : Nat) ≠ 1 by decide)⟩
  subst hz hsrc hdst
  have hskew (f g : Nat → FaultInfo) : (t.lanesOf t.regs.exec).findSome? (fun l =>
      if (t.s (d + 1) + ((t.v v).lane l).setWidth 64).toNat % (t.s (d + 2)).toNat ≠ 0 then some (f l)
      else if (t.s d + BitVec.ofNat 64 (l * (t.s (d + 2)).toNat)).toNat % (t.s (d + 2)).toNat ≠ 0 then some (g l)
      else none) = none := by
    rw [List.findSome?_eq_none_iff]
    intro l hl
    obtain ⟨hs0, hd0⟩ := halign l hl
    rw [if_neg (not_not.mpr hs0), if_neg (not_not.mpr hd0)]
  have hgood : ¬ (t.lanesOf t.regs.exec ≠ [] ∧ (!([4, 8, 16, 32, 64, 128].contains (t.s (d + 2)).toNat)) = true) := by
    rintro ⟨hne, hbad⟩
    rw [Bool.not_eq_true', ← Bool.not_eq_true, List.contains_iff_mem] at hbad
    exact hsize.elim hne hbad
  simp only [if_neg hgood, hskew, hruns, State.async, if_neg hcp]

end

/-! ### Tile fetches and collectives (R367, R368) -/

/-- A tile fetch has rows. -/
theorem tfetchRows_ne_nil {src shape stride : Dw} {rs : List (Nat × Nat)} (h : tfetchRows src shape stride = .inr rs) : rs ≠ [] := by
  unfold tfetchRows at h
  dsimp only at h
  split at h
  · cases h
  next hrows =>
  split at h
  · cases h
  · cases h
    simpa using fun hz => hrows (.inl hz)

/-- TFETCH.C issues, whatever tracing does. -/
theorem exec_tfetchC_begun (hcp : t.cnt.cp ≠ 0xFFFF) (hready : Ready s t 4 ((sgroup d 4).map .s)) (hok : sgroupOk d 4 = true)
    {rs : List (Nat × Nat)} (hrows : tfetchRows (t.s (d + 1)) (t.s (d + 2)) (t.s (d + 3)) = .inr rs)
    (hruns : s.runsFault (s.groupOf t) (((enum rs).map (fun x => (x.2.1, ((t.s d).toNat + x.1 * fld (t.s (d + 3)) 31 0) % 2 ^ 64,
      x.2.2))).flatMap (fun x => [(none, 4, x.1, x.2.2), (none, 1, x.2.1, x.2.2)])) = none) :
    ∃ s' : State, exec (.tfetchC d) s = .next s' ∧ OpBegun s s' t { cls := 2, minor := 6, segs := (enum rs).map (fun x =>
      { no := x.1, ssp := 4, src := BitVec.ofNat 64 x.2.1, dsp := 1,
        dst := BitVec.ofNat 64 (((t.s d).toNat + x.1 * fld (t.s (d + 3)) 31 0) % 2 ^ 64), len := x.2.2, b := 0, acks := [],
        parked := none }) } := by
  have hnum (f : Nat × Nat × Nat → Nat × Nat × Nat) : enum ((enum rs).map f) = (enum rs).map (fun x => (x.1, f x)) :=
    List.ext_getElem (by simp) fun i _ _ => by simp [getElem_enum]
  refine ⟨_, (issue_asInfo (sp := []) (vs := []) (m := none) (by simpa using hready) hok rfl (by simp [Team.has]) _).trans ?_,
    State.startAsync_begun (s := s.effect t) (Option.isSome_of_eq_some (s.curTeam_team t hready.1).1) fun hnone =>
      tfetchRows_ne_nil hrows (List.eq_nil_of_length_eq_zero (by simpa using congrArg List.length hnone.1))⟩
  simp only [hrows, hruns, State.async, if_neg hcp, hnum, List.map_map]
  rfl

theorem State.HasRead.modl {s s' : State} (h : s.HasRead s') : s'.modl = s.modl := by
  obtain ⟨_, _, _, _, _, rfl, -⟩ := h
  rfl

/-- The bounds of runs are the same once bytes were read. -/
theorem State.HasRead.runsFault {s s' : State} (h : s.HasRead s') (g : Group) (rs : List (Option Nat × BitVec 3 × Nat × Nat)) :
    s'.runsFault g rs = s.runsFault g rs := by
  obtain ⟨_, _, _, _, _, rfl, -⟩ := h
  rfl

/-- COLL issues once its descriptor and members are read, whatever tracing does. -/
theorem exec_coll_begun {s1 s2 : State} (hcp : t.cnt.cp ≠ 0xFFFF) (hready : Ready s t 4 [.s d]) (hal : (t.s d).toNat % 64 = 0)
    {bs mb : List Byte} (hdesc : s.vaRead (s.groupOf t).core (s.groupOf t).ctx (t.s d).toNat 64 = (s1, .inr bs))
    (hmem : s1.vaRead (s.groupOf t).core (s.groupOf t).ctx ((leDws 8 bs).getD 4 0).toNat 64 = (s2, .inr mb))
    (hgood : collBad s.modl.modNo (membersOf (leDws 8 mb)) (leDws 8 bs) = false) {n : Nat × Nat}
    (hlens : collLens (leDws 8 bs) (membersOf (leDws 8 mb)).length = n)
    (hruns : s.runsFault (s.groupOf t)
      [(none, 4, ((leDws 8 bs).getD 1 0).toNat, n.1), (none, 4, ((leDws 8 bs).getD 2 0).toNat, n.2)] = none) :
    ∃ s' : State, exec (.coll d) s = .next s' ∧ OpBegun s2 s' t (AsyncPlan.mk 3 7 [Seg.mk 0 4 ((leDws 8 bs).getD 1 0) 4
      ((leDws 8 bs).getD 2 0) n.2 0 [] none false none] [] none (leDws 8 bs ++ leDws 8 mb) false) := by
  have hread := ((s.vaRead_hasRead ..).of_fst hdesc).trans ((s1.vaRead_hasRead ..).of_fst hmem)
  rw [← hread.modl] at hgood
  rw [← hread.runsFault] at hruns
  refine ⟨_, (issue_plain (i := { sr := [d], eng := 4 }) hready ⟨rfl, rfl, rfl, rfl, rfl, rfl, rfl⟩ (by simp [Team.has]) _).trans ?_,
    State.startAsync_begun (s := s2.effect t)
      (State.team_isSome_congr hread.keys (Option.isSome_of_eq_some (s.curTeam_team t hready.1).1)) fun hnone => nomatch hnone.1⟩
  simp only [hal, hdesc, hmem, hgood, hlens, hruns, State.async, if_neg hcp]
  rfl

end

/-! ### A copy of nothing in a machine where tracing overwrites more than its store -/

theorem overrunIssue_engineReady (ds : List Dest) : Ready overrunIssue issuingTeam 4 ds :=
  ⟨rfl, rfl, rfl, rfl, fun _ ha => nomatch ha⟩

/-- CPY of no bytes completes as it issues, and the record of its completion leaves the trace store. -/
theorem overrunIssue_cpy : leftByte overrunAt (exec (.cpy 0 1 1 false) overrunIssue) = some 1 := by decide +kernel

/-- Refutes O42: in `overrunIssue` the trace record of the completion of a CPY of no bytes changes a byte outside the trace stores.
What fails is the memory of a copy with nothing to do, for want of a premise that tracing stays in bounds: `State.TraceOk.cpy`,
`State.TraceOk.cpy2d` and `State.TraceOk.cpyg` have the clauses with it, and `exec_tfetchC_begun` and `exec_coll_begun` the others
without. -/
theorem not_copiesAndCollectives : ¬ Obligations.CopiesAndCollectives := by
  intro h
  obtain ⟨hcpy, -⟩ := h overrunIssue overrunIssue overrunIssue issuingTeam 0 1 1 false 0 (by decide)
  obtain ⟨s', hexec, u, -, -, -, hsame, -⟩ :=
    hcpy (overrunIssue_engineReady _) rfl rfl rfl (by decide) (by decide +kernel) [] (by decide)
  have hleft := overrunIssue_cpy
  rw [hexec, leftByte_next, Option.some_inj, hsame overrunAt noTrace_overrunAt] at hleft
  exact absurd hleft (by decide)

end Sys2Proof.Machine
end

section
/-! Matrix instructions as they issue, in a machine that traces in bounds and in one that does not (O44). -/

set_option Elab.async false

namespace Sys2Proof.Machine

/-! ### The issue of a tile operation (R337, R339) -/

/-- The fields of the words of a tile instruction that issue checks are in order, but for the tiles they name. -/
structure Info.PlainTile (i : Info) : Prop where
  bad : i.bad = none := by rfl
  pairs : i.pairs = [] := by rfl
  regs : i.named ++ i.vr ++ i.vw = [] := by rfl
  fmt : i.fmt = false := by rfl
  eng : i.eng = 3 := by rfl
  xfer : i.xfer = false := by rfl
  lvl : i.lvl = 0 := by rfl

/-- A ready team of a compute core runs the effect of an instruction whose tiles its group has. -/
theorem issue_tile {s : State} {t : Team} {i : Info} (h : Ready s t 3 i.dests) (hi : i.PlainTile)
    (hcore : (s.groupOf t).core < 192) (htiles : ∀ r ∈ i.ts, r.toNat < (s.groupOf t).tiles.length) (k : Team → State → State) :
    issue i k s = .next (k t s).tick :=
  issue_ready (hi.eng.symm ▸ h) hi.bad (by simp [hi.pairs]) (by simp [hi.regs]) htiles hi.fmt (by simp [hi.xfer])
    (fun _ => hcore) (by simp [hi.lvl]) (by simp [hi.lvl]) k

/-- As `issue_tile`, for a group of scalar registers and one tile. -/
theorem issue_mxInfo {s : State} {t : Team} {q : SReg} {n : Nat} {tl : TReg} (h : Ready s t 3 ((sgroup q n).map .s))
    (hok : sgroupOk q n = true) (hcore : (s.groupOf t).core < 192) (htile : tl.toNat < (s.groupOf t).tiles.length)
    (k : Team → State → State) : issue (mxInfo q n [tl]) k s = .next (k t s).tick :=
  issue_tile (by simpa [Info.dests, mxInfo] using h) { bad := if_pos hok } hcore (by simpa [mxInfo] using htile) k

section
variable {s : State} {t : Team}

/-- With CNT.TI full a tile operation waits. -/
theorem State.startTile_full (hti : t.cnt.ti = 0xFFFF) (p : TilePlan) : s.startTile t p = s.deschedule t (.slot 0) := if_pos hti

/-- The operation that a plan hands to the matrix engine. -/
def TilePlan.op (p : TilePlan) (s : State) (t : Team) : TileOp :=
  { id := s.uid, team := t.key, group := t.gslot, core := (s.groupOf t).core, tile := p.t.toNat, src := p.src, minor := p.minor,
    word := mxWord p.minor p.q p.t p.sat p.asrc p.bsrc (if p.minor = 11 then p.src else p.pos), sat := p.sat, asrc := p.asrc,
    bsrc := p.bsrc, pos := p.pos, oprs := p.oprs, rows := p.rows, num := t.tl.tile.issued + 1, at_ := s.clk, parked := none,
    pins := p.pins, pinWait := false, acks := [] }

/-- A team that has issued a tile operation: it has the next number of TL.TILE, and counts in CNT.TI. -/
def Team.tileBegun (t : Team) (p : TilePlan) : Team :=
  { (t.number 1 (p.minor < 8)).1 with cnt := { t.cnt with ti := t.cnt.ti + 1 }, pinHeld := [] }

/-- The machine with a tile operation in its engine. -/
def State.tileNumbered (s : State) (t : Team) (p : TilePlan) : State := { s with uid := s.uid + 1, tops := s.tops ++ [p.op s t] }

theorem State.startTile_eq (hti : t.cnt.ti ≠ 0xFFFF) (p : TilePlan) :
    s.startTile t p = (s.tileNumbered t p).retire (t.tileBegun p) := if_neg hti

/-- A tile operation is in the engine, with its number, and changes neither memory nor the group. -/
theorem State.startTile_begun (hteam : (s.team t.key).isSome = true) (hti : t.cnt.ti ≠ 0xFFFF) (p : TilePlan) :
    TileBegun s (s.startTile t p).tick t p ∧ (s.startTile t p).groups = s.groups := by
  obtain ⟨u, hu, hregs, hcnt, htl⟩ := State.team_retire_counts (s := s.tileNumbered t p) (t := t.tileBegun p) hteam
  rw [State.startTile_eq hti]
  refine ⟨⟨s.uid, (p.op s t).word, u, ?_, hu, hregs, hcnt, by rw [htl]; rfl, ?_⟩, ?_⟩
  · rw [State.tick_tops, (State.retire_keeps _ _).2.2.2.2.2.2.1]
    rfl
  · exact (State.retire_keeps _ _).1
  · exact (State.retire_keeps _ _).2.1

/-- A tile that a group has, changed: it reads as what it was changed to, on the same core. -/
theorem State.groupOf_modTile {k : Nat} (hk : k < (s.groupOf t).tiles.length) (f : Tile → Tile) :
    ((s.modTile t.gslot k f).groupOf t).tile k = f ((s.groupOf t).tile k) ∧
      ((s.modTile t.gslot k f).groupOf t).core = (s.groupOf t).core := by
  have hmod := s.group_modGroup t.gslot t.gslot (fun g => { g with tiles := g.tiles.set k (f (g.tile k)) }) (fun _ => rfl)
  cases hg : s.group t.gslot with
  | none => exact absurd hk (by simp [State.groupOf, State.groupAt, hg])
  | some g =>
    have hgroup : s.groupOf t = g := by rw [State.groupOf, State.groupAt, hg, Option.getD_some]
    rw [hgroup] at hk ⊢
    rw [State.groupOf, State.groupAt, State.modTile, hmod, if_pos rfl, hg, Option.map_some, Option.getD_some]
    exact ⟨by simp [Group.tile, hk], rfl⟩

/-- A tile operation that makes its destination valid (R339). -/
theorem State.setTile_startTile (hteam : (s.team t.key).isSome = true) (hti : t.cnt.ti ≠ 0xFFFF) {k : Nat}
    (hk : k < (s.groupOf t).tiles.length) (p : TilePlan) :
    TileBegun s ((s.setTile t k).startTile t p).tick t p ∧
      ((((s.setTile t k).startTile t p).tick.groupOf t).tile k).valid = true := by
  have hset : s.setTile t k = s.modTile t.gslot k (fun x => { x with valid := true }) := if_neg hti
  obtain ⟨htile, hcore⟩ := State.groupOf_modTile (s := s) (t := t) hk (fun x => { x with valid := true })
  rw [hset]
  obtain ⟨⟨id, w, u, htops, hrest⟩, hgroups⟩ := State.startTile_begun (t := t) (p := p)
    (s := s.modTile t.gslot k (fun x => { x with valid := true })) hteam hti
  refine ⟨⟨id, w, u, ?_, hrest⟩, ?_⟩
  · rw [hcore] at htops
    exact htops
  · rw [State.groupOf_congr ((State.tick_groups _).trans hgroups), htile]

theorem State.setTile_full (hti : t.cnt.ti = 0xFFFF) (k : Nat) : s.setTile t k = s := if_pos hti

end

/-! ### ACCZ, ACCLD, ACCST, ACCMV and ACCOVX (R353) -/

section
variable {s : State} {t : Team} {q : SReg} {tl u : TReg} (hcore : (s.groupOf t).core < 192)
  (htile : tl.toNat < (s.groupOf t).tiles.length)
include hcore htile

theorem exec_accz (h : Ready s t 3 []) : exec (.accz tl) s =
    .next ((s.setTile t tl.toNat).startTile t { minor := 8, q := 0, t := tl, src := tl.toNat }).tick :=
  issue_tile (i := { ts := [tl], eng := 3 }) h {} hcore (by simpa using htile) _

section
variable (h : Ready s t 3 ((sgroup q 2).map .s)) (hok : sgroupOk q 2 = true) (g : Bool)
include h hok

theorem exec_accld_parks {f : FaultInfo} (hf : s.accFault t q g = some f) : exec (.accld q tl g) s = .next (s.park t f).tick :=
  (issue_mxInfo h hok hcore htile _).trans (by simp only [hf])

theorem exec_accld (hf : s.accFault t q g = none) : exec (.accld q tl g) s = .next ((s.setTile t tl.toNat).startTile t
    { minor := 9, q := q, t := tl, src := tl.toNat, asrc := g, oprs := (sgroup q 2).map t.s }).tick :=
  (issue_mxInfo h hok hcore htile _).trans (by simp only [hf])

theorem exec_accst_invalid (hf : s.accFault t q g = none) {f : FaultInfo} (hv : s.tileFault t tl.toNat = some f) :
    exec (.accst q tl g) s = .next (s.park t f).tick :=
  (issue_mxInfo h hok hcore htile _).trans (by simp only [hf, hv])

theorem exec_accst (hf : s.accFault t q g = none) (hv : s.tileFault t tl.toNat = none) : exec (.accst q tl g) s =
    .next (s.startTile t { minor := 10, q := q, t := tl, src := tl.toNat, asrc := g, oprs := (sgroup q 2).map t.s }).tick :=
  (issue_mxInfo h hok hcore htile _).trans (by simp only [hf, hv])

end

section
variable (h : Ready s t 3 []) (hsrc : u.toNat < (s.groupOf t).tiles.length)
include h hsrc

theorem exec_accmv_invalid {f : FaultInfo} (hv : s.tileFault t u.toNat = some f) :
    exec (.accmv tl u) s = .next (s.park t f).tick :=
  (issue_tile (i := { ts := [tl, u], eng := 3 }) h {} hcore (by simp [htile, hsrc]) _).trans (by simp only [hv])

theorem exec_accmv (hv : s.tileFault t u.toNat = none) : exec (.accmv tl u) s =
    .next ((s.setTile t tl.toNat).startTile t { minor := 11, q := 0, t := tl, src := u.toNat }).tick :=
  (issue_tile (i := { ts := [tl, u], eng := 3 }) h {} hcore (by simp [htile, hsrc]) _).trans (by simp only [hv])

end

/-- ACCOVX waits behind the operations on its tile that were issued before it first executed, then answers. -/
theorem exec_accovx (h : Ready s t 3 [.s q]) (c : Bool) : exec (.accovx q tl c) s =
    .next (if s.tops.any (fun o => o.names t.gslot tl.toNat && o.id < t.ovx.getD s.uid) then
        s.deschedule { t with ovx := some (t.ovx.getD s.uid) } (.tile tl.toNat)
      else (if c then s.modTile t.gslot tl.toNat (fun x => { x with ovx := false }) else s).retire
        { t.setS q (BitVec.ofNat 64 (b2n (!((s.groupOf t).tile tl.toNat).valid) * 2 + b2n ((s.groupOf t).tile tl.toNat).ovx))
          with ovx := none }).tick :=
  issue_tile (i := { sw := [q], ts := [tl], eng := 3 }) h {} hcore (by simpa using htile) _

end

/-- The clauses of `Obligations.MatrixInstructions` on the instructions that are no MMA: they hold whatever tracing does. -/
theorem accumulatorsIssue {s : State} {t : Team} {q : SReg} {tl u : TReg} (a b : Bool) (hcore : (s.groupOf t).core < 192)
    (htile : tl.toNat < (s.groupOf t).tiles.length) :
    (Ready s t 3 [] →
      (t.cnt.ti = 0xFFFF → exec (.accz tl) s = .next (s.deschedule t (.slot 0)).tick) ∧
      (t.cnt.ti ≠ 0xFFFF → ∃ (s' : State), exec (.accz tl) s = .next s' ∧
        TileBegun s s' t { minor := 8, q := 0, t := tl, src := tl.toNat } ∧ ((s'.groupOf t).tile tl.toNat).valid = true)) ∧
    (Ready s t 3 ((sgroup q 2).map .s) → sgroupOk q 2 = true →
      (∀ f, s.accFault t q a = some f → exec (.accld q tl a) s = .next (s.park t f).tick) ∧
      (s.accFault t q a = none →
        (t.cnt.ti = 0xFFFF → exec (.accld q tl a) s = .next (s.deschedule t (.slot 0)).tick) ∧
        (t.cnt.ti ≠ 0xFFFF → ∃ (s' : State), exec (.accld q tl a) s = .next s' ∧
          TileBegun s s' t { minor := 9, q := q, t := tl, src := tl.toNat, asrc := a, oprs := (sgroup q 2).map t.s } ∧
          ((s'.groupOf t).tile tl.toNat).valid = true) ∧
        (∀ f, s.tileFault t tl.toNat = some f → exec (.accst q tl a) s = .next (s.park t f).tick) ∧
        (s.tileFault t tl.toNat = none → t.cnt.ti ≠ 0xFFFF → ∃ (s' : State), exec (.accst q tl a) s = .next s' ∧
          TileBegun s s' t { minor := 10, q := q, t := tl, src := tl.toNat, asrc := a, oprs := (sgroup q 2).map t.s }))) ∧
    (Ready s t 3 [] → u.toNat < (s.groupOf t).tiles.length →
      (s.tileFault t u.toNat = none → t.cnt.ti ≠ 0xFFFF → ∃ (s' : State), exec (.accmv tl u) s = .next s' ∧
        TileBegun s s' t { minor := 11, q := 0, t := tl, src := u.toNat } ∧ ((s'.groupOf t).tile tl.toNat).valid = true) ∧
      (∀ f, s.tileFault t u.toNat = some f → exec (.accmv tl u) s = .next (s.park t f).tick)) ∧
    (Ready s t 3 [.s q] →
      (s.tops.any (fun o => o.names t.gslot tl.toNat && o.id < t.ovx.getD s.uid) = true →
        exec (.accovx q tl b) s = .next (s.deschedule { t with ovx := some (t.ovx.getD s.uid) } (.tile tl.toNat)).tick) ∧
      (s.tops.any (fun o => o.names t.gslot tl.toNat && o.id < t.ovx.getD s.uid) = false →
        ∃ (s1 : State), exec (.accovx q tl b) s = .next (s1.retire { t.setS q (BitVec.ofNat 64
            (b2n (!((s.groupOf t).tile tl.toNat).valid) * 2 + b2n ((s.groupOf t).tile tl.toNat).ovx)) with ovx := none }).tick ∧
          s1.teams = s.teams ∧ s1.mem = s.mem ∧
          ((s1.groupOf t).tile tl.toNat).ovx = (!b && ((s.groupOf t).tile tl.toNat).ovx))) := by
  have team {e : Nat} {ds : List Dest} (h : Ready s t e ds) : (s.team t.key).isSome = true :=
    Option.isSome_of_eq_some (s.curTeam_team t h.1).1
  refine ⟨fun h => ⟨fun hti => ?zeroWaits, fun hti => ?zero⟩,
    fun h hok => ⟨fun f hf => exec_accld_parks hcore htile h hok a hf, fun hf => ⟨fun hti => ?loadWaits, fun hti => ?load,
      fun f hv => exec_accst_invalid hcore htile h hok a hf hv, fun hv hti => ?store⟩⟩,
    fun h hsrc => ⟨fun hv hti => ?move, fun f hv => exec_accmv_invalid hcore htile h hsrc hv⟩,
    fun h => ⟨fun hbusy => ?behind, fun hfree => ?answers⟩⟩
  case zeroWaits => rw [exec_accz hcore htile h, State.setTile_full hti, State.startTile_full hti]
  case zero => exact ⟨_, exec_accz hcore htile h, State.setTile_startTile (team h) hti htile _⟩
  case loadWaits => rw [exec_accld hcore htile h hok a hf, State.setTile_full hti, State.startTile_full hti]
  case load => exact ⟨_, exec_accld hcore htile h hok a hf, State.setTile_startTile (team h) hti htile _⟩
  case store => exact ⟨_, exec_accst hcore htile h hok a hf hv, (State.startTile_begun (team h) hti _).1⟩
  case move => exact ⟨_, exec_accmv hcore htile h hsrc hv, State.setTile_startTile (team h) hti htile _⟩
  case behind => rw [exec_accovx hcore htile h, if_pos hbusy]
  case answers =>
    refine ⟨_, by rw [exec_accovx hcore htile h, if_neg (ne_true_of_eq_false hfree)], ?_⟩
    cases b with
    | false => exact ⟨rfl, rfl, by simp⟩
    | true => exact ⟨rfl, rfl, congrArg Tile.ovx (State.groupOf_modTile htile (fun x => { x with ovx := false })).1⟩

/-! ### The MMAs (R346 to R348) -/

section
variable {s : State} {t : Team} {minor : Nat} {q : SReg} {tl : TReg} {sat a b : Bool} {pos : Nat}

/-- The operands of an MMA. -/
abbrev Team.mmaOps (t : Team) (q : SReg) (a b : Bool) : MOp × MOp := mOps ((sgroup q 5).map t.s) a b

/-- K of an MMA. -/
abbrev Team.mmaK (t : Team) (q : SReg) (a b : Bool) : Nat := mK (t.mmaOps q a b).1.code (t.mmaOps q a b).2.code

/-- The active rows of an MMA. -/
abbrev Team.mmaRows (t : Team) (minor pos : Nat) : List Nat := rowsOf (t.rowMask (mShape minor pos).1)

theorem State.mma_badFormat {d : Detail} (hf : fmtBad (t.mmaOps q a b).1 (t.mmaOps q a b).2 sat = some d) :
    s.mma t minor q tl sat a b pos = s.park t (mkF .illegalFormat d 0 0) := by
  simp only [State.mma, hf]

variable (hf : fmtBad (t.mmaOps q a b).1 (t.mmaOps q a b).2 sat = none)
include hf

theorem State.mma_skewed {f : FaultInfo} (hs : ((t.mmaOps q a b).1.skew (mShape minor pos).1 (t.mmaK q a b)).or
      ((t.mmaOps q a b).2.skew (mShape minor pos).2.1 (t.mmaK q a b)) = some f) :
    s.mma t minor q tl sat a b pos = s.park t f := by
  simp only [State.mma, hf, Option.orElse_eq_or, hs]

variable (ha : (t.mmaOps q a b).1.skew (mShape minor pos).1 (t.mmaK q a b) = none)
  (hb : (t.mmaOps q a b).2.skew (mShape minor pos).2.1 (t.mmaK q a b) = none)
include ha hb

/-- With no active row an MMA completes as it issues. -/
theorem State.mma_noRows (hti : t.cnt.ti ≠ 0xFFFF) (hrows : t.mmaRows minor pos = []) :
    s.mma t minor q tl sat a b pos = (s.traceTl (t.number 1 true).1 ((t.number 1 true).1.complete 1 (t.number 1 true).2) 1).retire
      ((t.number 1 true).1.complete 1 (t.number 1 true).2) := by
  simp only [State.mma, hf, ha, hb, hrows, if_neg hti]
  rfl

/-- What an MMA with active rows hands to the engine. -/
def Team.mmaPlan (t : Team) (minor : Nat) (q : SReg) (tl : TReg) (sat a b : Bool) (pos : Nat) (pins : List Nat) : TilePlan :=
  { minor := minor, q := q, t := tl, src := tl.toNat, sat := sat, asrc := a, bsrc := b, pos := pos,
    oprs := (sgroup q 5).map t.s, rows := t.rowMask (mShape minor pos).1, pins := pins }

/-- The faults of an MMA with active rows: an invalid tile, or an operand that leaves its space. -/
abbrev State.mmaFault (s : State) (t : Team) (minor : Nat) (q : SReg) (tl : TReg) (a b : Bool) (pos : Nat) : Option FaultInfo :=
  (s.tileFault t tl.toNat).or (s.matBounds (s.groupOf t) ((t.mmaOps q a b).1.runs (t.mmaK q a b) (t.mmaRows minor pos) ++
    (t.mmaOps q a b).2.runs (t.mmaK q a b) (List.range (mShape minor pos).2.1)))

variable (hrows : t.mmaRows minor pos ≠ [])
include hrows

theorem State.mma_faulty {f : FaultInfo} (hr : s.mmaFault t minor q tl a b pos = some f) :
    s.mma t minor q tl sat a b pos = s.park t f := by
  simp only [State.mma, hf, ha, hb, if_neg hrows, Option.orElse_eq_or, hr, Option.or_none]

/-- An MMA that passes the checks waits until its lines can be pinned, and is handed to the engine with them. -/
theorem State.mma_pins (hr : s.mmaFault t minor q tl a b pos = none) {pins : List Nat}
    (hpins : mmaLines (s.groupOf t).ctx (t.mmaOps q a b).1 (t.mmaOps q a b).2 (t.mmaK q a b) (t.mmaRows minor pos)
      (mShape minor pos).2.1 = pins) :
    s.mma t minor q tl sat a b pos =
      if t.pinHeld = [] && pins ≠ [] && (s.pinQueue (s.groupOf t).core || !s.pinFits (s.groupOf t).core pins) then
        s.deschedule t (.pins pins s.clk)
      else s.startTile t (t.mmaPlan minor q tl sat a b pos pins) := by
  subst hpins
  simp only [State.mma, hf, ha, hb, if_neg hrows, Option.orElse_eq_or, hr, Option.or_none]
  rfl

end

/-- An MMA that completes as it issues has counted one more, and nothing else. -/
theorem Team.complete_number (t : Team) : let u := (t.number 1 true).1.complete 1 (t.number 1 true).2
    u.key = t.key ∧ u.regs = t.regs ∧ u.cnt = t.cnt ∧ u.tl.tile.issued = t.tl.tile.issued + 1 :=
  ⟨rfl, rfl, rfl, rfl⟩

/-- In a machine that traces in bounds, an instruction that does what an MMA does at issue is one: the premise is for the memory of an
MMA with no active row. -/
theorem State.TraceOk.mmaIssues {s : State} (h : s.TraceOk) {t : Team} (hteam : (s.team t.key).isSome = true)
    (hti : t.cnt.ti ≠ 0xFFFF) {i : Instr} {minor : Nat} {q : SReg} {tl : TReg} {sat a b : Bool} {pos : Nat}
    (hexec : exec i s = .next (s.mma t minor q tl sat a b pos).tick) : MmaIssues i s t minor q tl sat a b pos := by
  refine ⟨fun d hf => ?badFormat, fun hf => ⟨fun f hs => ?skewed, fun ha hb => ⟨fun hrows => ?noRows, fun hrows =>
    ⟨fun f hr => ?faulty, fun htile hbounds => ⟨fun hheld hpins hfull => ?waits, fun hfree => ?starts⟩⟩⟩⟩⟩
  case badFormat => rw [hexec, State.mma_badFormat hf]
  case skewed => rw [hexec, State.mma_skewed hf hs]
  case noRows =>
    obtain ⟨hk, hregs, hcnt, hissued⟩ := t.complete_number
    rw [State.mma_noRows hf ha hb hti hrows] at hexec
    generalize (t.number 1 true).1.complete 1 (t.number 1 true).2 = u at hexec hk hregs hcnt hissued
    obtain ⟨hteams, -, -⟩ := s.traceTl_keeps (t.number 1 true).1 u 1
    obtain ⟨hsame, -⟩ := h.traceTl (t.number 1 true).1 u 1
    have htops : (s.traceTl (t.number 1 true).1 u 1).tops = s.tops := by
      unfold State.traceTl
      split <;> simp
    generalize s.traceTl (t.number 1 true).1 u 1 = s1 at hexec hteams hsame htops
    obtain ⟨w, hw, hwregs, hwcnt, hwtl⟩ := State.team_retire_counts (s := s1) (t := u)
      (by rw [hk, State.team_congr hteams]; exact hteam)
    refine ⟨_, w, hexec, hk ▸ hw, hwregs.trans hregs, hwcnt.trans hcnt, by rw [hwtl, hissued], ?_, fun x hx => ?_⟩
    · rw [State.tick_tops, (State.retire_keeps _ _).2.2.2.2.2.2.1, htops]
    · rw [State.tick_mem, (State.retire_keeps _ _).1]
      exact hsame x hx
  case faulty => rw [hexec, State.mma_faulty hf ha hb hrows hr]
  case waits =>
    rw [hexec, State.mma_pins hf ha hb hrows (by rw [State.mmaFault, htile, hbounds]; rfl) rfl, if_pos]
    simpa [hheld, hpins] using hfull
  case starts =>
    rw [hexec, State.mma_pins hf ha hb hrows (by rw [State.mmaFault, htile, hbounds]; rfl) rfl, if_neg]
    · exact ⟨_, rfl, (State.startTile_begun hteam hti _).1⟩
    · intro hwait
      simp only [Bool.and_eq_true, decide_eq_true_eq, Bool.or_eq_true, Bool.not_eq_true'] at hwait
      obtain ⟨⟨hheld, hpins⟩, hfull⟩ := hwait
      obtain hh | hp | ⟨hq, hfit⟩ := hfree
      · exact hh hheld
      · exact hpins hp
      · simp [hq, hfit] at hfull

/-- In a machine that traces in bounds, each MMA issues as the rules ask: the clause of `Obligations.MatrixInstructions` that fails
without that premise. -/
theorem State.TraceOk.mmas {s : State} (h : s.TraceOk) {t : Team} {q : SReg} {tl : TReg} (hready : Ready s t 3 ((sgroup q 5).map .s))
    (hok : sgroupOk q 5 = true) (hcore : (s.groupOf t).core < 192) (htile : tl.toNat < (s.groupOf t).tiles.length)
    (hti : t.cnt.ti ≠ 0xFFFF) (st a b : Bool) (p1 : BitVec 1) (p2 : BitVec 2) :
    MmaIssues (.mma128x128 q tl st a b) s t 0 q tl st a b 0 ∧ MmaIssues (.mma128x64 q tl st a b p1) s t 1 q tl st a b p1.toNat ∧
      MmaIssues (.mma64x128 q tl st a b p1) s t 2 q tl st a b p1.toNat ∧
      MmaIssues (.mma64x64 q tl st a b p2) s t 3 q tl st a b p2.toNat ∧
      MmaIssues (.mma32x128 q tl st a b p2) s t 4 q tl st a b p2.toNat ∧
      MmaIssues (.mma128x32 q tl st a b p2) s t 5 q tl st a b p2.toNat := by
  have hmma {i : Instr} {minor pos : Nat} := h.mmaIssues (Option.isSome_of_eq_some (s.curTeam_team t hready.1).1) hti
    (i := i) (minor := minor) (q := q) (tl := tl) (sat := st) (a := a) (b := b) (pos := pos)
  have hissue := issue_mxInfo hready hok hcore htile
  exact ⟨hmma (hissue _), hmma (hissue _), hmma (hissue _), hmma (hissue _), hmma (hissue _), hmma (hissue _)⟩

/-! ### An MMA without rows in a machine where tracing overwrites more than its store -/

/-- A group with one valid tile. -/
def tileGroup : Group := { State.reset.groupAt 0 with tiles := [{ valid := true, bad := false, ovx := false }] }

/-- The team of `issuingTeam` with no lane active. -/
def restingTeam : Team := { issuingTeam with regs := { issuingTeam.regs with exec := 0 } }

/-- `overrun` where that team issues and its group has a tile. -/
def overrunTile : State := { overrun .running with teams := [restingTeam], groups := [tileGroup], cur := some 0 }

theorem overrunTile_ready (ds : List Dest) : Ready overrunTile restingTeam 3 ds :=
  ⟨rfl, rfl, rfl, rfl, fun _ ha => nomatch ha⟩

/-- An MMA with no active row completes as it issues, and the record of its completion leaves the trace store. -/
theorem overrunTile_mma : leftByte overrunAt (exec (.mma128x128 0 0 false false false) overrunTile) = some 1 := by decide +kernel

/-- Refutes O44: in `overrunTile` the trace record of the completion of an MMA with no active row changes a byte outside the trace
stores. What fails is the memory of that clause alone, for want of a premise that tracing stays in bounds: `State.TraceOk.mmas` has
the clauses on the MMAs with it, and `accumulatorsIssue` those on the other instructions without. -/
theorem not_matrixInstructions : ¬ Obligations.MatrixInstructions := by
  intro h
  obtain ⟨hmmas, -⟩ := h overrunTile restingTeam 0 0 0 false false false 0 0 (by decide) (by decide)
  obtain ⟨⟨-, hgood⟩, -⟩ := hmmas (overrunTile_ready _) rfl (by decide)
  obtain ⟨-, haligned⟩ := hgood (by decide +kernel)
  obtain ⟨hidle, -⟩ := haligned (by decide +kernel) (by decide +kernel)
  obtain ⟨s', u, hexec, -, -, -, -, -, hsame⟩ := hidle (by decide +kernel)
  have hleft := overrunTile_mma
  rw [hexec, leftByte_next, Option.some_inj, hsame overrunAt noTrace_overrunAt] at hleft
  exact absurd hleft (by decide)

end Sys2Proof.Machine
end

section
/-! A team that goes on from its record in a machine where tracing overwrites more than its store (O50). -/

namespace Sys2Proof.Machine

/-! ### PKRES of a spilled record (R412) -/

/-- A record of team 1 on die 0, at the start of its spill space: the four bytes that an image of no vector register begins with. -/
def spilledRec : Rec :=
  { id := 0, die := 0, idx := 0, gen := 0, kind := .team, st := .served, depth := 0, erst := false, rimg := false, fault := plainFault
    ctx := 0, gslot := 0, team := 1, tid := 0, part := 0, pool := 0, parts := 1, parkt := 0, deadline := 0, head := none
    origin := 0, pc := 0, woff := 0, imgva := 0, spill := 4, page := 0, waits := [], raised := false, entry := none, tuid := some 0 }

/-- The team of that record. -/
def spilledTeam : Team := { plainTeam (.parked 0) with key := 1 }

/-- A handler with an instruction to issue. -/
def handlerTeam : Team := { issuingTeam with handler := true }

/-- `overrun` where the handler issues, and a team has parked whose image is of the version that restores. -/
def overrunBar : State :=
  { overrun .running with
    teams := [handlerTeam, spilledTeam], recs := [spilledRec], cur := some 0, mem := [(homeB 0 0 + 2, 1)] }

/-- The image of that team. -/
def spilledImage : List Byte := Mem.readN overrunBar.mem (homeB 0 0) 4

/-- The team that the image holds. -/
def restoredTeam : Team := (spilledTeam.restore spilledImage overrunBar.clk).getD spilledTeam

theorem overrunBar_spilled : Spilled overrunBar spilledRec spilledTeam restoredTeam spilledImage :=
  ⟨rfl, rfl, rfl, rfl, rfl, rfl, by decide +kernel⟩

theorem overrunBar_atBar : AtBar overrunBar handlerTeam (handlerTeam.s 0) spilledRec :=
  ⟨rfl, rfl, by decide, by decide +kernel, by decide +kernel, fun _ => rfl⟩

theorem overrunBar_ready : Ready overrunBar handlerTeam 5 [.s 0, .s 1] :=
  ⟨rfl, rfl, rfl, rfl, fun _ ha => nomatch ha⟩

/-- The team goes on, and the record of its binding leaves the trace store. -/
theorem overrunBar_pkres : leftByte overrunAt (exec (.pkres 1 0) overrunBar) = some 1 := by decide +kernel

/-- Refutes O50: in `overrunBar` the trace record of the team that PKRES lets go on changes a byte outside the trace stores. The clause
lacks the premise that tracing stays in bounds. -/
theorem not_handlerInstructions : ¬ Obligations.HandlerInstructions := by
  intro h
  obtain ⟨-, -, hlocal⟩ := h overrunBar handlerTeam 1 0 0 rfl
  obtain ⟨-, -, -, -, -, hrec⟩ := hlocal (by decide +kernel) (by decide +kernel)
  obtain ⟨-, -, hdispose⟩ := hrec spilledRec overrunBar_atBar
  obtain ⟨hteam, -⟩ := hdispose (by decide +kernel) (by decide) (by decide +kernel)
  obtain ⟨hpkres, -⟩ := hteam spilledTeam restoredTeam spilledImage overrunBar_spilled (by decide +kernel) (by decide +kernel)
    (by decide +kernel)
  obtain ⟨s', ⟨hexec, -, -⟩, hsame, -⟩ := hpkres overrunBar_ready
  have hleft := overrunBar_pkres
  rw [hexec, leftByte_next, Option.some_inj, hsame overrunAt noTrace_overrunAt] at hleft
  exact absurd hleft (by decide +kernel)

end Sys2Proof.Machine
end

section
/-! Two loads of one core that wait for one line of another module (O58). -/

namespace Sys2Proof.Machine

/-! ### A reply whose line another load of the core waits for too (R135) -/

/-- A plain load of a team that has gone, from core 0, of one line of module 1, with its local part to come. -/
def farLoad (i : Nat) : Access :=
  { id := i, ctx := 0, team := 0, load := true, loc := true, reqs := [], svc := 0, buf := [], bad := [], acq := false
    rem := [{ rid := BitVec.ofNat 32 i, peer := some 1, addr := 0, lanes := [] }]
    fin := .none, dests := [], va := 0, plain := true
    who := some { gslot := 0, core := 0, depth := 0, serving := 0, tid := 0, pc := 0, woff := 0 } }

/-- A module that is up and waits for one line for two loads of a core. -/
def twoLoads : State := { State.reset with modl := { State.reset.modl with stage := 8 }, acc := [farLoad 1, farLoad 2] }

/-- The line, for the first of them. -/
def farReply : Packet :=
  { typ := 1, lane := false, src := 1, dst := 0, enc := false, cm := false, so := false, psn := 0, aop := 0, aty := 0
    aret := false, pa := 0, join := 0, rid := 1, mask := 0, data := 0, crcOk := true }

/-- Whether the lines of the accesses after a step may enter the L1. -/
def plainAfter : Out → List Bool
  | .next s => s.acc.map (·.plain)
  | _ => []

/-- The line does not enter the L1, and neither does it for the load that still waits. -/
theorem twoLoads_readReply : plainAfter (exec (.readReply farReply) twoLoads) = [false, false] := by decide +kernel

/-- An access that waits for its local part does not complete. -/
theorem State.settle_acc_of_loc (s : State) {a : Access} (h : a.loc = true) :
    (s.settle a).acc = s.acc.map (fun x => if x.id = a.id then a else x) := by
  rw [State.settle, if_pos (by rw [h]; rfl)]

/-- Refutes O58: in `twoLoads` two loads of a core wait for one line, and the reply to the first takes it away from both: neither may
enter the L1 (R135). The clause on replies has the other access unchanged. -/
theorem not_fabricEvents : ¬ Obligations.FabricEvents := by
  intro h
  obtain ⟨-, -, -, -, -, -, -, -, hreply, -⟩ := h twoLoads farReply 0
  obtain ⟨s1, hacc, -, hread, -⟩ := hreply (farLoad 1) (by decide) (by decide +kernel) (by decide +kernel) rfl rfl (by decide +kernel)
    (by decide +kernel)
  obtain ⟨-, hexec⟩ := hread (by decide +kernel)
  have hplain := twoLoads_readReply
  rw [hexec, plainAfter, State.settle_acc_of_loc _ rfl, hacc] at hplain
  exact absurd hplain (by decide)

end Sys2Proof.Machine
end

section
/-! A scrub in a memory that is not canonical (O59). -/

namespace Sys2Proof.Machine

/-! ### The reliability record of a scheduled test (R484, R491) -/

/-- The record, of type 1, that a unit which reaches a score is written with. -/
def testRecord (usec k n score : Nat) : List Byte :=
  leBytes 8 (1 * 2 ^ 56 + k * 2 ^ 52 + n * 2 ^ 40 + score * 2 ^ 32 + 0 * 2 ^ 20) ++ leBytes 8 (bits usec 43 0) ++ leBytes 8 0 ++
    leBytes 8 0

/-- Pips that bring a unit to the score of a test write the record of the test, in a ring that has room. -/
theorem State.addPips_mem_of_test {s : State} {k n amt : Nat} (hold : s.pips k n < 64) (hnew : 64 ≤ min 255 (s.pips k n + amt))
    (htests : s.rel.tests = []) (hring : s.rel.rlwp = [0, 0]) (hdie : unitDie k n = 0) :
    (s.addPips k n amt).mem = Mem.writeN s.mem (homeT 0 0) (testRecord s.usec k n (min 255 (s.pips k n + amt))) := by
  simp [State.addPips, hold, hnew, htests, hdie, State.relRecord, State.relRec, hring, testRecord, State.usec]

/-- A reliability record stands in the ring of its die. -/
theorem State.relRec_mem (s : State) (die typ k n p c d1 d2 : Nat) : ∃ bs,
    (s.relRec die typ k n p c d1 d2).mem = Mem.writeN s.mem (homeT die (s.rel.rlwp.getD die 0 % 32768 * 32)) bs := by
  simp only [State.relRec, apply_ite State.mem, State.notify_keeps, ite_self, exists_apply_eq_apply']

/-- Reliability records leave the memory below the rings as it was. -/
theorem State.Inv.relRec_mem_below {s : State} (h : s.Inv) (die typ k n p c d1 d2 : Nat) {x : Nat} (hx : x < 7 * 2 ^ 80) :
    Mem.read (s.relRec die typ k n p c d1 d2).mem x = Mem.read s.mem x := by
  obtain ⟨bs, hmem⟩ := s.relRec_mem die typ k n p c d1 d2
  rw [hmem, Mem.read_writeN_outside h]
  exact .inl (Nat.lt_of_lt_of_le hx ((Nat.le_add_right _ _).trans (Nat.le_add_right _ _)))

theorem State.Inv.relRecord_mem_below {s : State} (h : s.Inv) (die typ k n p c d1 d2 : Nat) {x : Nat} (hx : x < 7 * 2 ^ 80) :
    Mem.read (s.relRecord die typ k n p c d1 d2).mem x = Mem.read s.mem x := by
  unfold State.relRecord
  dsimp only
  split
  · exact (State.Inv.relRec_mem_below (h.relRec.of_mem) _ _ _ _ _ _ _ _ hx).trans (h.relRec_mem_below _ _ _ _ _ _ _ _ hx)
  · exact h.relRec_mem_below _ _ _ _ _ _ _ _ hx

theorem State.Inv.addPips_mem_below {s : State} (h : s.Inv) (k n amt : Nat) {x : Nat} (hx : x < 7 * 2 ^ 80) :
    Mem.read (s.addPips k n amt).mem x = Mem.read s.mem x := by
  unfold State.addPips
  dsimp only
  split
  · exact State.Inv.relRecord_mem_below h.of_mem _ _ _ _ _ _ _ _ hx
  · rfl

/-- A corrected error charges the unit that holds the byte, or, in memory, may have no unit. -/
theorem exec_patrolScrub_corrected {s : State} {a : Nat} (hscrub : s.scrubbed a = true) :
    exec (.patrolScrub a false) s = .next (if a < 2 ^ 80 ∧ s.choose.2 = false then s.choose.1
      else (s.choose.1.scrubFound (s.memUnit a)).addPips (s.memUnit a).1 (s.memUnit a).2 1) := by
  show execPatrolScrub a false s = _
  simp only [execPatrolScrub, hscrub, Bool.not_true, Bool.false_eq_true, if_false]
  exact (apply_ite Host.Outcome.next _ _ _).symm

theorem State.scrubFound_mem (s : State) (u : Nat × Nat) : (s.scrubFound u).mem = s.mem := rfl

/-- In a canonical memory a corrected error changes no byte of memory or the scratchpads. -/
theorem State.Inv.patrolScrub_corrected {s : State} (h : s.Inv) {a : Nat} (hscrub : s.scrubbed a = true) :
    ∃ s' : State, exec (.patrolScrub a false) s = .next s' ∧
      ∀ x, x < 5 * 2 ^ 80 → Mem.read s'.mem x = Mem.read s.mem x := by
  refine ⟨_, exec_patrolScrub_corrected hscrub, fun x hx => ?_⟩
  split
  · rfl
  · exact State.Inv.addPips_mem_below (h.of_mem (State.scrubFound_mem s.choose.1 _)) _ _ _ (hx.trans (by decide))

/-! ### A corrected error in memory whose addresses do not rise -/

/-- The bank group that holds the first byte of the chip scratchpad. -/
def firstBank : Nat := Config.granuleOf (homeH 0) % 768

/-- A memory whose first cell stands before one of a lower address; that bank group is one pip from a test. -/
def twistedMem : State :=
  { State.reset with
    mem := [(homeT 0 0, 1), (3, 7)]
    rel := { State.reset.rel with pips := [(3, firstBank, 63)], tests := [], rlwp := [0, 0] } }

theorem memUnit_firstByte (s : State) : s.memUnit (homeH 0) = (3, firstBank) :=
  show (3, 768 * 0 + Config.granuleOf (homeH 0) % 768) = _ by rw [firstBank, Nat.mul_zero, Nat.zero_add]

theorem unitDie_firstBank : unitDie 3 firstBank = 0 := Nat.div_eq_of_lt (Nat.mod_lt _ (by decide))

/-- The first byte of the record of a test is 0. -/
theorem testRecord_eq (usec k n score : Nat) : testRecord usec k n score = 0 :: (testRecord usec k n score).tail := by
  have hbyte : BitVec.ofNat 8 (1 * 2 ^ 56 + k * 2 ^ 52 + n * 2 ^ 40 + score * 2 ^ 32 + 0 * 2 ^ 20) = 0#8 :=
    BitVec.eq_of_toNat_eq (by simp only [BitVec.toNat_ofNat]; omega)
  exact congrArg (· :: (testRecord usec k n score).tail) hbyte

/-- The record removes the first cell of `twistedMem`, and byte 3 reads the one behind it. -/
theorem twistedMem_scrub : ∃ s' : State, exec (.patrolScrub (homeH 0) false) twistedMem = .next s' ∧ Mem.read s'.mem 3 = 7 := by
  refine ⟨_, exec_patrolScrub_corrected (by decide), ?_⟩
  rw [if_neg (by decide), memUnit_firstByte]
  have hpips : (twistedMem.choose.1.scrubFound (3, firstBank)).pips 3 firstBank = 63 := by
    simp [State.pips, State.scrubFound, State.choose, twistedMem]
  have hmem := State.addPips_mem_of_test (s := twistedMem.choose.1.scrubFound (3, firstBank)) (amt := 1) (by rw [hpips]; decide)
    (by rw [hpips]; decide) rfl rfl unitDie_firstBank
  have hhead : Mem.write [(homeT 0 0, 1), (3, 7)] (homeT 0 0) 0 = [(3, 7)] := by decide
  dsimp only
  rw [hmem, testRecord_eq, State.scrubFound_mem, State.choose, twistedMem, Mem.writeN, hhead, Mem.read_writeN_outside (by decide)]
  · decide
  · exact .inl (by decide)

/-- Refutes O59: in `twistedMem`, whose cells are not in order, the record of the test that a corrected error schedules uncovers a
byte of memory. The clause on corrected errors lacks the invariant: `State.Inv.patrolScrub_corrected` has it. -/
theorem not_hostAndReliabilityEvents : ¬ Obligations.HostAndReliabilityEvents := by
  intro h
  obtain ⟨-, -, -, -, -, -, -, -, -, -, -, -, -, -, -, ⟨-, hscrub⟩, -⟩ := h twistedMem (homeH 0) 0
  obtain ⟨-, -, s', hexec, -, hmem⟩ := hscrub (by decide)
  obtain ⟨s'', hexec', hread⟩ := twistedMem_scrub
  cases hexec.symm.trans hexec'
  have hout := hmem 3 (by decide)
  rw [hread] at hout
  exact absurd hout (by decide)

end Sys2Proof.Machine
end

section
/-! Control registers, TLBINV, the capability list and the handler table at SUPERVISOR or above (O48). -/

namespace Sys2Proof.Machine

/-- At PRIV 1 or above a ready team runs the effect of an instruction of major 57 (R396). -/
theorem issue_supervisor {s : State} {t : Team} {i : Info} (h : Ready s t 5 i.dests) (hpriv : (s.ctx (s.ctxOf t)).priv ≠ 0)
    (hi : i.PlainControl) (hlvl : i.lvl = 1) (k : Team → State → State) : issue i k s = .next (k t s).tick :=
  issue_ready (hi.eng.symm ▸ h) hi.bad (by simp [hi.pairs]) (by simp [hi.regs]) (by simp [hi.tiles]) hi.fmt
    (by simp [hi.xfer]) (by simp [hi.eng]) (fun _ => hpriv) (by simp [hlvl]) k

/-! ### TLBINV (R401, R402) -/

/-- The caches of a state hold no translation of a context for pages in a range. -/
def State.Flushed (s : State) (c lo hi : Nat) : Prop :=
  (∀ x ∈ s.tcache, x.2.1 = c → lvlMeets x.2.2.1 (x.2.2.2.1 <<< (lvlShift x.2.2.1 - 16)) lo hi = false) ∧
    ∀ k ∈ s.cores, ∀ x ∈ k.tlb, x.1 = c → lvlMeets x.2.2.1 x.2.1 lo hi = false

theorem State.flush_flushed (s : State) (c lo hi : Nat) : (s.flush c lo hi).Flushed c lo hi := by
  refine ⟨fun x hx hc => ?_, fun k hk x hx hc => ?_⟩
  · simpa [hc] using (List.mem_filter.mp hx).2
  · obtain ⟨k, -, rfl⟩ := List.mem_map.mp hk
    have hkept := (List.mem_filter.mp hx).2
    simp only [hc, beq_self_eq_true, Bool.true_and, Bool.not_eq_true', Bool.or_eq_false_iff] at hkept
    exact hkept.1

/-- What is flushed stays so when another context is. -/
theorem State.Flushed.flush {s : State} {c lo hi : Nat} (h : s.Flushed c lo hi) (c' : Nat) : (s.flush c' lo hi).Flushed c lo hi := by
  refine ⟨fun x hx => h.1 x (List.mem_filter.mp hx).1, fun k hk x hx => ?_⟩
  obtain ⟨k, hk', rfl⟩ := List.mem_map.mp hk
  exact h.2 k hk' x (List.mem_filter.mp hx).1

/-- The translations of contexts leave the caches. -/
def State.flushAll (s : State) (cs : List Nat) (lo hi : Nat) : State := cs.foldl (fun (s : State) i => s.flush i lo hi) s

theorem State.flushAll_flushed (s : State) (cs : List Nat) (lo hi : Nat) : ∀ e ∈ cs, (s.flushAll cs lo hi).Flushed e lo hi := by
  induction cs generalizing s with
  | nil => exact fun _ he => nomatch he
  | cons c cs ih =>
    intro e he
    obtain rfl | he := List.mem_cons.mp he
    · exact List.foldlRecOn (motive := fun (s : State) => s.Flushed e lo hi) cs _ (s.flush_flushed e lo hi) fun _ h c _ => h.flush c
    · exact ih (s.flush c lo hi) e he

/-- A flush is a change of the caches alone. -/
theorem State.flushAll_lookedUp (s : State) (cs : List Nat) (lo hi : Nat) : s.LookedUp (s.flushAll cs lo hi) :=
  List.foldlRecOn cs _ (.refl s) fun _ h _ _ => h.trans ⟨_, _, _, rfl⟩

section
variable (s : State) (cs ds : List Nat) (lo hi : Nat)

@[simp] theorem State.ctxIds_flushAll : (s.flushAll cs lo hi).ctxIds ds = s.ctxIds ds := by
  obtain ⟨_, _, _, h⟩ := s.flushAll_lookedUp cs lo hi
  rw [h, State.ctxIds, State.ctxIds]

@[simp] theorem State.engineRids_flushAll : (s.flushAll cs lo hi).engineRids ds = s.engineRids ds := by
  obtain ⟨_, _, _, h⟩ := s.flushAll_lookedUp cs lo hi
  rw [h]
  rfl

@[simp] theorem State.joinedModules_flushAll (c : Nat) : (s.flushAll cs lo hi).joinedModules c = s.joinedModules c := by
  obtain ⟨_, _, _, h⟩ := s.flushAll_lookedUp cs lo hi
  rw [h]
  rfl

end

/-- The end of TLBINV in a state whose caches it has flushed: it goes on, or waits for what was translated before. -/
def State.tlbDrain (s : State) (t : Team) (cs : List Nat) (far : List Nat) : State :=
  if s.ctxIds cs = [] ∧ s.engineRids cs = [] ∧ far = [] then s.retire t
  else s.retireWait t (.drain (s.ctxIds cs) (s.engineRids cs) far)

section
variable {s : State} {t : Team} {sc : BitVec 3} {a b : SReg} (h : Ready s t 5 [.s a, .s b])
  (hpriv : (s.ctx (s.ctxOf t)).priv ≠ 0) (hsc : sc = 3 ∨ sc = 4)
include h hpriv hsc

/-- What TLBINV does, check by check. -/
theorem exec_tlbinv {c n va : Nat} (hc : c = fld (t.s b) 63 52) (hn : n = fld (t.s b) 31 0)
    (hva : va = (t.s a).toNat / 65536 * 65536) {p : Nat × Nat}
    (hp : p = if n = 0 then (0, 2 ^ 36) else (va / 65536, va / 65536 + n)) : exec (.tlbinv sc a b) s = .next (State.tick
    (if fld (t.s b) 51 32 ≠ 0 then s.park t (mkF .illegalEncoding .reservedValue 0 0)
    else if (s.ctx (s.ctxOf t)).priv = 1 ∧ (s.ctx c).part ≠ (s.ctx (s.ctxOf t)).part then
      s.park t (mkF .protection .csrPartition va 0)
    else if n ≠ 0 ∧ 2 ^ 52 < va + n * 65536 then s.park t (mkF .spaceBounds .nonCanonical (max va (2 ^ 52)) 4)
    else if !s.settled t.key then s.deschedule t .sys
    else (s.flushAll (s.flushCtxs sc c) p.1 p.2).tlbDrain t (s.flushCtxs sc c)
      (if sc = 4 then (s.flushAll (s.flushCtxs sc c) p.1 p.2).joinedModules c else []))) := by
  subst hc hn hva hp
  exact issue_supervisor h hpriv { bad := if_pos hsc } rfl _

end

/-! ### HREG (R403, R404) -/

theorem State.sealedCtx_congr {s s' : State} (hctxs : s'.ctxs = s.ctxs) (hparts : s'.parts = s.parts) (c : Nat) :
    s'.sealedCtx c = s.sealedCtx c := by
  rw [State.sealedCtx, State.sealedCtx, State.ctx_congr hctxs, State.part, State.part, hparts]

/-- A handler in a context of this module that the team may not name, for an entry of context `c` (R404). -/
def State.hctxBad (s : State) (t : Team) (c : Nat) (d : List Dw) : Bool :=
  (s.localHctx d).any (fun h => ((s.ctx (s.ctxOf t)).priv == 1 && (s.ctx h).part != (s.ctx (s.ctxOf t)).part)
    || (s.sealedCtx c && (s.ctx h).part != (s.ctx c).part))

/-- The end of HREG with a key and a class in order: an entry removed, or read and installed. -/
def State.hregEntry (s : State) (t : Team) (d : SReg) (c k va : Nat) : State :=
  if va = 0 then (s.setEntry c k none).retire (t.setS d 0)
  else
    match s.vaRead (s.groupOf t).core (s.ctxOf t) va 32 with
    | (s1, .inl f) => s1.park t f
    | (s1, .inr bs) =>
      if descBad (leDws 4 bs) then s1.retire (t.setS d 1)
      else if s.hctxBad t c (leDws 4 bs) then s1.retire (t.setS d 2)
      else (s1.setEntry c k (some (leDws 4 bs))).retire (t.setS d 0)

section
variable {s : State} {t : Team} {d a b : SReg} (h : Ready s t 5 [.s a, .s b, .s d]) (hpriv : (s.ctx (s.ctxOf t)).priv ≠ 0)
include h hpriv

/-- What HREG does, check by check. -/
theorem exec_hreg {c k : Nat} (hc : c = fld (t.s a) 27 16) (hk : k = fld (t.s a) 7 0) : exec (.hreg d a b) s = .next (State.tick
    (if (t.s b).toNat % 32 ≠ 0 then s.park t (mkF .alignment .none (t.s b).toNat 32)
    else if !s.settled t.key then s.deschedule t .sys
    else if fld (t.s a) 63 28 ≠ 0 ∨ fld (t.s a) 15 8 ≠ 0 then s.retire (t.setS d 1)
    else if (s.ctx (s.ctxOf t)).priv == 1 && (s.ctx c).part != (s.ctx (s.ctxOf t)).part then s.retire (t.setS d 2)
    else if s.sealedCtx c && (s.ctx c).part != (s.ctx (s.ctxOf t)).part then
      s.park t (mkF .enclaveViolation .none (t.s a).toNat (s.ctx c).kid)
    else if !FaultClass.all.any (fun e => e.code == k) then s.retire (t.setS d 3)
    else s.hregEntry t d c k (t.s b).toNat)) := by
  subst hc hk
  refine (issue_supervisor h hpriv {} rfl _).trans ?_
  dsimp only
  congr 8
  unfold State.hregEntry
  rw [State.ctxOf]
  congr 1
  have hread := s.vaRead_hasRead (s.groupOf t).core (s.groupOf t).ctx (t.s b).toNat 32
  generalize s.vaRead (s.groupOf t).core (s.groupOf t).ctx (t.s b).toNat 32 = r at hread ⊢
  obtain ⟨s1, f | bs⟩ := r
  · rfl
  · obtain ⟨_, _, _, _, _, rfl, -⟩ := hread
    rfl

end

/-- A handler of the context's own partition may always be named. -/
theorem State.hctxBad_eq_false {s : State} {t : Team} {c : Nat} {ds : List Dw}
    (hown : (s.ctx c).part = (s.ctx (s.ctxOf t)).part ∨ (s.ctx (s.ctxOf t)).priv ≠ 1 ∧ s.sealedCtx c = false)
    (hh : ∀ h, s.localHctx ds = some h →
      (s.ctx h).part = (s.ctx c).part ∨ (s.ctx (s.ctxOf t)).priv ≠ 1 ∧ s.sealedCtx c = false) :
    s.hctxBad t c ds = false := by
  cases hl : s.localHctx ds with
  | none => simp [State.hctxBad, hl]
  | some x =>
    obtain hx | ⟨hpriv, hsealed⟩ := hh x hl
    · obtain hown | ⟨hpriv, hsealed⟩ := hown
      · simp [State.hctxBad, hl, hx, hown]
      · simp [State.hctxBad, hl, hx, hpriv]
    · simp [State.hctxBad, hl, hpriv, hsealed]

/-! ### The statement -/

/-- Settles O48: each instruction comes to its checks, one after another. -/
theorem privilegedInstructions : Obligations.PrivilegedInstructions := by
  intro s s1 t d a b sc r hpriv
  refine ⟨fun h => ?_, fun h => ?_, fun h => ?_⟩
  · have hissue := issue_supervisor (i := { sr := [a], sw := [d], eng := 5, lvl := 1 }) h hpriv {} rfl
    refine ⟨fun hr => ?_, fun f hf => ?_, fun hal => ?_, fun hal => ?_⟩
    · exact (hissue _).trans (by rw [hr])
    · exact (hissue _).trans (by rw [hf])
    · exact (hissue _).trans (by rw [if_neg (not_not.mpr hal)])
    · exact (hissue _).trans (by rw [if_pos hal])
  · have hwrite := issue_supervisor (i := { sr := [a, b], eng := 5, lvl := 1, stop := true }) h hpriv {} rfl
    refine ⟨fun f hf => ?_, fun hr => ⟨fun hs => ?_, fun hs => ⟨fun hset => ?_, fun x hset => ?_⟩⟩, ?_⟩
    · exact (hwrite _).trans (by rw [hf])
    · exact (hwrite _).trans (by rw [hr, hs]; rfl)
    · exact (hwrite _).trans (by simp only [hr, hs, hset]; rfl)
    · exact (hwrite _).trans (by simp only [hr, hs, hset]; rfl)
    intro hsc c n va lo hi hc hn hva hp
    have hexec := exec_tlbinv h hpriv hsc hc hn hva hp
    refine ⟨fun hres => ?_, fun hres h1 hpart => ?_, fun hres hown => ⟨fun h0 hva => ?_, fun hrange => ⟨fun hs => ?_, fun hs => ?_⟩⟩⟩
    · rw [hexec, if_pos hres]
    · rw [hexec, if_neg (not_not.mpr hres), if_pos ⟨h1, hpart⟩]
    · rw [hexec, if_neg (not_not.mpr hres), if_neg (fun hx => hx.2 (hown hx.1)), if_pos ⟨h0, hva⟩]
    all_goals
      have hin : ¬(n ≠ 0 ∧ 2 ^ 52 < va + n * 65536) := by omega
      rw [hexec, if_neg (not_not.mpr hres), if_neg (fun hx => hx.2 (hown hx.1)), if_neg hin, hs]
    · rfl
    obtain ⟨_, _, _, he⟩ := s.flushAll_lookedUp (s.flushCtxs sc c) lo hi
    refine ⟨s.flushAll (s.flushCtxs sc c) lo hi, ?_, by rw [he], by rw [he], s.flushAll_flushed _ lo hi⟩
    simp only [State.tlbDrain, State.ctxIds_flushAll, State.engineRids_flushAll, State.joinedModules_flushAll]
    have hfar : (if sc = 4 then s.joinedModules c else []) = [] ↔ (sc = 4 → s.joinedModules c = []) := by
      split
      next h4 => exact ⟨fun hj _ => hj, fun hj => hj h4⟩
      next h4 => exact ⟨fun _ h4' => absurd h4' h4, fun _ => rfl⟩
    simp only [hfar, Bool.not_true, Bool.false_eq_true, if_false]
    exact congrArg Host.Outcome.next (apply_ite State.tick _ _ _)
  · refine ⟨fun hal => ?_, fun hal hs => ?_, fun hal hs c k hc hk => ?_⟩
    all_goals have hexec := exec_hreg (d := d) h hpriv rfl rfl
    · rw [hexec, if_pos hal]
    · rw [hexec, if_neg (not_not.mpr hal), hs]
      rfl
    have hexec := exec_hreg (d := d) h hpriv hc hk
    rw [if_neg (not_not.mpr hal), hs, if_neg (by decide)] at hexec
    refine ⟨fun hres => ?_, fun hhi hlo => ?_⟩
    · rw [hexec, if_pos hres]
    rw [if_neg (not_or.mpr ⟨not_not.mpr hhi, not_not.mpr hlo⟩)] at hexec
    refine ⟨fun h1 hpart => ?_, fun h1 hsealed hpart => ?_, fun hown => ?_⟩
    · rw [hexec, if_pos (by simp [h1, hpart])]
    · rw [hexec, if_neg (by simp [h1]), if_pos (by simp [hsealed, hpart])]
    rw [if_neg (by grind), if_neg (by grind)] at hexec
    refine ⟨fun hclass => ?_, fun hclass => ⟨fun hb => ?_, fun hb bs hread => ?_⟩⟩
    · rw [hexec, hclass]
      rfl
    · rw [hexec, hclass, hb]
      rfl
    have hne : (t.s b).toNat ≠ 0 := fun h0 => hb (BitVec.eq_of_toNat_eq h0)
    rw [hclass, if_neg (by decide), State.hregEntry, if_neg hne, hread] at hexec
    dsimp only at hexec
    refine ⟨fun hbad => ?_, fun hbad hh => ?_⟩
    · rw [hexec, if_pos hbad]
    · rw [hexec, if_neg (by rw [hbad]; decide), State.hctxBad_eq_false hown hh]
      rfl

end Sys2Proof.Machine
end

section
/-! Faults taken at a clause boundary, and a clause boundary in a machine where two teams have one number (O51). -/

namespace Sys2Proof.Machine

/-! ### The fault of a boundary, taken by the team of its number (R40) -/

theorem Team.owe_woff (t : Team) (f : FaultInfo) : (t.owe f).woff = t.woff := by
  unfold Team.owe
  split <;> rfl

theorem Team.owe_key (t : Team) (f : FaultInfo) : (t.owe f).key = t.key := by
  unfold Team.owe
  split <;> rfl

/-- A run budget that runs out leaves every team where it stands. -/
theorem State.runOut_team (s : State) (g : Group) (k : Nat) : ((s.runOut g).team k).map (·.woff) = (s.team k).map (·.woff) := by
  unfold State.runOut
  split
  · dsimp only [State.team, State.fresh, State.modGroup]
    rw [List.find?_map, Option.map_map]
    congr 1
    · funext t
      simp only [Function.comp_apply]
      split <;> simp [Team.owe_woff]
    · congr 1
      funext t
      simp only [Function.comp_apply]
      split <;> simp [Team.owe_key]
  · rfl

theorem State.expireBudgets_woff {s : State} {t : Team} (ht : s.team t.key = some t) : (s.expireBudgets t).2.woff = t.woff := by
  unfold State.expireBudgets
  dsimp only
  split
  · rfl
  · have hcur : ((if t.pdOut s.clk = true then s.pdEnd t else s).team t.key).map (·.woff) = some t.woff := by
      split
      · have hself : (s.fresh.1.team ({ t with pdis := false, pdLeft := 0 }.owe
            (budgetF (s.groupOf t).pdBud s.fresh.2)).key).isSome = true := by
          rw [Team.owe_key]
          exact Option.isSome_of_eq_some ht
        have hput := State.team_putTeam_self _ _ hself
        rw [Team.owe_key] at hput
        exact (congrArg (Option.map (·.woff)) hput).trans (by rw [Option.map_some, Team.owe_woff])
      · rw [ht, Option.map_some]
    rw [← State.runOut_team _ (s.groupOf t), Option.map_eq_some_iff] at hcur
    obtain ⟨u, hu, hwoff⟩ := hcur
    rw [hu]
    exact hwoff

/-- At a boundary the team that a core chooses takes the fault that is due, where no other team has its number. -/
theorem exec_clauseIssue_boundary {s s1 : State} {core : Nat} {t t1 t2 : Team} {f : FaultInfo} (hchoice : s.choice core = some t)
    (ht : s.team t.key = some t) (hclause : t.clause = none) (hwoff : t.woff = 0) (hexp : s.expireBudgets t = (s1, t1))
    (hfault : (t1.applyWindow (s1.groupOf t1).ovReg).boundary = some (f, t2)) :
    exec (.clauseIssue core) s = .next (s1.park t2 f) := by
  have hwoff1 : t1.woff = 0 := by rw [← hwoff, ← State.expireBudgets_woff ht, hexp]
  have hwindow : (t1.applyWindow (s1.groupOf t1).ovReg).woff = 0 := hwoff1
  show execClauseIssue core s = _
  simp only [execClauseIssue, hchoice, State.resume, hclause, Option.isSome_none, Bool.false_eq_true, if_false, State.openClause,
    hwoff, if_true, hexp, hwoff1, hwindow, hfault]

/-! ### A run budget that runs out (R48) -/

/-- A group whose run budget has run out. -/
def spentGroup : Group := { State.reset.groupAt 0 with budget := some 0 }

/-- A team in the middle of a clause at an address that no clause has. -/
def midTeam : Team := { plainTeam .running with woff := 1, pc := 1, age := 1 }

/-- Such a team, and before it in age one of the same number at the boundary of a clause. -/
def oneNumber : State := { State.reset with teams := [midTeam, plainTeam .running], groups := [spentGroup] }

/-- The number of faults that are due for each team after a step. -/
def faultsDue : Out → List Nat
  | .next s => s.teams.map (·.due.length)
  | _ => []

/-- The machine at that boundary, and the team it then has by that number. -/
def spentBoundary : State × Team := oneNumber.expireBudgets (plainTeam .running)

/-- That team, with the fault that is due. -/
def boundaryTeam : Team := spentBoundary.2.applyWindow (spentBoundary.1.groupOf spentBoundary.2).ovReg

/-- The team parks for its address, with the fault of the budget still due. -/
theorem oneNumber_clauseIssue : faultsDue (exec (.clauseIssue 0) oneNumber) = [1, 1] := by decide +kernel

/-- Refutes O51: in `oneNumber` the run budget runs out at the boundary that the chosen team stands at, and the fault is due for the other
team of its number, which is not at a boundary and does not take it. The clause lacks the premise that the team chosen is the one of its
number: `exec_clauseIssue_boundary` has it. -/
theorem not_clauseIssue : ¬ Obligations.ClauseIssue := by
  intro h
  obtain ⟨-, hboundary, -⟩ := h 0 oneNumber (plainTeam .running) (plainTeam .running) (by decide +kernel)
  have hexec := hboundary rfl rfl spentBoundary.1 spentBoundary.2 { boundaryTeam with due := [] } (budgetF (2 ^ spentGroup.budLog) oneNumber.uid)
    rfl (by decide +kernel)
  have hfaults := oneNumber_clauseIssue
  rw [hexec] at hfaults
  exact absurd hfaults (by decide +kernel)

end Sys2Proof.Machine
end

section
/-! What the front end changes of the machine as it serves a queue: memory and what its accesses touch, and the queue itself
(O56, O57). -/

namespace Sys2Proof.Machine

/-! ### Accesses of the front end (R414, R418) -/

/-- From one state to another the front end only read and wrote memory, and told the host. -/
def State.FeAccess (s s' : State) : Prop :=
  ∃ mem teams tcache cores free scopes rel peers batches uid hostOut modl, s' = { s with
    mem := mem, teams := teams, tcache := tcache, cores := cores, free := free, scopes := scopes, rel := rel, peers := peers
    batches := batches, uid := uid, hostOut := hostOut, modl := modl }

theorem State.FeAccess.refl (s : State) : s.FeAccess s := ⟨_, _, _, _, _, _, _, _, _, _, _, _, rfl⟩

theorem State.FeAccess.trans {s s' s'' : State} (h : s.FeAccess s') (h' : s'.FeAccess s'') : s.FeAccess s'' := by
  obtain ⟨_, _, _, _, _, _, _, _, _, _, _, _, rfl⟩ := h
  obtain ⟨_, _, _, _, _, _, _, _, _, _, _, _, rfl⟩ := h'
  exact ⟨_, _, _, _, _, _, _, _, _, _, _, _, rfl⟩

theorem State.FeAccess.of_fst {α : Type} {s s' : State} {p : State × α} {x : α} (h : s.FeAccess p.1) (e : p = (s', x)) :
    s.FeAccess s' := by
  rwa [e] at h

theorem State.FeAccess.lq {s s' : State} (h : s.FeAccess s') (c q : Nat) : s'.lq c q = s.lq c q := by
  obtain ⟨_, _, _, _, _, _, _, _, _, _, _, _, rfl⟩ := h
  rfl

theorem State.HasRead.feAccess {s s' : State} (h : s.HasRead s') : s.FeAccess s' := by
  obtain ⟨_, _, _, _, _, rfl, -⟩ := h
  exact ⟨_, _, _, _, _, _, _, _, _, _, _, _, rfl⟩

theorem State.Queued.feAccess {s s' : State} (h : s.Queued s') : s.FeAccess s' := by
  obtain ⟨_, _, _, rfl⟩ := h
  exact ⟨_, _, _, _, _, _, _, _, _, _, _, _, rfl⟩

/-- An access without the caches of the cores, which stand. -/
theorem State.FeAccess.without_cores {s s' : State} (h : ({ s with cores := [] } : State).FeAccess s') (cs : List Core) :
    s.FeAccess { s' with cores := cs } := by
  obtain ⟨_, _, _, _, _, _, _, _, _, _, _, _, rfl⟩ := h
  exact ⟨_, _, _, _, _, _, _, _, _, _, _, _, rfl⟩

theorem State.setScope_feAccess (s : State) (line : Nat) (p : Party) (sc : Nat) : s.FeAccess (s.setScope line p sc) :=
  ⟨_, _, _, _, _, _, _, _, _, _, _, _, rfl⟩

theorem State.perform_feAccess (s : State) (a : Nat) (bs : List Byte) : s.FeAccess (s.perform a bs) :=
  ⟨_, _, _, _, _, _, _, _, _, _, _, _, rfl⟩

theorem State.notify_feAccess (s : State) (d0 d1 vec : Nat) : s.FeAccess (s.notify d0 d1 vec) := by
  unfold State.notify
  dsimp only
  split <;> exact ⟨_, _, _, _, _, _, _, _, _, _, _, _, rfl⟩

theorem State.engRead_feAccess (s : State) (die c va n : Nat) : s.FeAccess (s.engRead die c va n).1 :=
  (State.vaRead_hasRead { s with cores := [] } _ c va n).feAccess.without_cores _

theorem State.feMark_feAccess (s : State) (c va : Nat) : s.FeAccess (s.feMark c va) := by
  have hrun := (State.xlateRun_lookedUp { s with cores := [] } 0 c .load {} va 1).hasRead.feAccess
  unfold State.feMark
  split
  next s' p ps e =>
    have h := (hrun.of_fst e).without_cores s.cores
    dsimp only
    split
    · exact h.trans (State.setScope_feAccess _ _ _ _)
    · split
      · exact h.trans (State.setScope_feAccess _ _ _ _)
      · exact h
  next => exact .refl s

theorem State.writeAcked_feAccess (s : State) (ctx : Nat) (ps : List Page) (va : Nat) (bs : List Byte) :
    s.FeAccess (s.writeAcked ctx ps va bs).1 := by
  refine List.foldlRecOn (motive := fun (r : State × List (Wd × Nat) × Nat) => s.FeAccess r.1) _ _ (.refl s) fun r h q _ => ?_
  have hmark := h.trans (r.1.markAD_hasRead q.1.ea true).feAccess
  dsimp only
  split
  · exact hmark.trans (State.perform_feAccess _ _ _)
  · exact (hmark.trans ⟨_, _, _, _, _, _, _, _, _, _, _, _, rfl⟩).trans (State.queuePkts_queued _ _ _).feAccess
  · exact hmark.trans ⟨_, _, _, _, _, _, _, _, _, _, _, _, rfl⟩

theorem State.feWriteN_feAccess (s : State) (c va : Nat) (bs : List Byte) : s.FeAccess (s.feWriteN c va bs).1 := by
  have hrun := (State.xlateRun_lookedUp { s with cores := [] } 0 c .store {} va (pagesOf va bs.length)).hasRead.feAccess
  unfold State.feWriteN
  split
  next e => exact (hrun.of_fst e).without_cores s.cores
  next s' ps e =>
    have h := ((hrun.of_fst e).without_cores s.cores).trans (State.writeAcked_feAccess _ c ps va bs)
    exact List.foldlRecOn _ _ h fun s' h i _ => h.trans (s'.feMark_feAccess _ _)

theorem State.feWrite_feAccess (s : State) (c va : Nat) (v : Dw) : s.FeAccess (s.feWrite c va v).1 := s.feWriteN_feAccess c va _

theorem State.feRead_feAccess (s : State) (c va : Nat) : s.FeAccess (s.feRead c va).1 := by
  have hread := s.engRead_feAccess 0 c va 8
  unfold State.feRead
  split
  next e => exact hread.of_fst e
  next e => exact (hread.of_fst e).trans (State.feMark_feAccess _ _ _)

theorem State.feLink_feAccess (s : State) (c va : Nat) : s.FeAccess (s.feLink c va).1 := by
  have hread := s.engRead_feAccess 0 c va 8
  unfold State.feLink
  split
  next e => exact hread.of_fst e
  next e =>
    dsimp only
    split
    · exact (hread.of_fst e).trans (State.feMark_feAccess _ _ _)
    · exact hread.of_fst e

theorem State.fePacket_feAccess (s : State) (c va : Nat) (exp : Option Wd) : s.FeAccess (s.fePacket c va exp).1 := by
  have hread := s.engRead_feAccess 0 c va 8
  unfold State.fePacket
  split
  next e => exact hread.of_fst e
  next s1 bs e =>
    have h := hread.of_fst e
    dsimp only
    split
    · exact h
    · split
      · exact h
      · have hread' := s1.engRead_feAccess 0 c va (8 * pktLen (fld (BitVec.ofNat 64 (leNat bs)) 63 56))
        split
        next e' => exact h.trans (hread'.of_fst e')
        next e' => exact h.trans (hread'.of_fst e')

theorem State.feLinked_feAccess (s : State) (c : Nat) (f : Frame) : s.FeAccess (s.feLinked c f) := by
  unfold State.feLinked
  split
  · exact s.feMark_feAccess c _
  · exact .refl s

theorem State.feNext_feAccess (s : State) (c : Nat) (f : Frame) : s.FeAccess (s.feNext c f).1 := by
  unfold State.feNext
  split
  · exact .refl s
  split
  next s1 dst hdst =>
  have h1 : s.FeAccess s1 := by
    split at hdst
    · obtain ⟨rfl, -⟩ := Prod.mk.inj hdst
      exact .refl s
    · have hlink := s.feLink_feAccess c f.link
      split at hdst
      next e =>
        obtain ⟨rfl, -⟩ := Prod.mk.inj hdst
        exact hlink.of_fst e
      next e =>
        have h := hlink.of_fst e
        (repeat' split at hdst) <;> obtain ⟨rfl, -⟩ := Prod.mk.inj hdst <;> exact h
  split
  · exact h1
  next va =>
    have hpkt := h1.trans (s1.fePacket_feAccess c va (some f.exp))
    dsimp only
    split
    next e => exact hpkt.of_fst e
    next e => exact hpkt.of_fst e
    next e => exact (hpkt.of_fst e).trans (State.feLinked_feAccess _ _ _)

theorem State.feAhead_feAccess (s : State) (c : Nat) (f : Frame) (n : Nat) : s.FeAccess (s.feAhead c f n).1 := by
  induction n generalizing s f with
  | zero => exact .refl s
  | succ n ih =>
    have hnext := s.feNext_feAccess c f
    unfold State.feAhead
    split
    · exact .refl s
    split
    next e =>
      dsimp only
      split
      · exact .refl s
      · exact (hnext.of_fst e).trans (ih _ _)
    next e => exact hnext.of_fst e

/-! ### The queue that is served -/

/-- What a queue of a context and number keeps while it is served: nothing of where it stands in its chain. -/
structure QueueFact (c q : Nat) (P : LaunchQ → Prop) : Prop where
  ctx : ∀ x, P x → x.ctx = c
  num : ∀ x, P x → x.q = q
  moved : ∀ x state code pva frames cur reread firstRead sigs acks sigDue, P x → P { x with
    state := state, code := code, pva := pva, frames := frames, cur := cur, reread := reread, firstRead := firstRead
    sigs := sigs, acks := acks, sigDue := sigDue }

/-- A state in which the launches stand as in another, and a queue with some fact of it. -/
structure State.Serves (s0 : State) (c q : Nat) (P : LaunchQ → Prop) (s : State) : Prop where
  launches : s.launches = s0.launches
  lq : ∃ x, s.lq c q = some x ∧ P x

section
variable {s0 s s' : State} {c q : Nat} {P : LaunchQ → Prop} {x : LaunchQ}

theorem State.Serves.access (h : s0.Serves c q P s) (ha : s.FeAccess s') : s0.Serves c q P s' := by
  obtain ⟨_, _, _, _, _, _, _, _, _, _, _, _, rfl⟩ := ha
  exact ⟨h.launches, h.lq⟩

variable (hP : QueueFact c q P) (h : s0.Serves c q P s)
include hP h

/-- The queue replaced by one of which the fact holds. -/
theorem State.Serves.putLq (hx : P x) : s0.Serves c q P (s.putLq x) := by
  obtain ⟨y, hy, hPy⟩ := h.lq
  exact ⟨h.launches, x, State.lq_putLq hy ((hP.ctx x hx).trans (hP.ctx y hPy).symm) ((hP.num x hx).trans (hP.num y hPy).symm), hx⟩

theorem State.Serves.fePage (hctx : x.ctx = c) (hq : x.q = q) (off : Nat) (v : Dw) : s0.Serves c q P (s.fePage x off v) := by
  unfold State.fePage
  have hw := h.access (s.feWrite_feAccess x.ctx (x.page + off) v)
  generalize s.feWrite x.ctx (x.page + off) v = r at hw ⊢
  obtain ⟨y, hy, hPy⟩ := hw.lq
  dsimp only
  rw [hctx, hq, hy]
  exact hw.putLq hP (hP.moved y _ _ _ _ _ _ _ _ _ _ hPy)

theorem State.Serves.feState (hx : P x) : s0.Serves c q P (s.feState x) :=
  (h.putLq hP hx).fePage hP (hP.ctx x hx) (hP.num x hx) _ _

theorem State.Serves.feFault (hx : P x) (code pva : Nat) : s0.Serves c q P (s.feFault x code pva) :=
  (h.feState hP (hP.moved x _ _ _ _ _ _ _ _ _ _ hx)).access (State.notify_feAccess _ _ _ _)

theorem State.Serves.feStall (hx : P x) (f : Frame) (r : Fetch) : s0.Serves c q P (s.feStall x f r) := by
  have htop : P (x.setTop f) := hP.moved x _ _ _ _ _ _ _ _ _ _ hx
  unfold State.feStall
  split
  · exact h.feState hP (hP.moved _ _ _ _ _ _ _ _ _ _ _ htop)
  · refine h.putLq hP ?_
    split
    · exact hP.moved _ _ _ _ _ _ _ _ _ _ _ htop
    · exact htop
  · exact h.feFault hP hx _ _
  · exact h.putLq hP htop

theorem State.Serves.feBegin (hx : P x) (f : Frame) (va : Nat) (d : List Dw) : s0.Serves c q P (s.feBegin x f va d) :=
  (h.access (s.feAhead_feAccess x.ctx f 8)).feState hP (hP.moved x _ _ _ _ _ _ _ _ _ _ hx)

omit h in
theorem State.Serves.feGo (h : s0.Serves c q P s) (hx : P x) (n : Nat) : s0.Serves c q P (s.feGo x n) := by
  induction n generalizing s x with
  | zero => exact h.putLq hP hx
  | succ n ih =>
    have htop (f : Frame) : P (x.setTop f) := hP.moved x _ _ _ _ _ _ _ _ _ _ hx
    have htaken {s : State} (h : s0.Serves c q P s) (f : Frame) (va : Nat) (d : List Dw) :
        s0.Serves c q P (if f.skip = 0 then s.feBegin x f va d else s.feGo (x.setTop (f.skipped d)) n) := by
      split
      · exact h.feBegin hP hx _ _ _
      · exact ih h (htop _)
    unfold State.feGo
    split
    · exact h.putLq hP hx
    next f rest hframes =>
    split
    · split
      · split
        · exact ih h (htop _)
        · exact ih h (htop _)
      next va d hat =>
        dsimp only
        have hread : s0.Serves c q P (if d.isEmpty = true then s.fePacket x.ctx va none else (s, PktRead.ok d)).1 := by
          split
          · exact h.access (s.fePacket_feAccess x.ctx va none)
          · exact h
        generalize (if d.isEmpty = true then s.fePacket x.ctx va none else (s, PktRead.ok d)) = r at hread ⊢
        obtain ⟨s1, r⟩ := r
        dsimp only at hread ⊢
        split
        · exact hread.putLq hP hx
        · exact hread.feFault hP hx _ _
        split
        · exact hread.feFault hP hx _ _
        next d' _ =>
          have hlinked (g : Frame) : s0.Serves c q P (if d.isEmpty = true then s1.feLinked x.ctx g else s1) := by
            split
            · exact hread.access (s1.feLinked_feAccess x.ctx g)
            · exact hread
          exact htaken (hlinked _) _ _ _
    · split
      · exact htaken h _ _ _
      · have hnext := s.feNext_feAccess x.ctx f
        split
        next e =>
          dsimp only
          split
          · exact (h.access (hnext.of_fst e)).feBegin hP hx _ _ _
          · exact ih (h.access (hnext.of_fst e)) (hP.moved _ _ _ _ _ _ _ _ _ _ _ (htop _))
        next e => exact ih (h.access (hnext.of_fst e)) (hP.moved x _ _ _ _ _ _ _ _ _ _ hx)
        next e => exact (h.access (hnext.of_fst e)).feStall hP hx _ _

/-- The TLSIG writes of a queue, of which a fact holds whatever SIGCNT is. -/
theorem State.Serves.feSigs (hsig : ∀ x n, P x → P { x with sigcnt := n }) (n : Nat) : s0.Serves c q P (s.feSigs c q n) := by
  induction n generalizing s with
  | zero => exact h
  | succ n ih =>
    unfold State.feSigs
    split
    · exact h
    next x hx =>
    obtain ⟨y, hy, hPy⟩ := h.lq
    obtain rfl : x = y := Option.some.inj (hx.symm.trans hy)
    split
    · exact h
    split
    · exact ih ((h.putLq hP (hP.moved x _ _ _ _ _ _ _ _ _ _ hPy)).fePage hP (hP.ctx x hPy) (hP.num x hPy) _ _)
    split
    · exact h
    next pv va ls r _ =>
      dsimp only
      split
      · exact h
      · have hw := h.access (s.feWrite_feAccess c va (x.sigcnt + 1))
        have hx' := hP.moved _ x.state x.code x.pva x.frames x.cur x.reread x.firstRead r x.acks true (hsig x (x.sigcnt + 1) hPy)
        generalize s.feWrite c va (x.sigcnt + 1) = w at hw ⊢
        obtain ⟨s1, w⟩ := w
        cases w with
        | none => exact hw.feFault hP hx' _ _
        | some acks => exact ih (hw.putLq hP (hP.moved _ _ _ _ _ _ _ _ _ _ _ hx'))

theorem State.Serves.feSig (hsig : ∀ x n, P x → P { x with sigcnt := n }) : s0.Serves c q P (s.feSig c q) := by
  unfold State.feSig
  split
  · exact h.feSigs hP hsig _
  · exact h

/-- A queue at rest goes on, its TLSIG writes made. -/
theorem State.Serves.goOn : s0.Serves c q P (match s.lq c q with
    | some x => if x.acks = [] ∧ x.cur = none ∧ x.state < 2 then s.feGo x feFuel else s
    | none => s) := by
  obtain ⟨x, hx, hPx⟩ := h.lq
  rw [hx]
  dsimp only
  split
  · exact State.Serves.feGo hP h hPx _
  · exact h

theorem State.Serves.feRest (hsig : ∀ x n, P x → P { x with sigcnt := n }) : s0.Serves c q P (s.feRest c q) :=
  (h.feSig hP hsig).goOn hP

end

/-- A queue put in its own place. -/
theorem State.serves_putLq {s : State} {P : LaunchQ → Prop} {x y : LaunchQ} (hy : s.lq x.ctx x.q = some y) (hx : P x) :
    s.Serves x.ctx x.q P (s.putLq x) := by
  have hown := List.find?_some hy
  simp only [Bool.and_eq_true, beq_iff_eq] at hown
  exact ⟨rfl, x, State.lq_putLq hy hown.1.symm hown.2.symm, hx⟩

/-- A packet of a queue is done: the fact holds of the queue that goes on. -/
theorem State.serves_feDone {s : State} {P : LaunchQ → Prop} {x y : LaunchQ} (hP : QueueFact x.ctx x.q P)
    (hsig : ∀ x n, P x → P { x with sigcnt := n }) (hl : ∀ x l, P x → P { x with launched := l })
    (hy : s.lq x.ctx x.q = some y) (hx : P x) : s.Serves x.ctx x.q P (s.feDone x) :=
  (State.serves_putLq (x := { x with cur := none, state := 1, launched := x.launched.filter fun l => !s.launchOver x.ctx l }) hy
    (hl _ _ (hP.moved x 1 x.code x.pva x.frames none x.reread x.firstRead x.sigs x.acks x.sigDue hx))).feRest hP hsig

end Sys2Proof.Machine
end

section
/-! Packets of a command chain, and how a queue goes on (O57). -/

namespace Sys2Proof.Machine

/-! ### Posted launches (R426) -/

/-- The launches posted are handed over one after another: they are appended, and nothing else but the numbers given changes. -/
theorem State.handOvers_eq (s : State) (c : Nat) (ps : List (List Dw × Origin × List Nat)) :
    ∃ ls uid, ps.foldl (fun (s : State) p => (s.handOver c p.1 p.2.2).1) s = { s with launches := s.launches ++ ls, uid := uid } ∧
      ∀ p ∈ ps, ∃ l ∈ ls, l.dws = p.1 ∧ l.parents = p.2.2 ∧ l.ctx = c := by
  induction ps generalizing s with
  | nil => exact ⟨[], s.uid, by simp, fun _ hp => nomatch hp⟩
  | cons p ps ih =>
    obtain ⟨ls, uid, heq, hall⟩ := ih (s.handOver c p.1 p.2.2).1
    refine ⟨{ id := s.uid, ctx := c, dws := p.1, parents := p.2.2, arrival := s.clk, resv := [], ended := [], kAlloc := [] } :: ls,
      uid, ?_, ?_⟩
    rotate_left
    · intro p' hp'
      obtain rfl | hp' := List.mem_cons.mp hp'
      · exact ⟨_, List.mem_cons_self, rfl, rfl, rfl⟩
      · obtain ⟨l, hl, h⟩ := hall p' hp'
        exact ⟨l, List.mem_cons_of_mem _ hl, h⟩
    · rw [List.foldl_cons, heq]
      simp [State.handOver, State.fresh]

/-- A posted launch that may go is handed over, in a context that runs. -/
theorem State.handPosted_launches {s : State} {c q : Nat} {x : LaunchQ} (hx : s.lq c q = some x) (hen : (s.ctx c).en = true)
    (hrst : (s.ctx c).rst = 0) : ∀ p ∈ x.posted, s.over p.2.1 = true →
      ∃ l ∈ (s.handPosted c q).launches, l.dws = p.1 ∧ l.parents = p.2.2 ∧ l.ctx = c := by
  intro p hp hover
  have hgo : s.handPosted c q = (x.posted.filter fun p => s.over p.2.1).foldl (fun (s : State) p => (s.handOver c p.1 p.2.2).1)
      (s.putLq { x with posted := x.posted.filter (fun p => !s.over p.2.1) }) := by
    have hctx : (s.putLq { x with posted := x.posted.filter (fun p => !s.over p.2.1) }).ctx c = s.ctx c := rfl
    unfold State.handPosted
    simp [hx, hctx, hen, hrst]
  obtain ⟨ls, uid, heq, hall⟩ := State.handOvers_eq (s.putLq { x with posted := x.posted.filter (fun p => !s.over p.2.1) }) c
    (x.posted.filter fun p => s.over p.2.1)
  obtain ⟨l, hl, h⟩ := hall p (List.mem_filter.mpr ⟨hp, hover⟩)
  rw [hgo, heq]
  exact ⟨l, List.mem_append_right _ hl, h⟩

theorem State.handPosted_clk (s : State) (c q : Nat) : (s.handPosted c q).clk = s.clk := by
  unfold State.handPosted
  split
  · rfl
  · dsimp only
    split
    · rfl
    · obtain ⟨ls, uid, heq, -⟩ := State.handOvers_eq _ c _
      rw [heq]
      rfl

/-! ### A packet that runs (R421, R422) -/

/-- How a queue goes on from what its packet has come to. -/
def State.pktEnd (r : State × LaunchQ × PktDone) : State :=
  match r with
  | (s, x, .bad code) => s.pktFault x code
  | (s, x, .held) => if x.state = 0 then s.feState x else s.putLq x
  | (s, x, .done) => if x.closing then s.lqEnd x else s.feDone x

section
variable {s s0 : State} {c q va : Nat} {d : List Dw} {x y : LaunchQ} (hy : s.lq c q = some y) (hcur : y.cur = some (va, d))
include hy hcur

/-- A packet of another TYPE, or of a queue that has stopped, does not run. -/
theorem State.pktRun_other {ty : Nat} (h : 2 ≤ y.state ∨ pktType d ≠ ty) : s.pktRun c q ty = s := by
  unfold State.pktRun
  rw [hy]
  dsimp only
  rw [hcur]
  dsimp only
  rw [if_pos (by simpa [or_comm] using h)]

variable (hst : y.state < 2) (hs0 : s0 = s.handPosted c q) (hx : s0.lq c q = some x)
include hst hs0 hx

/-- A packet that may not run yet waits, the posted launches handed over. -/
theorem State.pktRun_waits (hready : s0.pktReady x d = false) : s.pktRun c q (pktType d) = s0 := by
  subst hs0
  unfold State.pktRun
  rw [hy]
  dsimp only
  rw [hcur]
  dsimp only
  rw [if_neg (by simp [hst]), hx]
  dsimp only
  rw [if_pos (by rw [hready]; rfl)]

/-- A packet that may run has its effect. -/
theorem State.pktRun_ready (hready : s0.pktReady x d = true) : s.pktRun c q (pktType d) = State.pktEnd (s0.pktDo x va d) := by
  subst hs0
  unfold State.pktRun
  rw [hy]
  dsimp only
  rw [hcur]
  dsimp only
  rw [if_neg (by simp [hst]), hx]
  dsimp only
  rw [if_neg (by rw [hready]; decide)]
  rfl

end

/-! ### The packets (R422) -/

section
variable {s0 : State} {x : LaunchQ} {va : Nat} {d : List Dw}

theorem State.pktEnd_done {s : State} (hcl : x.closing = false) : State.pktEnd (s, x, .done) = s.feDone x := by
  simp [State.pktEnd, hcl]

/-- A launch without error is handed to the distributor. -/
theorem State.pktDo_launch (hty : pktType d = 1) (he : s0.launchError x.ctx d = none) :
    s0.pktDo x va d = ((s0.handOver x.ctx d []).1, { x with launched := x.launched ++ [s0.uid] }, .done) := by
  simp [State.pktDo, hty, State.pktLaunch, he, State.handOver, State.fresh]

/-- A launch refused leaves its error and its SEQ in the queue. -/
theorem State.pktDo_refused {e : Nat} (hty : pktType d = 1) (he : s0.launchError x.ctx d = some e) :
    ∃ s1 acks, s0.FeAccess s1 ∧ s0.pktDo x va d = (s1, { x with lerr := e, lseq := pktSeq d, acks := x.acks ++ acks }, .done) :=
  ⟨_, _, s0.feWrite_feAccess x.ctx (x.page + 0x18) (BitVec.ofNat 64 (e * 2 ^ 56 + (pktSeq d).toNat)),
    by simp only [State.pktDo, hty, State.pktLaunch, he]; rfl⟩

/-- The depth of the packet in execution may hold the body of a LOOP: its passes begin, or are skipped. -/
theorem State.pktDo_loop {f g : Frame} {r : List Frame} {s1 : State} (hty : pktType d = 4) (hframes : x.frames = f :: r)
    (hbody : f.body = []) (hahead : s0.feAhead x.ctx f 8 = (s1, g)) (hlen : (g.ahead.take (pktN d)).length = pktN d)
    (hflat : (g.ahead.take (pktN d)).any (fun p => pktType p.2 == 4 || pktType p.2 == 10) = false) :
    s0.pktDo x va d = (s1, { x with
      reread := 0
      frames := { g with
        ahead := g.ahead.drop (pktN d)
        body := if fld (d.getD 1 0) 7 0 = 0 then [] else g.ahead.take (pktN d)
        at_ := 0
        passes := fld (d.getD 1 0) 7 0 } :: r }, .done) := by
  simp only [State.pktDo, hty, State.pktLoop, hframes, hbody, hahead, hflat, hlen]
  rfl

end

/-- The launch of a packet is among those of the machine, and the queue goes on. -/
theorem State.feDone_handOver {s0 : State} {x : LaunchQ} {d : List Dw} (hx : s0.lq x.ctx x.q = some x) :
    ∃ l ∈ ((s0.handOver x.ctx d []).1.feDone { x with launched := x.launched ++ [s0.uid] }).launches,
      l.dws = d ∧ l.ctx = x.ctx ∧ l.arrival = s0.clk := by
  have hserves := State.serves_feDone (s := (s0.handOver x.ctx d []).1) (P := fun y => y.ctx = x.ctx ∧ y.q = x.q)
    (x := { x with launched := x.launched ++ [s0.uid] }) ⟨fun _ h => h.1, fun _ h => h.2, fun _ _ _ _ _ _ _ _ _ _ _ h => h⟩
    (fun _ _ h => h) (fun _ _ h => h) hx ⟨rfl, rfl⟩
  rw [hserves.launches]
  exact ⟨_, List.mem_append_right _ List.mem_cons_self, rfl, rfl, rfl⟩

/-- A queue that goes on after a launch was refused keeps its error and its SEQ. -/
theorem State.feDone_refused {s0 s1 : State} {x : LaunchQ} {e : Nat} {seq : Wd} {acks : List Wd} (hx : s0.lq x.ctx x.q = some x)
    (hs1 : s0.FeAccess s1) :
    ∃ y, (s1.feDone { x with lerr := e, lseq := seq, acks := acks }).lq x.ctx x.q = some y ∧ y.lerr = e ∧ y.lseq = seq := by
  obtain ⟨y, hy, -, -, hlerr, hlseq⟩ := (State.serves_feDone
    (P := fun y => y.ctx = x.ctx ∧ y.q = x.q ∧ y.lerr = e ∧ y.lseq = seq) (x := { x with lerr := e, lseq := seq, acks := acks })
    ⟨fun _ h => h.1, fun _ h => h.2.1, fun _ _ _ _ _ _ _ _ _ _ _ h => h⟩ (fun _ _ h => h) (fun _ _ h => h)
    ((hs1.lq x.ctx x.q).trans hx) ⟨rfl, rfl, rfl, rfl⟩).lq
  exact ⟨y, hy, hlerr, hlseq⟩

theorem next_congr {s s' : State} (h : s = s') : (.next s : Out) = .next s' := congrArg _ h

/-- Settles O57: the packet in execution is the one of the queue once its posted launches are handed over (`State.pktRun_ready`);
a launch handed over or an error noted stands through all the queue goes on to do (`State.serves_feDone`). -/
theorem frontEndEvents : Obligations.FrontEndEvents := by
  intro s s0 c q va d x y
  refine ⟨fun hy hcur => ?other, fun hy hcur hst hs0 hx hready => ?waits, fun _ hst hy hcur hs0 hx hcl _ hready hty => ?launch,
    fun _ hst hy hcur hs0 hx hcl _ hready hty => ?ib, fun _ hst hy hcur hs0 hx hcl _ hready hty s1 => ?pred,
    fun _ hst hy hcur hs0 hx hcl _ hready hty f g r s1 hframes => ?loop,
    fun _ hst hy hcur hs0 hx hcl _ hready hty s1 => ?wrmem,
    fun _ hst hy hcur hs0 hx hcl _ hready hty s1 m hread => ?waitmem,
    fun _ hst hy hcur hs0 hx hcl _ hready hty => ?ffence, fun _ hst hy hcur hs0 hx hcl _ hready hty => ?tlsig,
    fun _ hst hy hcur hs0 hx hcl _ hready hty => ?nop, fun _ hst hy hcur hs0 hx hcl _ hready hty => ?link,
    fun hx => ?wake, fun hx => ?reread, fun hx hen hrst => ⟨_, rfl, State.handPosted_launches hx hen hrst⟩, ?place⟩
  case other =>
    have hother {ty : Nat} (h : 2 ≤ y.state ∨ pktType d ≠ ty) : (.next (s.pktRun c q ty) : Out) = .next s :=
      next_congr (State.pktRun_other hy hcur h)
    exact ⟨hother, hother, hother, hother, hother, hother, hother, hother, hother⟩
  case waits =>
    have hwaits {ty : Nat} (h : pktType d = ty) : (.next (s.pktRun c q ty) : Out) = .next s0 :=
      h ▸ next_congr (State.pktRun_waits hy hcur hst hs0 hx hready)
    exact ⟨hwaits, hwaits, hwaits, hwaits, hwaits, hwaits, hwaits, hwaits, hwaits⟩
  case wake =>
    refine ⟨fun h => ?_, fun h hreread => ⟨fun hcur hacks => ?_, fun hcur hacks => ?_, fun hcur hty => ?_, fun hcur hty hst => ?_⟩⟩
    · simp only [exec, execFrontEndMonitorWake, hx, if_pos h]
    all_goals
      have hgo : ¬(2 ≤ x.state ∧ x.closing = false ∨ x.reread ≠ 0) := by
        rw [hreread]
        cases hc : x.closing <;> simp_all
      simp only [exec, execFrontEndMonitorWake, hx, if_neg hgo, hcur]
    · simp [hacks]
    · simp [hacks]
    · simp [hty, execWaitmem]
    · simp [hty, hst, execLoop]
  case reread =>
    refine ⟨fun h => ?_, fun hdue hacks => ⟨fun hcur => ?_, fun hcur hty => ?_⟩⟩
    · have hnot : (!s.rereadDue x || !x.acks.isEmpty) = true := by simpa using h
      simp only [exec, execCommandSeqReread, hx, if_pos hnot]
    · simp [exec, execCommandSeqReread, hx, hdue, hacks, hcur]
    · simp [exec, execCommandSeqReread, hx, hdue, hacks, hcur, hty]
  case place =>
    exact ⟨fun h => by simp only [exec, execPlacementStep, h], fun l h => by simp only [exec, execPlacementStep, h]⟩
  all_goals
    obtain ⟨rfl, rfl⟩ : x.ctx = c ∧ x.q = q := by simpa using List.find?_some hx
    have hrun := State.pktRun_ready hy hcur hst hs0 hx hready
    rw [hty] at hrun
    have hdone {s1 : State} {z : LaunchQ} (h : s0.pktDo x va d = (s1, z, .done)) (hz : z.closing = false) :
        s.pktRun x.ctx x.q (pktType d) = s1.feDone z := by
      rw [hty, hrun, h, State.pktEnd_done hz]
    have hbad {s1 : State} {z : LaunchQ} {code : Nat} (h : s0.pktDo x va d = (s1, z, .bad code)) :
        s.pktRun x.ctx x.q (pktType d) = s1.pktFault z code := by
      rw [hty, hrun, h]
      rfl
    rw [hty] at hdone hbad
  case launch =>
    refine ⟨fun he => ?_, fun e he => ?_⟩
    · obtain ⟨l, hl, hdws, hctx, harr⟩ := State.feDone_handOver (d := d) hx
      refine ⟨_, l, next_congr (hdone (State.pktDo_launch hty he) hcl), hl, hdws, hctx, harr.trans ?_⟩
      rw [hs0, State.handPosted_clk]
    · obtain ⟨s1, acks, hs1, hdo⟩ := State.pktDo_refused (va := va) hty he
      obtain ⟨z, hz, h⟩ := State.feDone_refused (e := e) (seq := pktSeq d) (acks := x.acks ++ acks) hx hs1
      exact ⟨_, z, next_congr (hdone hdo hcl), hz, h⟩
  case ib =>
    refine ⟨fun h => next_congr (hdone ?_ hcl), fun h => next_congr (hbad ?_)⟩
    · simp only [State.pktDo, hty, State.pktIb, if_neg (Nat.not_le.mpr h)]
    · simp only [State.pktDo, hty, State.pktIb, if_pos h]
  case pred =>
    refine ⟨fun m hread => next_congr (hdone ?_ ?_), fun hread => next_congr (hbad ?_)⟩
    · simp only [State.pktDo, hty, State.pktPred, hread]
    · unfold LaunchQ.skip
      split
      · split <;> exact hcl
      · exact hcl
    · simp only [State.pktDo, hty, State.pktPred, hread]
  case loop =>
    refine ⟨fun hbody => next_congr (hbad ?_), fun hbody hahead hlen hflat => next_congr (hdone
      (State.pktDo_loop hty hframes hbody hahead hlen hflat) hcl)⟩
    simp only [State.pktDo, hty, State.pktLoop, hframes, if_pos hbody]
  case wrmem =>
    refine ⟨fun acks hwrite => next_congr (hdone (z := { x with acks := x.acks ++ acks }) ?_ hcl),
      fun hwrite => next_congr (hbad ?_)⟩ <;>
      simp only [State.pktDo, hty, State.pktWrmem, hwrite]
  case waitmem =>
    refine ⟨fun hcmp => next_congr (hdone ?_ hcl), fun hcmp => next_congr ?_⟩
    · simp only [State.pktDo, hty, State.pktWaitmem, hread, if_pos hcmp]
    · have hheld : s0.pktDo x va d = (s1, x, .held) := by
        simp only [State.pktDo, hty, State.pktWaitmem, hread, hcmp, Bool.false_eq_true, if_false]
      rw [hrun, hheld]
      rfl
  case ffence => exact next_congr (hdone (by simp only [State.pktDo, hty]) hcl)
  case tlsig =>
    have hsigs : s0.pktDo x va d = (s0, { x with sigs := x.sigs ++ [(va, (d.getD 1 0).toNat, x.launched)] }, .done) := by
      simp only [State.pktDo, hty]
    exact congrArg (fun s : State => (.next (s.feSig x.ctx x.q) : Out)) (hdone hsigs hcl)
  case nop => exact next_congr (hdone (by simp only [State.pktDo, hty]) hcl)
  case link => exact next_congr (hdone (by simp only [State.pktDo, hty]) hcl)

end Sys2Proof.Machine
end

section
/-! What a write of a control register comes to: contexts, partitions, ranges, launch queues (O56). -/

namespace Sys2Proof.Machine

/-! ### Bits and fields of a register written -/

theorem setFld_top_toNat (x : Dw) (v : Nat) : (setFld x 63 63 v).toNat = 2 ^ 63 * (v % 2) + x.toNat % 2 ^ 63 := by
  have hand : x.toNat &&& 2 ^ 63 = (x.toNat.testBit 63).toNat * 2 ^ 63 := Nat.and_two_pow _ _
  have hbit : (x.toNat.testBit 63).toNat = x.toNat / 2 ^ 63 % 2 := by rw [Nat.testBit_eq_decide_div_mod_eq]; grind
  have hlt := x.isLt
  simp only [setFld, BitVec.toNat_ofNat, Nat.shiftLeft_eq]
  norm_num at hand hbit ⊢
  omega

/-- The top bit of a doubleword set. -/
theorem flag_setFld_top (x : Dw) (v i : Nat) : flag (setFld x 63 63 v) i = if i < 63 then flag x i else (v % 2).testBit (i - 63) := by
  unfold flag
  rw [setFld_top_toNat, Nat.testBit_two_pow_mul_add _ (Nat.mod_lt _ (by decide))]
  split
  next h => rw [Nat.testBit_mod_two_pow]; simp [h]
  next => rfl

theorem flag_and (x y : Dw) (i : Nat) : flag (x &&& y) i = (flag x i && flag y i) := by
  simp [flag]

theorem eq_of_flag_eq {x y : Dw} (h : ∀ i, flag x i = flag y i) : x = y := BitVec.eq_of_toNat_eq (Nat.eq_of_testBit_eq h)

theorem fld_setFld_top (x : Dw) (v hi lo : Nat) (h : hi < 63) : fld (setFld x 63 63 v) hi lo = fld x hi lo := by
  refine Nat.eq_of_testBit_eq fun i => ?_
  have hflag := flag_setFld_top x v (lo + i)
  unfold flag at hflag
  simp only [fld, bits, Nat.testBit_mod_two_pow, Nat.testBit_shiftRight, hflag]
  by_cases hi' : i < hi + 1 - lo
  · rw [if_pos (by omega)]
  · simp [hi']

theorem fld_and (x y : Dw) (hi lo : Nat) : fld (x &&& y) hi lo = fld x hi lo &&& fld y hi lo := by
  simp [fld, bits, Nat.shiftRight_and_distrib, Nat.and_mod_two_pow]

/-! ### Contexts switched on and off (R497) -/

/-- A reset asked for leaves the other registers of its context, and every other context. -/
theorem State.ctx_askReset (s : State) (c k : Nat) :
    ∃ r, (s.askReset c).ctx k = { s.ctx k with rst := r } ∧ (k ≠ c → r = (s.ctx k).rst) := by
  unfold State.askReset
  rw [State.ctx_modCtx _ _ _ _ (fun x => by split <;> rfl)]
  split
  next h =>
    subst h
    split
    · exact ⟨1, rfl, fun h => absurd rfl h⟩
    · exact ⟨_, rfl, fun _ => rfl⟩
  next => exact ⟨_, rfl, fun _ => rfl⟩

/-- A record of the rings for reliability is a write of memory, of which the host may be told. -/
theorem State.relRec_feAccess (s : State) (die typ k n p c d1 d2 : Nat) : s.FeAccess (s.relRec die typ k n p c d1 d2) := by
  have hmem (mem rel) : s.FeAccess { s with mem := mem, rel := rel } := ⟨_, _, _, _, _, _, _, _, _, _, _, _, rfl⟩
  unfold State.relRec
  dsimp only
  split
  · exact (hmem _ _).trans (State.notify_feAccess _ _ _ _)
  · exact hmem _ _

theorem State.relRecord_feAccess (s : State) (die typ k n p c d1 d2 : Nat) : s.FeAccess (s.relRecord die typ k n p c d1 d2) := by
  have hrec := s.relRec_feAccess die typ k n p c d1 d2
  unfold State.relRecord
  dsimp only
  split
  · exact (hrec.trans ⟨_, _, _, _, _, _, _, _, _, _, _, _, rfl⟩).trans (State.relRec_feAccess _ _ _ _ _ _ _ _ _)
  · exact hrec

/-- The run of a context ends: its other registers stand, and its launches and groups. -/
theorem State.endRun_ends (s : State) (c : Nat) : ((s.endRun c).ctx c).run = false ∧
    (s.endRun c).launches = s.launches ∧ (s.endRun c).groups = s.groups := by
  unfold State.endRun
  split
  · have hrun : ((s.modCtx c fun x => { x with run := false, voids := 0 }).ctx c).run = false := by simp [State.ctx_modCtx]
    have hstand : (s.modCtx c fun x => { x with run := false, voids := 0 }).launches = s.launches ∧
      (s.modCtx c fun x => { x with run := false, voids := 0 }).groups = s.groups := ⟨rfl, rfl⟩
    dsimp only
    generalize (s.modCtx c fun x => { x with run := false, voids := 0 }) = s1 at hrun hstand ⊢
    obtain ⟨_, _, _, _, _, _, _, _, _, _, _, _, heq⟩ := s1.relRecord_feAccess 0 9 15 0 0 c (s.ctx c).voids 0
    rw [heq]
    exact ⟨hrun, hstand⟩
  next h => exact ⟨Bool.eq_false_iff.mpr h, rfl, rfl⟩

/-- The launches of a context that have not begun are discarded; nothing but the launches changes. -/
theorem State.discard_eq (s : State) (c : Nat) : ∃ ls, s.discard c = { s with launches := ls } ∧ ∀ l ∈ ls, l.ctx = c → s.begun l := by
  have hfold : ∃ ls, (s.launches.filter fun l => l.ctx == c).foldl State.unreserveAll s = { s with launches := ls } :=
    List.foldlRecOn (motive := fun s' => ∃ ls, s' = { s with launches := ls }) _ _ ⟨_, rfl⟩ (by
      rintro _ ⟨ls, rfl⟩ l -
      exact ⟨_, rfl⟩)
  obtain ⟨ls, heq⟩ := hfold
  unfold State.discard
  dsimp only
  rw [heq]
  refine ⟨_, rfl, fun l hl hctx => ?_⟩
  have hkept : (l.ctx != c || s.begun l) = true := (List.mem_filter.mp hl).2
  simpa [hctx] using hkept

/-- A write of CTXCTL by the host that its rules allow. -/
theorem State.setCtl_ok {s : State} {c : Nat} {v : Dw} (hpriv : fld v 61 60 ≠ 3) (hbud : fld v 20 0 ≤ 2 ^ 20) (hkid : s.kidBad v = false)
    (hsame : (s.ctx c).en = true → ∀ hi lo, hi < 63 → fld v hi lo = fld (s.ctx c).ctl hi lo) (s1 s2 : State)
    (hs1 : s1 = s.modCtx c fun x => { x with ctl := setFld (v &&& ctlMask) 63 63 (b2n x.en) })
    (hs2 : s2 = if flag v 63 && !(s.ctx c).en then s1.ctxOn c else if !flag v 63 && (s.ctx c).en then s1.ctxOff c else s1) :
    s.setCtl false c v = .ok s2 ∨ s.setCtl false c v = .ok (s2.askReset c) := by
  have hstand : ¬((s.ctx c).en && !(fld v 61 60 == fld (s.ctx c).ctl 61 60 && fld v 59 57 == fld (s.ctx c).ctl 59 57 &&
      fld v 56 56 == fld (s.ctx c).ctl 56 56 && fld v 53 48 == fld (s.ctx c).ctl 53 48)) = true := by
    intro h
    obtain ⟨hen, h⟩ := Bool.and_eq_true_iff.mp h
    have hsame := hsame hen
    simp [hsame 61 60 (by decide), hsame 59 57 (by decide), hsame 56 56 (by decide), hsame 53 48 (by decide)] at h
  subst hs2 hs1
  unfold State.setCtl
  dsimp only
  rw [if_neg (by simp), if_neg hpriv, if_neg (by simp), if_neg hstand, if_neg (by simp [hkid]; omega)]
  split
  · exact .inr rfl
  · exact .inl rfl

/-- A context switched on runs, in a determinism run if it asks for one. -/
theorem State.setCtl_on {s : State} {c : Nat} (hen : (s.ctx c).en = false) (hpriv : fld (setFld (s.ctx c).ctl 63 63 1) 61 60 ≠ 3)
    (hbud : fld (setFld (s.ctx c).ctl 63 63 1) 20 0 ≤ 2 ^ 20) (hkid : s.kidBad (setFld (s.ctx c).ctl 63 63 1) = false) :
    ∃ s', s.setCtl false c (setFld (s.ctx c).ctl 63 63 1) = .ok s' ∧ (s'.ctx c).en = true ∧ (s'.ctx c).run = (s.ctx c).detm ∧
      s'.mem = s.mem ∧ ∀ j, j ≠ c → s'.ctx j = s.ctx j := by
  have hok := State.setCtl_ok hpriv hbud hkid (fun h => nomatch hen.symm.trans h) _ _ rfl rfl
  have hv : flag (setFld (s.ctx c).ctl 63 63 1) 63 = true := by simp [flag_setFld_top]
  rw [hv, hen] at hok
  simp only [Bool.not_false, Bool.and_self, if_true] at hok
  generalize hs2 : State.ctxOn _ c = s2 at hok
  have hon : (s2.ctx c).en = true ∧ (s2.ctx c).run = (s.ctx c).detm ∧ s2.mem = s.mem ∧ ∀ j, j ≠ c → s2.ctx j = s.ctx j := by
    subst hs2
    refine ⟨?_, ?_, rfl, fun j hj => ?_⟩
    · simp [State.ctxOn, State.ctx_modCtx, Ctx.en, flag_setFld_top]
    · have hmask : flag ctlMask 56 = true := by decide
      simp [State.ctxOn, State.ctx_modCtx, Ctx.detm, flag_setFld_top, flag_and, hmask]
    · simp [State.ctxOn, State.ctx_modCtx, hj]
  obtain ⟨hon, hrun, hmem, helse⟩ := hon
  obtain hok | hok := hok
  · exact ⟨s2, hok, hon, hrun, hmem, helse⟩
  · obtain ⟨r, hc, -⟩ := s2.ctx_askReset c c
    refine ⟨_, hok, by rw [hc]; exact hon, by rw [hc]; exact hrun, hmem, fun j hj => ?_⟩
    obtain ⟨r, hc, hr⟩ := s2.ctx_askReset c j
    rw [hc, hr hj, ← helse j hj]

/-- A context switched off runs no more, and none of its launches stands that has not begun. -/
theorem State.setCtl_off {s : State} {c : Nat} (hen : (s.ctx c).en = true) (hpriv : (s.ctx c).priv ≠ 3) (hbud : (s.ctx c).pdbud ≤ 2 ^ 20)
    (hkid : s.kidBad (setFld (s.ctx c).ctl 63 63 0) = false) :
    ∃ s', s.setCtl false c (setFld (s.ctx c).ctl 63 63 0) = .ok s' ∧ (s'.ctx c).en = false ∧ (s'.ctx c).run = false ∧
      ∀ l ∈ s'.launches, l.ctx = c → s'.begun l = true := by
  have hsame (hi lo : Nat) (h : hi < 63) := fld_setFld_top (s.ctx c).ctl 0 hi lo h
  have hok := State.setCtl_ok (v := setFld (s.ctx c).ctl 63 63 0) (by rwa [hsame 61 60 (by decide)]) (by rwa [hsame 20 0 (by decide)]) hkid
    (fun _ => hsame) _ _ rfl rfl
  have hv : flag (setFld (s.ctx c).ctl 63 63 0) 63 = false := by simp [flag_setFld_top]
  rw [hv, hen] at hok
  simp only [Bool.not_false, Bool.not_true, Bool.and_self, Bool.false_eq_true, if_true, if_false] at hok
  generalize s.modCtx c _ = s1 at hok
  have hoff : ((s1.ctxOff c).ctx c).en = false ∧ ((s1.ctxOff c).ctx c).run = false ∧
      ∀ l ∈ (s1.ctxOff c).launches, l.ctx = c → (s1.ctxOff c).begun l = true := by
    obtain ⟨ls, hdis, hbegun⟩ := s1.discard_eq c
    obtain ⟨hrun, hls, hgroups⟩ := (s1.discard c).endRun_ends c
    refine ⟨?_, ?_, fun l hl hctx => ?_⟩
    · simp [State.ctxOff, State.ctx_modCtx, Ctx.en, flag_setFld_top]
    · simp [State.ctxOff, State.ctx_modCtx, hrun]
    · have hl' : l ∈ ls := by
        have hlaunches : (s1.ctxOff c).launches = ls := hls.trans (by rw [hdis])
        rwa [hlaunches] at hl
      have hb := hbegun l hl' hctx
      have hgroups' : (s1.ctxOff c).groups = s1.groups := hgroups.trans (by rw [hdis])
      unfold State.begun at hb ⊢
      rwa [hgroups']
  obtain ⟨hoff, hrun, hbegun⟩ := hoff
  obtain hok | hok := hok
  · exact ⟨_, hok, hoff, hrun, hbegun⟩
  · obtain ⟨r, hc, -⟩ := (s1.ctxOff c).ctx_askReset c c
    exact ⟨_, hok, by rw [hc]; exact hoff, by rw [hc]; exact hrun, hbegun⟩

/-! ### Partitions (R392, R494, R495) -/

theorem State.part_set {s : State} {p : Nat} {x : Part} (h : p < s.parts.length) : ({ s with parts := s.parts.set p x } : State).part p = x :=
  (s.part_modPart p p (fun _ => x) h).trans (if_pos rfl)

/-- A partition beyond the last holds the reset values, and is not enabled. -/
theorem State.part_en_lt {s : State} {p : Nat} (h : (s.part p).en = true) : p < s.parts.length := by
  by_contra hlt
  have hinit : s.part p = Part.init := by simp [State.part, List.getD_eq_getElem?_getD, List.getElem?_eq_none (Nat.not_lt.mp hlt)]
  rw [hinit] at h
  exact absurd h (by decide)

/-- The bit for enabling of a partition's register stands. -/
theorem flag_partMask (v : Dw) : flag (v &&& 0xF000000000FFFFFF) 63 = flag v 63 := by
  rw [flag_and, show flag 0xF000000000FFFFFF 63 = true by decide, Bool.and_true]

/-- A write of a partition's first register that sets or clears EN. -/
theorem State.setPart_en (s : State) (p b : Nat) (hlend : (s.part p).lend ≠ 3) :
    s.setPart p 0 (setFld (s.part p).ctl 63 63 b) =
      if (s.part p).en && ({ s.part p with ctl := setFld (setFld (s.part p).ctl 63 63 b &&& 0xF000000000FFFFFF) 63 63 1 } != s.part p) then
        .error .partitionActive
      else if (b % 2).testBit 0 && !(s.part p).en then
        s.partOn p { s.part p with ctl := setFld (s.part p).ctl 63 63 b &&& 0xF000000000FFFFFF }
      else if (s.part p).en && !(b % 2).testBit 0 then .ok (s.partOff p)
      else .ok { s with parts := s.parts.set p { s.part p with ctl := setFld (s.part p).ctl 63 63 b &&& 0xF000000000FFFFFF } } := by
  have hbad : partValueBad 0 (setFld (s.part p).ctl 63 63 b) = false := by
    simp only [partValueBad, fld_setFld_top _ _ 61 60 (by decide)]
    exact decide_eq_false hlend
  have hnew : ({ s.part p with ctl := setFld (s.part p).ctl 63 63 b &&& 0xF000000000FFFFFF } : Part).en = (b % 2).testBit 0 := by
    rw [Part.en, flag_partMask, flag_setFld_top]
    rfl
  rw [← hnew]
  unfold State.setPart
  simp only [hbad, Bool.false_eq_true, if_false]

/-- Switching on a partition that is off. -/
theorem State.setPart_on {s : State} {p : Nat} (hen : (s.part p).en = false) (hlend : (s.part p).lend ≠ 3) :
    s.setPart p 0 (setFld (s.part p).ctl 63 63 1) =
      s.partOn p { s.part p with ctl := setFld (s.part p).ctl 63 63 1 &&& 0xF000000000FFFFFF } := by
  rw [s.setPart_en p 1 hlend, hen, if_neg (by simp), if_pos (by decide)]

/-- A partition to be switched on is enabled by its register, with the bit for sealing as it stood. -/
theorem Part.switched_on (x : Part) : ({ x with ctl := setFld x.ctl 63 63 1 &&& 0xF000000000FFFFFF } : Part).en = true ∧
    ({ x with ctl := setFld x.ctl 63 63 1 &&& 0xF000000000FFFFFF } : Part).sealBit = x.sealBit := by
  constructor
  · rw [Part.en, flag_partMask, flag_setFld_top]
    rfl
  · rw [Part.sealBit, flag_and, flag_setFld_top, show flag 0xF000000000FFFFFF 62 = true by decide, Bool.and_true]
    rfl

/-- A sealing leaves the partition with the registers given, and a number more. -/
theorem State.sealPart_part {s s1 : State} {p : Nat} {x : Part} (h : p < s.parts.length) (hok : s.sealPart p x = .ok s1) :
    s1.part p = { x with sealNo := x.sealNo + 1 } := by
  unfold State.sealPart at hok
  dsimp only at hok
  split at hok
  · cases hok
  split at hok
  · cases hok
  split at hok
  · cases hok
  next eas bs _ =>
    have hfold (n : Nat) : (eas.foldl (fun (s : State) ea => s.perform (homeG ea) (leBytes 8 (setFld (s.rd64 (homeG ea)) 45 40 n).toNat)) s).parts
        = s.parts := List.foldlRecOn (motive := fun s' => s'.parts = s.parts) _ _ rfl fun s' h ea _ =>
      (State.perform_keeps s' _ _).2.2.1.trans h
    rw [← Except.ok.inj hok]
    refine State.part_set (x := { x with sealNo := x.sealNo + 1 }) ?_
    rw [(State.perform_keeps _ _ _).2.2.1, (State.perform_keeps _ _ _).2.2.1, hfold]
    exact h

/-- A partition without SEALED switched on is enabled at once. -/
theorem State.setPart_unsealed {s : State} {p : Nat} (hen : (s.part p).en = false) (hseal : (s.part p).sealBit = false)
    (hlt : p < s.parts.length) (hlend : (s.part p).lend ≠ 3)
    (hclash : s.partClash p { s.part p with ctl := setFld (s.part p).ctl 63 63 1 &&& 0xF000000000FFFFFF } = false) :
    ∃ s', s.setPart p 0 (setFld (s.part p).ctl 63 63 1) = .ok s' ∧ (s'.part p).en = true ∧ s'.mem = s.mem := by
  obtain ⟨hon, hbit⟩ := (s.part p).switched_on
  refine ⟨{ s with parts := s.parts.set p { s.part p with ctl := setFld (s.part p).ctl 63 63 1 &&& 0xF000000000FFFFFF } }, ?_, ?_, rfl⟩
  · rw [State.setPart_on hen hlend, State.partOn, hclash, hbit, hseal]
    rfl
  · rw [State.part_set hlt]
    exact hon

/-- A partition with SEALED switched on is sealed, where the sealing is not refused. -/
theorem State.setPart_sealed {s s1 : State} {p : Nat} (hen : (s.part p).en = false) (hseal : (s.part p).sealBit = true)
    (hlt : p < s.parts.length) (hlend : (s.part p).lend ≠ 3)
    (hclash : s.partClash p { s.part p with ctl := setFld (s.part p).ctl 63 63 1 &&& 0xF000000000FFFFFF } = false)
    (hkids : s.kidsOk p = true)
    (hok : s.sealPart p { s.part p with ctl := setFld (s.part p).ctl 63 63 1 &&& 0xF000000000FFFFFF } = .ok s1) :
    s.setPart p 0 (setFld (s.part p).ctl 63 63 1) = .ok s1 ∧ (s1.part p).isSealed = true := by
  obtain ⟨hon, hbit⟩ := (s.part p).switched_on
  constructor
  · rw [State.setPart_on hen hlend, State.partOn, hclash, hbit, hseal, hkids]
    exact hok
  · rw [State.sealPart_part hlt hok]
    exact Bool.and_eq_true_iff.mpr ⟨hon, hbit.trans hseal⟩

theorem State.discard_parts (s : State) (c : Nat) : (s.discard c).parts = s.parts := by
  obtain ⟨ls, heq, -⟩ := s.discard_eq c
  rw [heq]

theorem State.zeroClusters_parts (s : State) (x : Part) : (s.zeroClusters x).parts = s.parts := by
  refine List.foldlRecOn (motive := fun s' : State => s'.parts = s.parts) _ _ ?_ fun _ h _ _ => h
  exact List.foldlRecOn (motive := fun s' : State => s'.parts = s.parts) _ _ rfl fun _ h _ _ => h

/-- A partition switched off. -/
theorem State.partOff_part {s : State} {p : Nat} (h : p < s.parts.length) : ((s.partOff p).part p).en = false := by
  unfold State.partOff
  dsimp only
  rw [State.part_modPart _ _ _ _ ?lt, if_pos rfl]
  · simp [Part.en, flag_setFld_top]
  case lt =>
    have hfold : (((s.ctxs.filter fun c => c.part == p).map fun c => c.id).foldl State.discard s).parts = s.parts :=
      List.foldlRecOn (motive := fun s' : State => s'.parts = s.parts) _ _ rfl fun s' h c _ => (s'.discard_parts c).trans h
    split
    · show p < (State.zeroClusters _ _).parts.length
      rw [State.zeroClusters_parts]
      exact hfold ▸ h
    · exact hfold ▸ h

/-- Switching off a partition that is on, with no bit set that does not stand. -/
theorem State.setPart_off {s : State} {p : Nat} (hen : (s.part p).en = true) (hlend : (s.part p).lend ≠ 3)
    (hmask : (s.part p).ctl &&& 0xF000000000FFFFFF = (s.part p).ctl) :
    s.setPart p 0 (setFld (s.part p).ctl 63 63 0) = .ok (s.partOff p) := by
  have hback : setFld (setFld (s.part p).ctl 63 63 0 &&& 0xF000000000FFFFFF) 63 63 1 = (s.part p).ctl := by
    refine eq_of_flag_eq fun i => ?_
    have hi := congrArg (flag · i) hmask
    simp only [flag_and] at hi
    rw [flag_setFld_top, flag_and, flag_setFld_top]
    obtain hlt | rfl | hgt := Nat.lt_trichotomy i 63
    · simpa [hlt] using hi
    · exact hen.symm
    · have hnone : flag (s.part p).ctl i = false := Nat.testBit_lt_two_pow (Nat.lt_of_lt_of_le (s.part p).ctl.isLt
        (Nat.pow_le_pow_right (by decide) hgt))
      rw [if_neg (by omega), hnone]
      exact Nat.testBit_lt_two_pow (Nat.one_lt_two_pow (by omega))
  rw [s.setPart_en p 0 hlend, hen, hback, if_neg (by simp), if_neg (by decide), if_pos (by decide)]

/-! ### Ranges, the reclaim group, announcements (R336, R393, R516) -/

/-- A range granted is the one written, and memory stands. -/
theorem State.setRange_hr {s s1 : State} {c k : Nat} {v : Dw} (hk : k < 8) (hok : s.setRange c k v = .ok s1) :
    (s1.ctx c).hr.toList.getD k 0 = v &&& 0x80003FFF1FFF0000 ∧ s1.mem = s.mem := by
  have hset (s' : State) (hs' : s'.ctxs = (s.modCtx c fun x => { x with
      hr := Vector.ofFn (fun i => if i.val = k then v &&& 0x80003FFF1FFF0000 else x.hr[i]) }).ctxs) :
      (s'.ctx c).hr.toList.getD k 0 = v &&& 0x80003FFF1FFF0000 := by
    rw [State.ctx_congr hs', State.ctx_modCtx, if_pos rfl]
    · simp [List.getD_eq_getElem?_getD, hk]
    · exact fun _ => rfl
  unfold State.setRange at hok
  dsimp only at hok
  split at hok
  · cases hok
  split at hok
  · rw [← Except.ok.inj hok]
    exact ⟨hset _ rfl, rfl⟩
  · rw [← Except.ok.inj hok]
    exact ⟨hset _ rfl, rfl⟩

/-- A slot of a reclaim queue filled: the contexts stand, and memory. -/
theorem State.reclaim_stands (s : State) (c : Nat) : (s.reclaim c).ctxs = s.ctxs ∧ (s.reclaim c).mem = s.mem := by
  unfold State.reclaim
  split
  · exact ⟨rfl, rfl⟩
  · dsimp only
    split <;> exact ⟨rfl, rfl⟩

theorem State.setRq_ctx (s : State) (c : Nat) (v : Dw) : ((s.setRq c v).ctx c).rq = v &&& 0x8000000000001FFF ∧ (s.setRq c v).mem = s.mem := by
  obtain ⟨hctxs, hmem⟩ := (s.modCtx c fun x => { x with rq := v &&& 0x8000000000001FFF }).reclaim_stands c
  refine ⟨?_, hmem⟩
  unfold State.setRq
  rw [State.ctx_congr hctxs, State.ctx_modCtx, if_pos rfl]
  exact fun _ => rfl

/-- Recovery announcements change nothing but the peers. -/
theorem State.announce_eq (s : State) (bound : Nat) : ∃ peers, s.announce bound = { s with peers := peers } := by
  unfold State.announce
  refine List.foldlRecOn (motive := fun s' : State => ∃ peers, s' = { s with peers := peers }) _ _ ⟨s.peers, rfl⟩ ?_
  rintro _ ⟨peers, rfl⟩ m -
  obtain ⟨peers', heq⟩ := State.sendPkts_eq ({ s with peers := peers } : State) m
    [{ ({ s with peers := peers } : State).mkPkt 0 m 7 0 (BitVec.ofNat 32 bound) false with lane := true, ctx := none }]
  exact ⟨peers', heq⟩

theorem State.setFabann_ok {s : State} {v : Dw} (h : fld v 8 0 ≤ 500) :
    ∃ s', s.setFabann v = .ok s' ∧ s'.modl.fabann = v &&& 0x1FF ∧ s'.mem = s.mem := by
  obtain ⟨peers, heq⟩ := State.announce_eq { s with modl := { s.modl with fabann := v &&& 0x1FF } } (fld v 8 0)
  exact ⟨_, if_neg (Nat.not_lt.mpr h), by rw [heq], by rw [heq]⟩

/-! ### Launch queues enabled and disabled (R414) -/

/-- A page of a queue written: the queue but awaits what a peer is to acknowledge. -/
theorem State.fePage_lq {s : State} {x y : LaunchQ} (hy : s.lq x.ctx x.q = some y) (off : Nat) (v : Dw) :
    ∃ acks, (s.fePage x off v).lq x.ctx x.q = some { y with acks := acks } := by
  have hw := (s.feWrite_feAccess x.ctx (x.page + off) v).lq x.ctx x.q
  unfold State.fePage
  generalize s.feWrite x.ctx (x.page + off) v = r at hw ⊢
  have hy' := hw.trans hy
  dsimp only
  rw [hy']
  exact ⟨_, State.lq_putLq hy' rfl rfl⟩

/-- STATE of a queue written: the queue is as given, but for what it awaits. -/
theorem State.feState_lq {s : State} {x y : LaunchQ} (hy : s.lq x.ctx x.q = some y) :
    ∃ acks, (s.feState x).lq x.ctx x.q = some { x with acks := acks } := by
  have hown := List.find?_some hy
  simp only [Bool.and_eq_true, beq_iff_eq] at hown
  exact State.fePage_lq (State.lq_putLq hy hown.1.symm hown.2.symm) _ _

/-- A queue halted is in STATE 3 with nothing of its chain. -/
theorem State.lqHalt_lq {s : State} {x y : LaunchQ} (hy : s.lq x.ctx x.q = some y) : ∃ z, (s.lqHalt x).lq x.ctx x.q = some z ∧
    z.state = 3 ∧ z.posted = [] ∧ z.frames = [] ∧ z.cur = none ∧ z.closing = false := by
  obtain ⟨acks, hz⟩ := State.feState_lq (x := { x.stop 3 0 x.pva with posted := [], closing := false }) hy
  exact ⟨_, hz, rfl, rfl, rfl, rfl, rfl⟩

/-- A queue that has no TLSIG write to make makes none. -/
theorem State.feSig_idle {s : State} {c q : Nat} {x : LaunchQ} (hx : s.lq c q = some x) (hsigs : x.sigs = []) (hdue : x.sigDue = false) :
    s.feSig c q = s := by
  unfold State.feSig
  rw [hx]
  dsimp only
  rw [State.feSigs, hx]
  dsimp only
  rw [hdue, hsigs]
  split <;> rfl

/-- A queue is in the place of those that stood under its context and number. -/
theorem LaunchQ.find_put (xs : List LaunchQ) (x : LaunchQ) :
    (xs.filter (fun y => !(y.ctx == x.ctx && y.q == x.q)) ++ [x]).find? (fun y => y.ctx == x.ctx && y.q == x.q) = some x := by
  have hnone : (xs.filter (fun y => !(y.ctx == x.ctx && y.q == x.q))).find? (fun y => y.ctx == x.ctx && y.q == x.q) = none :=
    List.find?_eq_none.mpr fun y hy => by
      simpa [imp_iff_not_or] using (List.mem_filter.mp hy).2
  rw [List.find?_append, hnone]
  simp

/-- A queue enabled has its page, no posted launch, and has given no signal. -/
theorem State.lqEnable_lq (s : State) (c q : Nat) (v : Dw) :
    ∃ x, (s.lqEnable c q v).lq c q = some x ∧ x.page = fld v 51 12 * 4096 ∧ x.posted = [] ∧ x.sigcnt = 0 := by
  let P (x : LaunchQ) : Prop := x.ctx = c ∧ x.q = q ∧ x.page = fld v 51 12 * 4096 ∧ x.posted = [] ∧ x.sigcnt = 0
  have hP : QueueFact c q P := ⟨fun _ h => h.1, fun _ h => h.2.1, fun _ _ _ _ _ _ _ _ _ _ _ h => h⟩
  suffices h : s.Serves c q P (s.lqEnable c q v) from
    let ⟨x, hx, _, _, hpage, hposted, hsigcnt⟩ := h.lq
    ⟨x, hx, hpage, hposted, hsigcnt⟩
  unfold State.lqEnable
  extract_lets page x s1
  have hPx : P x := ⟨rfl, rfl, rfl, rfl, rfl⟩
  have h1 : s.Serves c q P s1 := ⟨rfl, x, LaunchQ.find_put s.lqs x, hPx⟩
  have h2 := h1.access (s1.engRead_feAccess 0 c (page + 8) 4)
  have hx2 : (s1.engRead 0 c (page + 8) 4).1.lq c q = some x :=
    ((s1.engRead_feAccess 0 c (page + 8) 4).lq c q).trans (LaunchQ.find_put s.lqs x)
  generalize s1.engRead 0 c (page + 8) 4 = r at h2 hx2 ⊢
  obtain ⟨s2, _ | bs⟩ := r
  · exact h2.feFault hP hPx _ _
  · let y : LaunchQ := { x with frames := [Frame.init none page page (BitVec.ofNat 32 (leNat bs)) none] }
    have h3 : s.Serves c q P ((s2.putLq y).fePage x 0x20 0) := (h2.putLq hP (x := y) hPx).fePage hP rfl rfl _ _
    obtain ⟨acks, hy⟩ := State.fePage_lq (x := x) (State.lq_putLq (y := y) hx2 rfl rfl) 0x20 0
    have hidle := State.feSig_idle hy rfl rfl
    have hrest := h3.goOn hP
    show s.Serves c q P (((s2.putLq y).fePage x 0x20 0).feRest c q)
    unfold State.feRest
    rw [hidle]
    exact hrest

/-- A context with a CTXLQ register replaced. -/
def State.withLq (s : State) (c k : Nat) (v : Dw) : State :=
  s.modCtx c fun x => { x with lq := Vector.ofFn fun i => if i.val = k then v else x.lq[i] }

/-- What a write of CTXLQ comes to when it clears the bit of a queue that is on. -/
theorem State.setLq_off {s : State} {c k : Nat} (hold : flag ((s.ctx c).lq.toList.getD k 0) 63 = true) :
    s.setLq c k (setFld ((s.ctx c).lq.toList.getD k 0) 63 63 0) =
      (s.withLq c k (setFld ((s.ctx c).lq.toList.getD k 0) 63 63 0 &&& 0x800FFFFFFFFFF000)).lqDisable c k := by
  have hv : flag (setFld ((s.ctx c).lq.toList.getD k 0) 63 63 0 &&& 0x800FFFFFFFFFF000) 63 = false := by
    rw [flag_and, flag_setFld_top]
    rfl
  unfold State.setLq
  dsimp only
  rw [hv, hold]
  rfl

/-- What a write of CTXLQ comes to when it sets the bit of a queue that is off, in a context that is not reset. -/
theorem State.setLq_on {s : State} {c k : Nat} {v : Dw} (hold : flag ((s.ctx c).lq.toList.getD k 0) 63 = false) (hrst : (s.ctx c).rst = 0) :
    s.setLq c k (setFld v 63 63 1) =
      (s.withLq c k (setFld v 63 63 1 &&& 0x800FFFFFFFFFF000)).lqEnable c k (setFld v 63 63 1 &&& 0x800FFFFFFFFFF000) := by
  have hv : flag (setFld v 63 63 1 &&& 0x800FFFFFFFFFF000) 63 = true := by
    rw [flag_and, flag_setFld_top, if_neg (by decide), show flag 0x800FFFFFFFFFF000 63 = true by decide]
    decide
  have hrst' : ((s.withLq c k (setFld v 63 63 1 &&& 0x800FFFFFFFFFF000)).ctx c).rst = 0 := by
    unfold State.withLq
    rw [State.ctx_modCtx, if_pos rfl]
    · exact hrst
    · exact fun _ => rfl
  unfold State.setLq
  dsimp only
  rw [hv, hold, if_pos (by decide)]
  exact if_pos hrst'

/-- The page of a queue is as written, whatever else the register does not hold. -/
theorem fld_lqMask (v : Dw) : fld (setFld v 63 63 1 &&& 0x800FFFFFFFFFF000) 51 12 = fld v 51 12 := by
  rw [fld_and, fld_setFld_top _ _ _ _ (by decide), show fld 0x800FFFFFFFFFF000 51 12 = 2 ^ 40 - 1 by decide,
    Nat.and_two_pow_sub_one_eq_mod]
  exact Nat.mod_eq_of_lt (Nat.mod_lt _ (by decide))

section
variable {s : State} {c q : Nat} {x : LaunchQ} (hx : s.lq c q = some x)
include hx

/-- A queue disabled that awaits what it wrote, or whose packet may not run yet, stops later. -/
theorem State.lqDisable_waits (h : x.acks ≠ [] ∨ ∃ va d, x.state < 2 ∧ x.cur = some (va, d) ∧ s.pktReady x d = false) :
    (s.lqDisable c q).lq c q = some { x with posted := [], closing := true } := by
  have hput : (s.putLq { x with posted := [], closing := true }).lq c q = some { x with posted := [], closing := true } :=
    State.lq_putLq hx rfl rfl
  unfold State.lqDisable
  rw [hx]
  dsimp only
  by_cases hacks : x.acks = []
  · obtain h | ⟨va, d, hst, hcur, hready⟩ := h
    · exact absurd hacks h
    have hready' : s.pktReady { x with posted := [], closing := true } d = false := hready
    rw [if_neg (not_not.mpr hacks), if_neg (Nat.not_le.mpr hst)]
    split
    next hnone => exact nomatch hnone.symm.trans hcur
    next hsome =>
      obtain ⟨rfl, rfl⟩ := Prod.mk.inj (Option.some.inj (hsome.symm.trans hcur))
      rw [hready', if_pos (by decide)]
      exact hput
  · rw [if_pos hacks]
    exact hput

/-- A queue disabled between packets stops, and so does one whose packet is a NOP that may run. -/
theorem State.lqDisable_stops (hacks : x.acks = [])
    (h : 2 ≤ x.state ∨ x.cur = none ∨ ∃ va d, x.cur = some (va, d) ∧ s.pktReady x d = true ∧ pktType d = 9 ∧ x.sigs = [] ∧ x.sigDue = false) :
    ∃ y, (s.lqDisable c q).lq c q = some y ∧ y.state = 3 ∧ y.posted = [] ∧ y.frames = [] ∧ y.cur = none ∧ y.closing = false := by
  obtain ⟨rfl, rfl⟩ : x.ctx = c ∧ x.q = q := by simpa using List.find?_some hx
  have hhalt := State.lqHalt_lq (x := { x with posted := [], closing := true }) hx
  unfold State.lqDisable
  rw [hx]
  dsimp only
  rw [if_neg (not_not.mpr hacks)]
  split
  · exact hhalt
  next hst =>
    obtain h | h | ⟨va, d, hcur, hready, hty, hsigs, hdue⟩ := h
    · exact absurd h hst
    · rw [h]
      exact hhalt
    · have hready' : s.pktReady { x with posted := [], closing := true } d = true := hready
      have hdo (z : LaunchQ) : s.pktDo z va d = (s, z, .done) := by simp only [State.pktDo, hty]
      split
      next hnone => exact nomatch hnone.symm.trans hcur
      next hsome =>
      obtain ⟨rfl, rfl⟩ := Prod.mk.inj (Option.some.inj (hsome.symm.trans hcur))
      rw [hready', if_neg (by decide), hdo]
      dsimp only
      have hput : (s.putLq { x with posted := [], closing := true, cur := none }).lq x.ctx x.q =
          some { x with posted := [], closing := true, cur := none } := State.lq_putLq hx rfl rfl
      unfold State.lqEnd
      dsimp only
      rw [State.feSig_idle hput hsigs hdue, hput]
      dsimp only
      rw [if_pos (by rw [hacks]; rfl)]
      exact State.lqHalt_lq (x := { x with posted := [], closing := true, cur := none }) hput

end

/-- Settles O56: a write that its rules refuse leaves the state (`State.csrTry`), and each that they allow comes to one change of
the context, partition or queue (`State.setCtl_on`, `State.setPart_en`, `State.lqEnable_lq`, `State.lqDisable_stops`). -/
theorem controlRegisterEvents : Obligations.ControlRegisterEvents := by
  intro s c k v
  have htry {r : Except Detail State} {s1 : State} (h : r = .ok s1) : s.csrTry r = s1 := by rw [h]; rfl
  have hrefuse {r : Except Detail State} {e : Detail} (h : r = .error e) : s.csrTry r = s := by rw [h]; rfl
  refine ⟨⟨fun e h => next_congr (hrefuse h), fun e h => next_congr (hrefuse h), fun e h => ?_, fun e h => next_congr (hrefuse h)⟩,
    fun hen hpriv hbud hkid => ?_, fun hen hpriv hbud hkid => ?_, fun hen hseal hlt hlend hclash => ?_,
    fun hen hseal hlt hlend hclash hkids s1 hok => ?_, fun hen hlend hmask => ?_, fun hk => ⟨fun e h => next_congr (hrefuse h), fun s1 h =>
      ⟨next_congr (htry h), State.setRange_hr hk h⟩⟩, ⟨_, rfl, s.setRq_ctx c v⟩, ⟨fun hg hv => ?_, fun h => ?_⟩, ⟨fun hv => ?_, fun hv => ?_⟩,
    fun hold hrst _ => ?_, fun x _ hold hx => ?_⟩
  · exact ⟨by simp only [exec, execPartitionEnable, hrefuse h, ite_self], by simp only [exec, execPartitionSeal, hrefuse h, ite_self]⟩
  · obtain ⟨s', hok, h⟩ := State.setCtl_on hen hpriv hbud hkid
    exact ⟨s', next_congr (htry hok), h⟩
  · obtain ⟨s', hok, h⟩ := State.setCtl_off hen hpriv hbud hkid
    exact ⟨s', next_congr (htry hok), h⟩
  · obtain ⟨s', hok, h⟩ := State.setPart_unsealed hen hseal hlt hlend hclash
    exact ⟨s', by simp only [exec, execPartitionEnable, hseal, htry hok, Bool.false_eq_true, if_false], h⟩
  · obtain ⟨hset, hsealed⟩ := State.setPart_sealed hen hseal hlt hlend hclash hkids hok
    exact ⟨by simp only [exec, execPartitionSeal, hseal, htry hset, if_true], hsealed⟩
  · exact ⟨_, next_congr (htry (State.setPart_off hen hlend hmask)), State.partOff_part (State.part_en_lt hen)⟩
  · simp only [exec, execGroupOverflowWrite, hg, State.setOv, if_neg (Nat.not_lt.mpr hv), State.csrTry, if_true]
  · obtain h | h := h
    · simp [exec, execGroupOverflowWrite, h]
    · simp only [exec, execGroupOverflowWrite, State.setOv, if_pos h, State.csrTry, ite_self]
  · obtain ⟨s', hok, h⟩ := State.setFabann_ok (s := s) hv
    exact ⟨s', next_congr (htry hok), h⟩
  · exact next_congr (hrefuse (if_pos hv))
  · obtain ⟨x, hx, hpage, h⟩ := (s.withLq c k (setFld v 63 63 1 &&& 0x800FFFFFFFFFF000)).lqEnable_lq c k
      (setFld v 63 63 1 &&& 0x800FFFFFFFFFF000)
    exact ⟨_, x, next_congr (State.setLq_on hold hrst), hx, hpage.trans (by rw [fld_lqMask]), h⟩
  · have hoff := next_congr (State.setLq_off hold)
    refine ⟨fun hacks => ⟨_, hoff, State.lqDisable_waits hx (.inl hacks)⟩, fun hacks h => ?_, fun va d hst hacks hcur =>
      ⟨fun hwait => ⟨_, hoff, State.lqDisable_waits hx (.inr ⟨va, d, hst, hcur, hwait⟩)⟩, fun hrun hty hsigs hdue => ?_⟩⟩
    · obtain ⟨y, hy⟩ := State.lqDisable_stops (s := State.withLq s c k _) hx hacks (h.imp_right .inl)
      exact ⟨_, y, hoff, hy⟩
    · obtain ⟨y, hy⟩ := State.lqDisable_stops (s := State.withLq s c k _) hx hacks (.inr (.inr ⟨va, d, hcur, hrun, hty, hsigs, hdue⟩))
      exact ⟨_, y, hoff, hy⟩

end Sys2Proof.Machine
end

section
/-! Fault tasks, the Deck, deadlines, budgets, freezes and context reset (O55). -/

namespace Sys2Proof.Machine

theorem State.sendLane_eq (s : State) (c m : Nat) (rid : Wd) (x : LaneMsg) (o : Option Nat) :
    ∃ peers, s.sendLane c m rid x o = { s with peers := peers } :=
  s.sendPkts_eq m _

/-! ### Fault tasks formed and sent (R470, R471, R472) -/

theorem exec_faultTaskRaise {s : State} {n : Nat} {r : Rec} (hr : s.recs.find? (fun x => x.id == n) = some r) :
    (r.raised = true ∨ r.waits ≠ [] ∨ r.st = .member → exec (.faultTaskRaise n) s = .next s) ∧
    (r.raised = false → r.waits = [] → r.st ≠ .member → ∀ s1 : State, s1 = s.putRec { r with raised := true } →
      (∀ d p, r.entry = some d →
        p = ({ bar := r.id, cls := r.frz.getD r.fault.cls, desc := d, parkt := r.parkt, escalated := false, sent := none } : PendTask) →
        exec (.faultTaskRaise n) s = .next ({ s1 with pend := s1.pend ++ [p] }.sendNext (s1.pendDest p))) ∧
      (r.entry = none →
        (r.fault.cls = .watchdog ∨ r.fault.cls = .stalemate → exec (.faultTaskRaise n) s = .next (s1.askReset r.ctx)) ∧
        (r.fault.cls = .deadlineExpired → exec (.faultTaskRaise n) s = .next (s1.freeRec r)) ∧
        (r.fault.cls ≠ .watchdog → r.fault.cls ≠ .stalemate → r.fault.cls ≠ .deadlineExpired →
          exec (.faultTaskRaise n) s = .next (s1.escalateRec r r.fault.cls)))) := by
  have hexec : exec (.faultTaskRaise n) s = execFaultTaskRaise n s := rfl
  refine ⟨fun h => ?_, fun hraised hwaits hst s1 hs1 => ?_⟩
  · rw [hexec, execFaultTaskRaise, hr]
    exact if_pos (by simpa [or_assoc] using h)
  · rw [hexec, execFaultTaskRaise, hr]
    dsimp only
    rw [if_neg (by simp [hraised, hwaits, hst]), ← hs1]
    refine ⟨fun d p hd hp => ?_, fun hd => ?_⟩
    · rw [hd, hp]
    · rw [hd]
      exact ⟨fun h => if_pos h, fun h => by simp [h], fun h1 h2 h3 => by simp [h1, h2, h3]⟩

section
variable {s : State} {p : PendTask} (hpend : s.pend = [p])
include hpend

/-- The one fault task that is pending is the one that is sent. -/
theorem exec_pendingFaultTaskSend (hsent : p.sent = none) (h : (s.sendPend p).inTasks = []) :
    exec .pendingFaultTaskSend s = .next (s.sendPend p) := by
  have hnext : s.sendNext (s.pendDest p) = s.sendPend p := by
    simp [State.sendNext, State.nextPend, hpend, hsent, minBy]
  have hall : ((s.pend.map s.pendDest).dedup).foldl State.sendNext s = s.sendPend p := by
    rw [hpend]
    exact hnext
  show execPendingFaultTaskSend s = _
  unfold execPendingFaultTaskSend
  dsimp only
  rw [hall, h]

/-- A fault task whose handler is on another module goes there. -/
theorem State.sendPend_peer {r : Rec} {m : Nat} (hr : s.recs.find? (fun x => x.id == p.bar) = some r) (hcls : p.cls ≠ .unserviceable)
    (hm : descPeer p.desc = some m) (hother : m ≠ s.modl.modNo) (hmod : m ∈ s.modl.modules) :
    (s.sendPend p).pend = [{ p with sent := some s.clk, rid := BitVec.ofNat 32 s.uid }] ∧ (s.sendPend p).tasks = s.tasks ∧
      (s.sendPend p).inTasks = s.inTasks := by
  have hpeer : (descPeer p.desc).filter (fun m => m != s.modl.modNo) = some m := by simp [hm, hother]
  have hmod' : s.modl.modules.contains m = true := by simpa using hmod
  unfold State.sendPend
  simp only [hr, if_neg hcls, hpeer, State.fresh, hmod', if_true]
  generalize LaneMsg.faultTask _ _ _ = msg
  generalize hs1 : State.putRec _ { r with far := some m } = s1
  obtain ⟨peers, heq⟩ := s1.sendLane_eq r.ctx m (BitVec.ofNat 32 s.uid) msg (some r.ctx)
  rw [heq, ← hs1]
  simp [hpend]

/-- A fault task of this module waits for room in the fault bank of its die. -/
theorem State.sendPend_here {r : Rec} (hr : s.recs.find? (fun x => x.id == p.bar) = some r)
    (hhere : p.cls = .unserviceable ∨ descPeer p.desc = none) :
    (s.bankFree r.die 16 = none → s.sendPend p = s) ∧
    (∀ die bank i, s.bankFree r.die 16 = some (die, bank, i) →
      (s.ctx (taskCtx (s.faultDws r p.cls p.desc))).rst = 0 → taskXd (s.faultDws r p.cls p.desc) = false →
      ∃ t : Task, (s.sendPend p).tasks = s.tasks ++ [t] ∧ t.bank = 16 ∧ t.idx = i ∧ t.die = r.die ∧
        t.dws = s.faultDws r p.cls p.desc ∧ (s.sendPend p).pend = [] ∧ (s.sendPend p).inTasks = s.inTasks) := by
  have hpeer : (if p.cls = .unserviceable then none else (descPeer p.desc).filter (fun m => m != s.modl.modNo)) = none := by
    obtain h | h := hhere
    · rw [if_pos h]
    · rw [h]
      exact ite_self _
  refine ⟨fun hfull => ?_, fun die bank i hfree hrst hxd => ?_⟩
  · unfold State.sendPend
    rw [hr]
    dsimp only
    rw [hpeer]
    dsimp only
    rw [hfull]
  · obtain ⟨rfl, rfl⟩ : die = r.die ∧ bank = 16 := by
      unfold State.bankFree at hfree
      dsimp only at hfree
      split at hfree
      · exact nomatch hfree
      · obtain ⟨j, -, hj⟩ := Option.map_eq_some_iff.mp hfree
        simp only [Prod.mk.injEq] at hj
        exact ⟨hj.1.symm, hj.2.1.symm⟩
    have hext (s1 : State) : s1.faultExt r.die (s.faultDws r p.cls p.desc) = (s1, some none) := by
      simp [State.faultExt, hxd]
    have hsend : s.sendPend p = (({ s with pend := [] } : State).addTask r.die 16 i (s.faultDws r p.cls p.desc) none).1 := by
      unfold State.sendPend
      rw [hr]
      dsimp only
      rw [hpeer]
      dsimp only
      rw [hfree]
      dsimp only
      refine (if_neg (not_not.mpr hrst)).trans ?_
      rw [hext]
      simp [hpend]
    rw [hsend]
    exact ⟨_, rfl, rfl, rfl, rfl, rfl, rfl, rfl⟩

end

/-! ### What a core holds and fetches (R52, R433) -/

/-- The hands of every core stand. -/
def State.SameHands (s s' : State) : Prop := ∀ k, (s'.core k).hand = (s.core k).hand

theorem State.SameHands.refl (s : State) : s.SameHands s := fun _ => rfl

theorem State.SameHands.trans {s s' s'' : State} (h : s.SameHands s') (h' : s'.SameHands s'') : s.SameHands s'' :=
  fun k => (h' k).trans (h k)

theorem State.SameHands.of_cores {s s' : State} (h : s'.cores = s.cores) : s.SameHands s' :=
  fun k => by rw [State.core, State.core, h]

theorem State.modCore_sameHands (s : State) (c : Nat) (f : Core → Core) (hid : ∀ x, (f x).id = x.id) (hhand : ∀ x, (f x).hand = x.hand) :
    s.SameHands (s.modCore c f) := fun k => by
  rw [State.core_modCore _ _ _ _ hid]
  split
  next h => rw [hhand, h]
  next => rfl

theorem State.xlate_sameHands (s : State) (core c va : Nat) (k : AccK) (o : XOpt) : s.SameHands (s.xlate core c va k o).1 := by
  unfold State.xlate
  split
  next s1 w hw =>
  have hcores : s1.cores = s.cores := by simpa [hw] using (s.walk_keeps c (dieOf core) va k.writes).2.2.2.2.2.1
  have h1 : s.SameHands s1 := .of_cores hcores
  extract_lets w0
  split
  next s2 hit htlb =>
  have h2 : s.SameHands s2 := by
    have hsame : s2.cores = s1.cores := by
      have hpair {s' : State} {r : Option (Nat × Dw × Bool)} (h : (s', r) = (s2, hit)) : s2.cores = s'.cores :=
        (congrArg (fun r => r.1.cores) h).symm
      split at htlb
      · split at htlb
        · exact hpair htlb
        · split at htlb
          next e => exact (hpair htlb).trans (congrArg (fun r => r.1.cores) e).symm
      · exact hpair htlb
    exact h1.trans (.of_cores hsame)
  split
  · split
    · exact h2
    · split <;> exact h2
  · exact h2
  · exact h2
  · split
    · exact h2
    · dsimp only
      split
      · exact h2
      · exact h2.trans (s2.modCore_sameHands _ _ (fun _ => rfl) (fun _ => rfl))

/-- Words were fetched: of tasks, hands and teams at most waiters on a page entry changed. -/
structure State.Fetched (s s' : State) : Prop where
  tasks : s'.tasks = s.tasks
  hands : s.SameHands s'
  teams : s.TeamsWoken s'

theorem State.Fetched.refl (s : State) : s.Fetched s := ⟨rfl, .refl s, .of_teams rfl⟩

theorem State.Fetched.trans {s s' s'' : State} (h : s.Fetched s') (h' : s'.Fetched s'') : s.Fetched s'' :=
  ⟨h'.tasks.trans h.tasks, h.hands.trans h'.hands, h.teams.trans h'.teams⟩

theorem State.Fetched.of_fst {α : Type} {s s' : State} {q : State × α} {x : α} (h : s.Fetched q.1) (e : q = (s', x)) : s.Fetched s' := by
  rwa [e] at h

theorem State.xlate_fetched (s : State) (core c va : Nat) (k : AccK) (o : XOpt) : s.Fetched (s.xlate core c va k o).1 := by
  have hhands := s.xlate_sameHands core c va k o
  obtain ⟨_, _, _, heq⟩ := s.xlate_lookedUp core c va k o
  rw [heq] at hhands ⊢
  exact ⟨rfl, hhands, .of_teams rfl⟩

theorem State.markAD_fetched (s : State) (ea : Option Nat) (wr : Bool) : s.Fetched (s.markAD ea wr) := by
  refine ⟨?_, .of_cores (by simp), s.markAD_teamsWoken ea wr⟩
  simp

theorem State.fetchPa_fetched (s : State) (core c va pa : Nat) : s.Fetched (s.fetchPa core c va pa).1 := by
  have hcore (s : State) (f : Core → Core) (hid : ∀ x, (f x).id = x.id) (hhand : ∀ x, (f x).hand = x.hand) : s.Fetched (s.modCore core f) :=
    ⟨rfl, s.modCore_sameHands core f hid hhand, .of_teams rfl⟩
  unfold State.fetchPa
  dsimp only
  split
  · split
    · exact .refl s
    · split
      · exact ⟨rfl, .of_cores rfl, .of_teams rfl⟩
      · refine State.Fetched.trans (s' := s.choose.1) ⟨rfl, .of_cores rfl, .of_teams rfl⟩ ?_
        dsimp only
        refine hcore _ _ ?_ ?_ <;> exact fun _ => rfl
  · dsimp only
    refine hcore _ _ ?_ ?_ <;> exact fun _ => rfl

theorem State.fetchWord_fetched (s : State) (core c va : Nat) (pg : Option (Nat × Page)) : s.Fetched (s.fetchWord core c va pg).1 := by
  unfold State.fetchWord
  split
  · exact .refl s
  split
  · exact s.fetchPa_fetched _ _ _ _
  · have hx := s.xlate_fetched core c va .fetch {}
    split
    next e => exact hx.of_fst e
    next e => exact ((hx.of_fst e).trans (State.markAD_fetched _ _ _)).trans (State.fetchPa_fetched _ _ _ _ _)

theorem State.fetchBody_fetched (s : State) (core c k va n : Nat) (pg : Option (Nat × Page)) :
    s.Fetched (s.fetchBody core c k va pg n).1 := by
  induction k generalizing s va pg n with
  | zero => exact .refl s
  | succ k ih =>
    cases n with
    | zero => exact .refl s
    | succ n =>
      have hw := s.fetchWord_fetched core c va pg
      unfold State.fetchBody
      split
      next e => exact hw.of_fst e
      next e =>
        split
        next e' => exact (hw.of_fst e).trans ((ih _ _ _ _).of_fst e')
        next e' => exact (hw.of_fst e).trans ((ih _ _ _ _).of_fst e')

theorem State.fetchHand_fetched (s : State) (core c va : Nat) : s.Fetched (s.fetchHand core c va) := by
  have hw := s.fetchWord_fetched core c va none
  unfold State.fetchHand
  split
  next e => exact hw.of_fst e
  next e => exact (hw.of_fst e).trans (State.fetchBody_fetched _ _ _ _ _ _ _)

/-! ### Tasks in hands (R51 to R53) -/

/-- A task replaced is as given, under its number. -/
theorem State.putTask_st {s : State} {t : Task} : ∀ x ∈ (s.putTask t).tasks, x.id = t.id → x = t := by
  intro x hx hid
  obtain ⟨y, -, hy⟩ := List.mem_map.mp hx
  split at hy
  · exact hy.symm
  next hne => exact absurd (hy ▸ hid) hne

theorem State.putTask_other {s : State} {t : Task} : ∀ x ∈ (s.putTask t).tasks, x.id ≠ t.id → x ∈ s.tasks := by
  intro x hx hid
  obtain ⟨y, hmem, hy⟩ := List.mem_map.mp hx
  split at hy
  · exact absurd (congrArg Task.id hy.symm) hid
  · exact hy ▸ hmem

theorem State.task_id {s : State} {i : Nat} {t : Task} (h : s.task i = some t) : t.id = i := by simpa using List.find?_some h

/-- A change of every core that keeps its number, seen by number. -/
theorem State.core_map {s : State} {f : Core → Core} (hid : ∀ x, (f x).id = x.id) (k : Nat) (hinit : f (Core.init k) = Core.init k) :
    ({ s with cores := s.cores.map f } : State).core k = f (s.core k) := by
  have hsame : (fun x : Core => x.id == k) ∘ f = fun x => x.id == k := funext fun x => by rw [Function.comp_apply, hid]
  unfold State.core
  rw [List.find?_map, hsame]
  cases s.cores.find? (fun x => x.id == k) with
  | none => exact hinit.symm
  | some x => rfl

/-- A task recalled is ready, in no hand. -/
theorem State.recall_recalls {s : State} {i : Nat} {y : Task} (hy : s.task i = some y) :
    (∀ k, ((s.recall i).core k).hand = (s.core k).hand.filter (fun j => j != i)) ∧ (∀ x ∈ (s.recall i).tasks, x.id = i → x.st = .ready) ∧
      (s.recall i).teams = s.teams := by
  unfold State.recall
  rw [hy]
  refine ⟨fun k => ?_, fun x hx hid => ?_, rfl⟩
  · exact congrArg Core.hand (State.core_map (f := fun c => { c with hand := c.hand.filter (fun j => j != i) }) (fun _ => rfl) k rfl)
  · have hx' := State.putTask_st (t := { y with st := .ready }) x hx (hid.trans (State.task_id hy).symm)
    rw [hx']

/-- A task dispatched to a core is at the end of its hand. -/
theorem State.dispatch_takes (s : State) (t : Task) (n c va p : Nat) : ∃ s' : State,
    s' = ((((s.putTask { t with st := .hand n }).modCore n (fun c => { c with hand := c.hand ++ [t.id] })).fetchHand n c va).mark p) ∧
      (s'.core n).hand = (s.core n).hand ++ [t.id] ∧ (∀ x ∈ s'.tasks, x.id = t.id → x.st = .hand n) ∧
      (∀ x ∈ s'.tasks, x.id ≠ t.id → x ∈ s.tasks) ∧ s.TeamsWoken s' := by
  obtain ⟨htasks, hhands, hteams⟩ :=
    ((s.putTask { t with st := .hand n }).modCore n (fun c => { c with hand := c.hand ++ [t.id] })).fetchHand_fetched n c va
  refine ⟨_, rfl, ?_, fun x hx hid => ?_, fun x hx hid => ?_, hteams⟩
  · refine (hhands n).trans ?_
    rw [State.core_modCore, if_pos rfl]
    · rfl
    · exact fun _ => rfl
  · have hx' : x ∈ (s.putTask { t with st := .hand n }).tasks := htasks ▸ hx
    rw [State.putTask_st x hx' hid]
  · exact State.putTask_other (t := { t with st := .hand n }) x (htasks ▸ hx) hid

/-- DECK_DISPATCH for the task that the Deck chooses. -/
theorem exec_deckDispatch {s : State} {n : Nat} {t : Task} (ht : s.dispatchFor n = some t) :
    ((s.core n).hand.length < 2 →
      ∃ s' : State, exec (.deckDispatch n) s = .next s' ∧ (s'.core n).hand = (s.core n).hand ++ [t.id] ∧
        (∀ x ∈ s'.tasks, x.id = t.id → x.st = .hand n) ∧
        ∀ k u, s.team k = some u → ∃ v, s'.team k = some v ∧ v.regs = u.regs ∧ v.pc = u.pc) ∧
    (∀ (i : Nat) (y : Task), 2 ≤ (s.core n).hand.length → s.recallOf t n = some i → s.task i = some y → i ≠ t.id →
      ∃ s' : State, exec (.deckDispatch n) s = .next s' ∧
        (s'.core n).hand = (s.core n).hand.filter (fun j => j != i) ++ [t.id] ∧
        (∀ x ∈ s'.tasks, x.id = t.id → x.st = .hand n) ∧ ∀ x ∈ s'.tasks, x.id = i → x.st = .ready) := by
  refine ⟨fun hlen => ?_, fun i y hlen hrecall hy hne => ?_⟩
  · obtain ⟨s', heq, hhand, hst, -, hteams⟩ := s.dispatch_takes t n (taskCtx t.dws) (taskEntry t.dws) (s.ctx (taskCtx t.dws)).part
    refine ⟨s', ?_, hhand, hst, fun k u hu => ?_⟩
    · show execDeckDispatch n s = _
      simp only [execDeckDispatch, ht, if_neg (Nat.not_le.mpr hlen), heq]
      rfl
    · obtain rfl := s.team_key k u hu
      obtain ⟨st, m, hv⟩ := hteams.team hu
      exact ⟨_, hv, rfl, rfl⟩
  · obtain ⟨hfilter, hready, -⟩ := State.recall_recalls hy
    obtain ⟨s', heq, hhand, hst, hother, -⟩ := (s.recall i).dispatch_takes t n (taskCtx t.dws) (taskEntry t.dws)
      (s.ctx (taskCtx t.dws)).part
    refine ⟨s', ?_, by rw [hhand, hfilter], hst, fun x hx hid => hready x (hother x hx (hid ▸ hne)) hid⟩
    show execDeckDispatch n s = _
    simp only [execDeckDispatch, ht, if_pos hlen, hrecall, heq]
    unfold State.recall
    rw [hy]
    rfl

/-! ### A task started (R52) -/

theorem State.closeBlock_sameHands (s : State) (core part : Nat) : s.SameHands (s.closeBlock core part) := by
  unfold State.closeBlock
  extract_lets u i r hdr blk full s1 base s2 r2
  have h1 : s.SameHands s1 := s.modCore_sameHands core _ (fun _ => rfl) (fun _ => rfl)
  split
  · exact .refl s
  split
  · exact h1.trans (.of_cores rfl)
  split
  · split <;> exact h1.trans (.of_cores rfl)
  · exact h1.trans (.of_cores rfl)

theorem State.trace_sameHands (s : State) (core c slot typ p : Nat) : s.SameHands (s.trace core c slot typ p) := by
  unfold State.trace
  extract_lets part late s1 u time recs w s2
  have h1 : s.SameHands s1 := by
    unfold s1
    split
    · exact s.closeBlock_sameHands core part
    · exact .refl s
  have h2 : s.SameHands s2 := h1.trans (s1.modCore_sameHands _ _ (fun _ => rfl) (fun _ => rfl))
  split
  · exact .refl s
  split
  · exact h2.trans (s2.closeBlock_sameHands core part)
  · exact h2

theorem State.invL1_sameHands (s : State) (core : Nat) : s.SameHands (s.invL1 core) := by
  have hmod : s.SameHands (s.modCore core fun c => { c with l1 := [] }) := s.modCore_sameHands _ _ (fun _ => rfl) (fun _ => rfl)
  exact hmod.trans (.of_cores rfl)

/-- A group started is among the groups; the tasks stand, and the hands. -/
theorem State.startGroup_starts (s : State) (p : GSpec) (o : Origin) (lin gx gy gz core kBase : Nat) (clearK : Bool) :
    (∃ g ∈ (s.startGroup p o lin gx gy gz core kBase clearK).1.groups, g.origin = o ∧ g.core = core ∧ g.ctx = p.ctx) ∧
      (s.startGroup p o lin gx gy gz core kBase clearK).1.tasks = s.tasks ∧
      s.SameHands (s.startGroup p o lin gx gy gz core kBase clearK).1 := by
  unfold State.startGroup
  extract_lets slot tid0 places g ts sealedP s1 s2 s3 k s4 s5
  have hzero {s' s'' : State} (b : Bool) (lo hi : Nat) (h : s'' = if b then s'.zero lo hi else s') :
      s''.groups = s'.groups ∧ s''.tasks = s'.tasks ∧ s''.cores = s'.cores := by
    subst h
    split <;> exact ⟨rfl, rfl, rfl⟩
  obtain ⟨hgroups3, htasks3, hcores3⟩ := hzero (s' := s2) (s'' := s3) _ _ _ rfl
  obtain ⟨hgroups4, htasks4, hcores4⟩ := hzero (s' := s3) (s'' := s4) _ _ _ rfl
  have hbind : s5.groups = s4.groups ∧ s5.tasks = s4.tasks ∧ s4.SameHands s5 := by
    refine List.foldlRecOn (motive := fun s' : State => s'.groups = s4.groups ∧ s'.tasks = s4.tasks ∧ s4.SameHands s') ts _
      ⟨rfl, rfl, .refl s4⟩ fun s' ⟨hgroups, htasks, hhands⟩ t _ => ?_
    have hkeep := s'.traceBind_keeps t 0 0
    exact ⟨hkeep.2.1.trans hgroups, hkeep.2.2.2.2.2.2.2.2.2.1.trans htasks, hhands.trans (s'.trace_sameHands _ _ _ _ _)⟩
  obtain ⟨hgroups5, htasks5, hhands5⟩ := hbind
  refine ⟨⟨g, ?_, rfl, rfl, rfl⟩, ?_, ?_⟩
  · show g ∈ s5.groups
    rw [hgroups5, hgroups4, hgroups3]
    exact List.mem_append_right _ List.mem_cons_self
  · exact htasks5.trans (htasks4.trans htasks3)
  · have h4 : s.SameHands s4 := .of_cores (hcores4.trans hcores3)
    exact (h4.trans hhands5).trans (s5.invL1_sameHands core)

theorem State.serve_stands (s : State) (c : Nat) (h : Dw) :
    (s.serve c h).groups = s.groups ∧ (s.serve c h).tasks = s.tasks ∧ (s.serve c h).cores = s.cores := by
  unfold State.serve
  split
  · obtain ⟨peers, heq⟩ := s.sendLane_eq c (handleMod h) 0 (.record h 0) (some c)
    rw [heq]
    exact ⟨rfl, rfl, rfl⟩
  · exact ⟨rfl, rfl, rfl⟩

/-- The record that a group's handler is started for is served. -/
def State.serveFor (s : State) (p : GSpec) : State :=
  match p.served with
  | some (h, _) => s.serve p.ctx h
  | none => s

theorem State.serveFor_stands (s : State) (p : GSpec) :
    (s.serveFor p).groups = s.groups ∧ (s.serveFor p).tasks = s.tasks ∧ (s.serveFor p).cores = s.cores := by
  unfold State.serveFor
  split
  · exact s.serve_stands _ _
  · exact ⟨rfl, rfl, rfl⟩

/-- TASK_START of the task that a core starts next. -/
theorem exec_taskStart {s : State} {n : Nat} {t : Task} (ht : s.startable n = some t) :
    ∃ (s' : State) (g : Group), exec (.taskStart n) s = .next s' ∧ g ∈ s'.groups ∧ g.origin = .task t.id ∧ g.core = n ∧
      g.ctx = (s.tspec t).ctx ∧ (∀ x ∈ s'.tasks, x.id = t.id → x.st = .running) ∧ t.id ∉ (s'.core n).hand := by
  obtain ⟨s1, hs1⟩ : ∃ s1, s1 = (s.modCore n (fun c => { c with hand := c.hand.filter (fun i => i != t.id) })).putTask { t with st := .running } :=
    ⟨_, rfl⟩
  have hhand1 : t.id ∉ (s1.core n).hand := by
    have hcore : s1.core n = { s.core n with hand := (s.core n).hand.filter (fun i => i != t.id) } := by
      have hmod := s.core_modCore n n (fun c => { c with hand := c.hand.filter (fun i => i != t.id) }) fun _ => rfl
      rw [if_pos rfl] at hmod
      rw [hs1]
      exact hmod
    rw [hcore]
    simp
  have hst1 : ∀ x ∈ s1.tasks, x.id = t.id → x.st = .running := fun x hx hid => by
    rw [hs1] at hx
    rw [State.putTask_st x hx hid]
  obtain ⟨⟨g, hg, horigin, hcore, hctx⟩, htasks, hhands⟩ := s1.startGroup_starts (s.tspec t) (.task t.id) 0 0 0 0 n
    ((s.kPlace none (s.taskPart t) (clusterOf n) (s.tspec t).kmem).getD 0) true
  generalize hr : s1.startGroup (s.tspec t) (.task t.id) 0 0 0 0 n
    ((s.kPlace none (s.taskPart t) (clusterOf n) (s.tspec t).kmem).getD 0) true = r at hg htasks hhands
  obtain ⟨s2, slot⟩ := r
  obtain ⟨hgroups3, htasks3, hcores3⟩ := s2.serveFor_stands (s.tspec t)
  generalize hs3 : s2.serveFor (s.tspec t) = s3 at hgroups3 htasks3 hcores3
  have hexec : exec (.taskStart n) s = .next (s3.trace n (s.tspec t).ctx (((s3.team (slot * 16)).map (·.place)).getD 0) 7
      (taskKind t.dws * 2 ^ 38 + taskPrio t.dws * 2 ^ 35 + (t.bank % 16) * 2 ^ 14 + t.idx)) := by
    show execTaskStart n s = _
    unfold execTaskStart
    rw [ht]
    dsimp only
    rw [← hs1, hr, ← hs3]
    rfl
  have hkeep := s3.trace_keeps n (s.tspec t).ctx (((s3.team (slot * 16)).map (·.place)).getD 0) 7
    (taskKind t.dws * 2 ^ 38 + taskPrio t.dws * 2 ^ 35 + (t.bank % 16) * 2 ^ 14 + t.idx)
  refine ⟨_, g, hexec, ?_, horigin, hcore, hctx, fun x hx => ?_, ?_⟩
  · rw [hkeep.2.1, hgroups3]
    exact hg
  · rw [hkeep.2.2.2.2.2.2.2.2.2.1, htasks3, htasks] at hx
    exact hst1 x hx
  · rw [(s3.trace_sameHands _ _ _ _ _).trans (.refl _) n, State.SameHands.of_cores hcores3 n, hhands n]
    exact hhand1

/-! ### Deadlines (R49, R474) -/

/-- A record placed in the Bar is where it was placed, as it was given. -/
theorem State.placeRec_placed (s : State) (r : Rec) (d i : Nat) :
    ∃ q ∈ (s.placeRec r d i).1.recs, q.die = d ∧ q.idx = i ∧ q.st = r.st ∧ q.fault = r.fault ∧ q.ctx = r.ctx :=
  ⟨_, s.placeRec_mem r d i, rfl, rfl, rfl, rfl, rfl⟩

/-- TASK_DEADLINE_EXPIRY: the task leaves the Deck, and its kill report is in the Bar where there is room. -/
theorem exec_taskDeadlineExpiry {s : State} {n : Nat} {t : Task} (ht : s.task n = some t) (hbank : t.bank ≠ 16) (hlate : s.taskLate t = true) :
    ∃ s' : State, exec (.taskDeadlineExpiry n) s = .next s' ∧ (∀ x ∈ s'.tasks, x.id ≠ n) ∧
      ∀ d i, s.barPlace t.die (s.ctx (taskCtx t.dws)).part 0 1 = some (d, i) →
        ∃ r ∈ s'.recs, r.die = d ∧ r.idx = i ∧ r.st = .report ∧ r.fault.cls = .deadlineExpired ∧ r.ctx = taskCtx t.dws := by
  refine ⟨(s.dropTask t.id).taskReport t (mkF .deadlineExpired .none (taskDeadline t.dws) 0), ?_, fun x hx => ?_, fun d i hplace => ?_⟩
  · show execTaskDeadlineExpiry n s = _
    unfold execTaskDeadlineExpiry
    rw [ht]
    exact if_pos ⟨hbank, hlate⟩
  · have htasks : ((s.dropTask t.id).taskReport t (mkF .deadlineExpired .none (taskDeadline t.dws) 0)).tasks = (s.dropTask t.id).tasks :=
      (State.report_keeps _ _ _).2.2.2.2.2.2.2.2.2.1
    rw [htasks] at hx
    have hne := (List.mem_filter.mp hx).2
    rw [State.task_id ht] at hne
    simpa using hne
  · have hplace' : (s.dropTask t.id).barPlace t.die ((s.dropTask t.id).ctx (taskCtx t.dws)).part 0 1 = some (d, i) := hplace
    unfold State.taskReport State.report
    dsimp only [State.newRec]
    rw [hplace']
    obtain ⟨q, hq, hdie, hidx, hst, hfault, hctx⟩ := State.placeRec_placed (s.dropTask t.id) _ d i
    exact ⟨q, hq, hdie, hidx, hst, by rw [hfault]; rfl, hctx⟩

/-- RECORD_DEADLINE_EXPIRY of a record whose deadline has come. -/
theorem exec_recordDeadlineExpiry {s : State} {n : Nat} {r : Rec} (hr : s.recs.find? (fun x => x.id == n) = some r)
    (hdl : r.deadline ≠ 0) (hcome : r.deadline ≤ s.usec) :
    (r.st = .report → exec (.recordDeadlineExpiry n) s = .next (s.freeRec r)) ∧
    (r.st ≠ .report → ∃ (s' : State) (q : Rec), exec (.recordDeadlineExpiry n) s = .next s' ∧ q ∈ s'.recs ∧ q.die = r.die ∧
      q.idx = r.idx ∧ q.st = .report ∧ q.fault.cls = .deadlineExpired) := by
  have hexec : exec (.recordDeadlineExpiry n) s = .next (s.expire r) := by
    show execRecordDeadlineExpiry n s = _
    unfold execRecordDeadlineExpiry
    rw [hr]
    exact if_pos ⟨hdl, hcome⟩
  rw [hexec]
  refine ⟨fun hst => next_congr (if_pos hst), fun hst => ?_⟩
  have hexp : s.expire r = (s.killWork r).toReport r (mkF .deadlineExpired .none r.deadline 0) := if_neg hst
  rw [hexp]
  obtain ⟨q, hq, hdie, hidx, hst, hfault, -⟩ := State.placeRec_placed (((s.killWork r).freeRec r).promote r) _ r.die r.idx
  exact ⟨_, q, rfl, hq, hdie, hidx, hst, by rw [hfault]; rfl⟩

/-! ### Budgets (R40, R48) -/

theorem Team.owe_of_running {t : Team} (h : t.isEnded = false) (f : FaultInfo) : t.owe f = { t with due := t.due ++ [f] } := by
  unfold Team.isEnded at h
  unfold Team.owe
  split
  next e => simp [e] at h
  next => rfl

/-- A run budget that runs out is due for every team of its group that has not ended. -/
theorem State.runOut_due {s : State} {g : Group} (hg : s.group g.slot = some g) (hbud : g.budget = some 0) (hexp : g.expired = false) :
    ((s.runOut g).group g.slot).map (fun x => x.expired) = some true ∧
    ∀ k t, s.team k = some t → t.gslot = g.slot → t.isEnded = false →
      (s.runOut g).team k = some { t with due := t.due ++ [budgetF (2 ^ g.budLog) s.uid] } := by
  unfold State.runOut
  rw [if_pos ⟨hbud, hexp⟩]
  refine ⟨?_, fun k t ht hslot hend => ?_⟩
  · have hmod := s.fresh.1.group_modGroup g.slot g.slot (fun x => { x with expired := true }) (fun _ => rfl)
    have hfresh : s.fresh.1.group g.slot = some g := hg
    rw [if_pos rfl, hfresh] at hmod
    exact congrArg (Option.map fun x : Group => x.expired) hmod
  · have hkey : (fun u : Team => u.key == k) ∘ (fun u => if u.gslot = g.slot then u.owe (budgetF (2 ^ g.budLog) s.fresh.2) else u) =
        fun u => u.key == k := by
      funext u
      simp only [Function.comp_apply]
      split
      · rw [Team.owe_key]
      · rfl
    have ht' : s.teams.find? (fun u => u.key == k) = some t := ht
    show (s.teams.map _).find? (fun u : Team => u.key == k) = _
    rw [List.find?_map, hkey, ht', Option.map_some, if_pos hslot, Team.owe_of_running hend]
    rfl

theorem State.group_slot {s : State} {n : Nat} {g : Group} (h : s.group n = some g) : g.slot = n := by simpa using List.find?_some h

/-- DISABLE_BUDGET_EXPIRY of a team in its core's file. -/
theorem State.pdEnd_due {s : State} {t : Team} (h : t.holds = true) :
    s.pdEnd t = (s.fresh.1).putTeam { t with pdis := false, pdLeft := 0, due := t.due ++ [budgetF (s.groupOf t).pdBud s.uid] } := by
  have hend : ({ t with pdis := false, pdLeft := 0 } : Team).isEnded = false := by
    unfold Team.holds at h
    unfold Team.isEnded
    dsimp only
    split
    next e => simp [e] at h
    next => rfl
  unfold State.pdEnd
  dsimp only
  rw [Team.owe_of_running hend]
  rfl

/-! ### Freezes that begin (R439, R443) -/

/-- A freeze of a context that begins holds the timers of its barriers, and leaves the teams. -/
theorem State.beginFreeze_begins {s : State} {c : Nat} (f : FaultInfo) (bar : Option BarrierKey) (hfree : (s.ctx c).freeze = none)
    (hrst : (s.ctx c).rst = 0) :
    ∃ z : Freeze, ((s.beginFreeze c f bar).ctx c).frozen = some f.cls ∧ ((s.beginFreeze c f bar).ctx c).freeze = some z ∧ z.bar = bar ∧
      z.f = f ∧ (s.beginFreeze c f bar).teams = s.teams ∧ ∀ x ∈ (s.beginFreeze c f bar).bars, s.barCtx x = some c → x.start = none := by
  unfold State.beginFreeze
  rw [if_neg (by simp [hfree, hrst])]
  dsimp only
  rw [State.ctx_modCtx, if_pos rfl]
  · refine ⟨_, rfl, rfl, rfl, rfl, rfl, fun x hx hctx => ?_⟩
    obtain ⟨y, -, rfl⟩ := List.mem_map.mp hx
    split at hctx
    next h => rw [if_pos h]
    next h => exact absurd hctx h
  · exact fun _ => rfl

/-- BARRIER_WATCHDOG_EXPIRY of a barrier whose context is known. -/
theorem exec_barrierWatchdogExpiry {s : State} {b : Barrier} {c : Nat} (hb : s.bars.find? (fun x => x.key == b.key) = some b)
    (hc : s.barCtx b = some c) : exec (.barrierWatchdogExpiry b.key) s = .next (if s.barLate b then
      s.beginFreeze c (mkF .watchdog .none ((s.diagVa c).getD 0) 0) (some b.key) else s) := by
  show execBarrierWatchdogExpiry b.key s = _
  unfold execBarrierWatchdogExpiry
  rw [hb]
  dsimp only
  rw [hc]
  cases s.barLate b <;> rfl

/-- STALEMATE of a partition whose window has passed. -/
theorem exec_stalemate {s : State} {p : Nat} (h : s.stale p = true) : exec (.stalemate p) s =
    .next (if (s.ctxsOf p).filter s.resident = [] then
      ((s.ctxsOf p).filter s.queuedWork).foldl State.askReset (s.modPart p (fun x => { x with lastStale := s.clk }))
    else ((s.ctxsOf p).filter s.resident).foldl State.stallCtx (s.modPart p (fun x => { x with lastStale := s.clk }))) := by
  show execStalemate p s = _
  unfold execStalemate
  dsimp only
  rw [h]
  split
  next h' => exact absurd h' (by decide)
  next => split <;> rfl

theorem State.askReset_rst (s : State) (c : Nat) : ((s.askReset c).ctx c).rst = if (s.ctx c).rst = 0 then 1 else (s.ctx c).rst := by
  unfold State.askReset
  rw [State.ctx_modCtx, if_pos rfl]
  · split <;> rfl
  · intro x
    split <;> rfl

/-! ### Context reset (R444) -/

/-- STOP leaves the context in its second stage, with no freeze. -/
theorem State.rstStop_ctx (s : State) (c : Nat) :
    ((s.rstStop c).ctx c).rst = 2 ∧ ((s.rstStop c).ctx c).frozen = none ∧ ((s.rstStop c).ctx c).freeze = none := by
  unfold State.rstStop
  dsimp only
  rw [State.ctx_modCtx, if_pos rfl]
  · exact ⟨rfl, rfl, rfl⟩
  · exact fun _ => rfl

/-- A team killed has ended; the other teams stand, and the context of every group. -/
theorem State.killTeam_ends (s : State) (t : Team) :
    (∀ k u, (s.killTeam t).team k = some u → if k = t.key then u.isEnded = true else s.team k = some u) ∧
      ∀ k, ((s.killTeam t).groupAt k).ctx = (s.groupAt k).ctx := by
  have hteams : ∃ u : Team, u.isEnded = true ∧ u.key = t.key ∧ (s.killTeam t).teams = (s.putTeam u).teams := by
    refine ⟨{ t with st := .ended (.killed t.pc), clause := none, rdDepth := 0, monitor := none, pdis := false, errs := [],
                     regs := { t.regs with v := [] } }, rfl, rfl, ?_⟩
    simp [State.killTeam, State.endTeam, State.putTeam]
  have hgroups : (s.killTeam t).groups = (s.modGroup t.gslot (fun g => { g with pool := g.pool + t.vcnt })).groups := by
    simp [State.killTeam, State.endTeam, State.modGroup]
  obtain ⟨u, hend, hkey, hteams⟩ := hteams
  refine ⟨fun k v hv => ?_, fun k => ?_⟩
  · rw [State.team_congr hteams, State.team_putTeam, hkey] at hv
    split
    next h =>
      rw [if_pos h] at hv
      obtain ⟨w, -, rfl⟩ := Option.map_eq_some_iff.mp hv
      exact hend
    next h => rwa [if_neg h] at hv
  · have hgroup : (s.killTeam t).group k = (s.modGroup t.gslot (fun g => { g with pool := g.pool + t.vcnt })).group k := by
      rw [State.group, State.group, hgroups]
    rw [State.groupAt, State.groupAt, hgroup, State.group_modGroup]
    · split
      · cases s.group k <;> rfl
      · rfl
    · exact fun _ => rfl

/-- Teams killed one after another: what has not ended stands as it stood, and is none of them. -/
theorem State.killTeams_end (s : State) (ts : List Team) :
    (∀ k u, (ts.foldl State.killTeam s).team k = some u → u.isEnded = true ∨ s.team k = some u ∧ ∀ t ∈ ts, t.key ≠ k) ∧
      ∀ k, ((ts.foldl State.killTeam s).groupAt k).ctx = (s.groupAt k).ctx := by
  induction ts generalizing s with
  | nil => exact ⟨fun k u hu => .inr ⟨hu, fun _ h => nomatch h⟩, fun _ => rfl⟩
  | cons t ts ih =>
    obtain ⟨hone, hctx⟩ := s.killTeam_ends t
    obtain ⟨hrest, hctxs⟩ := ih (s.killTeam t)
    refine ⟨fun k u hu => ?_, fun k => (hctxs k).trans (hctx k)⟩
    obtain hend | ⟨hu', hne⟩ := hrest k u hu
    · exact .inl hend
    · have hu1 := hone k u hu'
      split at hu1
      · exact .inl hu1
      next h => exact .inr ⟨hu1, List.forall_mem_cons.mpr ⟨Ne.symm h, hne⟩⟩

/-- KILL ends every team of the context. -/
theorem State.rstKill_kills (s : State) (c : Nat) :
    ((s.rstKill c).ctx c).rst = 3 ∧ ∀ k u, (s.rstKill c).team k = some u → (s.rstKill c).ctxOf u = c → u.isEnded = true := by
  constructor
  · unfold State.rstKill
    dsimp only
    rw [State.ctx_modCtx, if_pos rfl]
    exact fun _ => rfl
  · intro k u hu hctx
    obtain ⟨hends, hctxs⟩ := s.killTeams_end (s.teams.filter (fun t => s.ctxOf t == c && !t.isEnded))
    obtain hend | ⟨hu', hne⟩ := hends k u hu
    · exact hend
    · by_contra hgo
      have hctx' : s.ctxOf u = c := (hctxs u.gslot).symm.trans hctx
      have hmem : u ∈ s.teams.filter (fun t => s.ctxOf t == c && !t.isEnded) :=
        List.mem_filter.mpr ⟨List.mem_of_find?_eq_some hu', by simp [hctx', hgo]⟩
      exact hne u hmem (s.team_key k u hu')

theorem State.thaw_ctl (s : State) (c k : Nat) : ((s.thaw c).ctx k).ctl = (s.ctx k).ctl := by
  unfold State.thaw
  split
  · rfl
  · rw [State.ctx_modCtx]
    · split
      next h => rw [h]
      next => rfl
    · exact fun _ => rfl

theorem State.thaw_stands (s : State) (c : Nat) : (s.thaw c).recs = s.recs := by
  unfold State.thaw
  split <;> rfl

/-- Records freed one after another leave the Bar. -/
theorem State.freeRecs_gone (s : State) (rs : List Rec) :
    (∀ x ∈ (rs.foldl State.freeRec s).recs, x ∈ s.recs ∧ ∀ r ∈ rs, x.id ≠ r.id) ∧
      ∀ k, ((rs.foldl State.freeRec s).ctx k).ctl = (s.ctx k).ctl := by
  induction rs generalizing s with
  | nil => exact ⟨fun x hx => ⟨hx, fun _ h => nomatch h⟩, fun _ => rfl⟩
  | cons r rs ih =>
    obtain ⟨hrest, hctl⟩ := ih (s.freeRec r)
    refine ⟨fun x hx => ?_, fun k => (hctl k).trans (State.thaw_ctl _ _ _)⟩
    obtain ⟨hx1, hne⟩ := hrest x hx
    have hx2 : x ∈ s.recs.filter (fun x => x.id != r.id) := by
      unfold State.freeRec at hx1
      rwa [State.thaw_stands] at hx1
    obtain ⟨hmem, hid⟩ := List.mem_filter.mp hx2
    exact ⟨hmem, List.forall_mem_cons.mpr ⟨by simpa using hid, hne⟩⟩

/-- Tasks dropped one after another leave the Deck, and nothing else of what a reset clears changes. -/
theorem State.dropTasks_gone (s : State) (ids : List Nat) :
    (∀ t ∈ (ids.foldl State.dropTask s).tasks, t ∈ s.tasks ∧ t.id ∉ ids) ∧ (ids.foldl State.dropTask s).recs = s.recs ∧
      (ids.foldl State.dropTask s).ctxs = s.ctxs := by
  induction ids generalizing s with
  | nil => exact ⟨fun t ht => ⟨ht, List.not_mem_nil⟩, rfl, rfl⟩
  | cons i ids ih =>
    obtain ⟨hrest, hrecs, hctxs⟩ := ih (s.dropTask i)
    refine ⟨fun t ht => ?_, hrecs, hctxs⟩
    obtain ⟨ht1, hne⟩ := hrest t ht
    obtain ⟨hmem, hid⟩ := List.mem_filter.mp ht1
    exact ⟨hmem, fun h => (List.mem_cons.mp h).elim (by simpa using hid) hne⟩

theorem State.endRun_ctl (s : State) (c k : Nat) : ((s.endRun c).ctx k).ctl = (s.ctx k).ctl := by
  unfold State.endRun
  split
  · dsimp only
    rw [State.ctx_congr (State.relRecord_keeps _ _ _ _ _ _ _ _ _).2.2.1, State.ctx_modCtx]
    · split
      next h => rw [h]
      next => rfl
    · exact fun _ => rfl
  · rfl

/-- CLEAR leaves nothing of the context but its enabling. -/
theorem State.rstClear_clears (s : State) (c : Nat) :
    ((s.rstClear c).ctx c).rst = 0 ∧ ((s.rstClear c).ctx c).en = (s.ctx c).en ∧ (∀ r ∈ (s.rstClear c).recs, r.ctx ≠ c) ∧
      (∀ t ∈ (s.rstClear c).tasks, taskCtx t.dws ≠ c) ∧ (∀ l ∈ (s.rstClear c).launches, l.ctx ≠ c) ∧
      ∀ e ∈ (s.rstClear c).dfl, e.ctx ≠ c := by
  obtain ⟨hrecs, hctl⟩ := s.freeRecs_gone (s.recs.filter (fun r => r.ctx == c))
  generalize hs1 : (s.recs.filter (fun r => r.ctx == c)).foldl State.freeRec s = s1 at hrecs hctl
  obtain ⟨htasks, hrecs2, hctxs2⟩ := s1.dropTasks_gone ((s1.tasks.filter (fun t => taskCtx t.dws == c)).map (fun t => t.id))
  generalize hs2 : ((s1.tasks.filter (fun t => taskCtx t.dws == c)).map (fun t => t.id)).foldl State.dropTask s1 = s2 at htasks hrecs2 hctxs2
  unfold State.rstClear
  dsimp only
  rw [hs1, hs2]
  generalize hs4 : State.endRun _ c = s4
  have hrecs4 : s4.recs = s2.recs := by
    rw [← hs4]
    exact (State.endRun_keeps _ c).2.2.2.2.2.2.2.2.1
  have htasks4 : s4.tasks = s2.tasks := by
    rw [← hs4]
    exact (State.endRun_keeps _ c).2.2.2.2.2.2.2.2.2.1
  have hdfl4 : s4.dfl = s2.dfl.filter (fun e => e.ctx != c) := by
    rw [← hs4]
    exact (State.endRun_keeps _ c).2.2.2.2.2.2.2.2.2.2.2.1
  have hlaunches4 : s4.launches = s2.launches.filter (fun l => l.ctx != c) := by
    rw [← hs4]
    exact (State.endRun_ends _ c).2.1
  have hctl4 : (s4.ctx c).ctl = (s.ctx c).ctl := by
    rw [← hs4, State.endRun_ctl, ← hctl c, ← State.ctx_congr hctxs2 c]
    rfl
  refine ⟨?_, ?_, fun r hr hctx => ?_, fun t ht hctx => ?_, fun l hl hctx => ?_, fun e he hctx => ?_⟩
  · rw [State.modCtx, State.ctx_putCtx]
    exact congrArg Ctx.rst (if_pos rfl)
  · have hself := (State.ctx_putCtx s4 { Ctx.init c with
      ctl := setFld (Ctx.init c).ctl 63 63 (b2n (s4.ctx c).en), handlers := (s4.ctx c).handlers } c).trans (if_pos rfl)
    have hen : (s4.ctx c).en = (s.ctx c).en := congrArg (flag · 63) hctl4
    rw [State.modCtx, hself, ← hen]
    show flag (setFld (Ctx.init c).ctl 63 63 (b2n (s4.ctx c).en)) 63 = _
    rw [flag_setFld_top]
    cases (s4.ctx c).en <;> rfl
  · obtain ⟨hr1, hne⟩ := hrecs r (hrecs2 ▸ hrecs4 ▸ hr)
    exact hne r (List.mem_filter.mpr ⟨hr1, by simpa using hctx⟩) rfl
  · obtain ⟨ht1, hne⟩ := htasks t (htasks4 ▸ ht)
    exact hne (List.mem_map_of_mem (List.mem_filter.mpr ⟨ht1, by simpa using hctx⟩))
  · have hl' : l ∈ s2.launches.filter (fun l => l.ctx != c) := hlaunches4 ▸ hl
    simp [hctx] at hl'
  · have he' : e ∈ s2.dfl.filter (fun e => e.ctx != c) := hdfl4 ▸ he
    simp [hctx] at he'

/-- Settles O55: each event changes what its rule names (the lemmas above), and leaves the machine where its condition does not hold;
a context's teams that KILL ends are followed by their numbers through the fold (`State.killTeams_end`). -/
theorem faultAndDeckEvents : Obligations.FaultAndDeckEvents := by
  intro s n
  refine ⟨fun r hr => exec_faultTaskRaise hr, fun p r hpend hsent hin hr => ⟨fun m hcls hm hother hmod => ?sendPeer, fun hhere =>
      ⟨fun hfull => ?waits, fun die bank i hfree hrst hxd => ?sendHere⟩⟩, fun x q hpend hin => ?take, fun p dws sl rm since hin => ?refuse,
    ⟨fun h => ?noDispatch, fun t ht => exec_deckDispatch ht⟩, ⟨fun h => ?noStart, fun t ht => exec_taskStart ht⟩, ?aging,
    fun t ht => ⟨fun h => ?notLate, fun hbank hlate => exec_taskDeadlineExpiry ht hbank hlate⟩,
    fun r hr => ⟨fun h => ?notCome, fun hdl hcome => exec_recordDeadlineExpiry hr hdl hcome⟩, fun t ht => ?faultTask,
    fun g hg => ?budget, fun t ht => ?disable, fun b c hb hc => ?watchdog, ?stalemate,
    ⟨_, rfl, s.askReset_rst n, rfl, rfl⟩, fun hrst => ?noReset, fun hrst => ?stop, fun hrst => ?kill, fun hrst => ?settle, fun hrst => ?clear⟩
  case sendPeer =>
    obtain ⟨hp, htasks, hin'⟩ := State.sendPend_peer hpend hr hcls hm hother hmod
    exact ⟨_, exec_pendingFaultTaskSend hpend hsent (hin'.trans hin), hp, htasks⟩
  case waits =>
    have hstay := (State.sendPend_here hpend hr hhere).1 hfull
    exact (exec_pendingFaultTaskSend hpend hsent ((congrArg State.inTasks hstay).trans hin)).trans (next_congr hstay)
  case sendHere =>
    obtain ⟨t, htasks, hbank, hidx, hdie, hdws, hp, hin'⟩ := (State.sendPend_here hpend hr hhere).2 die bank i hfree hrst hxd
    exact ⟨_, t, exec_pendingFaultTaskSend hpend hsent (hin'.trans hin), htasks, hbank, hidx, hdie, hdws, hp⟩
  case take =>
    show execPendingFaultTaskSend s = _
    have hall : ((s.pend.map s.pendDest).dedup).foldl State.sendNext s = s := by
      rw [hpend]
      rfl
    rw [execPendingFaultTaskSend, hall, hin]
  case refuse =>
    have hexec : exec (.faultBankFullRefusal n) s = execFaultBankFullRefusal n s := rfl
    rw [hexec, execFaultBankFullRefusal, hin]
    refine ⟨fun h => if_neg ?_, fun hwait h0 h1 => if_pos ⟨hwait, by rw [h0]; rfl, by rw [h1]; rfl⟩⟩
    rintro ⟨hwait, h0, h1⟩
    obtain h | h | h := h
    · exact absurd hwait (Nat.not_lt.mpr h)
    · simp_all
    · simp_all
  case noDispatch =>
    show execDeckDispatch n s = _
    rw [execDeckDispatch, h]
  case noStart =>
    show execTaskStart n s = _
    rw [execTaskStart, h]
  case aging =>
    refine ⟨_, rfl, List.length_map _, fun i h => ?_⟩
    rw [List.getElem?_map, List.getElem?_eq_getElem h]
    rfl
  case notLate =>
    show execTaskDeadlineExpiry n s = _
    rw [execTaskDeadlineExpiry, ht]
    exact if_neg (by rintro ⟨hbank, hlate⟩; simp_all)
  case notCome =>
    show execRecordDeadlineExpiry n s = _
    rw [execRecordDeadlineExpiry, hr]
    exact if_neg (by rintro ⟨hdl, hcome⟩; omega)
  case faultTask =>
    have hexec : exec (.faultTaskDeadlineExpiry n) s = execFaultTaskDeadlineExpiry n s := rfl
    rw [hexec, execFaultTaskDeadlineExpiry, ht]
    exact ⟨fun h => if_neg (by rintro ⟨hbank, hlate⟩; simp_all), fun hbank hlate => if_pos ⟨hbank, hlate⟩⟩
  case budget =>
    have hexec : exec (.runBudgetExpiry n) s = .next (s.runOut g) := by
      show execRunBudgetExpiry n s = _
      rw [execRunBudgetExpiry, hg]
    obtain rfl := State.group_slot hg
    rw [hexec]
    exact ⟨fun h => next_congr (if_neg (by rintro ⟨hbud, hexp⟩; simp_all)), fun hbud hexp => ⟨_, rfl, State.runOut_due hg hbud hexp⟩⟩
  case disable =>
    have hexec : exec (.disableBudgetExpiry n) s = execDisableBudgetExpiry n s := rfl
    rw [hexec, execDisableBudgetExpiry, ht]
    refine ⟨fun h => if_neg (by simpa [imp_iff_not_or] using h), fun hout hholds => (if_pos (by simp [hout, hholds])).trans
      (next_congr (State.pdEnd_due hholds))⟩
  case watchdog =>
    rw [exec_barrierWatchdogExpiry hb hc]
    refine ⟨fun h => next_congr (if_neg (by simp [h])), fun h hfree hrst => ?_⟩
    obtain ⟨z, hfrozen, hfreeze, hbar, hf, hteams, hbars⟩ := State.beginFreeze_begins
      (mkF .watchdog .none ((s.diagVa c).getD 0) 0) (some b.key) hfree hrst
    exact ⟨_, z, next_congr (if_pos h), hfrozen, hfreeze, hbar, by rw [hf]; rfl, hteams, hbars⟩
  case stalemate =>
    refine ⟨fun h => ?_, fun h c hres hfree hrst => ?_, fun h hres c hwork hrst => ?_⟩
    · show execStalemate n s = _
      rw [execStalemate]
      exact if_pos (by simp [h])
    · obtain ⟨z, hfrozen, hfreeze, -, hf, hteams, -⟩ := State.beginFreeze_begins
        (s := s.modPart n (fun x => { x with lastStale := s.clk })) (mkF .stalemate .none 0 0) none hfree hrst
      have hone : ((s.ctxsOf n).filter s.resident).foldl State.stallCtx (s.modPart n (fun x => { x with lastStale := s.clk })) =
          (s.modPart n (fun x => { x with lastStale := s.clk })).beginFreeze c (mkF .stalemate .none 0 0) none := by
        rw [hres]
        exact if_neg (not_not.mpr hrst)
      refine ⟨_, z, (exec_stalemate h).trans (next_congr ((if_neg (by simp [hres])).trans hone)), hfrozen, hfreeze, by rw [hf]; rfl, hteams⟩
    · have hone : ((s.ctxsOf n).filter s.queuedWork).foldl State.askReset (s.modPart n (fun x => { x with lastStale := s.clk })) =
          (s.modPart n (fun x => { x with lastStale := s.clk })).askReset c := by
        rw [hwork]
        rfl
      refine ⟨_, (exec_stalemate h).trans (next_congr ((if_pos hres).trans hone)), (State.askReset_rst _ c).trans (if_pos hrst)⟩
  all_goals
    have hexec : exec (.contextResetProgress n) s = execContextResetProgress n s := rfl
    rw [hexec, execContextResetProgress, hrst]
  case noReset => rfl
  case stop => exact ⟨_, rfl, s.rstStop_ctx n⟩
  case kill => exact ⟨_, rfl, s.rstKill_kills n⟩
  case settle => exact ⟨fun h => if_neg (by simp [h]), fun h => if_pos h⟩
  case clear => exact ⟨_, rfl, s.rstClear_clears n⟩

end Sys2Proof.Machine
end
